-- ==== Sys2Proof/Word.lean ====
section
/-! DEFINITION. The plain word types of the Hogari 5440: bytes, 16-bit fields, 32-bit registers. -/

namespace Sys2Proof

/-- One byte of exchange memory, of an SPI transaction or of a radio frame. -/
abbrev Byte := BitVec 8

/-- A 16-bit word the manual treats as bits: the generation, the CRC, the effect LFSR. -/
abbrev Half := BitVec 16

/-- A 32-bit word the manual treats as bits: a register, the function bits, a wrapping count. -/
abbrev Reg := BitVec 32

end Sys2Proof
end

