-- ==== Sys2Proof/Syntax.lean ====
section
/-! DEFINITION. The commands the part takes: one constructor per row of spec/opcode_table.json, with
the operands that come from outside the part. A stage inside the part has none: what it works on
stands in the state. -/

namespace Sys2Proof

/-- The two motor bridges (R85). -/
inductive BridgeId where
  | a
  | b
deriving DecidableEq, Repr

/-- The two legs of an H-bridge, by motor terminal (R87). -/
inductive Leg where
  | one
  | two
deriving DecidableEq, Repr

/-- One constructor per row of the table of operations and events. -/
inductive Instr where
  -- SPI port and registers
  /-- WRITE_MEMORY (R2): the start address and the complete data bytes of the transaction. -/
  | writeMemory (addr : BitVec 16) (data : List Byte)
  /-- READ_MEMORY (R2): the start address and how many data bytes are clocked out. -/
  | readMemory (addr : BitVec 16) (count : Nat)
  /-- INVALID_COMMAND (R1): the command byte and how many complete bytes follow it. -/
  | invalidCommand (command : Byte) (more : Nat)
  /-- START (R8, R10): a CONTROL write with RUN = 1 and SOFT = 0. -/
  | start
  | startEnd
  | startRefused
  /-- TEARDOWN (R8, R12): a CONTROL write with RUN = 0 and SOFT = 0. -/
  | teardown
  /-- SOFT_RESET (R8, R13): a CONTROL write with SOFT = 1. -/
  | softReset
  | powerReset
  | brownoutReset
  | resetRewritesEnd
  | sweepWrite (value : Reg)
  | sweepTimerExpiry
  | sweepEnd
  | slotTake
  | registerWriteOther (number : Byte) (value : Reg)
  | noticeWrite (value : Reg)
  | noticeMaskWrite (value : Reg)
  | statusTimerExpiry
  | statusUpdateEnd
  -- orders, worked on the order the sweep has taken
  | throttleOrder
  | functions
  | stopOrder
  | setAction
  /-- INVOKE, SWITCH, RETURN (R37 to R41): the decision of the action at the head of the set manager. -/
  | invoke
  | switch
  | returnSet
  | refreshSet
  | loadLamps
  | loadRadio
  | play
  | hush
  | balance
  | holdBalance
  | resumeBalance
  | clearFaults
  | leaseTake
  | leaseRelease
  -- motion and traction
  /-- AXLE_EDGE (R48): the edge's polarity and its capture time in microseconds. -/
  | axleEdge (rising : Bool) (captureTime : BitVec 32)
  | stallTimerExpiry
  | regulationStep
  | balanceHeldTimerExpiry
  -- bridges
  | pwmPeriod
  | onPhaseEnd (bridge : BridgeId)
  | deadTimeExpiry (bridge : BridgeId) (leg : Leg)
  | blankingEnd (bridge : BridgeId)
  /-- CHOP (R91): the voltage at the bridge's sense input, in mV. -/
  | chop (bridge : BridgeId) (millivolts : Nat)
  /-- SHORT_DETECTION (R92): the lowest voltage at the sense input through the deglitch time, in mV, and how long
  after the high side's turn-on that time began, in 1/1024 us. -/
  | shortDetection (bridge : BridgeId) (millivolts since : Nat)
  -- radio frames, worked on the accepted frame being handled
  | throttleFrame
  | funcFrame
  | stopFrame
  | setFrame
  | beaconFrame
  | consistJoin
  | consistLeave
  | releaseFrame
  | serviceWrite
  | serviceWriteDone
  | passFrame
  | gapTimerExpiry
  /-- REPEAT_WINDOW_EXPIRY (R119): the sender whose entry's window expires. -/
  | repeatWindowExpiry (sender : BitVec 16)
  | failsafeExpiry
  | lapseExpiry
  | dwellTimerExpiry
  -- sound
  | sampleTimerExpiry
  | mixerFrame
  -- lamps and smoke
  | effectTimerExpiry
  | lampPwmPeriod (lamp : Fin 10)
  /-- LAMP_OVERCURRENT (R171): the lowest current through the 20 us, in mA, and how long after the start of the
  on-time they began, in 1/1024 us. -/
  | lampOvercurrent (lamp : Fin 10) (milliamps since : Nat)
  | lampRetryExpiry (lamp : Fin 10)
  | openLoadExpiry (lamp : Fin 10)
  /-- HEATER_TIMER_EXPIRY (R174, R177): the thermistor code read on SMT. -/
  | heaterTimerExpiry (thermistor : BitVec 10)
  | puffTimerExpiry
  | purgeTimerExpiry
  /-- FAN_OVERCURRENT (R182): the lowest fan current through the 20 us, in mA, and how long after the high side's
  turn-on they began, in 1/1024 us. -/
  | fanOvercurrent (milliamps since : Nat)
  -- supply
  /-- SUPPLY_SAMPLE (R184): the voltages at VTRK and VSTO, in mV. -/
  | supplySample (vtrk vsto : Nat)
  /-- DIE_TEMPERATURE_EXPIRY (R184, R190): the die temperature in degrees Celsius. -/
  | dieTemperatureExpiry (celsius : Int)
  /-- RXD_BYTE (R115, R116): the eight data bits and the stop bit (low is a framing error). -/
  | rxdByte (byte : Byte) (stopBit : Bool)
  /-- LAMP_ON_TIME_END (R163, R172): the current at the end of the on-time, in mA. -/
  | lampOnTimeEnd (lamp : Fin 10) (milliamps : Nat)
  | fanPwmPeriod
deriving DecidableEq, Repr

end Sys2Proof
end

