-- ==== Sys2Proof/Decode.lean ====
section
/-! DEFINITION. Which command a word or an SPI transaction spells. No row of the command table gives bits,
so no word spells one; the bytes of a transaction do (R1 to R3, R8). -/

namespace Sys2Proof

/-- The command a word spells by the table's bits: the table gives none. -/
def decodeTableWord (_nbits _w : Nat) : Option Instr := none

/-- The four data bytes of a register write, low byte first (R3). -/
def registerValue (b0 b1 b2 b3 : BitVec 8) : BitVec 32 := b3 ++ b2 ++ b1 ++ b0

/-- A CONTROL write (R8): SOFT is bit 2, RUN bit 0. -/
def controlCommand (value : BitVec 32) : Instr :=
  if value.getLsbD 2 then .softReset else if value.getLsbD 0 then .start else .teardown

/-- A register write (R3). -/
def registerCommand (number : BitVec 8) (value : BitVec 32) : Instr :=
  if number = 1 then controlCommand value
  else if number = 2 then .sweepWrite value
  else if number = 3 then .noticeWrite value
  else if number = 4 then .noticeMaskWrite value
  else .registerWriteOther number value

/-- The command of a transaction whose complete MOSI bytes are given (R1 to R3). None: it changes nothing
(no byte complete, an address or a register write incomplete, a register read). The turnaround byte of a
read is not counted as data. -/
def spiCommand (mosi : List (BitVec 8)) : Option Instr :=
  match mosi with
  | [] => none
  | command :: rest =>
    if command = 1 then
      match rest with
      | lo :: hi :: data => some (.writeMemory (hi ++ lo) data)
      | _ => none
    else if command = 2 then
      match rest with
      | lo :: hi :: _turnaround :: data => some (.readMemory (hi ++ lo) data.length)
      | _ => none
    else if command = 3 then
      match rest with
      | number :: b0 :: b1 :: b2 :: b3 :: _ => some (registerCommand number (registerValue b0 b1 b2 b3))
      | _ => none
    else if command = 4 then none
    else some (.invalidCommand command rest.length)

end Sys2Proof
end

