-- ==== Sys2Proof/Config.lean ====
section
/-! DEFINITION. The free values: what the manual leaves open although the part goes on. Each is a
constant without a body, applied to the count of free values already drawn or to the numbers it depends on,
so that a claim holds whatever it is. -/

namespace Sys2Proof.Config

/-- DESIGN CHOICE (log 6). The byte the part sends on MISO where R1 to R3 state none: during the
address and register-number bytes, and during the data bytes of a write. -/
opaque misoByte : Nat → Byte

/-- DESIGN CHOICE (log 8). What the zone-cap field of the status record holds once the zone record
has been emptied (R25, R133 state no value). -/
opaque emptyZoneCap : Nat → Half

/-- DESIGN CHOICE (log 2). How many of the part's own waiting word accesses the XM arbiter (R6)
grants during one idle step. -/
opaque idleGrants : Nat → Nat

/-- DESIGN CHOICE (log 56). The effect brightness of a STROBE or ROTARY lamp of a level and a rate whose phase lies
beyond its cycle: R166 states none. -/
opaque strayBrightness : Nat → Nat → Nat → Byte

/-- DESIGN CHOICE (log 56). The phase that follows a phase beyond a cycle of so many effect periods: R166 states
none; a phase is a number from 0 to 509 (R161). -/
opaque strayPhase : Nat → Nat → Fin 510

end Sys2Proof.Config
end

