-- ==== Sys2Proof/Machine/State.lean ====
section
/-! DEFINITION. The state of the Hogari 5440: one structure per block of the manual (00_scope.md 2.2),
plain data throughout, and the state right after a POWER reset. -/

namespace Sys2Proof.Machine

/-- Exchange memory (R4): addresses strictly rising, no byte 0 listed; an unlisted address reads 0. -/
abbrev Memory := List Host.Cell

/-- A one-shot timer: stopped, or the clock value at which it expires. -/
abbrev Timer := Option Nat

/-! ## Shared names -/

/-- 00_scope.md 5.6. -/
inductive Direction where
  | forward
  | reverse
deriving DecidableEq, Repr

/-- R8, R9. -/
inductive RunState where
  | quiet
  | run
deriving DecidableEq, Repr

/-- The outcome codes of R20. -/
inductive OutcomeCode where
  | ok | adjusted | unknownKind | badIndex | notValid | setBusy | chainFull | chainEmpty | notHolder
  | busy | noRun | notStopped | noVoice | badClip | notRunning | noSensor | denied | aborted
  | failedNoMotion | failedFault | failedSensor | reset
deriving DecidableEq, Repr

/-- The reasons of radio-log records (R137). -/
inductive Reason where
  | outcome (o : OutcomeCode)
  | inConsist | outOfWindow | malformed | written | passed | zoneIn | zoneClear | stationStart
  | stationEnd | stationCancelled | joined | left
deriving DecidableEq, Repr

/-- The pending bits of NOTICE (R22), bit 0 first. -/
inductive NoticeBit where
  | order | radio | stream | fault | supply | control | beacon | logFull
deriving DecidableEq, Repr

/-- The requesters of the arbiter's rotation (R6); the sound fetch goes before them all. -/
inductive Requester where
  | hostPort | orderEngine | statusWriter | radioWriter
deriving DecidableEq, Repr

/-! ## Host port, order engine, status writer (chapter 1) -/

/-- What a start still has to load (R10), in order. -/
inductive StartStage where
  | anchor | radioBlock | lampTable | baseSet | loaded
deriving DecidableEq, Repr

/-- A start in flight (R10, R11): the stage, the word addresses of it still to be read, the words
read, the base-set index once the anchor has been read, and a recorded stop request. -/
structure StartJob where
  stage : StartStage
  todo : List Nat
  image : Memory
  baseIndex : Nat
  stopRequest : Bool
deriving DecidableEq, Repr

/-- One of the part's own accesses after a reset (R13 to R15). -/
inductive ResetTask where
  /-- Clears exchange memory word by word from this address on (R14). -/
  | clearFrom (addr : Nat)
  | writeFamily
  | writeRevision
  | writeCause (code : Byte)
  /-- Reads the state byte of a slot (R15, 1); a TAKEN or HELD slot is rewritten by the next two. -/
  | readSlot (slot : Nat)
  | writeSlotOutcome (slot : Nat)
  | writeSlotDone (slot : Nat)
  /-- Reads the kind of a clip entry (R15, 2); a STREAM entry's segments are seen to by the next. -/
  | clip (index : Nat)
  /-- Reads the segment bytes of a STREAM entry, one word, and replaces the PLAYING ones (R15, 2). -/
  | segments (index : Nat)
  /-- Sets the log write index to the read index (R15, 3). -/
  | logIndex
  /-- Starts the status writer's reset update (R15, 4). -/
  | beginStatus
deriving DecidableEq, Repr

/-- A reset's writes in progress (R13), and what was requested meanwhile. -/
structure ResetJob where
  todo : List ResetTask
  sweepRequest : Bool
  startRequest : Bool
deriving DecidableEq, Repr

structure Port where
  run : RunState
  start : Option StartJob
  /-- A teardown that waits for the set actions in flight (R37). -/
  teardownPending : Bool
  startFault : OutcomeCode
  reset : Option ResetJob
  notice : BitVec 8
  mask : BitVec 8
  /-- The bytes sent on MISO during the last transaction, from its command byte on. -/
  miso : List Byte
deriving DecidableEq, Repr

/-- A table load made word by word (R4, R31): where the table or record begins, the word addresses still to
be read, and the words read. -/
structure TableLoad where
  base : Nat
  todo : List Nat
  image : Memory
deriving DecidableEq, Repr

/-- The order engine's copy of a taken order (R18), with the load that a LOAD_LAMPS or LOAD_RADIO order has
begun (R4). -/
structure TakenOrder where
  slot : Nat
  kind : Nat
  tag : Half
  params : List Byte
  load : Option TableLoad
deriving DecidableEq, Repr

/-- A sweep in progress (R17, R18): the slot it looks at, the bytes of that slot copied so far (none
while its first word has not been read), and the taken order now being carried out. -/
structure Sweep where
  pos : Nat
  copy : Option (List Byte)
  current : Option TakenOrder
deriving DecidableEq, Repr

structure OrderEngine where
  /-- In ms; 0 is off (R5). -/
  period : Nat
  sweep : Option Sweep
  again : Bool
  /-- The set of held slots (R18), without repeats. -/
  held : List Nat
deriving DecidableEq, Repr

structure StatusWriter where
  generation : Half
  /-- The next word of the record to write, while an update is in progress (R24). -/
  updating : Option Nat
  deferred : Bool
  faultCount : Byte
deriving DecidableEq, Repr

/-- The periodic timers (00_scope.md 2.4): the clock value of the next expiry. -/
structure Timers where
  /-- Stopped when the sweep period is 0 (R5). -/
  sweep : Timer
  status : Nat
  regulation : Nat
  sample : Nat
  /-- The mixer frame's end: every 64th sample expiry, 4 ms (R148; log 36). -/
  mixer : Nat
  effect : Nat
  heater : Nat
  supply : Nat
  die : Nat
  pwm : Nat
  fanPwm : Nat
deriving DecidableEq, Repr

/-! ## Set manager (chapter 2) -/

inductive StopMode where
  | brake | coast
deriving DecidableEq, Repr

inductive Freewheel where
  | slow | fast
deriving DecidableEq, Repr

inductive DirectionLock where
  | both | forwardOnly | reverseOnly
deriving DecidableEq, Repr

/-- The traction fields of a drive set (R28). -/
structure TractionSet where
  /-- C1 to C8. -/
  curve : List Nat
  maxRate : Nat
  accel : Nat
  decel : Nat
  kp : Nat
  ki : Nat
  dutyCap : Nat
  gain : Nat
  stopMode : StopMode
  freewheel : Freewheel
  lock : DirectionLock
  /-- None when the field holds FFH. -/
  entryThrottle : Option Nat
deriving DecidableEq, Repr

/-- A function trigger (R29). -/
structure Trigger where
  function : Nat
  clip : Nat
  hold : Bool
deriving DecidableEq, Repr

/-- The sound scheme of a drive set (R29). A clip index above 63 means none. -/
structure SoundSet where
  engineClip : Nat
  basePitch : Nat
  slope : Nat
  /-- The first (chuff clip count) entries, 1 to 4 of them. -/
  chuffClips : List Nat
  /-- The first (chuff point count) entries, 0 to 8 of them. -/
  chuffPoints : List Nat
  workVolume : Nat
  driftVolume : Nat
  driftDuty : Nat
  startClip : Nat
  stopClip : Nat
  hornClip : Nat
  triggers : List Trigger
deriving DecidableEq, Repr

/-- The lamp and smoke fields of a drive set (R30). -/
structure LampSet where
  mask : BitVec 10
  scale : Nat
  /-- Above 31 means none. -/
  smokeFunction : Nat
  idleSetpoint : Nat
  workSetpoint : Nat
  dryLimit : Nat
  fanIdle : Nat
  fanRun : Nat
  puffDuty : Nat
  /-- In ms. -/
  puffWidth : Nat
  /-- In s. -/
  purgeTime : Nat
deriving DecidableEq, Repr

/-- A drive-set record as clamped at its load (R27 to R31). -/
structure DriveSet where
  valid : Bool
  authority : Nat
  traction : TractionSet
  sound : SoundSet
  lamp : LampSet
deriving DecidableEq, Repr

/-- The request state (R121) and what a resume record saves of it (R34). -/
structure Request where
  throttle : Nat
  direction : Direction
  functions : Reg
deriving DecidableEq, Repr

structure ChainEntry where
  index : Nat
  resume : Option Request
deriving DecidableEq, Repr

inductive SetActionKind where
  | switch | invoke | returnSet | refresh
deriving DecidableEq, Repr

/-- A complete radio frame that has been taken apart (R117). -/
structure Frame where
  sender : Nat
  cls : Nat
  target : Nat
  seq : Nat
  kind : Nat
  payload : List Byte
deriving DecidableEq, Repr

/-- Who waits for the outcome of a set action (R36): an order slot or a SET frame. -/
inductive Requestor where
  | order (slot : Nat)
  | frame (f : Frame)
deriving DecidableEq, Repr

/-- An action of the set manager, from its arrival to its decision (R37). `load`, the staging copy (R31), is
none while the action waits for an earlier one. -/
structure SetAction where
  kind : SetActionKind
  index : Nat
  level : Nat
  source : Requestor
  load : Option TableLoad
deriving DecidableEq, Repr

structure SetManager where
  /-- Base first (R34). -/
  chain : List ChainEntry
  cache : Option DriveSet
  clamped : Bool
  /-- The action in flight first, then those that wait, in order of arrival. -/
  queue : List SetAction
deriving DecidableEq, Repr

/-! ## Motion unit (chapter 3) -/

inductive EdgeSelect where
  | rise | fall | both
deriving DecidableEq, Repr

inductive Sensor where
  | none | ok | lost
deriving DecidableEq, Repr

structure MotionConfig where
  edge : EdgeSelect
  magnets : Nat
  /-- In ms. -/
  window : Nat
deriving DecidableEq, Repr

structure Motion where
  cfg : MotionConfig
  lastEdge : Option (BitVec 32)
  /-- Periods in microseconds, oldest first (R50). -/
  ring : List Nat
  p : Nat
  m : Nat
  sensor : Sensor
  loss : Nat
  recovery : Nat
  phi : Nat
  stall : Timer
  mark : Bool
  edgeSinceStep : Bool
deriving DecidableEq, Repr

/-! ## Traction controller (chapter 4) -/

/-- R73. -/
inductive TractionState where
  | quiet | balance | faulted | held | estop | reversing | running | stopped
deriving DecidableEq, Repr

structure Traction where
  t : Nat
  c : Nat
  i : Nat
  u : Nat
  prev : Nat
  direction : Direction
  pending : Bool
  zeroHold : Nat
  latch : Bool
  lastSensor : Sensor
  state : TractionState
  /-- The m taken at the last step (R73). -/
  lastM : Nat
  /-- The lowest duty commanded in the regulation period so far, 0 where no bridge drove (R76). -/
  lowest : Nat
deriving DecidableEq, Repr

/-! ## Bridge unit (chapter 5) -/

inductive BridgeMode where
  | parallel | single
deriving DecidableEq, Repr

inductive ShortMode where
  | latch | cycle | report | ignore
deriving DecidableEq, Repr

inductive Independence where
  | ind | gang
deriving DecidableEq, Repr

structure BridgeConfig where
  mode : BridgeMode
  /-- 10, 20, 40 or 80. -/
  gain : Nat
  chopLevel : Nat
  shortLevel : Nat
  /-- In microseconds: 1, 2, 4 or 8. -/
  deglitch : Nat
  shortMode : ShortMode
  independence : Independence
deriving DecidableEq, Repr

/-- R87. -/
inductive BridgeState where
  | off | drive | brake | coast | latched
deriving DecidableEq, Repr

/-- What a DRIVE command carries (R75). -/
structure DriveParams where
  duty : Nat
  direction : Direction
  freewheel : Freewheel
deriving DecidableEq, Repr

/-- The command the traction controller handed last (R87). -/
inductive Command where
  | off
  | brake
  | coast
  | drive (p : DriveParams)
deriving DecidableEq, Repr

/-- The four gates of a bridge, by motor terminal (R87). -/
structure Gates where
  high1 : Bool
  low1 : Bool
  high2 : Bool
  low2 : Bool
deriving DecidableEq, Repr

/-- When each gate last turned off (R89); none when it has not since the reset. -/
structure GateTimes where
  high1 : Option Nat
  low1 : Option Nat
  high2 : Option Nat
  low2 : Option Nat
deriving DecidableEq, Repr

/-- Where a bridge in DRIVE stands in its PWM period (R89); `cut` is the rest of a period after a
CYCLE detection (R95), `idle` is out of DRIVE, or before the first period after a clear (R99). -/
inductive PwmPhase where
  | idle | onPhase | offPhase | cut
deriving DecidableEq, Repr

structure Bridge where
  state : BridgeState
  gates : Gates
  asked : Gates
  offAt : GateTimes
  phase : PwmPhase
  /-- The values of the running PWM period (R88). -/
  params : DriveParams
  periodStart : Nat
  onEnd : Timer
  /-- When the high side turned on in this on-phase. -/
  conduct : Option Nat
  blanking : Timer
  chopArmed : Bool
  /-- A short was detected in this PWM period (R92). -/
  detected : Bool
  chopRunning : Bool
  chopFlag : Bool
  shortRun : Nat
  episodes : Byte
deriving DecidableEq, Repr

structure BridgeUnit where
  cfg : BridgeConfig
  held : Command
  a : Bridge
  b : Bridge
deriving DecidableEq, Repr

/-! ## Balance sequencer (chapter 6) -/

/-- The run record (R102) of a run that exists. -/
structure BalanceRun where
  /-- HELD when set, RUNNING when clear. -/
  held : Bool
  slot : Nat
  /-- n, 1 to 4. -/
  steps : Nat
  /-- u1 to un, as clamped. -/
  duties : List Nat
  /-- The hold time in seconds, as clamped; N is 125 times it. -/
  holdTime : Nat
  direction : Direction
  /-- The current step i, from 1. -/
  step : Nat
  driving : Bool
  /-- The period count j. -/
  period : Nat
  sum : Nat
  count : Nat
  /-- The rates of the completed steps, r1 first. -/
  rates : List Nat
  adjusted : Bool
  heldTimer : Timer
  /-- The step index last written into the slot's step field, 0 if none (R108). -/
  written : Nat
deriving DecidableEq, Repr

structure Balance where
  run : Option BalanceRun
deriving DecidableEq, Repr

/-! ## Radio command unit (chapter 7) -/

structure RadioConfig where
  /-- 0 when the part has no own address. -/
  own : Nat
  /-- F, in ms. -/
  failsafeMs : Nat
  leaseMs : Nat
  windowStart : Nat
  windowEnd : Nat
deriving DecidableEq, Repr

inductive Role where
  | lead | mid | trail
deriving DecidableEq, Repr

structure Consist where
  number : Nat
  role : Role
  reversed : Bool
deriving DecidableEq, Repr

/-- The lease holder record (R122); `lastHeard` is a clock value. -/
inductive Lease where
  | none
  | radio (sender cls lastHeard : Nat)
  | onBoard (mark : Bool)
deriving DecidableEq, Repr

/-- The zone record (R133). While it is empty `zone` is 0, and `cap` is only what the status record
shows. -/
structure ZoneRecord where
  present : Bool
  zone : Nat
  cap : Nat
deriving DecidableEq, Repr

/-- The passage record (R133); zone 0 is none. -/
structure Passage where
  zone : Nat
  horn : Bool
  station : Bool
deriving DecidableEq, Repr

/-- The station-stop state (R134), with the beacon that began the stop and the dwell timer. -/
inductive Station where
  | none
  | braking (f : Frame)
  | dwell (f : Frame) (ends : Nat)
deriving DecidableEq, Repr

/-- The receiver (R116): in BODY, LEN and the bytes stored so far. -/
inductive Receiver where
  | hunt
  | length
  | body (len : Nat) (bytes : List Byte)
deriving DecidableEq, Repr

/-- An entry of the repeat table (R119); the window runs while the mark is clear. -/
structure RepeatEntry where
  sender : Nat
  seq : Nat
  stale : Bool
  window : Timer
deriving DecidableEq, Repr

structure Radio where
  cfg : RadioConfig
  consist : Consist
  request : Request
  lease : Lease
  failsafe : Bool
  zone : ZoneRecord
  passage : Passage
  station : Station
  receiver : Receiver
  gap : Timer
  /-- Most recently heard first. -/
  repeats : List RepeatEntry
  /-- The accepted frame whose kind is to be, or is being, handled (R118). -/
  handling : Option Frame
  /-- Frames completed since, not yet checked: SENDER to CRC. -/
  waiting : List (List Byte)
  /-- The bytes a service write has still to write (R130). -/
  service : Option (List Host.Cell)
  logIndex : Nat
  logSeq : Half
  overflow : Bool
deriving DecidableEq, Repr

/-! ## Sound engine (chapter 8) -/

/-- A clip directory entry as copied (R138), without the live segment bytes. -/
structure ClipEntry where
  format : Nat
  kind : Nat
  start : Nat
  length : Nat
  loopStart : Nat
  loopLength : Nat
  basePitch : Nat
  volume : Nat
deriving DecidableEq, Repr

inductive VoiceState where
  | idle | playing | fading | starved
deriving DecidableEq, Repr

inductive Starter where
  | order
  | function (entry : Nat) (hold : Bool)
  | event
  | chuff
  | engine
deriving DecidableEq, Repr

/-- R140. -/
structure Voice where
  state : VoiceState
  clip : Nat
  entry : ClipEntry
  /-- In 1/256 byte from the clip's start. -/
  position : Nat
  step : Nat
  volume : Nat
  envelope : Nat
  fadeStep : Nat
  /-- None is ENDLESS. -/
  repeats : Option Nat
  priority : Nat
  starter : Starter
  stamp : Reg
  lastSegment : Bool
deriving DecidableEq, Repr

/-- The uses of a clip as the last-bad-clip field codes them (11.2). -/
inductive ClipUse where
  | none | engine | chuff | start | stop | horn | function
deriving DecidableEq, Repr

structure Sound where
  voices : List Voice
  startCount : Reg
  rotation : Nat
  prevAngle : Nat
  /-- The master volume in force for this mixer frame. -/
  master : Nat
  /-- The sample last sent. -/
  sample : Int
  badClip : Option Nat
  badUse : ClipUse
deriving DecidableEq, Repr

/-! ## Lamp and smoke unit (chapter 9) -/

inductive DriveSide where
  | low | high
deriving DecidableEq, Repr

inductive DirectionCondition where
  | any | fwd | rev
deriving DecidableEq, Repr

inductive ConsistCondition where
  | any | leadOnly
deriving DecidableEq, Repr

inductive Effect where
  | steady | flicker | strobe | rotary | ditch | firebox
deriving DecidableEq, Repr

inductive OvercurrentMode where
  | latch | retry | report | ignore
deriving DecidableEq, Repr

inductive OpenLoadMode where
  | latch | report | ignore
deriving DecidableEq, Repr

/-- The copy of a lamp entry (R161). -/
structure LampCopy where
  /-- FUNCTION when set, DISABLED when clear. -/
  enabled : Bool
  side : DriveSide
  function : Nat
  direction : DirectionCondition
  consist : ConsistCondition
  effect : Effect
  level : Nat
  rate : Nat
  partner : Nat
  fadeStep : Nat
  openThreshold : Nat
  openEnable : Bool
  overMode : OvercurrentMode
  openMode : OpenLoadMode
deriving DecidableEq, Repr

inductive LampFault where
  | none | overcurrent | openLoad
deriving DecidableEq, Repr

structure Lamp where
  copy : LampCopy
  on : Bool
  phase : Nat
  flare : Nat
  /-- The displayed brightness. -/
  shown : Nat
  latched : LampFault
  retry : Timer
  overEpisode : Bool
  openEpisode : Bool
  openTimer : Timer
  lastKind : LampFault
  episodes : Byte
  /-- The output pin: driven or not. -/
  output : Bool
  /-- The on-time of the running PWM period, in microseconds (R163). -/
  onTime : Nat
  pwmDue : Nat
  /-- The current code at the end of the most recent on-time (R172). -/
  lastCode : Nat
  /-- An overcurrent was detected in this PWM period (R171). -/
  seenPwm : Bool
  /-- An overcurrent was detected since the last effect period (R171). -/
  seenEffect : Bool
deriving DecidableEq, Repr

inductive HeaterState where
  | off | preheat | regulate | dry
deriving DecidableEq, Repr

/-- R174. -/
structure Heater where
  state : HeaterState
  output : Bool
  lastT : Nat
  preheat : Nat
  noHeat : Bool
  dry : Bool
  sensor : Bool
deriving DecidableEq, Repr

inductive FanState where
  | off | run | puff | purge | latched
deriving DecidableEq, Repr

/-- The half-bridge of SMF (R181): its two sides, and when each last turned off; none when it has not since
the reset. -/
structure FanLeg where
  high : Bool
  low : Bool
  highOff : Option Nat
  lowOff : Option Nat
deriving DecidableEq, Repr

/-- R180, R181. -/
structure Fan where
  state : FanState
  /-- In RUN: the fan run duty when set, the fan idle duty when clear. -/
  fast : Bool
  puff : Timer
  purge : Timer
  /-- The duty driven on SMF in the running PWM period. -/
  drive : Nat
  periodStart : Nat
  /-- The half-bridge as it stood at `since`, the last moment at which what it is asked for was changed. -/
  leg : FanLeg
  since : Nat
deriving DecidableEq, Repr

structure LampUnit where
  lamps : List Lamp
  lfsr : Half
  effectCount : Reg
  heater : Heater
  fan : Fan
deriving DecidableEq, Repr

/-! ## Supply monitor (chapter 10) -/

inductive SupplyState where
  | normal | ride | down
deriving DecidableEq, Repr

structure SupplyConfig where
  lost : Nat
  weak : Nat
  s1 : Nat
  s2 : Nat
  s3 : Nat
  s4 : Nat
  /-- In ms. -/
  rideLimit : Nat
deriving DecidableEq, Repr

structure Supply where
  cfg : SupplyConfig
  vtrk : Nat
  vsto : Nat
  die : Int
  state : SupplyState
  level : Nat
  lost : Nat
  weak : Nat
  strong : Nat
  /-- The return count. -/
  back : Nat
  ride : Nat
  thermal : Nat
  shed : Nat
  charge : Bool
deriving DecidableEq, Repr

/-! ## The whole part -/

/-- No command of the part ends in a fault: every effect of the manual's faults is recorded in the
state (R25, R93, R139, R170). Raised by no command, so safe. -/
inductive Fault where
deriving DecidableEq, Repr

/-- No command of the part is refused. -/
inductive Refusal where
  /-- A command without a meaning yet; raised by exec's refused arms alone, of which there are none.
  Safe: the model stops. -/
  | notModelled (mnemonic : String)
deriving DecidableEq, Repr

structure State where
  /-- MODEL: the commands that wait, first in, first out. -/
  pending : List Instr
  /-- MODEL: time since the last reset, in 1/1024 us (log 1). -/
  clock : Nat
  /-- MODEL: how many free values have been drawn (log 6). -/
  free : Nat
  xm : Memory
  /-- The requester that the arbiter granted last from its rotation (R6). -/
  lastGranted : Requester
  port : Port
  orders : OrderEngine
  status : StatusWriter
  timers : Timers
  sets : SetManager
  motion : Motion
  traction : Traction
  bridges : BridgeUnit
  balance : Balance
  radio : Radio
  sound : Sound
  lamps : LampUnit
  supply : Supply
deriving DecidableEq, Repr

/-! ## Reset values -/

/-- Registers and state of chapter 1 after every reset (R13). `miso`: log 10. -/
def Port.atReset : Port where
  run := .quiet
  start := none
  teardownPending := false
  startFault := .ok
  reset := none
  notice := 0
  mask := 0
  miso := []

def OrderEngine.atReset : OrderEngine where
  period := 8
  sweep := none
  again := false
  held := []

def StatusWriter.atReset : StatusWriter where
  generation := 0
  updating := none
  deferred := false
  faultCount := 0

/-- Every timer runs from every reset with its period (00_scope.md 2.4; R24, R61, R89, R145, R164,
R174, R184), the sweep timer with 8 ms (R13), in clock units of 1/1024 us. The PWM timer of the fan is taken to
do the same (R181; DESIGN CHOICE, unsafe, log 52). -/
def Timers.atReset : Timers where
  sweep := some (8 * 1024000)
  status := 20 * 1024000
  regulation := 8 * 1024000
  sample := 64000
  mixer := 4 * 1024000
  effect := 16 * 1024000
  heater := 100 * 1024000
  supply := 1024000
  die := 100 * 1024000
  pwm := 51200
  fanPwm := 51200

/-- R35. -/
def SetManager.atReset : SetManager where
  chain := []
  cache := none
  clamped := false
  queue := []

/-- R47. -/
def Motion.atReset : Motion where
  cfg := { edge := .rise, magnets := 0, window := 500 }
  lastEdge := none
  ring := []
  p := 0
  m := 0
  sensor := .none
  loss := 0
  recovery := 0
  phi := 0
  stall := none
  mark := false
  edgeSinceStep := false

/-- R60. `lastM` and `lowest`: log 10. -/
def Traction.atReset : Traction where
  t := 0
  c := 0
  i := 0
  u := 0
  prev := 0
  direction := .forward
  pending := false
  zeroHold := 0
  latch := false
  lastSensor := .none
  state := .quiet
  lastM := 0
  lowest := 0

def Gates.none : Gates where
  high1 := false
  low1 := false
  high2 := false
  low2 := false

/-- R87, R93, R100. The PWM fields and `offAt`: log 10. -/
def Bridge.atReset : Bridge where
  state := .off
  gates := Gates.none
  asked := Gates.none
  offAt := { high1 := none, low1 := none, high2 := none, low2 := none }
  phase := .idle
  params := { duty := 0, direction := .forward, freewheel := .slow }
  periodStart := 0
  onEnd := none
  conduct := none
  blanking := none
  chopArmed := false
  detected := false
  chopRunning := false
  chopFlag := false
  shortRun := 0
  episodes := 0

/-- R85, R87, R100. -/
def BridgeUnit.atReset : BridgeUnit where
  cfg :=
    { mode := .parallel, gain := 10, chopLevel := 0, shortLevel := 4095, deglitch := 1
      shortMode := .latch, independence := .gang }
  held := .off
  a := Bridge.atReset
  b := Bridge.atReset

/-- R113, R116, R119, R121, R122, R133 to R136. The closed window's addresses: log 10; the cap
shown with no zone record: log 8. -/
def Radio.atReset : Radio where
  cfg := { own := 0, failsafeMs := 2000, leaseMs := 10000, windowStart := 0xFFFF, windowEnd := 0 }
  consist := { number := 0, role := .lead, reversed := false }
  request := { throttle := 0, direction := .forward, functions := 0 }
  lease := .none
  failsafe := false
  zone := { present := false, zone := 0, cap := 0 }
  passage := { zone := 0, horn := false, station := false }
  station := .none
  receiver := .hunt
  gap := none
  repeats := []
  handling := none
  waiting := []
  service := none
  logIndex := 0
  logSeq := 0
  overflow := false

/-- An IDLE voice; its other fields are without meaning (R140). -/
def Voice.idle : Voice where
  state := .idle
  clip := 0
  entry :=
    { format := 0, kind := 0, start := 0, length := 0, loopStart := 0, loopLength := 0
      basePitch := 0, volume := 0 }
  position := 0
  step := 0
  volume := 0
  envelope := 0
  fadeStep := 0
  repeats := some 0
  priority := 0
  starter := .order
  stamp := 0
  lastSegment := false

/-- R140, R160. `master`, `sample`: log 10. -/
def Sound.atReset : Sound where
  voices := List.replicate 8 Voice.idle
  startCount := 0
  rotation := 0
  prevAngle := 0
  master := 0
  sample := 0
  badClip := none
  badUse := .none

/-- R161. The output fields: log 10. -/
def Lamp.atReset : Lamp where
  copy :=
    { enabled := false, side := .low, function := 0, direction := .any, consist := .any
      effect := .steady, level := 0, rate := 0, partner := 0, fadeStep := 0, openThreshold := 0
      openEnable := false, overMode := .latch, openMode := .latch }
  on := false
  phase := 0
  flare := 0
  shown := 0
  latched := .none
  retry := none
  overEpisode := false
  openEpisode := false
  openTimer := none
  lastKind := .none
  episodes := 0
  output := false
  onTime := 0
  pwmDue := 1024 * 1024
  lastCode := 0
  seenPwm := false
  seenEffect := false

/-- R164, R174, R180. The fan's PWM fields: log 10. -/
def LampUnit.atReset : LampUnit where
  lamps := List.replicate 10 Lamp.atReset
  lfsr := 0xACE1
  effectCount := 0
  heater :=
    { state := .off, output := false, lastT := 0, preheat := 0, noHeat := false, dry := false
      sensor := false }
  fan :=
    { state := .off, fast := false, puff := none, purge := none, drive := 0, periodStart := 0
      leg := { high := false, low := false, highOff := none, lowOff := none }, since := 0 }

/-- R184 to R186, R190, R191. -/
def Supply.atReset : Supply where
  cfg :=
    { lost := 7000, weak := 11000, s1 := 14000, s2 := 12000, s3 := 10000, s4 := 8000
      rideLimit := 3000 }
  vtrk := 0
  vsto := 0
  die := 25
  state := .normal
  level := 0
  lost := 0
  weak := 0
  strong := 0
  back := 0
  ride := 0
  thermal := 0
  shed := 0
  charge := false

/-- Right after a POWER reset, its rewrites done (log 4): memory holds the identity fields, the reset
cause 01H and the status record of the reset update, whose generation is 2 (R13, R14, R24; 12.1). The
bytes other than 0 of that record: generation, the four chain positions (FFH), the holder class (FFH),
the last bad clip (FFH) and the die temperature (25). `lastGranted`: log 10. -/
def State.reset : State where
  pending := []
  clock := 0
  free := 0
  xm :=
    [(0x000, 0x40), (0x001, 0x54), (0x002, 0x01), (0x004, 0x01), (0x100, 0x02), (0x105, 0xFF),
     (0x106, 0xFF), (0x107, 0xFF), (0x108, 0xFF), (0x11E, 0xFF), (0x13B, 0xFF), (0x16C, 0x19)]
  lastGranted := .statusWriter
  port := Port.atReset
  orders := OrderEngine.atReset
  status := { StatusWriter.atReset with generation := 2 }
  timers := Timers.atReset
  sets := SetManager.atReset
  motion := Motion.atReset
  traction := Traction.atReset
  bridges := BridgeUnit.atReset
  balance := { run := none }
  radio := Radio.atReset
  sound := Sound.atReset
  lamps := LampUnit.atReset
  supply := Supply.atReset

end Sys2Proof.Machine
end

