-- ==== Sys2Proof/Machine/Ops.lean ====
section
/-! DEFINITION. The operations every block shares: exchange memory, one update per block of the state,
time and timers, NOTICE, the record of a fault, and the free values. -/

namespace Sys2Proof.Machine

/-! ## Numbers and bytes -/

/-- The low byte of a number. -/
def loByte (n : Nat) : Byte := BitVec.ofNat 8 n

/-- The second byte of a number. -/
def hiByte (n : Nat) : Byte := BitVec.ofNat 8 (n / 256)

/-- Two bytes, low byte first (00_scope.md 5.1). -/
def bytes16 (n : Nat) : List Byte := [loByte n, hiByte n]

/-- Four bytes, low byte first. -/
def bytes32 (n : Nat) : List Byte :=
  [BitVec.ofNat 8 n, BitVec.ofNat 8 (n / 256), BitVec.ofNat 8 (n / 65536),
   BitVec.ofNat 8 (n / 16777216)]

/-- A 16-bit number from its bytes, low byte first. -/
def joinBytes (lo hi : Byte) : Nat := lo.toNat + 256 * hi.toNat

/-- A byte read as a signed number (PCM8, R138). -/
def signed8 (b : Byte) : Int := b.toInt

/-- A 16-bit number read as signed (PCM16, R138). -/
def signed16 (n : Nat) : Int := (BitVec.ofNat 16 n).toInt

/-- "Clamped to lo … hi" (00_scope.md 5.3). -/
def clampNat (lo hi n : Nat) : Nat := max lo (min hi n)

/-- "Clamped to lo … hi" on integers. -/
def clampInt (lo hi n : Int) : Int := max lo (min hi n)

def boolNat (b : Bool) : Nat := if b then 1 else 0

/-! ## Exchange memory -/

/-- The byte listed at an address, 0 where none is listed (R14). -/
def Memory.lookup : Memory → Nat → Byte
  | [], _ => 0
  | (k, v) :: rest, a => if k = a then v else Memory.lookup rest a

/-- Sets the byte at an address, keeping addresses strictly rising and listing no 0. -/
def Memory.insert : Memory → Nat → Byte → Memory
  | [], a, v => if v = 0 then [] else [(a, v)]
  | (k, w) :: rest, a, v =>
    if a < k then (if v = 0 then (k, w) :: rest else (a, v) :: (k, w) :: rest)
    else if a = k then (if v = 0 then rest else (a, v) :: rest)
    else (k, w) :: Memory.insert rest a v

/-- Reads one byte; addresses are 16 bits wide and wrap (R2). -/
def Memory.read (m : Memory) (a : Nat) : Byte := m.lookup (a % 65536)

/-- Writes one byte; addresses are 16 bits wide and wrap (R2). -/
def Memory.write (m : Memory) (a : Nat) (v : Byte) : Memory := m.insert (a % 65536) v

/-- Reads a little-endian 16-bit field. -/
def Memory.read16 (m : Memory) (a : Nat) : Nat := joinBytes (m.read a) (m.read (a + 1))

/-- Writes bytes at successive addresses. -/
def Memory.writeBytes (m : Memory) (a : Nat) : List Byte → Memory
  | [] => m
  | v :: rest => Memory.writeBytes (m.write a v) (a + 1) rest

/-- Reads successive bytes. -/
def Memory.readBytes (m : Memory) (a : Nat) : Nat → List Byte
  | 0 => []
  | n + 1 => m.read a :: Memory.readBytes m (a + 1) n

/-- Clears every byte from an address on (R14). -/
def Memory.clearFrom (m : Memory) (a : Nat) : Memory := m.filter (fun c => decide (c.1 < a))

/-- The aligned word at an even address, copied from one memory into another (R6, R31). -/
def Memory.copyWord (image source : Memory) (a : Nat) : Memory :=
  (image.write a (source.read a)).write (a + 1) (source.read (a + 1))

/-- The canonical form, on a listing whose addresses must lie at or above `lo`. -/
def Memory.wfFrom : Nat → Memory → Bool
  | _, [] => true
  | lo, (k, v) :: rest =>
    decide (lo ≤ k) && decide (k < 65536) && decide (v ≠ 0) && Memory.wfFrom (k + 1) rest

/-- The canonical form of exchange memory: addresses strictly rising, below 10000H, no byte 0. -/
def Memory.wf (m : Memory) : Bool := Memory.wfFrom 0 m

/-! ## One update per block -/

def State.onXm (s : State) (f : Memory → Memory) : State := { s with xm := f s.xm }
def State.onPort (s : State) (f : Port → Port) : State := { s with port := f s.port }
def State.onOrders (s : State) (f : OrderEngine → OrderEngine) : State := { s with orders := f s.orders }
def State.onStatus (s : State) (f : StatusWriter → StatusWriter) : State := { s with status := f s.status }
def State.onTimers (s : State) (f : Timers → Timers) : State := { s with timers := f s.timers }
def State.onSets (s : State) (f : SetManager → SetManager) : State := { s with sets := f s.sets }
def State.onMotion (s : State) (f : Motion → Motion) : State := { s with motion := f s.motion }
def State.onTraction (s : State) (f : Traction → Traction) : State := { s with traction := f s.traction }
def State.onBridges (s : State) (f : BridgeUnit → BridgeUnit) : State := { s with bridges := f s.bridges }
def State.onBalance (s : State) (f : Balance → Balance) : State := { s with balance := f s.balance }
def State.onRadio (s : State) (f : Radio → Radio) : State := { s with radio := f s.radio }
def State.onSound (s : State) (f : Sound → Sound) : State := { s with sound := f s.sound }
def State.onLamps (s : State) (f : LampUnit → LampUnit) : State := { s with lamps := f s.lamps }
def State.onSupply (s : State) (f : Supply → Supply) : State := { s with supply := f s.supply }

/-- Sets the clock. -/
def State.atClock (s : State) (n : Nat) : State := { s with clock := n }

/-- Draws free values: `n` of them count as used. -/
def State.drawn (s : State) (n : Nat) : State := { s with free := s.free + n }

/-! ## Time -/

/-- Microseconds in clock units of 1/1024 us. -/
def us (n : Nat) : Nat := n * 1024

/-- Milliseconds in clock units. -/
def ms (n : Nat) : Nat := n * 1024000

/-- The length of the on-phase of a duty: u × 50,000 ÷ 1024 ns (R89), exactly. -/
def onPhase (duty : Nat) : Nat := duty * 50

/-- The dead time of 500 ns (R89). -/
def deadTime : Nat := 512

/-- The 32-bit capture clock of R48, in microseconds. -/
def captureClock (s : State) : BitVec 32 := BitVec.ofNat 32 (s.clock / 1024)

/-- The 32-bit millisecond clock of R135. -/
def millisecondClock (s : State) : Reg := BitVec.ofNat 32 (s.clock / 1024000)

/-- An expiry is taken at its point in time: the clock is brought up to it (log 1). -/
def State.reach (s : State) (due : Nat) : State := s.atClock (max s.clock due)

/-! ## NOTICE and fault records -/

/-- The bit's position in NOTICE (R22). -/
def NoticeBit.index : NoticeBit → Nat
  | .order => 0
  | .radio => 1
  | .stream => 2
  | .fault => 3
  | .supply => 4
  | .control => 5
  | .beacon => 6
  | .logFull => 7

/-- A byte with one bit set. -/
def NoticeBit.flag (b : NoticeBit) : BitVec 8 := BitVec.ofNat 8 (2 ^ b.index)

/-- Sets a pending bit, whatever the mask holds (R22). -/
def State.raise (s : State) (b : NoticeBit) : State :=
  s.onPort fun p => { p with notice := p.notice ||| b.flag }

/-- A fault is recorded: the fault event count rises by 1, wrapping, and FAULT is raised (R25). -/
def State.recordFault (s : State) : State :=
  (s.onStatus fun w => { w with faultCount := w.faultCount + 1 }).raise .fault

/-- ATTN is asserted while some bit is 1 in both NOTICE and NOTICE_MASK (R23). -/
def attn (s : State) : Bool := (s.port.notice &&& s.port.mask) != 0

/-! ## SPI transactions (R1 to R3) -/

/-- The free MISO bytes of a transaction, `n` of them from the next free value on (log 6). -/
def misoBytes (free n : Nat) : List Byte := (List.range n).map fun k => Config.misoByte (free + k)

/-- A write transaction of `n` bytes after its command byte: 00H, then bytes the manual leaves open. -/
def State.spiWrite (s : State) (n : Nat) : State :=
  (s.onPort fun p => { p with miso := 0 :: misoBytes s.free n }).drawn n

/-- A register write: register number and four data bytes (R3). -/
def State.registerWrite (s : State) : State := s.spiWrite 5

/-- The rotation of the arbiter stands at a requester (R6). -/
def State.granted (s : State) (r : Requester) : State := { s with lastGranted := r }

/-! ## Small readings -/

def State.isRun (s : State) : Bool := decide (s.port.run = .run)

/-- The master volume, a live field (R5). -/
def masterVolume (s : State) : Nat := (s.xm.read 0x30).toNat

/-- The low 6 bits of the radio-log read index, a live field (R135). -/
def logReadIndex (s : State) : Nat := (s.xm.read 0x32).toNat % 64

def Direction.flip : Direction → Direction
  | .forward => .reverse
  | .reverse => .forward

/-- 1 is REVERSE and any other value FORWARD (R103, R125). -/
def directionOf (n : Nat) : Direction := if n = 1 then .reverse else .forward

/-- Whether function bit F(n) is 1; there is none above 31. -/
def functionBit (f : Reg) (n : Nat) : Bool := f.getLsbD n

end Sys2Proof.Machine
end

