-- ==== Sys2Proof/Machine/Operands.lean ====
section
/-! DEFINITION. How the part reads the records of chapter 11 and the parameters of orders: byte
positions, and the clamps of each load. A load answers the clamped record and whether a clamp changed
a value. -/

namespace Sys2Proof.Machine

/-- A byte of a record, as a number. -/
def field8 (m : Memory) (base off : Nat) : Nat := (m.read (base + off)).toNat

/-- A 16-bit field of a record. -/
def field16 (m : Memory) (base off : Nat) : Nat := m.read16 (base + off)

/-- The even addresses of `n` words from `base`. -/
def wordsFrom (base n : Nat) : List Nat := (List.range n).map fun k => base + 2 * k

/-! ## Anchor configuration (R5, R46, R85, R185; 11.1) -/

/-- The words of the anchor's configuration fields, 08H to 25H. -/
def anchorWords : List Nat := wordsFrom 0x08 15

/-- R5: 0 is off, above 64 is taken as 64. -/
def loadSweepPeriod (m : Memory) : Nat := min 64 (field8 m 0 0x08)

def loadBaseIndex (m : Memory) : Nat := field8 m 0 0x09

/-- R46. -/
def loadMotionConfig (m : Memory) : MotionConfig where
  edge := match field8 m 0 0x0A with
    | 1 => .fall
    | 2 => .both
    | _ => .rise
  magnets := min 8 (field8 m 0 0x0B)
  window :=
    let w := field16 m 0 0x0C
    if w = 0 then 500 else clampNat 100 2000 w

/-- R85. -/
def loadBridgeConfig (m : Memory) : BridgeConfig where
  mode := if field8 m 0 0x0E = 1 then .single else .parallel
  gain := match field8 m 0 0x0F with
    | 1 => 20
    | 2 => 40
    | 3 => 80
    | _ => 10
  chopLevel := min 4095 (field16 m 0 0x10)
  shortLevel :=
    let v := field16 m 0 0x12
    if v = 0 then 4095 else min 4095 v
  deglitch := match field8 m 0 0x14 with
    | 1 => 2
    | 2 => 4
    | 3 => 8
    | _ => 1
  shortMode := match field8 m 0 0x15 with
    | 1 => .cycle
    | 2 => .report
    | 3 => .ignore
    | _ => .latch
  independence := if field8 m 0 0x16 = 0 then .ind else .gang

/-- A supply threshold: 0 is its default, above 32,000 is 32,000 (R185). -/
def loadThreshold (m : Memory) (off default : Nat) : Nat :=
  let v := field16 m 0 off
  if v = 0 then default else min 32000 v

/-- R185. -/
def loadSupplyConfig (m : Memory) : SupplyConfig where
  lost := loadThreshold m 0x18 7000
  weak := loadThreshold m 0x1A 11000
  s1 := loadThreshold m 0x1C 14000
  s2 := loadThreshold m 0x1E 12000
  s3 := loadThreshold m 0x20 10000
  s4 := loadThreshold m 0x22 8000
  rideLimit :=
    let v := field16 m 0 0x24
    if v = 0 then 3000 else clampNat 500 10000 v

/-- The threshold of a level on the current-sense code (R86). -/
def senseThreshold (level gain : Nat) : Nat := clampNat 1 1023 (level * gain / 40)

/-- None when chopping is off (R86). -/
def BridgeConfig.chopThreshold (c : BridgeConfig) : Option Nat :=
  if c.chopLevel = 0 then none else some (senseThreshold c.chopLevel c.gain)

def BridgeConfig.shortThreshold (c : BridgeConfig) : Nat := senseThreshold c.shortLevel c.gain

/-- The current-sense code of a voltage: 4 mV per code, saturating (R90). -/
def senseCode (millivolts : Nat) : Nat := min 1023 (millivolts / 4)

/-- The code of a lamp or fan current: 1 mA per code, saturating (R163, R182). -/
def currentCode (milliamps : Nat) : Nat := min 1023 milliamps

/-! ## Radio block (R113; 11.11) -/

/-- The words of the radio block's fields. -/
def radioWords : List Nat := wordsFrom 0x1380 7

def roleOf (n : Nat) : Role :=
  match n with
  | 1 => .mid
  | 2 => .trail
  | _ => .lead

/-- The lease time in ms: 0 is 10 s, above 60 s is 60 s, then raised to F (R113). -/
def leaseMillis (seconds failsafeMs : Nat) : Nat :=
  max failsafeMs ((if seconds = 0 then 10 else min 60 seconds) * 1000)

/-- R113. -/
def loadFailsafe (raw : Nat) : Nat := if raw = 0 then 2000 else clampNat 100 10000 raw

/-- R113. -/
def loadRadioConfig (m : Memory) : RadioConfig where
  own :=
    let a := field16 m 0x1380 0x00
    if a ≤ 9999 then a else 0
  failsafeMs := loadFailsafe (field16 m 0x1380 0x06)
  leaseMs := leaseMillis (field8 m 0x1380 0x08) (loadFailsafe (field16 m 0x1380 0x06))
  windowStart := field16 m 0x1380 0x0A
  windowEnd := field16 m 0x1380 0x0C

/-- R113: the three start values. The role is loaded as it is written, with the consist number 0 as well (log 40). -/
def loadConsist (m : Memory) : Consist where
  number :=
    let n := field8 m 0x1380 0x02
    if n ≤ 127 then n else 0
  role := roleOf (field8 m 0x1380 0x03)
  reversed := decide (field8 m 0x1380 0x04 = 1)

/-- R114: a clamp changed a value, or the own address was taken as none. -/
def radioAdjusted (m : Memory) : Bool :=
  let own := field16 m 0x1380 0x00
  let f := field16 m 0x1380 0x06
  let l := field8 m 0x1380 0x08
  decide (own = 0 ∨ 9999 < own) || decide (127 < field8 m 0x1380 0x02)
    || decide (2 < field8 m 0x1380 0x03) || decide (1 < field8 m 0x1380 0x04)
    || decide (loadFailsafe f ≠ f) || decide (leaseMillis l (loadFailsafe f) ≠ l * 1000)

/-! ## Lamp entries (R161; 11.5) -/

/-- The words of the fields of lamp n's entry. -/
def lampEntryWords (n : Nat) : List Nat := wordsFrom (0x1200 + 32 * n) 8

/-- The words of the ten lamp entries' fields. -/
def lampWords : List Nat := (List.range 10).flatMap lampEntryWords

/-- The copy of lamp n's entry (R161). -/
def loadLamp (m : Memory) (n : Nat) : LampCopy :=
  let b := 0x1200 + 32 * n
  { enabled := decide (field8 m b 0x00 = 1)
    side := if field8 m b 0x01 = 1 then .high else .low
    function := min 31 (field8 m b 0x02)
    direction := match field8 m b 0x03 with
      | 1 => .fwd
      | 2 => .rev
      | _ => .any
    consist := if field8 m b 0x04 = 1 then .leadOnly else .any
    effect := match field8 m b 0x05 with
      | 1 => .flicker
      | 2 => .strobe
      | 3 => .rotary
      | 4 => .ditch
      | 5 => .firebox
      | _ => .steady
    level := field8 m b 0x06
    rate := max 1 (field8 m b 0x07)
    partner := if field8 m b 0x08 ≤ 9 then field8 m b 0x08 else n
    fadeStep := field8 m b 0x09
    openThreshold := min 1023 (field16 m b 0x0A)
    openEnable := decide (field8 m b 0x0C ≠ 0)
    overMode := match field8 m b 0x0D with
      | 1 => .retry
      | 2 => .report
      | 3 => .ignore
      | _ => .latch
    openMode := match field8 m b 0x0E with
      | 1 => .report
      | 2 => .ignore
      | _ => .latch }

/-- Whether a clamp of R161 changed a value of lamp n's entry. -/
def lampClamped (m : Memory) (n : Nat) : Bool :=
  let b := 0x1200 + 32 * n
  decide (1 < field8 m b 0x00) || decide (1 < field8 m b 0x01) || decide (31 < field8 m b 0x02)
    || decide (2 < field8 m b 0x03) || decide (1 < field8 m b 0x04) || decide (5 < field8 m b 0x05)
    || decide (field8 m b 0x07 = 0) || decide (9 < field8 m b 0x08)
    || decide (1023 < field16 m b 0x0A) || decide (1 < field8 m b 0x0C)
    || decide (3 < field8 m b 0x0D) || decide (2 < field8 m b 0x0E)

/-! ## Drive-set records (R26 to R31; 11.4) -/

/-- Where set x begins (R26). -/
def setBase (x : Nat) : Nat := 0x0A00 + 256 * x

/-- The words of a drive-set record's fields, 00H to 67H. -/
def setWords (x : Nat) : List Nat := wordsFrom (setBase x) 52

/-- R28. -/
def loadTractionSet (m : Memory) (b : Nat) : TractionSet where
  curve := (List.range 8).map fun k => field16 m b (0x02 + 2 * k)
  maxRate := field16 m b 0x12
  accel := field16 m b 0x14
  decel := field16 m b 0x16
  kp := field8 m b 0x18
  ki := field8 m b 0x19
  dutyCap := min 1023 (field16 m b 0x1A)
  gain := field16 m b 0x1C
  stopMode := if field8 m b 0x1E = 1 then .coast else .brake
  freewheel := if field8 m b 0x1F = 1 then .fast else .slow
  lock := match field8 m b 0x20 with
    | 1 => .forwardOnly
    | 2 => .reverseOnly
    | _ => .both
  entryThrottle := if field8 m b 0x21 = 255 then none else some (field8 m b 0x21)

/-- The chuff clip count, 1 to 4 (R29). -/
def chuffCount (m : Memory) (b : Nat) : Nat := clampNat 1 4 (field8 m b 0x23)

/-- The trigger count, 0 to 8 (R29). -/
def triggerCount (m : Memory) (b : Nat) : Nat := min 8 (field8 m b 0x3C)

/-- R29. -/
def loadSoundSet (m : Memory) (b : Nat) : SoundSet where
  engineClip := field8 m b 0x22
  basePitch := field16 m b 0x24
  slope := min 4095 (field16 m b 0x26)
  chuffClips := (List.range (chuffCount m b)).map fun k => field8 m b (0x28 + k)
  chuffPoints := (List.range (min 8 (field8 m b 0x2C))).map fun k => field8 m b (0x2D + k)
  workVolume := field8 m b 0x35
  driftVolume := field8 m b 0x36
  driftDuty := min 1023 (field16 m b 0x38)
  startClip := field8 m b 0x37
  stopClip := field8 m b 0x3A
  hornClip := field8 m b 0x3B
  triggers := (List.range (triggerCount m b)).map fun k =>
    { function := field8 m b (0x3D + 3 * k), clip := field8 m b (0x3E + 3 * k)
      hold := decide (field8 m b (0x3F + 3 * k) = 1) }

/-- R30. -/
def loadLampSet (m : Memory) (b : Nat) : LampSet where
  mask := BitVec.ofNat 10 (field16 m b 0x56)
  scale := field8 m b 0x58
  smokeFunction := field8 m b 0x59
  idleSetpoint := min 1023 (field16 m b 0x5A)
  workSetpoint := min 1023 (field16 m b 0x5C)
  dryLimit := min 1023 (field16 m b 0x5E)
  fanIdle := min 1023 (field16 m b 0x60)
  fanRun := min 1023 (field16 m b 0x62)
  puffDuty := min 1023 (field16 m b 0x64)
  puffWidth := clampNat 10 200 (field8 m b 0x66)
  purgeTime := min 30 (field8 m b 0x67)

/-- The record at `b`, every clamp of R27 to R30 applied (R31). -/
def loadDriveSet (m : Memory) (b : Nat) : DriveSet where
  valid := decide (field8 m b 0x00 = 0x5A)
  authority := min 2 (field8 m b 0x01)
  traction := loadTractionSet m b
  sound := loadSoundSet m b
  lamp := loadLampSet m b

/-- Whether any clamp of R27 to R30 changed a value (R31). -/
def driveSetClamped (m : Memory) (b : Nat) : Bool :=
  decide (2 < field8 m b 0x01) || decide (1023 < field16 m b 0x1A) || decide (1 < field8 m b 0x1E)
    || decide (1 < field8 m b 0x1F) || decide (2 < field8 m b 0x20)
    || decide (field8 m b 0x23 = 0 ∨ 4 < field8 m b 0x23) || decide (4095 < field16 m b 0x26)
    || decide (8 < field8 m b 0x2C) || decide (1023 < field16 m b 0x38)
    || decide (8 < field8 m b 0x3C)
    || (List.range (triggerCount m b)).any (fun k => decide (1 < field8 m b (0x3F + 3 * k)))
    || [0x5A, 0x5C, 0x5E, 0x60, 0x62, 0x64].any (fun o => decide (1023 < field16 m b o))
    || decide (field8 m b 0x66 < 10 ∨ 200 < field8 m b 0x66) || decide (30 < field8 m b 0x67)

/-! ## Clip directory (R138; 11.6) -/

/-- Where clip x's entry begins (R138). -/
def clipBase (x : Nat) : Nat := 0x1400 + 16 * x

/-- R138. -/
def loadClip (m : Memory) (x : Nat) : ClipEntry :=
  let b := clipBase x
  { format := field8 m b 0x00
    kind := field8 m b 0x01
    start := field16 m b 0x02
    length := field16 m b 0x04
    loopStart := field16 m b 0x06
    loopLength := field16 m b 0x08
    basePitch := field16 m b 0x0A
    volume := field8 m b 0x0C }

/-- A pitch step clamped to 0040H … 0400H (R143). -/
def clampPitch (n : Nat) : Nat := clampNat 0x40 0x400 n

/-- The sample size b of R145: 1 byte for PCM8, 2 for PCM16. -/
def ClipEntry.size (e : ClipEntry) : Nat := if e.format = 2 then 2 else 1

/-- Conditions 2 to 7 of R139 (the index is condition 1). -/
def ClipEntry.valid (e : ClipEntry) : Bool :=
  decide (e.format = 1 ∨ e.format = 2)
    && decide (0 < e.length ∧ e.length % e.size = 0)
    && decide (0x2000 ≤ e.start ∧ e.start + e.length ≤ 0x10000)
    && decide (e.kind ≤ 2)
    && (decide (e.kind ≠ 1) || decide (0 < e.loopLength ∧ e.loopStart + e.loopLength ≤ e.length
          ∧ e.loopStart % e.size = 0 ∧ e.loopLength % e.size = 0))
    && (decide (e.kind ≠ 2) || decide (e.length % 4 = 0))

/-! ## Order parameters (11.3) -/

/-- Parameter byte p(k). -/
def param8 (ps : List Byte) (k : Nat) : Nat := (ps.getD k 0).toNat

/-- The 16-bit parameter at p(k). -/
def param16 (ps : List Byte) (k : Nat) : Nat := param8 ps k + 256 * param8 ps (k + 1)

/-- The 32-bit parameter at p(k). -/
def param32 (ps : List Byte) (k : Nat) : Nat := param16 ps k + 65536 * param16 ps (k + 2)

/-! ## Radio frames (R117; 11.8) -/

/-- One step of the check value (R117): a bit against bit 15 of the register. -/
def crcBit (r : Half) (b : Bool) : Half :=
  let shifted := r <<< 1
  if b != r.getLsbD 15 then shifted ^^^ 0x1021 else shifted

/-- One byte into the check value, most significant bit first (R117). -/
def crcByte (r : Half) (b : Byte) : Half :=
  [7, 6, 5, 4, 3, 2, 1, 0].foldl (fun acc k => crcBit acc (b.getLsbD k)) r

/-- The check value over SENDER through PAYLOAD (R117). -/
def crc (bytes : List Byte) : Half := bytes.foldl crcByte 0xFFFF

/-- The frame in the LEN bytes after LEN, SENDER to CRC (R117). -/
def parseFrame (bytes : List Byte) : Frame where
  sender := param16 bytes 0
  cls := param8 bytes 2
  target := param16 bytes 3
  seq := param8 bytes 5
  kind := param8 bytes 6
  payload := (bytes.take (bytes.length - 2)).drop 7

/-- The CRC a frame carries, low byte first (R117). -/
def carriedCrc (bytes : List Byte) : Nat := param16 bytes (bytes.length - 2)

end Sys2Proof.Machine
end

