-- ==== Sys2Proof/Machine/Flags.lean ====
section
/-! DEFINITION. The codes of outcomes, reasons and states (R20, R137, 11.2, 11.10), the latched
indications of CLEAR_FAULTS (R98), and the registers as the host reads them (R3, R7, R8). -/

namespace Sys2Proof.Machine

/-- R20. -/
def OutcomeCode.code : OutcomeCode → Byte
  | .ok => 0x00
  | .adjusted => 0x01
  | .unknownKind => 0x10
  | .badIndex => 0x11
  | .notValid => 0x12
  | .setBusy => 0x13
  | .chainFull => 0x14
  | .chainEmpty => 0x15
  | .notHolder => 0x16
  | .busy => 0x17
  | .noRun => 0x18
  | .notStopped => 0x19
  | .noVoice => 0x1A
  | .badClip => 0x1B
  | .notRunning => 0x1C
  | .noSensor => 0x1D
  | .denied => 0x1E
  | .aborted => 0x20
  | .failedNoMotion => 0x21
  | .failedFault => 0x22
  | .failedSensor => 0x23
  | .reset => 0x2F

/-- R137. -/
def Reason.code : Reason → Byte
  | .outcome o => o.code
  | .inConsist => 0x30
  | .outOfWindow => 0x31
  | .malformed => 0x32
  | .written => 0x33
  | .passed => 0x34
  | .zoneIn => 0x40
  | .zoneClear => 0x41
  | .stationStart => 0x42
  | .stationEnd => 0x43
  | .stationCancelled => 0x44
  | .joined => 0x50
  | .left => 0x51

/-- 11.10. -/
def TractionState.code : TractionState → Nat
  | .quiet => 0
  | .balance => 1
  | .faulted => 2
  | .held => 3
  | .estop => 4
  | .reversing => 5
  | .running => 6
  | .stopped => 7

/-- 11.10. -/
def BridgeState.code : BridgeState → Nat
  | .off => 0
  | .drive => 1
  | .brake => 2
  | .coast => 3
  | .latched => 4

/-- 11.2. -/
def Sensor.code : Sensor → Nat
  | .none => 0
  | .ok => 1
  | .lost => 2

/-- A direction field: 0 FORWARD, 1 REVERSE (chapter 11). -/
def Direction.code : Direction → Nat
  | .forward => 0
  | .reverse => 1

/-- 11.10. -/
def Role.code : Role → Nat
  | .lead => 0
  | .mid => 1
  | .trail => 2

/-- 11.2. -/
def VoiceState.code : VoiceState → Nat
  | .idle => 0
  | .playing => 1
  | .fading => 2
  | .starved => 3

/-- 11.2. -/
def ClipUse.code : ClipUse → Nat
  | .none => 0
  | .engine => 1
  | .chuff => 2
  | .start => 3
  | .stop => 4
  | .horn => 5
  | .function => 6

/-- 11.2. -/
def LampFault.code : LampFault → Nat
  | .none => 0
  | .overcurrent => 1
  | .openLoad => 2

/-- 11.2. -/
def HeaterState.code : HeaterState → Nat
  | .off => 0
  | .preheat => 1
  | .regulate => 2
  | .dry => 3

/-- 11.2. -/
def FanState.code : FanState → Nat
  | .off => 0
  | .run => 1
  | .puff => 2
  | .purge => 3
  | .latched => 4

/-- 11.2. -/
def SupplyState.code : SupplyState → Nat
  | .normal => 0
  | .ride => 1
  | .down => 2

/-- 11.2. -/
def Station.code : Station → Nat
  | .none => 0
  | .braking _ => 1
  | .dwell _ _ => 2

/-- The holder kind, class and sender as the status record and the LEASE result show them (11.2,
R127; log 16 for the LEASE result). -/
def Lease.kindCode : Lease → Nat
  | .none => 0
  | .radio _ _ _ => 1
  | .onBoard _ => 2

def Lease.classCode : Lease → Nat
  | .radio _ cls _ => cls
  | _ => 255

def Lease.senderCode : Lease → Nat
  | .radio sender _ _ => sender
  | _ => 0

def Lease.markSet : Lease → Bool
  | .onBoard m => m
  | _ => false

/-! ## Latched indications (R98) -/

/-- Whether the heater latch holds a kind (R174). -/
def Heater.latched (h : Heater) : Bool := h.noHeat || h.dry || h.sensor

/-- A lamp of the unit by number; beyond L9 a lamp as after reset. -/
def LampUnit.lamp (u : LampUnit) (n : Nat) : Lamp := u.lamps.getD n Lamp.atReset

/-- The number whose bit k is set where `f k`, for k below `n`. -/
def maskOf (f : Nat → Bool) : Nat → Nat
  | 0 => 0
  | n + 1 => maskOf f n + (if f n then 2 ^ n else 0)

/-- The latched indication of CLEAR_FAULTS bit `k` (R98): bridges A and B, lamps L0 to L9, heater,
fan. -/
def latchedBit (s : State) (k : Nat) : Bool :=
  match k with
  | 0 => decide (s.bridges.a.state = .latched)
  | 1 => decide (s.bridges.b.state = .latched)
  | 12 => s.lamps.heater.latched
  | 13 => decide (s.lamps.fan.state = .latched)
  | k => decide (2 ≤ k ∧ k ≤ 11) && decide ((s.lamps.lamp (k - 2)).latched ≠ .none)

/-- All fourteen indications, arranged as the mask of R98. -/
def latchedMask (s : State) : Nat := maskOf (latchedBit s) 14

/-! ## Registers as the host reads them -/

/-- The value of a register at a read (R3): ID (R7), CONTROL (R8), SWEEP reads 0 (R17), NOTICE (R22),
NOTICE_MASK (R23); a number above 4 reads 0. -/
def readRegister (s : State) (number : Nat) : Reg :=
  match number with
  | 0 => 0x00015440
  | 1 => BitVec.ofNat 32 (boolNat s.isRun + 2 * boolNat s.port.start.isSome)
  | 3 => BitVec.ofNat 32 s.port.notice.toNat
  | 4 => BitVec.ofNat 32 s.port.mask.toNat
  | _ => 0

end Sys2Proof.Machine
end

