-- ==== Sys2Proof/Machine/Slots.lean ====
section
/-! DEFINITION. What the order engine's requester reads and writes (R6): words of tables, and in order slots
(R16, R20) state bytes, the step field and the completion write. -/

namespace Sys2Proof.Machine

/-- Where slot n begins (11.3). -/
def slotBase (n : Nat) : Nat := 0x200 + 64 * n

/-- A byte list brought to `n` bytes, filled with 0 (R20). -/
def padTo (n : Nat) (bytes : List Byte) : List Byte := (bytes ++ List.replicate n 0).take n

/-- The state byte of a slot. -/
def slotState (m : Memory) (n : Nat) : Nat := (m.read (slotBase n)).toNat

/-- Words are read by the order engine's requester, which the rotation then stands at (R6). -/
def State.reads (s : State) (words : List Nat) : State :=
  if words = [] then s else s.granted .orderEngine

/-- One granted word access of a load (R4). -/
def TableLoad.access (l : TableLoad) (m : Memory) : TableLoad :=
  match l.todo with
  | a :: rest => { l with todo := rest, image := l.image.copyWord m a }
  | [] => l

/-- The rest of a load is read at once. -/
def TableLoad.readAll (l : TableLoad) (m : Memory) : TableLoad :=
  { l with todo := [], image := l.todo.foldl (fun image a => image.copyWord m a) l.image }

/-- Writes the state byte of a slot. -/
def State.writeSlotState (s : State) (n : Nat) (v : Byte) : State :=
  (s.onXm fun m => m.write (slotBase n) v).granted .orderEngine

/-- Writes the step field of a slot (R106). -/
def State.writeStep (s : State) (n step : Nat) : State :=
  (s.onXm fun m => m.write (slotBase n + 0x29) (loByte step)).granted .orderEngine

/-- The completion write (R20): outcome, step, result, then DONE; the slot leaves the held set and ORDER
is raised. -/
def State.completeSlot (s : State) (n : Nat) (outcome : OutcomeCode) (step : Nat) (result : List Byte) :
    State :=
  let s := s.onXm fun m =>
    m.writeBytes (slotBase n + 0x28) ([outcome.code, loByte step] ++ padTo 22 result)
  let s := s.writeSlotState n 3
  (s.onOrders fun o => { o with held := o.held.filter fun k => decide (k ≠ n) }).raise .order

end Sys2Proof.Machine
end

