-- ==== Sys2Proof/Machine/Bridge.lean ====
section
/-! DEFINITION. The bridge unit (chapter 5): commands, gates with dead time, PWM, chopping, the latching
and clearing of a bridge, and the commands PWM_PERIOD, ON_PHASE_END, DEAD_TIME_EXPIRY, BLANKING_END and
CHOP. What a detected short does beyond its own bridge stands in Protection.lean. -/

namespace Sys2Proof.Machine

/-! ## Gates (R87, R89) -/

/-- Whether the dead time since a gate's turn-off has passed. -/
def deadTimeOver (off : Option Nat) (now : Nat) : Bool :=
  match off with
  | none => true
  | some t => decide (t + deadTime ≤ now)

/-- When a gate last turned off, given that it was on or not and stays asked for or not. -/
def offTime (now : Nat) (on asked : Bool) (off : Option Nat) : Option Nat :=
  if on && !asked then some now else off

/-- The high gate of a leg (R89): off at once when not asked for; on when asked for, once the low gate
is off and its dead time over. -/
def highNext (now : Nat) (high low askHigh askLow : Bool) (lowOff : Option Nat) : Bool :=
  askHigh && (high || (!(low && askLow) && deadTimeOver (offTime now low askLow lowOff) now))

/-- The low gate of a leg, in the same way; it yields to the high gate. -/
def lowNext (now : Nat) (high low askHigh askLow : Bool) (highOff : Option Nat) : Bool :=
  askLow && !askHigh
    && (low || (!(high && askHigh) && deadTimeOver (offTime now high askHigh highOff) now))

/-- The gates after the gates asked for become `asked` at time `now` (R89). -/
def Bridge.ask (b : Bridge) (now : Nat) (asked : Gates) : Bridge :=
  let g := b.gates
  let o := b.offAt
  { b with
    asked := asked
    gates :=
      { high1 := highNext now g.high1 g.low1 asked.high1 asked.low1 o.low1
        low1 := lowNext now g.high1 g.low1 asked.high1 asked.low1 o.high1
        high2 := highNext now g.high2 g.low2 asked.high2 asked.low2 o.low2
        low2 := lowNext now g.high2 g.low2 asked.high2 asked.low2 o.high2 }
    offAt :=
      { high1 := offTime now g.high1 asked.high1 o.high1
        low1 := offTime now g.low1 asked.low1 o.low1
        high2 := offTime now g.high2 asked.high2 o.high2
        low2 := offTime now g.low2 asked.low2 o.low2 } }

/-- High side 1 and low side 2 for FORWARD, high side 2 and low side 1 for REVERSE (R87). -/
def driveGates : Direction → Gates
  | .forward => { Gates.none with high1 := true, low2 := true }
  | .reverse => { Gates.none with high2 := true, low1 := true }

/-- Both low sides: BRAKE, and the off-phase under SLOW (R87, R89). -/
def lowGates : Gates := { Gates.none with low1 := true, low2 := true }

def offPhaseGates : Freewheel → Gates
  | .slow => lowGates
  | .fast => Gates.none

/-- Whether the high side of the driven leg is on. -/
def Bridge.conducting (b : Bridge) : Bool :=
  match b.params.direction with
  | .forward => b.gates.high1
  | .reverse => b.gates.high2

/-- The moment the high side turns on in an on-phase starts the short test, and with chopping on the
blanking time of 2 us (R90 to R92). -/
def Bridge.noteConduct (b : Bridge) (cfg : BridgeConfig) (now : Nat) : Bridge :=
  if b.phase = .onPhase ∧ b.conduct = none ∧ b.conducting = true then
    { b with conduct := some now, blanking := cfg.chopThreshold.map fun _ => now + us 2 }
  else b

/-! ## PWM periods (R88, R89) -/

/-- Nothing of an on-phase left. -/
def Bridge.noPhase (b : Bridge) (phase : PwmPhase) : Bridge :=
  { b with phase := phase, onEnd := none, conduct := none, blanking := none, chopArmed := false }

/-- The off-phase of the command begins (R89, R91). -/
def Bridge.endOnPhase (b : Bridge) (now : Nat) : Bridge :=
  (b.noPhase .offPhase).ask now (offPhaseGates b.params.freewheel)

/-- A PWM period begins under `p`: the on-phase, or at duty 0 the off-phase (R89). -/
def Bridge.beginPeriod (b : Bridge) (cfg : BridgeConfig) (now : Nat) (p : DriveParams) : Bridge :=
  let fresh := { b with params := p, periodStart := now, detected := false }
  if p.duty = 0 then fresh.endOnPhase now
  else
    (({ fresh.noPhase .onPhase with onEnd := some (now + onPhase p.duty) }).ask now
      (driveGates p.direction)).noteConduct cfg now

/-- A bridge out of DRIVE: a fixed gate pattern (R87), and the short-run count 0 (R93). -/
def Bridge.rest (b : Bridge) (now : Nat) (state : BridgeState) (asked : Gates) : Bridge :=
  ({ b.noPhase .idle with state := state, shortRun := 0, detected := false }).ask now asked

/-- A bridge takes a command (R87, R88): another state at once; DRIVE to DRIVE at the next period. DESIGN
CHOICE (log 18): a bridge that enters DRIVE begins a full on-phase at that moment, which the next expiry of the
shared PWM timer ends or begins afresh. -/
def Bridge.take (b : Bridge) (cfg : BridgeConfig) (now : Nat) (c : Command) : Bridge :=
  if b.state = .latched then b
  else
    match c with
    | .off => b.rest now .off Gates.none
    | .coast => b.rest now .coast Gates.none
    | .brake => b.rest now .brake lowGates
    | .drive p =>
      if b.state = .drive then b
      else ({ b with state := .drive, shortRun := 0 }).beginPeriod cfg now p

/-- A bridge enters LATCHED: all gates off at once, short-run count 0, and a clear chop flag reported (R94). The
running chop flag stays until the regulation timer's expiry clears it (R91; log 41). -/
def Bridge.latch (b : Bridge) (now : Nat) : Bridge :=
  { b.rest now .latched Gates.none with chopFlag := false }

/-- A bridge that is not LATCHED stays; a LATCHED one leaves it for the held command (R99): BRAKE,
COAST or OFF at once, DRIVE with the next PWM period. -/
def Bridge.release (b : Bridge) (now : Nat) (c : Command) : Bridge :=
  if b.state = .latched then
    match c with
    | .off => b.rest now .off Gates.none
    | .coast => b.rest now .coast Gates.none
    | .brake => b.rest now .brake lowGates
    | .drive _ => b.rest now .drive Gates.none
  else { b with shortRun := 0 }

/-! ## The unit -/

def BridgeUnit.get (u : BridgeUnit) : BridgeId → Bridge
  | .a => u.a
  | .b => u.b

def BridgeUnit.set (u : BridgeUnit) (id : BridgeId) (b : Bridge) : BridgeUnit :=
  match id with
  | .a => { u with a := b }
  | .b => { u with b := b }

def BridgeId.other : BridgeId → BridgeId
  | .a => .b
  | .b => .a

/-- A bridge is configured when the mode uses it (R85). -/
def BridgeUnit.configured (u : BridgeUnit) : BridgeId → Bool
  | .a => true
  | .b => decide (u.cfg.mode = .parallel)

/-- Every configured bridge is LATCHED (R73, R97). -/
def BridgeUnit.allLatched (u : BridgeUnit) : Bool :=
  decide (u.a.state = .latched) && (!u.configured .b || decide (u.b.state = .latched))

/-- The duty a DRIVE command carries now; 0 when no configured bridge is in DRIVE (R76). -/
def BridgeUnit.drivenDuty (u : BridgeUnit) : Nat :=
  match u.held with
  | .drive p =>
    if u.a.state = .drive ∨ (u.configured .b = true ∧ u.b.state = .drive) then p.duty else 0
  | _ => 0

/-- Keeps the lowest duty of the regulation period (R76). -/
def State.noteDuty (s : State) : State :=
  s.onTraction fun t => { t with lowest := min t.lowest s.bridges.drivenDuty }

/-- The unit after a command is handed (R87, R88): a command equal to the one held does nothing;
bridge B under SINGLE stays OFF. -/
def BridgeUnit.hand (u : BridgeUnit) (now : Nat) (c : Command) : BridgeUnit :=
  if c = u.held then u
  else
    { u with
      held := c
      a := u.a.take u.cfg now c
      b := if u.configured .b then u.b.take u.cfg now c else u.b }

/-- The traction controller hands a command (R75). -/
def State.handCommand (s : State) (c : Command) : State :=
  (s.onBridges fun u => u.hand s.clock c).noteDuty

/-- The duty in force is lowered to a new cap at once, within the running period (R83, R88; log 18). -/
def Bridge.lowerDuty (b : Bridge) (now duty : Nat) : Bridge :=
  match b.onEnd with
  | some e =>
    let newEnd := b.periodStart + onPhase duty
    if b.state = .drive ∧ newEnd < e then
      if newEnd ≤ now then b.endOnPhase now
      else { b with onEnd := some newEnd, params := { b.params with duty := duty } }
    else b
  | none => b

/-- The held DRIVE command is handed again at a lower duty (R83). -/
def State.lowerDuty (s : State) (duty : Nat) : State :=
  match s.bridges.held with
  | .drive p =>
    (s.onBridges fun u =>
      { u with
        held := .drive { p with duty := min p.duty duty }
        a := u.a.lowerDuty s.clock duty
        b := u.b.lowerDuty s.clock duty }).noteDuty
  | _ => s

/-- At the regulation expiry the running chop flag becomes the flag of the period that ended; a
LATCHED bridge reports a clear flag (R91). -/
def Bridge.rotateChop (b : Bridge) : Bridge :=
  { b with chopFlag := b.chopRunning && decide (b.state ≠ .latched), chopRunning := false }

/-- Leaves LATCHED at a teardown; the short-run counts become 0 (R100). -/
def BridgeUnit.releaseAll (u : BridgeUnit) (now : Nat) : BridgeUnit :=
  { u with a := u.a.release now u.held, b := u.b.release now u.held }

/-- A clear of one bridge (R99): only a configured bridge can be LATCHED. -/
def BridgeUnit.clearFault (u : BridgeUnit) (id : BridgeId) (now : Nat) : BridgeUnit :=
  u.set id ((u.get id).release now u.held)

/-! ## Commands of the bridge unit alone -/

/-- The start of a PWM period on one bridge: the end of the period before it (R93), then a new period
under the held command (R88, R89, R95). -/
def Bridge.nextPeriod (b : Bridge) (cfg : BridgeConfig) (now : Nat) (held : Command) : Bridge :=
  match held with
  | .drive p =>
    if b.state = .drive then
      ({ b with shortRun := if b.detected then b.shortRun else 0 }).beginPeriod cfg now p
    else b
  | _ => b

/-- PWM_PERIOD (R89). -/
def pwmPeriod (s : State) : State :=
  let s := s.reach s.timers.pwm
  let s := s.onTimers fun t => { t with pwm := s.clock + us 50 }
  s.onBridges fun u =>
    { u with
      a := u.a.nextPeriod u.cfg s.clock u.held
      b := u.b.nextPeriod u.cfg s.clock u.held }

def execPwmPeriod (s : State) : Host.Outcome State Fault Refusal := .next (pwmPeriod s)

/-- ON_PHASE_END (R89). -/
def onPhaseEnd (id : BridgeId) (s : State) : State :=
  match (s.bridges.get id).onEnd with
  | some e =>
    let s := s.reach e
    s.onBridges fun u => u.set id ((u.get id).endOnPhase s.clock)
  | none => s

def execOnPhaseEnd (id : BridgeId) (s : State) : Host.Outcome State Fault Refusal :=
  .next (onPhaseEnd id s)

/-- When the gate of a leg that is asked for and still off may turn on: 500 ns after the other gate of
the leg turned off (R89). -/
def Bridge.waitingUntil (b : Bridge) (leg : Leg) : Option Nat :=
  match leg with
  | .one =>
    if b.asked.high1 && !b.gates.high1 then b.offAt.low1.map (· + deadTime)
    else if b.asked.low1 && !b.gates.low1 then b.offAt.high1.map (· + deadTime)
    else none
  | .two =>
    if b.asked.high2 && !b.gates.high2 then b.offAt.low2.map (· + deadTime)
    else if b.asked.low2 && !b.gates.low2 then b.offAt.high2.map (· + deadTime)
    else none

/-- When the phase that asks for the present gates ends: the on-phase at its end, any other phase of
DRIVE at the next PWM period; a fixed pattern does not end. -/
def Bridge.phaseEnd (b : Bridge) (nextPeriod : Nat) : Option Nat :=
  if b.phase = .onPhase then b.onEnd else if b.state = .drive then some nextPeriod else none

/-- DEAD_TIME_EXPIRY (R89): the waiting gate turns on, unless its phase ends before. A dead time that ends exactly when
the phase ends turns nothing on (DESIGN CHOICE, unsafe, log 57: R89 speaks of a phase that ends before). -/
def deadTimeExpiry (id : BridgeId) (leg : Leg) (s : State) : State :=
  let b := s.bridges.get id
  match b.waitingUntil leg with
  | some t =>
    if (b.phaseEnd s.timers.pwm).all (fun e => decide (t < e)) then
      let s := s.reach t
      s.onBridges fun u => u.set id ((b.ask s.clock b.asked).noteConduct u.cfg s.clock)
    else s
  | none => s

def execDeadTimeExpiry (id : BridgeId) (leg : Leg) (s : State) : Host.Outcome State Fault Refusal :=
  .next (deadTimeExpiry id leg s)

/-- BLANKING_END (R91): the chop test becomes active, if the on-phase lasts as long as the blanking. -/
def blankingEnd (id : BridgeId) (s : State) : State :=
  let b := s.bridges.get id
  match b.blanking with
  | some d =>
    if b.onEnd.all (fun e => decide (d ≤ e)) then
      (s.reach d).onBridges fun u => u.set id { b with blanking := none, chopArmed := true }
    else s
  | none => s

def execBlankingEnd (id : BridgeId) (s : State) : Host.Outcome State Fault Refusal :=
  .next (blankingEnd id s)

/-- CHOP (R91): a code at or above the chop threshold, after the blanking, ends the on-phase. -/
def chop (id : BridgeId) (millivolts : Nat) (s : State) : State :=
  let b := s.bridges.get id
  match s.bridges.cfg.chopThreshold with
  | some threshold =>
    if b.chopArmed = true ∧ threshold ≤ senseCode millivolts then
      s.onBridges fun u => u.set id ({ b with chopRunning := true }.endOnPhase s.clock)
    else s
  | none => s

def execChop (id : BridgeId) (millivolts : Nat) (s : State) : Host.Outcome State Fault Refusal :=
  .next (chop id millivolts s)

end Sys2Proof.Machine
end

