-- ==== Sys2Proof/Machine/Log.lean ====
section
/-! DEFINITION. The radio log (R135 to R137) and the records the radio command unit makes. -/

namespace Sys2Proof.Machine

/-- The record kinds (11.7). -/
inductive RecordKind where
  | frame | written | beacon | consist
deriving DecidableEq, Repr

def RecordKind.code : RecordKind → Byte
  | .frame => 0
  | .written => 1
  | .beacon => 2
  | .consist => 3

/-- Where record n lies (R135). -/
def logBase (n : Nat) : Nat := 0x1800 + 32 * n

/-- The log is full (R135). -/
def logFull (s : State) : Bool := decide ((s.radio.logIndex + 1) % 64 = logReadIndex s)

/-- The flags of a record (11.7): after-gap, truncated. -/
def recordFlags (afterGap : Bool) (f : Frame) : Nat :=
  boolNat afterGap + 2 * boolNat (decide (16 < f.payload.length))

/-- The 32 bytes of a record (11.7). -/
def recordBytes (seq : Half) (time : Reg) (kind : RecordKind) (reason : Reason) (afterGap : Bool)
    (f : Frame) : List Byte :=
  bytes16 seq.toNat ++ bytes32 time.toNat
    ++ [kind.code, reason.code, loByte (recordFlags afterGap f), loByte f.cls]
    ++ bytes16 f.sender ++ bytes16 f.target ++ [loByte f.kind, loByte f.payload.length]
    ++ (f.payload ++ List.replicate 16 0).take 16

/-- A record is offered to the log (R135, R136): written, or dropped when the log is full. The sequence
count is raised and then used (log 24); the log's live read index is read in either case (R6, R135). -/
def State.offer (s : State) (kind : RecordKind) (reason : Reason) (f : Frame) : State :=
  let seq := s.radio.logSeq + 1
  let counted := (s.onRadio fun r => { r with logSeq := seq }).granted .radioWriter
  if logFull s then
    let dropped := counted.onRadio fun r => { r with overflow := true }
    if s.radio.overflow then dropped else dropped.raise .logFull
  else
    ((counted.onXm fun m =>
        m.writeBytes (logBase s.radio.logIndex)
          (recordBytes seq (millisecondClock s) kind reason s.radio.overflow f)).onRadio fun r =>
      { r with logIndex := (r.logIndex + 1) % 64, overflow := false }).raise .radio

/-- A FRAME record. -/
def State.logFrame (s : State) (reason : Reason) (f : Frame) : State := s.offer .frame reason f

/-- A BEACON record raises BEACON as well (R133; log 17). -/
def State.logBeacon (s : State) (reason : Reason) (f : Frame) : State :=
  (s.offer .beacon reason f).raise .beacon

end Sys2Proof.Machine
end

