-- ==== Sys2Proof/Machine/Motion.lean ====
section
/-! DEFINITION. The motion unit (chapter 3): the period ring, axle rate, sensor states and wheel angle, and
the commands AXLE_EDGE and STALL_TIMER_EXPIRY. -/

namespace Sys2Proof.Machine

/-! ## Axle rate (R51, R52) -/

/-- R51. -/
def ringRate (ring : List Nat) : Nat :=
  if ring = [] then 0 else min 65535 (16000000 * ring.length / ring.sum)

/-- The most recent period (the ring is oldest first). -/
def Motion.lastPeriod (mo : Motion) : Nat := mo.ring.getLastD 0

/-- E, the time since the last accepted edge in microseconds, modulo 2^32 (R48, R52); 0 where there is
none, a case in which no rule uses it. -/
def Motion.elapsed (mo : Motion) (now : BitVec 32) : Nat :=
  match mo.lastEdge with
  | some e => (now - e).toNat
  | none => 0

/-- The rate formed at a regulation step (R52). -/
def Motion.decayed (mo : Motion) (now : BitVec 32) : Nat :=
  if mo.ring = [] then 0
  else if mo.cfg.window * 1000 ≤ mo.elapsed now then 0
  else if mo.lastPeriod < mo.elapsed now then min (ringRate mo.ring) (16000000 / mo.elapsed now)
  else ringRate mo.ring

/-- The traction controller takes m (R52). -/
def State.takeRate (s : State) : State :=
  s.onMotion fun mo => { mo with m := mo.decayed (captureClock s) }

/-! ## Edges (R48 to R50, R56) -/

/-- R48. -/
def MotionConfig.selects (c : MotionConfig) (rising : Bool) : Bool :=
  decide (c.magnets ≠ 0) &&
    match c.edge with
    | .rise => rising
    | .fall => !rising
    | .both => true

/-- R49. -/
def Motion.bounce (mo : Motion) (t : BitVec 32) : Bool :=
  match mo.lastEdge with
  | some e => decide ((t - e).toNat < 100)
  | none => false

/-- The ring with a period pushed: at M periods the oldest goes first (R50). -/
def pushPeriod (ring : List Nat) (magnets period : Nat) : List Nat :=
  (if magnets ≤ ring.length then ring.drop 1 else ring) ++ [period]

/-- The period and the rate of an accepted edge (R50). -/
def Motion.takePeriod (mo : Motion) (t : BitVec 32) : Motion :=
  match mo.lastEdge with
  | some e =>
    let ring := pushPeriod mo.ring mo.cfg.magnets (t - e).toNat
    { mo with ring := ring, m := ringRate ring }
  | none => mo

/-- The recovery count of an edge in LOST, and the return to OK (R56). -/
def Motion.recoverEdge (mo : Motion) : Motion :=
  if mo.sensor = .lost then
    if mo.recovery + 1 ≥ 2 * mo.cfg.magnets then
      { mo with sensor := .ok, recovery := 0, mark := true }
    else { mo with recovery := mo.recovery + 1 }
  else mo

/-- An accepted edge at capture time `t` and clock `now` (R50). -/
def Motion.acceptEdge (mo : Motion) (t : BitVec 32) (now : Nat) : Motion :=
  { (mo.takePeriod t).recoverEdge with
    lastEdge := some t
    p := if mo.p + 1 ≥ mo.cfg.magnets then 0 else mo.p + 1
    stall := some (now + ms mo.cfg.window)
    loss := 0
    edgeSinceStep := true }

/-- The stall timer's work (R53). -/
def Motion.stalled (mo : Motion) : Motion :=
  { mo with
    m := 0, ring := [], lastEdge := none, stall := none
    mark := mo.mark || decide (mo.sensor = .ok) }

/-- STALL_TIMER_EXPIRY (R53). -/
def stallTimerExpiry (s : State) : State :=
  match s.motion.stall with
  | some d => (s.reach d).onMotion Motion.stalled
  | none => s

def execStallTimerExpiry (s : State) : Host.Outcome State Fault Refusal := .next (stallTimerExpiry s)

/-- The next moment at which the capture clock shows `t` (R48; log 29). -/
def captureMoment (s : State) (t : BitVec 32) : Nat :=
  if captureClock s = t then s.clock
  else (s.clock / 1024 + (t - captureClock s).toNat) * 1024

/-- A stall expiry due before `now` comes before what happens at `now` (log 29). -/
def State.stallBefore (s : State) (now : Nat) : State :=
  match s.motion.stall with
  | some d => if d < now then stallTimerExpiry s else s
  | none => s

/-- AXLE_EDGE (R48 to R50). -/
def axleEdge (rising : Bool) (captureTime : BitVec 32) (s : State) : State :=
  if s.motion.cfg.selects rising then
    let now := captureMoment s captureTime
    let s := s.stallBefore now
    if s.motion.bounce captureTime then s
    else (s.reach now).onMotion fun mo => mo.acceptEdge captureTime now
  else s

def execAxleEdge (rising : Bool) (captureTime : BitVec 32) (s : State) :
    Host.Outcome State Fault Refusal :=
  .next (axleEdge rising captureTime s)

/-! ## Wheel angle (R57 to R59) -/

/-- M as R58 uses it. -/
def MotionConfig.camMagnets (c : MotionConfig) : Nat := max 1 c.magnets

/-- The angle from the edges (R57). -/
def Motion.edgeAngle (mo : Motion) (now : BitVec 32) : Nat :=
  let first := mo.p * 256 / mo.cfg.magnets
  if mo.ring = [] then first
  else
    first + min (mo.elapsed now) (mo.lastPeriod - 1) * 256 / (mo.cfg.magnets * mo.lastPeriod)

/-- The angle from the synthetic cam (R58). -/
def Motion.camAngle (mo : Motion) : Nat := mo.phi / (4000 * mo.cfg.camMagnets)

/-- θ as it is read (R57, R58). -/
def wheelAngle (s : State) : Nat :=
  match s.motion.sensor with
  | .ok => s.motion.edgeAngle (captureClock s)
  | .none | .lost => s.motion.camAngle

/-- The step of the synthetic cam at a frame boundary (R58). -/
def Motion.camStep (mo : Motion) (c : Nat) : Motion :=
  match mo.sensor with
  | .ok => mo
  | .none | .lost => { mo with phi := (mo.phi + c * 256) % (1024000 * mo.cfg.camMagnets) }

/-! ## Loss (R54) and load (R46) -/

/-- The loss count after a step in OK (R54). -/
def Motion.lossAfter (mo : Motion) (applied : Nat) : Nat :=
  if applied < 256 then 0 else if mo.edgeSinceStep then mo.loss else mo.loss + 1

/-- Entry to LOST (R54, R58). -/
def Motion.enterLost (mo : Motion) (now : BitVec 32) : Motion :=
  { mo with
    sensor := .lost, loss := 0, recovery := 0, mark := true
    phi := mo.edgeAngle now * 4000 * mo.cfg.magnets }

/-- The loss detection at a regulation step, with the duty applied since the one before (R54). -/
def State.lossDetection (s : State) (applied : Nat) : State :=
  let n := s.motion.lossAfter applied
  let s' := s.onMotion fun mo => { mo with edgeSinceStep := false }
  if s.motion.sensor = .ok then
    if n ≥ 250 then (s'.onMotion fun mo => mo.enterLost (captureClock s)).recordFault
    else s'.onMotion fun mo => { mo with loss := n }
  else s'

/-- The copy of the sensor configuration and the starting values that go with it (R46). -/
def Motion.load (mo : Motion) (cfg : MotionConfig) : Motion :=
  let sensor : Sensor := if cfg.magnets = 0 then .none else .ok
  { mo with
    cfg := cfg, sensor := sensor, ring := [], p := 0, lastEdge := none, m := 0, stall := none
    loss := 0, recovery := 0, phi := 0
    mark := mo.mark || decide (mo.sensor ≠ sensor) }

end Sys2Proof.Machine
end

