-- ==== Sys2Proof/Machine/Lamps.lean ====
section
/-! DEFINITION. The ten lamp channels (chapter 9, 9.1 to 9.3) and the commands EFFECT_TIMER_EXPIRY,
LAMP_PWM_PERIOD, LAMP_ON_TIME_END, LAMP_OVERCURRENT, LAMP_RETRY_EXPIRY and OPEN_LOAD_EXPIRY. -/

namespace Sys2Proof.Machine

/-! ## The unit's inputs -/

/-- The lamp and smoke fields of an empty set cache: nothing allowed (R32). -/
def LampSet.blank : LampSet where
  mask := 0
  scale := 0
  smokeFunction := 255
  idleSetpoint := 0
  workSetpoint := 0
  dryLimit := 0
  fanIdle := 0
  fanRun := 0
  puffDuty := 0
  puffWidth := 10
  purgeTime := 0

/-- The lamp and smoke fields of the cached set. -/
def State.lampSet (s : State) : LampSet :=
  match s.sets.cache with
  | some d => d.lamp
  | none => LampSet.blank

/-- Works through a list with the position of each entry, from position `k` on. -/
def mapFrom {α : Type} (f : Nat → α → α) : Nat → List α → List α
  | _, [] => []
  | k, x :: xs => f k x :: mapFrom f (k + 1) xs

/-- Works on one lamp. -/
def State.onLamp (s : State) (n : Nat) (f : Lamp → Lamp) : State :=
  s.onLamps fun u => { u with lamps := u.lamps.modify n f }

/-- Works on every lamp. -/
def State.onEachLamp (s : State) (f : Nat → Lamp → Lamp) : State :=
  s.onLamps fun u => { u with lamps := mapFrom f 0 u.lamps }

/-! ## Effects (R164 to R169) -/

/-- R164: the feedback of bits 15, 13, 12 and 10 enters at bit 0. -/
def lfsrStep (r : Half) : Half :=
  let feedback := ((r.getLsbD 15 ^^ r.getLsbD 13) ^^ r.getLsbD 12) ^^ r.getLsbD 10
  (r <<< 1) ||| (if feedback then 1 else 0)

def LampCopy.directionMet (c : LampCopy) (d : Direction) : Bool :=
  match c.direction with
  | .any => true
  | .fwd => decide (d = .forward)
  | .rev => decide (d = .reverse)

/-- The consist condition (R165): a locomotive outside a consist has role LEAD there, whatever role the radio block
gave it (log 40). -/
def LampCopy.consistMet (c : LampCopy) (r : Consist) : Bool :=
  match c.consist with
  | .any => true
  | .leadOnly => decide (r.number = 0) || decide (r.role = .lead)

/-- The on condition of lamp `n` (R165). -/
def lampCondition (s : State) (n : Nat) : Bool :=
  let l := s.lamps.lamp n
  s.isRun && l.copy.enabled && functionBit s.radio.request.functions l.copy.function
    && l.copy.directionMet s.traction.direction && l.copy.consistMet s.radio.consist
    && s.lampSet.mask.getLsbD n && decide (l.latched = .none) && l.retry.isNone

/-- Whether a DITCH lamp acts as STEADY (R167). -/
def ditchSteady (s : State) (n p : Nat) : Bool :=
  decide (p = n) || decide ((s.lamps.lamp p).copy.effect ≠ .ditch) || !lampCondition s p

/-- Whether a DITCH lamp that alternates is lit (R167). -/
def ditchLit (count rate n p : Nat) : Bool :=
  if count / rate % 2 = 0 then decide (n < p) else decide (p < n)

/-- The brightness of a ROTARY lamp (R166). -/
def rotaryBrightness (level rate phase : Nat) : Nat :=
  let low := level / 8
  let x := if phase ≤ rate then phase else 2 * rate - phase
  low + (level - low) * x / rate

/-- How many effect periods the cycle of an effect lasts: its phase runs from 0 to one less (R166). -/
def LampCopy.cycle (c : LampCopy) : Option Nat :=
  match c.effect with
  | .strobe => some (c.rate + 2)
  | .rotary => some (2 * c.rate)
  | .steady | .flicker | .ditch | .firebox => none

/-- The phase lies beyond the cycle of the effect: a start has copied another effect or a smaller rate into a lamp
whose on state a teardown had left set (R161, R166). DESIGN CHOICE (log 56): the manual states neither a brightness
nor a next phase there, and both are free values. -/
def Lamp.stray (l : Lamp) : Bool := l.copy.cycle.any fun n => decide (n ≤ l.phase)

/-- The effect brightness of a lamp whose on condition holds (R166, R167); the unit's LFSR and effect
count are those of this period. -/
def effectBrightness (s : State) (n : Nat) (l : Lamp) : Nat :=
  let c := l.copy
  if l.stray then (Config.strayBrightness c.level c.rate l.phase).toNat
  else match c.effect with
  | .steady => c.level
  | .flicker => c.level * (128 + s.lamps.lfsr.toNat % 128) / 256
  | .strobe => if l.phase < 2 then c.level else 0
  | .rotary => rotaryBrightness c.level c.rate l.phase
  | .ditch =>
    if ditchSteady s n c.partner || ditchLit s.lamps.effectCount.toNat c.rate n c.partner
    then c.level else 0
  | .firebox => l.flare

/-- The phase after one more effect period: it wraps from the last of the cycle to 0 (R166); beyond the cycle the next
phase is free among those of the state table of R161 (log 56). -/
def Lamp.nextPhase (l : Lamp) (cycle : Nat) : Nat :=
  if l.phase + 1 < cycle then l.phase + 1
  else if l.phase + 1 = cycle then 0
  else (Config.strayPhase cycle l.phase).val

/-- What an effect moves after its brightness is formed (R166). DESIGN CHOICE (log 58): a FIREBOX flare that is below
level div 4 already (an old flare kept through a teardown and a start with a larger level, the on state staying set) is
raised to it; the rule says only that the flare falls, not below level div 4. -/
def Lamp.advanceEffect (l : Lamp) : Lamp :=
  let c := l.copy
  match c.effect with
  | .strobe => { l with phase := l.nextPhase (c.rate + 2) }
  | .rotary => { l with phase := l.nextPhase (2 * c.rate) }
  | .firebox => { l with flare := max (c.level / 4) (l.flare - c.level / 8) }
  | .steady | .flicker | .ditch => l

/-- The effect started afresh (R165). -/
def Lamp.freshEffect (l : Lamp) : Lamp := { l with phase := 0, flare := l.copy.level / 4 }

/-- Scale and cap (R169, 1 and 2; at level 5 the target is 0). -/
def lampTarget (brightness scale shed : Nat) : Nat :=
  let scaled := brightness * scale / 255
  if shed ≥ 5 then 0 else if shed ≥ 2 then min 64 scaled else scaled

/-- Fade (R169, 3). -/
def fadeToward (shown target step : Nat) : Nat :=
  if step = 0 then target
  else if shown < target then min target (shown + step)
  else max target (shown - step)

/-- A lamp's fault test takes place: not DISABLED, not latched (R161, R170). -/
def Lamp.tested (l : Lamp) : Bool := l.copy.enabled && decide (l.latched = .none)

/-- The condition of the open-load test (R172). -/
def Lamp.openCondition (l : Lamp) : Bool :=
  l.tested && l.copy.openEnable && decide (l.copy.openMode ≠ .ignore)
    && decide (64 ≤ l.shown) && decide (l.lastCode < l.copy.openThreshold)

/-- The open-load timer and episode at an effect period (R172; log 31). -/
def Lamp.openTest (l : Lamp) (now : Nat) : Lamp :=
  if l.openCondition then
    match l.openTimer with
    | some _ => l
    | none => { l with openTimer := some (now + ms 250) }
  else { l with openTimer := none, openEpisode := false }

/-- Whether an effect period clears the overcurrent episode (R171). -/
def Lamp.episodeEnds (l : Lamp) (condition : Bool) : Bool :=
  (!l.seenEffect && l.on) || (!condition && l.retry.isNone)

/-- One lamp at an effect period, given whether its on condition holds (R165 to R172). -/
def effectStep (s : State) (condition : Bool) (n : Nat) (l : Lamp) : Lamp :=
  let l := { l with overEpisode := l.overEpisode && !l.episodeEnds condition, seenEffect := false }
  let l := if condition && !l.on then l.freshEffect else l
  let l := { l with on := condition }
  let brightness := if condition then effectBrightness s n l else 0
  let target := lampTarget brightness s.lampSet.scale s.supply.shed
  let l := if condition then l.advanceEffect else l
  let l := { l with shown :=
    if l.copy.enabled then fadeToward l.shown target l.copy.fadeStep else 0 }
  l.openTest s.clock

/-- EFFECT_TIMER_EXPIRY (R164): every on condition is formed before any brightness (R167). -/
def effectTimerExpiry (s : State) : State :=
  let s := s.reach s.timers.effect
  let s := s.onTimers fun t => { t with effect := s.clock + ms 16 }
  let s := s.onLamps fun u =>
    { u with lfsr := lfsrStep u.lfsr, effectCount := u.effectCount + 1 }
  s.onEachLamp fun n => effectStep s (lampCondition s n) n

def execEffectTimerExpiry (s : State) : Host.Outcome State Fault Refusal :=
  .next (effectTimerExpiry s)

/-- A chuff event reaches the lamps (R168). -/
def Lamp.chuff (l : Lamp) : Lamp :=
  if l.copy.effect = .firebox ∧ l.on = true then { l with flare := l.copy.level } else l

/-! ## Outputs (R163, R169) -/

/-- What a lamp's output pin is connected to. -/
inductive LampContact where
  | released | ground | supply
deriving DecidableEq, Repr

/-- The output during its on-time connects the lamp to ground under LOW and to the lamp supply under HIGH
(R163). -/
def Lamp.contact (l : Lamp) : LampContact :=
  if l.output then
    match l.copy.side with
    | .low => .ground
    | .high => .supply
  else .released

/-- The output off and displayed brightness 0, at once. DESIGN CHOICE (log 43): an on-time cut short so leaves
the current code of the last on-time that ran to its end (R172). -/
def Lamp.dark (l : Lamp) : Lamp := { l with shown := 0, output := false, onTime := 0 }

/-- The effect of a rise of the shed level at its arrival (R169). -/
def Lamp.shedRise (l : Lamp) (level : Nat) : Lamp :=
  if level ≥ 5 then l.dark else if level ≥ 2 then { l with shown := min 64 l.shown } else l

/-- A lamp at a teardown (R169, R181). -/
def Lamp.teardown (l : Lamp) : Lamp :=
  { l.dark with retry := none, openTimer := none, overEpisode := false, openEpisode := false }

/-- LAMP_PWM_PERIOD (R163, R171): the displayed brightness becomes the on-time of a new period. -/
def lampPwmPeriod (n : Fin 10) (s : State) : State :=
  let s := s.reach (s.lamps.lamp n).pwmDue
  s.onLamp n fun l =>
    { l with
      pwmDue := s.clock + us 1024
      onTime := 4 * l.shown
      output := decide (0 < l.shown)
      seenPwm := false }

def execLampPwmPeriod (n : Fin 10) (s : State) : Host.Outcome State Fault Refusal :=
  .next (lampPwmPeriod n s)

/-- When the running PWM period of a lamp began. -/
def Lamp.periodStart (l : Lamp) : Nat := l.pwmDue - us 1024

/-- LAMP_ON_TIME_END (R163, R172): the output goes off; its current is the last code. -/
def lampOnTimeEnd (n : Fin 10) (milliamps : Nat) (s : State) : State :=
  let l := s.lamps.lamp n
  if l.output then
    (s.reach (l.periodStart + us l.onTime)).onLamp n fun l =>
      { l with output := false, lastCode := currentCode milliamps }
  else s

def execLampOnTimeEnd (n : Fin 10) (milliamps : Nat) (s : State) : Host.Outcome State Fault Refusal :=
  .next (lampOnTimeEnd n milliamps s)

/-! ## Faults (R170 to R173) -/

/-- A lamp fault is recorded (R170). -/
def State.recordLampFault (s : State) (n : Nat) (kind : LampFault) : State :=
  (s.onLamp n fun l => { l with episodes := l.episodes + 1, lastKind := kind }).recordFault

/-- How long after the start of the on-time the count of 20 us is complete, for a code that rose `since` after that
start (R171; log 23). -/
def overcurrentAfter (since : Nat) : Nat := since + us 20

/-- An overcurrent is detected in this PWM period (R171; log 23). -/
def Lamp.overcurrent (l : Lamp) (milliamps since : Nat) : Bool :=
  l.tested && l.output && !l.seenPwm && decide (600 ≤ currentCode milliamps)
    && decide (overcurrentAfter since ≤ us l.onTime)

/-- Records an overcurrent unless its episode is set, and sets the episode (R171). -/
def State.overEpisode (s : State) (n : Nat) : State :=
  let s' := s.onLamp n fun l => { l with overEpisode := true }
  if (s.lamps.lamp n).overEpisode then s' else s'.recordLampFault n .overcurrent

/-- What a detection does under the lamp's mode (R171). -/
def overcurrentDetected (s : State) (n : Nat) : State :=
  match (s.lamps.lamp n).copy.overMode with
  | .latch =>
    (s.onLamp n fun l => { l.dark with latched := .overcurrent }).recordLampFault n .overcurrent
  | .retry => (s.onLamp n fun l => { l.dark with retry := some (s.clock + ms 100) }).overEpisode n
  | .report => s.overEpisode n
  | .ignore => s

/-- LAMP_OVERCURRENT (R171). -/
def lampOvercurrent (n : Fin 10) (milliamps since : Nat) (s : State) : State :=
  let l := s.lamps.lamp n
  if l.overcurrent milliamps since then
    overcurrentDetected
      ((s.reach (l.periodStart + overcurrentAfter since)).onLamp n fun l =>
        { l with seenPwm := true, seenEffect := true }) n
  else s

def execLampOvercurrent (n : Fin 10) (milliamps since : Nat) (s : State) :
    Host.Outcome State Fault Refusal :=
  .next (lampOvercurrent n milliamps since s)

/-- LAMP_RETRY_EXPIRY (R171). -/
def lampRetryExpiry (n : Fin 10) (s : State) : State :=
  match (s.lamps.lamp n).retry with
  | some d => (s.reach d).onLamp n fun l => { l with retry := none }
  | none => s

def execLampRetryExpiry (n : Fin 10) (s : State) : Host.Outcome State Fault Refusal :=
  .next (lampRetryExpiry n s)

/-- What an open-load detection does under the lamp's mode (R172). -/
def openLoadDetected (s : State) (n : Nat) : State :=
  let l := s.lamps.lamp n
  if l.tested then
    match l.copy.openMode with
    | .latch =>
      (s.onLamp n fun l => { l.dark with latched := .openLoad }).recordLampFault n .openLoad
    | .report =>
      let s' := s.onLamp n fun l => { l with openEpisode := true }
      if l.openEpisode then s' else s'.recordLampFault n .openLoad
    | .ignore => s
  else s

/-- OPEN_LOAD_EXPIRY (R172). -/
def openLoadExpiry (n : Fin 10) (s : State) : State :=
  match (s.lamps.lamp n).openTimer with
  | some d => openLoadDetected ((s.reach d).onLamp n fun l => { l with openTimer := none }) n
  | none => s

def execOpenLoadExpiry (n : Fin 10) (s : State) : Host.Outcome State Fault Refusal :=
  .next (openLoadExpiry n s)

/-- A CLEAR_FAULTS bit acts on a lamp (R173). DESIGN CHOICE (log 44): its open-load timer stops on a lamp
without a latched fault as well. -/
def Lamp.clear (l : Lamp) : Lamp :=
  { l with
    latched := .none, retry := none, overEpisode := false, openEpisode := false, openTimer := none }

/-! ## Copies of the lamp table (R161, R162) -/

/-- A start takes the copy of an entry (R161). -/
def Lamp.startCopy (l : Lamp) (c : LampCopy) : Lamp :=
  let l := { l with copy := c }
  if c.enabled then l else l.dark

/-- LOAD_LAMPS takes the copy of an entry (R162). -/
def Lamp.reload (l : Lamp) (c : LampCopy) : Lamp :=
  { (l.startCopy c).freshEffect with openTimer := none, overEpisode := false, openEpisode := false }

end Sys2Proof.Machine
end

