-- ==== Sys2Proof/Machine/Smoke.lean ====
section
/-! DEFINITION. The heater and the fan (chapter 9, 9.4 and 9.5), the arrivals of a chuff, of a shed level
and of a teardown at the lamp and smoke unit, and the commands HEATER_TIMER_EXPIRY, PUFF_TIMER_EXPIRY,
PURGE_TIMER_EXPIRY, FAN_PWM_PERIOD and FAN_OVERCURRENT. -/

namespace Sys2Proof.Machine

def State.onHeater (s : State) (f : Heater → Heater) : State :=
  s.onLamps fun u => { u with heater := f u.heater }

def State.onFan (s : State) (f : Fan → Fan) : State :=
  s.onLamps fun u => { u with fan := f u.fan }

/-! ## The fan (R180, R181) -/

/-- The duty asked for (R180). -/
def fanAsked (s : State) : Nat :=
  match s.lamps.fan.state with
  | .off | .latched => 0
  | .run => if s.lamps.fan.fast then s.lampSet.fanRun else s.lampSet.fanIdle
  | .puff => s.lampSet.puffDuty
  | .purge => s.lampSet.fanIdle

/-- The duty that reaches SMF (R181). -/
def fanDuty (s : State) : Nat :=
  if s.isRun = true ∧ s.supply.shed < 2 then fanAsked s else 0

/-- RUN entered, or its duty chosen again, from c (R180). -/
def State.fanRuns (s : State) : State :=
  s.onFan fun f => { f with state := .run, fast := decide (s.traction.c ≠ 0) }

/-- The heater enters REGULATE (R180). -/
def State.fanStart (s : State) : State :=
  match s.lamps.fan.state with
  | .off | .purge => (s.onFan fun f => { f with purge := none }).fanRuns
  | .run | .puff | .latched => s

/-- The heater leaves REGULATE (R180). -/
def State.fanPurge (s : State) : State :=
  match s.lamps.fan.state with
  | .run | .puff =>
    s.onFan fun f =>
      if s.lampSet.purgeTime = 0 then { f with state := .off, puff := none }
      else
        { f with state := .purge, puff := none, purge := some (s.clock + ms (1000 * s.lampSet.purgeTime)) }
  | .off | .purge | .latched => s

/-- The fan follows the heater into and out of REGULATE; `before` is the heater state before. -/
def State.fanFollows (s : State) (before : HeaterState) : State :=
  if before = .regulate then (if s.lamps.heater.state = .regulate then s else s.fanPurge)
  else if s.lamps.heater.state = .regulate then s.fanStart else s

/-- A chuff at the fan (R180). -/
def State.fanChuff (s : State) : State :=
  match s.lamps.fan.state with
  | .run | .puff =>
    s.onFan fun f => { f with state := .puff, puff := some (s.clock + ms s.lampSet.puffWidth) }
  | .off | .purge | .latched => s

/-- The half-bridge once it is asked for its high side or its low side at time `now`, with the dead time and by
the rules of the motor bridges' gates (R89, R181). -/
def FanLeg.ask (g : FanLeg) (now : Nat) (askHigh : Bool) : FanLeg where
  high := highNext now g.high g.low askHigh (!askHigh) g.lowOff
  low := lowNext now g.high g.low askHigh (!askHigh) g.highOff
  highOff := offTime now g.high askHigh g.highOff
  lowOff := offTime now g.low (!askHigh) g.lowOff

/-- The end of the running period's on-phase (R181). -/
def Fan.phaseEnd (f : Fan) : Nat := f.periodStart + onPhase f.drive

/-- The half-bridge at a later moment of the running period (R181; log 22): the high side is asked for up to the
end of the on-phase, the low side from there on. A dead time that ends with the on-phase turns nothing on (DESIGN
CHOICE, unsafe, log 57). -/
def Fan.legAt (f : Fan) (now : Nat) : FanLeg :=
  if now < f.phaseEnd then f.leg.ask now true
  else if f.since < f.phaseEnd then
    ((f.leg.ask (f.phaseEnd - 1) true).ask f.phaseEnd false).ask now false
  else f.leg.ask now false

/-- The duty on SMF becomes `duty` at time `now`, in a PWM period that began at `start`. -/
def Fan.driveAt (f : Fan) (now start duty : Nat) : Fan :=
  { f with
    drive := duty, periodStart := start, since := now
    leg := (f.legAt now).ask now (decide (now < start + onPhase duty)) }

/-- The output takes the duty in force at once (R181). -/
def State.fanDriveNow (s : State) : State :=
  s.onFan fun f => f.driveAt s.clock f.periodStart (fanDuty s)

/-- FAN_PWM_PERIOD (R181). A duty that the fan's state has changed reaches SMF here, at the start of the next
period (DESIGN CHOICE, unsafe, log 51). -/
def fanPwmPeriod (s : State) : State :=
  let s := s.reach s.timers.fanPwm
  let s := s.onTimers fun t => { t with fanPwm := s.clock + us 50 }
  s.onFan fun f => f.driveAt s.clock s.clock (fanDuty s)

def execFanPwmPeriod (s : State) : Host.Outcome State Fault Refusal := .next (fanPwmPeriod s)

/-- PUFF_TIMER_EXPIRY (R180). -/
def puffTimerExpiry (s : State) : State :=
  match s.lamps.fan.puff with
  | some d => ((s.reach d).onFan fun f => { f with puff := none }).fanRuns
  | none => s

def execPuffTimerExpiry (s : State) : Host.Outcome State Fault Refusal := .next (puffTimerExpiry s)

/-- PURGE_TIMER_EXPIRY (R180). -/
def purgeTimerExpiry (s : State) : State :=
  match s.lamps.fan.purge with
  | some d => (s.reach d).onFan fun f => { f with purge := none, state := .off }
  | none => s

def execPurgeTimerExpiry (s : State) : Host.Outcome State Fault Refusal := .next (purgeTimerExpiry s)

/-- When the high side turned on in the running on-phase: with what it is asked for, or once the dead time
after the low side's turn-off is over (R181). -/
def Fan.highFrom (f : Fan) : Nat :=
  if f.leg.high then f.since
  else
    match f.leg.lowOff with
    | some t => max f.since (t + deadTime)
    | none => f.since

/-- A fan overcurrent is detected (R182; log 23): the code stays at 1000 for 20 us of the on-phase, from `since` after
the high side's turn-on. -/
def fanOvercurrentSeen (f : Fan) (milliamps since : Nat) : Bool :=
  decide (f.state ≠ .latched) && decide (1000 ≤ currentCode milliamps)
    && decide (f.highFrom + overcurrentAfter since ≤ f.phaseEnd)

/-- FAN_OVERCURRENT (R182). -/
def fanOvercurrent (milliamps since : Nat) (s : State) : State :=
  if fanOvercurrentSeen s.lamps.fan milliamps since then
    let s := s.reach (s.lamps.fan.highFrom + overcurrentAfter since)
    (s.onFan fun f =>
      { f.driveAt s.clock f.periodStart 0 with state := .latched, puff := none, purge := none }).recordFault
  else s

def execFanOvercurrent (milliamps since : Nat) (s : State) : Host.Outcome State Fault Refusal :=
  .next (fanOvercurrent milliamps since s)

/-- CLEAR_FAULTS bit 13 (R182). -/
def State.clearFan (s : State) : State :=
  if s.lamps.fan.state = .latched then
    if s.lamps.heater.state = .regulate then s.fanRuns else s.onFan fun f => { f with state := .off }
  else s

/-! ## The heater (R174 to R179) -/

/-- R175. -/
def heaterEnabled (s : State) : Bool :=
  s.isRun && decide (s.lampSet.smokeFunction ≤ 31)
    && functionBit s.radio.request.functions s.lampSet.smokeFunction
    && decide (s.supply.shed = 0) && !s.lamps.heater.latched

/-- R175: limited to the dry limit − 16, and 0 where that lies below 0. -/
def setpoint (s : State) : Nat :=
  min (if s.traction.c = 0 then s.lampSet.idleSetpoint else s.lampSet.workSetpoint)
    (s.lampSet.dryLimit - 16)

/-- PREHEAT or REGULATE. -/
def Heater.working (h : Heater) : Bool :=
  match h.state with
  | .preheat | .regulate => true
  | .off | .dry => false

/-- Stage 1 of R177, and the arrivals of R178 that take the enable away. -/
def Heater.unlessEnabled (h : Heater) (enabled : Bool) : Heater :=
  if h.working && !enabled then { h with state := .off, output := false } else h

/-- The sensor test finds a fault that is not latched yet (R176). -/
def sensorFault (s : State) : Bool :=
  s.isRun && (decide (s.lamps.heater.lastT < 16) || decide (1008 < s.lamps.heater.lastT))
    && !s.lamps.heater.sensor

/-- R176. -/
def Heater.latchSensor (h : Heater) : Heater :=
  { h with sensor := true, output := false, state := if h.working then .off else h.state }

def State.sensorTest (s : State) : State :=
  if sensorFault s then (s.onHeater Heater.latchSensor).recordFault else s

/-- Stage 2 of R177 finds the heater dry, on the last T. -/
def dryFault (s : State) : Bool :=
  s.lamps.heater.working && decide (s.lampSet.dryLimit < s.lamps.heater.lastT)

def State.dryTest (s : State) : State :=
  if dryFault s then
    (s.onHeater fun h => { h with dry := true, state := .dry, output := false }).recordFault
  else s

/-- Stage 3 of R177. -/
def Heater.start (h : Heater) (enabled : Bool) : Heater :=
  if decide (h.state = .off) && enabled then { h with state := .preheat, preheat := 0 } else h

/-- Stage 4 of R177 ends in NOHEAT. -/
def heatFails (s : State) : Bool :=
  decide (s.lamps.heater.state = .preheat) && decide (s.lamps.heater.lastT < setpoint s)
    && decide (600 ≤ s.lamps.heater.preheat + 1)

/-- Stages 4 and 5 of R177 on the last T; `raised` is by how much PREHEAT counts. -/
def Heater.work (h : Heater) (point raised : Nat) : Heater :=
  match h.state with
  | .preheat =>
    if point ≤ h.lastT then { h with state := .regulate, output := false }
    else if raised ≠ 0 ∧ 600 ≤ h.preheat + raised then
      { h with preheat := h.preheat + raised, noHeat := true, state := .off, output := false }
    else { h with preheat := h.preheat + raised, output := true }
  | .regulate =>
    { h with output := if h.lastT + 8 < point then true else if point < h.lastT then false else h.output }
  | .off | .dry => h

/-- HEATER_TIMER_EXPIRY (R174, R176, R177; the fan's choice: R180). -/
def heaterTimerExpiry (thermistor : BitVec 10) (s : State) : State :=
  let before := s.lamps.heater.state
  let s := s.reach s.timers.heater
  let s := s.onTimers fun t => { t with heater := s.clock + ms 100 }
  let s := s.onHeater fun h => { h with lastT := thermistor.toNat }
  let s := s.sensorTest
  let s := s.onHeater fun h => h.unlessEnabled (heaterEnabled s)
  let s := s.dryTest
  let s := s.onHeater fun h => h.start (heaterEnabled s)
  let fails := heatFails s
  let s := s.onHeater fun h => h.work (setpoint s) 1
  let s := if fails then s.recordFault else s
  let s := s.fanFollows before
  if s.lamps.fan.state = .run then s.fanRuns else s

def execHeaterTimerExpiry (thermistor : BitVec 10) (s : State) : Host.Outcome State Fault Refusal :=
  .next (heaterTimerExpiry thermistor s)

/-- The enable is formed again at the arrival of a shed level or of function bits (R178). -/
def State.heaterArrival (s : State) : State :=
  (s.onHeater fun h => h.unlessEnabled (heaterEnabled s)).fanFollows s.lamps.heater.state

/-- A change of the set cache reaches the heater (R178). -/
def State.heaterSetChange (s : State) : State :=
  let before := s.lamps.heater.state
  let s := s.onHeater fun h => h.unlessEnabled (heaterEnabled s)
  let s := s.dryTest
  let s := s.onHeater fun h => h.work (setpoint s) 0
  s.fanFollows before

/-- CLEAR_FAULTS bit 12 (R179). -/
def Heater.clear (h : Heater) : Heater :=
  if h.latched then
    { h with
      noHeat := false, dry := false, sensor := false, preheat := 0
      state := if h.state = .dry then .off else h.state }
  else h

/-! ## Arrivals at the whole unit -/

/-- A chuff event (R154, R168, R180). -/
def State.chuffEvent (s : State) : State := (s.onEachLamp fun _ => Lamp.chuff).fanChuff

/-- A shed level, now in force, replaces `before` (R169, R178, R181). -/
def State.lampShedChange (s : State) (before : Nat) : State :=
  let s := if before < s.supply.shed then s.onEachLamp fun _ l => l.shedRise s.supply.shed else s
  let s := s.heaterArrival
  if (decide (before < 2)) = (decide (s.supply.shed < 2)) then s else s.fanDriveNow

def Heater.teardown (h : Heater) : Heater :=
  { h with state := if h.state = .dry then .dry else .off, output := false }

def Fan.teardown (f : Fan) (now : Nat) : Fan :=
  { f.driveAt now f.periodStart 0 with
    state := if f.state = .latched then .latched else .off, puff := none, purge := none }

/-- The unit at a teardown (R181). -/
def LampUnit.teardown (u : LampUnit) (now : Nat) : LampUnit :=
  { u with
    lamps := u.lamps.map Lamp.teardown, heater := u.heater.teardown, fan := u.fan.teardown now }

end Sys2Proof.Machine
end

