-- ==== Sys2Proof/Machine/Sound.lean ====
section
/-! DEFINITION. The sound engine (chapter 8): clips and voices, streams, the engine voice, chuffs, triggers,
the mixer, and the commands SAMPLE_TIMER_EXPIRY and MIXER_FRAME. -/

namespace Sys2Proof.Machine

/-! ## Voices -/

def Sound.voice (u : Sound) (n : Nat) : Voice := u.voices.getD n Voice.idle

/-- Works on one voice. -/
def State.onVoice (s : State) (n : Nat) (f : Voice → Voice) : State :=
  s.onSound fun u => { u with voices := u.voices.modify n f }

/-- A voice sounds while PLAYING or FADING (R140). -/
def Voice.sounds (v : Voice) : Bool :=
  match v.state with
  | .playing | .fading => true
  | .idle | .starved => false

/-- The voices are frozen (R150). -/
def frozen (s : State) : Bool := decide (3 ≤ s.supply.shed)

/-- The status record's stream-starved flag (R158). -/
def streamStarved (s : State) : Bool := s.sound.voices.any fun v => decide (v.state = .starved)

/-! ## Stream segments (R157 to R159) -/

/-- The state byte of segment A, or of segment B when `second` (11.6). -/
def segmentAddr (clip : Nat) (second : Bool) : Nat := clipBase clip + 0x0E + boolNat second

/-- A segment that reads FULL or FULL_LAST can be taken (R157); the answer is whether it reads FULL_LAST. A byte above 3,
which is none of the four states, is treated as EMPTY and PLAYING are: it is left unchanged, a start fails, and a
voice at a boundary goes STARVED (DESIGN CHOICE, unsafe, log 55). -/
def segmentFull (s : State) (clip : Nat) (second : Bool) : Option Bool :=
  let b := s.xm.read (segmentAddr clip second)
  if b = 1 then some false else if b = 2 then some true else none

/-- The segment byte becomes PLAYING (R157). -/
def State.playSegment (s : State) (clip : Nat) (second : Bool) : State :=
  s.onXm fun m => m.write (segmentAddr clip second) 3

/-- The voice leaves a segment: EMPTY, and STREAM raised (R157, R159). -/
def State.leaveSegment (s : State) (clip : Nat) (second : Bool) : State :=
  (s.onXm fun m => m.write (segmentAddr clip second) 0).raise .stream

/-- The position at which segment B begins, in 1/256 byte. -/
def ClipEntry.half (e : ClipEntry) : Nat := e.length / 2 * 256

/-- The position of the clip's end, in 1/256 byte. -/
def ClipEntry.ends (e : ClipEntry) : Nat := e.length * 256

/-- Whether a stream voice plays segment B. -/
def Voice.inSecond (v : Voice) : Bool := decide (v.entry.half ≤ v.position)

/-- A voice is stopped; a STREAM voice that holds a segment PLAYING releases it (R159). -/
def State.stopVoice (s : State) (n : Nat) : State :=
  let v := s.sound.voice n
  let s := if v.sounds && decide (v.entry.kind = 2) then s.leaveSegment v.clip v.inSecond else s
  s.onVoice n fun v => { v with state := .idle }

/-! ## Starting a voice (R139, R141) -/

/-- Which kinds a use allows (R139); the PLAY order has no use code and allows all. -/
def ClipUse.allows (use : ClipUse) (kind : Nat) : Bool :=
  match use with
  | .none => decide (kind ≤ 2)
  | .engine => decide (kind = 1)
  | .chuff | .start | .stop | .horn | .function => decide (kind ≤ 1)

/-- How a start's repeat setting is given. -/
inductive RepeatSetting where
  /-- No repeat for ONE_SHOT, a single pass of the loop for LOOP (R154). -/
  | once
  | endless
  /-- PLAY's repeat count (R143). -/
  | count (n : Nat)
deriving DecidableEq, Repr

/-- Repeats left at a start, by the clip's kind; none is ENDLESS (R143, R154, R156). -/
def RepeatSetting.left (r : RepeatSetting) (kind : Nat) : Option Nat :=
  match r with
  | .once => some (if kind = 1 then 1 else 0)
  | .endless => none
  | .count n => if kind = 1 then (if n = 0 then none else some n) else if kind = 0 then some n else some 0

/-- The fields a start is given (R141). A volume or a pitch of none is the clip's own. -/
structure StartFields where
  volume : Option Nat
  pitch : Option Nat
  repeats : RepeatSetting
  priority : Nat
  starter : Starter
deriving DecidableEq, Repr

/-- The voice right after a start at stamp `stamp` (R141, 4). -/
def startedVoice (clip : Nat) (e : ClipEntry) (f : StartFields) (stamp : Reg) (last : Bool) : Voice where
  state := .playing
  clip := clip
  entry := e
  position := 0
  step := f.pitch.getD (clampPitch e.basePitch)
  volume := f.volume.getD e.volume
  envelope := 255
  fadeStep := 0
  repeats := f.repeats.left e.kind
  priority := f.priority
  starter := f.starter
  stamp := stamp
  lastSegment := last

/-- R141, 4: the start count is raised and written as the stamp. -/
def State.voiceStarts (s : State) (n clip : Nat) (e : ClipEntry) (f : StartFields) (last : Bool) : State :=
  (s.onSound fun u => { u with startCount := u.startCount + 1 }).onVoice n fun _ =>
    startedVoice clip e f (s.sound.startCount + 1) last

/-- A clip's entry is valid for a use (R139), its index being 0 to 63. -/
def validFor (use : ClipUse) (clip : Nat) (e : ClipEntry) : Bool :=
  decide (clip ≤ 63) && e.valid && use.allows e.kind

/-- The start of a voice (R141), and whether it was made. -/
def State.startVoice (s : State) (n clip : Nat) (use : ClipUse) (f : StartFields) : State × Bool :=
  let s := s.stopVoice n
  let e := loadClip s.xm clip
  if validFor use clip e then
    if e.kind = 2 then
      match segmentFull s clip false with
      | some last => ((s.playSegment clip false).voiceStarts n clip e f last, true)
      | none => (s, false)
    else (s.voiceStarts n clip e f false, true)
  else (s, false)

/-- A CLIP fault (R139). -/
def State.clipFault (s : State) (clip : Nat) (use : ClipUse) : State :=
  (s.onSound fun u => { u with badClip := some clip, badUse := use }).recordFault

/-- A start by the engine, chuff or trigger rules: "none" stops the voice and starts nothing, an invalid
clip leaves it IDLE with a CLIP fault (R139). -/
def State.startOrFault (s : State) (n clip : Nat) (use : ClipUse) (f : StartFields) : State :=
  if 63 < clip then s.stopVoice n
  else
    let (s', made) := s.startVoice n clip use f
    if made then s' else s'.clipFault clip use

/-! ## Allocation (R142) -/

/-- How far a voice's stamp lies behind the start count (R140). -/
def Voice.age (v : Voice) (count : Reg) : Nat := (count - v.stamp).toNat

/-- Whether voice `v` is stolen rather than `w`: lower priority, then earlier start. -/
def Voice.stolenBefore (count : Reg) (v w : Voice) : Bool :=
  decide (v.priority < w.priority) || (decide (v.priority = w.priority) && decide (w.age count < v.age count))

/-- The candidate to steal among the voices listed. -/
def stealCandidate (u : Sound) (priority : Nat) : List Nat → Option Nat
  | [] => none
  | n :: rest =>
    let best := stealCandidate u priority rest
    if (u.voice n).priority < priority then
      match best with
      | some k => if (u.voice k).stolenBefore u.startCount (u.voice n) then some k else some n
      | none => some n
    else best

/-- The pool. -/
def pool : List Nat := [2, 3, 4, 5, 6, 7]

/-- R142. -/
def Sound.allocate (u : Sound) (priority : Nat) : Option Nat :=
  match pool.find? fun n => decide ((u.voice n).state = .idle) with
  | some n => some n
  | none => stealCandidate u priority pool

/-! ## Triggered clips (R155, R156) -/

/-- A trigger (R155, R156): none is taken in QUIET (R160), "none" starts nothing, a failed allocation
drops it. -/
def State.trigger (s : State) (clip : Nat) (use : ClipUse) (f : StartFields) : State :=
  if s.isRun = true ∧ clip ≤ 63 then
    match s.sound.allocate f.priority with
    | some n => s.startOrFault n clip use f
    | none => s
  else s

def eventFields (priority : Nat) : StartFields where
  volume := none
  pitch := none
  repeats := .once
  priority := priority
  starter := .event

/-- The sound scheme of an empty set cache: none of everything (R32). -/
def SoundSet.blank : SoundSet where
  engineClip := 255
  basePitch := 0
  slope := 0
  chuffClips := []
  chuffPoints := []
  workVolume := 0
  driftVolume := 0
  driftDuty := 0
  startClip := 255
  stopClip := 255
  hornClip := 255
  triggers := []

/-- The sound scheme of the cached set. -/
def State.soundSet (s : State) : SoundSet :=
  match s.sets.cache with
  | some d => d.sound
  | none => SoundSet.blank

/-- The start clip, the stop clip and the beacon horn (R155). -/
def State.playStartClip (s : State) : State := s.trigger s.soundSet.startClip .start (eventFields 1)
def State.playStopClip (s : State) : State := s.trigger s.soundSet.stopClip .stop (eventFields 1)
def State.playHorn (s : State) : State := s.trigger s.soundSet.hornClip .horn (eventFields 3)

/-- The start of a trigger entry's clip (R156). -/
def State.functionClip (s : State) (k : Nat) (t : Trigger) : State :=
  s.trigger t.clip .function
    { volume := none, pitch := none, repeats := if t.hold then .endless else .once, priority := 2
      starter := .function k t.hold }

/-- A voice that carries the starter of a HOLD entry, or of any when `k` is none. -/
def Voice.heldBy (v : Voice) (k : Option Nat) : Bool :=
  decide (v.state ≠ .idle) &&
    match v.starter with
    | .function j hold => hold && k.all fun i => decide (i = j)
    | .order | .event | .chuff | .engine => false

/-- A voice enters FADING with fade step 16 (R156). -/
def Voice.fade16 (v : Voice) : Voice := { v with state := .fading, fadeStep := 16 }

/-- One trigger entry at a change of the function bits (R156). -/
def State.functionTrigger (s : State) (before after : Reg) (k : Nat) (t : Trigger) : State :=
  match functionBit before t.function, functionBit after t.function with
  | false, true => s.functionClip k t
  | true, false =>
    if t.hold then
      s.onSound fun u =>
        { u with voices := u.voices.map fun v => if v.heldBy (some k) then v.fade16 else v }
    else s
  | _, _ => s

/-- Works through the trigger entries from number `k` on. -/
def triggersFrom (act : State → Nat → Trigger → State) : Nat → List Trigger → State → State
  | _, [], s => s
  | k, t :: ts, s => triggersFrom act (k + 1) ts (act s k t)

/-- The sound engine is told of a change of function bits (R156). DESIGN CHOICE (log 45): the trigger entries act
in ascending order of their numbers. -/
def State.soundFunctions (s : State) (before : Reg) : State :=
  triggersFrom (fun s k t => s.functionTrigger before s.radio.request.functions k t) 0
    s.soundSet.triggers s

/-! ## The engine voice (R151, R152) -/

/-- The rate that pitches the engine (R152). -/
def engineRate (s : State) : Nat :=
  match s.motion.sensor with
  | .ok => s.motion.m
  | .none | .lost => s.traction.c

/-- R152. -/
def enginePitch (s : State) : Nat :=
  clampPitch (s.soundSet.basePitch + engineRate s * s.soundSet.slope / 4096)

/-- Voice 0 is started with the cached set's engine clip (R151). -/
def State.startEngine (s : State) : State :=
  s.startOrFault 0 s.soundSet.engineClip .engine
    { volume := none, pitch := some (enginePitch s), repeats := .endless, priority := 3
      starter := .engine }

/-- The pitch of voice 0 at a frame boundary (R152). -/
def State.updateEngine (s : State) : State :=
  if (s.sound.voice 0).sounds then s.onVoice 0 fun v => { v with step := enginePitch s } else s

/-! ## Chuffs (R153, R154) -/

/-- The arc from one angle to another, modulo 256. -/
def arc (start finish : Nat) : Nat := (finish % 256 + 256 - start % 256) % 256

/-- Whether a chuff point is passed on the way from one angle to another (R153). -/
def pointPassed (prev angle point : Nat) : Bool :=
  decide (1 ≤ arc prev point) && decide (arc prev point ≤ arc prev angle)

/-- Whether a chuff fires (R153). -/
def chuffFires (s : State) (angle : Nat) : Bool :=
  s.isRun && decide (s.traction.state ≠ .stopped) && !s.motion.mark
    && s.soundSet.chuffPoints.any (pointPassed s.sound.prevAngle angle)

/-- The duty last handed to the bridges (R154). -/
def handedDuty (s : State) : Nat :=
  match s.bridges.held with
  | .drive p => p.duty
  | .off | .brake | .coast => 0

/-- The volume of a chuff (R154). -/
def chuffVolume (s : State) : Nat :=
  if s.soundSet.driftDuty ≤ handedDuty s then s.soundSet.workVolume else s.soundSet.driftVolume

/-- A chuff (R154). -/
def State.chuff (s : State) : State :=
  let clips := s.soundSet.chuffClips
  let clip := clips.getD (s.sound.rotation % clips.length) 255
  let volume := chuffVolume s
  let s := s.onSound fun u =>
    { u with rotation := if u.rotation + 1 ≥ clips.length then 0 else u.rotation + 1 }
  let s := s.startOrFault 1 clip .chuff
    { volume := some volume, pitch := none, repeats := .once, priority := 3, starter := .chuff }
  s.chuffEvent

/-- The angle is taken, the chuff check made (R153), the mark cleared (R59). -/
def State.chuffCheck (s : State) : State :=
  let s := s.onMotion fun mo => mo.camStep s.traction.c
  let angle := wheelAngle s
  let fires := chuffFires s angle
  let s := s.onMotion fun mo => { mo with mark := false }
  let s := s.onSound fun u => { u with prevAngle := angle }
  if fires then s.chuff else s

/-! ## Mixing (R145, R149) -/

/-- The sample at a voice's position (R145). -/
def sampleAt (m : Memory) (v : Voice) : Int :=
  let a := v.entry.start + v.position / 256 / v.entry.size * v.entry.size
  if v.entry.format = 2 then signed16 (m.read16 a) else signed8 (m.read a) * 256

/-- A voice's contribution (R149, 1). -/
def contribution (m : Memory) (v : Voice) : Int :=
  if v.sounds then (sampleAt m v * v.volume * v.envelope).tdiv 65536 else 0

/-- Steps 2 to 4 of R149. -/
def mix (parts : List Int) (master : Nat) : Int :=
  clampInt (-32768) 32767 ((parts.sum * master).tdiv 256)

/-- The sample sent (R149). -/
def outputSample (s : State) : Int :=
  if s.isRun && !frozen s then mix (s.sound.voices.map (contribution s.xm)) s.sound.master else 0

/-! ## Ends, loops and boundaries (R146, R147, R157) -/

/-- A ONE_SHOT voice at its new position (R146). -/
def Voice.oneShotEnd (v : Voice) : Voice :=
  if v.position < v.entry.ends then v
  else
    match v.repeats with
    | none => { v with position := (v.position - v.entry.ends) % v.entry.ends }
    | some 0 => { v with state := .idle }
    | some (n + 1) =>
      { v with repeats := some n, position := (v.position - v.entry.ends) % v.entry.ends }

/-- Where the loop region of a clip ends, in 1/256 byte (R147). -/
def ClipEntry.loopEnd (e : ClipEntry) : Nat := (e.loopStart + e.loopLength) * 256

/-- The position after a wrap of the loop (R147). -/
def Voice.loopWrap (v : Voice) : Nat :=
  v.entry.loopStart * 256 + (v.position - v.entry.loopEnd) % (v.entry.loopLength * 256)

/-- A LOOP voice at its new position (R147). -/
def Voice.loopEnds (v : Voice) : Voice :=
  if v.position < v.entry.loopEnd then v
  else
    match v.repeats with
    | none => { v with position := v.loopWrap }
    | some (n + 2) => { v with repeats := some (n + 1), position := v.loopWrap }
    | some _ =>
      if v.entry.ends ≤ v.position then { v with repeats := some 0, state := .idle }
      else { v with repeats := some 0 }

/-- What a boundary leaves of a voice that cannot take the next segment: STARVED at the boundary, or
IDLE when it was FADING (R157, R158). -/
def Voice.starve (v : Voice) (boundary : Nat) : Voice :=
  if v.state = .fading then { v with state := .idle }
  else { v with state := .starved, position := boundary }

/-- A STREAM voice passes from one segment into the other (R157); `entered` is the position in the
segment it enters, `boundary` where that segment begins. -/
def State.crossBoundary (s : State) (n : Nat) (second : Bool) (entered boundary : Nat) : State :=
  let v := s.sound.voice n
  let s := s.leaveSegment v.clip (!second)
  if v.lastSegment then s.onVoice n fun v => { v with state := .idle }
  else
    match segmentFull s v.clip second with
    | some last =>
      (s.playSegment v.clip second).onVoice n fun v =>
        { v with position := entered, lastSegment := last }
    | none => s.onVoice n fun v => v.starve boundary

/-- A STREAM voice whose position was in A or B (`second`) at its new position (R157). -/
def State.streamBoundaries (s : State) (n : Nat) (second : Bool) : State :=
  let v := s.sound.voice n
  let s :=
    if !second && decide (v.entry.half ≤ v.position) then
      s.crossBoundary n true v.position v.entry.half
    else s
  let v := s.sound.voice n
  if v.sounds && decide (v.entry.ends ≤ v.position) then
    s.crossBoundary n false ((v.position - v.entry.ends) % v.entry.half) v.entry.ends
  else s

/-- A voice that has contributed moves on (R145). -/
def State.advanceVoice (s : State) (n : Nat) : State :=
  let v := s.sound.voice n
  if v.sounds then
    let moved := { v with position := v.position + v.step * v.entry.size }
    if v.entry.kind = 2 then (s.onVoice n fun _ => moved).streamBoundaries n v.inSecond
    else s.onVoice n fun _ => if v.entry.kind = 1 then moved.loopEnds else moved.oneShotEnd
  else s

/-- The eight voices. DESIGN CHOICE (log 46): where they act at one sample or one mixer frame, they act in
ascending order of their numbers (R157). -/
def allVoices : List Nat := [0, 1, 2, 3, 4, 5, 6, 7]

/-- SAMPLE_TIMER_EXPIRY (R145, R149, R150). -/
def sampleTimerExpiry (s : State) : State :=
  let s := s.reach s.timers.sample
  let s := s.onTimers fun t => { t with sample := s.clock + 64000 }
  let s := s.onSound fun u => { u with sample := outputSample s }
  if frozen s then s else allVoices.foldl State.advanceVoice s

def execSampleTimerExpiry (s : State) : Host.Outcome State Fault Refusal := .next (sampleTimerExpiry s)

/-! ## Frame work (R148, R158) -/

/-- The fade of a voice at a frame boundary (R148). -/
def State.fadeVoice (s : State) (n : Nat) : State :=
  let v := s.sound.voice n
  if v.state = .fading then
    if v.envelope ≤ v.fadeStep then
      (s.onVoice n fun v => { v with envelope := 0 }).stopVoice n
    else s.onVoice n fun v => { v with envelope := v.envelope - v.fadeStep }
  else s

/-- A STARVED voice takes the awaited segment again (R158). -/
def State.retryVoice (s : State) (n : Nat) : State :=
  let v := s.sound.voice n
  if v.state = .starved then
    let second := decide (v.position < v.entry.ends)
    match segmentFull s v.clip second with
    | some last =>
      (s.playSegment v.clip second).onVoice n fun v =>
        { v with
          state := .playing, lastSegment := last, position := if second then v.entry.half else 0 }
    | none => s
  else s

/-- MIXER_FRAME (R148). -/
def mixerFrame (s : State) : State :=
  let s := s.reach s.timers.mixer
  let s := s.onTimers fun t => { t with mixer := s.clock + ms 4 }
  let s := s.chuffCheck
  let s := if frozen s then s else allVoices.foldl State.fadeVoice s
  let s := s.updateEngine
  let s := s.onSound fun u => { u with master := masterVolume s }
  if frozen s then s else allVoices.foldl State.retryVoice s

def execMixerFrame (s : State) : Host.Outcome State Fault Refusal := .next (mixerFrame s)

/-! ## Run state and set changes (R151, R154, R156, R160) -/

/-- A HOLD entry of a new set whose function bit is 1 (R156). -/
def State.holdTrigger (s : State) (k : Nat) (t : Trigger) : State :=
  if t.hold && functionBit s.radio.request.functions t.function then s.functionClip k t else s

/-- The sound engine is told of a change of the set cache (R151, R154, R156). DESIGN CHOICE (log 45): the engine
start comes first, then voice 1, then the fades of HOLD voices, then the starts of HOLD entries in ascending
order. -/
def State.soundSetChange (s : State) : State :=
  let s := s.startEngine
  let s := (s.stopVoice 1).onSound fun u => { u with rotation := 0 }
  let s := s.onSound fun u =>
    { u with
      voices := u.voices.map fun v =>
        if v.heldBy none then { v.fade16 with starter := .event } else v }
  triggersFrom State.holdTrigger 0 s.soundSet.triggers s

/-- Every voice is stopped and the rotation index set to 0 (R160). -/
def State.soundStop (s : State) : State :=
  (allVoices.foldl State.stopVoice s).onSound fun u => { u with rotation := 0 }

/-! ## PLAY and HUSH (R143, R144) -/

/-- PLAY's voice: an explicit code, or the allocation of R142. -/
def playVoice (s : State) (code priority : Nat) : Option Nat :=
  if code = 255 then s.sound.allocate priority else some code

/-- The fields of a PLAY (R143). -/
def playFields (ps : List Byte) : StartFields where
  volume := if param16 ps 2 ≤ 255 then some (param16 ps 2) else none
  pitch := if param16 ps 6 = 0 then none else some (clampPitch (param16 ps 6))
  repeats := .count (param8 ps 4)
  priority := min 3 (param8 ps 5)
  starter := .order

/-- Whether a clamp of PLAY changed a value (R143); `basePitch` is the clip's. -/
def playClamped (ps : List Byte) (basePitch : Nat) : Bool :=
  decide (3 < param8 ps 5)
    || (if param16 ps 6 = 0 then decide (clampPitch basePitch ≠ basePitch)
        else decide (clampPitch (param16 ps 6) ≠ param16 ps 6))

/-- PLAY after the common checks (R143): the state, the outcome and the result. -/
def State.playClip (s : State) (ps : List Byte) : State × OutcomeCode × List Byte :=
  let clip := param8 ps 0
  let code := param8 ps 1
  if 63 < clip then (s, .badIndex, [])
  else if code ≠ 255 ∧ (code < 2 ∨ 7 < code) then (s, .badIndex, [])
  else
    match playVoice s code (min 3 (param8 ps 5)) with
    | none => (s, .noVoice, [])
    | some n =>
      match s.startVoice n clip .none (playFields ps) with
      | (s', false) => (s', .badClip, [])
      | (s', true) =>
        let v := s'.sound.voice n
        (s', if playClamped ps v.entry.basePitch then .adjusted else .ok,
          [loByte n, 0] ++ bytes32 v.stamp.toNat)

/-- HUSH on one voice (R144). -/
def State.hushVoice (s : State) (fade n : Nat) : State :=
  match (s.sound.voice n).state with
  | .idle => s
  | .starved => s.stopVoice n
  | .playing | .fading =>
    if fade = 0 then s.stopVoice n
    else s.onVoice n fun v => { v with state := .fading, fadeStep := fade }

/-- The voices a HUSH code names (R144). -/
def hushNamed (code : Nat) : List Nat := if code = 255 then allVoices else [code]

/-- HUSH after the common checks (R144): the voices named are acted on, and the mask marks every voice that was not
IDLE, named or not. -/
def State.hushVoices (s : State) (ps : List Byte) : State × OutcomeCode × List Byte :=
  let code := param8 ps 0
  if 7 < code ∧ code ≠ 255 then (s, .badIndex, [])
  else
    let mask := maskOf (fun n => decide ((s.sound.voice n).state ≠ .idle)) 8
    ((hushNamed code).foldl (fun s n => s.hushVoice (param8 ps 1) n) s, .ok, [loByte mask])

end Sys2Proof.Machine
end

