-- ==== Sys2Proof/Machine/Traction.lean ====
section
/-! DEFINITION. The traction controller between its steps (chapter 4): the traction state and its command
(R73 to R76), the emergency-stop latch (R78), a shed level (R80), latched bridges (R81), set changes (R83)
and the run state (R84); and the station stop as it follows the traction state (R134). -/

namespace Sys2Proof.Machine

/-- The traction fields of an empty set cache (R32): nothing drives. -/
def TractionSet.blank : TractionSet where
  curve := []
  maxRate := 0
  accel := 0
  decel := 0
  kp := 0
  ki := 0
  dutyCap := 0
  gain := 0
  stopMode := .brake
  freewheel := .slow
  lock := .both
  entryThrottle := none

/-- The traction fields of the cached set. -/
def State.tractionSet (s : State) : TractionSet :=
  match s.sets.cache with
  | some d => d.traction
  | none => TractionSet.blank

/-! ## The traction state and its command (R73, R75) -/

/-- R73, with c and m as they stood after the last step. -/
def derivedState (s : State) : TractionState :=
  if !s.isRun then .quiet
  else if s.balance.run.isSome then .balance
  else if s.bridges.allLatched then .faulted
  else if 4 ≤ s.supply.shed then .held
  else if s.traction.latch then .estop
  else if s.traction.pending then .reversing
  else if 0 < s.traction.c ∨ 0 < s.traction.lastM then .running
  else .stopped

def stopCommand (d : TractionSet) : Command :=
  match d.stopMode with
  | .brake => .brake
  | .coast => .coast

/-- The limits under which a duty is handed (R76): 0 while the shed level is 4 or more or the
emergency-stop latch is set, else the cached duty cap. -/
def limitDuty (s : State) (duty : Nat) : Nat :=
  if 4 ≤ s.supply.shed ∨ s.traction.latch = true then 0 else min s.tractionSet.dutyCap duty

/-- DRIVE at a duty, limited as it is handed (R76). -/
def driveCommand (s : State) (duty : Nat) (direction : Direction) : Command :=
  .drive
    { duty := limitDuty s duty, direction := direction, freewheel := s.tractionSet.freewheel }

/-- The test duty of a run that drives (R106). -/
def BalanceRun.testDuty (r : BalanceRun) : Option Nat :=
  if r.driving && !r.held then some (r.duties.getD (r.step - 1) 0) else none

/-- The command the balance sequencer directs (R82, R106, R109). -/
def balanceCommand (s : State) : Command :=
  match s.balance.run with
  | some r =>
    match r.testDuty with
    | some u => driveCommand s u r.direction
    | none => stopCommand s.tractionSet
  | none => stopCommand s.tractionSet

/-- R75. A derivation between a set change and the next step takes the stop mode and the freewheel of the set now
cached (DESIGN CHOICE, unsafe, log 49: R75 names the cached set, R83 uses the new values from the next step). -/
def commandFor (s : State) (t : TractionState) : Command :=
  match t with
  | .quiet => .off
  | .balance => balanceCommand s
  | .faulted | .held => .coast
  | .estop => .brake
  | .reversing | .running => driveCommand s s.traction.u s.traction.direction
  | .stopped => stopCommand s.tractionSet

/-! ## The station stop (R134) -/

/-- The dwell of a beacon in clock units; 0 s is taken as 1 s (R120). -/
def dwellTime (f : Frame) : Nat := ms (1000 * max 1 (param8 f.payload 5))

/-- Entry to STOPPED is reported to the radio command unit (R74, R134). -/
def State.stationStopped (s : State) : State :=
  match s.radio.station with
  | .braking f => s.onRadio fun r => { r with station := .dwell f (s.clock + dwellTime f) }
  | .none | .dwell _ _ => s

/-- An emergency stop ends a station stop (R128, R134). -/
def State.cancelStation (s : State) : State :=
  match s.radio.station with
  | .braking f => (s.onRadio fun r => { r with station := .none }).logBeacon .stationCancelled f
  | .dwell f _ => (s.onRadio fun r => { r with station := .none }).logBeacon .stationCancelled f
  | .none => s

/-! ## Derivations (R73 to R75) -/

/-- A change of traction state is reported (R74, R155). -/
def State.reportTraction (s : State) (before : TractionState) : State :=
  match before, s.traction.state with
  | .stopped, .running => s.playStartClip
  | .running, .stopped => s.playStopClip.stationStopped
  | .reversing, .stopped => s.playStopClip.stationStopped
  | .stopped, .stopped => s
  | _, .stopped => s.stationStopped
  | _, _ => s

/-- The state is derived afresh, its change reported and its command handed (R73 to R75). -/
def State.derive (s : State) : State :=
  let state := derivedState s
  let s' := (s.onTraction fun t => { t with state := state }).reportTraction s.traction.state
  s'.handCommand (commandFor s' state)

/-- c, I, u and the previous duty become 0. -/
def Traction.zeroed (t : Traction) : Traction := { t with c := 0, i := 0, u := 0, prev := 0 }

/-! ## Events between steps -/

/-- A throttle of 0 has been applied as R78 lists: the latch is cleared and the state derived afresh. -/
def State.releaseLatch (s : State) : State :=
  if s.traction.latch then (s.onTraction fun t => { t with latch := false }).derive else s

/-- A shed level, now in force, replaces `before` (R80). -/
def State.tractionShedChange (s : State) (before : Nat) : State :=
  if 4 ≤ s.supply.shed then
    (if before < s.supply.shed then s.onTraction fun t => { t with u := 0, prev := 0 } else s).derive
  else if 4 ≤ before then (s.onTraction fun t => { t with i := 0 }).derive
  else s.derive

/-- An entry to or a departure from LATCHED is reported (R81, R97). -/
def State.tractionLatchReport (s : State) : State :=
  (if s.bridges.allLatched then s.onTraction Traction.zeroed else s).derive

/-- The start of a balance run is reported (R82, R105). -/
def State.tractionRunBegins (s : State) : State := s.derive

/-- The end of a balance run is reported (R82, R108). -/
def State.tractionRunEnds (s : State) : State :=
  (s.onTraction fun t => { t with c := 0, i := 0, u := 0 }).derive

/-- A change of the set cache is reported (R45, R83): u and the duty handed fall to a lower duty cap at once. It is the
traction controller's own answer to the report, and follows the action, whose change leaves c, I and u as they were
(R44, `State.changeSet`); R44 speaks also of the cap being taken at the next step, where R69 and R70 use it (DEDUCED,
unsafe, log 54: R76 and R83 name the duty in force). -/
def State.tractionSetChange (s : State) : State :=
  let cap := s.tractionSet.dutyCap
  if cap < s.traction.u then (s.onTraction fun t => { t with u := cap }).lowerDuty cap else s

/-- The traction controller at the entry to RUN (R84). -/
def State.tractionEnterRun (s : State) : State :=
  let s := s.onTraction fun t =>
    { t.zeroed with t := 0, zeroHold := 0, latch := false, pending := false, state := .stopped }
  s.handCommand (stopCommand s.tractionSet)

/-- The traction controller at a teardown, the part being QUIET (R84): COAST, then OFF. -/
def State.tractionTeardown (s : State) : State :=
  let s := s.onTraction fun t =>
    { t.zeroed with t := 0, zeroHold := 0, latch := false, pending := false, state := .quiet }
  ((s.handCommand .coast).onBridges fun u => u.releaseAll s.clock).handCommand .off

end Sys2Proof.Machine
end

