-- ==== Sys2Proof/Machine/Balance.lean ====
section
/-! DEFINITION. The balance sequencer (chapter 6): taking a BALANCE order, its steps, results and endings,
the emergency stop that ends a run (R77), and the command BALANCE_HELD_TIMER_EXPIRY. -/

namespace Sys2Proof.Machine

def State.onRun (s : State) (f : BalanceRun → BalanceRun) : State :=
  s.onBalance fun b => { b with run := b.run.map f }

/-! ## The lease released (R108, R123, R124, R127) -/

/-- The lease becomes NONE and the request throttle 0, and CONTROL is raised. -/
def State.freeLease (s : State) : State :=
  (s.onRadio fun r =>
    { r with lease := .none, failsafe := false, request := { r.request with throttle := 0 } }).raise
    .control

/-! ## Taking the order (R103 to R105) -/

/-- A test duty as clamped (R103). -/
def clampTestDuty (cap raw : Nat) : Nat := min cap (clampNat 64 1023 raw)

/-- A clamp of a test duty changed a value (R103): the range 64 to 1023, or the limit to the cap after it. A duty that
the two bring back to the value posted has been changed twice. -/
def testDutyClamped (cap raw : Nat) : Bool :=
  decide (clampNat 64 1023 raw ≠ raw) || decide (cap < clampNat 64 1023 raw)

/-- The duties posted for the used steps (R103). -/
def postedDuties (ps : List Byte) (n : Nat) : List Nat :=
  (List.range n).map fun k => param16 ps (2 + 2 * k)

/-- The clamped parameters of a BALANCE order as a run record (R103, R105). -/
def newRun (ps : List Byte) (slot cap : Nat) : BalanceRun :=
  let n := clampNat 1 4 (param8 ps 0)
  let posted := postedDuties ps n
  let duties := posted.map (clampTestDuty cap)
  let h := clampNat 1 20 (param8 ps 10)
  { held := false, slot := slot, steps := n, duties := duties, holdTime := h
    direction := directionOf (param8 ps 1), step := 1, driving := false, period := 0, sum := 0
    count := 0, rates := []
    adjusted := decide (n ≠ param8 ps 0) || posted.any (testDutyClamped cap) || decide (h ≠ param8 ps 10)
      || decide (1 < param8 ps 1)
    heldTimer := none, written := 0 }

/-- Whether the lock forbids a direction (R64, R104). -/
def DirectionLock.forbids (l : DirectionLock) (d : Direction) : Bool :=
  match l, d with
  | .forwardOnly, .reverse => true
  | .reverseOnly, .forward => true
  | _, _ => false

/-- Whether the holder is RADIO. -/
def Lease.isRadio : Lease → Bool
  | .radio _ _ _ => true
  | .none | .onBoard _ => false

/-- The checks of R104 in their order; none when all pass. -/
def balanceRefusal (s : State) (direction : Direction) : Option OutcomeCode :=
  if s.balance.run.isSome then some .busy
  else if s.motion.sensor ≠ .ok then some .noSensor
  else if s.radio.lease.isRadio then some .notHolder
  else if s.traction.state ≠ .stopped then some .notStopped
  else if s.tractionSet.lock.forbids direction then some .denied
  else none

/-- The lease becomes ON-BOARD with the balance mark; CONTROL when the holder changed (R105). -/
def State.markLease (s : State) : State :=
  let s' := s.onRadio fun r => { r with lease := .onBoard true }
  if s.radio.lease = .none then s'.raise .control else s'

/-- The run is created as one change (R105). -/
def State.beginRun (s : State) (r : BalanceRun) : State :=
  ((s.onBalance fun b => { b with run := some r }).markLease).tractionRunBegins

/-! ## Results and endings (R107, R108) -/

/-- The step gains, a step of rate 0 left out (R107). -/
def stepGains (duties rates : List Nat) : List Nat :=
  (duties.zip rates).filterMap fun p => if p.2 = 0 then none else some (p.1 * 65536 / p.2)

/-- G before its clamp; 0 where no step gave a gain (R107). -/
def rawGain (duties rates : List Nat) : Nat :=
  let gains := stepGains duties rates
  if gains = [] then 0 else gains.sum / gains.length

/-- The outcome of a run with results (R107). -/
def resultOutcome (r : BalanceRun) : OutcomeCode :=
  if r.rates.all (· = 0) then .failedNoMotion
  else if r.adjusted || decide (65535 < rawGain r.duties r.rates) then .adjusted
  else .ok

/-- Four 16-bit numbers, 0 beyond the list's end. -/
def fourWords (l : List Nat) : List Byte :=
  [0, 1, 2, 3].flatMap fun k => bytes16 (l.getD k 0)

/-- The result bytes of a run (R107, R108; 11.3). -/
def runResult (r : BalanceRun) (g : Nat) : List Byte :=
  fourWords r.rates ++ bytes16 g ++ fourWords r.duties ++ [loByte r.holdTime, loByte r.rates.length]

/-- Every ending of a run (R108), with its outcome and G. -/
def State.closeRun (s : State) (r : BalanceRun) (outcome : OutcomeCode) (g : Nat) : State :=
  let s := s.onBalance fun b => { b with run := none }
  let s := s.completeSlot r.slot outcome r.written (runResult r g)
  s.freeLease.tractionRunEnds

/-- An ending other than with results: nothing when no run exists (R108, R110). -/
def State.endRun (s : State) (outcome : OutcomeCode) : State :=
  match s.balance.run with
  | some r => s.closeRun r outcome 0
  | none => s

/-- The regulation step that completes the last step ends the run with results (R107). -/
def State.finishRun (s : State) (r : BalanceRun) : State :=
  s.closeRun r (resultOutcome r) (min 65535 (rawGain r.duties r.rates))

/-! ## Steps (R106) -/

/-- N (R102). -/
def BalanceRun.periods (r : BalanceRun) : Nat := 125 * r.holdTime

/-- Step i begins (R106). -/
def BalanceRun.beginStep (r : BalanceRun) : BalanceRun :=
  { r with driving := true, period := 0, sum := 0, count := 0, written := r.step }

/-- A period of step i has ended, with the m taken at this step (R106). -/
def BalanceRun.countPeriod (r : BalanceRun) (m : Nat) : BalanceRun :=
  let j := r.period + 1
  if r.periods / 2 < j then { r with period := j, sum := r.sum + m, count := r.count + 1 }
  else { r with period := j }

/-- Step i is complete (R106). -/
def BalanceRun.completeStep (r : BalanceRun) : BalanceRun :=
  { r with rates := r.rates ++ [r.sum / r.count] }

/-- Step i begins and is written into the slot's step field. -/
def State.beginRunStep (s : State) (r : BalanceRun) : State :=
  (s.onBalance fun b => { b with run := some r.beginStep }).writeStep r.slot r.step

/-- The sequencer's work at a regulation step (R106). -/
def State.balanceStep (s : State) (m : Nat) : State :=
  match s.balance.run with
  | none => s
  | some r =>
    if r.held then s
    else if !r.driving then s.beginRunStep r
    else
      let r := r.countPeriod m
      if r.period < r.periods then s.onBalance fun b => { b with run := some r }
      else
        let r := r.completeStep
        if r.step < r.steps then s.beginRunStep { r with step := r.step + 1 } else s.finishRun r

/-! ## Hold and resume (R109) -/

/-- The sequencer's stop mode is handed at once. -/
def State.handStopMode (s : State) : State :=
  (s.onTraction fun t => { t with u := 0 }).handCommand (stopCommand s.tractionSet)

/-- HOLD_BALANCE after the common checks (R109). -/
def State.holdRun (s : State) : State × OutcomeCode :=
  match s.balance.run with
  | some r =>
    if r.held then (s, .noRun)
    else
      let s := s.onRun fun r =>
        { r with
          held := true, driving := false, period := 0, sum := 0, count := 0
          heldTimer := some (s.clock + ms 60000) }
      ((s.writeSlotState r.slot 4).handStopMode, .ok)
  | none => (s, .noRun)

/-- RESUME_BALANCE after the common checks (R109). -/
def State.resumeRun (s : State) : State × OutcomeCode :=
  match s.balance.run with
  | some r =>
    if r.held then
      let s := s.onRun fun r => { r with held := false, heldTimer := none }
      (s.writeSlotState r.slot 2, .ok)
    else (s, .noRun)
  | none => (s, .noRun)

/-- BALANCE_HELD_TIMER_EXPIRY (R109). -/
def balanceHeldTimerExpiry (s : State) : State :=
  match s.balance.run with
  | some r =>
    match r.heldTimer with
    | some d => (s.reach d).endRun .aborted
    | none => s
  | none => s

def execBalanceHeldTimerExpiry (s : State) : Host.Outcome State Fault Refusal :=
  .next (balanceHeldTimerExpiry s)

/-! ## Emergency stop (R77) -/

/-- An emergency stop, taken at its arrival (R77). -/
def State.emergencyStop (s : State) : State :=
  let s := (s.onTraction fun t => { t.zeroed with latch := true }).derive
  s.cancelStation.endRun .aborted

end Sys2Proof.Machine
end

