-- ==== Sys2Proof/Machine/Protection.lean ====
section
/-! DEFINITION. Shorts and their clearing (chapter 5, 5.5 and 5.6): what a detection does, the latching of
bridges and its reports, CLEAR_FAULTS over both owners, and the command SHORT_DETECTION. -/

namespace Sys2Proof.Machine

/-- The moment at which the count of the deglitch time is complete, for a high side that turned on at `conduct`
and a code that rose `since` after that (R92; log 23). -/
def BridgeConfig.shortMoment (cfg : BridgeConfig) (conduct since : Nat) : Nat :=
  conduct + since + us cfg.deglitch

/-- The on-phase that conducts since `conduct` lasts until `moment` under a code of `millivolts`: its own end is not
before, and a code at the chop threshold ends it at the end of the blanking or, rising later, at once (R91, R92). -/
def Bridge.lastsUntil (b : Bridge) (cfg : BridgeConfig) (conduct millivolts moment : Nat) : Bool :=
  b.onEnd.all (fun e => decide (moment ≤ e))
    && cfg.chopThreshold.all fun t => decide (senseCode millivolts < t) || decide (moment ≤ conduct + us 2)

/-- A detection is made (R92; log 23): the code stays at the threshold for the deglitch time from `since` on, within
the on-phase, and no chop ends the on-phase before the count is complete. -/
def Bridge.shortSeen (b : Bridge) (cfg : BridgeConfig) (millivolts since : Nat) : Bool :=
  decide (b.phase = .onPhase) && !b.detected && decide (cfg.shortThreshold ≤ senseCode millivolts)
    && b.conduct.any fun c => b.lastsUntil cfg c millivolts (cfg.shortMoment c since)

/-- A short fault is recorded for a bridge (R93). -/
def State.recordShort (s : State) (id : BridgeId) : State :=
  (s.onBridges fun u => u.set id { u.get id with episodes := (u.get id).episodes + 1 }).recordFault

/-- Under GANG a configured bridge not LATCHED latches with the other (R94). -/
def BridgeUnit.gang (u : BridgeUnit) (id : BridgeId) (now : Nat) : BridgeUnit :=
  if u.cfg.independence = .gang ∧ u.configured id = true ∧ (u.get id).state ≠ .latched then
    u.set id ((u.get id).latch now)
  else u

/-- The latching of a bridge with all that follows it (R94, R97, R110). -/
def State.latchBridge (s : State) (id : BridgeId) : State :=
  let s := s.onBridges fun u => (u.set id ((u.get id).latch s.clock)).gang (BridgeId.other id) s.clock
  ((s.recordShort id).tractionLatchReport).endRun .failedFault

/-- All gates off for the rest of the PWM period (R95). -/
def Bridge.cutPeriod (b : Bridge) (now : Nat) : Bridge := (b.noPhase .cut).ask now Gates.none

/-- A detection under CYCLE (R95). -/
def State.cycleShort (s : State) (id : BridgeId) : State :=
  let n := (s.bridges.get id).shortRun + 1
  let s := s.onBridges fun u =>
    u.set id { (u.get id).cutPeriod s.clock with shortRun := min 200 n }
  let s := if n = 1 then s.recordShort id else s
  if 200 ≤ n then s.latchBridge id else s

/-- A detection under REPORT (R96). -/
def State.reportShort (s : State) (id : BridgeId) : State :=
  let n := (s.bridges.get id).shortRun + 1
  let s := s.onBridges fun u => u.set id { u.get id with shortRun := min 200 n }
  if n = 1 then s.recordShort id else s

/-- SHORT_DETECTION (R92 to R97). -/
def shortDetection (id : BridgeId) (millivolts since : Nat) (s : State) : State :=
  let b := s.bridges.get id
  if b.shortSeen s.bridges.cfg millivolts since then
    let s := s.reach (s.bridges.cfg.shortMoment (b.conduct.getD 0) since)
    let s := s.onBridges fun u => u.set id { u.get id with detected := true }
    match s.bridges.cfg.shortMode with
    | .latch => s.latchBridge id
    | .cycle => s.cycleShort id
    | .report => s.reportShort id
    | .ignore => s
  else s

def execShortDetection (id : BridgeId) (millivolts since : Nat) (s : State) :
    Host.Outcome State Fault Refusal :=
  .next (shortDetection id millivolts since s)

/-! ## CLEAR_FAULTS (R98, R99) -/

/-- A bridge bit of the mask (R99): a departure from LATCHED is reported. -/
def State.clearBridge (s : State) (id : BridgeId) : State :=
  let before := (s.bridges.get id).state
  let s := s.onBridges fun u => u.clearFault id s.clock
  if before = .latched then s.tractionLatchReport else s

/-- The lamp bits of the mask (R173): bit n + 2 for lamp n. -/
def State.clearLamps (s : State) (mask : BitVec 32) : State :=
  s.onEachLamp fun n l => if mask.getLsbD (n + 2) then l.clear else l

/-- Every bit of the mask acts on its owner (R98). DESIGN CHOICE (log 42): bridge A is cleared and its departure
reported, with the command then handed, before bridge B is cleared; the lamps, the heater and the fan follow. -/
def State.clearMask (s : State) (mask : BitVec 32) : State :=
  let s := if mask.getLsbD 0 then s.clearBridge .a else s
  let s := if mask.getLsbD 1 then s.clearBridge .b else s
  let s := s.clearLamps mask
  let s := if mask.getLsbD 12 then s.onHeater Heater.clear else s
  if mask.getLsbD 13 then s.clearFan else s

/-- The indications set before and clear after (R98). -/
def clearedMask (before after : State) : Nat :=
  maskOf (fun k => latchedBit before k && !latchedBit after k) 14

/-- CLEAR_FAULTS after the common checks (R98). -/
def State.clearFaultsOrder (s : State) (ps : List Byte) : State × OutcomeCode × List Byte :=
  let mask := param32 ps 0
  let s' := s.clearMask (BitVec.ofNat 32 mask)
  (s', if mask < 2 ^ 14 then .ok else .adjusted,
    bytes16 (clearedMask s s') ++ bytes16 (latchedMask s'))

end Sys2Proof.Machine
end

