-- ==== Sys2Proof/Machine/Requests.lean ====
section
/-! DEFINITION. The request state and the control lease (R113, R114, R121 to R127): requests and function
bits as they reach their readers, the lease of radio senders and of the host, the load of the radio block,
and the commands FAILSAFE_EXPIRY and LAPSE_EXPIRY. -/

namespace Sys2Proof.Machine

/-! ## The request state (R121) -/

def State.onRequest (s : State) (f : Request → Request) : State :=
  s.onRadio fun r => { r with request := f r.request }

/-- The readers are told of a change of function bits: the sound triggers (R156), then the heater (R178;
log 32). Lamps read the bits at their effect period. -/
def State.tellFunctions (s : State) (before : Reg) : State := (s.soundFunctions before).heaterArrival

/-- New function bits, with the change told. -/
def State.setFunctions (s : State) (functions : Reg) : State :=
  (s.onRequest fun q => { q with functions := functions }).tellFunctions s.radio.request.functions

/-- A throttle and a direction are applied; a throttle of 0 releases the emergency stop (R78, R121). -/
def State.applyRequest (s : State) (throttle : Nat) (direction : Direction) : State :=
  let s := s.onRequest fun q => { q with throttle := throttle, direction := direction }
  if throttle = 0 then s.releaseLatch else s

/-! ## The lease (R122 to R124, R127) -/

/-- The lease released with throttle 0, which clears the emergency-stop latch (R123, R124, R127). -/
def State.releaseLease (s : State) : State := s.freeLease.releaseLatch

/-- A sender and class are the RADIO holder's (R122). -/
def Lease.heldBy (l : Lease) (sender cls : Nat) : Bool :=
  match l with
  | .radio s c _ => decide (s = sender) && decide (c = cls)
  | .none | .onBoard _ => false

/-- An accepted frame of the holder refreshes last heard and clears the failsafe flag (R123). -/
def State.hearHolder (s : State) (f : Frame) : State :=
  if s.radio.lease.heldBy f.sender f.cls then
    s.onRadio fun r => { r with lease := .radio f.sender f.cls s.clock, failsafe := false }
  else s

/-- A sender becomes the RADIO holder (R122). -/
def State.takeLease (s : State) (sender cls : Nat) : State :=
  (s.onRadio fun r => { r with lease := .radio sender cls s.clock, failsafe := false }).raise .control

/-- Whether a THROTTLE frame of another sender takes the lease over (R122): none when it is refused. -/
def leaseTakes (l : Lease) (cls : Nat) : Bool :=
  match l with
  | .none => true
  | .radio _ holder _ => decide (cls < holder)
  | .onBoard _ => false

/-- FAILSAFE_EXPIRY (R123). -/
def failsafeExpiry (s : State) : State :=
  match s.radio.lease with
  | .radio _ _ heard =>
    if s.radio.failsafe then s
    else (s.reach (heard + ms s.radio.cfg.failsafeMs)).onRadio fun r => { r with failsafe := true }
  | .none | .onBoard _ => s

def execFailsafeExpiry (s : State) : Host.Outcome State Fault Refusal := .next (failsafeExpiry s)

/-- LAPSE_EXPIRY (R123). -/
def lapseExpiry (s : State) : State :=
  match s.radio.lease with
  | .radio _ _ heard => (s.reach (heard + ms s.radio.cfg.leaseMs)).releaseLease
  | .none | .onBoard _ => s

def execLapseExpiry (s : State) : Host.Outcome State Fault Refusal := .next (lapseExpiry s)

/-! ## The radio block (R113, R114) -/

/-- Points that a load places at or before the present are taken at once, failsafe first (R123). -/
def State.overduePoints (s : State) : State :=
  match s.radio.lease with
  | .radio _ _ heard =>
    let s :=
      if heard + ms s.radio.cfg.failsafeMs ≤ s.clock then
        s.onRadio fun r => { r with failsafe := true }
      else s
    if heard + ms s.radio.cfg.leaseMs ≤ s.clock then s.releaseLease else s
  | .none | .onBoard _ => s

/-- The radio block in `m` is copied (R113). -/
def State.loadRadio (s : State) (m : Memory) : State :=
  (s.onRadio fun r => { r with cfg := loadRadioConfig m, consist := loadConsist m }).overduePoints

/-- The result of LOAD_RADIO (R114; 11.3). -/
def radioResult (r : Radio) : List Byte :=
  bytes16 r.cfg.own
    ++ [loByte r.consist.number, loByte r.consist.role.code, loByte (boolNat r.consist.reversed), 0]
    ++ bytes16 r.cfg.failsafeMs ++ bytes16 r.cfg.leaseMs ++ bytes16 r.cfg.windowStart
    ++ bytes16 r.cfg.windowEnd

/-- LOAD_RADIO after the common checks (R114), on the words loaded. -/
def State.loadRadioOrder (s : State) (image : Memory) : State × OutcomeCode × List Byte :=
  let s' := s.loadRadio image
  (s', if radioAdjusted image then .adjusted else .ok, radioResult s'.radio)

/-! ## Host requests (R125 to R127) -/

/-- The result of THROTTLE (11.3). -/
def throttleResult (r : Radio) : List Byte :=
  [loByte r.request.throttle, loByte r.request.direction.code]
    ++ bytes32 r.request.functions.toNat ++ [loByte r.lease.kindCode]

/-- From NONE the host becomes the ON-BOARD holder and CONTROL is raised (R125). -/
def State.hostLease (s : State) : State :=
  if s.radio.lease = .none then
    (s.onRadio fun r => { r with lease := .onBoard false, failsafe := false }).raise .control
  else s

/-- THROTTLE after the common checks (R125). -/
def State.throttleOrder (s : State) (ps : List Byte) : State × OutcomeCode × List Byte :=
  if s.radio.lease.markSet then (s, .busy, [])
  else if s.radio.lease.isRadio then (s, .notHolder, [])
  else
    let s := s.hostLease.applyRequest (param8 ps 0) (directionOf (param8 ps 1))
    (s, if 1 < param8 ps 1 then .adjusted else .ok, throttleResult s.radio)

/-- FUNCTIONS after the common checks (R126). -/
def State.functionsOrder (s : State) (ps : List Byte) : State × OutcomeCode × List Byte :=
  let mask : Reg := BitVec.ofNat 32 (param32 ps 0)
  let values : Reg := BitVec.ofNat 32 (param32 ps 4)
  let functions := (s.radio.request.functions &&& ~~~mask) ||| (values &&& mask)
  (s.setFunctions functions, .ok, bytes32 functions.toNat)

/-- The result of LEASE: the holder after the order (R127; 11.3; log 16). -/
def leaseResult (l : Lease) : List Byte :=
  [loByte l.kindCode, loByte l.classCode] ++ bytes16 l.senderCode

/-- LEASE TAKE after the common checks, for every action but RELEASE (R127). -/
def State.leaseTakeOrder (s : State) (ps : List Byte) : State × OutcomeCode × List Byte :=
  if param8 ps 0 ≠ 0 then (s, .badIndex, leaseResult s.radio.lease)
  else
    match s.radio.lease with
    | .onBoard true => (s, .busy, leaseResult s.radio.lease)
    | .onBoard false => (s, .ok, leaseResult s.radio.lease)
    | .radio _ 0 _ => (s, .notHolder, leaseResult s.radio.lease)
    | .radio _ _ _ | .none =>
      let s := (s.onRadio fun r => { r with lease := .onBoard false, failsafe := false }).raise .control
      (s, .ok, leaseResult s.radio.lease)

/-- LEASE RELEASE after the common checks, for every action but TAKE (R127). -/
def State.leaseReleaseOrder (s : State) (ps : List Byte) : State × OutcomeCode × List Byte :=
  if param8 ps 0 ≠ 1 then (s, .badIndex, leaseResult s.radio.lease)
  else
    match s.radio.lease with
    | .onBoard true => (s, .busy, leaseResult s.radio.lease)
    | .onBoard false => (s.releaseLease, .ok, leaseResult .none)
    | .radio _ _ _ | .none => (s, .notHolder, leaseResult s.radio.lease)

end Sys2Proof.Machine
end

