-- ==== Sys2Proof/Machine/RunState.lean ====
section
/-! DEFINITION. QUIET and RUN (R8 to R12): the loads of a start, the entry to RUN, the refusal, the teardown,
and the commands START, START_END, START_REFUSED and TEARDOWN. -/

namespace Sys2Proof.Machine

/-! ## The loads of a start (R10) -/

/-- The words a stage reads. -/
def stageWords (stage : StartStage) (baseIndex : Nat) : List Nat :=
  match stage with
  | .anchor => anchorWords
  | .radioBlock => radioWords
  | .lampTable => lampWords
  | .baseSet => if baseIndex ≤ 7 then setWords baseIndex else []
  | .loaded => []

/-- A job at the beginning of a stage. -/
def StartJob.atStage (j : StartJob) (stage : StartStage) : StartJob :=
  { j with stage := stage, todo := stageWords stage j.baseIndex, image := [] }

/-- A start in flight at its first word. -/
def StartJob.first : StartJob where
  stage := .anchor
  todo := anchorWords
  image := []
  baseIndex := 0
  stopRequest := false

/-- The anchor configuration is given to each block that uses it (R5, R46, R85, R185). -/
def State.loadAnchor (s : State) (m : Memory) : State :=
  let p := loadSweepPeriod m
  let s := s.onOrders fun o => { o with period := p }
  let s := s.onTimers fun t => { t with sweep := if p = 0 then none else some (s.clock + ms p) }
  let s := s.onMotion fun mo => mo.load (loadMotionConfig m)
  let s := s.onBridges fun u => { u with cfg := loadBridgeConfig m }
  s.onSupply fun u => { u with cfg := loadSupplyConfig m }

/-- All ten lamp entries are copied (R161). -/
def State.loadLampTable (s : State) (m : Memory) : State :=
  s.onEachLamp fun n l => l.startCopy (loadLamp m n)

/-- A job that waits for its end: nothing to read, the base set's words kept. -/
def StartJob.done (j : StartJob) : StartJob := { j with stage := .loaded, todo := [] }

/-- The base-set stage begins; a base-set index above 7 leaves nothing to read (R11). -/
def StartJob.atBaseSet (j : StartJob) : StartJob :=
  if j.baseIndex ≤ 7 then j.atStage .baseSet else (j.atStage .baseSet).done

/-- A stage whose words have all been read takes effect, and the next begins (R10). -/
def State.endStage (s : State) (j : StartJob) : State × StartJob :=
  match j.stage with
  | .anchor =>
    (s.loadAnchor j.image, { j with baseIndex := loadBaseIndex j.image }.atStage .radioBlock)
  | .radioBlock => (s.loadRadio j.image, j.atStage .lampTable)
  | .lampTable => (s.loadLampTable j.image, j.atBaseSet)
  | .baseSet | .loaded => (s, j.done)

/-- One granted word access of a start. -/
def State.startAccess (s : State) (j : StartJob) : State :=
  match j.todo with
  | [] =>
    let (s, j) := s.endStage j
    s.onPort fun p => { p with start := some j }
  | a :: rest =>
    let j := { j with todo := rest, image := j.image.copyWord s.xm a }
    if rest = [] then
      let (s, j) := s.endStage j
      s.onPort fun p => { p with start := some j }
    else s.onPort fun p => { p with start := some j }

/-- The rest of a stage is read at once. -/
def StartJob.readAll (j : StartJob) (m : Memory) : StartJob :=
  { j with todo := [], image := j.todo.foldl (fun image a => image.copyWord m a) j.image }

/-- The rest of a start's loads (four stages at most). -/
def State.endLoads : Nat → State → StartJob → State × StartJob
  | 0, s, j => (s, j)
  | n + 1, s, j =>
    if j.stage = .loaded then (s, j)
    else
      let (s', j') := (s.reads j.todo).endStage (j.readAll s.xm)
      State.endLoads n s' j'

/-- Why a start is refused (R11); none when the base set is usable. -/
def StartJob.refusal (j : StartJob) : Option OutcomeCode :=
  if 7 < j.baseIndex then some .badIndex
  else if (loadDriveSet j.image (setBase j.baseIndex)).valid then none
  else some .notValid

/-! ## The zone record emptied (R133; log 8) -/

/-- The zone record is emptied; what its cap field then shows is free. -/
def State.emptyZone (s : State) : State :=
  if s.radio.zone.present then
    (s.onRadio fun r =>
      { r with zone := { present := false, zone := 0, cap := (Config.emptyZoneCap s.free).toNat } }).drawn 1
  else s

/-! ## Entry to RUN (R10, R35, R84, R160) -/

/-- The radio command unit at the entry to RUN (R10, R116, R119, R122, R133, R134). -/
def Radio.enterRun (r : Radio) (actual : Direction) : Radio :=
  { r with
    request := { throttle := 0, direction := actual, functions := 0 }
    lease := .none, failsafe := false, repeats := []
    passage := { zone := 0, horn := false, station := false }, station := .none
    receiver := .hunt, gap := none }

/-- The sound engine at the entry to RUN (R160). -/
def State.soundEnterRun (s : State) : State := (s.soundStop).startEngine

/-- The part enters RUN with the base set of a start (R10). -/
def State.enterRun (s : State) (j : StartJob) : State :=
  let base := setBase j.baseIndex
  let s := s.onPort fun p => { p with run := .run, start := none, startFault := .ok }
  let s := s.onSets fun m =>
    { m with
      chain := [{ index := j.baseIndex, resume := none }]
      cache := some (loadDriveSet j.image base), clamped := driveSetClamped j.image base }
  let s := s.emptyZone.onRadio fun r => r.enterRun s.traction.direction
  (s.tractionEnterRun.soundEnterRun).raise .control

/-! ## Teardown (R12) -/

/-- The radio command unit at a teardown (R9, R116, R122, R133, R134): nothing more comes of a frame, nor of a
service write in progress (log 13). -/
def Radio.teardown (r : Radio) : Radio :=
  { r with
    lease := .none, failsafe := false
    passage := { zone := 0, horn := false, station := false }, station := .none
    receiver := .hunt, gap := none, waiting := [], handling := none, service := none }

/-- A teardown, taken whole (R12). -/
def State.teardown (s : State) : State :=
  let s := s.onPort fun p => { p with run := .quiet, teardownPending := false }
  let s := (s.tractionTeardown.endRun .aborted).soundStop
  let s := s.onLamps fun u => u.teardown s.clock
  let s := s.emptyZone.onRadio Radio.teardown
  let s := s.onSets fun m => { m with chain := [], cache := none, clamped := false }
  s.raise .control

/-- A teardown waits for the set action in flight (R12, R37; log 12). -/
def State.requestTeardown (s : State) : State :=
  if s.sets.queue = [] then s.teardown else s.onPort fun p => { p with teardownPending := true }

/-! ## Commands -/

/-- A start is asked for (R8, R10); during a reset's writes it waits for their end (R13). -/
def State.requestStart (s : State) : State :=
  if s.isRun = true ∨ s.port.start.isSome = true then s
  else
    match s.port.reset with
    | some j => s.onPort fun p => { p with reset := some { j with startRequest := true } }
    | none => s.onPort fun p => { p with start := some StartJob.first }

/-- START (R8, R10, R13). -/
def start (s : State) : State := s.registerWrite.requestStart

def execStart (s : State) : Host.Outcome State Fault Refusal := .next (start s)

/-- START_END (R10, R11): the loads end, and the part enters RUN when the base set is usable. -/
def startEnd (s : State) : State :=
  match s.port.start with
  | some j =>
    let (s', j') := State.endLoads 4 s j
    match j'.refusal with
    | none =>
      let entered := s'.enterRun j'
      if j.stopRequest then entered.teardown else entered
    | some _ => s
  | none => s

def execStartEnd (s : State) : Host.Outcome State Fault Refusal := .next (startEnd s)

/-- START_REFUSED (R11): the loads end, and the part stays QUIET when the base set is not usable. -/
def startRefused (s : State) : State :=
  match s.port.start with
  | some j =>
    let (s', j') := State.endLoads 4 s j
    match j'.refusal with
    | some outcome =>
      (s'.onPort fun p => { p with start := none, startFault := outcome }).raise .control
    | none => s
  | none => s

def execStartRefused (s : State) : Host.Outcome State Fault Refusal := .next (startRefused s)

/-- A CONTROL write of RUN = 0 and SOFT = 0 (R8, R11, R12). -/
def State.requestStop (s : State) : State :=
  match s.port.run with
  | .run => s.requestTeardown
  | .quiet =>
    match s.port.start with
    | some j => s.onPort fun p => { p with start := some { j with stopRequest := true } }
    | none => s

/-- TEARDOWN (R8, R11, R12). -/
def teardown (s : State) : State := s.registerWrite.requestStop

def execTeardown (s : State) : Host.Outcome State Fault Refusal := .next (teardown s)

end Sys2Proof.Machine
end

