-- ==== Sys2Proof/Machine/Sets.lean ====
section
/-! DEFINITION. The set manager (chapter 2): loads, the queue of actions, their decisions, what a change of
chain and cache tells the other blocks, and the commands INVOKE, SWITCH and RETURN. -/

namespace Sys2Proof.Machine

/-! ## The chain -/

/-- The set index of the top entry. -/
def SetManager.topIndex (m : SetManager) : Nat := (m.chain.getLast?.map ChainEntry.index).getD 0

/-- The set index of the entry below the top. -/
def SetManager.belowIndex (m : SetManager) : Nat := (m.chain.dropLast.getLast?.map ChainEntry.index).getD 0

/-- A set index in the chain is busy (R34). -/
def SetManager.busy (m : SetManager) (x : Nat) : Bool := m.chain.any fun e => decide (e.index = x)

/-- The result of SET_ACTION and REFRESH_SET (R43; 11.3). -/
def chainResult (m : SetManager) : List Byte :=
  loByte m.chain.length ::
    [0, 1, 2, 3].map fun k => loByte ((m.chain[k]?.map ChainEntry.index).getD 255)

/-! ## Loads (R31, R37) -/

/-- Which set an action loads when it is taken up: none when it is decided at once (R38, R41; log 26). -/
def loadIndex (m : SetManager) (a : SetAction) : Option Nat :=
  match a.kind with
  | .switch | .invoke => if a.index ≤ 7 then some a.index else none
  | .returnSet => if m.chain.length ≤ 1 then none else some m.belowIndex
  | .refresh => some m.topIndex

/-- The load of a set begins. -/
def TableLoad.ofSet (x : Nat) : TableLoad where
  base := setBase x
  todo := setWords x
  image := []

/-- The staging copy of an action, its load ended (R31), and whether a clamp changed a value. -/
def staged (a : SetAction) (m : Memory) : Option (DriveSet × Bool) :=
  a.load.map fun l =>
    let image := (l.readAll m).image
    (loadDriveSet image l.base, driveSetClamped image l.base)

/-! ## Checks (R38, R40, R41, R42) -/

/-- The checks of INVOKE; SWITCH makes all but the last (R38, R40). -/
def placeRefusal (s : State) (a : SetAction) (d : Option (DriveSet × Bool)) (full : Bool) :
    Option OutcomeCode :=
  if s.balance.run.isSome then some .busy
  else
    match d with
    | none => some .badIndex
    | some (d, _) =>
      if d.authority < a.level then some .denied
      else if !d.valid then some .notValid
      else if s.sets.busy a.index then some .setBusy
      else if full then some .chainFull
      else none

/-- The required authority of the current top, as held in the cache (R36). -/
def topAuthority (s : State) : Nat :=
  match s.sets.cache with
  | some d => d.authority
  | none => 0

/-- The checks of RETURN (R41). -/
def returnRefusal (s : State) (a : SetAction) (d : Option (DriveSet × Bool)) : Option OutcomeCode :=
  if s.balance.run.isSome then some .busy
  else if s.sets.chain.length ≤ 1 then some .chainEmpty
  else if topAuthority s < a.level then some .denied
  else
    match d with
    | some (d, _) => if d.valid then none else some .notValid
    | none => some .chainEmpty

/-- The checks of REFRESH_SET (R42). -/
def refreshRefusal (s : State) (d : Option (DriveSet × Bool)) : Option OutcomeCode :=
  if s.balance.run.isSome then some .busy
  else
    match d with
    | some (d, _) => if d.valid then none else some .notValid
    | none => some .notValid

/-- The first failing check of an action. -/
def actionRefusal (s : State) (a : SetAction) (d : Option (DriveSet × Bool)) : Option OutcomeCode :=
  match a.kind with
  | .switch => placeRefusal s a d false
  | .invoke => placeRefusal s a d (decide (4 ≤ s.sets.chain.length))
  | .returnSet => returnRefusal s a d
  | .refresh => refreshRefusal s d

/-! ## Changes of the chain (R39 to R41) -/

/-- The last entry of a chain changed. -/
def mapLast (f : ChainEntry → ChainEntry) : List ChainEntry → List ChainEntry
  | [] => []
  | [e] => [f e]
  | e :: rest => e :: mapLast f rest

/-- The chain after an action that passed its checks. -/
def chainAfter (s : State) (a : SetAction) : List ChainEntry :=
  let chain := s.sets.chain
  match a.kind with
  | .switch => mapLast (fun e => { e with index := a.index }) chain
  | .invoke =>
    mapLast (fun e => { e with resume := some s.radio.request }) chain
      ++ [{ index := a.index, resume := none }]
  | .returnSet => mapLast (fun e => { e with resume := none }) chain.dropLast
  | .refresh => chain

/-- The resume record of the entry below the top. -/
def SetManager.resumeBelow (m : SetManager) : Option Request := m.chain.dropLast.getLast?.bind ChainEntry.resume

/-- The request state after an action that passed its checks (R39 to R41). -/
def requestAfter (s : State) (a : SetAction) (d : DriveSet) : Request :=
  match a.kind with
  | .switch | .invoke =>
    match d.traction.entryThrottle with
    | some h => { s.radio.request with throttle := h }
    | none => s.radio.request
  | .returnSet => s.sets.resumeBelow.getD s.radio.request
  | .refresh => s.radio.request

/-- The blocks that read the cache are told of its change (R45; log 32). -/
def State.tellSetChange (s : State) : State := s.tractionSetChange.soundSetChange.heaterSetChange

/-- What the action itself changes, in one step (R37, R44): chain, cache, clamped flag and request state, and nothing of
the traction controller or of the bridges. -/
def State.changeSet (s : State) (a : SetAction) (d : DriveSet) (clamped : Bool) : State :=
  let chain := chainAfter s a
  let request := requestAfter s a d
  (s.onSets fun m => { m with chain := chain, cache := some d, clamped := clamped }).onRequest fun _ => request

/-- The action's own change; then the readers are told: of the function bits a RETURN restores (log 15), and of the new
cache (R45). CONTROL follows a change of the chain. -/
def State.applyAction (s : State) (a : SetAction) (d : DriveSet) (clamped : Bool) : State :=
  let before := s.radio.request.functions
  let s := s.changeSet a d clamped
  let s := if s.radio.request.functions = before then s else s.tellFunctions before
  let s := s.tellSetChange
  if a.kind = .refresh then s else s.raise .control

/-! ## Decisions (R37, R43) -/

/-- The outcome reaches its requester: the order's completion, or the radio log (R43, R129). -/
def State.reportAction (s : State) (a : SetAction) (outcome : OutcomeCode) : State :=
  match a.source with
  | .order slot => s.completeSlot slot outcome 0 (chainResult s.sets)
  | .frame f => s.logFrame (.outcome outcome) f

/-- The checks of an action, made against the chain, the cache and the staging copy `d` as they stand; then the
change and the report, or the refusal's report (R37). -/
def State.conclude (s : State) (a : SetAction) (d : Option (DriveSet × Bool)) : State :=
  match actionRefusal s a d, d with
  | none, some (d, clamped) =>
    (s.applyAction a d clamped).reportAction a (if clamped then .adjusted else .ok)
  | some outcome, _ => s.reportAction a outcome
  | none, none => s

/-- The queue becomes the given one. -/
def State.queueIs (s : State) (q : List SetAction) : State := s.onSets fun m => { m with queue := q }

/-- The actions that wait are taken in the order of their arrival: one that loads nothing is decided at once,
and the first that loads takes up its load as the action in flight (R37, R38, R41). -/
def State.takeWaiting : List SetAction → State → State
  | [], s => s.queueIs []
  | a :: rest, s =>
    match loadIndex s.sets a with
    | some x => s.queueIs ({ a with load := some (TableLoad.ofSet x) } :: rest)
    | none => State.takeWaiting rest (s.conclude a none)

/-- An action that a teardown finds waiting: an order ends NOT_RUNNING with the emptied chain as its result, and
nothing comes of a frame (R9, R19, R43; log 12). -/
def State.abandonAction (s : State) (a : SetAction) : State :=
  match a.source with
  | .order slot => s.completeSlot slot .notRunning 0 (chainResult s.sets)
  | .frame _ => s

/-- The actions that wait are abandoned. -/
def State.abandonWaiting (s : State) (waiting : List SetAction) : State :=
  (waiting.foldl State.abandonAction s).queueIs []

/-- The action in flight has been decided: a teardown that waited for it is taken, and otherwise the actions
that wait are (R37; log 12). -/
def State.nextAction (s : State) : State :=
  let waiting := s.sets.queue.drop 1
  if s.port.teardownPending then s.teardown.abandonWaiting waiting else State.takeWaiting waiting s

/-- The decision of action `a`, the head of the queue, its load ended (R37). -/
def State.decideAction (s : State) (a : SetAction) : State := (s.conclude a (staged a s.xm)).nextAction

/-- The action at the head is decided when it is of the kind asked for. -/
def State.decideHead (s : State) (kind : SetActionKind) : State :=
  match s.sets.queue with
  | a :: _ => if a.kind = kind then s.decideAction a else s
  | [] => s

/-- INVOKE (R38, R39): the decision of the action in flight. -/
def invoke (s : State) : State := s.decideHead .invoke

def execInvoke (s : State) : Host.Outcome State Fault Refusal := .next (invoke s)

/-- SWITCH (R40): the decision of the action in flight. -/
def switchSet (s : State) : State := s.decideHead .switch

def execSwitch (s : State) : Host.Outcome State Fault Refusal := .next (switchSet s)

/-- RETURN (R41): the decision of the action in flight. -/
def returnSet (s : State) : State := s.decideHead .returnSet

def execReturn (s : State) : Host.Outcome State Fault Refusal := .next (returnSet s)

/-! ## Arrivals (R37, R43) -/

/-- Action codes of SET_ACTION and SET frames (R43). -/
def actionKind (code : Nat) : Option SetActionKind :=
  match code with
  | 0 => some .switch
  | 1 => some .invoke
  | 2 => some .returnSet
  | _ => none

/-- An action reaches the set manager (R37): it waits behind one in flight, and is taken up when it finds
none. -/
def State.actionArrives (s : State) (a : SetAction) : State :=
  if s.sets.queue = [] then State.takeWaiting [a] s else s.queueIs (s.sets.queue ++ [a])

/-- A SET action of a requester: a code above 2 is refused before any check (R43), at its arrival and with the
chain as it then stands, whatever action is in flight (DESIGN CHOICE, unsafe, log 48). -/
def State.requestAction (s : State) (code index level : Nat) (source : Requestor) : State :=
  match actionKind code with
  | some kind =>
    s.actionArrives { kind := kind, index := index, level := level, source := source, load := none }
  | none =>
    s.reportAction { kind := .refresh, index := index, level := level, source := source, load := none }
      .badIndex

end Sys2Proof.Machine
end

