-- ==== Sys2Proof/Machine/Sweep.lean ====
section
/-! DEFINITION. The order engine's sweeps (R16 to R19): requests for a sweep, the copy and the take of a slot,
and the commands SWEEP_WRITE, SWEEP_TIMER_EXPIRY, SWEEP_END and SLOT_TAKE. -/

namespace Sys2Proof.Machine

/-- A sweep at its beginning. -/
def Sweep.first : Sweep where
  pos := 0
  copy := none
  current := none

/-- A sweep begins. -/
def State.beginSweep (s : State) : State := s.onOrders fun o => { o with sweep := some Sweep.first }

/-- A sweep is asked for (R17); during a reset's writes it waits for their end (R13). -/
def State.requestSweep (s : State) : State :=
  match s.port.reset with
  | some j => s.onPort fun p => { p with reset := some { j with sweepRequest := true } }
  | none =>
    if s.orders.sweep.isSome then s.onOrders fun o => { o with again := true } else s.beginSweep

/-- SWEEP_WRITE (R17): any value written counts. -/
def sweepWrite (_value : Reg) (s : State) : State := s.registerWrite.requestSweep

def execSweepWrite (value : Reg) (s : State) : Host.Outcome State Fault Refusal :=
  .next (sweepWrite value s)

/-- SWEEP_TIMER_EXPIRY (R17); with a period of 0 the timer does not run (R5). -/
def sweepTimerExpiry (s : State) : State :=
  match s.timers.sweep with
  | some d =>
    let s := s.reach d
    let s := s.onTimers fun t => { t with sweep := some (s.clock + ms s.orders.period) }
    s.requestSweep
  | none => s

def execSweepTimerExpiry (s : State) : Host.Outcome State Fault Refusal := .next (sweepTimerExpiry s)

/-! ## The order in hand (R18 to R20) -/

/-- Works on the sweep in progress. -/
def State.onSweep (s : State) (f : Sweep → Sweep) : State :=
  s.onOrders fun o => { o with sweep := o.sweep.map f }

/-- The order engine has no order in hand any more. -/
def State.dropOrder (s : State) : State := s.onSweep fun w => { w with current := none }

/-- The completion of the order in hand (R20). -/
def State.completeOrder (s : State) (o : TakenOrder) (outcome : OutcomeCode) (result : List Byte) :
    State :=
  (s.completeSlot o.slot outcome 0 result).dropOrder

/-- A set action of an order waits for its decision (R37). -/
def orderWaits (q : List SetAction) : Bool :=
  q.any fun a =>
    match a.source with
    | .order _ => true
    | .frame _ => false

/-- The sweep is free to look at the next slot: every order taken has ended (R20). -/
def sweepFree (s : State) (w : Sweep) : Bool := w.current.isNone && !orderWaits s.sets.queue

/-! ## Slots (R18) -/

/-- The bytes of a slot that the sweep copies: state, kind, tag and parameters. -/
def slotBytes (m : Memory) (n : Nat) : List Byte := m.readBytes (slotBase n) 40

/-- The copy of an order from those bytes. -/
def takenOrder (slot : Nat) (bytes : List Byte) : TakenOrder where
  slot := slot
  kind := param8 bytes 1
  tag := BitVec.ofNat 16 (param16 bytes 2)
  params := bytes.drop 4
  load := none

/-- The first slot from `n` on that the sweep will copy, `count` slots looked at. -/
def nextPosted (m : Memory) (held : List Nat) : Nat → Nat → Option Nat
  | _, 0 => none
  | n, count + 1 =>
    if !held.contains n && decide (slotState m n = 1) then some n
    else nextPosted m held (n + 1) count

/-- A slot whose copy is complete: the slot, the bytes copied before this moment and the rest of them
as memory now holds it. -/
def copyEnds (m : Memory) (n : Nat) (copied : List Byte) : List Byte :=
  copied ++ m.readBytes (slotBase n + copied.length) (40 - copied.length)

/-- The slot the sweep copies next, with the bytes copied of it so far. -/
def sweepTarget (s : State) (w : Sweep) : Option (Nat × List Byte) :=
  match w.copy with
  | some bytes => some (w.pos, bytes)
  | none => (nextPosted s.xm s.orders.held w.pos (32 - w.pos)).map fun n => (n, [])

/-- The sweep moves on to the slot after `n`, with or without an order in hand. -/
def State.passSlot (s : State) (n : Nat) (current : Option TakenOrder) : State :=
  s.onSweep fun _ => { pos := n + 1, copy := none, current := current }

/-- The checks of R19 that come before the owning block's. -/
def orderRefusal (s : State) (kind : Nat) : Option OutcomeCode :=
  if kind = 0 ∨ 14 < kind then some .unknownKind
  else if s.isRun = false ∧ kind ≠ 13 then some .notRunning
  else none

/-- The result of an order that a common check refuses: the chain for SET_ACTION and REFRESH_SET, whose result
R43 gives for every outcome (log 39), and nothing for every other kind. -/
def refusalResult (s : State) (kind : Nat) : List Byte :=
  if kind = 4 ∨ kind = 5 then chainResult s.sets else []

/-- The read-and-replace access that takes a slot (R18), and the common checks (R19). -/
def State.takeSlot (s : State) (n : Nat) (bytes : List Byte) : State :=
  if slotState s.xm n = 1 then
    let o := takenOrder n bytes
    let s := s.writeSlotState n 2
    let s := (s.onOrders fun e => { e with held := e.held ++ [n] }).passSlot n (some o)
    match orderRefusal s o.kind with
    | some outcome => s.completeOrder o outcome (refusalResult s o.kind)
    | none => s
  else s.passSlot n none

/-- SLOT_TAKE (R18): the next POSTED slot is copied and taken, or its copy discarded (log 33). -/
def slotTake (s : State) : State :=
  match s.orders.sweep with
  | some w =>
    if sweepFree s w then
      match sweepTarget s w with
      | some (n, copied) => (s.takeSlot n (copyEnds s.xm n copied)).granted .orderEngine
      | none => s
    else s
  | none => s

def execSlotTake (s : State) : Host.Outcome State Fault Refusal := .next (slotTake s)

/-- The sweep has no slot left to take: no copy in progress whose slot still reads POSTED, none POSTED
after it (log 33). -/
def sweepExhausted (s : State) (w : Sweep) : Bool :=
  sweepFree s w && (nextPosted s.xm s.orders.held w.pos (32 - w.pos)).isNone

/-- The slots whose state byte the sweep has still to look at. -/
def unread (s : State) (w : Sweep) : List Nat :=
  (List.range 32).filter fun n => decide (w.pos ≤ n) && !s.orders.held.contains n

/-- SWEEP_END (R17): with the sweep-again flag set, another sweep begins at once. -/
def sweepEnd (s : State) : State :=
  match s.orders.sweep with
  | some w =>
    if sweepExhausted s w then
      (s.onOrders fun o =>
        { o with sweep := if o.again then some Sweep.first else none, again := false }).reads (unread s w)
    else s
  | none => s

def execSweepEnd (s : State) : Host.Outcome State Fault Refusal := .next (sweepEnd s)

/-- The first slot from `n` on that is not held, `count` slots looked at: a held slot is passed over without an
access (R18), so it costs no grant (R6). -/
def nextUnheld (held : List Nat) : Nat → Nat → Option Nat
  | _, 0 => none
  | n, count + 1 => if held.contains n then nextUnheld held (n + 1) count else some n

/-- The slot whose state byte the sweep reads next (R18). -/
def sweepReads (s : State) (w : Sweep) : Option Nat := nextUnheld s.orders.held w.pos (32 - w.pos)

/-- One granted word access of a sweep: the first word of the next slot that is not held, or the next word of
the slot being copied (R18). The take itself is SLOT_TAKE. -/
def State.sweepAccess (s : State) (w : Sweep) : State :=
  match w.copy with
  | some bytes =>
    if bytes.length < 40 then
      s.onSweep fun w =>
        { w with copy := some (bytes ++ s.xm.readBytes (slotBase w.pos + bytes.length) 2) }
    else s
  | none =>
    match sweepReads s w with
    | some n =>
      if slotState s.xm n = 1 then
        s.onSweep fun w => { w with pos := n, copy := some (s.xm.readBytes (slotBase n) 2) }
      else s.onSweep fun w => { w with pos := n + 1 }
    | none => s

end Sys2Proof.Machine
end

