-- ==== Sys2Proof/Machine/Orders.lean ====
section
/-! DEFINITION. The orders (R19, R20, R193; 11.3): each works on the copy of the order that the sweep has
taken, and ends with its completion write. -/

namespace Sys2Proof.Machine

/-- What an order's owner answers: the state, the outcome and the result bytes. -/
abbrev OrderAnswer := State × OutcomeCode × List Byte

/-- The order in hand, when it is of the kind asked for. -/
def orderInHand (s : State) (mine : TakenOrder → Bool) : Option TakenOrder :=
  match s.orders.sweep with
  | some w => w.current.filter mine
  | none => none

/-- The order in hand is checked again for the run state (R19; log 27), carried out by its owner, and
completed. -/
def State.runOrder (s : State) (mine : TakenOrder → Bool) (act : State → TakenOrder → OrderAnswer) :
    State :=
  match orderInHand s mine with
  | some o =>
    match orderRefusal s o.kind with
    | some outcome => s.completeOrder o outcome []
    | none =>
      let (s', outcome, result) := act s o
      s'.completeOrder o outcome result
  | none => s

/-- Orders of one kind. -/
def orderKind (k : Nat) (o : TakenOrder) : Bool := decide (o.kind = k)

/-- THROTTLE_ORDER (R125). -/
def throttleOrder (s : State) : State := s.runOrder (orderKind 1) fun s o => s.throttleOrder o.params

def execThrottleOrder (s : State) : Host.Outcome State Fault Refusal := .next (throttleOrder s)

/-- FUNCTIONS (R126). -/
def functions (s : State) : State := s.runOrder (orderKind 2) fun s o => s.functionsOrder o.params

def execFunctions (s : State) : Host.Outcome State Fault Refusal := .next (functions s)

/-- STOP_ORDER (R79). -/
def stopOrder (s : State) : State := s.runOrder (orderKind 3) fun s _ => (s.emergencyStop, .ok, [])

def execStopOrder (s : State) : Host.Outcome State Fault Refusal := .next (stopOrder s)

/-- An order handed to the set manager ends with its decision (R43); refused here, it has the chain as its
result as well (log 39). -/
def State.handOver (s : State) (kind : Nat) (act : State → TakenOrder → State) : State :=
  match orderInHand s (orderKind kind) with
  | some o =>
    match orderRefusal s o.kind with
    | some outcome => s.completeOrder o outcome (refusalResult s o.kind)
    | none => act s.dropOrder o
  | none => s

/-- SET_ACTION (R43). -/
def setAction (s : State) : State :=
  s.handOver 4 fun s o => s.requestAction (param8 o.params 0) (param8 o.params 1) 0 (.order o.slot)

def execSetAction (s : State) : Host.Outcome State Fault Refusal := .next (setAction s)

/-- The action of a REFRESH_SET order reaches the set manager (R42, R43). -/
def State.requestRefresh (s : State) (o : TakenOrder) : State :=
  s.actionArrives { kind := .refresh, index := 0, level := 0, source := .order o.slot, load := none }

/-- REFRESH_SET (R42, R43): the order reaches the set manager, unless an idle step has handed it over and
begun its load (R31), and the action is decided once it is the one in flight. -/
def refreshSet (s : State) : State := (s.handOver 5 State.requestRefresh).decideHead .refresh

def execRefreshSet (s : State) : Host.Outcome State Fault Refusal := .next (refreshSet s)

/-! ## Loads by order (R4, R114, R162) -/

/-- The words that an order loads: of LOAD_LAMPS the named entries' (R161, R162), of LOAD_RADIO the radio
block's (R113, R114). -/
def orderWords (o : TakenOrder) : List Nat :=
  if o.kind = 6 then
    ((List.range 10).filter fun n => (param16 o.params 0).testBit n).flatMap lampEntryWords
  else if o.kind = 7 then radioWords
  else []

/-- The load of an order, as begun, or at its beginning. -/
def TakenOrder.loading (o : TakenOrder) : TableLoad :=
  o.load.getD { base := 0, todo := orderWords o, image := [] }

/-- The words an order has loaded once the rest of them is read (R4). -/
def orderImage (s : State) (o : TakenOrder) : Memory := (o.loading.readAll s.xm).image

/-- LOAD_LAMPS after the common checks (R162), on the words loaded. -/
def State.loadLampsOrder (s : State) (o : TakenOrder) : OrderAnswer :=
  let mask := param16 o.params 0
  let image := orderImage s o
  let loaded := maskOf (fun n => mask.testBit n) 10
  let changed := maskOf (fun n => mask.testBit n && lampClamped image n) 10
  (s.onEachLamp fun n l => if mask.testBit n then l.reload (loadLamp image n) else l,
    if 1024 ≤ mask ∨ changed ≠ 0 then .adjusted else .ok, bytes16 loaded ++ bytes16 changed)

/-- LOAD_LAMPS (R162). -/
def loadLamps (s : State) : State := s.runOrder (orderKind 6) State.loadLampsOrder

def execLoadLamps (s : State) : Host.Outcome State Fault Refusal := .next (loadLamps s)

/-- LOAD_RADIO (R114). -/
def loadRadio (s : State) : State :=
  s.runOrder (orderKind 7) fun s o => s.loadRadioOrder (orderImage s o)

def execLoadRadio (s : State) : Host.Outcome State Fault Refusal := .next (loadRadio s)

/-- PLAY (R143). -/
def play (s : State) : State := s.runOrder (orderKind 8) fun s o => s.playClip o.params

def execPlay (s : State) : Host.Outcome State Fault Refusal := .next (play s)

/-- HUSH (R144). -/
def hush (s : State) : State := s.runOrder (orderKind 9) fun s o => s.hushVoices o.params

def execHush (s : State) : Host.Outcome State Fault Refusal := .next (hush s)

/-- BALANCE (R103 to R105): a run that begins leaves its slot TAKEN and held. -/
def balance (s : State) : State :=
  match orderInHand s (orderKind 10) with
  | some o =>
    match orderRefusal s o.kind with
    | some outcome => s.completeOrder o outcome []
    | none =>
      let r := newRun o.params o.slot s.tractionSet.dutyCap
      match balanceRefusal s r.direction with
      | some outcome => s.completeOrder o outcome []
      | none => (s.beginRun r).dropOrder
  | none => s

def execBalance (s : State) : Host.Outcome State Fault Refusal := .next (balance s)

/-- HOLD_BALANCE (R109). -/
def holdBalance (s : State) : State :=
  s.runOrder (orderKind 11) fun s _ => (s.holdRun.1, s.holdRun.2, [])

def execHoldBalance (s : State) : Host.Outcome State Fault Refusal := .next (holdBalance s)

/-- RESUME_BALANCE (R109). -/
def resumeBalance (s : State) : State :=
  s.runOrder (orderKind 12) fun s _ => (s.resumeRun.1, s.resumeRun.2, [])

def execResumeBalance (s : State) : Host.Outcome State Fault Refusal := .next (resumeBalance s)

/-- CLEAR_FAULTS (R98). -/
def clearFaults (s : State) : State := s.runOrder (orderKind 13) fun s o => s.clearFaultsOrder o.params

def execClearFaults (s : State) : Host.Outcome State Fault Refusal := .next (clearFaults s)

/-- LEASE RELEASE is action 1; LEASE_TAKE takes every other action (R127). -/
def isRelease (o : TakenOrder) : Bool := orderKind 14 o && decide (param8 o.params 0 = 1)

/-- LEASE_TAKE (R127). -/
def leaseTake (s : State) : State :=
  s.runOrder (fun o => orderKind 14 o && !isRelease o) fun s o => s.leaseTakeOrder o.params

def execLeaseTake (s : State) : Host.Outcome State Fault Refusal := .next (leaseTake s)

/-- LEASE_RELEASE (R127). -/
def leaseRelease (s : State) : State := s.runOrder isRelease fun s o => s.leaseReleaseOrder o.params

def execLeaseRelease (s : State) : Host.Outcome State Fault Refusal := .next (leaseRelease s)

end Sys2Proof.Machine
end

