-- ==== Sys2Proof/Machine/Radio.lean ====
section
/-! DEFINITION. The radio command unit: the receiver (R115, R116), the acceptance of frames (R117 to R120),
the handling of each frame kind (R122 to R134), and the commands RXD_BYTE, GAP_TIMER_EXPIRY,
REPEAT_WINDOW_EXPIRY, DWELL_TIMER_EXPIRY and those of the frame kinds. -/

namespace Sys2Proof.Machine

/-! ## Acceptance (R118, R119) -/

/-- The entry of a sender in the repeat table. -/
def repeatEntry (table : List RepeatEntry) (sender : Nat) : Option RepeatEntry :=
  table.find? fun e => decide (e.sender = sender)

/-- R119. -/
def isRepeat (table : List RepeatEntry) (f : Frame) : Bool :=
  (repeatEntry table f.sender).any fun e => decide (e.seq = f.seq) && !e.stale

/-- The repeat table once a frame has been heard (R119). -/
def hearSender (table : List RepeatEntry) (f : Frame) (now : Nat) : List RepeatEntry :=
  ({ sender := f.sender, seq := f.seq, stale := false, window := some (now + ms 1000) } ::
    table.filter fun e => decide (e.sender ≠ f.sender)).take 8

/-- Check 3 of R118. -/
def addressed (r : Radio) (f : Frame) : Bool :=
  (decide (f.target = r.cfg.own) && decide (r.cfg.own ≠ 0))
    || (decide (f.target = 10000 + r.consist.number) && decide (r.consist.number ≠ 0))
    || (decide (f.target = 0) && (decide (f.kind = 3) || decide (f.kind = 5)))

/-- Checks 1 to 4 of R118 on the bytes after LEN: the frame when it is accepted. -/
def accepted (r : Radio) (bytes : List Byte) : Option Frame :=
  let f := parseFrame bytes
  if carriedCrc bytes ≠ (crc (bytes.take (bytes.length - 2))).toNat then none
  else if 2 < f.cls then none
  else if !addressed r f then none
  else if isRepeat r.repeats f then none
  else some f

/-- A complete frame is checked; accepted, it is heard and its kind is to be handled. -/
def State.checkFrame (s : State) (bytes : List Byte) : State :=
  match accepted s.radio bytes with
  | some f =>
    s.onRadio fun r => { r with repeats := hearSender r.repeats f s.clock, handling := some f }
  | none => s

/-- Waiting frames are checked in order until one is to be handled (R118). -/
def State.checkWaiting : List (List Byte) → State → State
  | [], s => s.onRadio fun r => { r with waiting := [] }
  | bytes :: rest, s =>
    let s' := s.checkFrame bytes
    if s'.radio.handling.isSome then s'.onRadio fun r => { r with waiting := rest }
    else State.checkWaiting rest s'

/-- The handling of a frame ends, and the next waiting frame is checked (R118). -/
def State.frameDone (s : State) : State :=
  State.checkWaiting s.radio.waiting (s.onRadio fun r => { r with handling := none })

/-- A frame is complete (R116, R118). -/
def State.frameComplete (s : State) (bytes : List Byte) : State :=
  if s.radio.handling = none then s.checkFrame bytes
  else s.onRadio fun r => { r with waiting := r.waiting ++ [bytes] }

/-! ## The receiver (R115, R116) -/

/-- The receiver in a new state, its gap timer started afresh or stopped. -/
def State.receive (s : State) (r : Receiver) : State :=
  s.onRadio fun u =>
    { u with receiver := r, gap := if r = .hunt then none else some (s.clock + ms 5) }

/-- A byte in RUN (R116). -/
def State.takeByte (s : State) (b : Byte) : State :=
  match s.radio.receiver with
  | .hunt => if b = 0xA5 then s.receive .length else s
  | .length => if 9 ≤ b.toNat ∧ b.toNat ≤ 28 then s.receive (.body b.toNat []) else s.receive .hunt
  | .body len bytes =>
    let bytes := bytes ++ [b]
    if len ≤ bytes.length then (s.receive .hunt).frameComplete bytes else s.receive (.body len bytes)

/-- RXD_BYTE (R115, R116): a framing error abandons the frame in progress; in QUIET bytes are
discarded. -/
def rxdByte (b : Byte) (stopBit : Bool) (s : State) : State :=
  if s.isRun then (if stopBit then s.takeByte b else s.receive .hunt) else s

def execRxdByte (b : Byte) (stopBit : Bool) (s : State) : Host.Outcome State Fault Refusal :=
  .next (rxdByte b stopBit s)

/-- GAP_TIMER_EXPIRY (R116). -/
def gapTimerExpiry (s : State) : State :=
  match s.radio.gap with
  | some d => (s.reach d).receive .hunt
  | none => s

def execGapTimerExpiry (s : State) : Host.Outcome State Fault Refusal := .next (gapTimerExpiry s)

/-- The entry of a sender becomes stale (R119). -/
def staleEntry (sender : Nat) (e : RepeatEntry) : RepeatEntry :=
  if e.sender = sender then { e with stale := true, window := none } else e

/-- REPEAT_WINDOW_EXPIRY (R119). -/
def repeatWindowExpiry (sender : BitVec 16) (s : State) : State :=
  match (repeatEntry s.radio.repeats sender.toNat).bind RepeatEntry.window with
  | some d =>
    (s.reach d).onRadio fun r => { r with repeats := r.repeats.map (staleEntry sender.toNat) }
  | none => s

def execRepeatWindowExpiry (sender : BitVec 16) (s : State) : Host.Outcome State Fault Refusal :=
  .next (repeatWindowExpiry sender s)

/-! ## Kinds (R120) -/

/-- The payload has its kind's size and values (R120). -/
def wellFormedPayload (f : Frame) : Bool :=
  let p := f.payload
  match f.kind with
  | 1 => decide (p.length = 2) && decide (param8 p 1 ≤ 1)
  | 2 => decide (p.length = 2) && decide (param8 p 0 ≤ 3)
  | 3 => decide (p.length = 0)
  | 4 => decide (p.length = 2)
  | 5 => decide (p.length = 6) && decide (1 ≤ param8 p 0) && decide (param8 p 2 ≤ 2)
  | 6 =>
    decide (p.length = 4) &&
      (decide (param8 p 0 = 1)
        || (decide (param8 p 0 = 0) && decide (1 ≤ param8 p 1) && decide (param8 p 1 ≤ 127)
          && decide (param8 p 2 ≤ 2) && decide (param8 p 3 ≤ 1)))
  | 7 => decide (p.length = 0)
  | 8 => decide (p.length = 3 + param8 p 2) && decide (1 ≤ param8 p 2) && decide (param8 p 2 ≤ 16)
  | 9 => decide (p.length ≤ 16)
  | _ => true

/-- An accepted frame is worked on: its holder is heard (R123), a malformed one is logged (R120), any
other is acted on. -/
def State.actOn (s : State) (f : Frame) (act : State → Frame → State) : State :=
  let s := s.hearHolder f
  if wellFormedPayload f then act s f else s.logFrame .malformed f

/-- The frame being handled is worked on when it is one that `mine` names, and its handling ends. -/
def State.handleFrame (s : State) (mine : Frame → Bool) (act : State → Frame → State) : State :=
  match s.radio.handling with
  | some f => if mine f then (s.actOn f act).frameDone else s
  | none => s

/-- Frames of one kind. -/
def ofKind (k : Nat) (f : Frame) : Bool := decide (f.kind = k)

/-! ## THROTTLE, FUNC, RELEASE (R122, R124) -/

/-- The request of a THROTTLE frame: the direction is inverted in a reversed consist (R122). -/
def frameDirection (r : Radio) (f : Frame) : Direction :=
  let d := directionOf (param8 f.payload 1)
  if r.consist.reversed then d.flip else d

/-- R122. -/
def throttleAct (s : State) (f : Frame) : State :=
  let throttle := param8 f.payload 0
  let direction := frameDirection s.radio f
  if f.target = s.radio.cfg.own ∧ s.radio.consist.number ≠ 0 then s.logFrame .inConsist f
  else if s.radio.lease.heldBy f.sender f.cls then s.applyRequest throttle direction
  else if leaseTakes s.radio.lease f.cls then
    (s.takeLease f.sender f.cls).applyRequest throttle direction
  else s.logFrame (.outcome .notHolder) f

/-- THROTTLE_FRAME (R122). -/
def throttleFrame (s : State) : State := s.handleFrame (ofKind 1) throttleAct

def execThrottleFrame (s : State) : Host.Outcome State Fault Refusal := .next (throttleFrame s)

/-- The function bits with group g replaced (R124). -/
def withGroup (functions : Reg) (g bits : Nat) : Reg :=
  (functions &&& ~~~(BitVec.ofNat 32 255 <<< (8 * g))) ||| (BitVec.ofNat 32 bits <<< (8 * g))

/-- A FUNC frame is applied (R124). -/
def funcApplies (l : Lease) (f : Frame) : Bool :=
  l.heldBy f.sender f.cls || decide (l = .none) || decide (f.cls ≤ 1)

/-- R124. -/
def funcAct (s : State) (f : Frame) : State :=
  if funcApplies s.radio.lease f then
    s.setFunctions (withGroup s.radio.request.functions (param8 f.payload 0) (param8 f.payload 1))
  else s.logFrame (.outcome .notHolder) f

/-- FUNC_FRAME (R124). -/
def funcFrame (s : State) : State := s.handleFrame (ofKind 2) funcAct

def execFuncFrame (s : State) : Host.Outcome State Fault Refusal := .next (funcFrame s)

/-- R124. -/
def releaseAct (s : State) (f : Frame) : State :=
  if s.radio.lease.heldBy f.sender f.cls then s.releaseLease else s

/-- RELEASE_FRAME (R124). -/
def releaseFrame (s : State) : State := s.handleFrame (ofKind 7) releaseAct

def execReleaseFrame (s : State) : Host.Outcome State Fault Refusal := .next (releaseFrame s)

/-! ## STOP, SET, PASS (R128, R129, R132) -/

/-- R128; the record follows the stop (log 14). -/
def stopAct (s : State) (f : Frame) : State := s.emergencyStop.logFrame (.outcome .ok) f

/-- STOP_FRAME (R128). -/
def stopFrame (s : State) : State := s.handleFrame (ofKind 3) stopAct

def execStopFrame (s : State) : Host.Outcome State Fault Refusal := .next (stopFrame s)

/-- R129. -/
def setAct (s : State) (f : Frame) : State :=
  if s.balance.run.isSome then s.logFrame (.outcome .busy) f
  else if f.cls = 2 ∧ s.radio.lease.heldBy f.sender f.cls = false then
    s.logFrame (.outcome .notHolder) f
  else s.requestAction (param8 f.payload 0) (param8 f.payload 1) f.cls (.frame f)

/-- SET_FRAME (R129). -/
def setFrame (s : State) : State := s.handleFrame (ofKind 4) setAct

def execSetFrame (s : State) : Host.Outcome State Fault Refusal := .next (setFrame s)

/-- R120, R132: PASS, and every kind not in the table. -/
def passAct (s : State) (f : Frame) : State :=
  if f.kind = 9 then s.logFrame .passed f else s.logFrame (.outcome .unknownKind) f

/-- PASS_FRAME (R120, R132; log 28). -/
def passFrame (s : State) : State :=
  s.handleFrame (fun f => decide (f.kind = 0) || decide (9 ≤ f.kind)) passAct

def execPassFrame (s : State) : Host.Outcome State Fault Refusal := .next (passFrame s)

/-! ## CONSIST (R131) -/

/-- A CONSIST frame is refused DENIED unless it comes so (R131). -/
def consistAllowed (r : Radio) (f : Frame) : Bool :=
  decide (f.cls ≤ 1) && decide (f.target = r.cfg.own)

/-- The consist state a CONSIST frame sets: operation 0 is JOIN, 1 LEAVE (R131). -/
def consistOf (f : Frame) : Consist :=
  if param8 f.payload 0 = 0 then
    { number := param8 f.payload 1, role := roleOf (param8 f.payload 2)
      reversed := decide (param8 f.payload 3 = 1) }
  else { number := 0, role := .lead, reversed := false }

/-- R131. -/
def joinAct (s : State) (f : Frame) : State :=
  if consistAllowed s.radio f then
    (s.onRadio fun r => { r with consist := consistOf f }).offer .consist .joined f
  else s.logFrame (.outcome .denied) f

def leaveAct (s : State) (f : Frame) : State :=
  if consistAllowed s.radio f then
    (s.onRadio fun r => { r with consist := consistOf f }).offer .consist .left f
  else s.logFrame (.outcome .denied) f

/-- A LEAVE (R131). -/
def isLeave (f : Frame) : Bool := ofKind 6 f && decide (param8 f.payload 0 = 1)

/-- CONSIST_JOIN (R131): a CONSIST frame that is no LEAVE (log 28). -/
def consistJoin (s : State) : State := s.handleFrame (fun f => ofKind 6 f && !isLeave f) joinAct

def execConsistJoin (s : State) : Host.Outcome State Fault Refusal := .next (consistJoin s)

/-- CONSIST_LEAVE (R131). -/
def consistLeave (s : State) : State := s.handleFrame isLeave leaveAct

def execConsistLeave (s : State) : Host.Outcome State Fault Refusal := .next (consistLeave s)

/-! ## SERVICE_WRITE (R130) -/

/-- The address and the bytes of a SERVICE_WRITE as cells. -/
def serviceCells (f : Frame) : List Host.Cell :=
  (List.range (param8 f.payload 2)).map fun k => (param16 f.payload 0 + k, f.payload.getD (3 + k) 0)

/-- The range lies wholly within the window (R130). -/
def inWindow (c : RadioConfig) (f : Frame) : Bool :=
  decide (c.windowStart ≤ c.windowEnd) && decide (c.windowStart ≤ param16 f.payload 0)
    && decide (param16 f.payload 0 + param8 f.payload 2 ≤ c.windowEnd + 1)

/-- Why a SERVICE_WRITE is refused (R120, R130); none when it is begun. -/
def serviceRefusal (c : RadioConfig) (f : Frame) : Option Reason :=
  if !wellFormedPayload f then some .malformed
  else if f.cls ≠ 0 then some (.outcome .denied)
  else if !inWindow c f then some .outOfWindow
  else none

/-- SERVICE_WRITE (R130): the checks, and the writing begins; the frame stays in hand until its last
byte is written. -/
def serviceWrite (s : State) : State :=
  match s.radio.handling with
  | some f =>
    if f.kind = 8 ∧ s.radio.service = none then
      let s := s.hearHolder f
      match serviceRefusal s.radio.cfg f with
      | some reason => (s.logFrame reason f).frameDone
      | none => s.onRadio fun r => { r with service := some (serviceCells f) }
    else s
  | none => s

def execServiceWrite (s : State) : Host.Outcome State Fault Refusal := .next (serviceWrite s)

/-- One word access of a service write: the bytes of one aligned word (R130). -/
def serviceWord : List Host.Cell → List Host.Cell × List Host.Cell
  | [] => ([], [])
  | [c] => ([c], [])
  | c :: d :: rest => if c.1 % 2 = 0 then ([c, d], rest) else ([c], d :: rest)

/-- Writes cells in order. -/
def writeCells (m : Memory) (cells : List Host.Cell) : Memory :=
  cells.foldl (fun m c => m.write c.1 c.2) m

/-- SERVICE_WRITE_DONE (R130): the bytes still to write are written, and the record is made. -/
def serviceWriteDone (s : State) : State :=
  match s.radio.handling, s.radio.service with
  | some f, some cells =>
    let s := s.onXm fun m => writeCells m cells
    ((s.onRadio fun r => { r with service := none }).offer .written .written f).frameDone
  | _, _ => s

def execServiceWriteDone (s : State) : Host.Outcome State Fault Refusal := .next (serviceWriteDone s)

/-! ## Beacons (R133, R134) -/

/-- The direction filter (R133; log 37). -/
def filterMatches (s : State) (f : Frame) : Bool :=
  let actual :=
    if s.radio.consist.reversed && decide (s.radio.consist.number ≠ 0) then s.traction.direction.flip
    else s.traction.direction
  match param8 f.payload 2 with
  | 1 => decide (actual = .forward)
  | 2 => decide (actual = .reverse)
  | _ => true

/-- A flag of a beacon: STATION 0, HORN 1, CLEAR 2 (11.8). -/
def beaconFlag (f : Frame) (k : Nat) : Bool := (param8 f.payload 1).testBit k

/-- The passage record at a beacon (R133). -/
def Passage.meet (p : Passage) (zone : Nat) : Passage :=
  if p.zone = zone then p else { zone := zone, horn := false, station := false }

/-- The zone record's part of a beacon (R133, 1). -/
def State.beaconZone (s : State) (f : Frame) : State :=
  let zone := param8 f.payload 0
  let cap := param16 f.payload 3
  if beaconFlag f 2 then
    if s.radio.zone.present = true ∧ s.radio.zone.zone = zone then s.emptyZone.logBeacon .zoneClear f
    else s
  else if cap = 0xFFFF then s
  else
    let record : ZoneRecord := { present := true, zone := zone, cap := cap }
    if s.radio.zone = record then s
    else (s.onRadio fun r => { r with zone := record }).logBeacon .zoneIn f

/-- The station stop's part of a beacon (R133, 2; R134). -/
def State.beaconStation (s : State) (f : Frame) : State :=
  if s.radio.station = .none ∧ s.radio.passage.station = false then
    let station : Station :=
      if s.traction.state = .stopped then .dwell f (s.clock + dwellTime f) else .braking f
    (s.onRadio fun r =>
      { r with station := station, passage := { r.passage with station := true } }).logBeacon
      .stationStart f
  else s

/-- The horn's part of a beacon (R133, 3). -/
def State.beaconHorn (s : State) : State :=
  if s.radio.passage.horn then s
  else (s.onRadio fun r => { r with passage := { r.passage with horn := true } }).playHorn

/-- R133. -/
def beaconAct (s : State) (f : Frame) : State :=
  if filterMatches s f then
    let s := s.onRadio fun r => { r with passage := r.passage.meet (param8 f.payload 0) }
    let s := s.beaconZone f
    let s := if beaconFlag f 0 then s.beaconStation f else s
    if beaconFlag f 1 then s.beaconHorn else s
  else s

/-- BEACON_FRAME (R133, R134). -/
def beaconFrame (s : State) : State := s.handleFrame (ofKind 5) beaconAct

def execBeaconFrame (s : State) : Host.Outcome State Fault Refusal := .next (beaconFrame s)

/-- DWELL_TIMER_EXPIRY (R134). -/
def dwellTimerExpiry (s : State) : State :=
  match s.radio.station with
  | .dwell f ends =>
    ((s.reach ends).onRadio fun r => { r with station := .none }).logBeacon .stationEnd f
  | .none | .braking _ => s

def execDwellTimerExpiry (s : State) : Host.Outcome State Fault Refusal := .next (dwellTimerExpiry s)

end Sys2Proof.Machine
end

