-- ==== Sys2Proof/Machine/Status.lean ====
section
/-! DEFINITION. The status writer (R24, R25, R101, R183, R192; 11.2): the bytes of the status record, its
update word by word, and the commands STATUS_TIMER_EXPIRY and STATUS_UPDATE_END. -/

namespace Sys2Proof.Machine

/-! ## The fields (11.2) -/

/-- 0 QUIET, 1 STARTING, 2 RUN. -/
def runCode (s : State) : Nat := if s.isRun then 2 else if s.port.start.isSome then 1 else 0

/-- 02H to 09H: run state, start-fault, chain. -/
def statusRun (s : State) : List Byte :=
  [loByte (runCode s), s.port.startFault.code, loByte s.sets.chain.length]
    ++ ([0, 1, 2, 3].map fun k => loByte ((s.sets.chain[k]?.map ChainEntry.index).getD 255))
    ++ [loByte (boolNat s.sets.clamped)]

/-- 0AH to 15H: traction and motion. -/
def statusTraction (s : State) : List Byte :=
  [loByte s.traction.state.code,
    loByte (s.traction.direction.code + 2 * boolNat s.traction.pending + 4 * boolNat s.traction.latch)]
    ++ bytes16 s.traction.t ++ bytes16 s.traction.c ++ bytes16 s.traction.u ++ bytes16 s.motion.m
    ++ [loByte (wheelAngle s), loByte s.motion.sensor.code]

/-- R102: 0 with no run, and while step 1 waits to begin. -/
def balanceStepShown (s : State) : Nat :=
  match s.balance.run with
  | some r => if r.step = 1 ∧ r.driving = false then 0 else r.step
  | none => 0

/-- 0 NONE, 1 RUNNING, 2 HELD. -/
def balanceCode (s : State) : Nat :=
  match s.balance.run with
  | some r => if r.held then 2 else 1
  | none => 0

/-- 16H to 1CH: bridges and balance run. -/
def statusBridges (s : State) : List Byte :=
  [loByte s.bridges.a.state.code, loByte s.bridges.b.state.code,
    loByte (boolNat s.bridges.a.chopFlag + 2 * boolNat s.bridges.b.chopFlag), loByte (balanceCode s),
    s.bridges.a.episodes, s.bridges.b.episodes, loByte (balanceStepShown s)]

/-- The remaining dwell in whole seconds, rounded up; 0 outside DWELL (R134; log 9). -/
def remainingDwell (s : State) : Nat :=
  match s.radio.station with
  | .dwell _ ends => (ends - s.clock + (ms 1000 - 1)) / ms 1000
  | .none | .braking _ => 0

/-- 1DH to 31H: the radio command unit. -/
def statusRadio (s : State) : List Byte :=
  let r := s.radio
  [loByte r.lease.kindCode, loByte r.lease.classCode,
    loByte (boolNat r.lease.markSet + 2 * boolNat r.failsafe)]
    ++ bytes16 r.lease.senderCode ++ [loByte r.request.throttle, loByte r.request.direction.code]
    ++ bytes32 r.request.functions.toNat
    ++ [loByte r.consist.number, loByte r.consist.role.code, loByte (boolNat r.consist.reversed),
        loByte (if r.zone.present then r.zone.zone else 0)]
    ++ bytes16 r.zone.cap
    ++ [loByte r.station.code, loByte (remainingDwell s), loByte r.logIndex, loByte (boolNat r.overflow)]

/-- 32H to 3FH: sound, the fault event count and the latched indications. -/
def statusSound (s : State) : List Byte :=
  (allVoices.map fun n => loByte (s.sound.voice n).state.code)
    ++ [loByte (boolNat (streamStarved s)), loByte (s.sound.badClip.getD 255),
        loByte s.sound.badUse.code, s.status.faultCount]
    ++ bytes16 (latchedMask s)

/-- 40H to 63H: lamps and smoke. -/
def statusLamps (s : State) : List Byte :=
  let h := s.lamps.heater
  let lamps := (List.range 10).map s.lamps.lamp
  (lamps.map fun l => loByte l.shown) ++ (lamps.map fun l => loByte l.lastKind.code)
    ++ (lamps.map Lamp.episodes)
    ++ [loByte h.state.code, loByte (boolNat h.noHeat + 2 * boolNat h.dry + 4 * boolNat h.sensor),
        loByte (boolNat h.sensor), loByte s.lamps.fan.state.code]
    ++ bytes16 h.lastT

/-- The two bytes of a signed temperature. -/
def dieBytes (t : Int) : List Byte := bytes16 (BitVec.ofInt 16 t).toNat

/-- 64H to 6EH: the supply monitor. -/
def statusSupply (s : State) : List Byte :=
  let u := s.supply
  [loByte u.state.code, loByte u.level, loByte u.thermal, loByte u.shed]
    ++ bytes16 u.vtrk ++ bytes16 u.vsto ++ dieBytes u.die ++ [loByte (boolNat u.charge)]

/-- The status bytes from 02H on; those not listed are 0 (R193). -/
def statusBytes (s : State) : List Byte :=
  statusRun s ++ statusTraction s ++ statusBridges s ++ statusRadio s ++ statusSound s
    ++ statusLamps s ++ statusSupply s

/-- A status byte by its offset, 02H or above. -/
def statusByte (s : State) (off : Nat) : Byte := (statusBytes s).getD (off - 2) 0

/-! ## The update (R24) -/

/-- The generation count rises and is written into the generation word. -/
def State.writeGeneration (s : State) : State :=
  let s := s.onStatus fun w => { w with generation := w.generation + 1 }
  s.onXm fun m => m.writeBytes 0x100 (bytes16 s.status.generation.toNat)

/-- One word of the fields, each field taken from its owner at this moment. -/
def State.writeStatusWord (s : State) (k : Nat) : State :=
  s.onXm fun m => m.writeBytes (0x100 + 2 * k) [statusByte s (2 * k), statusByte s (2 * k + 1)]

/-- An update begins (R24). -/
def State.beginUpdate (s : State) : State :=
  s.onStatus fun w => { w with updating := some 0 }

/-- The words of the fields from word `k` on, `n` of them. -/
def State.writeStatusWords : Nat → Nat → State → State
  | _, 0, s => s
  | k, n + 1, s => State.writeStatusWords (k + 1) n (s.writeStatusWord k)

/-- The update is over; an expiry that was deferred begins the next (R24). -/
def State.endUpdate (s : State) : State :=
  s.onStatus fun w =>
    { w with updating := if w.deferred then some 0 else none, deferred := false }

/-- The rest of an update whose next word is `k`: the odd generation, words 1 to 127, the even
generation. -/
def State.finishUpdate (s : State) (k : Nat) : State :=
  let s := if k = 0 then s.writeGeneration else s
  let first := max 1 k
  (State.writeStatusWords first (128 - first) s).writeGeneration.granted .statusWriter

/-- STATUS_TIMER_EXPIRY (R24): during an update it is deferred to the update's end. DESIGN CHOICE (log 38):
during a reset's writes it is deferred as well, before the reset update has begun, and the update it asks for
follows the reset update. -/
def statusTimerExpiry (s : State) : State :=
  let s := s.reach s.timers.status
  let s := s.onTimers fun t => { t with status := s.clock + ms 20 }
  if s.status.updating.isSome = true ∨ s.port.reset.isSome = true then
    s.onStatus fun w => { w with deferred := true }
  else s.beginUpdate

def execStatusTimerExpiry (s : State) : Host.Outcome State Fault Refusal := .next (statusTimerExpiry s)

/-- STATUS_UPDATE_END (R24); a reset's own update ends with its rewrites (RESET_REWRITES_END). -/
def statusUpdateEnd (s : State) : State :=
  match s.status.updating with
  | some k => if s.port.reset.isSome then s else (s.finishUpdate k).endUpdate
  | none => s

def execStatusUpdateEnd (s : State) : Host.Outcome State Fault Refusal := .next (statusUpdateEnd s)

end Sys2Proof.Machine
end

