-- ==== Sys2Proof/Machine/Resets.lean ====
section
/-! DEFINITION. Resets (R13 to R15): the state each leaves at once, its writes to exchange memory, and the
commands SOFT_RESET, POWER_RESET, BROWNOUT_RESET and RESET_REWRITES_END. -/

namespace Sys2Proof.Machine

/-! ## The writes of a reset (R13 to R15) -/

/-- The identity fields, the reset cause. -/
def identityTasks (cause : Byte) : List ResetTask := [.writeFamily, .writeRevision, .writeCause cause]

/-- After a POWER reset (R14). -/
def powerTasks : List ResetTask := .clearFrom 0 :: identityTasks 1 ++ [.beginStatus]

/-- After a BROWNOUT or SOFT reset (R15). -/
def keepTasks (cause : Byte) : List ResetTask :=
  identityTasks cause ++ (List.range 32).map .readSlot ++ (List.range 64).map .clip
    ++ [.logIndex, .beginStatus]

/-- A slot found TAKEN or HELD (R15, 1). -/
def slotHeldState (m : Memory) (n : Nat) : Bool :=
  decide (slotState m n = 2) || decide (slotState m n = 4)

/-- A segment byte that reads PLAYING becomes EMPTY, and STREAM is raised (R15, 2). -/
def State.emptySegment (s : State) (clip : Nat) (second : Bool) : State :=
  if s.xm.read (segmentAddr clip second) = 3 then s.leaveSegment clip second else s

/-- The entry is a STREAM entry. -/
def isStream (m : Memory) (clip : Nat) : Bool := decide (field8 m (clipBase clip) 1 = 2)

/-- One access of a reset's writes; it answers what must follow it (the segment bytes of a clip entry are one
word, read and replaced in one access: log 21). -/
def State.resetAccess (s : State) (t : ResetTask) : State × List ResetTask :=
  match t with
  | .clearFrom a =>
    (s.onXm fun m => m.writeBytes a [0, 0], if a + 2 < 65536 then [.clearFrom (a + 2)] else [])
  | .writeFamily => (s.onXm fun m => m.writeBytes 0 [0x40, 0x54], [])
  | .writeRevision => (s.onXm fun m => m.writeBytes 2 [0x01, 0x00], [])
  | .writeCause c => (s.onXm fun m => m.write 4 c, [])
  | .readSlot n =>
    (s, if slotHeldState s.xm n then [.writeSlotOutcome n, .writeSlotDone n] else [])
  | .writeSlotOutcome n => (s.onXm fun m => m.write (slotBase n + 0x28) OutcomeCode.reset.code, [])
  | .writeSlotDone n => ((s.writeSlotState n 3).raise .order, [])
  | .clip n => (s, if isStream s.xm n then [.segments n] else [])
  | .segments n => ((s.emptySegment n false).emptySegment n true, [])
  | .logIndex => (s.onRadio fun r => { r with logIndex := logReadIndex s }, [])
  | .beginStatus => (s.beginUpdate, [])

/-- A task carried out to its end. -/
def State.resetTask (s : State) (t : ResetTask) : State :=
  match t with
  | .clearFrom a => s.onXm fun m => m.clearFrom a
  | .readSlot n =>
    if slotHeldState s.xm n then
      ((s.onXm fun m => m.write (slotBase n + 0x28) OutcomeCode.reset.code).writeSlotState n 3).raise
        .order
    else s
  | .clip n => if isStream s.xm n then (s.emptySegment n false).emptySegment n true else s
  | .writeFamily | .writeRevision | .writeCause _ | .writeSlotOutcome _ | .writeSlotDone _
  | .segments _ | .logIndex | .beginStatus => (s.resetAccess t).1

/-- The reset's writes are over (R13): what was asked for meanwhile begins. -/
def State.endReset (s : State) (j : ResetJob) : State :=
  let s := s.onPort fun p =>
    { p with reset := none, start := if j.startRequest then some StartJob.first else p.start }
  let s := if j.sweepRequest then s.beginSweep else s
  s.endUpdate

/-- RESET_REWRITES_END (R13 to R15): the rest of the writes, the reset update included. -/
def resetRewritesEnd (s : State) : State :=
  match s.port.reset with
  | some j =>
    let s := j.todo.foldl State.resetTask s
    (s.finishUpdate (s.status.updating.getD 0)).endReset j
  | none => s

def execResetRewritesEnd (s : State) : Host.Outcome State Fault Refusal := .next (resetRewritesEnd s)

/-! ## What a reset leaves at once (R13) -/

/-- Every block at its reset values, its writes still to be made; memory, the commands that wait and the
place in the free values are kept. A reset taken while an earlier one is still writing drops the rest of the earlier
one's writes (DESIGN CHOICE, unsafe, log 47). -/
def State.resetWith (s : State) (tasks : List ResetTask) : State :=
  { State.reset with
    pending := s.pending
    free := s.free
    xm := s.xm
    port := { Port.atReset with
      reset := some { todo := tasks, sweepRequest := false, startRequest := false } }
    status := StatusWriter.atReset }

/-- A BROWNOUT or SOFT reset, which keeps the write index until it is rewritten (R15, 3). -/
def State.resetKeeping (s : State) (cause : Byte) : State :=
  (s.resetWith (keepTasks cause)).onRadio fun r => { r with logIndex := s.radio.logIndex }

/-- POWER_RESET (R13, R14). -/
def powerReset (s : State) : State := s.resetWith powerTasks

def execPowerReset (s : State) : Host.Outcome State Fault Refusal := .next (powerReset s)

/-- BROWNOUT_RESET (R13, R15). -/
def brownoutReset (s : State) : State := s.resetKeeping 2

def execBrownoutReset (s : State) : Host.Outcome State Fault Refusal := .next (brownoutReset s)

/-- SOFT_RESET (R8, R13, R15): taken at the fourth data byte of the CONTROL write. -/
def softReset (s : State) : State :=
  let s := s.registerWrite
  (s.resetKeeping 3).onPort fun p => { p with miso := s.port.miso }

def execSoftReset (s : State) : Host.Outcome State Fault Refusal := .next (softReset s)

end Sys2Proof.Machine
end

