-- ==== Sys2Proof/Machine/Idle.lean ====
section
/-! DEFINITION. The step of an idle part (log 2): time passes, and the XM arbiter grants a free number of the
part's own waiting word accesses in its rotation (R6). -/

namespace Sys2Proof.Machine

/-- The next of the rotation (R6). -/
def Requester.next : Requester → Requester
  | .hostPort => .orderEngine
  | .orderEngine => .statusWriter
  | .statusWriter => .radioWriter
  | .radioWriter => .hostPort

/-- The load of the set action in flight has words to read. -/
def headLoads (s : State) : Bool :=
  match s.sets.queue with
  | a :: _ => a.load.any fun l => decide (l.todo ≠ [])
  | [] => false

/-- The order in hand that passes the common checks. -/
def readyOrder (s : State) : Option TakenOrder :=
  (orderInHand s fun _ => true).filter fun o => decide (orderRefusal s o.kind = none)

/-- The order in hand is LOAD_LAMPS or LOAD_RADIO, with words to read (R4). -/
def orderLoads (s : State) : Bool := (readyOrder s).any fun o => decide (o.loading.todo ≠ [])

/-- The order in hand is REFRESH_SET, and no set action is in flight (R31). -/
def refreshReady (s : State) : Bool :=
  decide (s.sets.queue = []) && (readyOrder s).any fun o => decide (o.kind = 5)

/-- The sweep has an access to make: a word of a copy, or the first word of a slot that is not held (R18). -/
def sweepWaits (s : State) : Bool :=
  s.orders.sweep.any fun w =>
    sweepFree s w &&
      match w.copy with
      | some bytes => decide (bytes.length < 40)
      | none => (sweepReads s w).isSome

/-- The start in flight has words to read. -/
def startWaits (s : State) : Bool := s.port.start.any fun j => decide (j.stage ≠ .loaded)

/-- A reset has writes of its own to make. -/
def resetWaits (s : State) : Bool := s.port.reset.any fun j => decide (j.todo ≠ [])

/-- Whether a requester waits for an access of a long work. -/
def waits (s : State) : Requester → Bool
  | .hostPort => false
  | .orderEngine =>
    resetWaits s || startWaits s || headLoads s || orderLoads s || refreshReady s || sweepWaits s
  | .statusWriter => s.status.updating.isSome
  | .radioWriter => s.radio.service.any fun cells => decide (cells ≠ [])

/-- What a reset has still to do after an access. The beginning of its status update, which comes last, is no access
(R6, R13) and happens with the one before it. -/
def State.resetGoesOn (s : State) (todo : List ResetTask) : State :=
  if todo = [.beginStatus] then
    s.beginUpdate.onPort fun p => { p with reset := p.reset.map fun j => { j with todo := [] } }
  else s.onPort fun p => { p with reset := p.reset.map fun j => { j with todo := todo } }

/-- One access of a reset's writes. -/
def State.grantReset (s : State) : State :=
  match s.port.reset with
  | some j =>
    match j.todo with
    | t :: rest =>
      let (s', more) := s.resetAccess t
      s'.resetGoesOn (more ++ rest)
    | [] => s
  | none => s

/-- One access of the load of the set action in flight. -/
def State.grantLoad (s : State) : State :=
  s.onSets fun m =>
    match m.queue with
    | a :: rest => { m with queue := { a with load := a.load.map fun l => l.access s.xm } :: rest }
    | [] => m

/-- One access of the load of the order in hand. -/
def State.grantOrderLoad (s : State) : State :=
  s.onSweep fun w => { w with
    current := w.current.map fun o => { o with load := some (o.loading.access s.xm) } }

/-- A REFRESH_SET order is handed over, and the first word of its load is read (R31). -/
def State.grantRefresh (s : State) : State :=
  match readyOrder s with
  | some o => (s.dropOrder.requestRefresh o).grantLoad
  | none => s

/-- One access of the order engine: a reset first, then a start, a set load, the load of an order, the sweep
(log 21). -/
def State.grantOrders (s : State) : State :=
  if resetWaits s then s.grantReset
  else if startWaits s then
    match s.port.start with
    | some j => s.startAccess j
    | none => s
  else if headLoads s then s.grantLoad
  else if orderLoads s then s.grantOrderLoad
  else if refreshReady s then s.grantRefresh
  else
    match s.orders.sweep with
    | some w => s.sweepAccess w
    | none => s

/-- The end of an update by its last access, which ends a reset's writes as well (R13, R15). -/
def State.updateWritten (s : State) : State :=
  match s.port.reset with
  | some j => if j.todo = [] then s.endReset j else s.endUpdate
  | none => s.endUpdate

/-- One access of the status writer: the odd generation, the words of the fields, the even generation. -/
def State.grantStatus (s : State) : State :=
  match s.status.updating with
  | some k =>
    if 128 ≤ k then s.writeGeneration.updateWritten
    else
      let s := if k = 0 then s.writeGeneration else s.writeStatusWord k
      s.onStatus fun w => { w with updating := some (k + 1) }
  | none => s

/-- One access of the radio writer (R130). -/
def State.grantRadio (s : State) : State :=
  match s.radio.service with
  | some cells =>
    let (now, later) := serviceWord cells
    (s.onXm fun m => writeCells m now).onRadio fun r => { r with service := some later }
  | none => s

/-- A granted access. -/
def State.grant (s : State) (r : Requester) : State :=
  (match r with
    | .hostPort => s
    | .orderEngine => s.grantOrders
    | .statusWriter => s.grantStatus
    | .radioWriter => s.grantRadio).granted r

/-- The requester that the arbiter grants next: the first that waits, searching from the one after the
last granted (R6). -/
def nextGrantee (s : State) : Option Requester :=
  let first := s.lastGranted.next
  [first, first.next, first.next.next, first.next.next.next].find? (waits s)

/-- The next access of a reset's writes is the sound fetch's: one to the clip directory (R6). -/
def soundWaits (s : State) : Bool :=
  s.port.reset.any fun j =>
    match j.todo with
    | .clip _ :: _ | .segments _ :: _ => true
    | _ => false

/-- Up to `n` accesses: the sound fetch's first, outside the rotation, then the rotation's (R6). -/
def State.grants : Nat → State → State
  | 0, s => s
  | n + 1, s =>
    if soundWaits s then State.grants n s.grantReset
    else
      match nextGrantee s with
      | some r => State.grants n (s.grant r)
      | none => s

/-- The step of an idle part (log 2). -/
def idle (s : State) : State :=
  (State.grants (Config.idleGrants s.free) (s.atClock (s.clock + 1))).drawn 1

end Sys2Proof.Machine
end

