-- ==== Sys2Proof/Machine/Port.lean ====
section
/-! DEFINITION. The SPI port (R1 to R3, R22, R23): memory transactions, invalid commands, writes of the
registers that ask nothing of another block, and their commands. -/

namespace Sys2Proof.Machine

/-- The port's word accesses of a transaction of `n` data bytes, after which the rotation stands at it (R6); a
transaction without a data byte makes none (R2). -/
def State.hostAccesses (s : State) (n : Nat) : State := if n = 0 then s else s.granted .hostPort

/-- WRITE_MEMORY (R2): the bytes at successive addresses from `addr`, wrapping. -/
def writeMemory (addr : BitVec 16) (data : List Byte) (s : State) : State :=
  let s := s.spiWrite (2 + data.length)
  (s.onXm fun m => m.writeBytes addr.toNat data).hostAccesses data.length

def execWriteMemory (addr : BitVec 16) (data : List Byte) (s : State) :
    Host.Outcome State Fault Refusal :=
  .next (writeMemory addr data s)

/-- READ_MEMORY (R2): 00H, two bytes left open, the turnaround byte 00H, then the bytes read. -/
def readMemory (addr : BitVec 16) (count : Nat) (s : State) : State :=
  let answer := 0 :: (misoBytes s.free 2 ++ 0 :: s.xm.readBytes addr.toNat count)
  ((s.onPort fun p => { p with miso := answer }).drawn 2).hostAccesses count

def execReadMemory (addr : BitVec 16) (count : Nat) (s : State) : Host.Outcome State Fault Refusal :=
  .next (readMemory addr count s)

/-- What the part sends on MISO in a register read of `more` bytes after the turnaround byte (R3): 00H,
a byte left open, 00H, the register as it stands at the end of the turnaround, then 00H. A register read
changes nothing and is no row of the command table (log 25). -/
def registerAnswer (s : State) (number : Byte) (more : Nat) : List Byte :=
  0 :: (misoBytes s.free 1
    ++ 0 :: (bytes32 (readRegister s number.toNat).toNat ++ List.replicate more 0).take more)

/-- INVALID_COMMAND (R1): 00H for every byte, and nothing else changes. -/
def invalidCommand (_command : Byte) (more : Nat) (s : State) : State :=
  s.onPort fun p => { p with miso := List.replicate (more + 1) 0 }

def execInvalidCommand (command : Byte) (more : Nat) (s : State) : Host.Outcome State Fault Refusal :=
  .next (invalidCommand command more s)

/-- REGISTER_WRITE_OTHER (R3): a write to ID or above 4 is ignored. -/
def registerWriteOther (_number : Byte) (_value : Reg) (s : State) : State := s.registerWrite

def execRegisterWriteOther (number : Byte) (value : Reg) (s : State) :
    Host.Outcome State Fault Refusal :=
  .next (registerWriteOther number value s)

/-- NOTICE_WRITE (R22): each pending bit written as 1 is cleared. -/
def noticeWrite (value : Reg) (s : State) : State :=
  s.registerWrite.onPort fun p => { p with notice := p.notice &&& ~~~(value.setWidth 8) }

def execNoticeWrite (value : Reg) (s : State) : Host.Outcome State Fault Refusal :=
  .next (noticeWrite value s)

/-- NOTICE_MASK_WRITE (R23). -/
def noticeMaskWrite (value : Reg) (s : State) : State :=
  s.registerWrite.onPort fun p => { p with mask := value.setWidth 8 }

def execNoticeMaskWrite (value : Reg) (s : State) : Host.Outcome State Fault Refusal :=
  .next (noticeMaskWrite value s)

end Sys2Proof.Machine
end

