-- ==== Sys2Proof/Machine/Regulation.lean ====
section
/-! DEFINITION. The regulation step (chapter 4, 4.2 to 4.7, 4.11 to 4.14): target, ramp, direction, duty,
and the command REGULATION_STEP. -/

namespace Sys2Proof.Machine

/-! ## Stage 1: the target (R62 to R64) -/

/-- C_k: C0 is 0, C1 to C8 come from the set (R62). -/
def curvePoint (curve : List Nat) (k : Nat) : Nat := if k = 0 then 0 else curve.getD (k - 1) 0

/-- R62. -/
def rawTarget (curve : List Nat) (h : Nat) : Nat :=
  let lower := curvePoint curve (h / 32)
  let upper := curvePoint curve (h / 32 + 1)
  ((lower : Int) + (((upper : Int) - lower) * (h % 32 : Nat)).tdiv 32).toNat

/-- The target is forced to 0 (R64); `pending` is the flag as this step found it (R66). -/
def targetForced (s : State) (pending : Bool) : Bool :=
  decide (s.radio.request.throttle = 0) || s.radio.failsafe || decide (s.radio.station ≠ .none)
    || pending || s.tractionSet.lock.forbids s.radio.request.direction || s.traction.latch

/-- The zone cap in force (R63). -/
def zoneLimit (s : State) : Nat := if s.radio.zone.present then s.radio.zone.cap else 65535

/-- t (R62 to R64). -/
def target (s : State) (pending : Bool) : Nat :=
  if targetForced s pending then 0
  else
    min (rawTarget s.tractionSet.curve s.radio.request.throttle)
      (min s.tractionSet.maxRate (zoneLimit s))

/-! ## Stage 2: the ramp (R65) -/

def ramp (d : TractionSet) (t c : Nat) : Nat :=
  if c < t then (if d.accel = 0 then t else min t (c + d.accel))
  else if t < c then (if d.decel = 0 then t else max t (c - d.decel))
  else c

/-! ## Stage 3: direction (R66, R67) -/

/-- The zero-hold count after a step at which c is `c` (R67). -/
def zeroHoldAfter (count c : Nat) : Nat := if c = 0 then min 64 (count + 1) else 0

/-- The flip condition (R67), on c after stage 2, the zero-hold count of this step and its m. -/
def mayFlip (sensor : Sensor) (c zeroHold m : Nat) : Bool :=
  decide (c = 0) &&
    match sensor with
    | .ok => decide (m = 0)
    | .none | .lost => decide (64 ≤ zeroHold)

/-- Stage 3, with the requested direction (R67). -/
def Traction.settle (t : Traction) (requested : Direction) (sensor : Sensor) (m : Nat) : Traction :=
  let zeroHold := zeroHoldAfter t.zeroHold t.c
  if t.pending && mayFlip sensor t.c zeroHold m then
    { t with zeroHold := zeroHold, direction := requested, pending := false }
  else { t with zeroHold := zeroHold }

/-! ## Stage 4: the duty (R68 to R72) -/

/-- P (R68). -/
def proportional (kp : Nat) (e : Int) : Int := ((kp : Int) * e).tdiv 64

/-- The integrator keeps its value (R69). -/
def integratorSkips (e : Int) (prev cap : Nat) (chopped : Bool) : Bool :=
  (decide (0 < e) && (decide (prev = 1023) || decide (cap ≤ prev)))
    || (decide (e < 0) && decide (prev = 0)) || (decide (0 < e) && chopped)

/-- I after the update (R69). -/
def integrate (i ki : Nat) (e : Int) : Nat := (clampInt 0 1047552 (i + ki * e)).toNat

/-- Closed loop with c above 0 (R68 to R70). -/
def Traction.regulate (t : Traction) (d : TractionSet) (m : Nat) (chopped : Bool) : Traction :=
  let e : Int := t.c - m
  let i := if integratorSkips e t.prev d.dutyCap chopped then t.i else integrate t.i d.ki e
  { t with i := i, u := (clampInt 0 d.dutyCap (proportional d.kp e + (i / 1024 : Nat))).toNat }

/-- The seed at the return to closed loop (R72). -/
def Traction.seed (t : Traction) : Traction :=
  if t.lastSensor = .ok then t else { t with i := t.prev * 1024 }

/-- Stage 4 (R68 to R72). -/
def Traction.formDuty (t : Traction) (d : TractionSet) (sensor : Sensor) (m : Nat) (chopped : Bool) :
    Traction :=
  match sensor with
  | .ok => if t.c = 0 then { t with i := 0, u := 0 } else t.seed.regulate d m chopped
  | .none | .lost => { t with i := 0, u := min d.dutyCap (t.c * d.gain / 65536) }

/-! ## One step of the controller -/

/-- A step in QUIET (R84); c being 0, the zero-hold count rises (R67). -/
def Traction.quietStep (t : Traction) : Traction :=
  { t with t := 0, c := 0, i := 0, u := 0, pending := false, zeroHold := zeroHoldAfter t.zeroHold 0 }

/-- Stages 2 and 4 by the state in force: none in HELD and FAULTED (R80, R81). -/
def Traction.ramped (t : Traction) (state : TractionState) (d : TractionSet) : Traction :=
  match state with
  | .held => t
  | .faulted => { t with c := 0 }
  | _ => { t with c := ramp d t.t t.c }

def Traction.driven (t : Traction) (state : TractionState) (d : TractionSet) (sensor : Sensor) (m : Nat)
    (chopped : Bool) : Traction :=
  match state with
  | .held | .faulted => { t with i := 0, u := 0 }
  | _ => t.formDuty d sensor m chopped

/-- Stages 1 to 4 in RUN outside BALANCE (R62 to R72, R80, R81). The state in force is derived anew before stages 2
and 4, so the first step after an entry to RUN at a shed level of 4 or 5 is run as HELD (DESIGN CHOICE, unsafe,
log 50). -/
def controlStep (s : State) (chopped : Bool) : Traction :=
  let requested := s.radio.request.direction
  let sensor := s.motion.sensor
  let state := derivedState s
  let pending := decide (requested ≠ s.traction.direction)
  let t := { s.traction with pending := pending, t := target s pending }
  let t := (t.ramped state s.tractionSet).settle requested sensor s.motion.m
  t.driven state s.tractionSet sensor s.motion.m chopped

/-- The duty a command carries. -/
def Command.duty : Command → Nat
  | .drive p => p.duty
  | .off | .brake | .coast => 0

/-- A step in BALANCE (R82, R106): the actual direction becomes the run's, with c at 0; the sequencer
works; u is the duty it directs. -/
def State.balanceControl (s : State) (direction : Direction) : State :=
  let s := s.onTraction fun t =>
    { t with t := 0, c := 0, i := 0, zeroHold := 0, pending := false, direction := direction }
  let s := s.balanceStep s.motion.m
  if s.balance.run.isSome then s.onTraction fun t => { t with u := (balanceCommand s).duty } else s

/-- The inputs of a step: the chop flags and the applied duty of the period that ended, the loss
detection (R54, R76; log 11), m with decay (R52). -/
def State.stepInputs (s : State) : State :=
  let s := s.onBridges fun u => { u with a := u.a.rotateChop, b := u.b.rotateChop }
  let before := s.motion.sensor
  let s := s.lossDetection (if s.isRun then s.traction.lowest else 0)
  let s := if before = .ok ∧ s.motion.sensor = .lost then s.endRun .failedSensor else s
  let s := s.takeRate
  s.onTraction fun t => { t with lastM := s.motion.m }

/-- Stages 1 to 4, by the run state (R61, R82, R84). -/
def State.control (s : State) : State :=
  if !s.isRun then s.onTraction Traction.quietStep
  else
    match s.balance.run with
    | some r => s.balanceControl r.direction
    | none =>
      let t := controlStep s (s.bridges.a.chopFlag || s.bridges.b.chopFlag)
      s.onTraction fun _ => t

/-- The end of a step: last sensor state, previous duty, the derivation with its command, and a new
regulation period (R60, R72, R75, R76). -/
def State.stepEnds (s : State) : State :=
  let s := s.onTraction fun t => { t with lastSensor := s.motion.sensor, prev := t.u }
  let s := s.derive
  s.onTraction fun t => { t with lowest := s.bridges.drivenDuty }

/-- REGULATION_STEP (R61). -/
def regulationStep (s : State) : State :=
  let s := s.reach s.timers.regulation
  let s := s.onTimers fun t => { t with regulation := s.clock + ms 8 }
  s.stepInputs.control.stepEnds

def execRegulationStep (s : State) : Host.Outcome State Fault Refusal := .next (regulationStep s)

end Sys2Proof.Machine
end

