-- ==== Sys2Proof/Machine/Supply.lean ====
section
/-! DEFINITION. The supply monitor (chapter 10): supply states, thermal level, shed level and its publication,
and the commands SUPPLY_SAMPLE and DIE_TEMPERATURE_EXPIRY. -/

namespace Sys2Proof.Machine

/-- An input in mV: above 32,000 reads 32,000 (R184). -/
def voltage (millivolts : Nat) : Nat := min 32000 millivolts

/-! ## NORMAL (R186) -/

/-- The weak test at level 0 and the strong test at level 1. -/
def Supply.levelTests (u : Supply) : Supply :=
  if u.level = 0 then
    if u.vtrk < u.cfg.weak then
      if 100 ≤ u.weak + 1 then { u with level := 1, weak := 0 } else { u with weak := u.weak + 1 }
    else { u with weak := 0 }
  else if u.level = 1 then
    if u.cfg.weak + 500 ≤ u.vtrk then
      if 1000 ≤ u.strong + 1 then { u with level := 0, strong := 0 }
      else { u with strong := u.strong + 1 }
    else { u with strong := 0 }
  else u

/-! ## RIDE and DOWN (R188, R189) -/

/-- The store level (R188). -/
def storeLevel (c : SupplyConfig) (vsto : Nat) : Nat :=
  if vsto < c.s4 then 4 else if vsto < c.s3 then 3 else if vsto < c.s2 then 2
  else if vsto < c.s1 then 1 else 0

/-- The time level (R188). -/
def timeLevel (c : SupplyConfig) (ride : Nat) : Nat := if c.rideLimit < ride then 4 else 0

/-- The supply level of a sample in RIDE, and the change to DOWN (R188). -/
def Supply.rideLevel (u : Supply) : Supply :=
  if u.vsto < 5000 then { u with state := .down, level := 5 }
  else { u with level := max u.level (max (storeLevel u.cfg u.vsto) (timeLevel u.cfg u.ride)) }

/-- The ride count of a sample: it stops once it has passed the ride limit (R188, R189), and counts on when a start
loads a larger limit during the episode (DESIGN CHOICE, unsafe, log 53). -/
def Supply.countRide (u : Supply) : Supply :=
  if u.cfg.rideLimit < u.ride then u else { u with ride := u.ride + 1 }

/-- Entry to RIDE (R188). -/
def Supply.enterRide (u : Supply) : Supply :=
  ({ u with state := .ride, ride := 0, back := 0 }).rideLevel

/-- The return to NORMAL (R189). -/
def Supply.enterNormal (u : Supply) : Supply :=
  { u with
    state := .normal, ride := 0, lost := 0, weak := 0, strong := 0
    level := if u.vtrk < u.cfg.weak then 1 else 0 }

/-- The return count after a sample (R189). -/
def Supply.backAfter (u : Supply) : Nat := if u.cfg.lost + 1000 ≤ u.vtrk then u.back + 1 else 0

/-- The lost count after a sample (R186). -/
def Supply.lostAfter (u : Supply) : Nat := if u.vtrk < u.cfg.lost then u.lost + 1 else 0

/-- The supply state and level after a sample (R186, R188, R189). -/
def Supply.work (u : Supply) : Supply :=
  match u.state with
  | .normal =>
    let lost := { u with lost := u.lostAfter }
    if 2 ≤ u.lostAfter then lost.enterRide else lost.levelTests
  | .ride =>
    let back := { u with back := u.backAfter }
    if 10 ≤ u.backAfter then back.enterNormal else back.countRide.rideLevel
  | .down =>
    let back := { u with back := u.backAfter }
    if 10 ≤ u.backAfter then back.enterNormal else { back.countRide with level := 5 }

/-- The charge enable (R187; log 20). -/
def Supply.chargeOn (u : Supply) : Bool :=
  decide (u.state = .normal) && decide (u.shed < 5) && decide (u.vsto + 1500 < u.vtrk)

/-! ## The thermal level (R190) -/

/-- Entry temperature of a level. -/
def thermalEntry (k : Nat) : Int := if k = 1 then 125 else if k = 2 then 140 else 150

/-- A level qualifies at a reading. -/
def thermalHolds (current k : Nat) (t : Int) : Bool :=
  decide (thermalEntry k ≤ t) || (decide (k ≤ current) && decide (thermalEntry k - 10 ≤ t))

def thermalNext (current : Nat) (t : Int) : Nat :=
  if thermalHolds current 5 t then 5 else if thermalHolds current 2 t then 2
  else if thermalHolds current 1 t then 1 else 0

/-! ## The shed level (R191) -/

/-- The balance sequencer takes a shed level (R110). -/
def State.balanceShedChange (s : State) (before : Nat) : State :=
  if 4 ≤ s.supply.shed ∧ before < s.supply.shed then s.endRun .aborted else s

/-- The shed level is formed afresh; a change is published and SUPPLY raised (R191; log 32). -/
def State.formShed (s : State) : State :=
  let before := s.supply.shed
  let level := max s.supply.level s.supply.thermal
  if level = before then s
  else
    let s := s.onSupply fun u => { u with shed := level }
    (((s.tractionShedChange before).balanceShedChange before).lampShedChange before).raise .supply

/-- A change of supply state raises SUPPLY, and an entry to RIDE ends a balance run (R188, R189). -/
def State.supplyReport (s : State) (before : SupplyState) : State :=
  if s.supply.state = before then s
  else
    let s := s.raise .supply
    if before = .normal then s.endRun .aborted else s

/-- SUPPLY_SAMPLE (R184). -/
def supplySample (vtrk vsto : Nat) (s : State) : State :=
  let s := s.reach s.timers.supply
  let s := s.onTimers fun t => { t with supply := s.clock + ms 1 }
  let before := s.supply.state
  let s := s.onSupply fun u => ({ u with vtrk := voltage vtrk, vsto := voltage vsto }).work
  let s := s.supplyReport before
  let s := s.onSupply fun u => { u with charge := u.chargeOn }
  s.formShed

def execSupplySample (vtrk vsto : Nat) (s : State) : Host.Outcome State Fault Refusal :=
  .next (supplySample vtrk vsto s)

/-- DIE_TEMPERATURE_EXPIRY (R184, R190). -/
def dieTemperatureExpiry (celsius : Int) (s : State) : State :=
  let s := s.reach s.timers.die
  let s := s.onTimers fun t => { t with die := s.clock + ms 100 }
  let reading := clampInt (-40) 200 celsius
  let s := s.onSupply fun u => { u with die := reading, thermal := thermalNext u.thermal reading }
  s.formShed

def execDieTemperatureExpiry (celsius : Int) (s : State) : Host.Outcome State Fault Refusal :=
  .next (dieTemperatureExpiry celsius s)

end Sys2Proof.Machine
end

