-- ==== Sys2Proof/Machine/Dispatch.lean ====
section
/-! DEFINITION. One arm per command: its meaning. -/

namespace Sys2Proof.Machine

def exec (i : Instr) (s : State) : Host.Outcome State Fault Refusal :=
  match i with
  | .writeMemory addr data => Sys2Proof.Machine.execWriteMemory addr data s
  | .readMemory addr count => Sys2Proof.Machine.execReadMemory addr count s
  | .invalidCommand command more => Sys2Proof.Machine.execInvalidCommand command more s
  | .start => Sys2Proof.Machine.execStart s
  | .startEnd => Sys2Proof.Machine.execStartEnd s
  | .startRefused => Sys2Proof.Machine.execStartRefused s
  | .teardown => Sys2Proof.Machine.execTeardown s
  | .softReset => Sys2Proof.Machine.execSoftReset s
  | .powerReset => Sys2Proof.Machine.execPowerReset s
  | .brownoutReset => Sys2Proof.Machine.execBrownoutReset s
  | .resetRewritesEnd => Sys2Proof.Machine.execResetRewritesEnd s
  | .sweepWrite value => Sys2Proof.Machine.execSweepWrite value s
  | .sweepTimerExpiry => Sys2Proof.Machine.execSweepTimerExpiry s
  | .sweepEnd => Sys2Proof.Machine.execSweepEnd s
  | .slotTake => Sys2Proof.Machine.execSlotTake s
  | .registerWriteOther number value => Sys2Proof.Machine.execRegisterWriteOther number value s
  | .noticeWrite value => Sys2Proof.Machine.execNoticeWrite value s
  | .noticeMaskWrite value => Sys2Proof.Machine.execNoticeMaskWrite value s
  | .statusTimerExpiry => Sys2Proof.Machine.execStatusTimerExpiry s
  | .statusUpdateEnd => Sys2Proof.Machine.execStatusUpdateEnd s
  | .throttleOrder => Sys2Proof.Machine.execThrottleOrder s
  | .functions => Sys2Proof.Machine.execFunctions s
  | .stopOrder => Sys2Proof.Machine.execStopOrder s
  | .setAction => Sys2Proof.Machine.execSetAction s
  | .invoke => Sys2Proof.Machine.execInvoke s
  | .switch => Sys2Proof.Machine.execSwitch s
  | .returnSet => Sys2Proof.Machine.execReturn s
  | .refreshSet => Sys2Proof.Machine.execRefreshSet s
  | .loadLamps => Sys2Proof.Machine.execLoadLamps s
  | .loadRadio => Sys2Proof.Machine.execLoadRadio s
  | .play => Sys2Proof.Machine.execPlay s
  | .hush => Sys2Proof.Machine.execHush s
  | .balance => Sys2Proof.Machine.execBalance s
  | .holdBalance => Sys2Proof.Machine.execHoldBalance s
  | .resumeBalance => Sys2Proof.Machine.execResumeBalance s
  | .clearFaults => Sys2Proof.Machine.execClearFaults s
  | .leaseTake => Sys2Proof.Machine.execLeaseTake s
  | .leaseRelease => Sys2Proof.Machine.execLeaseRelease s
  | .axleEdge rising captureTime => Sys2Proof.Machine.execAxleEdge rising captureTime s
  | .stallTimerExpiry => Sys2Proof.Machine.execStallTimerExpiry s
  | .regulationStep => Sys2Proof.Machine.execRegulationStep s
  | .balanceHeldTimerExpiry => Sys2Proof.Machine.execBalanceHeldTimerExpiry s
  | .pwmPeriod => Sys2Proof.Machine.execPwmPeriod s
  | .onPhaseEnd bridge => Sys2Proof.Machine.execOnPhaseEnd bridge s
  | .deadTimeExpiry bridge leg => Sys2Proof.Machine.execDeadTimeExpiry bridge leg s
  | .blankingEnd bridge => Sys2Proof.Machine.execBlankingEnd bridge s
  | .chop bridge millivolts => Sys2Proof.Machine.execChop bridge millivolts s
  | .shortDetection bridge millivolts since => Sys2Proof.Machine.execShortDetection bridge millivolts since s
  | .throttleFrame => Sys2Proof.Machine.execThrottleFrame s
  | .funcFrame => Sys2Proof.Machine.execFuncFrame s
  | .stopFrame => Sys2Proof.Machine.execStopFrame s
  | .setFrame => Sys2Proof.Machine.execSetFrame s
  | .beaconFrame => Sys2Proof.Machine.execBeaconFrame s
  | .consistJoin => Sys2Proof.Machine.execConsistJoin s
  | .consistLeave => Sys2Proof.Machine.execConsistLeave s
  | .releaseFrame => Sys2Proof.Machine.execReleaseFrame s
  | .serviceWrite => Sys2Proof.Machine.execServiceWrite s
  | .serviceWriteDone => Sys2Proof.Machine.execServiceWriteDone s
  | .passFrame => Sys2Proof.Machine.execPassFrame s
  | .gapTimerExpiry => Sys2Proof.Machine.execGapTimerExpiry s
  | .repeatWindowExpiry sender => Sys2Proof.Machine.execRepeatWindowExpiry sender s
  | .failsafeExpiry => Sys2Proof.Machine.execFailsafeExpiry s
  | .lapseExpiry => Sys2Proof.Machine.execLapseExpiry s
  | .dwellTimerExpiry => Sys2Proof.Machine.execDwellTimerExpiry s
  | .sampleTimerExpiry => Sys2Proof.Machine.execSampleTimerExpiry s
  | .mixerFrame => Sys2Proof.Machine.execMixerFrame s
  | .effectTimerExpiry => Sys2Proof.Machine.execEffectTimerExpiry s
  | .lampPwmPeriod lamp => Sys2Proof.Machine.execLampPwmPeriod lamp s
  | .lampOvercurrent lamp milliamps since => Sys2Proof.Machine.execLampOvercurrent lamp milliamps since s
  | .lampRetryExpiry lamp => Sys2Proof.Machine.execLampRetryExpiry lamp s
  | .openLoadExpiry lamp => Sys2Proof.Machine.execOpenLoadExpiry lamp s
  | .heaterTimerExpiry thermistor => Sys2Proof.Machine.execHeaterTimerExpiry thermistor s
  | .puffTimerExpiry => Sys2Proof.Machine.execPuffTimerExpiry s
  | .purgeTimerExpiry => Sys2Proof.Machine.execPurgeTimerExpiry s
  | .fanOvercurrent milliamps since => Sys2Proof.Machine.execFanOvercurrent milliamps since s
  | .supplySample vtrk vsto => Sys2Proof.Machine.execSupplySample vtrk vsto s
  | .dieTemperatureExpiry celsius => Sys2Proof.Machine.execDieTemperatureExpiry celsius s
  | .rxdByte byte stopBit => Sys2Proof.Machine.execRxdByte byte stopBit s
  | .lampOnTimeEnd lamp milliamps => Sys2Proof.Machine.execLampOnTimeEnd lamp milliamps s
  | .fanPwmPeriod => Sys2Proof.Machine.execFanPwmPeriod s

end Sys2Proof.Machine
end

