-- ==== Sys2Proof/Safety.lean ====
section
/-! DEFINITION. What counts as a safe state: the laws the manual states of the whole part, each as a
condition on one state that every command and the idle step keep; and the terms in which the statements say what an
operation does: slots, records, voices, derivations, set changes, loads, frames. -/

namespace Sys2Proof.Safety

open Sys2Proof.Machine

/-! ## Starts and resets (R8, R10, R13) -/

/-- A start in flight, and the writes of a reset, happen only in QUIET, and never both at once. -/
def startLawful (s : State) : Prop :=
  (s.isRun = true → s.port.start = none)
    ∧ (s.port.reset ≠ none → s.isRun = false ∧ s.port.start = none)

/-! ## The set chain (R32, R34, R35, R37) -/

/-- Every entry but the top carries a resume record, and the top carries none. -/
def resumesRight : List ChainEntry → Bool
  | [] => true
  | [e] => e.resume.isNone
  | e :: rest => e.resume.isSome && resumesRight rest

/-- R32, R34, R35: in RUN 1 to 4 entries of sets 0 to 7, no set twice, resume records right, and a set
cached; in QUIET chain and cache empty and the clamped flag clear. -/
def chainLawful (s : State) : Prop :=
  if s.isRun then
    1 ≤ s.sets.chain.length ∧ s.sets.chain.length ≤ 4
      ∧ (s.sets.chain.map ChainEntry.index).Nodup ∧ (∀ e ∈ s.sets.chain, e.index ≤ 7)
      ∧ resumesRight s.sets.chain = true ∧ s.sets.cache ≠ none
  else s.sets.chain = [] ∧ s.sets.cache = none ∧ s.sets.clamped = false

/-- An action that has taken up the load of a set names one of the eight sets (R37, R38). -/
def actionLawful (a : SetAction) : Prop :=
  (a.kind = .invoke ∨ a.kind = .switch) → a.load ≠ none → a.index ≤ 7

/-- No set action waits in QUIET; every one that loads names a set. -/
def queueLawful (s : State) : Prop :=
  (s.isRun = false → s.sets.queue = []) ∧ ∀ a ∈ s.sets.queue, actionLawful a

/-- R9, R116: in QUIET no frame waits and none is handled; a service write is that of the frame being handled
(R130). -/
def framesLawful (s : State) : Prop :=
  (s.isRun = false → s.radio.waiting = [] ∧ s.radio.handling = none)
    ∧ (s.radio.service ≠ none → ∃ f, s.radio.handling = some f ∧ f.kind = 8)

/-- The laws of the set chain, with what they rest on. -/
def setsLawful (s : State) : Prop :=
  startLawful s ∧ chainLawful s ∧ queueLawful s ∧ framesLawful s

/-! ## The bridges (R87, R89, R94) -/

/-- No leg has both gates on (R89). -/
def gatesSafe (g : Gates) : Prop :=
  ¬(g.high1 = true ∧ g.low1 = true) ∧ ¬(g.high2 = true ∧ g.low2 = true)

/-- Every gate that is on is asked for. -/
def gatesWithin (g asked : Gates) : Prop :=
  (g.high1 = true → asked.high1 = true) ∧ (g.low1 = true → asked.low1 = true)
    ∧ (g.high2 = true → asked.high2 = true) ∧ (g.low2 = true → asked.low2 = true)

/-- The fixed gate pattern of a bridge out of DRIVE (R87). -/
def restPattern : BridgeState → Gates
  | .brake => lowGates
  | .off | .coast | .latched | .drive => Gates.none

/-- A bridge out of DRIVE holds its pattern and nothing of an on-phase (R87, R94). -/
def restLawful (b : Bridge) : Prop :=
  b.state ≠ .drive →
    b.asked = restPattern b.state ∧ b.phase = .idle ∧ b.onEnd = none ∧ b.blanking = none
      ∧ b.chopArmed = false

/-- The dead time after a turn-off is over at `now`. -/
def deadOver (off : Option Nat) (now : Nat) : Prop := ∀ t, off = some t → t + deadTime ≤ now

/-- A gate that is on came on no earlier than 500 ns after the other gate of its leg went off (R89). -/
def deadTimeLawful (b : Bridge) (now : Nat) : Prop :=
  (b.gates.high1 = true → deadOver b.offAt.low1 now) ∧ (b.gates.low1 = true → deadOver b.offAt.high1 now)
    ∧ (b.gates.high2 = true → deadOver b.offAt.low2 now)
    ∧ (b.gates.low2 = true → deadOver b.offAt.high2 now)

def bridgeLawful (b : Bridge) (now : Nat) : Prop :=
  gatesSafe b.gates ∧ gatesWithin b.gates b.asked ∧ restLawful b ∧ deadTimeLawful b now

/-- R87, R89 and R94 on both bridges. -/
def bridgesLawful (s : State) : Prop :=
  bridgeLawful s.bridges.a s.clock ∧ bridgeLawful s.bridges.b s.clock

/-! ## The duty (R76) -/

/-- R76: a DRIVE command stands only in RUN; its duty is at most the cached duty cap; it is 0 while the shed
level is 4 or more, the emergency-stop latch is set or the state is FAULTED. Out of a balance run it is
at most u. -/
def dutyLawful (s : State) : Prop :=
  ∀ p, s.bridges.held = .drive p →
    s.isRun = true ∧ p.duty ≤ s.tractionSet.dutyCap
      ∧ (s.balance.run = none → p.duty ≤ s.traction.u)
      ∧ (4 ≤ s.supply.shed ∨ s.traction.latch = true ∨ s.traction.state = .faulted → p.duty = 0)

/-! ## The heater (R174, R181) -/

/-- R174: the output is on only in RUN, at shed level 0, while PREHEAT or REGULATE, with the last T not
above the dry limit of the cached set. -/
def heaterLawful (s : State) : Prop :=
  s.lamps.heater.output = true →
    s.isRun = true ∧ s.supply.shed = 0 ∧ s.lamps.heater.working = true
      ∧ s.lamps.heater.lastT ≤ s.lampSet.dryLimit

/-! ## The lease (R105, R122) -/

/-- R105: a balance run exists exactly while the holder is ON-BOARD with the balance mark, and only in
RUN. -/
def leaseLawful (s : State) : Prop :=
  (s.balance.run ≠ none ↔ s.radio.lease = .onBoard true) ∧ (s.isRun = false → s.balance.run = none)

/-! ## The fan (R181) -/

/-- The two sides of the half-bridge are never on together, and a side that is on came on no earlier than 500 ns
after the other went off. -/
def fanLegSafe (g : FanLeg) (now : Nat) : Prop :=
  ¬(g.high = true ∧ g.low = true) ∧ (g.high = true → deadOver g.lowOff now)
    ∧ (g.low = true → deadOver g.highOff now)

def fanLawful (s : State) : Prop :=
  s.lamps.fan.periodStart ≤ s.lamps.fan.since ∧ s.lamps.fan.since ≤ s.clock
    ∧ fanLegSafe s.lamps.fan.leg s.lamps.fan.since

/-! ## The supply (R190, R191) -/

/-- The thermal level is 0, 1, 2 or 5, the supply level at most 5, and the shed level is the larger of the
two. -/
def supplyLawful (s : State) : Prop :=
  s.supply.thermal ∈ [0, 1, 2, 5] ∧ s.supply.level ≤ 5
    ∧ s.supply.shed = max s.supply.level s.supply.thermal

/-! ## The repeat table (R119) -/

/-- At most 8 entries, no sender twice. -/
def repeatsLawful (s : State) : Prop :=
  s.radio.repeats.length ≤ 8 ∧ (s.radio.repeats.map RepeatEntry.sender).Nodup

/-! ## The voices (R139, R140) -/

/-- A voice started by a trigger entry. -/
def startedByFunction : Starter → Prop
  | .function _ _ => True
  | .order | .event | .chuff | .engine => False

/-- A voice that is not IDLE plays a valid entry of the directory, and while it sounds its position lies within the clip, so
that no fetch leaves 2000H to FFFFH (R140). Only a STREAM voice is STARVED, and no trigger entry starts
one (R139). -/
def voiceLawful (v : Voice) : Prop :=
  v.state = .idle ∨
    (v.clip ≤ 63 ∧ v.entry.valid = true ∧ (v.sounds = true → v.position < v.entry.ends)
      ∧ (v.state = .starved → v.entry.kind = 2) ∧ (startedByFunction v.starter → v.entry.kind ≠ 2))

def voicesLawful (s : State) : Prop :=
  s.sound.voices.length = 8 ∧ ∀ v ∈ s.sound.voices, voiceLawful v

/-! ## QUIET (R9, R12) -/

/-- R9 and R12: in QUIET the bridges are OFF under the command OFF, every voice IDLE, every lamp dark, the
heater neither works nor heats, the fan is OFF or latched and not driven, and lease, station stop and zone
record are empty. A bridge that SINGLE mode does not use is OFF (R85). -/
def quietLawful (s : State) : Prop :=
  (s.bridges.cfg.mode = .single → s.bridges.b.state = .off)
    ∧ (s.isRun = false →
        s.bridges.held = .off ∧ s.bridges.a.state = .off ∧ s.bridges.b.state = .off
          ∧ (∀ v ∈ s.sound.voices, v.state = .idle)
          ∧ (∀ l ∈ s.lamps.lamps, l.shown = 0 ∧ l.output = false)
          ∧ s.lamps.heater.working = false ∧ s.lamps.heater.output = false
          ∧ (s.lamps.fan.state = .off ∨ s.lamps.fan.state = .latched)
          ∧ s.lamps.fan.puff = none ∧ s.lamps.fan.drive = 0
          ∧ s.radio.lease = .none ∧ s.radio.station = .none ∧ s.radio.zone.present = false)

/-- Every law that the quiet part rests on, and the quiet part itself. -/
def partLawful (s : State) : Prop :=
  setsLawful s ∧ bridgesLawful s ∧ leaseLawful s ∧ voicesLawful s ∧ quietLawful s

/-! ## How results read: slots, notices, memory (R20, R22) -/

/-- The host port after some pending bits have been set (R22). -/
def withNotice (p : Port) (bits : List NoticeBit) : Port :=
  { p with notice := bits.foldl (fun n b => n ||| b.flag) p.notice }

/-- A slot after its completion write (R20): DONE, the outcome, the step, and 22 result bytes filled up with
0. -/
def slotDone (m : Memory) (slot : Nat) (outcome : OutcomeCode) (step : Nat) (result : List Byte) : Prop :=
  m.read (slotBase slot) = 3 ∧ m.read (slotBase slot + 0x28) = outcome.code
    ∧ m.read (slotBase slot + 0x29) = BitVec.ofNat 8 step
    ∧ ∀ k, k < 22 → m.read (slotBase slot + 0x2A + k) = result.getD k 0

/-- The bytes of a slot that a completion write covers. -/
def inSlot (slot a : Nat) : Prop :=
  a = slotBase slot ∨ (slotBase slot + 0x28 ≤ a ∧ a < slotBase slot + 0x40)

/-- The stream segment bytes of the clip directory (11.6). -/
def inSegments (a : Nat) : Prop := 0x1400 ≤ a ∧ a < 0x1800 ∧ 14 ≤ a % 16

/-- Every byte of memory outside `p` reads as before. -/
def sameBut (before after : Memory) (p : Nat → Prop) : Prop :=
  ∀ a, a < 65536 → ¬p a → after.read a = before.read a

/-- The order engine has an order in hand (R18). -/
def orderTaken (s : State) (o : TakenOrder) : Prop :=
  ∃ w, s.orders.sweep = some w ∧ w.current = some o ∧ o.slot < 32

/-- The order engine once that order has ended (R20). -/
def ordersAfter (s : State) (o : TakenOrder) : OrderEngine :=
  { s.orders with
    held := s.orders.held.filter fun k => decide (k ≠ o.slot)
    sweep := s.orders.sweep.map fun w => { w with current := none } }

/-- An order ended with an outcome and a result, and nothing else happened (R19, R20). -/
def refusedOrder (s t : State) (o : TakenOrder) (outcome : OutcomeCode) (result : List Byte) : Prop :=
  slotDone t.xm o.slot outcome 0 result ∧ sameBut s.xm t.xm (inSlot o.slot)
    ∧ t = { s with
        xm := t.xm, lastGranted := .orderEngine, orders := ordersAfter s o
        port := withNotice s.port [.order] }

/-- A sweep, with every order ended, is at the copy of slot `n` (R18): it has copied the bytes `copied` of it, or
none yet, `n` being the next slot that is POSTED and not held. -/
def sweepBefore (s : State) (w : Sweep) (n : Nat) (copied : List Byte) : Prop :=
  s.orders.sweep = some w ∧ w.current = none ∧ (∀ a ∈ s.sets.queue, ∀ k, a.source ≠ .order k) ∧ n < 32
    ∧ (w.copy = some copied ∧ w.pos = n ∧ copied.length ≤ 40
      ∨ w.copy = none ∧ copied = [] ∧ w.pos ≤ n ∧ n ∉ s.orders.held ∧ s.xm.read (0x200 + 64 * n) = 1
        ∧ ∀ k, w.pos ≤ k → k < n → k ∈ s.orders.held ∨ s.xm.read (0x200 + 64 * k) ≠ 1)

/-- The 40 bytes of slot `n` once the rest of its copy is read (R18). -/
def slotCopy (s : State) (n : Nat) (copied : List Byte) : List Byte :=
  copied ++ s.xm.readBytes (0x200 + 64 * n + copied.length) (40 - copied.length)

/-- The 32 bytes of radio-log record `i` (11.7). -/
def inRecord (i a : Nat) : Prop := 0x1800 + 32 * i ≤ a ∧ a < 0x1800 + 32 * i + 32

/-- The action came by an order. -/
def Requestor.isOrder : Requestor → Bool
  | .order _ => true
  | .frame _ => false

/-- What the reports of a queue's actions may write (R20, R37, R135): the slot of each order, and from the write index
on as many records as actions came by frames. -/
def inReports (s : State) (a : Nat) : Prop :=
  (∃ b ∈ s.sets.queue, ∃ n, b.source = .order n ∧ inSlot n a)
    ∨ ∃ k, k < s.sets.queue.countP (fun b => !Requestor.isOrder b.source)
        ∧ inRecord ((s.radio.logIndex + k) % 64) a

/-- A balance run has ended without results (R108, R110): its slot is DONE with the outcome, the step last written, the
rates of the steps completed, G 0, the duties, the hold time and the number of those steps; the lease is NONE with
throttle 0; ORDER and CONTROL are raised. -/
def runEnded (t : State) (r : BalanceRun) (outcome : OutcomeCode) : Prop :=
  t.balance.run = none
    ∧ slotDone t.xm r.slot outcome r.written
        ((List.range 4).flatMap (fun k => bytes16 (r.rates.getD k 0)) ++ [0, 0]
          ++ (List.range 4).flatMap (fun k => bytes16 (r.duties.getD k 0))
          ++ [BitVec.ofNat 8 r.holdTime, BitVec.ofNat 8 r.rates.length])
    ∧ t.radio.lease = .none ∧ t.radio.request.throttle = 0
    ∧ t.port.notice.getLsbD 0 = true ∧ t.port.notice.getLsbD 5 = true

/-- What an emergency stop leaves (R77): rates, integrator and duties 0, the latch set, the balance run and the
station stop over, no duty on the bridges; the direction and a pending change as they were. -/
def stopped (s t : State) : Prop :=
  t.traction.c = 0 ∧ t.traction.i = 0 ∧ t.traction.u = 0 ∧ t.traction.prev = 0
    ∧ t.traction.latch = true ∧ t.balance.run = none ∧ t.radio.station = .none
    ∧ t.traction.pending = s.traction.pending ∧ t.traction.direction = s.traction.direction
    ∧ (s.bridges.allLatched = true → t.traction.state = .faulted ∧ t.bridges.held = .coast)
    ∧ (s.bridges.allLatched = false → 4 ≤ s.supply.shed →
        t.traction.state = .held ∧ t.bridges.held = .coast)
    ∧ (s.bridges.allLatched = false → s.supply.shed < 4 →
        t.traction.state = .estop ∧ t.bridges.held = .brake)

/-! ## How frames end (R118, R123, R135) -/

/-- The radio command unit once an accepted frame's sender has been heard (R123): the RADIO holder's own frame
refreshes last heard and clears the failsafe flag. -/
def heard (r : Radio) (f : Frame) (now : Nat) : Radio :=
  if r.lease.heldBy f.sender f.cls then
    { r with lease := .radio f.sender f.cls now, failsafe := false }
  else r

/-- A record about frame `f` was offered to the log (R135, R136), some further notices raised with it: with room,
its 32 bytes (11.7) stand at the old write index, the index moves on and RADIO is raised; else it is
dropped, and LOG_FULL is raised when the overflow flag was clear. -/
def recordOffered (s t : State) (kind : RecordKind) (reason : Reason) (f : Frame) (bits : List NoticeBit) :
    Prop :=
  t.radio.logSeq = s.radio.logSeq + 1
  ∧ (if (s.radio.logIndex + 1) % 64 = (s.xm.read 0x32).toNat % 64 then
      t.radio.logIndex = s.radio.logIndex ∧ t.radio.overflow = true
        ∧ t.port = withNotice s.port ((if s.radio.overflow then [] else [.logFull]) ++ bits)
    else
      (∀ k, k < 32 → t.xm.read (0x1800 + 32 * s.radio.logIndex + k) =
        (bytes16 (s.radio.logSeq + 1).toNat ++ bytes32 (BitVec.ofNat 32 (s.clock / 1024000)).toNat
          ++ [kind.code, reason.code,
              (if s.radio.overflow then 1 else 0) + (if 16 < f.payload.length then 2 else 0),
              BitVec.ofNat 8 f.cls]
          ++ bytes16 f.sender ++ bytes16 f.target
          ++ [BitVec.ofNat 8 f.kind, BitVec.ofNat 8 f.payload.length]
          ++ (f.payload ++ List.replicate 16 0).take 16).getD k 0)
        ∧ t.radio.logIndex = (s.radio.logIndex + 1) % 64 ∧ t.radio.overflow = false
        ∧ t.port = withNotice s.port (.radio :: bits))

/-- No byte outside the record a room in the log takes has changed. -/
def recordOnly (s t : State) : Prop :=
  sameBut s.xm t.xm fun a =>
    (s.radio.logIndex + 1) % 64 ≠ (s.xm.read 0x32).toNat % 64 ∧ inRecord s.radio.logIndex a

/-- A record about frame `f` was offered to the log, some further notices raised with it, when `made`; else nothing
has happened. -/
def recordedIf (made : Bool) (s t : State) (kind : RecordKind) (reason : Reason) (f : Frame)
    (bits : List NoticeBit) : Prop :=
  if made then
    recordOffered s t kind reason f bits ∧ recordOnly s t
      ∧ t = { s with
          xm := t.xm, port := t.port
          radio := { s.radio with
            logIndex := t.radio.logIndex, logSeq := t.radio.logSeq, overflow := t.radio.overflow } }
  else t = s

/-- A complete frame, as its bytes after LEN, is accepted (R118, R119): its check value is right, its class is at most 2,
it is for this part by its own address, by its consist or as a broadcast STOP or BEACON, and it is no repeat. -/
def frameAccepted (r : Radio) (bytes : List Byte) : Bool :=
  decide (carriedCrc bytes = (crc (bytes.take (bytes.length - 2))).toNat ∧ (parseFrame bytes).cls ≤ 2
    ∧ (((parseFrame bytes).target = r.cfg.own ∧ r.cfg.own ≠ 0)
      ∨ ((parseFrame bytes).target = 10000 + r.consist.number ∧ r.consist.number ≠ 0)
      ∨ ((parseFrame bytes).target = 0 ∧ ((parseFrame bytes).kind = 3 ∨ (parseFrame bytes).kind = 5)))
    ∧ isRepeat r.repeats (parseFrame bytes) = false)

/-- The repeat table once frame `f` is accepted (R119): its sender stands first, with its sequence number and a window
of 1000 ms, no second time, and 8 entries stay. -/
def senderFirst (table : List RepeatEntry) (f : Frame) (now : Nat) : List RepeatEntry :=
  ({ sender := f.sender, seq := f.seq, stale := false, window := some (now + 1000 * 1024000) }
    :: table.filter fun e => decide (e.sender ≠ f.sender)).take 8

/-- The handling of a frame has ended, and those that waited are checked in the order of their arrival (R118), against
address and consist as the frame left them: the first that is accepted is in hand, its sender heard, and those behind
it wait on; those before it are gone. With none accepted, none is in hand, none waits, and the repeat table is as it
was. -/
def frameEnded (s t : State) : Prop :=
  ∀ r : Radio, r = { t.radio with repeats := s.radio.repeats } →
    ((∀ b ∈ s.radio.waiting, frameAccepted r b = false) →
      t.radio.handling = none ∧ t.radio.waiting = [] ∧ t.radio.repeats = s.radio.repeats)
    ∧ ∀ gone bytes rest, s.radio.waiting = gone ++ bytes :: rest → (∀ b ∈ gone, frameAccepted r b = false) →
      frameAccepted r bytes = true →
      t.radio.handling = some (parseFrame bytes) ∧ t.radio.waiting = rest
        ∧ t.radio.repeats = senderFirst s.radio.repeats (parseFrame bytes) s.clock

/-- The radio command unit with the receiver's side of `u`: the frame in hand, those that wait, the repeat table,
and the place in the log. -/
def besideFrames (r u : Radio) : Radio :=
  { r with
    handling := u.handling, waiting := u.waiting, repeats := u.repeats
    logIndex := u.logIndex, logSeq := u.logSeq, overflow := u.overflow }

/-- Of a frame nothing came but its record (R120, R137) and its sender's being heard. -/
def frameLogged (s t : State) (kind : RecordKind) (reason : Reason) (f : Frame) : Prop :=
  recordOffered s t kind reason f [] ∧ recordOnly s t ∧ frameEnded s t
    ∧ t = { s with
        xm := t.xm, lastGranted := .radioWriter, port := { s.port with notice := t.port.notice }
        radio := besideFrames (heard s.radio f s.clock) t.radio }

/-! ## How set actions end (R37, R43) -/

/-- The queue once the waiting actions have been taken up against the chain of `m`: those that load nothing are
gone, and the first that loads has its load begun. -/
def takenUp (m : SetManager) : List SetAction → List SetAction
  | [] => []
  | a :: rest =>
    match loadIndex m a with
    | some x => { a with load := some (TableLoad.ofSet x) } :: rest
    | none => takenUp m rest

/-- A set action ended with a refusal, and nothing else happened but what becomes of the queue: an order has its
completion write with the chain as its result, a frame its record in the radio log (R43, R129). -/
def refusedAction (s t : State) (a : SetAction) (outcome : OutcomeCode) : Prop :=
  match a.source with
  | .order n =>
    slotDone t.xm n outcome 0 (chainResult s.sets) ∧ sameBut s.xm t.xm (inSlot n)
      ∧ t = { s with
          xm := t.xm, lastGranted := .orderEngine, port := withNotice s.port [.order]
          orders := { s.orders with held := s.orders.held.filter fun k => decide (k ≠ n) }
          sets := { s.sets with queue := t.sets.queue } }
  | .frame f =>
    recordOffered s t .frame (.outcome outcome) f [] ∧ recordOnly s t
      ∧ t = { s with
          xm := t.xm, lastGranted := .radioWriter, port := { s.port with notice := t.port.notice }
          radio := { s.radio with
            logIndex := t.radio.logIndex, logSeq := t.radio.logSeq, overflow := t.radio.overflow }
          sets := { s.sets with queue := t.sets.queue } }

/-- The actions that wait are taken up in the order of their arrival, a decision having left `s` (R37): each that loads
nothing (R38, R41) ends with its refusal in the same moment, and the first that loads begins its load as the action in
flight, those behind it waiting on. -/
def restTakenUp : List SetAction → State → State → Prop
  | [], s, t => t = { s with sets := { s.sets with queue := [] } }
  | b :: rest, s, t =>
    (∀ x, loadIndex s.sets b = some x →
      t = { s with sets := { s.sets with queue := { b with load := some (TableLoad.ofSet x) } :: rest } })
    ∧ (loadIndex s.sets b = none → ∃ u : State,
      refusedAction s u b (if s.balance.run.isSome then .busy
          else if b.kind = .returnSet then .chainEmpty else .badIndex)
        ∧ restTakenUp rest u t)

/-- The outcome of a SET frame's action that was carried out stands in the radio log (R129, R135, R136): with room,
as a FRAME record at the old write index. -/
def actionLogged (s t : State) (f : Frame) (outcome : OutcomeCode) : Prop :=
  t.radio.logSeq = s.radio.logSeq + 1
    ∧ ((s.radio.logIndex + 1) % 64 ≠ (s.xm.read 0x32).toNat % 64 →
      t.xm.read (0x1800 + 32 * s.radio.logIndex + 6) = RecordKind.frame.code
      ∧ t.xm.read (0x1800 + 32 * s.radio.logIndex + 7) = outcome.code
      ∧ t.xm.readBytes (0x1800 + 32 * s.radio.logIndex + 10) 2 = bytes16 f.sender
      ∧ t.radio.logIndex = (s.radio.logIndex + 1) % 64 ∧ t.port.notice.getLsbD 1 = true)

/-- The slots and the log that the actions of a queue may write to exist, and no two of them answer one slot. -/
def queueSlots (s : State) : Prop :=
  s.radio.logIndex < 64 ∧ (∀ a ∈ s.sets.queue, ∀ n, a.source = .order n → n < 32)
    ∧ s.sets.queue.Pairwise fun a b => ∀ n, a.source = .order n → b.source ≠ .order n

/-- The radio command unit has the accepted frame `f` of kind `k` in hand (R118). -/
def frameInHand (s : State) (f : Frame) (k : Nat) : Prop :=
  s.xm.wf = true ∧ s.radio.logIndex < 64 ∧ s.radio.handling = some f ∧ f.kind = k

/-! ## Which voice a PLAY starts (R142, R143) -/

/-- The voice of a PLAY with voice code `code` and priority `priority`: the one named, or for the code FFH the lowest
IDLE pool voice, or with none IDLE the one to steal: of those below the priority the one of the lowest, and of these
the one whose start lies furthest behind the start count. -/
def playsOn (u : Sound) (code priority n : Nat) : Prop :=
  2 ≤ n ∧ n ≤ 7
    ∧ (code = n
      ∨ code = 255 ∧ (u.voice n).state = .idle ∧ (∀ k, 2 ≤ k → k < n → (u.voice k).state ≠ .idle)
      ∨ code = 255 ∧ (∀ k, 2 ≤ k → k ≤ 7 → (u.voice k).state ≠ .idle) ∧ (u.voice n).priority < priority
        ∧ ∀ k, 2 ≤ k → k ≤ 7 → k ≠ n → (u.voice k).priority < priority →
          (u.voice n).priority < (u.voice k).priority
            ∨ ((u.voice n).priority = (u.voice k).priority
              ∧ (u.startCount - (u.voice k).stamp).toNat < (u.startCount - (u.voice n).stamp).toNat))

/-! ## How voices start (R139, R141, R155) -/

/-- A voice right after its start with the clip `clip`, read as `e` (R141): at the clip's beginning, at full
envelope. -/
def freshVoice (clip : Nat) (e : ClipEntry) (volume step : Nat) (repeats : Option Nat) (priority : Nat)
    (starter : Starter) (stamp : Reg) : Voice where
  state := .playing
  clip := clip
  entry := e
  position := 0
  step := step
  volume := volume
  envelope := 255
  fadeStep := 0
  repeats := repeats
  priority := priority
  starter := starter
  stamp := stamp
  lastSegment := false

/-- Voice `n` is given the clip `clip` by the engine, chuff or trigger rules (R139, R141). What it plays is stopped
first; a clip of "none" does no more. A clip that is valid and of a kind that the use allows plays as `voice` says of
its entry, and the start count rises by 1; any other leaves the voice IDLE with a CLIP fault. -/
def voiceGiven (s t : State) (n clip : Nat) (use : ClipUse) (voice : ClipEntry → Voice) : Prop :=
  ∀ freed : State, freed = { s with
      xm := (s.stopVoice n).xm, port := (s.stopVoice n).port
      sound := { s.sound with
        voices := s.sound.voices.set n { s.sound.voice n with state := .idle } } } →
    (63 < clip → t = freed)
    ∧ (clip ≤ 63 → ∀ e, e = loadClip s.xm clip →
      if e.valid = true ∧ (if use = .engine then e.kind = 1 else e.kind ≤ 1) then
        t = { freed with sound := { freed.sound with
          voices := s.sound.voices.set n (voice e), startCount := s.sound.startCount + 1 } }
      else
        t = { freed with
          port := withNotice freed.port [.fault]
          status := { s.status with faultCount := s.status.faultCount + 1 }
          sound := { freed.sound with badClip := some clip, badUse := use } })

/-- A clip that the part starts by itself, at a priority (R155, R156): on the voice that an automatic PLAY of that
priority would take (R142), with the clip's own volume and pitch. "None", a part in QUIET (R160), and a start that
finds no voice, do nothing. -/
def clipPlays (s t : State) (clip : Nat) (use : ClipUse) (priority : Nat) (starter : Starter) (endless : Bool) :
    Prop :=
  (63 < clip ∨ s.isRun = false
      ∨ (∀ n, 2 ≤ n → n ≤ 7 → (s.sound.voice n).state ≠ .idle ∧ priority ≤ (s.sound.voice n).priority) →
    t = s)
  ∧ (clip ≤ 63 → s.isRun = true → ∀ n, playsOn s.sound 255 priority n →
    voiceGiven s t n clip use fun e =>
      freshVoice clip e e.volume (max 0x40 (min 0x400 e.basePitch))
        (if endless then none else some (if e.kind = 1 then 1 else 0)) priority starter
        (s.sound.startCount + 1))

/-! ## What a change of function bits does (R156, R178) -/

/-- What trigger entry `k` does at a change of the function bits (R156). A bit that rises starts the clip at priority 2.
A bit that falls fades the voices that a HOLD entry has started. Every other change of the bits does nothing. -/
def triggerActs (s t : State) (before after : Reg) (k : Nat) (e : Trigger) : Prop :=
  (before.getLsbD e.function = after.getLsbD e.function → t = s)
  ∧ (before.getLsbD e.function = true → after.getLsbD e.function = false →
    t = if e.hold then { s with sound := { s.sound with voices := s.sound.voices.map fun v =>
        if v.state ≠ .idle ∧ v.starter = Starter.function k true then { v with state := .fading, fadeStep := 16 }
        else v } }
      else s)
  ∧ (before.getLsbD e.function = false → after.getLsbD e.function = true →
    clipPlays s t e.clip .function 2 (.function k e.hold) e.hold)

/-- The trigger entries, numbered from `k` on, act one after the other on a change of the function bits (R156; the
order: log 45). -/
def triggersAct (before after : Reg) : Nat → List Trigger → State → State → Prop
  | _, [], s, t => t = s
  | k, e :: rest, s, t => ∃ u, triggerActs s u before after k e ∧ triggersAct before after (k + 1) rest u t

/-- The heater and the fan after a change of the function bits to `after` (R178, R180): PREHEAT or REGULATE that is
enabled no longer becomes OFF with its output off, and a fan that served REGULATE purges. -/
def heaterTold (s t : State) (after : Reg) : Prop :=
  ∀ enabled : Bool, enabled = (s.isRun && decide (s.lampSet.smokeFunction ≤ 31)
      && after.getLsbD s.lampSet.smokeFunction && decide (s.supply.shed = 0) && !s.lamps.heater.latched) →
    t.lamps.heater = (if enabled = false ∧ (s.lamps.heater.state = .preheat ∨ s.lamps.heater.state = .regulate) then
        { s.lamps.heater with state := .off, output := false } else s.lamps.heater)
    ∧ t.lamps.fan = (if enabled = false ∧ s.lamps.heater.state = .regulate
          ∧ (s.lamps.fan.state = .run ∨ s.lamps.fan.state = .puff) then
        (if s.lampSet.purgeTime = 0 then { s.lamps.fan with state := .off, puff := none }
        else { s.lamps.fan with
          state := .purge, puff := none
          purge := some (s.clock + 1024000 * (1000 * s.lampSet.purgeTime)) })
      else s.lamps.fan)

/-- The readers of the function bits are told of a change from `before` (log 32): the trigger entries, then the heater
and the fan. -/
def functionsTold (before : Reg) (s t : State) : Prop :=
  ∃ v : State, triggersAct before s.radio.request.functions 0 s.soundSet.triggers s v
    ∧ heaterTold v t s.radio.request.functions
    ∧ t = { v with lamps := { v.lamps with heater := t.lamps.heater, fan := t.lamps.fan } }

/-! ## The legs of a bridge (R87, R89) -/

/-- The high and the low gate of a leg. -/
def legGates (g : Gates) : Leg → Bool × Bool
  | .one => (g.high1, g.low1)
  | .two => (g.high2, g.low2)

/-- When the high and the low gate of a leg last turned off. -/
def legOffTimes (g : GateTimes) : Leg → Option Nat × Option Nat
  | .one => (g.high1, g.low1)
  | .two => (g.high2, g.low2)

/-- A gate of a leg, the low one while the high one is not asked for, is asked for and off, and the other gate turned off
last at `off`. -/
def legWaits (b : Bridge) (leg : Leg) (off : Nat) : Prop :=
  legGates b.gates leg = (false, false)
    ∧ ((legGates b.asked leg).1 = true ∧ (legOffTimes b.offAt leg).2 = some off
      ∨ legGates b.asked leg = (false, true) ∧ (legOffTimes b.offAt leg).1 = some off)

/-! ## How bridges take commands (R87, R88) -/

/-- The bridge state that a command names (R87). -/
def stateNamed : Command → BridgeState
  | .off => .off
  | .drive _ => .drive
  | .brake => .brake
  | .coast => .coast

/-- At `now` a bridge takes up a state with its fixed gate pattern (R87), or DRIVE without a PWM period as yet: nothing of
an on-phase is left, the short-run count is 0, every high side is off, and a low side is on under BRAKE alone, where it
was on, or where the high side of its leg has been off for the dead time (R89). -/
def bridgeRests (b b' : Bridge) (state : BridgeState) (now : Nat) : Prop :=
  (∀ leg, (legGates b'.gates leg).1 = false
    ∧ ((legGates b'.gates leg).2 = true ↔ state = .brake ∧ ((legGates b.gates leg).2 = true
      ∨ (legGates b.gates leg).1 = false ∧ deadOver (legOffTimes b.offAt leg).1 now))
    ∧ legOffTimes b'.offAt leg = (
        if (legGates b.gates leg).1 = true then some now else (legOffTimes b.offAt leg).1,
        if (legGates b.gates leg).2 = true ∧ state ≠ .brake then some now else (legOffTimes b.offAt leg).2))
  ∧ b' = { b with
      state := state, shortRun := 0, detected := false, phase := .idle, onEnd := none, conduct := none
      blanking := none, chopArmed := false, asked := restPattern state, gates := b'.gates, offAt := b'.offAt }

/-- A bridge enters DRIVE under `p` at `now` (R88, R89; log 18): a period begins with the on-phase of the duty, or at duty
0 with the off-phase of the freewheel; a high side that is on at once conducts from there. -/
def bridgeDrives (cfg : BridgeConfig) (b b' : Bridge) (p : DriveParams) (now : Nat) : Prop :=
  ∀ driven : Bool, driven = (match p.direction with
      | .forward => b'.gates.high1
      | .reverse => b'.gates.high2) →
    gatesWithin b'.gates b'.asked
    ∧ b'.asked = (if p.duty = 0 then (match p.freewheel with
          | .slow => { high1 := false, low1 := true, high2 := false, low2 := true }
          | .fast => { high1 := false, low1 := false, high2 := false, low2 := false })
        else (match p.direction with
          | .forward => { high1 := true, low1 := false, high2 := false, low2 := true }
          | .reverse => { high1 := false, low1 := true, high2 := true, low2 := false }))
    ∧ b' = { b with
        state := .drive, shortRun := 0, detected := false, params := p, periodStart := now
        phase := if p.duty = 0 then .offPhase else .onPhase
        onEnd := if p.duty = 0 then none else some (now + p.duty * 50)
        conduct := if driven then some now else none
        blanking := if driven = true ∧ cfg.chopLevel ≠ 0 then some (now + 2048) else none
        chopArmed := false, asked := b'.asked, gates := b'.gates, offAt := b'.offAt }

/-- What a configured bridge makes of the command handed while `before` was held (R87, R88): nothing of an equal one, nor
while it is LATCHED; of another DRIVE while in DRIVE nothing until the next PWM period; any other it takes at once. -/
def commandTaken (cfg : BridgeConfig) (now : Nat) (before handed : Command) (b b' : Bridge) : Prop :=
  (handed = before ∨ b.state = .latched → b' = b)
  ∧ (handed ≠ before → b.state ≠ .latched →
    match handed with
    | .drive p => (b.state = .drive → b' = b) ∧ (b.state ≠ .drive → bridgeDrives cfg b b' p now)
    | .off | .brake | .coast => bridgeRests b b' (stateNamed handed) now)

/-- The configured bridges after the command held has become that of `u'` at `now` (R87, R88); bridge B under SINGLE
mode is given none (R85). -/
def bridgesTaken (now : Nat) (u u' : BridgeUnit) : Prop :=
  commandTaken u.cfg now u.held u'.held u.a u'.a
  ∧ (u.cfg.mode = .parallel → commandTaken u.cfg now u.held u'.held u.b u'.b)
  ∧ (u.cfg.mode = .single → u'.b = u.b)

/-- The chop flags at a regulation step (R91): the running flag becomes the flag of the period that ended, a LATCHED
bridge reporting a clear one. -/
def chopsTurned (u : BridgeUnit) : BridgeUnit :=
  { u with
    a := { u.a with chopFlag := u.a.chopRunning && decide (u.a.state ≠ .latched), chopRunning := false }
    b := { u.b with chopFlag := u.b.chopRunning && decide (u.b.state ≠ .latched), chopRunning := false } }

/-! ## Derivations of the traction state (R73 to R75) -/

/-- The traction state: the first of R73 that holds. -/
def stateOf (s : State) : TractionState :=
  if s.isRun = false then .quiet
  else if s.balance.run ≠ none then .balance
  else if s.bridges.allLatched = true then .faulted
  else if 4 ≤ s.supply.shed then .held
  else if s.traction.latch = true then .estop
  else if s.traction.pending = true then .reversing
  else if 0 < s.traction.c ∨ 0 < s.traction.lastM then .running
  else .stopped

/-- DRIVE at a duty under the limits of R76. -/
def driveOf (s : State) (duty : Nat) (direction : Direction) : Command :=
  .drive {
    duty := if 4 ≤ s.supply.shed ∨ s.traction.latch = true then 0 else min s.tractionSet.dutyCap duty
    direction := direction, freewheel := s.tractionSet.freewheel }

/-- The stop mode of the cached set as a command (R75). -/
def stopOf (s : State) : Command :=
  match s.tractionSet.stopMode with
  | .brake => .brake
  | .coast => .coast

/-- The command that goes with a traction state (R75; in BALANCE as R82 and R106 direct). -/
def commandOf (s : State) (x : TractionState) : Command :=
  match x with
  | .quiet => .off
  | .faulted | .held => .coast
  | .estop => .brake
  | .reversing | .running => driveOf s s.traction.u s.traction.direction
  | .stopped => stopOf s
  | .balance =>
    match s.balance.run with
    | none => stopOf s
    | some r =>
      if r.driving = true ∧ r.held = false then driveOf s (r.duties.getD (r.step - 1) 0) r.direction
      else stopOf s

/-- The clips of a change of traction state (R155): the start clip from STOPPED to RUNNING, the stop clip from RUNNING
or REVERSING to STOPPED, each of priority 1; nothing sounds at any other. -/
def clipsOfChange (s t : State) (before after : TractionState) : Prop :=
  (before = .stopped ∧ after = .running →
    clipPlays s t s.soundSet.startClip .start 1 .event false)
  ∧ ((before = .running ∨ before = .reversing) ∧ after = .stopped →
    clipPlays s t s.soundSet.stopClip .stop 1 .event false)
  ∧ (¬(before = .stopped ∧ after = .running) →
    ¬((before = .running ∨ before = .reversing) ∧ after = .stopped) → t = s)

/-- The station stop once the traction state has changed (R134): an entry to STOPPED begins the dwell of one in BRAKING,
0 s of dwell being taken as 1 s. -/
def stationThen (station : Station) (now : Nat) (before after : TractionState) : Station :=
  match station with
  | .braking f =>
    if after = .stopped ∧ before ≠ .stopped then .dwell f (now + 1024000 * (1000 * max 1 (param8 f.payload 5)))
    else .braking f
  | .dwell f ends => .dwell f ends
  | .none => .none

/-- The traction state has been derived afresh, with its command, which the bridges take, its clips and its report to the
station stop, and nothing else has happened (R73 to R75, R87, R134, R155). -/
def derivedAfresh (s t : State) : Prop :=
  t.traction.state = stateOf s
  ∧ t.bridges.held = commandOf s t.traction.state
  ∧ t.radio.station = stationThen s.radio.station s.clock s.traction.state t.traction.state
  ∧ (∃ v : State, clipsOfChange s v s.traction.state t.traction.state
    ∧ t.sound = v.sound ∧ t.xm = v.xm ∧ t.port = v.port ∧ t.status = v.status)
  ∧ bridgesTaken s.clock s.bridges t.bridges
  ∧ t = { s with
      xm := t.xm, port := t.port, status := t.status
      traction := { s.traction with
        state := t.traction.state, lowest := min s.traction.lowest t.bridges.drivenDuty }
      bridges := { s.bridges with held := t.bridges.held, a := t.bridges.a, b := t.bridges.b }
      radio := { s.radio with station := t.radio.station }
      sound := t.sound }

/-- A regulation step has ended (R60, R72, R75, R76), `u` being the state before its end but for what the step has made of
the motion unit and the traction controller: the traction state is derived afresh, and the duty then handed is the first
of the next period's applied duties. -/
def stepEnded (u t : State) : Prop :=
  ∃ z : State,
    derivedAfresh { u with
      motion := t.motion
      traction := { t.traction with state := u.traction.state, lowest := u.traction.lowest } } z
    ∧ t = { z with traction := { z.traction with lowest := t.bridges.drivenDuty } }

/-! ## How balance runs and station stops end (R77, R108, R134) -/

/-- The balance run `r` has ended with an outcome and the gain `g` (R107, R108): its slot is DONE with the step last
written, the rates of the steps completed, G, the duties, the hold time and the number of those steps; the lease is NONE
with throttle 0; ORDER and CONTROL are raised; with c, I and u at 0 the traction state is derived afresh (R82). -/
def runCloses (s t : State) (r : BalanceRun) (outcome : OutcomeCode) (g : Nat) : Prop :=
  ∃ u : State,
    slotDone u.xm r.slot outcome r.written
        ((List.range 4).flatMap (fun k => bytes16 (r.rates.getD k 0)) ++ bytes16 g
          ++ (List.range 4).flatMap (fun k => bytes16 (r.duties.getD k 0))
          ++ [BitVec.ofNat 8 r.holdTime, BitVec.ofNat 8 r.rates.length])
    ∧ sameBut s.xm u.xm (inSlot r.slot)
    ∧ u = { s with
        xm := u.xm, lastGranted := .orderEngine
        orders := { s.orders with held := s.orders.held.filter fun k => decide (k ≠ r.slot) }
        port := withNotice s.port [.order, .control]
        traction := { s.traction with c := 0, i := 0, u := 0 }
        balance := { run := none }
        radio := { s.radio with
          lease := .none, failsafe := false, request := { s.radio.request with throttle := 0 } } }
    ∧ derivedAfresh u t ∧ sameBut u.xm t.xm inSegments

/-- The balance run, where one exists, has ended without results (R108, R110). -/
def runClosed (s t : State) (outcome : OutcomeCode) : Prop :=
  (s.balance.run = none → t = s) ∧ ∀ r, s.balance.run = some r → runCloses s t r outcome 0

/-- A station stop, where one is begun, is over with a record STATION_CANCELLED (R128, R134). -/
def stationCancelled (s t : State) : Prop :=
  (s.radio.station = .none → t = s)
  ∧ ∀ g, (s.radio.station = .braking g ∨ ∃ ends, s.radio.station = .dwell g ends) →
    recordOffered s t .beacon .stationCancelled g [.beacon] ∧ recordOnly s t
    ∧ t = { s with
        xm := t.xm, lastGranted := .radioWriter, port := { s.port with notice := t.port.notice }
        radio := { s.radio with
          station := .none, logIndex := t.radio.logIndex, logSeq := t.radio.logSeq
          overflow := t.radio.overflow } }

/-- An emergency stop has been taken (R77): c, I, u and the previous duty 0 and the latch set, the traction state is
derived afresh; then the station stop ends, and then the balance run. -/
def emergencyStopped (s t : State) : Prop :=
  ∃ v w : State,
    derivedAfresh { s with traction := { s.traction with c := 0, i := 0, u := 0, prev := 0, latch := true } } v
    ∧ stationCancelled v w ∧ runClosed w t .aborted

/-- The slot of a balance run, where one exists, is one of the 32. -/
def runSlot (s : State) : Prop := ∀ r, s.balance.run = some r → r.slot < 32

/-- The bytes of memory that the end of a balance run may change (R108, R155): its slot, and segment bytes. -/
def inRunEnd (s : State) (a : Nat) : Prop := (∃ r, s.balance.run = some r ∧ inSlot r.slot a) ∨ inSegments a

/-! ## What the readers of the set cache make of a change (R45) -/

/-- An on-phase under a duty lowered to `cap` (R83, R88): it ends at the new end, or at once when that has passed; a
bridge without one, or whose on-phase ends no later, is as it was. -/
def phaseCapped (b b' : Bridge) (now cap : Nat) : Prop :=
  if b.state = .drive ∧ ∃ e, b.onEnd = some e ∧ b.periodStart + cap * 50 < e then
    if b.periodStart + cap * 50 ≤ now then
      gatesWithin b'.gates b'.asked
        ∧ b'.asked = (match b.params.freewheel with
          | .slow => { high1 := false, low1 := true, high2 := false, low2 := true }
          | .fast => { high1 := false, low1 := false, high2 := false, low2 := false })
        ∧ b' = { b with
            gates := b'.gates, asked := b'.asked, offAt := b'.offAt, phase := .offPhase, onEnd := none
            conduct := none, blanking := none, chopArmed := false }
    else
      b' = { b with onEnd := some (b.periodStart + cap * 50), params := { b.params with duty := cap } }
  else b' = b

/-- The traction controller and the bridges at a set change (R83; log 54): u above the new duty cap falls to it, and
with it, under DRIVE, the duty held and the on-phases that run. -/
def dutyCapped (s t : State) : Prop :=
  ∀ cap, cap = s.tractionSet.dutyCap →
    (s.traction.u ≤ cap → t = s)
    ∧ (cap < s.traction.u → (∀ p, s.bridges.held ≠ .drive p) →
      t = { s with traction := { s.traction with u := cap } })
    ∧ (cap < s.traction.u → ∀ p, s.bridges.held = .drive p →
      phaseCapped s.bridges.a t.bridges.a s.clock cap ∧ phaseCapped s.bridges.b t.bridges.b s.clock cap
      ∧ t = { s with
          traction := { s.traction with u := cap, lowest := min s.traction.lowest t.bridges.drivenDuty }
          bridges := { s.bridges with
            held := .drive { p with duty := min p.duty cap }, a := t.bridges.a, b := t.bridges.b } })

/-- The HOLD entries of a new set, numbered from `k` on, start their clips where their function bits are 1 (R156; the
order: log 45). -/
def holdsStart : Nat → List Trigger → State → State → Prop
  | _, [], s, t => t = s
  | k, e :: rest, s, t => ∃ u : State,
    (if e.hold = true ∧ s.radio.request.functions.getLsbD e.function = true then
      clipPlays s u e.clip .function 2 (.function k true) true
    else u = s)
    ∧ holdsStart (k + 1) rest u t

/-- The sound engine at a set change (the order: log 45): voice 0 starts with the new engine clip at the engine pitch
(R151, R152); voice 1 is stopped and the rotation begins again (R154); the voices that HOLD entries have started
fade, no entry's any more, and the HOLD entries of the new set start (R156). -/
def soundRetold (s t : State) : Prop :=
  ∃ v w : State,
    voiceGiven s v 0 s.soundSet.engineClip .engine (fun e =>
      freshVoice s.soundSet.engineClip e e.volume
        (max 0x40 (min 0x400 (s.soundSet.basePitch
          + (if s.motion.sensor = .ok then s.motion.m else s.traction.c) * s.soundSet.slope / 4096)))
        none 3 .engine (s.sound.startCount + 1))
    ∧ w = { v with
        xm := (v.stopVoice 1).xm, port := (v.stopVoice 1).port
        sound := { v.sound with
          voices := (v.sound.voices.set 1 { v.sound.voice 1 with state := .idle }).map fun x =>
            match x.starter with
            | .function _ true =>
              if x.state = .idle then x else { x with state := .fading, fadeStep := 16, starter := .event }
            | _ => x
          rotation := 0 } }
    ∧ holdsStart 0 s.soundSet.triggers w t

/-- The heater and the fan at a set change (R178, R180), on the last T: a stage that is enabled no longer is OFF; one
above the new dry limit is DRY, with a fault; PREHEAT and REGULATE work by the new setpoint, PREHEAT without a count;
a fan that served REGULATE purges, and one at rest serves it. -/
def heaterRetold (s t : State) : Prop :=
  ∀ h, h = s.lamps.heater → ∀ fan, fan = s.lamps.fan →
  ∀ enabled : Bool, enabled = (s.isRun && decide (s.lampSet.smokeFunction ≤ 31)
    && s.radio.request.functions.getLsbD s.lampSet.smokeFunction && decide (s.supply.shed = 0) && !h.latched) →
  ∀ point, point = min (if s.traction.c = 0 then s.lampSet.idleSetpoint else s.lampSet.workSetpoint)
    (s.lampSet.dryLimit - 16) →
  ∀ works : Bool, works = (decide (h.state = .preheat) || decide (h.state = .regulate)) →
  ∀ dries : Bool, dries = (works && enabled && decide (s.lampSet.dryLimit < h.lastT)) →
    t.lamps.heater = (if works = true ∧ enabled = false then { h with state := .off, output := false }
      else if dries = true then { h with dry := true, state := .dry, output := false }
      else match h.state with
        | .preheat =>
          if point ≤ h.lastT then { h with state := .regulate, output := false } else { h with output := true }
        | .regulate =>
          { h with output :=
              if h.lastT + 8 < point then true else if point < h.lastT then false else h.output }
        | .off | .dry => h)
    ∧ t.lamps.fan = (if h.state = .regulate ∧ t.lamps.heater.state ≠ .regulate
          ∧ (fan.state = .run ∨ fan.state = .puff) then
        (if s.lampSet.purgeTime = 0 then { fan with state := .off, puff := none }
        else { fan with
          state := .purge, puff := none, purge := some (s.clock + 1024000 * (1000 * s.lampSet.purgeTime)) })
      else if h.state ≠ .regulate ∧ t.lamps.heater.state = .regulate
          ∧ (fan.state = .off ∨ fan.state = .purge) then
        { fan with state := .run, purge := none, fast := decide (s.traction.c ≠ 0) }
      else fan)
    ∧ t = { s with
        port := withNotice s.port (if dries then [.fault] else [])
        status := { s.status with
          faultCount := if dries then s.status.faultCount + 1 else s.status.faultCount }
        lamps := { s.lamps with heater := t.lamps.heater, fan := t.lamps.fan } }

/-- The readers of the set cache at a change of it, one after the other (log 32): the traction controller, the sound
engine, the heater and the fan. -/
def cacheTold (s t : State) : Prop :=
  ∃ v w : State, dutyCapped s v ∧ soundRetold v w ∧ heaterRetold w t

/-- What a change of the set cache to `d` reaches (R45, R83): u falls to a lower duty cap and nothing else of the
traction controller changes but the duty kept for the applied duty; motion unit, balance run, lease, supply and the
rest of the radio command unit stay; memory changes in segment bytes alone, and where the reports of the actions
decided are written. Chain, cache and request state having changed, the readers of function bits that have changed
are told first (log 15), then the readers of the cache. -/
def setChangeFrame (s t : State) (d : DriveSet) (reports : Nat → Prop) : Prop :=
  t.traction = { s.traction with
    u := min s.traction.u d.traction.dutyCap, lowest := t.traction.lowest }
  ∧ sameBut s.xm t.xm (fun a => reports a ∨ inSegments a)
  ∧ t = { s with
      xm := t.xm
      lastGranted := t.lastGranted
      port := { s.port with notice := t.port.notice }
      orders := { s.orders with held := t.orders.held, sweep := t.orders.sweep }
      status := { s.status with faultCount := t.status.faultCount }
      sets := t.sets
      traction := t.traction
      bridges := { s.bridges with held := t.bridges.held, a := t.bridges.a, b := t.bridges.b }
      radio := { s.radio with
        request := t.radio.request, logIndex := t.radio.logIndex, logSeq := t.radio.logSeq
        overflow := t.radio.overflow }
      sound := t.sound
      lamps := { s.lamps with heater := t.lamps.heater, fan := t.lamps.fan } }
  ∧ ∃ v w : State,
    (∀ changed, changed = { s with
        sets := { t.sets with queue := s.sets.queue }
        radio := { s.radio with request := t.radio.request } } →
      (t.radio.request.functions = s.radio.request.functions → v = changed)
      ∧ (t.radio.request.functions ≠ s.radio.request.functions →
        functionsTold s.radio.request.functions changed v))
    ∧ cacheTold v w
    ∧ t.sound = w.sound ∧ t.lamps = w.lamps ∧ t.status = w.status ∧ t.traction = w.traction
    ∧ t.bridges = w.bridges ∧ sameBut w.xm t.xm reports
    ∧ ∀ k, w.port.notice.getLsbD k = true → t.port.notice.getLsbD k = true

/-! ## What the readers of the shed level make of a change (R191) -/

/-- The shed level of `s`, now in force, has replaced `before` (R80, R110, R169, R178, R181): at 4 or more a rise
clears u and the previous duty, a fall below 4 clears I, and the traction state is derived afresh; a rise to 4 or 5 then
ends a balance run ABORTED; a rise cuts the displayed brightness of each lamp to 64, or at 5 darkens it; the heater's
enable is formed again; the fan's output follows at once where level 2 is crossed; SUPPLY is raised. -/
def shedTold (s t : State) (before : Nat) : Prop :=
  ∃ d v : State, derivedAfresh { s with traction := { s.traction with
      u := if 4 ≤ s.supply.shed ∧ before < s.supply.shed then 0 else s.traction.u
      prev := if 4 ≤ s.supply.shed ∧ before < s.supply.shed then 0 else s.traction.prev
      i := if s.supply.shed < 4 ∧ 4 ≤ before then 0 else s.traction.i } } d
    ∧ (4 ≤ s.supply.shed ∧ before < s.supply.shed → runClosed d v .aborted)
    ∧ (¬(4 ≤ s.supply.shed ∧ before < s.supply.shed) → v = d)
    ∧ (∀ (k : Nat) (l : Lamp), s.lamps.lamps[k]? = some l → t.lamps.lamps[k]? = some
        (if before < s.supply.shed ∧ 5 ≤ s.supply.shed then { l with shown := 0, output := false, onTime := 0 }
        else if before < s.supply.shed ∧ 2 ≤ s.supply.shed then { l with shown := min 64 l.shown } else l))
    ∧ t.lamps.lamps.length = s.lamps.lamps.length
    ∧ (∃ w : State, heaterTold v w s.radio.request.functions ∧ t.lamps.heater = w.lamps.heater
      ∧ (decide (before < 2) = decide (s.supply.shed < 2) → t.lamps.fan = w.lamps.fan)
      ∧ (decide (before < 2) ≠ decide (s.supply.shed < 2) →
        t.lamps.fan = { w.lamps.fan with
          since := s.clock, leg := t.lamps.fan.leg
          drive := if s.isRun = false ∨ 2 ≤ s.supply.shed then 0 else match w.lamps.fan.state with
            | .off | .latched => 0
            | .run => if w.lamps.fan.fast then s.lampSet.fanRun else s.lampSet.fanIdle
            | .puff => s.lampSet.puffDuty
            | .purge => s.lampSet.fanIdle }
        ∧ (2 ≤ s.supply.shed → fanLawful s → t.lamps.fan.leg.high = false)))
    ∧ t = { v with
        port := withNotice v.port [.supply]
        lamps := { v.lamps with lamps := t.lamps.lamps, heater := t.lamps.heater, fan := t.lamps.fan } }

/-- What a supply sample or a die reading may reach at all: the supply monitor with its timers and the moment, the
readers of the shed level, and what the end of a balance run takes with it (R108). -/
def supplyFrame (s t : State) : Prop :=
  t = { s with
    clock := t.clock, xm := t.xm, lastGranted := t.lastGranted
    port := { s.port with notice := t.port.notice }
    orders := { s.orders with held := t.orders.held }
    status := { s.status with faultCount := t.status.faultCount }
    timers := { s.timers with supply := t.timers.supply, die := t.timers.die }
    traction := { s.traction with
      c := t.traction.c, i := t.traction.i, u := t.traction.u, prev := t.traction.prev
      state := t.traction.state, lowest := t.traction.lowest }
    bridges := { s.bridges with held := t.bridges.held, a := t.bridges.a, b := t.bridges.b }
    balance := t.balance
    radio := { s.radio with
      lease := t.radio.lease, failsafe := t.radio.failsafe, station := t.radio.station
      request := { s.radio.request with throttle := t.radio.request.throttle } }
    sound := t.sound
    lamps := { s.lamps with lamps := t.lamps.lamps, heater := t.lamps.heater, fan := t.lamps.fan }
    supply := t.supply }

/-! ## What the loads read (R5, R27 to R31, R46, R85, R113, R139, R161, R185) -/

/-- A 16-bit field, low byte at the lower address. -/
def wordAt (m : Memory) (a : Nat) : Nat := (m.read a).toNat + 256 * (m.read (a + 1)).toNat

/-- The motion configuration of the anchor block in `m` (R46). -/
def motionRead (m : Memory) (c : MotionConfig) : Prop :=
  c.edge = (if m.read 0x0A = 1 then .fall else if m.read 0x0A = 2 then .both else .rise)
  ∧ c.magnets = min 8 (m.read 0x0B).toNat
  ∧ c.window = (if wordAt m 0x0C = 0 then 500 else max 100 (min 2000 (wordAt m 0x0C)))

/-- The bridge configuration of the anchor block (R85). -/
def bridgeRead (m : Memory) (c : BridgeConfig) : Prop :=
  c.mode = (if m.read 0x0E = 1 then .single else .parallel)
  ∧ c.gain = (if m.read 0x0F = 1 then 20 else if m.read 0x0F = 2 then 40 else if m.read 0x0F = 3 then 80 else 10)
  ∧ c.chopLevel = min 4095 (wordAt m 0x10)
  ∧ c.shortLevel = (if wordAt m 0x12 = 0 then 4095 else min 4095 (wordAt m 0x12))
  ∧ c.deglitch = (if m.read 0x14 = 1 then 2 else if m.read 0x14 = 2 then 4 else if m.read 0x14 = 3 then 8 else 1)
  ∧ c.shortMode = (if m.read 0x15 = 1 then .cycle else if m.read 0x15 = 2 then .report
      else if m.read 0x15 = 3 then .ignore else .latch)
  ∧ c.independence = (if m.read 0x16 = 0 then .ind else .gang)

/-- A supply threshold: 0 is its default, above 32,000 is 32,000 (R185). -/
def thresholdRead (m : Memory) (a default : Nat) : Nat :=
  if wordAt m a = 0 then default else min 32000 (wordAt m a)

/-- The supply configuration of the anchor block (R185). -/
def supplyRead (m : Memory) (c : SupplyConfig) : Prop :=
  c.lost = thresholdRead m 0x18 7000 ∧ c.weak = thresholdRead m 0x1A 11000
  ∧ c.s1 = thresholdRead m 0x1C 14000 ∧ c.s2 = thresholdRead m 0x1E 12000
  ∧ c.s3 = thresholdRead m 0x20 10000 ∧ c.s4 = thresholdRead m 0x22 8000
  ∧ c.rideLimit = (if wordAt m 0x24 = 0 then 3000 else max 500 (min 10000 (wordAt m 0x24)))

/-- The radio configuration and the consist state of the radio block (R113). -/
def radioRead (m : Memory) (c : RadioConfig) (k : Consist) : Prop :=
  c.own = (if wordAt m 0x1380 ≤ 9999 then wordAt m 0x1380 else 0)
  ∧ k.number = (if (m.read 0x1382).toNat ≤ 127 then (m.read 0x1382).toNat else 0)
  ∧ k.role = (if m.read 0x1383 = 1 then .mid else if m.read 0x1383 = 2 then .trail else .lead)
  ∧ k.reversed = decide (m.read 0x1384 = 1)
  ∧ c.failsafeMs = (if wordAt m 0x1386 = 0 then 2000 else max 100 (min 10000 (wordAt m 0x1386)))
  ∧ c.leaseMs = max c.failsafeMs
      ((if m.read 0x1388 = 0 then 10 else min 60 (m.read 0x1388).toNat) * 1000)
  ∧ c.windowStart = wordAt m 0x138A ∧ c.windowEnd = wordAt m 0x138C

/-- The copy of lamp `n`'s entry, with its clamps, and whether one changed a value (R161). -/
def lampRead (m : Memory) (n : Nat) (c : LampCopy) (clamped : Bool) : Prop :=
  ∀ b, b = 0x1200 + 32 * n → ∀ f : Nat → Nat, (∀ k, f k = (m.read (b + k)).toNat) →
    c.enabled = decide (f 0 = 1) ∧ c.side = (if f 1 = 1 then .high else .low) ∧ c.function = min 31 (f 2)
    ∧ c.direction = (if f 3 = 1 then .fwd else if f 3 = 2 then .rev else .any)
    ∧ c.consist = (if f 4 = 1 then .leadOnly else .any)
    ∧ c.effect = (if f 5 = 1 then .flicker else if f 5 = 2 then .strobe else if f 5 = 3 then .rotary
        else if f 5 = 4 then .ditch else if f 5 = 5 then .firebox else .steady)
    ∧ c.level = f 6 ∧ c.rate = max 1 (f 7) ∧ c.partner = (if f 8 ≤ 9 then f 8 else n) ∧ c.fadeStep = f 9
    ∧ c.openThreshold = min 1023 (wordAt m (b + 10)) ∧ c.openEnable = decide (f 12 ≠ 0)
    ∧ c.overMode = (if f 13 = 1 then .retry else if f 13 = 2 then .report else if f 13 = 3 then .ignore
        else .latch)
    ∧ c.openMode = (if f 14 = 1 then .report else if f 14 = 2 then .ignore else .latch)
    ∧ (clamped = true ↔ 1 < f 0 ∨ 1 < f 1 ∨ 31 < f 2 ∨ 2 < f 3 ∨ 1 < f 4 ∨ 5 < f 5 ∨ f 7 = 0 ∨ 9 < f 8
        ∨ 1023 < wordAt m (b + 10) ∨ 1 < f 12 ∨ 3 < f 13 ∨ 2 < f 14)

/-- The drive set of the record at `b`, with the clamps of R27 to R30, and whether one changed a value (R31). -/
def driveSetRead (m : Memory) (b : Nat) (d : DriveSet) (clamped : Bool) : Prop :=
  ∀ f : Nat → Nat, (∀ k, f k = (m.read (b + k)).toNat) → ∀ g : Nat → Nat, (∀ k, g k = wordAt m (b + k)) →
  ∀ chuffs, chuffs = max 1 (min 4 (f 0x23)) → ∀ triggers, triggers = min 8 (f 0x3C) →
    d.valid = decide (f 0 = 0x5A) ∧ d.authority = min 2 (f 1)
    ∧ d.traction = {
        curve := [g 0x02, g 0x04, g 0x06, g 0x08, g 0x0A, g 0x0C, g 0x0E, g 0x10]
        maxRate := g 0x12, accel := g 0x14, decel := g 0x16, kp := f 0x18, ki := f 0x19
        dutyCap := min 1023 (g 0x1A), gain := g 0x1C
        stopMode := if f 0x1E = 1 then .coast else .brake
        freewheel := if f 0x1F = 1 then .fast else .slow
        lock := if f 0x20 = 1 then .forwardOnly else if f 0x20 = 2 then .reverseOnly else .both
        entryThrottle := if f 0x21 = 255 then none else some (f 0x21) }
    ∧ d.sound = {
        engineClip := f 0x22, basePitch := g 0x24, slope := min 4095 (g 0x26)
        chuffClips := (List.range chuffs).map fun k => f (0x28 + k)
        chuffPoints := (List.range (min 8 (f 0x2C))).map fun k => f (0x2D + k)
        workVolume := f 0x35, driftVolume := f 0x36, driftDuty := min 1023 (g 0x38)
        startClip := f 0x37, stopClip := f 0x3A, hornClip := f 0x3B
        triggers := (List.range triggers).map fun k =>
          { function := f (0x3D + 3 * k), clip := f (0x3E + 3 * k), hold := decide (f (0x3F + 3 * k) = 1) } }
    ∧ d.lamp = {
        mask := BitVec.ofNat 10 (g 0x56), scale := f 0x58, smokeFunction := f 0x59
        idleSetpoint := min 1023 (g 0x5A), workSetpoint := min 1023 (g 0x5C), dryLimit := min 1023 (g 0x5E)
        fanIdle := min 1023 (g 0x60), fanRun := min 1023 (g 0x62), puffDuty := min 1023 (g 0x64)
        puffWidth := max 10 (min 200 (f 0x66)), purgeTime := min 30 (f 0x67) }
    ∧ (clamped = true ↔ 2 < f 1 ∨ 1023 < g 0x1A ∨ 1 < f 0x1E ∨ 1 < f 0x1F ∨ 2 < f 0x20 ∨ f 0x23 ≠ chuffs
        ∨ 4095 < g 0x26 ∨ 8 < f 0x2C ∨ 1023 < g 0x38 ∨ f 0x3C ≠ triggers
        ∨ (∃ k, k < triggers ∧ 1 < f (0x3F + 3 * k))
        ∨ 1023 < g 0x5A ∨ 1023 < g 0x5C ∨ 1023 < g 0x5E ∨ 1023 < g 0x60 ∨ 1023 < g 0x62 ∨ 1023 < g 0x64
        ∨ f 0x66 < 10 ∨ 200 < f 0x66 ∨ 30 < f 0x67)

/-- The directory entry of clip `x` (R138), and whether it is valid (R139). -/
def clipRead (m : Memory) (x : Nat) (e : ClipEntry) (valid : Bool) : Prop :=
  ∀ b, b = 0x1400 + 16 * x → ∀ size, size = (if e.format = 2 then 2 else 1) →
    e = {
      format := (m.read b).toNat, kind := (m.read (b + 1)).toNat, start := wordAt m (b + 2)
      length := wordAt m (b + 4), loopStart := wordAt m (b + 6), loopLength := wordAt m (b + 8)
      basePitch := wordAt m (b + 10), volume := (m.read (b + 12)).toNat }
    ∧ (valid = true ↔ (e.format = 1 ∨ e.format = 2) ∧ 0 < e.length ∧ e.length % size = 0
        ∧ 0x2000 ≤ e.start ∧ e.start + e.length ≤ 0x10000 ∧ e.kind ≤ 2
        ∧ (e.kind = 1 → 0 < e.loopLength ∧ e.loopStart + e.loopLength ≤ e.length
          ∧ e.loopStart % size = 0 ∧ e.loopLength % size = 0)
        ∧ (e.kind = 2 → e.length % 4 = 0))

/-! ## The frame format (R117) -/

/-- One bit into the check value of polynomial 1021H. -/
def checkBit (r : BitVec 16) (bit : Bool) : BitVec 16 :=
  if bit = r.getLsbD 15 then r <<< 1 else (r <<< 1) ^^^ 0x1021

/-- The bits of a byte, most significant first. -/
def bitsOf (x : Byte) : List Bool := [7, 6, 5, 4, 3, 2, 1, 0].map x.getLsbD

/-- The check value over some bytes, from FFFFH on. -/
def checkValue (bytes : List Byte) : BitVec 16 := (bytes.flatMap bitsOf).foldl checkBit 0xFFFF

/-- The fields of the bytes of a frame after LEN, SENDER to CRC, each number low byte first, and the check value it
carries. -/
def frameRead (bytes : List Byte) (f : Frame) (carried : Nat) : Prop :=
  ∀ x : Nat → Nat, (∀ k, x k = (bytes.getD k 0).toNat) →
    f = {
      sender := x 0 + 256 * x 1, cls := x 2, target := x 3 + 256 * x 4, seq := x 5, kind := x 6
      payload := (bytes.drop 7).take (bytes.length - 9) }
    ∧ (2 ≤ bytes.length → carried = x (bytes.length - 2) + 256 * x (bytes.length - 1))

/-! ## How bridges enter and leave LATCHED (R94, R97, R99) -/

/-- A bridge enters LATCHED at `now` (R94): all gates off, the short-run count 0, a clear chop flag reported. -/
def bridgeLatches (b b' : Bridge) (now : Nat) : Prop := bridgeRests { b with chopFlag := false } b' .latched now

/-- Bridge `id` latches, with a short recorded (R93, R94): under GANG the other bridge, if configured and not LATCHED,
latches with it; the entry is reported to the traction controller, which with every configured bridge LATCHED has c, I, u
and the previous duty at 0 and derives its state afresh (R81, R97); a balance run then ends FAILED_FAULT (R110). -/
def bridgeShorted (s t : State) (id : BridgeId) : Prop :=
  ∃ u v : State,
    bridgeLatches { s.bridges.get id with episodes := (s.bridges.get id).episodes + 1 } (u.bridges.get id) s.clock
    ∧ (s.bridges.cfg.independence = .gang ∧ (BridgeId.other id = .a ∨ s.bridges.cfg.mode = .parallel)
          ∧ (s.bridges.get (BridgeId.other id)).state ≠ .latched →
        bridgeLatches (s.bridges.get (BridgeId.other id)) (u.bridges.get (BridgeId.other id)) s.clock)
    ∧ (¬(s.bridges.cfg.independence = .gang ∧ (BridgeId.other id = .a ∨ s.bridges.cfg.mode = .parallel)
          ∧ (s.bridges.get (BridgeId.other id)).state ≠ .latched) →
        u.bridges.get (BridgeId.other id) = s.bridges.get (BridgeId.other id))
    ∧ u = { s with
        port := withNotice s.port [.fault]
        status := { s.status with faultCount := s.status.faultCount + 1 }
        bridges := { s.bridges with a := u.bridges.a, b := u.bridges.b }
        traction := if u.bridges.allLatched = true then { s.traction with c := 0, i := 0, u := 0, prev := 0 }
          else s.traction }
    ∧ derivedAfresh u v ∧ runClosed v t .failedFault

/-- A bridge is cleared (R99). LATCHED, it leaves LATCHED for the command held, for BRAKE, COAST and OFF at once and for
DRIVE from the next PWM period on; the departure is reported, the traction state derived afresh (R97), and each
configured bridge takes the command so handed. Not LATCHED, its short-run count is set to 0 and nothing else changes. -/
def bridgeCleared (s t : State) (id : BridgeId) : Prop :=
  ((s.bridges.get id).state ≠ .latched →
    t = { s with bridges := s.bridges.set id { s.bridges.get id with shortRun := 0 } })
  ∧ ((s.bridges.get id).state = .latched → ∃ u : State,
    bridgeRests (s.bridges.get id) (u.bridges.get id) (stateNamed s.bridges.held) s.clock
    ∧ u = { s with bridges := s.bridges.set id (u.bridges.get id) }
    ∧ derivedAfresh u t)

/-! ## What a voice contributes (R145, R149) -/

/-- The sample at the voice's position, scaled by its volume and envelope; 0 for a voice that does not sound. -/
def voicePart (m : Memory) (v : Voice) : Int :=
  match v.state with
  | .playing | .fading =>
    ((if v.entry.format = 2 then
        (BitVec.ofNat 16 ((m.read (v.entry.start + v.position / 256 / 2 * 2)).toNat
          + 256 * (m.read (v.entry.start + v.position / 256 / 2 * 2 + 1)).toNat)).toInt
      else (m.read (v.entry.start + v.position / 256)).toInt * 256) * v.volume * v.envelope).tdiv 65536
  | .idle | .starved => 0

/-! ## What the voices do in their turns (R145 to R148, R157 to R159; the order: log 46) -/

/-- The voices listed act one after the other. -/
def voicesInTurn (act : State → State → Nat → Prop) : List Nat → State → State → Prop
  | [], s, t => t = s
  | k :: rest, s, t => ∃ u : State, act s u k ∧ voicesInTurn act rest u t

/-- Voice `k` is now `v`. -/
def voiceIs (s : State) (k : Nat) (v : Voice) : State :=
  { s with sound := { s.sound with voices := s.sound.voices.set k v } }

/-- The position one sample on (R145). -/
def positionNext (v : Voice) : Nat := v.position + v.step * (if v.entry.format = 2 then 2 else 1)

/-- A sounding voice one sample on, where it reaches no boundary of a stream: a ONE_SHOT at its end repeats or is IDLE
(R146); a LOOP at its region's end wraps, or plays its last pass on to the clip's end, where it is IDLE (R147). -/
def movedOn (v : Voice) : Voice :=
  let p := positionNext v
  let ends := v.entry.length * 256
  let region := (v.entry.loopStart + v.entry.loopLength) * 256
  let wrapped := v.entry.loopStart * 256 + (p - region) % (v.entry.loopLength * 256)
  if v.entry.kind = 0 then
    if p < ends then { v with position := p }
    else match v.repeats with
      | none => { v with position := (p - ends) % ends }
      | some 0 => { v with position := p, state := .idle }
      | some (n + 1) => { v with repeats := some n, position := (p - ends) % ends }
  else if v.entry.kind = 1 then
    if p < region then { v with position := p }
    else match v.repeats with
      | none => { v with position := wrapped }
      | some (n + 2) => { v with repeats := some (n + 1), position := wrapped }
      | some _ =>
        if p < ends then { v with position := p, repeats := some 0 }
        else { v with position := p, repeats := some 0, state := .idle }
  else { v with position := p }

/-- The segment byte of a stream clip (11.6). -/
def segmentByte (clip : Nat) (second : Bool) : Nat := 0x1400 + 16 * clip + (if second then 15 else 14)

/-- A STREAM voice has passed a boundary of its clip (R157): the bytes of segments A and B are now `a` and `b`, STREAM is
raised, the voice is now `v`, and nothing else has changed. -/
def streamPassed (s t : State) (k : Nat) (a b : Byte) (v : Voice) : Prop :=
  t.xm.read (segmentByte v.clip false) = a ∧ t.xm.read (segmentByte v.clip true) = b
    ∧ sameBut s.xm t.xm (fun x => x = segmentByte v.clip false ∨ x = segmentByte v.clip true)
    ∧ t = { voiceIs s k v with xm := t.xm, port := withNotice s.port [.stream] }

/-- What becomes of a voice at a boundary that it cannot pass: STARVED there, or IDLE when it was FADING (R157, R158). -/
def stuckAt (v : Voice) (boundary : Nat) : Voice :=
  if v.state = .fading then { v with position := positionNext v, state := .idle }
  else { v with position := boundary, state := .starved }

/-- Voice `k` has moved on by one sample. A STREAM voice that reaches segment B empties A and takes B, is IDLE after
FULL_LAST, or stuck there; one that reaches the clip's end does the same with B and A, with the excess over the end as
its position. A segment is taken where its byte, 1 FULL or 2 FULL_LAST, becomes 3 PLAYING; any other byte stays (log
55 for those above 3). -/
def voiceMoved (s t : State) (k : Nat) : Prop :=
  ∀ v, v = s.sound.voice k → ∀ p, p = positionNext v →
  ∀ half, half = v.entry.length / 2 * 256 → ∀ ends, ends = v.entry.length * 256 →
  ∀ first, first = s.xm.read (segmentByte v.clip false) →
  ∀ second, second = s.xm.read (segmentByte v.clip true) →
    (v.sounds = false → t = s)
    ∧ (v.sounds = true → v.entry.kind ≠ 2 ∨ p < half ∨ (half ≤ v.position ∧ p < ends) →
      t = voiceIs s k (movedOn v))
    ∧ (v.sounds = true → v.entry.kind = 2 → v.position < half → half ≤ p →
      (v.lastSegment = true → streamPassed s t k 0 second { v with position := p, state := .idle })
      ∧ (v.lastSegment = false →
        (second = 1 ∨ second = 2 → p < ends →
          streamPassed s t k 0 3 { v with position := p, lastSegment := decide (second = 2) })
        ∧ (second = 2 → ends ≤ p →
          streamPassed s t k 0 0 { v with position := p, lastSegment := true, state := .idle })
        ∧ (second = 1 → ends ≤ p → streamPassed s t k 0 0 (stuckAt v ends))
        ∧ (second ≠ 1 → second ≠ 2 → streamPassed s t k 0 second (stuckAt v half))))
    ∧ (v.sounds = true → v.entry.kind = 2 → half ≤ v.position → ends ≤ p →
      (v.lastSegment = true → streamPassed s t k first 0 { v with position := p, state := .idle })
      ∧ (v.lastSegment = false →
        (first = 1 ∨ first = 2 →
          streamPassed s t k 3 0 { v with position := (p - ends) % half, lastSegment := decide (first = 2) })
        ∧ (first ≠ 1 → first ≠ 2 → streamPassed s t k first 0 (stuckAt v ends))))

/-- Voice `k` at a frame boundary, the voices not being frozen (R148): FADING, its envelope falls by the fade step, or the
voice is IDLE, and a STREAM voice so ended empties the segment it held PLAYING and raises STREAM (R159). -/
def voiceFaded (s t : State) (k : Nat) : Prop :=
  ∀ v, v = s.sound.voice k → ∀ ended : Voice, ended = { v with envelope := 0, state := .idle } →
    (v.state ≠ .fading → t = s)
    ∧ (v.state = .fading → v.fadeStep < v.envelope →
      t = voiceIs s k { v with envelope := v.envelope - v.fadeStep })
    ∧ (v.state = .fading → v.envelope ≤ v.fadeStep → v.entry.kind ≠ 2 → t = voiceIs s k ended)
    ∧ (v.state = .fading → v.envelope ≤ v.fadeStep → v.entry.kind = 2 →
      ∀ a, a = segmentByte v.clip (decide (v.entry.length / 2 * 256 ≤ v.position)) →
      t.xm.read a = 0 ∧ sameBut s.xm t.xm (fun x => x = a)
        ∧ t = { voiceIs s k ended with xm := t.xm, port := withNotice s.port [.stream] })

/-- Voice `k` looks for its segment at a frame boundary, the voices not being frozen (R158): STARVED, it takes the segment
it waits for, when that reads FULL or FULL_LAST, and plays on from the boundary; else nothing changes. -/
def voiceRetried (s t : State) (k : Nat) : Prop :=
  ∀ v, v = s.sound.voice k → ∀ second : Bool, second = decide (v.position < v.entry.length * 256) →
  ∀ a, a = segmentByte v.clip second →
    (v.state ≠ .starved ∨ (s.xm.read a ≠ 1 ∧ s.xm.read a ≠ 2) → t = s)
    ∧ (v.state = .starved → s.xm.read a = 1 ∨ s.xm.read a = 2 →
      t.xm.read a = 3 ∧ sameBut s.xm t.xm (fun x => x = a)
        ∧ t = { voiceIs s k { v with
            state := .playing, lastSegment := decide (s.xm.read a = 2)
            position := if second then v.entry.length / 2 * 256 else 0 } with xm := t.xm })

/-! ## How voices stop (R144, R159, R160) -/

/-- The segment byte `a` is that of the segment that a voice holds PLAYING, the voice sounding a STREAM clip (R159). -/
def holdsSegment (a : Nat) (v : Voice) : Bool :=
  v.sounds && decide (v.entry.kind = 2)
    && decide (a = segmentByte v.clip (decide (v.entry.length / 2 * 256 ≤ v.position)))

/-- The voices listed have stopped, giving back the segments they held PLAYING (R159): those bytes are EMPTY, and every
other byte outside `p` is as it was. -/
def segmentsReleased (stopped : List Voice) (before after : Memory) (p : Nat → Prop) : Prop :=
  ∀ a, a < 65536 → ¬p a → after.read a = if stopped.any (holdsSegment a) then 0 else before.read a

/-- STREAM, where one of the voices listed, all of which have stopped, gave back a segment (R159). -/
def releaseNotice (stopped : List Voice) : List NoticeBit :=
  if stopped.any (fun v => v.sounds && decide (v.entry.kind = 2)) then [.stream] else []

/-- Every voice has stopped, and the rotation begins again (R160). -/
def voicesStopped (s t : State) : Prop :=
  segmentsReleased s.sound.voices s.xm t.xm (fun _ => False)
  ∧ t = { s with
      xm := t.xm, port := withNotice s.port (releaseNotice s.sound.voices)
      sound := { s.sound with
        voices := s.sound.voices.map fun v => { v with state := .idle }, rotation := 0 } }

/-! ## The entry to RUN and the teardown (R9, R10, R12, R35, R84, R151, R160, R181) -/

/-- The zone record is emptied (R133), its cap being free then (log 8). -/
def zoneEmptied (s t : State) : Prop :=
  t.radio.zone.present = false ∧ (s.radio.zone.present = false → t.radio.zone = s.radio.zone ∧ t.free = s.free)

/-- The part enters RUN with the base set `d` of index `base` (R10): the set alone in the chain and cached; requests,
lease, repeat table, zone record, station stop and receiver at their starting values; the traction controller at rest,
STOPPED, with the base set's stop mode handed (R84); every voice IDLE but voice 0, which starts on the set's engine clip
at the engine pitch (R151, R160); CONTROL is raised. -/
def runEntered (s t : State) (base : Nat) (d : DriveSet) (clamped : Bool) : Prop :=
  ∃ u v w : State,
    bridgesTaken s.clock s.bridges u.bridges ∧ zoneEmptied s u
    ∧ u = { s with
        free := u.free
        port := { s.port with run := .run, start := none, startFault := .ok }
        sets := { s.sets with
          chain := [{ index := base, resume := none }], cache := some d, clamped := clamped }
        traction := { s.traction with
          t := 0, c := 0, i := 0, u := 0, prev := 0, zeroHold := 0, latch := false, pending := false
          state := .stopped, lowest := min s.traction.lowest u.bridges.drivenDuty }
        bridges := { s.bridges with
          held := (match d.traction.stopMode with | .brake => .brake | .coast => .coast)
          a := u.bridges.a, b := u.bridges.b }
        radio := { s.radio with
          request := { throttle := 0, direction := s.traction.direction, functions := 0 }
          lease := .none, failsafe := false, repeats := [], zone := u.radio.zone
          passage := { zone := 0, horn := false, station := false }, station := .none
          receiver := .hunt, gap := none } }
    ∧ voicesStopped u v
    ∧ voiceGiven v w 0 d.sound.engineClip .engine (fun e =>
        freshVoice d.sound.engineClip e e.volume
          (max 0x40 (min 0x400 (d.sound.basePitch
            + (if s.motion.sensor = .ok then s.motion.m else 0) * d.sound.slope / 4096)))
          none 3 .engine (s.sound.startCount + 1))
    ∧ t = { w with port := withNotice w.port [.control] }

/-- A teardown, taken whole (R12): the traction controller at rest, QUIET, the bridges OFF by way of COAST, those LATCHED
leaving it (R84, R100); a balance run ends ABORTED (R110); every voice stops (R160); lamps and heater off, the fan
OFF or still latched (R169, R181); of frames and a service write nothing more comes, requester side and zone record at
their starting values (R9, R116; log 13); chain and cache empty; CONTROL raised. -/
def tornDown (s t : State) : Prop :=
  ∃ u v w : State,
    bridgeRests s.bridges.a u.bridges.a .off s.clock
    ∧ (s.bridges.cfg.mode = .parallel → bridgeRests s.bridges.b u.bridges.b .off s.clock)
    ∧ (s.bridges.cfg.mode = .single → s.bridges.b.state ≠ .latched →
      u.bridges.b = { s.bridges.b with shortRun := 0 })
    ∧ u = { s with
        port := { s.port with run := .quiet, teardownPending := false }
        traction := { s.traction with
          t := 0, c := 0, i := 0, u := 0, prev := 0, zeroHold := 0, latch := false, pending := false
          state := .quiet, lowest := 0 }
        bridges := { s.bridges with held := .off, a := u.bridges.a, b := u.bridges.b } }
    ∧ runClosed u v .aborted ∧ voicesStopped v w ∧ zoneEmptied s t
    ∧ (fanLawful s → t.lamps.fan.leg.high = false)
    ∧ t = { w with
        free := t.free, port := withNotice w.port [.control]
        sets := { s.sets with chain := [], cache := none, clamped := false }
        lamps := { s.lamps with
          lamps := s.lamps.lamps.map fun l => { l with
            shown := 0, output := false, onTime := 0, retry := none, openTimer := none, overEpisode := false
            openEpisode := false }
          heater := { s.lamps.heater with
            state := if s.lamps.heater.state = .dry then .dry else .off, output := false }
          fan := { s.lamps.fan with
            state := if s.lamps.fan.state = .latched then .latched else .off, puff := none, purge := none
            drive := 0, since := s.clock, leg := t.lamps.fan.leg } }
        radio := { w.radio with
          lease := .none, failsafe := false, zone := t.radio.zone
          passage := { zone := 0, horn := false, station := false }, station := .none
          receiver := .hunt, gap := none, waiting := [], handling := none, service := none } }

end Sys2Proof.Safety
end

