-- ==== Sys2Proof/WellFormed.lean ====
section
/-! DEFINITION. Which commands are well formed: the operands that their types do not already bound. -/

namespace Sys2Proof

/-- A command byte that opens no transaction kind of R1. -/
def invalidCommandByte (b : Byte) : Bool :=
  b != 0x01 && b != 0x02 && b != 0x03 && b != 0x04

/-- A register number whose write has no effect (R3): ID, or above 4. -/
def otherRegister (n : Byte) : Bool :=
  n == 0 || 4 < n.toNat

/-- R184: a die temperature is read as a whole number from −40 to 200. -/
def dieReading (t : Int) : Bool :=
  decide (-40 ≤ t ∧ t ≤ 200)

/-- The checks on operands that no type makes. -/
def Instr.wellFormed : Instr → Bool
  | .invalidCommand c _ => invalidCommandByte c
  | .registerWriteOther n _ => otherRegister n
  | .dieTemperatureExpiry t => dieReading t
  | .writeMemory .. | .readMemory .. | .start | .startEnd | .startRefused | .teardown
  | .softReset | .powerReset | .brownoutReset | .resetRewritesEnd | .sweepWrite ..
  | .sweepTimerExpiry | .sweepEnd | .slotTake | .noticeWrite .. | .noticeMaskWrite ..
  | .statusTimerExpiry | .statusUpdateEnd | .throttleOrder | .functions | .stopOrder
  | .setAction | .invoke | .switch | .returnSet | .refreshSet | .loadLamps | .loadRadio | .play
  | .hush | .balance | .holdBalance | .resumeBalance | .clearFaults | .leaseTake
  | .leaseRelease | .axleEdge .. | .stallTimerExpiry | .regulationStep
  | .balanceHeldTimerExpiry | .pwmPeriod | .onPhaseEnd .. | .deadTimeExpiry ..
  | .blankingEnd .. | .chop .. | .shortDetection .. | .throttleFrame | .funcFrame | .stopFrame
  | .setFrame | .beaconFrame | .consistJoin | .consistLeave | .releaseFrame | .serviceWrite
  | .serviceWriteDone | .passFrame | .gapTimerExpiry | .repeatWindowExpiry .. | .failsafeExpiry
  | .lapseExpiry | .dwellTimerExpiry | .sampleTimerExpiry | .mixerFrame | .effectTimerExpiry
  | .lampPwmPeriod .. | .lampOvercurrent .. | .lampRetryExpiry .. | .openLoadExpiry ..
  | .heaterTimerExpiry .. | .puffTimerExpiry | .purgeTimerExpiry | .fanOvercurrent ..
  | .supplySample .. | .rxdByte .. | .lampOnTimeEnd .. | .fanPwmPeriod => true

end Sys2Proof
end

