-- ==== Sys2Proof/Certificates/Slice0/Obligations.lean ====
section
/-! DEFINITION. The statements for the provers, in the order of the chapters of the manual: what each command
does and leaves alone, and the laws that every step keeps. -/

open Sys2Proof Sys2Proof.Machine Sys2Proof.Safety

/-! ## Steps -/

/-- A step with a command at the front of the queue is that command's meaning on the queue's rest. The model's choices:
log 5 (one command, one step). -/
def Obligations.StepRunsTheFrontCommand : Prop :=
  ∀ (c : Instr) (rest : List Instr) (s : State), s.pending = c :: rest →
    step s = exec c { s with pending := rest }

/-- Log 2 (the model's choice): with no command waiting, and neither a start nor a reset in progress, a step moves the
clock on by one unit and grants word accesses of a sweep, of a set load (a REFRESH_SET order in hand may begin its
own), of a LOAD_LAMPS or LOAD_RADIO order, of a status update or of a service write, and reaches nothing else: of
memory only the status record and the bytes of the service write. The model's choices: log 2 (what an idle step
grants); log 21 (where commands leave the rotation); log 35 (an empty queue idles). -/
def Obligations.IdleStepOnlyGrantsAccesses : Prop :=
  ∀ s : State, s.xm.wf = true → s.pending = [] → s.port.start = none → s.port.reset = none →
    ∃ t, step s = .next t
      ∧ sameBut s.xm t.xm (fun a =>
          (0x100 ≤ a ∧ a < 0x200) ∨ ∃ cells, s.radio.service = some cells ∧ ∃ c ∈ cells, c.1 % 65536 = a)
      ∧ t = { s with
          clock := s.clock + 1
          free := s.free + 1
          xm := t.xm
          lastGranted := t.lastGranted
          orders := { s.orders with sweep := t.orders.sweep }
          status := { s.status with
            generation := t.status.generation, updating := t.status.updating
            deferred := t.status.deferred }
          sets := { s.sets with queue := t.sets.queue }
          radio := { s.radio with service := t.radio.service } }

/-! ## The host port (chapter 1) -/

/-- R2: every data byte of WRITE_MEMORY lands at its address, addresses wrapping and a later byte winning; every other
byte, and every block but the port, stays as it was. The first MISO byte is 00H. The rotation of R6 stands at the
host port after it, where it made an access. The model's choices: log 5 (one command, one step); log 6 (free MISO
bytes); log 21 (where commands leave the rotation). -/
def Obligations.WriteMemoryStoresItsBytes : Prop :=
  ∀ (addr : BitVec 16) (data : List Byte) (s : State), s.xm.wf = true →
    ∃ t, exec (.writeMemory addr data) s = .next t
      ∧ (∀ k (hk : k < data.length),
          (∀ j, k < j → j < data.length → (addr.toNat + j) % 65536 ≠ (addr.toNat + k) % 65536) →
          t.xm.read (addr.toNat + k) = data[k])
      ∧ (∀ a, (∀ k, k < data.length → (addr.toNat + k) % 65536 ≠ a % 65536) → t.xm.read a = s.xm.read a)
      ∧ t.port.miso.length = data.length + 3 ∧ t.port.miso[0]? = some 0
      ∧ t = { s with
          xm := t.xm, free := t.free
          lastGranted := if data = [] then s.lastGranted else .hostPort
          port := { s.port with miso := t.port.miso } }

/-- R2: READ_MEMORY answers 00H for the command byte, two bytes, 00H for the turnaround byte, and then the bytes at
successive addresses; nothing else changes but the place of the rotation of R6, where it made an access. The model's
choices: log 5 (one command, one step); log 6 (free MISO bytes); log 21 (where commands leave the rotation). -/
def Obligations.ReadMemoryAnswersTheBytes : Prop :=
  ∀ (addr : BitVec 16) (count : Nat) (s : State),
    ∃ t, exec (.readMemory addr count) s = .next t
      ∧ t.port.miso.length = 4 + count ∧ t.port.miso[0]? = some 0 ∧ t.port.miso[3]? = some 0
      ∧ (∀ k, k < count → t.port.miso[4 + k]? = some (s.xm.read (addr.toNat + k)))
      ∧ t = { s with
          free := t.free, lastGranted := if count = 0 then s.lastGranted else .hostPort
          port := { s.port with miso := t.port.miso } }

/-- R1, R3, R22 and R23: a transaction of an unknown command byte answers 00H for every byte; it and a write to ID or to
a register above 4 change nothing beyond the MISO bytes. A write to NOTICE clears each pending bit written as 1 and
leaves the others; a write to NOTICE_MASK sets the mask to the low byte written; neither changes anything else. The
model's choices: log 6 (free MISO bytes). -/
def Obligations.RegisterWritesActOrAreIgnored : Prop :=
  ((∀ (command : Byte) (more : Nat) (s : State), (Instr.invalidCommand command more).wellFormed = true →
    ∃ t, exec (.invalidCommand command more) s = .next t
      ∧ t.port.miso.length = more + 1 ∧ (∀ b ∈ t.port.miso, b = 0)
      ∧ t = { s with port := { s.port with miso := t.port.miso } })
  ∧ ∀ (number : Byte) (value : Reg) (s : State), (Instr.registerWriteOther number value).wellFormed = true →
    ∃ t, exec (.registerWriteOther number value) s = .next t
      ∧ t.port.miso.length = 6
      ∧ t = { s with free := t.free, port := { s.port with miso := t.port.miso } })
  ∧ (∀ (value : Reg) (s : State),
    ∃ t, exec (.noticeWrite value) s = .next t
      ∧ (∀ i, i < 8 → t.port.notice.getLsbD i = (s.port.notice.getLsbD i && !value.getLsbD i))
      ∧ t = { s with
          free := t.free, port := { s.port with notice := t.port.notice, miso := t.port.miso } })
  ∧ ∀ (value : Reg) (s : State),
    ∃ t, exec (.noticeMaskWrite value) s = .next t
      ∧ (∀ i, i < 8 → t.port.mask.getLsbD i = value.getLsbD i)
      ∧ t = { s with free := t.free, port := { s.port with mask := t.port.mask, miso := t.port.miso } }

/-- R23: ATTN is asserted exactly while some bit position holds 1 in NOTICE and in NOTICE_MASK; a mask write keeps the
low byte only, and the upper bytes read 0. -/
def Obligations.AttnFollowsNoticeAndMask : Prop :=
  ∀ s : State,
    (attn s = true ↔ ∃ i, i < 8 ∧ s.port.notice.getLsbD i = true ∧ s.port.mask.getLsbD i = true)
    ∧ (∀ i, (readRegister s 4).getLsbD i = (decide (i < 8) && s.port.mask.getLsbD i))
    ∧ ∀ (value : Reg) (t : State), exec (.noticeMaskWrite value) s = .next t →
        ∀ i, i < 8 → t.port.mask.getLsbD i = value.getLsbD i

/-- R7: a read of ID answers, after the turnaround byte, the bytes 40H, 54H, 01H and 00H in every state. R8: a read of
CONTROL shows RUN in bit 0, STARTING in bit 1 and 0 elsewhere. R17: SWEEP reads 0. R3: a register above 4 reads 0.
-/
def Obligations.RegistersAsTheHostReadsThem : Prop :=
  ∀ s : State,
    (registerAnswer s 0 4).drop 3 = [0x40, 0x54, 0x01, 0x00]
    ∧ (∀ i, (readRegister s 1).getLsbD i =
        ((decide (i = 0) && s.isRun) || (decide (i = 1) && s.port.start.isSome)))
    ∧ readRegister s 2 = 0 ∧ ∀ n, 4 < n → readRegister s n = 0

/-! ## Sweeps and slots (chapter 1) -/

/-- R17: a SWEEP write and a sweep timer expiry start a sweep at slot 0, or set the sweep-again flag while a sweep is in
progress; the timer is started afresh with the period. During the writes of a reset a SWEEP write is kept for their
end (R13). With no slot left to take and every order ended, a sweep ends; with the sweep-again flag set another
begins at once and the flag is cleared. The model's choices: log 1 (the clock in State); log 21 (where commands
leave the rotation); log 33 (SLOT_TAKE and SWEEP_END). -/
def Obligations.SweepsBeginAndEnd : Prop :=
  ((∀ (value : Reg) (s : State), s.port.reset = none →
    ∃ t, exec (.sweepWrite value) s = .next t
      ∧ (s.orders.sweep = none →
          t.orders = { s.orders with sweep := some { pos := 0, copy := none, current := none } })
      ∧ (s.orders.sweep ≠ none → t.orders = { s.orders with again := true })
      ∧ t = { s with
          orders := t.orders, free := t.free, port := { s.port with miso := t.port.miso } })
  ∧ (∀ (value : Reg) (s : State) (j : ResetJob), s.port.reset = some j →
    ∃ t, exec (.sweepWrite value) s = .next t
      ∧ t = { s with
          free := t.free
          port := { s.port with miso := t.port.miso, reset := some { j with sweepRequest := true } } })
  ∧ ∀ (s : State) (due : Nat), s.timers.sweep = some due → s.port.reset = none →
    ∃ t, exec .sweepTimerExpiry s = .next t
      ∧ (s.orders.sweep = none →
          t.orders = { s.orders with sweep := some { pos := 0, copy := none, current := none } })
      ∧ (s.orders.sweep ≠ none → t.orders = { s.orders with again := true })
      ∧ t = { s with
          orders := t.orders
          clock := max s.clock due
          timers := { s.timers with sweep := some (max s.clock due + s.orders.period * 1024000) } })
  ∧ ∀ (s : State) (w : Sweep), s.orders.sweep = some w → w.current = none →
    (∀ a ∈ s.sets.queue, ∀ n, a.source ≠ .order n) →
    (∀ n, w.pos ≤ n → n < 32 → n ∉ s.orders.held → s.xm.read (0x200 + 64 * n) ≠ 1) →
    ∃ t, exec .sweepEnd s = .next t
      ∧ ((∀ n, w.pos ≤ n → n < 32 → n ∈ s.orders.held) → t.lastGranted = s.lastGranted)
      ∧ (∀ n, w.pos ≤ n → n < 32 → n ∉ s.orders.held → t.lastGranted = .orderEngine)
      ∧ t = { s with
          lastGranted := t.lastGranted
          orders := { s.orders with
            sweep := if s.orders.again then some { pos := 0, copy := none, current := none } else none
            again := false } }

/-- R18: the sweep copies kind, tag and parameters of the slot, the bytes that an idle step copied as they then were and
the rest as they are, and takes it by writing TAKEN into its state byte when that still reads POSTED: the slot is
held and the order in hand, when the common checks pass, and no other byte changes. When the state byte reads POSTED
no more, the copy is discarded and the sweep moves on, with nothing written. The model's choices: log 21 (where
commands leave the rotation); log 33 (SLOT_TAKE and SWEEP_END). -/
def Obligations.SlotTakeCopiesAndTakes : Prop :=
  (∀ (s : State) (w : Sweep) (n : Nat) (copied bytes : List Byte), s.xm.wf = true →
    sweepBefore s w n copied → bytes = slotCopy s n copied → s.xm.read (0x200 + 64 * n) = 1 →
    1 ≤ (bytes.getD 1 0).toNat → (bytes.getD 1 0).toNat ≤ 14 →
    (s.isRun = true ∨ (bytes.getD 1 0).toNat = 13) →
    (∀ i, i < 40 → bytes.getD i 0 =
        if i < copied.length then copied.getD i 0 else s.xm.read (0x200 + 64 * n + i))
    ∧ ∃ t, exec .slotTake s = .next t
      ∧ t.xm.read (0x200 + 64 * n) = 2 ∧ sameBut s.xm t.xm (fun a => a = 0x200 + 64 * n)
      ∧ t = { s with
          xm := t.xm
          lastGranted := .orderEngine
          orders := { s.orders with
            held := s.orders.held ++ [n]
            sweep := some {
              pos := n + 1, copy := none
              current := some {
                slot := n
                kind := (bytes.getD 1 0).toNat
                tag := BitVec.ofNat 16 ((bytes.getD 2 0).toNat + 256 * (bytes.getD 3 0).toNat)
                params := (List.range 36).map fun i => bytes.getD (4 + i) 0
                load := none } } } })
  ∧ ∀ (s : State) (w : Sweep) (n : Nat) (copied : List Byte), sweepBefore s w n copied →
    s.xm.read (0x200 + 64 * n) ≠ 1 →
    exec .slotTake s = .next { s with
      lastGranted := .orderEngine
      orders := { s.orders with sweep := some { pos := n + 1, copy := none, current := none } } }

/-- R19 and R20: a taken order of an unknown kind ends UNKNOWN_KIND, and in QUIET one of any known kind but CLEAR_FAULTS
ends NOT_RUNNING: step 0, result 0, DONE, ORDER raised, the slot not held. The result of SET_ACTION and REFRESH_SET is
the chain (R43), and that of a LEASE order is 0 as for the other kinds. The model's choices: log 16 (the result of a
refused LEASE order); log 27 (when the run state is checked); log 33 (SLOT_TAKE and SWEEP_END); log 39 (the chain as
result of NOT_RUNNING). -/
def Obligations.SlotTakeRefusesByTheCommonChecks : Prop :=
  ∀ (s : State) (w : Sweep) (n k : Nat) (copied : List Byte), s.xm.wf = true → sweepBefore s w n copied →
    s.xm.read (0x200 + 64 * n) = 1 → ((slotCopy s n copied).getD 1 0).toNat = k →
    (k = 0 ∨ 14 < k ∨ (s.isRun = false ∧ k ≠ 13)) → n ∉ s.orders.held →
    ∃ t, exec .slotTake s = .next t
      ∧ slotDone t.xm n (if k = 0 ∨ 14 < k then .unknownKind else .notRunning) 0
          (if k = 4 ∨ k = 5 then chainResult s.sets else [])
      ∧ sameBut s.xm t.xm (inSlot n)
      ∧ t = { s with
          xm := t.xm
          lastGranted := .orderEngine
          port := withNotice s.port [.order]
          orders := { s.orders with sweep := some { pos := n + 1, copy := none, current := none } } }

/-! ## Orders (chapters 1, 4 and 7) -/

/-- R125: a host THROTTLE order ends BUSY during a balance run and NOT_HOLDER under a RADIO holder, changing nothing;
otherwise the host is the ON-BOARD holder (with CONTROL when it was NONE), throttle and direction are stored, and
the result shows the request state. (A throttle of 0 that meets the emergency-stop latch is
ThrottleZeroReleasesTheLatch.) The model's choices: log 27 (when the run state is checked). -/
def Obligations.ThrottleOrderAppliesOrIsRefused : Prop :=
  ∀ (s : State) (o : TakenOrder), s.xm.wf = true → s.isRun = true → orderTaken s o → o.kind = 1 →
    (s.radio.lease = .onBoard true →
      ∃ t, exec .throttleOrder s = .next t ∧ refusedOrder s t o .busy [])
    ∧ (∀ sender cls heard, s.radio.lease = .radio sender cls heard →
      ∃ t, exec .throttleOrder s = .next t ∧ refusedOrder s t o .notHolder [])
    ∧ (s.radio.lease = .none ∨ s.radio.lease = .onBoard false →
      param8 o.params 0 ≠ 0 ∨ s.traction.latch = false →
      ∃ t, exec .throttleOrder s = .next t
        ∧ slotDone t.xm o.slot (if 1 < param8 o.params 1 then .adjusted else .ok) 0
            ([BitVec.ofNat 8 (param8 o.params 0), if param8 o.params 1 = 1 then 1 else 0]
              ++ bytes32 s.radio.request.functions.toNat ++ [2])
        ∧ sameBut s.xm t.xm (inSlot o.slot)
        ∧ t = { s with
            xm := t.xm
            lastGranted := .orderEngine
            orders := ordersAfter s o
            port := withNotice s.port (if s.radio.lease = .none then [.control, .order] else [.order])
            radio := { s.radio with
              lease := .onBoard false
              failsafe := if s.radio.lease = .none then false else s.radio.failsafe
              request := { s.radio.request with
                throttle := param8 o.params 0
                direction := if param8 o.params 1 = 1 then .reverse else .forward } } })

/-- R78: a host THROTTLE order of throttle 0 that is applied clears the emergency-stop latch, and the state is derived
afresh with its command (R73, R75): FAULTED or HELD under COAST, REVERSING or RUNNING under DRIVE at u, else STOPPED
under the stop mode; each configured bridge takes the command (R87); the order ends as R125 gives. An entry to STOPPED
begins the dwell of a station stop (R134). From ESTOP, HELD or FAULTED nothing sounds, and beside its slot no byte of
memory changes. The model's choices: log 18 (an entry to DRIVE within a period); log 27 (when the run state is checked);
log 49 (the stop mode and freewheel of a derivation after a set change). -/
def Obligations.ThrottleZeroReleasesTheLatch : Prop :=
  ∀ (s : State) (o : TakenOrder), s.xm.wf = true → s.isRun = true → orderTaken s o → o.kind = 1 →
    s.radio.lease = .none ∨ s.radio.lease = .onBoard false →
    param8 o.params 0 = 0 → s.traction.latch = true → s.balance.run = none → voicesLawful s →
    ∃ t, exec .throttleOrder s = .next t
      ∧ slotDone t.xm o.slot (if 1 < param8 o.params 1 then .adjusted else .ok) 0
          ([0, if param8 o.params 1 = 1 then 1 else 0] ++ bytes32 s.radio.request.functions.toNat ++ [2])
      ∧ sameBut s.xm t.xm (fun a => inSlot o.slot a ∨ inSegments a)
      ∧ t.port.notice.getLsbD 0 = true
      ∧ (s.radio.lease = .none → t.port.notice.getLsbD 5 = true)
      ∧ (∀ drive, drive = Command.drive {
            duty := min s.tractionSet.dutyCap s.traction.u, direction := s.traction.direction
            freewheel := s.tractionSet.freewheel } →
          if s.bridges.allLatched = true then t.traction.state = .faulted ∧ t.bridges.held = .coast
          else if 4 ≤ s.supply.shed then t.traction.state = .held ∧ t.bridges.held = .coast
          else if s.traction.pending = true then t.traction.state = .reversing ∧ t.bridges.held = drive
          else if 0 < s.traction.c ∨ 0 < s.traction.lastM then
            t.traction.state = .running ∧ t.bridges.held = drive
          else t.traction.state = .stopped
            ∧ t.bridges.held = (match s.tractionSet.stopMode with | .brake => .brake | .coast => .coast))
      ∧ bridgesTaken s.clock s.bridges t.bridges
      ∧ t.radio.station = (match s.radio.station with
          | .braking g =>
            if t.traction.state = .stopped ∧ s.traction.state ≠ .stopped then
              .dwell g (s.clock + 1024000 * (1000 * max 1 (param8 g.payload 5)))
            else .braking g
          | .dwell g ends => .dwell g ends
          | .none => .none)
      ∧ (s.traction.state = .estop ∨ s.traction.state = .held ∨ s.traction.state = .faulted →
          sameBut s.xm t.xm (inSlot o.slot) ∧ t.sound = s.sound ∧ t.status = s.status
            ∧ t.port = withNotice s.port (if s.radio.lease = .none then [.control, .order] else [.order]))
      ∧ t = { s with
          xm := t.xm, lastGranted := .orderEngine, orders := ordersAfter s o
          port := { s.port with notice := t.port.notice }
          status := { s.status with faultCount := t.status.faultCount }
          traction := { s.traction with
            latch := false, state := t.traction.state
            lowest := min s.traction.lowest t.bridges.drivenDuty }
          bridges := { s.bridges with held := t.bridges.held, a := t.bridges.a, b := t.bridges.b }
          radio := { s.radio with
            lease := .onBoard false
            failsafe := if s.radio.lease = .none then false else s.radio.failsafe
            request := { s.radio.request with
              throttle := 0, direction := if param8 o.params 1 = 1 then .reverse else .forward }
            station := t.radio.station }
          sound := t.sound }

/-- R126: FUNCTIONS takes the value bits where the mask holds 1 and keeps the others, whatever the lease, also during a
balance run; it ends OK with the 32 bits after it as its result. The trigger entries of the cached set act on the bits
that changed (R156): a rise starts a clip, a fall fades what a HOLD entry started. PREHEAT or REGULATE becomes OFF with
the output off when the smoke function bit is then 0 (R178), and a fan that served REGULATE purges (R180). A mask of 0
changes nothing, where no stage of the heater is at work against R174. The model's choices: log 27 (when the run state
is checked); log 32 (the order in which readers are told); log 45 (the order of the sound engine's acts); log 51 (when a
fan duty reaches SMF). -/
def Obligations.FunctionsOrderSetsTheMaskedBits : Prop :=
  ∀ (s : State) (o : TakenOrder), s.xm.wf = true → s.isRun = true → orderTaken s o → o.kind = 2 →
    voicesLawful s →
    ∃ t, exec .functions s = .next t
      ∧ (∀ i, i < 32 → t.radio.request.functions.getLsbD i =
          if (param32 o.params 0).testBit i then (param32 o.params 4).testBit i
          else s.radio.request.functions.getLsbD i)
      ∧ slotDone t.xm o.slot .ok 0 (bytes32 t.radio.request.functions.toNat)
      ∧ sameBut s.xm t.xm (fun a => inSlot o.slot a ∨ inSegments a)
      ∧ t = { s with
          xm := t.xm, lastGranted := .orderEngine, port := t.port, orders := ordersAfter s o, status := t.status, sound := t.sound
          lamps := { s.lamps with heater := t.lamps.heater, fan := t.lamps.fan }
          radio := { s.radio with request := { s.radio.request with
            functions := t.radio.request.functions } } }
      ∧ heaterTold s t t.radio.request.functions
      ∧ (∃ v : State, triggersAct s.radio.request.functions t.radio.request.functions 0 s.soundSet.triggers
            { s with radio := t.radio } v
          ∧ t.sound = v.sound ∧ t.status = v.status ∧ t.port = withNotice v.port [.order]
          ∧ sameBut v.xm t.xm (inSlot o.slot))
      ∧ (param32 o.params 0 = 0 → (s.lamps.heater.working = true → heaterEnabled s = true) →
          refusedOrder s t o .ok (bytes32 s.radio.request.functions.toNat))

/-- R77, R79 and R128: an emergency stop, from a STOP order or an accepted STOP frame: c, I, u and the previous duty are
0, the latch is set, the balance run (ABORTED in its slot) and the station stop are over; the state is ESTOP under
BRAKE, or HELD or FAULTED under COAST, and each configured bridge takes that command at once (R87, R88). A balance run
ends whole (R108), after the station stop: its slot, the requester side and the traction state derived afresh; outside
its slot, the records and segment bytes no byte of memory changes. The order ends OK with a result of zeros, after the
record STATION_CANCELLED where it ends a station stop (R134). A frame's sender is heard as the holder (R123), a FRAME
record with reason OK follows, after STATION_CANCELLED where a station stop ends, and its handling ends; the frames that
wait are then checked in turn, the first accepted one being in hand (R118); a STOP frame with a payload is MALFORMED
(R120). The model's choices: log 14 (the record of a STOP frame); log 17 (BEACON with a dropped record); log 18 (an
entry to DRIVE within a period); log 24 (the first sequence number); log 27 (when the run state is checked); log 32 (the
order in which readers are told); log 49 (the stop mode and freewheel of a derivation after a set change). -/
def Obligations.EmergencyStopByOrderAndByFrame : Prop :=
  (∀ (s : State) (o : TakenOrder), s.xm.wf = true → s.isRun = true → orderTaken s o → o.kind = 3 →
    s.balance.run = none →
    ∃ t, exec .stopOrder s = .next t ∧ stopped s t ∧ bridgesTaken s.clock s.bridges t.bridges
      ∧ slotDone t.xm o.slot .ok 0 []
      ∧ (s.radio.station = .none → sameBut s.xm t.xm (inSlot o.slot)
        ∧ t.port = withNotice s.port [.order] ∧ t.radio = s.radio)
      ∧ (s.radio.logIndex < 64 →
        ∀ g, (s.radio.station = .braking g ∨ ∃ ends, s.radio.station = .dwell g ends) →
        ∃ u : State, u.clock = s.clock
          ∧ recordOffered s u .beacon .stationCancelled g [.beacon] ∧ recordOnly s u
          ∧ sameBut u.xm t.xm (inSlot o.slot) ∧ t.port = withNotice u.port [.order]
          ∧ t.radio = { s.radio with
              station := .none, logIndex := u.radio.logIndex, logSeq := u.radio.logSeq
              overflow := u.radio.overflow })
      ∧ t = { s with
          xm := t.xm, lastGranted := .orderEngine, orders := ordersAfter s o, port := t.port
          traction := { s.traction with
            c := 0, i := 0, u := 0, prev := 0, latch := true, state := t.traction.state
            lowest := min s.traction.lowest t.bridges.drivenDuty }
          bridges := { s.bridges with held := t.bridges.held, a := t.bridges.a, b := t.bridges.b }
          radio := t.radio })
  ∧ (∀ (s : State) (f : Frame), s.xm.wf = true → s.isRun = true →
    s.radio.handling = some f → f.kind = 3 → f.payload = [] →
    ∃ t, exec .stopFrame s = .next t ∧ stopped s t ∧ frameEnded s t ∧ t.lastGranted = .radioWriter
      ∧ (s.balance.run = none → t.radio.request = s.radio.request
        ∧ t.radio.lease = (heard s.radio f s.clock).lease
        ∧ t.radio.failsafe = (heard s.radio f s.clock).failsafe
        ∧ bridgesTaken s.clock s.bridges t.bridges)
      ∧ (s.radio.logIndex < 64 → s.balance.run = none → s.radio.station = .none →
        recordOffered s t .frame (.outcome .ok) f [] ∧ recordOnly s t
        ∧ t = { s with
            xm := t.xm, lastGranted := .radioWriter, port := { s.port with notice := t.port.notice }
            traction := { s.traction with
              c := 0, i := 0, u := 0, prev := 0, latch := true, state := t.traction.state
              lowest := min s.traction.lowest t.bridges.drivenDuty }
            bridges := { s.bridges with held := t.bridges.held, a := t.bridges.a, b := t.bridges.b }
            radio := besideFrames (heard s.radio f s.clock) t.radio })
      ∧ (s.radio.logIndex < 64 → s.balance.run = none →
        ∀ g, (s.radio.station = .braking g ∨ ∃ ends, s.radio.station = .dwell g ends) →
        ∃ u : State, u.clock = s.clock
          ∧ recordOffered s u .beacon .stationCancelled g [.beacon] ∧ recordOnly s u
          ∧ recordOffered u t .frame (.outcome .ok) f [] ∧ recordOnly u t
          ∧ t = { s with
              xm := t.xm, lastGranted := .radioWriter, port := { s.port with notice := t.port.notice }
              traction := { s.traction with
                c := 0, i := 0, u := 0, prev := 0, latch := true, state := t.traction.state
                lowest := min s.traction.lowest t.bridges.drivenDuty }
              bridges := { s.bridges with held := t.bridges.held, a := t.bridges.a, b := t.bridges.b }
              radio := besideFrames { heard s.radio f s.clock with station := .none } t.radio })
      ∧ (∀ r : BalanceRun, s.balance.run = some r → r.slot < 32 → s.radio.logIndex < 64 → voicesLawful s →
        runEnded t r .aborted)
      ∧ (runSlot s → s.radio.logIndex < 64 → voicesLawful s →
        sameBut s.xm t.xm (fun a => inRunEnd s a ∨ ∃ k, k < 2 ∧ inRecord ((s.radio.logIndex + k) % 64) a)
        ∧ ∃ u : State, emergencyStopped { s with radio := heard s.radio f s.clock } u
          ∧ recordOffered u t .frame (.outcome .ok) f [] ∧ recordOnly u t
          ∧ t = { u with
              xm := t.xm, lastGranted := .radioWriter, port := { u.port with notice := t.port.notice }
              radio := besideFrames u.radio t.radio }))
  ∧ (∀ (s : State) (f : Frame), frameInHand s f 3 → f.payload ≠ [] →
    ∃ t, exec .stopFrame s = .next t ∧ frameLogged s t .frame .malformed f)
  ∧ ∀ (s : State) (o : TakenOrder) (r : BalanceRun), s.xm.wf = true → s.isRun = true → orderTaken s o →
    o.kind = 3 → s.balance.run = some r → r.slot < 32 → r.slot ≠ o.slot →
    ∃ t, exec .stopOrder s = .next t ∧ stopped s t
      ∧ slotDone t.xm o.slot .ok 0 []
      ∧ (voicesLawful s → s.radio.logIndex < 64 → runEnded t r .aborted
        ∧ sameBut s.xm t.xm (fun a => inSlot o.slot a ∨ inRunEnd s a ∨ inRecord s.radio.logIndex a)
        ∧ ∃ u : State, emergencyStopped s u ∧ sameBut u.xm t.xm (inSlot o.slot)
          ∧ t = { u with
              xm := t.xm, lastGranted := .orderEngine, orders := ordersAfter u o
              port := withNotice u.port [.order] })

/-- R127: LEASE TAKE makes the host the ON-BOARD holder from NONE and from a RADIO holder of a class other than 0, and
raises CONTROL; it ends NOT_HOLDER under class 0, BUSY during a balance run, and OK with nothing changed where the host
holds already. LEASE RELEASE of the ON-BOARD holder leaves NONE with throttle 0 and raises CONTROL; under the
emergency-stop latch it clears that as well, and the traction state is derived afresh (R78), the bridges taking its
command (R87). It ends BUSY during a balance run and NOT_HOLDER when the host does not hold. An action above 1 ends
BAD_INDEX. The model's choices: log 16 (the result of a refused LEASE); log 18 (an entry to DRIVE within a period); log
27 (when the run state is checked); log 49 (the stop mode and freewheel of a derivation after a set change). -/
def Obligations.LeaseOrdersTakeAndRelease : Prop :=
  (∀ (s : State) (o : TakenOrder), s.xm.wf = true → s.isRun = true → orderTaken s o → o.kind = 14 →
    param8 o.params 0 = 0 →
    ((s.radio.lease = .none ∨ ∃ sender cls heard, s.radio.lease = .radio sender cls heard ∧ cls ≠ 0) →
      ∃ t, exec .leaseTake s = .next t
        ∧ slotDone t.xm o.slot .ok 0 [2, 255, 0, 0] ∧ sameBut s.xm t.xm (inSlot o.slot)
        ∧ t = { s with
            xm := t.xm, lastGranted := .orderEngine, orders := ordersAfter s o
            port := withNotice s.port [.control, .order]
            radio := { s.radio with lease := .onBoard false, failsafe := false } })
    ∧ (s.radio.lease = .onBoard false →
      ∃ t, exec .leaseTake s = .next t ∧ refusedOrder s t o .ok [2, 255, 0, 0])
    ∧ (s.radio.lease = .onBoard true →
      ∃ t, exec .leaseTake s = .next t ∧ refusedOrder s t o .busy [2, 255, 0, 0])
    ∧ ∀ sender heard, s.radio.lease = .radio sender 0 heard →
      ∃ t, exec .leaseTake s = .next t
        ∧ refusedOrder s t o .notHolder ([1, 0] ++ bytes16 sender))
  ∧ (∀ (s : State) (o : TakenOrder), s.xm.wf = true → s.isRun = true → orderTaken s o → o.kind = 14 →
    1 < param8 o.params 0 →
    ∃ t, exec .leaseTake s = .next t
      ∧ refusedOrder s t o .badIndex (match s.radio.lease with
        | .none => [0, 255, 0, 0]
        | .radio sender cls _ => [1, BitVec.ofNat 8 cls] ++ bytes16 sender
        | .onBoard _ => [2, 255, 0, 0]))
  ∧ ∀ (s : State) (o : TakenOrder), s.xm.wf = true → s.isRun = true → orderTaken s o → o.kind = 14 →
    param8 o.params 0 = 1 →
    (s.radio.lease = .onBoard false → s.traction.latch = false →
      ∃ t, exec .leaseRelease s = .next t
        ∧ slotDone t.xm o.slot .ok 0 [0, 255, 0, 0] ∧ sameBut s.xm t.xm (inSlot o.slot)
        ∧ t = { s with
            xm := t.xm, lastGranted := .orderEngine, orders := ordersAfter s o
            port := withNotice s.port [.control, .order]
            radio := { s.radio with
              lease := .none, failsafe := false
              request := { s.radio.request with throttle := 0 } } })
    ∧ (s.radio.lease = .onBoard false → s.traction.latch = true → voicesLawful s →
      ∃ v t, exec .leaseRelease s = .next t
        ∧ derivedAfresh { s with
            port := withNotice s.port [.control], traction := { s.traction with latch := false }
            radio := { s.radio with
              lease := .none, failsafe := false
              request := { s.radio.request with throttle := 0 } } } v
        ∧ slotDone t.xm o.slot .ok 0 [0, 255, 0, 0] ∧ sameBut v.xm t.xm (inSlot o.slot)
        ∧ t = { v with
            xm := t.xm, lastGranted := .orderEngine, orders := ordersAfter s o
            port := withNotice v.port [.order] })
    ∧ (s.radio.lease = .onBoard true →
      ∃ t, exec .leaseRelease s = .next t ∧ refusedOrder s t o .busy [2, 255, 0, 0])
    ∧ (s.radio.lease = .none →
      ∃ t, exec .leaseRelease s = .next t ∧ refusedOrder s t o .notHolder [0, 255, 0, 0])
    ∧ ∀ sender cls heard, s.radio.lease = .radio sender cls heard →
      ∃ t, exec .leaseRelease s = .next t
        ∧ refusedOrder s t o .notHolder ([1, BitVec.ofNat 8 cls] ++ bytes16 sender)

/-! ## Set manager (chapter 2) -/

/-- R37 and R43: a SET_ACTION order that finds no action in flight takes up the load of its set and waits for the
decision; one that finds an action in flight joins the queue; a code above 2 ends BAD_INDEX with the chain as
result, and what loads nothing is decided at once: BUSY during a balance run, else BAD_INDEX above 7 and CHAIN_EMPTY
on the base. The model's choices: log 26 (when a set action is decided); log 27 (when the run state is checked); log
39 (the chain as result of NOT_RUNNING); log 48 (a refused action code does not wait). -/
def Obligations.SetActionOrderReachesTheSetManager : Prop :=
  ∀ (s : State) (o : TakenOrder), s.xm.wf = true → s.isRun = true → orderTaken s o → o.kind = 4 →
    (∀ kind x, s.sets.queue = [] →
      (param8 o.params 0 = 0 ∧ kind = .switch ∧ x = param8 o.params 1 ∧ x ≤ 7
        ∨ param8 o.params 0 = 1 ∧ kind = .invoke ∧ x = param8 o.params 1 ∧ x ≤ 7
        ∨ param8 o.params 0 = 2 ∧ kind = .returnSet ∧ 2 ≤ s.sets.chain.length
          ∧ x = s.sets.belowIndex) →
      exec .setAction s = .next { s with
        orders := { s.orders with sweep := s.orders.sweep.map fun w => { w with current := none } }
        sets := { s.sets with queue := [{
          kind := kind, index := param8 o.params 1, level := 0, source := .order o.slot
          load := some {
            base := 0xA00 + 256 * x
            todo := (List.range 52).map fun k => 0xA00 + 256 * x + 2 * k
            image := [] } }] } })
    ∧ (∀ kind, s.sets.queue ≠ [] →
      (param8 o.params 0 = 0 ∧ kind = .switch ∨ param8 o.params 0 = 1 ∧ kind = .invoke
        ∨ param8 o.params 0 = 2 ∧ kind = .returnSet) →
      exec .setAction s = .next { s with
        orders := { s.orders with sweep := s.orders.sweep.map fun w => { w with current := none } }
        sets := { s.sets with queue := s.sets.queue ++ [{
          kind := kind, index := param8 o.params 1, level := 0, source := .order o.slot
          load := none }] } })
    ∧ (2 < param8 o.params 0 →
      ∃ t, exec .setAction s = .next t ∧ refusedOrder s t o .badIndex (chainResult s.sets))
    ∧ (s.sets.queue = [] →
      (param8 o.params 0 ≤ 1 → 7 < param8 o.params 1 →
        ∃ t, exec .setAction s = .next t
          ∧ refusedOrder s t o (if s.balance.run.isSome then .busy else .badIndex) (chainResult s.sets))
      ∧ (param8 o.params 0 = 2 → s.sets.chain.length ≤ 1 →
        ∃ t, exec .setAction s = .next t
          ∧ refusedOrder s t o (if s.balance.run.isSome then .busy else .chainEmpty) (chainResult s.sets)))

/-- R38 and R39: INVOKE that passes its checks saves the request state in the entry that was on top, places the set
above it, makes its staging copy the cache and applies its entry throttle. The action itself leaves c, I and u as they
were (R44). The readers of the cache act on it (R45): u, the duty held and the running on-phases fall to a lower duty
cap (R83); voice 0 starts, voice 1 stops, HOLD voices fade and HOLD entries start (R151, R154, R156); heater and fan
work by the new set (R178, R180), the fan's driven duty staying what it was in the running PWM period. Memory changes
where the reports of the actions decided and the voices write. The model's choices: log 26 (when a set action is
decided); log 32 (the order in which readers are told); log 45 (the order of the sound engine's acts); log 51 (when a
fan duty reaches SMF); log 54 (a lower duty cap at a set action). -/
def Obligations.InvokePlacesTheSetOnTop : Prop :=
  ∀ (s : State) (a : SetAction) (rest : List SetAction) (below : List ChainEntry) (top : ChainEntry)
    (d : DriveSet) (clamped : Bool),
    s.xm.wf = true → s.port.teardownPending = false → s.sets.queue = a :: rest → a.kind = .invoke →
    queueSlots s → voicesLawful s → staged a s.xm = some (d, clamped) →
    s.balance.run = none → a.level ≤ d.authority → d.valid = true →
    s.sets.chain = below ++ [top] → (∀ e ∈ s.sets.chain, e.index ≠ a.index) → s.sets.chain.length < 4 →
    ∃ t, exec .invoke s = .next t
      ∧ t.sets.chain = below ++ [{ top with resume := some s.radio.request },
          { index := a.index, resume := none }]
      ∧ t.sets.cache = some d ∧ t.sets.clamped = clamped ∧ t.sets.queue = takenUp t.sets rest
      ∧ t.radio.request = { s.radio.request with
          throttle := d.traction.entryThrottle.getD s.radio.request.throttle }
      ∧ t.port.notice.getLsbD 5 = true
      ∧ (∀ n, a.source = .order n →
          slotDone t.xm n (if clamped then .adjusted else .ok) 0 (chainResult t.sets))
      ∧ (∀ f, a.source = .frame f → rest = [] →
          actionLogged s t f (if clamped then .adjusted else .ok))
      ∧ setChangeFrame s t d (inReports s)

/-- R40: SWITCH replaces the set of the top entry, saves nothing, and applies the entry throttle. The readers of the
cache act on it as after INVOKE. The model's choices: log 26 (when a set action is decided); log 32 (the order in which
readers are told); log 45 (the order of the sound engine's acts); log 51 (when a fan duty reaches SMF); log 54 (a lower
duty cap at a set action). -/
def Obligations.SwitchReplacesTheTopSet : Prop :=
  ∀ (s : State) (a : SetAction) (rest : List SetAction) (below : List ChainEntry) (top : ChainEntry)
    (d : DriveSet) (clamped : Bool),
    s.xm.wf = true → s.port.teardownPending = false → s.sets.queue = a :: rest → a.kind = .switch →
    queueSlots s → voicesLawful s → staged a s.xm = some (d, clamped) →
    s.balance.run = none → a.level ≤ d.authority → d.valid = true →
    s.sets.chain = below ++ [top] → (∀ e ∈ s.sets.chain, e.index ≠ a.index) →
    ∃ t, exec .switch s = .next t
      ∧ t.sets.chain = below ++ [{ top with index := a.index }]
      ∧ t.sets.cache = some d ∧ t.sets.clamped = clamped ∧ t.sets.queue = takenUp t.sets rest
      ∧ t.radio.request = { s.radio.request with
          throttle := d.traction.entryThrottle.getD s.radio.request.throttle }
      ∧ t.port.notice.getLsbD 5 = true
      ∧ (∀ n, a.source = .order n →
          slotDone t.xm n (if clamped then .adjusted else .ok) 0 (chainResult t.sets))
      ∧ (∀ f, a.source = .frame f → rest = [] →
          actionLogged s t f (if clamped then .adjusted else .ok))
      ∧ setChangeFrame s t d (inReports s)

/-- R41: RETURN removes the top entry, restores the request state that the entry below had saved, and takes the resume
record from it; the entry throttle is not applied. The readers of the function bits hear of a change of them (R156,
R178), then the readers of the cache act on it as after INVOKE. The model's choices: log 15 (who hears of restored
function bits first); log 26 (when a set action is decided); log 32 (the order in which readers are told); log 45 (the
order of the sound engine's acts); log 51 (when a fan duty reaches SMF); log 54 (a lower duty cap at a set action). -/
def Obligations.ReturnResumesTheEntryBelow : Prop :=
  ∀ (s : State) (a : SetAction) (rest : List SetAction) (below : List ChainEntry) (next top : ChainEntry)
    (q : Request) (d cached : DriveSet) (clamped : Bool),
    s.xm.wf = true → s.port.teardownPending = false → s.sets.queue = a :: rest → a.kind = .returnSet →
    queueSlots s → voicesLawful s → staged a s.xm = some (d, clamped) →
    s.balance.run = none → s.sets.cache = some cached → a.level ≤ cached.authority → d.valid = true →
    s.sets.chain = below ++ [next, top] → next.resume = some q →
    ∃ t, exec .returnSet s = .next t
      ∧ t.sets.chain = below ++ [{ next with resume := none }]
      ∧ t.sets.cache = some d ∧ t.sets.clamped = clamped ∧ t.sets.queue = takenUp t.sets rest
      ∧ t.radio.request = q ∧ t.port.notice.getLsbD 5 = true
      ∧ (∀ n, a.source = .order n →
          slotDone t.xm n (if clamped then .adjusted else .ok) 0 (chainResult t.sets))
      ∧ (∀ f, a.source = .frame f → rest = [] →
          actionLogged s t f (if clamped then .adjusted else .ok))
      ∧ setChangeFrame s t d (inReports s)

/-- R42: a REFRESH_SET order that finds no action in flight reloads the record of the current top from memory as it
stands; chain and request state stay, the entry throttle is not applied. During a balance run it ends BUSY, and
NOT_VALID when the record lacks its mark, with nothing changed. One that finds an action in flight joins the queue
(R37), and is decided, once it is the one in flight, on its staging copy (R31); the entry throttle is not applied then
either. The readers of the cache act on it as after INVOKE. A load of a record gives its fields with the clamps of R27
to R30, and the clamped flag says whether one changed a value (R31). The model's choices: log 26 (when a set action is
decided); log 27 (when the run state is checked); log 32 (the order in which readers are told); log 45 (the order of the
sound engine's acts); log 51 (when a fan duty reaches SMF); log 54 (a lower duty cap at a set action). -/
def Obligations.RefreshReloadsTheTopSet : Prop :=
  (∀ (m : Memory) (b : Nat), driveSetRead m b (loadDriveSet m b) (driveSetClamped m b))
  ∧ (∀ (s : State) (o : TakenOrder) (b : SetAction) (rest : List SetAction), s.isRun = true →
    orderTaken s o → o.kind = 5 → s.sets.queue = b :: rest → b.kind ≠ .refresh →
    exec .refreshSet s = .next { s with
      orders := { s.orders with sweep := s.orders.sweep.map fun w => { w with current := none } }
      sets := { s.sets with queue := s.sets.queue ++ [{
        kind := .refresh, index := 0, level := 0, source := .order o.slot, load := none }] } })
  ∧ (∀ (s : State) (a : SetAction) (rest : List SetAction) (d : DriveSet) (clamped : Bool),
    s.xm.wf = true → s.port.teardownPending = false → s.sets.queue = a :: rest → a.kind = .refresh →
    (∀ w o, s.orders.sweep = some w → w.current = some o → o.kind ≠ 5) → queueSlots s → voicesLawful s →
    staged a s.xm = some (d, clamped) → s.balance.run = none → d.valid = true →
    ∃ t, exec .refreshSet s = .next t
      ∧ t.sets = { s.sets with cache := some d, clamped := clamped, queue := takenUp s.sets rest }
      ∧ t.radio.request = s.radio.request
      ∧ t.port.notice.getLsbD 5 = s.port.notice.getLsbD 5
      ∧ (∀ n, a.source = .order n →
          slotDone t.xm n (if clamped then .adjusted else .ok) 0 (chainResult s.sets))
      ∧ setChangeFrame s t d (inReports s))
  ∧ (∀ (s : State) (o : TakenOrder) (top : ChainEntry), s.xm.wf = true → s.isRun = true →
    orderTaken s o → o.kind = 5 → s.port.teardownPending = false → s.sets.queue = [] →
    s.sets.chain.getLast? = some top → top.index ≤ 7 →
    (s.balance.run ≠ none →
      ∃ t, exec .refreshSet s = .next t ∧ refusedOrder s t o .busy (chainResult s.sets))
    ∧ (s.balance.run = none → s.xm.read (0xA00 + 256 * top.index) ≠ 0x5A →
      ∃ t, exec .refreshSet s = .next t ∧ refusedOrder s t o .notValid (chainResult s.sets)))
  ∧ ∀ (s : State) (o : TakenOrder) (below : List ChainEntry) (top : ChainEntry),
    s.xm.wf = true → s.isRun = true → orderTaken s o → o.kind = 5 → s.port.teardownPending = false →
    voicesLawful s →
    s.sets.queue = [] → s.balance.run = none → s.sets.chain = below ++ [top] → top.index ≤ 7 →
    s.xm.read (0xA00 + 256 * top.index) = 0x5A →
    ∃ t, exec .refreshSet s = .next t
      ∧ t.sets = { s.sets with
          cache := some (loadDriveSet s.xm (0xA00 + 256 * top.index))
          clamped := driveSetClamped s.xm (0xA00 + 256 * top.index) }
      ∧ t.radio.request = s.radio.request
      ∧ t.port.notice.getLsbD 5 = s.port.notice.getLsbD 5
      ∧ slotDone t.xm o.slot
          (if driveSetClamped s.xm (0xA00 + 256 * top.index) then .adjusted else .ok) 0
          (chainResult s.sets)
      ∧ setChangeFrame s t (loadDriveSet s.xm (0xA00 + 256 * top.index)) (inSlot o.slot)

/-- R38, R40 to R43: the first failing check gives the outcome of an action of any kind, from an order or from a SET
frame, at its decision. Nothing of chain, cache, flag, request state, bridges, sound or lamps changes: an order has its
completion write with the chain as its result, a frame its record in the radio log. The next action that waits takes up
its load; one that loads nothing (R38, R41) is refused in the same moment, as if it had arrived then, and so is every
further one up to the first that loads something. The model's choices: log 21 (where commands leave the rotation); log
24 (the first sequence number); log 26 (when a set action is decided). -/
def Obligations.RefusedSetActionChangesNothing : Prop :=
  ∀ (s : State) (a : SetAction) (rest : List SetAction) (c : Instr) (d : DriveSet) (clamped : Bool),
    s.xm.wf = true → s.port.teardownPending = false → s.sets.queue = a :: rest → queueSlots s →
    staged a s.xm = some (d, clamped) →
    (a.kind = .invoke ∧ c = .invoke ∨ a.kind = .switch ∧ c = .switch ∨ a.kind = .returnSet ∧ c = .returnSet
      ∨ a.kind = .refresh ∧ c = .refreshSet
        ∧ ∀ w o, s.orders.sweep = some w → w.current = some o → o.kind ≠ 5) →
    ∀ outcome : OutcomeCode,
    (s.balance.run ≠ none ∧ outcome = .busy
      ∨ s.balance.run = none ∧ (a.kind = .invoke ∨ a.kind = .switch)
        ∧ (d.authority < a.level ∧ outcome = .denied
          ∨ a.level ≤ d.authority ∧ d.valid = false ∧ outcome = .notValid
          ∨ a.level ≤ d.authority ∧ d.valid = true ∧ (∃ e ∈ s.sets.chain, e.index = a.index)
            ∧ outcome = .setBusy
          ∨ a.level ≤ d.authority ∧ d.valid = true ∧ (∀ e ∈ s.sets.chain, e.index ≠ a.index)
            ∧ a.kind = .invoke ∧ 4 ≤ s.sets.chain.length ∧ outcome = .chainFull)
      ∨ s.balance.run = none ∧ a.kind = .returnSet
        ∧ (s.sets.chain.length ≤ 1 ∧ outcome = .chainEmpty
          ∨ 2 ≤ s.sets.chain.length ∧ ∃ top, s.sets.cache = some top
            ∧ (top.authority < a.level ∧ outcome = .denied
              ∨ a.level ≤ top.authority ∧ d.valid = false ∧ outcome = .notValid))
      ∨ s.balance.run = none ∧ a.kind = .refresh ∧ d.valid = false ∧ outcome = .notValid) →
    ∃ u t, exec c s = .next t ∧ refusedAction s u a outcome ∧ restTakenUp rest u t
      ∧ t.sets.queue = takenUp s.sets rest

/-! ## Loads by order (chapters 7 and 9) -/

/-- R162: LOAD_LAMPS copies the entries its mask names, as they stand, or, of the words that an idle step has read
already, as they then stood (R4); a reloaded lamp starts its effect afresh, stops its open-load timer and clears its
episodes, goes dark when DISABLED, with its current code as the last completed on-time measured it, and keeps the rest;
the result holds the lamps loaded and those a clamp changed. A copy has the fields of its entry with the clamps of R161.
The model's choices: log 1 (the clock in State); log 27 (when the run state is checked); log 43 (the current code of a
cut on-time). -/
def Obligations.LoadLampsCopiesTheNamedEntries : Prop :=
  ∀ (s : State) (o : TakenOrder) (image : Memory), s.xm.wf = true → s.isRun = true → orderTaken s o →
    o.kind = 6 → image = orderImage s o →
    (o.load = none → ∀ n, n < 10 → (param16 o.params 0).testBit n = true →
      loadLamp image n = loadLamp s.xm n ∧ lampClamped image n = lampClamped s.xm n)
    ∧ (∀ (m : Memory) (n : Nat), lampRead m n (loadLamp m n) (lampClamped m n))
    ∧ ∃ t, exec .loadLamps s = .next t
      ∧ t.lamps.lamps.length = s.lamps.lamps.length
      ∧ (∀ n l, s.lamps.lamps[n]? = some l → t.lamps.lamps[n]? =
          some (if (param16 o.params 0).testBit n then
            { l with
              copy := loadLamp image n, phase := 0, flare := (loadLamp image n).level / 4
              openTimer := none, overEpisode := false, openEpisode := false
              shown := if (loadLamp image n).enabled then l.shown else 0
              output := (loadLamp image n).enabled && l.output
              onTime := if (loadLamp image n).enabled then l.onTime else 0 }
            else l))
      ∧ (∃ loaded changed : Nat,
          (∀ i, loaded.testBit i = (decide (i < 10) && (param16 o.params 0).testBit i))
          ∧ (∀ i, changed.testBit i =
              (decide (i < 10) && (param16 o.params 0).testBit i && lampClamped image i))
          ∧ slotDone t.xm o.slot
              (if 1024 ≤ param16 o.params 0 ∨ changed ≠ 0 then .adjusted else .ok) 0
              (bytes16 loaded ++ bytes16 changed))
      ∧ sameBut s.xm t.xm (inSlot o.slot)
      ∧ t = { s with
          xm := t.xm, lastGranted := .orderEngine, orders := ordersAfter s o
          port := withNotice s.port [.order]
          lamps := { s.lamps with lamps := t.lamps.lamps } }

/-- R114: LOAD_RADIO copies the radio block with the clamps of R113, as it stands, or, of the words that an idle step
has read already, as they then stood (R4), and answers the values now in force. Of a RADIO holder whose failsafe or
lapse point is so placed at or before the present, that point is taken at once, failsafe before lapse (R123): the
failsafe flag set; the lease NONE with throttle 0, the flag clear, CONTROL raised and the emergency-stop latch cleared,
the traction state being derived afresh then (R78), the bridges taking its command (R87). Nothing else changes. The
model's choices: log 18 (an entry to DRIVE within a period); log 27 (when the run state is checked); log 32 (the order
in which readers are told); log 40 (a role without a consist); log 49 (the stop mode and freewheel of a derivation after
a set change). -/
def Obligations.LoadRadioCopiesTheRadioBlock : Prop :=
  ∀ (s : State) (o : TakenOrder) (image : Memory), s.xm.wf = true → s.isRun = true → orderTaken s o →
    o.kind = 7 → voicesLawful s → image = orderImage s o →
    (o.load = none → ∀ a, 0x1380 ≤ a → a < 0x138E → image.read a = s.xm.read a)
    ∧ ∃ t, exec .loadRadio s = .next t
      ∧ radioRead image t.radio.cfg t.radio.consist
      ∧ slotDone t.xm o.slot
          (if (wordAt image 0x1380 = 0 ∨ 9999 < wordAt image 0x1380) ∨ 127 < (image.read 0x1382).toNat
              ∨ 2 < (image.read 0x1383).toNat ∨ 1 < (image.read 0x1384).toNat
              ∨ t.radio.cfg.failsafeMs ≠ wordAt image 0x1386
              ∨ t.radio.cfg.leaseMs ≠ (image.read 0x1388).toNat * 1000
            then .adjusted else .ok) 0
          (bytes16 t.radio.cfg.own
            ++ [BitVec.ofNat 8 t.radio.consist.number, t.radio.consist.role.code,
                if t.radio.consist.reversed then 1 else 0, 0]
            ++ bytes16 t.radio.cfg.failsafeMs ++ bytes16 t.radio.cfg.leaseMs
            ++ bytes16 t.radio.cfg.windowStart ++ bytes16 t.radio.cfg.windowEnd)
      ∧ (s.radio.lease.isRadio = false →
        sameBut s.xm t.xm (inSlot o.slot)
        ∧ t = { s with
            xm := t.xm, lastGranted := .orderEngine, orders := ordersAfter s o
            port := withNotice s.port [.order]
            radio := { s.radio with cfg := t.radio.cfg, consist := t.radio.consist } })
      ∧ ∀ sender cls heard, s.radio.lease = .radio sender cls heard →
        (s.clock < heard + 1024000 * t.radio.cfg.leaseMs →
          sameBut s.xm t.xm (inSlot o.slot)
          ∧ t = { s with
              xm := t.xm, lastGranted := .orderEngine, orders := ordersAfter s o
              port := withNotice s.port [.order]
              radio := { s.radio with
                cfg := t.radio.cfg, consist := t.radio.consist
                failsafe := s.radio.failsafe
                  || decide (heard + 1024000 * t.radio.cfg.failsafeMs ≤ s.clock) } })
        ∧ (heard + 1024000 * t.radio.cfg.leaseMs ≤ s.clock → s.traction.latch = false →
          sameBut s.xm t.xm (inSlot o.slot)
          ∧ t = { s with
              xm := t.xm, lastGranted := .orderEngine, orders := ordersAfter s o
              port := withNotice s.port [.control, .order]
              radio := { s.radio with
                cfg := t.radio.cfg, consist := t.radio.consist, lease := .none, failsafe := false
                request := { s.radio.request with throttle := 0 } } })
        ∧ (heard + 1024000 * t.radio.cfg.leaseMs ≤ s.clock → s.traction.latch = true →
          ∃ v, derivedAfresh { s with
              port := withNotice s.port [.control], traction := { s.traction with latch := false }
              radio := { s.radio with
                cfg := t.radio.cfg, consist := t.radio.consist, lease := .none, failsafe := false
                request := { s.radio.request with throttle := 0 } } } v
          ∧ sameBut v.xm t.xm (inSlot o.slot)
          ∧ t = { v with
              xm := t.xm, lastGranted := .orderEngine, orders := ordersAfter s o
              port := withNotice v.port [.order] })

/-! ## Orders of the sound engine, the balance sequencer and the protection (chapters 5, 6 and 8) -/

/-- R139 to R143 and R157: PLAY of a valid entry starts the named pool voice, or with the automatic code the lowest IDLE
one, or, with none IDLE, the voice of the lowest priority below the order's, the earliest started of these; from the
clip's beginning, with the given volume, pitch, repeats and priority and the next start stamp; the result is the voice
and the stamp. What the voice played is stopped, a STREAM voice's segment given back first, which raises STREAM (R159);
ORDER is raised at the end, and outside the slot and the started clip's segment byte memory is as that stop leaves it. A
STREAM entry needs its segment A FULL or FULL_LAST then, and takes it. A PLAY whose entry is not valid, or whose segment
A is not there to take, ends BAD_CLIP with the voice IDLE. PLAY of a clip above 63, or with a voice code other than 2 to
7 and FFH, ends BAD_INDEX; an automatic PLAY that finds no voice ends NO_VOICE; nothing else changes then. An entry is
valid as R139 lists. The model's choices: log 21 (where commands leave the rotation); log 27 (when the run state is
checked). -/
def Obligations.PlayStartsAVoiceOrIsRefused : Prop :=
  (∀ (m : Memory) (x : Nat), clipRead m x (loadClip m x) (loadClip m x).valid)
  ∧ (∀ (s : State) (o : TakenOrder) (n clip kind : Nat) (e : ClipEntry) (segment : Byte), s.xm.wf = true →
    s.isRun = true → orderTaken s o → o.kind = 8 → voicesLawful s → clip = param8 o.params 0 → clip ≤ 63 →
    playsOn s.sound (param8 o.params 1) (min 3 (param8 o.params 5)) n →
    e = loadClip s.xm clip → kind = e.kind → segment = (s.stopVoice n).xm.read (0x140E + 16 * clip) →
    (e.valid = true → (kind = 2 → segment = 1 ∨ segment = 2) →
      ∃ t, exec .play s = .next t
        ∧ t.sound.voices = s.sound.voices.set n {
            state := .playing, clip := clip, entry := e, position := 0
            step := max 0x40 (min 0x400 (if param16 o.params 6 = 0 then e.basePitch else param16 o.params 6))
            volume := if param16 o.params 2 ≤ 255 then param16 o.params 2 else e.volume
            envelope := 255, fadeStep := 0
            repeats := if kind = 2 then some 0 else if kind = 1 ∧ param8 o.params 4 = 0 then none
              else some (param8 o.params 4)
            priority := min 3 (param8 o.params 5), starter := .order, stamp := s.sound.startCount + 1
            lastSegment := decide (kind = 2 ∧ segment = 2) }
        ∧ (kind = 2 → t.xm.read (0x140E + 16 * clip) = 3)
        ∧ slotDone t.xm o.slot
            (if 3 < param8 o.params 5
                ∨ (param16 o.params 6 ≠ 0 ∧ (param16 o.params 6 < 0x40 ∨ 0x400 < param16 o.params 6))
                ∨ (param16 o.params 6 = 0 ∧ (e.basePitch < 0x40 ∨ 0x400 < e.basePitch))
              then .adjusted else .ok) 0
            ([BitVec.ofNat 8 n, 0] ++ bytes32 (s.sound.startCount + 1).toNat)
        ∧ sameBut s.xm t.xm (fun a => inSlot o.slot a ∨ inSegments a)
        ∧ sameBut (s.stopVoice n).xm t.xm
            (fun a => inSlot o.slot a ∨ kind = 2 ∧ a = 0x140E + 16 * clip)
        ∧ t = { s with
            xm := t.xm, lastGranted := .orderEngine, orders := ordersAfter s o
            port := withNotice (s.stopVoice n).port [.order]
            sound := { s.sound with
              voices := t.sound.voices, startCount := s.sound.startCount + 1 } })
    ∧ (e.valid = false ∨ kind = 2 ∧ segment ≠ 1 ∧ segment ≠ 2 →
      ∃ t, exec .play s = .next t
        ∧ t.sound.voices = s.sound.voices.set n { s.sound.voice n with state := .idle }
        ∧ slotDone t.xm o.slot .badClip 0 []
        ∧ sameBut s.xm t.xm (fun a => inSlot o.slot a ∨ inSegments a)
        ∧ sameBut (s.stopVoice n).xm t.xm (inSlot o.slot)
        ∧ t = { s with
            xm := t.xm, lastGranted := .orderEngine, orders := ordersAfter s o
            port := withNotice (s.stopVoice n).port [.order]
            sound := { s.sound with voices := t.sound.voices } }))
  ∧ (∀ (s : State) (n : Nat) (v : Voice), s.xm.wf = true → voicesLawful s → s.sound.voices[n]? = some v →
    (v.sounds = false ∨ v.entry.kind ≠ 2 → (s.stopVoice n).xm = s.xm ∧ (s.stopVoice n).port = s.port)
    ∧ (v.sounds = true → v.entry.kind = 2 →
      (s.stopVoice n).xm = s.xm.write
          (0x140E + 16 * v.clip + (if v.position < v.entry.length / 2 * 256 then 0 else 1)) 0
        ∧ (s.stopVoice n).port = withNotice s.port [.stream]))
  ∧ ∀ (s : State) (o : TakenOrder), s.xm.wf = true → s.isRun = true → orderTaken s o → o.kind = 8 →
    (63 < param8 o.params 0
        ∨ (param8 o.params 1 < 2 ∨ 7 < param8 o.params 1 ∧ param8 o.params 1 ≠ 255) →
      ∃ t, exec .play s = .next t ∧ refusedOrder s t o .badIndex [])
    ∧ (param8 o.params 0 ≤ 63 → param8 o.params 1 = 255 →
      (∀ n, 2 ≤ n → n ≤ 7 → (s.sound.voice n).state ≠ .idle
        ∧ min 3 (param8 o.params 5) ≤ (s.sound.voice n).priority) →
      ∃ t, exec .play s = .next t ∧ refusedOrder s t o .noVoice [])

/-- R144: HUSH acts on each named voice by its state: an IDLE voice stays, a STARVED one goes IDLE, a PLAYING or FADING
one goes IDLE at fade step 0 and else fades with that step; the result marks every voice that was not IDLE, named or
not. R159: a named voice that sounds a STREAM clip and goes IDLE gives its segment back and raises STREAM; outside the
slot no other byte changes. The model's choices: log 27 (when the run state is checked). -/
def Obligations.HushActsOnEachNamedVoice : Prop :=
  ∀ (s : State) (o : TakenOrder), s.xm.wf = true → s.isRun = true → orderTaken s o → o.kind = 9 →
    voicesLawful s →
    (param8 o.params 0 ≤ 7 ∨ param8 o.params 0 = 255 →
      ∃ t, exec .hush s = .next t
        ∧ t.sound.voices.length = 8
        ∧ (∀ k v, s.sound.voices[k]? = some v → t.sound.voices[k]? = some
            (if param8 o.params 0 = 255 ∨ param8 o.params 0 = k then
              (match v.state with
                | .idle => v
                | .starved => { v with state := .idle }
                | .playing | .fading =>
                  if param8 o.params 1 = 0 then { v with state := .idle }
                  else { v with state := .fading, fadeStep := param8 o.params 1 })
            else v))
        ∧ (∃ mask : Nat, (∀ k, mask.testBit k = (decide (k < 8)
              && decide ((s.sound.voice k).state ≠ .idle)))
            ∧ slotDone t.xm o.slot .ok 0 [BitVec.ofNat 8 mask])
        ∧ sameBut s.xm t.xm (fun a => inSlot o.slot a ∨ inSegments a)
        ∧ (∀ ended : List Voice, ended = (if param8 o.params 1 ≠ 0 then []
              else if param8 o.params 0 = 255 then s.sound.voices else [s.sound.voice (param8 o.params 0)]) →
          segmentsReleased ended s.xm t.xm (inSlot o.slot)
          ∧ t = { s with
              xm := t.xm, lastGranted := .orderEngine, orders := ordersAfter s o
              port := withNotice s.port (releaseNotice ended ++ [.order])
              sound := { s.sound with voices := t.sound.voices } }))
    ∧ (7 < param8 o.params 0 → param8 o.params 0 ≠ 255 →
      ∃ t, exec .hush s = .next t ∧ refusedOrder s t o .badIndex [])

/-- R103 to R105: a BALANCE order that passes its checks creates the run from its clamped parameters, remembers whether
a clamp changed a value (each of them, also where the duty cap brings back what the range has raised), marks the lease,
leaves its slot TAKEN, and has the stop mode handed, which each configured bridge takes (R87); memory does not change.
The first failing check gives the outcome, with nothing else changed. The model's choices: log 27 (when the run state is
checked); log 49 (the stop mode and freewheel of a derivation after a set change). -/
def Obligations.BalanceOrderCreatesTheRunOrIsRefused : Prop :=
  (∀ (s : State) (o : TakenOrder), s.isRun = true → orderTaken s o → o.kind = 10 →
    s.balance.run = none → s.motion.sensor = .ok →
    (s.radio.lease = .none ∨ ∃ mark, s.radio.lease = .onBoard mark) → s.traction.state = .stopped →
    ¬(s.tractionSet.lock = .forwardOnly ∧ param8 o.params 1 = 1) →
    ¬(s.tractionSet.lock = .reverseOnly ∧ param8 o.params 1 ≠ 1) →
    ∃ t r, exec .balance s = .next t ∧ t.balance.run = some r
      ∧ r.held = false ∧ r.slot = o.slot ∧ r.steps = max 1 (min 4 (param8 o.params 0))
      ∧ r.duties = (List.range r.steps).map (fun k =>
          min s.tractionSet.dutyCap (max 64 (min 1023 (param16 o.params (2 + 2 * k)))))
      ∧ r.holdTime = max 1 (min 20 (param8 o.params 10))
      ∧ r.direction = (if param8 o.params 1 = 1 then .reverse else .forward)
      ∧ r.step = 1 ∧ r.driving = false ∧ r.period = 0 ∧ r.sum = 0 ∧ r.count = 0 ∧ r.rates = []
      ∧ r.heldTimer = none
      ∧ (r.adjusted = true ↔ param8 o.params 0 < 1 ∨ 4 < param8 o.params 0
          ∨ (∃ k, k < r.steps ∧ (param16 o.params (2 + 2 * k) < 64 ∨ 1023 < param16 o.params (2 + 2 * k)
            ∨ s.tractionSet.dutyCap < max 64 (min 1023 (param16 o.params (2 + 2 * k)))))
          ∨ param8 o.params 10 < 1 ∨ 20 < param8 o.params 10 ∨ 1 < param8 o.params 1)
      ∧ t.traction.state = .balance
      ∧ t.bridges.held = (match s.tractionSet.stopMode with
          | .brake => .brake
          | .coast => .coast)
      ∧ bridgesTaken s.clock s.bridges t.bridges
      ∧ t = { s with
          orders := { s.orders with sweep := s.orders.sweep.map fun w => { w with current := none } }
          port := withNotice s.port (if s.radio.lease = .none then [.control] else [])
          traction := { s.traction with
            state := .balance, lowest := min s.traction.lowest t.bridges.drivenDuty }
          bridges := { s.bridges with held := t.bridges.held, a := t.bridges.a, b := t.bridges.b }
          balance := { run := some r }
          radio := { s.radio with lease := .onBoard true } })
  ∧ ∀ (s : State) (o : TakenOrder), s.xm.wf = true → s.isRun = true → orderTaken s o → o.kind = 10 →
    (s.balance.run ≠ none → ∃ t, exec .balance s = .next t ∧ refusedOrder s t o .busy [])
    ∧ (s.balance.run = none → s.motion.sensor ≠ .ok →
      ∃ t, exec .balance s = .next t ∧ refusedOrder s t o .noSensor [])
    ∧ (s.balance.run = none → s.motion.sensor = .ok →
      (∃ sender cls heard, s.radio.lease = .radio sender cls heard) →
      ∃ t, exec .balance s = .next t ∧ refusedOrder s t o .notHolder [])
    ∧ (s.balance.run = none → s.motion.sensor = .ok →
      (s.radio.lease = .none ∨ ∃ mark, s.radio.lease = .onBoard mark) → s.traction.state ≠ .stopped →
      ∃ t, exec .balance s = .next t ∧ refusedOrder s t o .notStopped [])
    ∧ (s.balance.run = none → s.motion.sensor = .ok →
      (s.radio.lease = .none ∨ ∃ mark, s.radio.lease = .onBoard mark) → s.traction.state = .stopped →
      (s.tractionSet.lock = .forwardOnly ∧ param8 o.params 1 = 1
        ∨ s.tractionSet.lock = .reverseOnly ∧ param8 o.params 1 ≠ 1) →
      ∃ t, exec .balance s = .next t ∧ refusedOrder s t o .denied [])

/-- R109: HOLD_BALANCE holds a running run, discards the step begun, starts the 60 s timer, writes HELD into the run's
slot and has the stop mode handed, which each configured bridge takes (R87); RESUME_BALANCE resumes a held run and
writes TAKEN; the timer's expiry ends the run ABORTED (R108): its slot is DONE, the lease NONE, the throttle, c, I and u
0, and the traction state derived afresh, the bridges taking its command. Either order ends NO_RUN otherwise. The
model's choices: log 1 (the clock in State); log 18 (an entry to DRIVE within a period); log 30 (what a hold leaves);
log 49 (the stop mode and freewheel of a derivation after a set change). -/
def Obligations.BalanceRunsAreHeldAndResumed : Prop :=
  (∀ (s : State) (o : TakenOrder) (r : BalanceRun), s.xm.wf = true → s.isRun = true → orderTaken s o →
    s.balance.run = some r → r.slot < 32 → r.slot ≠ o.slot →
    (o.kind = 11 → r.held = false →
      ∃ t, exec .holdBalance s = .next t
        ∧ slotDone t.xm o.slot .ok 0 [] ∧ t.xm.read (slotBase r.slot) = 4
        ∧ sameBut s.xm t.xm (fun a => inSlot o.slot a ∨ a = slotBase r.slot)
        ∧ t.bridges.held = stopCommand s.tractionSet
        ∧ bridgesTaken s.clock s.bridges t.bridges
        ∧ t = { s with
            xm := t.xm, lastGranted := .orderEngine, orders := ordersAfter s o
            port := withNotice s.port [.order]
            traction := { s.traction with
              u := 0, lowest := min s.traction.lowest t.bridges.drivenDuty }
            bridges := { s.bridges with held := t.bridges.held, a := t.bridges.a, b := t.bridges.b }
            balance := { run := some { r with
              held := true, driving := false, period := 0, sum := 0, count := 0
              heldTimer := some (s.clock + 60000 * 1024000) } } })
    ∧ (o.kind = 12 → r.held = true →
      ∃ t, exec .resumeBalance s = .next t
        ∧ slotDone t.xm o.slot .ok 0 [] ∧ t.xm.read (slotBase r.slot) = 2
        ∧ sameBut s.xm t.xm (fun a => inSlot o.slot a ∨ a = slotBase r.slot)
        ∧ t = { s with
            xm := t.xm, lastGranted := .orderEngine, orders := ordersAfter s o
            port := withNotice s.port [.order]
            balance := { run := some { r with held := false, heldTimer := none } } })
    ∧ (o.kind = 11 → r.held = true →
      ∃ t, exec .holdBalance s = .next t ∧ refusedOrder s t o .noRun [])
    ∧ (o.kind = 12 → r.held = false →
      ∃ t, exec .resumeBalance s = .next t ∧ refusedOrder s t o .noRun []))
  ∧ (∀ (s : State) (o : TakenOrder), s.xm.wf = true → s.isRun = true → orderTaken s o →
    s.balance.run = none →
    (o.kind = 11 → ∃ t, exec .holdBalance s = .next t ∧ refusedOrder s t o .noRun [])
    ∧ (o.kind = 12 → ∃ t, exec .resumeBalance s = .next t ∧ refusedOrder s t o .noRun []))
  ∧ ∀ (s : State) (r : BalanceRun) (due : Nat), s.xm.wf = true → s.balance.run = some r →
    r.heldTimer = some due → r.slot < 32 → voicesLawful s →
    ∃ t, exec .balanceHeldTimerExpiry s = .next t
      ∧ runEnded t r .aborted
      ∧ runCloses { s with clock := max s.clock due } t r .aborted 0

/-- R98, R99, R173, R179 and R182: CLEAR_FAULTS, in QUIET as in RUN, acts on every indication its mask names and leaves
the others; its result holds the indications released and those still set. A bridge that leaves LATCHED takes the
command held, DRIVE from the next PWM period on, its short-run count being 0; its departure is reported, the traction
state derived afresh (R97) and the command handed; one that is not LATCHED has its short-run count set to 0. The
model's choices: log 18 (an entry to DRIVE within a period); log 27 (when the run state is checked); log 42 (the order
of a fault mask); log 44 (the open-load timer at a clear); log 49 (the stop mode and freewheel of a derivation after a
set change); log 51 (when a fan duty reaches SMF). -/
def Obligations.ClearFaultsActsOnTheNamedFaults : Prop :=
  ∀ (s : State) (o : TakenOrder) (mask : Nat), s.xm.wf = true → orderTaken s o → o.kind = 13 →
    mask = param32 o.params 0 →
    ∃ t, exec .clearFaults s = .next t
      ∧ (t.bridges.a.state = .latched ↔ s.bridges.a.state = .latched ∧ mask.testBit 0 = false)
      ∧ (t.bridges.b.state = .latched ↔ s.bridges.b.state = .latched ∧ mask.testBit 1 = false)
      ∧ (∀ n l, s.lamps.lamps[n]? = some l → t.lamps.lamps[n]? = some
          (if mask.testBit (n + 2) then
            { l with
              latched := .none, retry := none, overEpisode := false, openEpisode := false
              openTimer := none }
          else l))
      ∧ t.lamps.heater = (if mask.testBit 12 = true ∧ s.lamps.heater.latched = true then
          { s.lamps.heater with
            noHeat := false, dry := false, sensor := false, preheat := 0
            state := if s.lamps.heater.state = .dry then .off else s.lamps.heater.state }
          else s.lamps.heater)
      ∧ t.lamps.fan = (if s.lamps.fan.state = .latched ∧ mask.testBit 13 = true then
          (if s.lamps.heater.state = .regulate then
            { s.lamps.fan with state := .run, fast := decide (t.traction.c ≠ 0) }
          else { s.lamps.fan with state := .off })
        else s.lamps.fan)
      ∧ (∃ cleared still : Nat,
          (∀ k, cleared.testBit k = (decide (k < 14) && latchedBit s k && !latchedBit t k))
          ∧ (∀ k, still.testBit k = (decide (k < 14) && latchedBit t k))
          ∧ slotDone t.xm o.slot (if mask < 16384 then .ok else .adjusted) 0
              (bytes16 cleared ++ bytes16 still))
      ∧ (s.bridges.a.state ≠ .latched → s.bridges.b.state ≠ .latched →
          sameBut s.xm t.xm (inSlot o.slot) ∧ t.traction = s.traction ∧ t.radio = s.radio
            ∧ t.sound = s.sound ∧ t.status = s.status)
      ∧ (voicesLawful s → (s.bridges.cfg.mode = .single → s.bridges.b.state = .off) →
        ∃ u v : State,
          (if mask.testBit 0 then bridgeCleared s u .a else u = s)
          ∧ (if mask.testBit 1 then bridgeCleared u v .b else v = u)
          ∧ sameBut v.xm t.xm (inSlot o.slot)
          ∧ sameBut s.xm t.xm (fun a => inSlot o.slot a ∨ inSegments a)
          ∧ t = { v with
              xm := t.xm, lastGranted := .orderEngine, orders := ordersAfter s o
              port := withNotice v.port [.order]
              lamps := { v.lamps with
                lamps := t.lamps.lamps, heater := t.lamps.heater, fan := t.lamps.fan } })
      ∧ t.orders = ordersAfter s o ∧ t.sets = s.sets ∧ t.motion = s.motion ∧ t.balance = s.balance
      ∧ t.supply = s.supply ∧ t.timers = s.timers ∧ t.clock = s.clock

/-! ## Motion unit and traction controller (chapters 3 and 4) -/

/-- R48 to R50, R53, R56: an edge that is not selected changes nothing; a selected one less than 100 us after the last
accepted edge is bounce and changes nothing; any other is accepted: reference, period ring, m, p, stall timer, loss
count and, in LOST, the recovery count. The stall expiry empties ring, m and reference. The clock moves to the
edge's capture time as log 29 says; the edge comes before a stall expiry that is not yet due. The model's choices:
log 29 (the moment of an edge). -/
def Obligations.AxleEdgesAreTakenOrIgnored : Prop :=
  (∀ (s : State) (rising : Bool) (time : BitVec 32),
    (s.motion.cfg.magnets = 0 ∨ s.motion.cfg.edge = .rise ∧ rising = false
      ∨ s.motion.cfg.edge = .fall ∧ rising = true) →
    exec (.axleEdge rising time) s = .next s)
  ∧ (∀ (s : State) (rising : Bool) (time : BitVec 32), s.motion.cfg.magnets ≠ 0 →
    (s.motion.cfg.edge = .both ∨ s.motion.cfg.edge = .rise ∧ rising = true
      ∨ s.motion.cfg.edge = .fall ∧ rising = false) →
    (∀ due, s.motion.stall = some due → captureMoment s time ≤ due) →
    (∀ e, s.motion.lastEdge = some e → (time - e).toNat < 100 → exec (.axleEdge rising time) s = .next s)
    ∧ ((∀ e, s.motion.lastEdge = some e → 100 ≤ (time - e).toNat) →
      ∃ t, exec (.axleEdge rising time) s = .next t
        ∧ (∀ e, s.motion.lastEdge = some e →
            t.motion.ring = (if s.motion.cfg.magnets ≤ s.motion.ring.length then s.motion.ring.drop 1
              else s.motion.ring) ++ [(time - e).toNat]
            ∧ t.motion.m = min 65535 (16000000 * t.motion.ring.length / t.motion.ring.sum))
        ∧ (s.motion.lastEdge = none → t.motion.ring = s.motion.ring ∧ t.motion.m = s.motion.m)
        ∧ (s.motion.sensor = .lost →
            if s.motion.recovery + 1 < 2 * s.motion.cfg.magnets then
              t.motion.sensor = .lost ∧ t.motion.recovery = s.motion.recovery + 1
                ∧ t.motion.mark = s.motion.mark
            else t.motion.sensor = .ok ∧ t.motion.recovery = 0 ∧ t.motion.mark = true)
        ∧ (s.motion.sensor ≠ .lost → t.motion.sensor = s.motion.sensor
            ∧ t.motion.recovery = s.motion.recovery ∧ t.motion.mark = s.motion.mark)
        ∧ t = { s with
            clock := max s.clock (captureMoment s time)
            motion := { s.motion with
              lastEdge := some time, ring := t.motion.ring, m := t.motion.m
              p := if s.motion.p + 1 < s.motion.cfg.magnets then s.motion.p + 1 else 0
              sensor := t.motion.sensor, loss := 0, recovery := t.motion.recovery
              stall := some (captureMoment s time + 1024000 * s.motion.cfg.window)
              mark := t.motion.mark, edgeSinceStep := true } }))
  ∧ ∀ (s : State) (due : Nat), s.motion.stall = some due →
    exec .stallTimerExpiry s = .next { s with
      clock := max s.clock due
      motion := { s.motion with
        m := 0, ring := [], lastEdge := none, stall := none
        mark := s.motion.mark || decide (s.motion.sensor = .ok) } }

/-- R62 and R63: at throttle h the curve is read between C_k and C_(k+1), k = h div 32, with f = h mod 32, the quotient
truncated toward zero; at every regulation step in RUN outside BALANCE the target is the smallest of that value, the
maximum rate of the cached set and the cap of a present zone record, or 0 where R64 forces it. -/
def Obligations.TargetFollowsTheCurveUnderTheCaps : Prop :=
  (∀ (curve : List Nat) (h : Nat), h < 256 →
    (rawTarget curve h : Int) = curvePoint curve (h / 32)
      + (((curvePoint curve (h / 32 + 1) : Int) - curvePoint curve (h / 32)) * (h % 32 : Nat)).tdiv 32
    ∧ curvePoint curve 0 = 0 ∧ curvePoint curve (h / 32 + 1) = curve.getD (h / 32) 0
    ∧ min (curvePoint curve (h / 32)) (curvePoint curve (h / 32 + 1)) ≤ rawTarget curve h
    ∧ rawTarget curve h ≤ max (curvePoint curve (h / 32)) (curvePoint curve (h / 32 + 1))
    ∧ rawTarget curve 0 = 0
    ∧ (rawTarget curve 255 : Int) = (curve.getD 6 0 : Nat)
        + ((((curve.getD 7 0 : Nat) : Int) - (curve.getD 6 0 : Nat)) * 31).tdiv 32)
  ∧ ∀ (s : State) (d : DriveSet), s.isRun = true → s.balance.run = none → s.sets.cache = some d →
    ∃ t, exec .regulationStep s = .next t
      ∧ t.traction.t ≤ d.traction.maxRate
      ∧ (s.radio.zone.present = true → t.traction.t ≤ s.radio.zone.cap)
      ∧ t.traction.t =
        (if s.radio.request.throttle = 0 ∨ s.radio.failsafe = true ∨ s.radio.station ≠ .none
            ∨ s.radio.request.direction ≠ s.traction.direction
            ∨ (d.traction.lock = .forwardOnly ∧ s.radio.request.direction = .reverse)
            ∨ (d.traction.lock = .reverseOnly ∧ s.radio.request.direction = .forward)
            ∨ s.traction.latch = true then 0
          else min (rawTarget d.traction.curve s.radio.request.throttle)
            (min d.traction.maxRate (if s.radio.zone.present then s.radio.zone.cap else 65535)))
      ∧ t.radio.request = s.radio.request ∧ t.sets = s.sets

/-- R65 to R75, R80, R81: a regulation step in RUN outside BALANCE. With a bridge in service and a shed level below 4, c
moves toward t by A or D; the duty comes from the regulator when the sensor is OK and from c and G otherwise; the state
and its command follow. HELD keeps c and FAULTED clears it, with duty 0 under COAST. Each configured bridge takes the
command handed: nothing of an equal one or while LATCHED, from DRIVE to DRIVE at the next PWM period, any other at once
(R87, R88); the duty handed is the first of the next applied duty. The zero-hold count counts, and a pending change
flips at rest. An entry to STOPPED begins the dwell of a station stop (R134), and the start clip or the stop clip sounds
as the state changes (R155). The model's choices: log 1 (the clock in State); log 11 (loss detection before the inputs);
log 18 (an entry to DRIVE within a period); log 19 (limits of a duty at its handing); log 49 (the stop mode and
freewheel of a derivation after a set change); log 50 (the first step after an entry to RUN under shed). -/
def Obligations.RegulationStepRampsAndRegulates : Prop :=
  ∀ (s : State) (d : DriveSet), s.isRun = true → s.balance.run = none → s.sets.cache = some d →
    ∃ t, exec .regulationStep s = .next t
      ∧ (s.bridges.allLatched = false → s.supply.shed < 4 →
        t.traction.c =
            (if s.traction.c < t.traction.t then
              (if d.traction.accel = 0 then t.traction.t
                else min t.traction.t (s.traction.c + d.traction.accel))
            else if d.traction.decel = 0 then t.traction.t
            else max t.traction.t (s.traction.c - d.traction.decel))
        ∧ (t.traction.c = 0 ∨ t.motion.sensor ≠ .ok → t.traction.i = 0)
        ∧ (t.traction.c = 0 → t.traction.u = 0)
        ∧ (t.motion.sensor ≠ .ok →
            t.traction.u = min d.traction.dutyCap (t.traction.c * d.traction.gain / 65536))
        ∧ (0 < t.traction.c → t.motion.sensor = .ok →
            ∀ e : Int, e = (t.traction.c : Int) - t.motion.m →
            ∀ i : Nat, i = (if s.traction.lastSensor = .ok then s.traction.i else s.traction.prev * 1024) →
            t.traction.i =
              (if (0 < e ∧ (s.traction.prev = 1023 ∨ d.traction.dutyCap ≤ s.traction.prev
                    ∨ (s.bridges.a.chopRunning = true ∧ s.bridges.a.state ≠ .latched)
                    ∨ (s.bridges.b.chopRunning = true ∧ s.bridges.b.state ≠ .latched)))
                  ∨ (e < 0 ∧ s.traction.prev = 0) then i
                else (max 0 (min 1047552 ((i : Int) + d.traction.ki * e))).toNat)
            ∧ (t.traction.u : Int) = max 0 (min (d.traction.dutyCap : Int)
                (((d.traction.kp : Int) * e).tdiv 64 + (t.traction.i / 1024 : Nat))))
        ∧ t.traction.state = (if s.traction.latch then .estop else if t.traction.pending then .reversing
            else if 0 < t.traction.c ∨ 0 < t.motion.m then .running else .stopped)
        ∧ (s.traction.latch = false → t.traction.pending = true ∨ 0 < t.traction.c ∨ 0 < t.motion.m →
            t.bridges.held = .drive {
              duty := t.traction.u, direction := t.traction.direction
              freewheel := d.traction.freewheel })
        ∧ (s.traction.latch = true → t.bridges.held = .brake)
        ∧ (t.traction.state = .stopped → t.bridges.held = stopCommand d.traction))
      ∧ (s.bridges.allLatched = false → 4 ≤ s.supply.shed →
        t.traction.c = s.traction.c ∧ t.traction.i = 0 ∧ t.traction.u = 0 ∧ t.traction.state = .held
          ∧ t.bridges.held = .coast)
      ∧ (s.bridges.allLatched = true →
        t.traction.c = 0 ∧ t.traction.i = 0 ∧ t.traction.u = 0 ∧ t.traction.state = .faulted
          ∧ t.bridges.held = .coast)
      ∧ t.traction.zeroHold = (if t.traction.c = 0 then min 64 (s.traction.zeroHold + 1) else 0)
      ∧ (if s.radio.request.direction ≠ s.traction.direction ∧ t.traction.c = 0
            ∧ (t.motion.sensor = .ok ∧ t.motion.m = 0
              ∨ t.motion.sensor ≠ .ok ∧ 64 ≤ t.traction.zeroHold) then
          t.traction.direction = s.radio.request.direction ∧ t.traction.pending = false
        else t.traction.direction = s.traction.direction
          ∧ (t.traction.pending = true ↔ s.radio.request.direction ≠ s.traction.direction))
      ∧ t.traction.prev = t.traction.u ∧ t.traction.lastSensor = t.motion.sensor
      ∧ bridgesTaken t.clock (chopsTurned s.bridges) t.bridges ∧ t.traction.lowest = t.bridges.drivenDuty
      ∧ t.radio.station = stationThen s.radio.station t.clock s.traction.state t.traction.state
      ∧ (s.xm.wf = true → voicesLawful s → sameBut s.xm t.xm inSegments
        ∧ ∀ u, u = (if s.motion.sensor = .ok ∧ t.motion.sensor ≠ .ok then { s with
            port := withNotice s.port [.fault]
            status := { s.status with faultCount := s.status.faultCount + 1 } } else s) →
          ∃ v : State, clipsOfChange u v s.traction.state t.traction.state
            ∧ t.sound = v.sound ∧ t.xm = v.xm ∧ t.port = v.port ∧ t.status = v.status)
      ∧ t = { s with
          clock := max s.clock s.timers.regulation
          xm := t.xm
          port := { s.port with notice := t.port.notice }
          status := { s.status with faultCount := t.status.faultCount }
          timers := { s.timers with regulation := t.clock + 8 * 1024000 }
          motion := { s.motion with
            m := t.motion.m, sensor := t.motion.sensor, loss := t.motion.loss
            recovery := t.motion.recovery, phi := t.motion.phi, mark := t.motion.mark
            edgeSinceStep := false }
          traction := { t.traction with latch := s.traction.latch }
          bridges := { s.bridges with held := t.bridges.held, a := t.bridges.a, b := t.bridges.b }
          radio := { s.radio with station := t.radio.station }
          sound := t.sound }

/-- R66, R67 and R84: a regulation step in QUIET holds t, c, I and u at 0 under OFF, which each configured bridge takes
(R87), sets no change pending and counts the zero-hold count on. R52 and R54: at a regulation step, in a balance run as
outside one, m decays with the time since the last accepted edge; in OK, with 256 or more applied over the whole period
and no edge since the step before, the loss count rises, and at 250 the sensor is LOST with a SENSOR fault; in NONE and
LOST the state stays. R58 and R59: at the loss phi is set from p, and the jump mark is set. The model's choices: log 1
(the clock in State); log 11 (loss detection before the inputs). -/
def Obligations.RegulationStepDecaysTheRateAndFindsTheLoss : Prop :=
  ∀ s : State,
    ∃ t, exec .regulationStep s = .next t
      ∧ (s.isRun = false →
          t.traction.t = 0 ∧ t.traction.c = 0 ∧ t.traction.i = 0 ∧ t.traction.u = 0
          ∧ t.traction.pending = false ∧ t.traction.direction = s.traction.direction
          ∧ t.traction.zeroHold = min 64 (s.traction.zeroHold + 1)
          ∧ t.traction.lastSensor = t.motion.sensor
          ∧ t.traction.state = .quiet ∧ t.bridges.held = .off
          ∧ bridgesTaken t.clock (chopsTurned s.bridges) t.bridges
          ∧ t.bridges = { s.bridges with held := .off, a := t.bridges.a, b := t.bridges.b }
          ∧ t.traction.lowest = 0)
      ∧ (∀ edge, s.motion.lastEdge = some edge →
          ∀ e : Nat, e = (BitVec.ofNat 32 (t.clock / 1024) - edge).toNat →
          t.motion.m =
            (if s.motion.ring = [] ∨ s.motion.cfg.window * 1000 ≤ e then 0
              else if s.motion.ring.getLastD 0 < e then
                min (min 65535 (16000000 * s.motion.ring.length / s.motion.ring.sum)) (16000000 / e)
              else min 65535 (16000000 * s.motion.ring.length / s.motion.ring.sum)))
      ∧ (s.motion.ring = [] → t.motion.m = 0)
      ∧ (s.motion.sensor ≠ .ok → t.motion.sensor = s.motion.sensor ∧ t.motion.loss = s.motion.loss
          ∧ t.motion.mark = s.motion.mark ∧ t.motion.phi = s.motion.phi)
      ∧ (s.motion.sensor = .ok →
          ∀ applied : Nat, applied = (if s.isRun then s.traction.lowest else 0) →
          ∀ n : Nat, n = (if applied < 256 then 0
            else if s.motion.edgeSinceStep then s.motion.loss else s.motion.loss + 1) →
          (n < 250 → t.motion.sensor = .ok ∧ t.motion.loss = n ∧ t.motion.mark = s.motion.mark
            ∧ t.motion.phi = s.motion.phi)
          ∧ (250 ≤ n → t.motion.sensor = .lost ∧ t.motion.loss = 0 ∧ t.motion.recovery = 0
            ∧ t.motion.mark = true ∧ t.port.notice.getLsbD 3 = true
            ∧ (s.motion.ring = [] → t.motion.phi
                = s.motion.p * 256 / s.motion.cfg.magnets * 4000 * s.motion.cfg.magnets)))

/-- R82, R106 and R107: a regulation step during a balance run. The step at which the sensor is lost (R54) ends the run
FAILED_SENSOR (R108, R110: slot, lease, throttle, and the traction state derived afresh with the command its bridges
take) and goes on without it, at rest. At every other, t, c, I and the zero-hold count are 0, no change is pending and
the actual direction is the run's. A HELD run keeps its record under the stop mode. A RUNNING one begins its step, with
the step written into its slot, or counts a period, m being added in the measure half; after N periods the next step
begins, and the last one ends the run with its rates and G in the slot, the lease NONE and the throttle 0, before the
step derives its own state (R75). While it drives, the command is DRIVE at the step's duty as R76 limits it. The model's
choices: log 1 (the clock in State); log 11 (loss detection before the inputs); log 18 (an entry to DRIVE within a
period); log 19 (limits of a duty at its handing); log 49 (the stop mode and freewheel of a derivation after a set
change). -/
def Obligations.BalanceRunsWorkAtTheRegulationStep : Prop :=
  ∀ (s : State) (r : BalanceRun), s.xm.wf = true → s.isRun = true → s.balance.run = some r → r.slot < 32 →
    voicesLawful s →
    ∀ lost : Bool, lost = (decide (s.motion.sensor = .ok) && decide (256 ≤ s.traction.lowest)
      && decide (250 ≤ if s.motion.edgeSinceStep then s.motion.loss else s.motion.loss + 1)) →
    (lost = true → ∃ t, exec .regulationStep s = .next t
      ∧ runEnded t r .failedSensor ∧ t.motion.sensor = .lost ∧ t.port.notice.getLsbD 3 = true
      ∧ t.traction.t = 0 ∧ t.traction.c = 0 ∧ t.traction.i = 0 ∧ t.traction.u = 0 ∧ t.traction.prev = 0
      ∧ t.traction.latch = s.traction.latch
      ∧ (if s.bridges.allLatched = true then t.traction.state = .faulted ∧ t.bridges.held = .coast
        else if 4 ≤ s.supply.shed then t.traction.state = .held ∧ t.bridges.held = .coast
        else if s.traction.latch = true then t.traction.state = .estop ∧ t.bridges.held = .brake
        else t.traction.state = (if t.traction.pending = true then .reversing
          else if 0 < t.motion.m then .running else .stopped))
      ∧ sameBut s.xm t.xm (fun a => inSlot r.slot a ∨ inSegments a)
      ∧ (∃ v w : State, v = { s with
            clock := t.clock, timers := t.timers, port := withNotice s.port [.fault]
            status := { s.status with faultCount := s.status.faultCount + 1 }
            motion := v.motion, bridges := chopsTurned s.bridges }
          ∧ runCloses v w r .failedSensor 0 ∧ stepEnded w t)
      ∧ t = { s with
          clock := max s.clock s.timers.regulation, xm := t.xm, lastGranted := .orderEngine
          port := { s.port with notice := t.port.notice }
          orders := { s.orders with held := s.orders.held.filter fun k => decide (k ≠ r.slot) }
          status := { s.status with faultCount := t.status.faultCount }
          timers := { s.timers with regulation := t.clock + 8 * 1024000 }
          motion := t.motion, traction := t.traction, balance := { run := none }
          bridges := { s.bridges with held := t.bridges.held, a := t.bridges.a, b := t.bridges.b }
          radio := { s.radio with
            lease := .none, failsafe := false, request := { s.radio.request with throttle := 0 }
            station := t.radio.station }
          sound := t.sound })
    ∧ (lost = false → ∀ drive : Nat → Command, drive = (fun k => .drive {
      duty := if 4 ≤ s.supply.shed ∨ s.traction.latch = true then 0
        else min s.tractionSet.dutyCap (r.duties.getD (k - 1) 0)
      direction := r.direction, freewheel := s.tractionSet.freewheel }) →
    ∃ t, exec .regulationStep s = .next t
      ∧ t.traction.t = 0 ∧ t.traction.c = 0 ∧ t.traction.i = 0 ∧ t.traction.zeroHold = 0
      ∧ t.traction.pending = false ∧ t.traction.direction = r.direction ∧ t.traction.latch = s.traction.latch
      ∧ (t.balance.run ≠ none → t.traction.state = .balance ∧ t.radio = s.radio ∧ t.port = s.port
          ∧ t.sound = s.sound ∧ t.orders = s.orders ∧ t.status = s.status
          ∧ stepEnded { s with
              clock := t.clock, timers := t.timers, xm := t.xm, lastGranted := t.lastGranted
              balance := t.balance, bridges := chopsTurned s.bridges } t)
      ∧ (r.held = true → t.balance.run = some r ∧ t.xm = s.xm ∧ t.bridges.held = stopCommand s.tractionSet
          ∧ t.traction.u = 0)
      ∧ (r.held = false → r.driving = false →
          t.balance.run = some { r with driving := true, period := 0, sum := 0, count := 0, written := r.step }
          ∧ t.xm.read (slotBase r.slot + 0x29) = BitVec.ofNat 8 r.step
          ∧ sameBut s.xm t.xm (fun a => a = slotBase r.slot + 0x29) ∧ t.bridges.held = drive r.step)
      ∧ (r.held = false → r.driving = true →
          ∀ j, j = r.period + 1 →
          ∀ sum, sum = (if 125 * r.holdTime / 2 < j then r.sum + t.motion.m else r.sum) →
          ∀ count, count = (if 125 * r.holdTime / 2 < j then r.count + 1 else r.count) →
          ∀ rates, rates = r.rates ++ [sum / count] →
          (j < 125 * r.holdTime →
            t.balance.run = some { r with period := j, sum := sum, count := count } ∧ t.xm = s.xm
              ∧ t.bridges.held = drive r.step)
          ∧ (125 * r.holdTime ≤ j → r.step < r.steps →
            t.balance.run = some { r with
              step := r.step + 1, period := 0, sum := 0, count := 0, rates := rates, written := r.step + 1 }
            ∧ t.xm.read (slotBase r.slot + 0x29) = BitVec.ofNat 8 (r.step + 1)
            ∧ sameBut s.xm t.xm (fun a => a = slotBase r.slot + 0x29) ∧ t.bridges.held = drive (r.step + 1))
          ∧ (125 * r.holdTime ≤ j → r.steps ≤ r.step →
            ∀ gains, gains = (r.duties.zip rates).filterMap (fun p =>
              if p.2 = 0 then none else some (p.1 * 65536 / p.2)) →
            ∀ g, g = (if gains = [] then 0 else gains.sum / gains.length) →
            ∀ outcome, outcome = (if rates.all (fun x => decide (x = 0)) then .failedNoMotion
              else if r.adjusted = true ∨ 65535 < g then .adjusted else .ok) →
            t.balance.run = none ∧ t.radio.lease = .none ∧ t.radio.request.throttle = 0 ∧ t.traction.u = 0
            ∧ (∃ w : State, runCloses { s with
                  clock := t.clock, timers := t.timers, motion := t.motion, bridges := chopsTurned s.bridges
                  traction := { s.traction with
                    t := 0, c := 0, i := 0, zeroHold := 0, pending := false, direction := r.direction
                    lastM := t.motion.m } } w { r with rates := rates } outcome (min 65535 g)
                ∧ stepEnded w t)
            ∧ slotDone t.xm r.slot outcome r.written
                ((List.range 4).flatMap (fun k => bytes16 (rates.getD k 0)) ++ bytes16 (min 65535 g)
                  ++ (List.range 4).flatMap (fun k => bytes16 (r.duties.getD k 0))
                  ++ [BitVec.ofNat 8 r.holdTime, BitVec.ofNat 8 rates.length])
            ∧ t.port.notice.getLsbD 0 = true ∧ t.port.notice.getLsbD 5 = true
            ∧ sameBut s.xm t.xm (fun a => inSlot r.slot a ∨ inSegments a)))
      ∧ t.sets = s.sets ∧ t.supply = s.supply ∧ t.lamps = s.lamps ∧ t.clock = max s.clock s.timers.regulation
      ∧ t.timers = { s.timers with regulation := t.clock + 8 * 1024000 })

/-- R67 and R82: the actual direction changes at a regulation step at which c is 0, and at no other command but a reset.
-/
def Obligations.DirectionChangesOnlyAtRest : Prop :=
  ∀ (i : Instr) (s t : State), exec i s = .next t → t.traction.direction ≠ s.traction.direction →
    (i = .regulationStep ∧ t.traction.c = 0)
    ∨ ((i = .powerReset ∨ i = .brownoutReset ∨ i = .softReset)
        ∧ t.traction.direction = .forward ∧ t.traction.c = 0)

/-! ## Bridge unit (chapter 5) -/

/-- R88, R89, R93 and R95: under a DRIVE command the PWM timer begins a period on each bridge in DRIVE with the values
held: the on-phase of duty x 50 us / 1024 asks for the gates of the direction, at duty 0 the off-phase asks for
those of the freewheel; a period without a detection clears the short-run count. A bridge out of DRIVE is left as it
is. The end of an on-phase begins the off-phase. The model's choices: log 1 (the clock in State); log 18 (an entry
to DRIVE within a period). -/
def Obligations.PwmPeriodsDivideIntoPhases : Prop :=
  (∀ (s : State) (p : DriveParams), s.bridges.held = .drive p →
    ∃ t, exec .pwmPeriod s = .next t
      ∧ (∀ id, (s.bridges.get id).state ≠ .drive → t.bridges.get id = s.bridges.get id)
      ∧ (∀ id, (s.bridges.get id).state = .drive →
        ∀ b, b = t.bridges.get id →
          gatesWithin b.gates b.asked
          ∧ b.asked = (if p.duty = 0 then
              (match p.freewheel with
                | .slow => { high1 := false, low1 := true, high2 := false, low2 := true }
                | .fast => { high1 := false, low1 := false, high2 := false, low2 := false })
            else
              (match p.direction with
                | .forward => { high1 := true, low1 := false, high2 := false, low2 := true }
                | .reverse => { high1 := false, low1 := true, high2 := true, low2 := false }))
          ∧ b = { s.bridges.get id with
              gates := b.gates, asked := b.asked, offAt := b.offAt
              phase := if p.duty = 0 then .offPhase else .onPhase
              params := p, periodStart := t.clock
              onEnd := if p.duty = 0 then none else some (t.clock + p.duty * 50)
              conduct := b.conduct, blanking := b.blanking, chopArmed := false, detected := false
              shortRun := if (s.bridges.get id).detected then (s.bridges.get id).shortRun else 0 })
      ∧ t = { s with
          clock := max s.clock s.timers.pwm
          timers := { s.timers with pwm := t.clock + 50 * 1024 }
          bridges := { s.bridges with a := t.bridges.a, b := t.bridges.b } })
  ∧ (∀ s : State, (s.bridges.held = .off ∨ s.bridges.held = .brake ∨ s.bridges.held = .coast) →
    exec .pwmPeriod s = .next { s with
      clock := max s.clock s.timers.pwm
      timers := { s.timers with pwm := max s.clock s.timers.pwm + 50 * 1024 } })
  ∧ ∀ (s : State) (id : BridgeId) (e : Nat), (s.bridges.get id).onEnd = some e →
    ∃ t, exec (.onPhaseEnd id) s = .next t
      ∧ (∀ b, b = t.bridges.get id →
        gatesWithin b.gates b.asked
        ∧ b.asked = (match (s.bridges.get id).params.freewheel with
            | .slow => { high1 := false, low1 := true, high2 := false, low2 := true }
            | .fast => { high1 := false, low1 := false, high2 := false, low2 := false })
        ∧ b = { s.bridges.get id with
            gates := b.gates, asked := b.asked, offAt := b.offAt, phase := .offPhase, onEnd := none
            conduct := none, blanking := none, chopArmed := false })
      ∧ t = { s with
          clock := max s.clock e, bridges := s.bridges.set id (t.bridges.get id) }

/-- R89 to R91: on either leg, in either direction and in either phase, a gate that waits, high or low, turns on 500 ns
after the other gate of its leg turned off, if its phase lasts beyond that moment; the high side of the driven leg that
turns on so in an on-phase starts the conduction and, with chopping on, the blanking of 2 us; the blanking's end arms
the chop test; a code at or above the chop threshold then ends the on-phase. The model's choices: log 1 (the clock in
State); log 57 (a dead time that ends with its phase). -/
def Obligations.DeadTimeBlankingAndChop : Prop :=
  (∀ (s : State) (id : BridgeId) (leg : Leg) (off : Nat) (b : Bridge), b = s.bridges.get id →
    legWaits b leg off →
    ∀ ends : Option Nat, ends = (if b.phase = .onPhase then b.onEnd
      else if b.state = .drive then some s.timers.pwm else none) →
    ((∃ e, ends = some e ∧ e ≤ off + 512) → exec (.deadTimeExpiry id leg) s = .next s)
    ∧ ((∀ e, ends = some e → off + 512 < e) →
      ∃ t, exec (.deadTimeExpiry id leg) s = .next t
        ∧ legGates (t.bridges.get id).gates leg
            = ((legGates b.asked leg).1, !(legGates b.asked leg).1)
        ∧ (∀ driven : Bool, driven = (match b.params.direction with
              | .forward => (t.bridges.get id).gates.high1
              | .reverse => (t.bridges.get id).gates.high2) →
          (b.phase = .onPhase → b.conduct = none → driven = true →
            (t.bridges.get id).conduct = some t.clock
            ∧ (t.bridges.get id).blanking =
                (if s.bridges.cfg.chopLevel = 0 then none else some (t.clock + 2048)))
          ∧ (b.phase ≠ .onPhase ∨ b.conduct ≠ none ∨ driven = false →
            (t.bridges.get id).conduct = b.conduct ∧ (t.bridges.get id).blanking = b.blanking))
        ∧ (gatesWithin b.gates b.asked →
          (t.bridges.get id).offAt = b.offAt ∧ gatesWithin (t.bridges.get id).gates b.asked)
        ∧ t.bridges.get id = { b with
            gates := (t.bridges.get id).gates, offAt := (t.bridges.get id).offAt
            conduct := (t.bridges.get id).conduct, blanking := (t.bridges.get id).blanking }
        ∧ t = { s with
            clock := max s.clock (off + 512), bridges := s.bridges.set id (t.bridges.get id) }))
  ∧ (∀ (s : State) (id : BridgeId) (due e : Nat) (b : Bridge), b = s.bridges.get id →
    b.blanking = some due → b.onEnd = some e →
    exec (.blankingEnd id) s = .next (if due ≤ e then
      { s with
        clock := max s.clock due
        bridges := s.bridges.set id { b with blanking := none, chopArmed := true } }
      else s))
  ∧ ∀ (s : State) (id : BridgeId) (millivolts : Nat) (b : Bridge), b = s.bridges.get id →
    (s.bridges.cfg.chopLevel = 0 ∨ b.chopArmed = false
        ∨ min 1023 (millivolts / 4)
          < max 1 (min 1023 (s.bridges.cfg.chopLevel * s.bridges.cfg.gain / 40)) →
      exec (.chop id millivolts) s = .next s)
    ∧ (s.bridges.cfg.chopLevel ≠ 0 → b.chopArmed = true →
      max 1 (min 1023 (s.bridges.cfg.chopLevel * s.bridges.cfg.gain / 40)) ≤ min 1023 (millivolts / 4) →
      ∃ t, exec (.chop id millivolts) s = .next t
        ∧ (t.bridges.get id).asked = (match b.params.freewheel with
            | .slow => { high1 := false, low1 := true, high2 := false, low2 := true }
            | .fast => { high1 := false, low1 := false, high2 := false, low2 := false })
        ∧ gatesWithin (t.bridges.get id).gates (t.bridges.get id).asked
        ∧ t.bridges.get id = { b with
            gates := (t.bridges.get id).gates, asked := (t.bridges.get id).asked
            offAt := (t.bridges.get id).offAt, phase := .offPhase, onEnd := none, conduct := none
            blanking := none, chopArmed := false, chopRunning := true }
        ∧ t = { s with bridges := s.bridges.set id (t.bridges.get id) })

/-- R92 to R97: a code at or above the short threshold through the deglitch time of one on-phase is a detection, once a
period. A code at the chop threshold ends the on-phase at the end of the blanking or later, and with it the count. LATCH
turns all gates off, latches the bridge and under GANG the other one with it, records the fault, ends a balance run
FAILED_FAULT (R110), and has the traction state derived afresh, FAULTED under COAST when every configured bridge is
LATCHED, a bridge still in service taking its command (R97); outside the run's slot and segment bytes no byte of memory
changes; CYCLE turns the gates off for the period and latches at the 200th; REPORT records the first of a run; IGNORE
records nothing. The model's choices: log 1 (the clock in State); log 18 (an entry to DRIVE within a period); log 23 (a
detection carries its time); log 41 (the chop flags of a latch); log 49 (the stop mode and freewheel of a derivation
after a set change). -/
def Obligations.ShortDetectionsActUnderTheShortMode : Prop :=
  ∀ (s : State) (id : BridgeId) (millivolts since start e moment : Nat) (b : Bridge), s.isRun = true →
    b = s.bridges.get id → b.conduct = some start → b.onEnd = some e →
    moment = start + since + 1024 * s.bridges.cfg.deglitch →
    ∀ chops : Bool, chops = (decide (s.bridges.cfg.chopLevel ≠ 0)
      && decide (max 1 (min 1023 (s.bridges.cfg.chopLevel * s.bridges.cfg.gain / 40)) ≤ min 1023 (millivolts / 4))
      && decide (start + 2048 < moment)) →
    (b.phase ≠ .onPhase ∨ b.detected = true
        ∨ min 1023 (millivolts / 4)
          < max 1 (min 1023 (s.bridges.cfg.shortLevel * s.bridges.cfg.gain / 40))
        ∨ e < moment ∨ chops = true →
      exec (.shortDetection id millivolts since) s = .next s)
    ∧ (b.phase = .onPhase → b.detected = false →
      max 1 (min 1023 (s.bridges.cfg.shortLevel * s.bridges.cfg.gain / 40)) ≤ min 1023 (millivolts / 4) →
      moment ≤ e → chops = false →
      ∃ t, exec (.shortDetection id millivolts since) s = .next t
        ∧ t.clock = max s.clock moment
        ∧ (s.bridges.cfg.shortMode = .latch ∨ s.bridges.cfg.shortMode = .cycle ∧ 199 ≤ b.shortRun →
          (t.bridges.get id).state = .latched ∧ (t.bridges.get id).gates = Gates.none
          ∧ (t.bridges.get id).shortRun = 0 ∧ (t.bridges.get id).chopFlag = false
          ∧ (t.bridges.get id).chopRunning = b.chopRunning
          ∧ ((t.bridges.get (BridgeId.other id)).state = .latched ↔
              (s.bridges.get (BridgeId.other id)).state = .latched
              ∨ (s.bridges.cfg.independence = .gang
                  ∧ ((BridgeId.other id) = .a ∨ s.bridges.cfg.mode = .parallel)))
          ∧ (t.bridges.get (BridgeId.other id)).episodes = (s.bridges.get (BridgeId.other id)).episodes
          ∧ t.port.notice.getLsbD 3 = true ∧ t.balance.run = none
          ∧ (∀ r : BalanceRun, s.balance.run = some r → r.slot < 32 → s.xm.wf = true → voicesLawful s →
              runEnded t r .failedFault)
          ∧ (t.bridges.allLatched = true →
              t.traction.state = .faulted ∧ t.bridges.held = .coast ∧ t.traction.c = 0
                ∧ t.traction.i = 0 ∧ t.traction.u = 0 ∧ t.traction.prev = 0)
          ∧ (s.xm.wf = true → voicesLawful s → runSlot s →
              bridgeShorted { s with clock := t.clock } t id ∧ sameBut s.xm t.xm (inRunEnd s)))
        ∧ (s.bridges.cfg.shortMode = .latch →
          (t.bridges.get id).episodes = b.episodes + 1)
        ∧ (s.bridges.cfg.shortMode = .cycle → b.shortRun < 199 →
          (t.bridges.get id).asked = Gates.none ∧ (t.bridges.get id).gates = Gates.none
          ∧ t.bridges.get id = { b with
              asked := Gates.none, gates := Gates.none, offAt := (t.bridges.get id).offAt, phase := .cut
              onEnd := none, conduct := none, blanking := none, chopArmed := false, detected := true
              shortRun := b.shortRun + 1
              episodes := if b.shortRun = 0 then b.episodes + 1 else b.episodes })
        ∧ (s.bridges.cfg.shortMode = .report →
          t.bridges.get id = { b with
            detected := true, shortRun := min 200 (b.shortRun + 1)
            episodes := if b.shortRun = 0 then b.episodes + 1 else b.episodes })
        ∧ (s.bridges.cfg.shortMode = .ignore → t.bridges.get id = { b with detected := true })
        ∧ (s.bridges.cfg.shortMode ≠ .latch →
          ¬(s.bridges.cfg.shortMode = .cycle ∧ 199 ≤ b.shortRun) →
          t = { s with
            clock := t.clock
            port := withNotice s.port
              (if s.bridges.cfg.shortMode ≠ .ignore ∧ b.shortRun = 0 then [.fault] else [])
            status := { s.status with
              faultCount := if s.bridges.cfg.shortMode ≠ .ignore ∧ b.shortRun = 0
                then s.status.faultCount + 1 else s.status.faultCount }
            bridges := s.bridges.set id (t.bridges.get id) }))

/-! ## Radio command unit (chapter 7) -/

/-- R115 and R116: in QUIET every byte is discarded; in RUN a framing error ends the frame in progress, and HUNT,
LENGTH and BODY take a byte as the table says, the gap timer starting afresh at 5 ms; its expiry ends the frame in
progress. R118, R119: a complete frame is in hand when check value, class and address are right and it is no repeat,
and its sender then stands first in the repeat table of at most 8; any other changes nothing; with a frame in hand it
waits. R117 gives the check value and the fields of a frame; a repeat is a frame of a sender in the table with the
sequence number of its entry, that not being stale. The model's choices: log 1 (the clock in State). -/
def Obligations.ReceiverTakesBytesAndChecksFrames : Prop :=
  (∀ bytes : List Byte, crc bytes = checkValue bytes ∧ frameRead bytes (parseFrame bytes) (carriedCrc bytes))
  ∧ (∀ (table : List RepeatEntry) (f : Frame), (table.map RepeatEntry.sender).Nodup →
    (isRepeat table f = true ↔
      ∃ e ∈ table, e.sender = f.sender ∧ e.seq = f.seq ∧ e.stale = false))
  ∧ (∀ (s : State) (byte : Byte) (stop : Bool),
    (s.isRun = false → exec (.rxdByte byte stop) s = .next s)
    ∧ (s.isRun = true → stop = false →
      exec (.rxdByte byte stop) s = .next { s with
        radio := { s.radio with receiver := .hunt, gap := none } })
    ∧ (s.isRun = true → stop = true → s.radio.receiver = .hunt →
      exec (.rxdByte byte stop) s = .next (if byte = 0xA5 then
        { s with radio := { s.radio with
            receiver := .length, gap := some (s.clock + 5 * 1024000) } } else s))
    ∧ (s.isRun = true → stop = true → s.radio.receiver = .length →
      exec (.rxdByte byte stop) s = .next { s with radio := { s.radio with
        receiver := if 9 ≤ byte.toNat ∧ byte.toNat ≤ 28 then .body byte.toNat [] else .hunt
        gap := if 9 ≤ byte.toNat ∧ byte.toNat ≤ 28 then some (s.clock + 5 * 1024000) else none } })
    ∧ ∀ len bytes, s.radio.receiver = .body len bytes → s.isRun = true → stop = true →
      (bytes.length + 1 < len →
        exec (.rxdByte byte stop) s = .next { s with radio := { s.radio with
          receiver := .body len (bytes ++ [byte]), gap := some (s.clock + 5 * 1024000) } })
      ∧ (bytes.length + 1 = len → s.radio.handling ≠ none →
        exec (.rxdByte byte stop) s = .next { s with radio := { s.radio with
          receiver := .hunt, gap := none, waiting := s.radio.waiting ++ [bytes ++ [byte]] } })
      ∧ (bytes.length + 1 = len → s.radio.handling = none →
        ∀ whole, whole = bytes ++ [byte] →
        exec (.rxdByte byte stop) s = .next { s with
          radio := if frameAccepted s.radio whole then
            { s.radio with
              receiver := .hunt, gap := none, handling := some (parseFrame whole)
              repeats := senderFirst s.radio.repeats (parseFrame whole) s.clock }
          else { s.radio with receiver := .hunt, gap := none } }))
  ∧ ∀ (s : State) (due : Nat), s.radio.gap = some due →
    exec .gapTimerExpiry s = .next { s with
      clock := max s.clock due, radio := { s.radio with receiver := .hunt, gap := none } }

/-- R119, R123 and R134: the repeat window of a sender's entry, at its expiry, makes it stale; failsafe sets the flag at
last heard + F; a lapse at last heard + lease time frees the lease with throttle 0, and clears the emergency-stop latch,
the traction state being derived afresh then (R78), the bridges taking its command (R87); a dwell's end makes the
station-stop state NONE with a STATION_END record. The model's choices: log 1 (the clock in State); log 17 (BEACON with
a dropped record); log 18 (an entry to DRIVE within a period); log 24 (the first sequence number); log 49 (the stop mode
and freewheel of a derivation after a set change). -/
def Obligations.RadioTimersExpire : Prop :=
  (∀ (s : State) (sender : BitVec 16) (e : RepeatEntry) (due : Nat), repeatsLawful s →
    e ∈ s.radio.repeats → e.sender = sender.toNat → e.window = some due →
    exec (.repeatWindowExpiry sender) s = .next { s with
      clock := max s.clock due
      radio := { s.radio with repeats := s.radio.repeats.map fun x =>
        if x = e then { e with stale := true, window := none } else x } })
  ∧ (∀ (s : State) (sender cls last : Nat), s.radio.lease = .radio sender cls last →
    (s.radio.failsafe = false → exec .failsafeExpiry s = .next { s with
      clock := max s.clock (last + 1024000 * s.radio.cfg.failsafeMs)
      radio := { s.radio with failsafe := true } })
    ∧ (s.traction.latch = false → exec .lapseExpiry s = .next { s with
      clock := max s.clock (last + 1024000 * s.radio.cfg.leaseMs)
      port := withNotice s.port [.control]
      radio := { s.radio with
        lease := .none, failsafe := false, request := { s.radio.request with throttle := 0 } } })
    ∧ (s.traction.latch = true → s.xm.wf = true → voicesLawful s →
      ∃ t, exec .lapseExpiry s = .next t
        ∧ derivedAfresh { s with
            clock := max s.clock (last + 1024000 * s.radio.cfg.leaseMs)
            port := withNotice s.port [.control], traction := { s.traction with latch := false }
            radio := { s.radio with
              lease := .none, failsafe := false
              request := { s.radio.request with throttle := 0 } } } t))
  ∧ ∀ (s : State) (f : Frame) (ends : Nat), s.radio.station = .dwell f ends → s.xm.wf = true →
    s.radio.logIndex < 64 →
    ∃ t, exec .dwellTimerExpiry s = .next t
      ∧ recordOffered { s with clock := t.clock } t .beacon .stationEnd f [.beacon] ∧ recordOnly s t
      ∧ t = { s with
          clock := max s.clock ends, xm := t.xm, lastGranted := .radioWriter
          port := { s.port with notice := t.port.notice }
          radio := { s.radio with
            station := .none, logIndex := t.radio.logIndex, logSeq := t.radio.logSeq
            overflow := t.radio.overflow } }

/-- R122: an accepted THROTTLE frame. IN_CONSIST at the own address while in a consist; applied from the holder, and
from a sender that becomes the holder (from NONE, or with a stronger class than another RADIO holder's), which raises
CONTROL; NOT_HOLDER otherwise. Applying writes throttle and direction, inverted in a reversed consist; a throttle of 0
clears the emergency-stop latch, the traction state being derived afresh then (R78), the bridges taking its command
(R87). Bad sizes and values are MALFORMED (R120). The complete frames that wait are then checked in turn, and the first
accepted is in hand (R118). The model's choices: log 18 (an entry to DRIVE within a period); log 24 (the first sequence
number); log 49 (the stop mode and freewheel of a derivation after a set change). -/
def Obligations.ThrottleFrameDrivesForTheHolder : Prop :=
  ∀ (s : State) (f : Frame), frameInHand s f 1 →
    (f.payload.length ≠ 2 ∨ 1 < param8 f.payload 1 →
      ∃ t, exec .throttleFrame s = .next t ∧ frameLogged s t .frame .malformed f)
    ∧ (f.payload.length = 2 → param8 f.payload 1 ≤ 1 →
      (f.target = s.radio.cfg.own ∧ s.radio.consist.number ≠ 0 →
        ∃ t, exec .throttleFrame s = .next t ∧ frameLogged s t .frame .inConsist f)
      ∧ (¬(f.target = s.radio.cfg.own ∧ s.radio.consist.number ≠ 0) →
        ((s.radio.lease.heldBy f.sender f.cls = false ∧ s.radio.lease ≠ .none
            ∧ (∀ sender cls last, s.radio.lease = .radio sender cls last → cls ≤ f.cls)) →
          ∃ t, exec .throttleFrame s = .next t ∧ frameLogged s t .frame (.outcome .notHolder) f)
        ∧ ((s.radio.lease.heldBy f.sender f.cls = true ∨ s.radio.lease = .none
            ∨ ∃ sender cls last, s.radio.lease = .radio sender cls last ∧ f.cls < cls) →
          ∃ t, exec .throttleFrame s = .next t
            ∧ t.radio.lease = .radio f.sender f.cls s.clock ∧ t.radio.failsafe = false
            ∧ t.radio.request = {
                throttle := param8 f.payload 0
                direction := if (param8 f.payload 1 = 1) = (s.radio.consist.reversed = true)
                  then .forward else .reverse
                functions := s.radio.request.functions }
            ∧ frameEnded s t
            ∧ (param8 f.payload 0 = 0 → s.traction.latch = true → voicesLawful s →
              ∃ v, derivedAfresh { s with
                  port := withNotice s.port
                    (if s.radio.lease.heldBy f.sender f.cls then [] else [.control])
                  traction := { s.traction with latch := false }
                  radio := { s.radio with
                    lease := t.radio.lease, failsafe := false, request := t.radio.request } } v
                ∧ t = { v with radio := besideFrames v.radio t.radio }
                ∧ t.radio.logIndex = s.radio.logIndex ∧ t.radio.logSeq = s.radio.logSeq
                ∧ t.radio.overflow = s.radio.overflow)
            ∧ (param8 f.payload 0 ≠ 0 ∨ s.traction.latch = false →
              t = { s with
                  port := withNotice s.port
                    (if s.radio.lease.heldBy f.sender f.cls then [] else [.control])
                  radio := { besideFrames s.radio t.radio with
                    lease := t.radio.lease, failsafe := false, request := t.radio.request
                    logIndex := s.radio.logIndex, logSeq := s.radio.logSeq
                    overflow := s.radio.overflow } }))))

/-- R124: a FUNC frame from the holder, with the lease NONE, or of class 0 or 1 replaces the eight bits of its group and
keeps the others; else it is NOT_HOLDER. The trigger entries of the cached set act on the bits that changed (R156), and
PREHEAT or REGULATE becomes OFF when the smoke function bit is then 0 (R178). A RELEASE frame of the holder frees the
lease with throttle 0, raises CONTROL and clears the emergency-stop latch, the traction state being derived afresh then
(R78), the bridges taking its command (R87); another sender's changes nothing. The complete frames that wait are then
checked in turn, and the first accepted is in hand (R118). The model's choices: log 18 (an entry to DRIVE within a
period); log 24 (the first sequence number); log 32 (the order in which readers are told); log 45 (the order of the
sound engine's acts); log 49 (the stop mode and freewheel of a derivation after a set change); log 51 (when a fan duty
reaches SMF). -/
def Obligations.FuncAndReleaseFrames : Prop :=
  (∀ (s : State) (f : Frame), frameInHand s f 2 →
    (f.payload.length ≠ 2 ∨ 3 < param8 f.payload 0 →
      ∃ t, exec .funcFrame s = .next t ∧ frameLogged s t .frame .malformed f)
    ∧ (f.payload.length = 2 → param8 f.payload 0 ≤ 3 →
      (s.radio.lease.heldBy f.sender f.cls = false → s.radio.lease ≠ .none → 1 < f.cls →
        ∃ t, exec .funcFrame s = .next t ∧ frameLogged s t .frame (.outcome .notHolder) f)
      ∧ (s.radio.lease.heldBy f.sender f.cls = true ∨ s.radio.lease = .none ∨ f.cls ≤ 1 →
        ∃ t, exec .funcFrame s = .next t ∧ frameEnded s t
          ∧ (∀ i, i < 32 → t.radio.request.functions.getLsbD i =
              if i / 8 = param8 f.payload 0 then (param8 f.payload 1).testBit (i % 8)
              else s.radio.request.functions.getLsbD i)
          ∧ (voicesLawful s → sameBut s.xm t.xm inSegments)
          ∧ t = { s with
              xm := t.xm, port := { s.port with notice := t.port.notice }
              status := { s.status with faultCount := t.status.faultCount }, sound := t.sound
              lamps := { s.lamps with heater := t.lamps.heater, fan := t.lamps.fan }
              radio := { besideFrames (heard s.radio f s.clock) t.radio with
                request := { s.radio.request with functions := t.radio.request.functions }
                logIndex := s.radio.logIndex, logSeq := s.radio.logSeq
                overflow := s.radio.overflow } }
          ∧ heaterTold s t t.radio.request.functions
          ∧ ∃ v : State, triggersAct s.radio.request.functions t.radio.request.functions 0 s.soundSet.triggers
              { s with radio := t.radio } v
            ∧ t.sound = v.sound ∧ t.status = v.status ∧ t.port = v.port ∧ t.xm = v.xm)))
  ∧ ∀ (s : State) (f : Frame), frameInHand s f 7 →
    (f.payload ≠ [] → ∃ t, exec .releaseFrame s = .next t ∧ frameLogged s t .frame .malformed f)
    ∧ (f.payload = [] → s.radio.lease.heldBy f.sender f.cls = false →
      ∃ t, exec .releaseFrame s = .next t ∧ frameEnded s t
        ∧ t = { s with radio := besideFrames s.radio t.radio }
        ∧ t.radio.logSeq = s.radio.logSeq)
    ∧ (f.payload = [] → s.radio.lease.heldBy f.sender f.cls = true →
      ∃ t, exec .releaseFrame s = .next t ∧ t.radio.lease = .none ∧ t.radio.failsafe = false
        ∧ t.radio.request = { s.radio.request with throttle := 0 } ∧ frameEnded s t
        ∧ (s.traction.latch = true → voicesLawful s →
          ∃ v, derivedAfresh { s with
              port := withNotice s.port [.control], traction := { s.traction with latch := false }
              radio := { s.radio with
                lease := .none, failsafe := false, request := t.radio.request } } v
            ∧ t = { v with radio := besideFrames v.radio t.radio }
            ∧ t.radio.logIndex = s.radio.logIndex ∧ t.radio.logSeq = s.radio.logSeq
            ∧ t.radio.overflow = s.radio.overflow)
        ∧ (s.traction.latch = false → t = { s with
            port := withNotice s.port [.control]
            radio := { besideFrames s.radio t.radio with
              lease := .none, failsafe := false, request := t.radio.request
              logIndex := s.radio.logIndex, logSeq := s.radio.logSeq
              overflow := s.radio.overflow } }))

/-- R132: an accepted PASS frame is logged as a FRAME record with reason PASSED, carrying its payload of up to 16 bytes,
and has no other effect (its sender is heard, R123; the next waiting frame accepted is in hand, R118). A full log drops
the record (R136). -/
def Obligations.PassFramesAreLoggedAndNoMore : Prop :=
  ∀ (s : State) (f : Frame), frameInHand s f 9 → f.payload.length ≤ 16 →
    ∃ t, exec .passFrame s = .next t
      ∧ ((s.radio.logIndex + 1) % 64 ≠ (s.xm.read 0x32).toNat % 64 →
        t.xm.read (0x1800 + 32 * s.radio.logIndex + 6) = RecordKind.frame.code
        ∧ t.xm.read (0x1800 + 32 * s.radio.logIndex + 7) = Reason.passed.code
        ∧ t.xm.readBytes (0x1800 + 32 * s.radio.logIndex + 9) 7 =
            [BitVec.ofNat 8 f.cls] ++ bytes16 f.sender ++ bytes16 f.target
              ++ [9, BitVec.ofNat 8 f.payload.length]
        ∧ t.xm.readBytes (0x1800 + 32 * s.radio.logIndex + 16) 16 =
            (f.payload ++ List.replicate 16 0).take 16
        ∧ t.radio.logIndex = (s.radio.logIndex + 1) % 64 ∧ t.port = withNotice s.port [.radio])
      ∧ recordOnly s t ∧ frameEnded s t
      ∧ t = { s with
          xm := t.xm, lastGranted := .radioWriter, port := { s.port with notice := t.port.notice }
          radio := besideFrames (heard s.radio f s.clock) t.radio }

/-- R129 and R131: a SET frame ends BUSY during a balance run, NOT_HOLDER for a HANDSET that is not the holder,
BAD_INDEX for a code above 2; else its action, with the sender's level, waits in the set manager and, when it is first
there, has its load begun; one that loads nothing ends at once, BAD_INDEX for a set above 7 and CHAIN_EMPTY for a RETURN
on the base. A CONSIST frame of class 0 or 1 at the own address sets the consist state, JOINED or LEFT; any other ends
DENIED. Of R120: a PASS frame of more than 16 bytes is MALFORMED, and a frame of a kind that is not in the table is
logged UNKNOWN_KIND. The complete frames that wait are then checked in turn, and the first accepted is in hand (R118).
The model's choices: log 24 (the first sequence number); log 26 (when a set action is decided); log 28 (frames without a
row); log 48 (a refused action code does not wait). -/
def Obligations.SetConsistAndUnknownFrames : Prop :=
  (∀ (s : State) (f : Frame), frameInHand s f 9 → 16 < f.payload.length →
    ∃ t, exec .passFrame s = .next t ∧ frameLogged s t .frame .malformed f)
  ∧ (∀ (s : State) (f : Frame) (k : Nat), frameInHand s f k → (k = 0 ∨ 9 < k) →
    ∃ t, exec .passFrame s = .next t ∧ frameLogged s t .frame (.outcome .unknownKind) f)
  ∧ (∀ (s : State) (f : Frame), frameInHand s f 4 →
    (f.payload.length ≠ 2 → ∃ t, exec .setFrame s = .next t ∧ frameLogged s t .frame .malformed f)
    ∧ (f.payload.length = 2 →
      (s.balance.run ≠ none →
        ∃ t, exec .setFrame s = .next t ∧ frameLogged s t .frame (.outcome .busy) f)
      ∧ (s.balance.run = none →
        (f.cls = 2 → s.radio.lease.heldBy f.sender f.cls = false →
          ∃ t, exec .setFrame s = .next t ∧ frameLogged s t .frame (.outcome .notHolder) f)
        ∧ (f.cls ≠ 2 ∨ s.radio.lease.heldBy f.sender f.cls = true →
          (2 < param8 f.payload 0 →
            ∃ t, exec .setFrame s = .next t ∧ frameLogged s t .frame (.outcome .badIndex) f)
          ∧ (param8 f.payload 0 ≤ 2 →
            (s.sets.queue ≠ [] ∨ (param8 f.payload 0 ≤ 1 ∧ param8 f.payload 1 ≤ 7)
                ∨ (param8 f.payload 0 = 2 ∧ 2 ≤ s.sets.chain.length) →
              ∃ t, exec .setFrame s = .next t ∧ frameEnded s t
                ∧ t = { s with
                    sets := { s.sets with queue := s.sets.queue ++ [{
                      kind := if param8 f.payload 0 = 0 then .switch
                        else if param8 f.payload 0 = 1 then .invoke else .returnSet
                      index := param8 f.payload 1, level := f.cls, source := .frame f
                      load := if s.sets.queue ≠ [] then none else some (TableLoad.ofSet
                        (if param8 f.payload 0 = 2 then s.sets.belowIndex else param8 f.payload 1)) }] }
                    radio := { besideFrames (heard s.radio f s.clock) t.radio with
                      logIndex := s.radio.logIndex, logSeq := s.radio.logSeq
                      overflow := s.radio.overflow } })
            ∧ (s.sets.queue = [] →
              (param8 f.payload 0 ≤ 1 → 7 < param8 f.payload 1 →
                ∃ t, exec .setFrame s = .next t ∧ frameLogged s t .frame (.outcome .badIndex) f)
              ∧ (param8 f.payload 0 = 2 → s.sets.chain.length < 2 →
                ∃ t, exec .setFrame s = .next t
                  ∧ frameLogged s t .frame (.outcome .chainEmpty) f)))))))
  ∧ (∀ (s : State) (f : Frame), frameInHand s f 6 →
    ∀ p, p = f.payload →
    ∀ joins : Bool, joins = (decide (p.length = 4) && decide (param8 p 0 = 0) && decide (1 ≤ param8 p 1)
      && decide (param8 p 1 ≤ 127) && decide (param8 p 2 ≤ 2) && decide (param8 p 3 ≤ 1)) →
    (param8 p 0 ≠ 1 → joins = false →
      ∃ t, exec .consistJoin s = .next t ∧ frameLogged s t .frame .malformed f)
    ∧ (joins = true → ¬(f.cls ≤ 1 ∧ f.target = s.radio.cfg.own) →
      ∃ t, exec .consistJoin s = .next t ∧ frameLogged s t .frame (.outcome .denied) f)
    ∧ (joins = true → f.cls ≤ 1 → f.target = s.radio.cfg.own →
      ∃ t, exec .consistJoin s = .next t
        ∧ frameLogged { s with radio := { s.radio with consist := {
            number := param8 p 1
            role := if param8 p 2 = 0 then .lead else if param8 p 2 = 1 then .mid else .trail
            reversed := decide (param8 p 3 = 1) } } } t .consist .joined f)
    ∧ (param8 p 0 = 1 → p.length ≠ 4 →
      ∃ t, exec .consistLeave s = .next t ∧ frameLogged s t .frame .malformed f)
    ∧ (param8 p 0 = 1 → p.length = 4 → ¬(f.cls ≤ 1 ∧ f.target = s.radio.cfg.own) →
      ∃ t, exec .consistLeave s = .next t ∧ frameLogged s t .frame (.outcome .denied) f)
    ∧ (param8 p 0 = 1 → p.length = 4 → f.cls ≤ 1 → f.target = s.radio.cfg.own →
      ∃ t, exec .consistLeave s = .next t
        ∧ frameLogged { s with radio := { s.radio with
            consist := { number := 0, role := .lead, reversed := false } } } t .consist .left f))

/-- R130: a SERVICE_WRITE frame ends MALFORMED, DENIED or OUT_OF_WINDOW by the first check that fails; else its bytes
are to be written, and the frame stays in hand. SERVICE_WRITE_DONE writes the bytes still to write; then a WRITTEN
record of the frame with the reason WRITTEN is offered (R135): with room it is written and RADIO raised, with the log
full it is dropped with the overflow flag (R136). No other byte changes. The complete frames that wait are then checked
in turn, and the first accepted is in hand (R118). The model's choices: log 5 (one command, one step); log 24 (the first
sequence number). -/
def Obligations.ServiceWritesStayInTheWindow : Prop :=
  (∀ (s : State) (f : Frame), frameInHand s f 8 → s.radio.service = none →
    ∀ p, p = f.payload → ∀ fits : Bool,
      fits = (decide (p.length = 3 + param8 p 2) && decide (1 ≤ param8 p 2) && decide (param8 p 2 ≤ 16)) →
    ∀ inside : Bool, inside = (decide (s.radio.cfg.windowStart ≤ s.radio.cfg.windowEnd)
      && decide (s.radio.cfg.windowStart ≤ param16 p 0)
      && decide (param16 p 0 + param8 p 2 - 1 ≤ s.radio.cfg.windowEnd)) →
    (fits = false → ∃ t, exec .serviceWrite s = .next t ∧ frameLogged s t .frame .malformed f)
    ∧ (fits = true → f.cls ≠ 0 →
      ∃ t, exec .serviceWrite s = .next t ∧ frameLogged s t .frame (.outcome .denied) f)
    ∧ (fits = true → f.cls = 0 → inside = false →
      ∃ t, exec .serviceWrite s = .next t ∧ frameLogged s t .frame .outOfWindow f)
    ∧ (fits = true → f.cls = 0 → inside = true →
      exec .serviceWrite s = .next { s with
        radio := { heard s.radio f s.clock with
          service := some ((List.range (param8 p 2)).map fun k =>
            (param16 p 0 + k, p.getD (3 + k) 0)) } }))
  ∧ ∀ (s : State) (f : Frame) (cells : List Host.Cell), s.radio.service = some cells →
    frameInHand s f 8 → (cells.map Prod.fst).Nodup → (∀ c ∈ cells, c.1 < 65536) →
    ∃ u t, exec .serviceWriteDone s = .next t
      ∧ u = { s with xm := u.xm }
      ∧ (∀ c ∈ cells, u.xm.read c.1 = c.2) ∧ sameBut s.xm u.xm (fun a => ∃ c ∈ cells, c.1 = a)
      ∧ recordOffered u t .written .written f [] ∧ recordOnly u t
      ∧ frameEnded s t
      ∧ t = { s with
          xm := t.xm, lastGranted := .radioWriter, port := { s.port with notice := t.port.notice }
          radio := { besideFrames s.radio t.radio with service := none } }

/-- R133 and R134: a BEACON frame whose direction filter does not match changes nothing. A matching one is met by the
passage record, whose marks a new zone clears; then CLEAR empties the zone record of its zone, or a cap other than FFFFH
fills it; STATION, not served yet, begins a station stop, in DWELL at once when STOPPED; HORN, not sounded yet, starts
the horn clip at priority 3 (R155). The change of the zone record makes a BEACON record ZONE_CLEAR or ZONE_IN, then the
begun station stop one of STATION_START. The complete frames that wait are then checked in turn, and the first accepted
is in hand (R118). The model's choices: log 8 (the cap of an empty zone record); log 17 (BEACON with a dropped record);
log 24 (the first sequence number); log 37 (the direction filter of a beacon). -/
def Obligations.BeaconFramesActByTheirFlags : Prop :=
  ∀ (s : State) (f : Frame), frameInHand s f 5 →
    ∀ p, p = f.payload →
    ∀ seen, seen = (if s.radio.consist.reversed = true ∧ s.radio.consist.number ≠ 0
      then (match s.traction.direction with
        | .forward => Direction.reverse
        | .reverse => Direction.forward) else s.traction.direction) →
    (p.length ≠ 6 ∨ param8 p 0 = 0 ∨ 2 < param8 p 2 →
      ∃ t, exec .beaconFrame s = .next t ∧ frameLogged s t .frame .malformed f)
    ∧ (p.length = 6 → 1 ≤ param8 p 0 →
      (param8 p 2 = 1 ∧ seen = .reverse ∨ param8 p 2 = 2 ∧ seen = .forward →
        ∃ t, exec .beaconFrame s = .next t ∧ frameEnded s t
          ∧ t = { s with radio := { besideFrames (heard s.radio f s.clock) t.radio with
              logIndex := s.radio.logIndex, logSeq := s.radio.logSeq, overflow := s.radio.overflow } })
      ∧ (param8 p 2 = 0 ∨ param8 p 2 = 1 ∧ seen = .forward ∨ param8 p 2 = 2 ∧ seen = .reverse →
        ∀ served : Bool, served = (decide (s.radio.passage.zone = param8 p 0) && s.radio.passage.station) →
        ∀ sounded : Bool, sounded = (decide (s.radio.passage.zone = param8 p 0) && s.radio.passage.horn) →
        ∀ changed : Bool, changed = (if (param8 p 1).testBit 2 then
            s.radio.zone.present && decide (s.radio.zone.zone = param8 p 0)
          else decide (param16 p 3 ≠ 0xFFFF ∧ s.radio.zone
            ≠ { present := true, zone := param8 p 0, cap := param16 p 3 })) →
        ∀ begins : Bool, begins = ((param8 p 1).testBit 0 && decide (s.radio.station = .none) && !served) →
        ∃ t, exec .beaconFrame s = .next t ∧ frameEnded s t
          ∧ (changed = false → t.radio.zone = s.radio.zone ∧ t.free = s.free)
          ∧ (changed = true → (param8 p 1).testBit 2 = true →
              t.radio.zone.present = false ∧ t.radio.zone.zone = 0)
          ∧ (changed = true → (param8 p 1).testBit 2 = false →
              t.radio.zone = { present := true, zone := param8 p 0, cap := param16 p 3 }
                ∧ t.free = s.free)
          ∧ t.radio.station = (if begins = false then s.radio.station
              else if s.traction.state = .stopped then
                .dwell f (s.clock + 1024000 * (1000 * max 1 (param8 p 5)))
              else .braking f)
          ∧ t.radio.passage = {
              zone := param8 p 0, horn := sounded || (param8 p 1).testBit 1, station := served || begins }
          ∧ (∃ u v : State,
              recordedIf changed s u .beacon (if (param8 p 1).testBit 2 then .zoneClear else .zoneIn) f [.beacon]
              ∧ recordedIf begins u v .beacon .stationStart f [.beacon]
              ∧ t.radio.logIndex = v.radio.logIndex ∧ t.radio.logSeq = v.radio.logSeq
              ∧ t.radio.overflow = v.radio.overflow
              ∧ ((param8 p 1).testBit 1 = false ∨ sounded = true →
                t.sound = s.sound ∧ t.status = s.status ∧ t.xm = v.xm ∧ t.port = v.port)
              ∧ ((param8 p 1).testBit 1 = true → sounded = false → voicesLawful s →
                ∃ w : State, clipPlays v w s.soundSet.hornClip .horn 3 .event false
                  ∧ t.sound = w.sound ∧ t.status = w.status ∧ t.xm = w.xm ∧ t.port = w.port))
          ∧ (voicesLawful s → sameBut s.xm t.xm
              (fun a => (0x1800 ≤ a ∧ a < 0x2000) ∨ inSegments a))
          ∧ t = { s with
              free := t.free, xm := t.xm
              lastGranted := if (changed || begins) = true then .radioWriter else s.lastGranted
              port := { s.port with notice := t.port.notice }
              status := { s.status with faultCount := t.status.faultCount }, sound := t.sound
              radio := { besideFrames (heard s.radio f s.clock) t.radio with
                zone := t.radio.zone, station := t.radio.station, passage := t.radio.passage } }))

/-! ## Sound engine (chapter 8) -/

/-- R145 to R147, R149, R150, R157 and R158: at a sample expiry the sounding voices are mixed into the sample, and each
moves on by step x b: a ONE_SHOT repeats or is IDLE at its end, a LOOP wraps or plays on past its region; frozen
(shed level 3 or more), the sample is 0 and no voice moves. A STREAM voice that reaches no boundary moves on
likewise; one that reaches segment B empties A, raises STREAM, and takes B, is IDLE after FULL_LAST, or is STARVED
there (IDLE when FADING); one that reaches the clip's end does the same with B and goes back to A, with the excess
over the end as its position. Several voices act one after the other, each on the segment bytes as those before it
left them. The model's choices: log 1 (the clock in State); log 36 (the timer of the mixer frame); log 46 (the order
of the voices); log 55 (a segment byte above 3). -/
def Obligations.SampleExpiryMixesAndMovesTheVoices : Prop :=
  ∀ s : State, s.xm.wf = true → voicesLawful s →
    ∃ u t : State, exec .sampleTimerExpiry s = .next t
      ∧ u = { s with
          clock := max s.clock s.timers.sample
          timers := { s.timers with sample := max s.clock s.timers.sample + 64000 }
          sound := { s.sound with
            sample := (if s.isRun = true ∧ s.supply.shed < 3 then
                max (-32768) (min 32767
                  (((s.sound.voices.map (voicePart s.xm)).sum * s.sound.master).tdiv 256))
              else 0) } }
      ∧ (3 ≤ s.supply.shed → t = u)
      ∧ (s.supply.shed < 3 → voicesInTurn voiceMoved [0, 1, 2, 3, 4, 5, 6, 7] u t
        ∧ ∀ (k : Nat) (v : Voice), s.sound.voices[k]? = some v →
          (v.sounds = false → t.sound.voices[k]? = some v)
          ∧ (v.sounds = true → v.entry.kind ≠ 2 ∨ positionNext v < v.entry.length / 2 * 256
              ∨ (v.entry.length / 2 * 256 ≤ v.position ∧ positionNext v < v.entry.length * 256) →
            t.sound.voices[k]? = some (movedOn v)))
      ∧ sameBut s.xm t.xm inSegments
      ∧ t = { u with
          xm := t.xm, port := { u.port with notice := t.port.notice }
          sound := { u.sound with voices := t.sound.voices } }

/-- R58, R59, R148, R152 to R154 and R158: a frame takes the wheel angle and clears the mark; a chuff point passed
with no mark, in RUN and not STOPPED, fires one chuff, which moves the rotation, starts voice 1 afresh or leaves it
IDLE with a CLIP fault (R139), raises the flare of FIREBOX lamps (R168) and makes a fan in RUN or PUFF puff (R180);
the master volume is read; a fading voice falls by its step, or ends, a STREAM voice releasing its segment (R159);
voice 0, while it sounds, takes the engine pitch; a STARVED voice plays on when its segment reads FULL. Several voices
act one after the other. Frozen voices keep envelope and segments. The fan's driven duty stays what it was in the
running PWM period. The model's choices: log 1 (the clock in State); log 36 (the timer of the mixer frame); log 46 (the
order of the voices); log 51 (when a fan duty reaches SMF). -/
def Obligations.MixerFramesDoTheFrameWork : Prop :=
  ∀ s : State, s.xm.wf = true → voicesLawful s →
    ∃ t, exec .mixerFrame s = .next t
      ∧ (∀ phi, phi = (if s.motion.sensor = .ok then s.motion.phi
            else (s.motion.phi + s.traction.c * 256) % (1024000 * max 1 s.motion.cfg.magnets)) →
          t.motion = { s.motion with phi := phi, mark := false }
          ∧ (s.motion.sensor ≠ .ok →
            t.sound.prevAngle = phi / (4000 * max 1 s.motion.cfg.magnets)))
      ∧ (s.motion.sensor = .ok → t.sound.prevAngle
          = s.motion.edgeAngle (BitVec.ofNat 32 (t.clock / 1024)))
      ∧ t.sound.master = (t.xm.read 0x30).toNat
      ∧ (∀ fires : Bool, fires = (s.isRun && decide (s.traction.state ≠ .stopped) && !s.motion.mark
            && s.soundSet.chuffPoints.any fun a =>
              decide (1 ≤ (a % 256 + 256 - s.sound.prevAngle % 256) % 256)
                && decide ((a % 256 + 256 - s.sound.prevAngle % 256) % 256
                  ≤ (t.sound.prevAngle % 256 + 256 - s.sound.prevAngle % 256) % 256)) →
        ∃ g u w x : State,
        (fires = true →
          t.sound.rotation = (if s.sound.rotation + 1 < s.soundSet.chuffClips.length
            then s.sound.rotation + 1 else 0)
          ∧ (∀ (k : Nat) (l : Lamp), s.lamps.lamps[k]? = some l → t.lamps.lamps[k]? = some
              (if l.copy.effect = .firebox ∧ l.on = true then { l with flare := l.copy.level } else l))
          ∧ t.lamps.fan = (if s.lamps.fan.state = .run ∨ s.lamps.fan.state = .puff then
              { s.lamps.fan with
                state := .puff, puff := some (t.clock + 1024000 * s.lampSet.puffWidth) }
            else s.lamps.fan)
          ∧ (∀ clip, clip = s.soundSet.chuffClips.getD (s.sound.rotation % s.soundSet.chuffClips.length) 255 →
            voiceGiven s g 1 clip .chuff (fun e =>
              freshVoice clip e
                (if s.soundSet.driftDuty ≤ (match s.bridges.held with
                  | .drive d => d.duty
                  | .off | .brake | .coast => 0) then s.soundSet.workVolume else s.soundSet.driftVolume)
                (max 0x40 (min 0x400 e.basePitch)) (some (if e.kind = 1 then 1 else 0)) 3 .chuff
                (s.sound.startCount + 1)))
          ∧ t.sound.voices[1]? = g.sound.voices[1]?)
        ∧ (fires = false → g = s ∧ t.lamps = s.lamps ∧ t.sound.rotation = s.sound.rotation)
        ∧ t.sound.startCount = g.sound.startCount ∧ t.sound.badClip = g.sound.badClip
        ∧ t.sound.badUse = g.sound.badUse ∧ t.status = g.status
        ∧ (3 ≤ s.supply.shed → t.xm = g.xm ∧ t.port = g.port)
        ∧ u = { g with
            clock := t.clock, timers := t.timers, motion := t.motion, lamps := t.lamps
            sound := { g.sound with prevAngle := t.sound.prevAngle, rotation := t.sound.rotation } }
        ∧ (3 ≤ s.supply.shed → w = u)
        ∧ (s.supply.shed < 3 → voicesInTurn voiceFaded [0, 1, 2, 3, 4, 5, 6, 7] u w)
        ∧ x = { w with sound := { w.sound with
            master := (w.xm.read 0x30).toNat
            voices := w.sound.voices.set 0 (if (w.sound.voice 0).sounds then { w.sound.voice 0 with
              step := max 0x40 (min 0x400 (s.soundSet.basePitch
                + (if s.motion.sensor = .ok then s.motion.m else s.traction.c) * s.soundSet.slope / 4096)) }
              else w.sound.voice 0) } }
        ∧ (3 ≤ s.supply.shed → t = x)
        ∧ (s.supply.shed < 3 → voicesInTurn voiceRetried [0, 1, 2, 3, 4, 5, 6, 7] x t)
        ∧ ∀ (k : Nat) (v : Voice), s.sound.voices[k]? = some v → k ≠ 1 ∨ fires = false →
          ∀ tuned : Voice → Voice, tuned = (fun w => if k = 0 then { w with
            step := max 0x40 (min 0x400 (s.soundSet.basePitch
              + (if s.motion.sensor = .ok then s.motion.m else s.traction.c) * s.soundSet.slope / 4096)) }
            else w) →
          (v.state = .idle → t.sound.voices[k]? = some v)
          ∧ (v.state = .playing → t.sound.voices[k]? = some (tuned v))
          ∧ (v.state = .fading → t.sound.voices[k]? = some
              (if 3 ≤ s.supply.shed then tuned v
              else if v.envelope ≤ v.fadeStep then { v with envelope := 0, state := .idle }
              else tuned { v with envelope := v.envelope - v.fadeStep }))
          ∧ (v.state = .starved → 3 ≤ s.supply.shed → t.sound.voices[k]? = some v))
      ∧ sameBut s.xm t.xm inSegments
      ∧ t = { s with
          clock := max s.clock s.timers.mixer
          xm := t.xm, port := { s.port with notice := t.port.notice }
          status := { s.status with faultCount := t.status.faultCount }
          timers := { s.timers with mixer := t.clock + 4 * 1024000 }
          motion := t.motion, sound := { t.sound with sample := s.sound.sample }
          lamps := { s.lamps with lamps := t.lamps.lamps, fan := t.lamps.fan } }

/-! ## Lamps and smoke (chapter 9) -/

/-- R164 to R169: an effect period steps the LFSR (feedback of bits 15, 13, 12, 10) and the effect count, forms every on
condition and then every brightness: effect, scale, cap of 64 at shed level 2 and 0 at 5, fade. R171: it clears the
overcurrent episode of a lamp that was on without a detection since the period before, or that is not on with its retry
timer stopped. R172: it starts, keeps or stops the open-load timer by the test condition, and a stopped timer ends the
open-load episode. R163: a lamp's PWM period takes its displayed brightness as an on-time of 4 us each, in which the
output connects the lamp to ground under LOW and to the lamp supply under HIGH; the on-time's end switches off and keeps
the current code, and changes nothing with the output off already. Beyond the cycle of a STROBE or ROTARY effect, where
a start has changed the entry of a lamp that a teardown left on, brightness and next phase are free. The model's
choices: log 1 (the clock in State); log 3 (an event whose cause is not there); log 31 (the order of brightness and
open-load test); log 43 (the current code of a cut on-time); log 56 (a phase beyond the cycle); log 58 (a flare below
level div 4). -/
def Obligations.LampsFollowTheirEffects : Prop :=
  (∀ s : State, ∃ t, exec .effectTimerExpiry s = .next t
    ∧ t.lamps.lfsr = ((s.lamps.lfsr <<< 1) ||| (if (((s.lamps.lfsr.getLsbD 15 ^^ s.lamps.lfsr.getLsbD 13)
        ^^ s.lamps.lfsr.getLsbD 12) ^^ s.lamps.lfsr.getLsbD 10) = true then 1 else 0))
    ∧ t.lamps.effectCount = s.lamps.effectCount + 1
    ∧ (∀ (n : Nat) (l : Lamp), s.lamps.lamps[n]? = some l → ∀ c, c = l.copy →
      ∃ l', t.lamps.lamps[n]? = some l' ∧
      (l'.on = true ↔ s.isRun = true ∧ c.enabled = true
        ∧ s.radio.request.functions.getLsbD c.function = true
        ∧ (c.direction = .any ∨ c.direction = .fwd ∧ s.traction.direction = .forward
          ∨ c.direction = .rev ∧ s.traction.direction = .reverse)
        ∧ (c.consist = .any ∨ s.radio.consist.number = 0 ∨ s.radio.consist.role = .lead)
        ∧ s.lampSet.mask.getLsbD n = true ∧ l.latched = .none ∧ l.retry = none)
      ∧ (∀ x, x = (if l.on then l.phase else 0) → ∀ y, y = (if l.on then l.flare else c.level / 4) →
        ∀ low, low = c.level / 8 →
        ∀ known : Bool, known = (match c.effect with
          | .strobe => decide (x < c.rate + 2)
          | .rotary => decide (x < 2 * c.rate)
          | .steady | .flicker | .ditch | .firebox => true) →
        ∃ bright, (l'.on = false ∨ known = true → bright = if l'.on = false then 0 else match c.effect with
          | .steady => c.level
          | .flicker => c.level * (128 + t.lamps.lfsr.toNat % 128) / 256
          | .strobe => if x = 0 ∨ x = 1 then c.level else 0
          | .rotary => low + (c.level - low) * (if x ≤ c.rate then x else 2 * c.rate - x) / c.rate
          | .ditch =>
            if c.partner = n ∨ (s.lamps.lamp c.partner).copy.effect ≠ .ditch
                ∨ (t.lamps.lamp c.partner).on = false then c.level
            else if t.lamps.effectCount.toNat / c.rate % 2 = 0 ∧ n < c.partner
                ∨ t.lamps.effectCount.toNat / c.rate % 2 = 1 ∧ c.partner < n then c.level
            else 0
          | .firebox => y)
        ∧ (l'.on = true → known = false → bright ≤ 255 ∧ l'.phase < 510)
        ∧ ∀ target, target = (if 5 ≤ s.supply.shed then 0
          else if 2 ≤ s.supply.shed then min 64 (bright * s.lampSet.scale / 255)
          else bright * s.lampSet.scale / 255) →
        l'.shown = (if c.enabled = false then 0 else if c.fadeStep = 0 then target
          else if l.shown < target then min target (l.shown + c.fadeStep)
          else max target (l.shown - c.fadeStep))
        ∧ (l'.on = true →
          (known = true → l'.phase = match c.effect with
            | .strobe => if x < c.rate + 1 then x + 1 else 0
            | .rotary => if x < 2 * c.rate - 1 then x + 1 else 0
            | .steady | .flicker | .ditch | .firebox => x)
          ∧ l'.flare = (if c.effect = .firebox then max (c.level / 4) (y - c.level / 8) else y))
        ∧ (l'.on = false → l'.phase = l.phase ∧ l'.flare = l.flare))
      ∧ (l'.openTimer ≠ none ↔ c.enabled = true ∧ l.latched = .none ∧ c.openEnable = true
          ∧ c.openMode ≠ .ignore ∧ 64 ≤ l'.shown ∧ l.lastCode < c.openThreshold)
      ∧ l' = { l with
          on := l'.on, phase := l'.phase, flare := l'.flare, shown := l'.shown
          overEpisode := l.overEpisode && !((!l.seenEffect && l.on) || (!l'.on && decide (l.retry = none)))
          openEpisode := l.openEpisode && decide (l'.openTimer ≠ none), seenEffect := false
          openTimer := if l'.openTimer = none then none else if l.openTimer = none
            then some (t.clock + 250 * 1024000) else l.openTimer })
    ∧ t = { s with
        clock := max s.clock s.timers.effect
        timers := { s.timers with effect := t.clock + 16 * 1024000 }
        lamps := { s.lamps with
          lamps := t.lamps.lamps, lfsr := t.lamps.lfsr, effectCount := t.lamps.effectCount } })
  ∧ (∀ (s : State) (n : Fin 10) (l : Lamp), s.lamps.lamps[n.val]? = some l →
    ∃ t, exec (.lampPwmPeriod n) s = .next t
      ∧ (t.lamps.lamp n).contact = (if l.shown = 0 then .released
          else match l.copy.side with
            | .low => .ground
            | .high => .supply)
      ∧ t = { s with
        clock := max s.clock l.pwmDue
        lamps := { s.lamps with lamps := s.lamps.lamps.set n { l with
          pwmDue := max s.clock l.pwmDue + 1024 * 1024, onTime := 4 * l.shown
          output := decide (0 < l.shown), seenPwm := false } } })
  ∧ ∀ (s : State) (n : Fin 10) (l : Lamp) (milliamps : Nat), s.lamps.lamps[n.val]? = some l →
    (l.output = false → exec (.lampOnTimeEnd n milliamps) s = .next s)
    ∧ (l.output = true →
      ∃ t, exec (.lampOnTimeEnd n milliamps) s = .next t ∧ (t.lamps.lamp n).contact = .released
      ∧ t = { s with
        clock := max s.clock (l.pwmDue - 1024 * 1024 + 1024 * l.onTime)
        lamps := { s.lamps with lamps := s.lamps.lamps.set n { l with
          output := false, lastCode := min 1023 milliamps } } })

/-- R170 to R172: an overcurrent of 600 or more for 20 us of an on-time acts once a PWM period by the lamp's mode, and
an open-load expiry by its mode: LATCH darkens, latches and records; RETRY darkens, starts 100 ms and records the
first of an episode; REPORT records the first of an episode; IGNORE does nothing. A latched or DISABLED lamp is not
tested. The retry timer stops at its expiry. The model's choices: log 1 (the clock in State); log 23 (a detection
carries its time); log 43 (the code of a cut on-time). -/
def Obligations.LampFaultsActByTheirModes : Prop :=
  (∀ (s : State) (n : Fin 10) (l : Lamp) (milliamps since : Nat), s.lamps.lamps[n.val]? = some l →
    (l.copy.enabled = false ∨ l.latched ≠ .none ∨ l.output = false ∨ l.seenPwm = true
        ∨ milliamps < 600 ∨ 1024 * l.onTime < since + 20 * 1024 →
      exec (.lampOvercurrent n milliamps since) s = .next s)
    ∧ (l.copy.enabled = true → l.latched = .none → l.output = true → l.seenPwm = false →
      600 ≤ milliamps → since + 20 * 1024 ≤ 1024 * l.onTime →
      ∃ t, exec (.lampOvercurrent n milliamps since) s = .next t
        ∧ (∀ records : Bool, records = (decide (l.copy.overMode = .latch)
            || (decide (l.copy.overMode ≠ .ignore) && !l.overEpisode)) →
          t = { s with
            clock := max s.clock (l.pwmDue - 1024 * 1024 + since + 20 * 1024)
            port := withNotice s.port (if records then [.fault] else [])
            status := { s.status with
              faultCount := if records then s.status.faultCount + 1 else s.status.faultCount }
            lamps := { s.lamps with lamps := s.lamps.lamps.set n { l with
              seenPwm := true, seenEffect := true
              shown := if l.copy.overMode = .latch ∨ l.copy.overMode = .retry then 0 else l.shown
              output := !decide (l.copy.overMode = .latch ∨ l.copy.overMode = .retry)
              onTime := if l.copy.overMode = .latch ∨ l.copy.overMode = .retry then 0 else l.onTime
              latched := if l.copy.overMode = .latch then .overcurrent else .none
              retry := if l.copy.overMode = .retry then some (t.clock + 100 * 1024000) else l.retry
              overEpisode := l.overEpisode
                || decide (l.copy.overMode = .retry ∨ l.copy.overMode = .report)
              lastKind := if records then .overcurrent else l.lastKind
              episodes := if records then l.episodes + 1 else l.episodes } } })))
  ∧ (∀ (s : State) (n : Fin 10) (l : Lamp) (due : Nat), s.lamps.lamps[n.val]? = some l →
    l.retry = some due →
    exec (.lampRetryExpiry n) s = .next { s with
      clock := max s.clock due
      lamps := { s.lamps with lamps := s.lamps.lamps.set n { l with retry := none } } })
  ∧ ∀ (s : State) (n : Fin 10) (l : Lamp) (due : Nat), s.lamps.lamps[n.val]? = some l →
    l.openTimer = some due →
    ∀ records : Bool, records = (l.copy.enabled && decide (l.latched = .none)
      && (decide (l.copy.openMode = .latch) || (decide (l.copy.openMode = .report) && !l.openEpisode))) →
    ∀ latches : Bool, latches = (l.copy.enabled && decide (l.latched = .none)
      && decide (l.copy.openMode = .latch)) →
    exec (.openLoadExpiry n) s = .next { s with
      clock := max s.clock due
      port := withNotice s.port (if records then [.fault] else [])
      status := { s.status with
        faultCount := if records then s.status.faultCount + 1 else s.status.faultCount }
      lamps := { s.lamps with lamps := s.lamps.lamps.set n { l with
        openTimer := none
        shown := if latches then 0 else l.shown, output := l.output && !latches
        onTime := if latches then 0 else l.onTime
        latched := if latches then .openLoad else l.latched
        openEpisode := l.openEpisode || (l.copy.enabled && decide (l.latched = .none)
          && decide (l.copy.openMode = .report))
        lastKind := if records then .openLoad else l.lastKind
        episodes := if records then l.episodes + 1 else l.episodes } } }

/-- R174 to R177: a heater expiry reads T, makes the sensor test in RUN, and works the stages enable, dry test, start,
preheat and regulate on it. A sensor fault, DRY and NOHEAT latch, each with a recorded fault (count + 1, FAULT); without
one neither count nor notices change. The fan follows the heater into and out of REGULATE, and in RUN takes its idle or
its run duty anew by c (R180). The model's choices: log 1 (the clock in State); log 51 (when a fan duty reaches SMF). -/
def Obligations.HeaterExpiryWorksItsStages : Prop :=
  ∀ (s : State) (code : BitVec 10),
    ∃ t, exec (.heaterTimerExpiry code) s = .next t
      ∧ ∀ h, h = { s.lamps.heater with lastT := code.toNat } → ∀ T, T = code.toNat →
        ∀ point, point = min (if s.traction.c = 0 then s.lampSet.idleSetpoint else s.lampSet.workSetpoint)
          (s.lampSet.dryLimit - 16) →
        ∀ faulty : Bool, faulty = (s.isRun && (decide (T < 16) || decide (1008 < T))) →
        ∀ latches : Bool, latches = (faulty && !h.sensor) →
        ∀ works : Bool, works = (decide (h.state = .preheat) || decide (h.state = .regulate)) →
        ∀ asked : Bool, asked = (s.isRun && decide (s.lampSet.smokeFunction ≤ 31)
          && s.radio.request.functions.getLsbD s.lampSet.smokeFunction && decide (s.supply.shed = 0)
          && !h.noHeat && !h.dry && !h.sensor && !faulty) →
        ∀ dries : Bool, dries = (asked && works && decide (s.lampSet.dryLimit < T)) →
        ∀ fails : Bool, fails = (asked && decide (h.state = .preheat) && !dries && decide (T < point)
          && decide (599 ≤ h.preheat)) →
        (asked = false → t.lamps.heater = { h with
          sensor := h.sensor || faulty, state := if h.state = .dry then .dry else .off
          output := h.output && !latches && !works })
        ∧ (dries = true → t.lamps.heater = { h with dry := true, state := .dry, output := false })
        ∧ (asked = true → dries = false →
          (h.state = .off ∨ h.state = .preheat →
            ∀ count, count = (if h.state = .off then 0 else h.preheat) →
            t.lamps.heater = (if point ≤ T then
                { h with state := .regulate, output := false, preheat := count }
              else if fails = true then
                { h with state := .off, output := false, preheat := count + 1, noHeat := true }
              else { h with state := .preheat, output := true, preheat := count + 1 }))
          ∧ (h.state = .regulate → t.lamps.heater = { h with
              output := if T + 8 < point then true else if point < T then false else h.output })
          ∧ (h.state = .dry → t.lamps.heater = h))
        ∧ t.lamps.fan = (if h.state ≠ .regulate ∧ t.lamps.heater.state = .regulate
              ∧ (s.lamps.fan.state = .off ∨ s.lamps.fan.state = .purge) then
            { s.lamps.fan with state := .run, purge := none, fast := decide (s.traction.c ≠ 0) }
          else if h.state = .regulate ∧ t.lamps.heater.state ≠ .regulate
              ∧ (s.lamps.fan.state = .run ∨ s.lamps.fan.state = .puff) then
            (if s.lampSet.purgeTime = 0 then { s.lamps.fan with state := .off, puff := none }
            else { s.lamps.fan with
              state := .purge, puff := none
              purge := some (t.clock + 1024000 * (1000 * s.lampSet.purgeTime)) })
          else if s.lamps.fan.state = .run then { s.lamps.fan with fast := decide (s.traction.c ≠ 0) }
          else s.lamps.fan)
        ∧ ∀ records : Bool, records = (latches || dries || fails) →
          t = { s with
            clock := max s.clock s.timers.heater
            port := withNotice s.port (if records then [.fault] else [])
            status := { s.status with
              faultCount := if records then s.status.faultCount + 1 else s.status.faultCount }
            timers := { s.timers with heater := t.clock + 100 * 1024000 }
            lamps := { s.lamps with heater := t.lamps.heater, fan := t.lamps.fan } }

/-- R180 to R182: a puff's expiry returns the fan to RUN with its duty chosen from c, a purge's to OFF; a fan PWM period
takes the duty of the fan's state, 0 in QUIET and at shed level 2 or more. At every moment of the period the half-bridge
asks for its high side in the on-phase and its low side after it; the side asked for is on once 500 ns have passed since
the other turned off, and the two are never on together. An overcurrent of 1000 or more for 20 us of an on-phase, the
high side being on, latches the fan with the high side off, stops its timers and is recorded. The model's choices: log 1
(the clock in State); log 22 (the fan's low side); log 23 (a detection carries its time); log 51 (when a fan duty
reaches SMF); log 57 (a dead time that ends with its phase). -/
def Obligations.FanTimersDutyAndOvercurrent : Prop :=
  (∀ (s : State) (due : Nat), s.lamps.fan.puff = some due →
    exec .puffTimerExpiry s = .next { s with
      clock := max s.clock due
      lamps := { s.lamps with fan := { s.lamps.fan with
        state := .run, puff := none, fast := decide (s.traction.c ≠ 0) } } })
  ∧ (∀ (s : State) (due : Nat), s.lamps.fan.purge = some due →
    exec .purgeTimerExpiry s = .next { s with
      clock := max s.clock due
      lamps := { s.lamps with fan := { s.lamps.fan with state := .off, purge := none } } })
  ∧ (∀ s : State, ∃ t, exec .fanPwmPeriod s = .next t
    ∧ (fanLawful s →
        fanLawful t ∧ ∀ now, t.clock ≤ now → ∀ g, g = t.lamps.fan.legAt now →
          fanLegSafe g now
          ∧ (now < t.clock + t.lamps.fan.drive * 50 → g.low = false
            ∧ (g.high = true ↔ ∀ off, g.lowOff = some off → off + 512 ≤ now))
          ∧ (t.clock + t.lamps.fan.drive * 50 ≤ now → g.high = false
            ∧ (g.low = true ↔ ∀ off, g.highOff = some off → off + 512 ≤ now)))
    ∧ t = { s with
      clock := max s.clock s.timers.fanPwm
      timers := { s.timers with fanPwm := max s.clock s.timers.fanPwm + 50 * 1024 }
      lamps := { s.lamps with fan := { s.lamps.fan with
        periodStart := t.clock, since := t.clock, leg := t.lamps.fan.leg
        drive := if s.isRun = false ∨ 2 ≤ s.supply.shed then 0 else match s.lamps.fan.state with
          | .off | .latched => 0
          | .run => if s.lamps.fan.fast then s.lampSet.fanRun else s.lampSet.fanIdle
          | .puff => s.lampSet.puffDuty
          | .purge => s.lampSet.fanIdle } } })
  ∧ ∀ (s : State) (milliamps since start : Nat),
    start = (if s.lamps.fan.leg.high then s.lamps.fan.since
      else max s.lamps.fan.since ((s.lamps.fan.leg.lowOff.map fun off => off + 512).getD 0)) →
    (s.lamps.fan.state = .latched ∨ milliamps < 1000
        ∨ s.lamps.fan.periodStart + s.lamps.fan.drive * 50 < start + since + 20 * 1024 →
      exec (.fanOvercurrent milliamps since) s = .next s)
    ∧ (s.lamps.fan.state ≠ .latched → 1000 ≤ milliamps →
      start + since + 20 * 1024 ≤ s.lamps.fan.periodStart + s.lamps.fan.drive * 50 →
      ∃ t, exec (.fanOvercurrent milliamps since) s = .next t
        ∧ (fanLawful s → fanLawful t ∧ t.lamps.fan.leg.high = false)
        ∧ t = { s with
          clock := max s.clock (start + since + 20 * 1024)
          port := withNotice s.port [.fault]
          status := { s.status with faultCount := s.status.faultCount + 1 }
          lamps := { s.lamps with fan := { s.lamps.fan with
            state := .latched, puff := none, purge := none, drive := 0
            since := t.clock, leg := t.lamps.fan.leg } } })

/-! ## Supply monitor (chapter 10) -/

/-- R184 to R191: a supply sample reads both voltages (32,000 at most) and works the supply state and level, the charge
enable from the shed level in force, and the shed level; a die reading works the thermal level by the entry temperatures
and, up to the level held, the exit temperatures 10 lower. The shed level is the larger of the two; SUPPLY is raised
when it or the supply state changes, and with both as they were nothing else changes. The readers of a shed level that
changes act on it: the traction controller (R80), the lamps, cut to 64 or dark (R169), the heater and the fan (R178,
R180, R181). Lamps that go dark keep the current code of their last completed on-time. An entry to RIDE and a rise of
the shed level to 4 or 5 end a balance run ABORTED (R110): its slot, the requester side and the traction state derived
afresh, an entry to RIDE before the other readers act; outside that slot and segment bytes no byte of memory changes.
The model's choices: log 1 (the clock in State); log 18 (an entry to DRIVE within a period); log 20 (the shed level the
charge enable sees); log 32 (the order in which readers are told); log 43 (the current code of a cut on-time); log 49
(the stop mode and freewheel of a derivation after a set change); log 51 (when a fan duty reaches SMF); log 53 (a
stopped ride count under a larger limit). -/
def Obligations.SupplySamplesAndDieReadings : Prop :=
  (∀ (s : State) (track store : Nat) (u : Supply), u = s.supply →
    ∃ t, exec (.supplySample track store) s = .next t
      ∧ t.supply.vtrk = min 32000 track ∧ t.supply.vsto = min 32000 store
      ∧ (∀ lost, lost = (if t.supply.vtrk < u.cfg.lost then u.lost + 1 else 0) →
        ∀ back, back = (if u.cfg.lost + 1000 ≤ t.supply.vtrk then u.back + 1 else 0) →
        ∀ stored, stored = (if t.supply.vsto < u.cfg.s4 then 4 else if t.supply.vsto < u.cfg.s3 then 3
          else if t.supply.vsto < u.cfg.s2 then 2 else if t.supply.vsto < u.cfg.s1 then 1 else 0) →
        (u.state = .normal → lost < 2 → t.supply.state = .normal ∧ t.supply.lost = lost
          ∧ t.supply.ride = u.ride ∧ t.supply.back = u.back
          ∧ (u.level = 0 → t.supply.strong = u.strong
            ∧ (if t.supply.vtrk < u.cfg.weak then
                (if 99 ≤ u.weak then t.supply.level = 1 ∧ t.supply.weak = 0
                else t.supply.level = 0 ∧ t.supply.weak = u.weak + 1)
              else t.supply.level = 0 ∧ t.supply.weak = 0))
          ∧ (u.level = 1 → t.supply.weak = u.weak
            ∧ (if u.cfg.weak + 500 ≤ t.supply.vtrk then
                (if 999 ≤ u.strong then t.supply.level = 0 ∧ t.supply.strong = 0
                else t.supply.level = 1 ∧ t.supply.strong = u.strong + 1)
              else t.supply.level = 1 ∧ t.supply.strong = 0))
          ∧ (1 < u.level → t.supply.level = u.level ∧ t.supply.weak = u.weak ∧ t.supply.strong = u.strong))
        ∧ (u.state = .normal → 2 ≤ lost → t.supply.ride = 0 ∧ t.supply.back = 0
          ∧ t.supply.lost = lost ∧ t.supply.weak = u.weak ∧ t.supply.strong = u.strong
          ∧ (if t.supply.vsto < 5000 then t.supply.state = .down ∧ t.supply.level = 5
            else t.supply.state = .ride ∧ t.supply.level = max u.level stored))
        ∧ (u.state ≠ .normal → 10 ≤ back → t.supply.state = .normal ∧ t.supply.ride = 0
          ∧ t.supply.lost = 0 ∧ t.supply.weak = 0 ∧ t.supply.strong = 0 ∧ t.supply.back = back
          ∧ t.supply.level = (if t.supply.vtrk < u.cfg.weak then 1 else 0))
        ∧ (u.state ≠ .normal → back < 10 → t.supply.back = back
          ∧ t.supply.lost = u.lost ∧ t.supply.weak = u.weak ∧ t.supply.strong = u.strong
          ∧ t.supply.ride = (if u.cfg.rideLimit < u.ride then u.ride else u.ride + 1)
          ∧ (u.state = .ride → if t.supply.vsto < 5000 then
              t.supply.state = .down ∧ t.supply.level = 5
            else t.supply.state = .ride
              ∧ t.supply.level = max u.level (max stored (if u.cfg.rideLimit < t.supply.ride then 4 else 0))
              ∧ u.level ≤ t.supply.level)
          ∧ (u.state = .down → t.supply.state = .down ∧ t.supply.level = 5)))
      ∧ (t.supply.charge = true ↔ t.supply.state = .normal ∧ u.shed < 5
          ∧ t.supply.vsto + 1500 < t.supply.vtrk)
      ∧ t.supply.thermal = u.thermal ∧ t.supply.die = u.die ∧ t.supply.cfg = u.cfg
      ∧ t.supply.shed = max t.supply.level t.supply.thermal
      ∧ (∀ p, p = withNotice s.port (if t.supply.state = u.state then [] else [.supply]) →
        ∀ q, q = { s with clock := t.clock, timers := t.timers, supply := t.supply, port := p } →
        (s.balance.run = none → t.supply.shed = u.shed → t = q)
        ∧ (s.xm.wf = true → voicesLawful s → runSlot s → sameBut s.xm t.xm (inRunEnd s)
          ∧ ∃ w : State,
            (u.state = .normal ∧ t.supply.state ≠ .normal →
              runClosed { q with supply := { t.supply with charge := u.charge, shed := u.shed } } w .aborted)
            ∧ (¬(u.state = .normal ∧ t.supply.state ≠ .normal) → w = q)
            ∧ (t.supply.shed = u.shed → t = { w with supply := t.supply })
            ∧ (t.supply.shed ≠ u.shed → shedTold { w with supply := t.supply } t u.shed)))
      ∧ supplyFrame s t
      ∧ (t.supply.state ≠ u.state ∨ t.supply.shed ≠ u.shed → t.port.notice.getLsbD 4 = true)
      ∧ (u.state = .normal → t.supply.state ≠ .normal → t.balance.run = none)
      ∧ (∀ r : BalanceRun, s.balance.run = some r → r.slot < 32 → s.xm.wf = true → voicesLawful s →
        (u.state = .normal ∧ t.supply.state ≠ .normal ∨ 4 ≤ t.supply.shed ∧ u.shed < t.supply.shed →
          runEnded t r .aborted)
        ∧ (¬(u.state = .normal ∧ t.supply.state ≠ .normal) →
          ¬(4 ≤ t.supply.shed ∧ u.shed < t.supply.shed) → t.balance.run = some r))
      ∧ (4 ≤ t.supply.shed → u.shed < t.supply.shed → t.balance.run = none ∧ t.traction.u = 0
        ∧ t.traction.prev = 0
        ∧ (s.isRun = true → s.bridges.allLatched = false →
          t.traction.state = .held ∧ t.bridges.held = .coast))
      ∧ t.clock = max s.clock s.timers.supply
      ∧ t.timers = { s.timers with supply := t.clock + 1024000 }
      ∧ (t.supply.state = u.state → t.supply.shed = u.shed →
        t = { s with clock := t.clock, timers := t.timers, supply := t.supply }))
  ∧ ∀ (s : State) (celsius : Int), (Instr.dieTemperatureExpiry celsius).wellFormed = true →
    ∃ t, exec (.dieTemperatureExpiry celsius) s = .next t
      ∧ t.supply.die = celsius
      ∧ t.supply.thermal =
          (if 150 ≤ celsius ∨ (5 ≤ s.supply.thermal ∧ 140 ≤ celsius) then 5
            else if 140 ≤ celsius ∨ (2 ≤ s.supply.thermal ∧ 130 ≤ celsius) then 2
            else if 125 ≤ celsius ∨ (1 ≤ s.supply.thermal ∧ 115 ≤ celsius) then 1 else 0)
      ∧ t.supply = { s.supply with
          die := celsius, thermal := t.supply.thermal
          shed := max s.supply.level t.supply.thermal }
      ∧ (t.supply.shed ≠ s.supply.shed → t.port.notice.getLsbD 4 = true)
      ∧ (t.supply.shed ≠ s.supply.shed → s.xm.wf = true → voicesLawful s → runSlot s →
        shedTold { s with clock := t.clock, timers := t.timers, supply := t.supply } t s.supply.shed
        ∧ sameBut s.xm t.xm (inRunEnd s))
      ∧ supplyFrame s t
      ∧ (∀ r : BalanceRun, s.balance.run = some r → r.slot < 32 → s.xm.wf = true → voicesLawful s →
        if 4 ≤ t.supply.shed ∧ s.supply.shed < t.supply.shed then runEnded t r .aborted
        else t.balance.run = some r)
      ∧ t.clock = max s.clock s.timers.die
      ∧ t.timers = { s.timers with die := t.clock + 100 * 1024000 }
      ∧ (t.supply.shed = s.supply.shed →
        t = { s with clock := t.clock, timers := t.timers, supply := t.supply })

/-! ## Status, resets and the run state (chapter 1) -/

/-- R24, R25 and R193: the status timer begins an update, or is deferred during one and during a reset's writes. The end
of an update that begins now leaves the generation up by 2 and even as it was, every field of 11.2 as its owner shows
it, and 0 beyond; it writes 0100H to 01FFH alone. The end of an update whose words an idle step has begun to write
leaves those words as they stand, writes the rest as the end of an update that begins now would, and leaves the
generation up by 1. The model's choices: log 1 (the clock in State); log 9 (the remaining dwell shown); log 21 (where
commands leave the rotation); log 30 (what a hold leaves); log 33 (SLOT_TAKE and SWEEP_END); log 38 (a status expiry in
a reset); log 40 (the role of the radio block). -/
def Obligations.StatusUpdatesWriteTheRecord : Prop :=
  (∀ s : State, ∃ t, exec .statusTimerExpiry s = .next t
    ∧ t = { s with
        clock := max s.clock s.timers.status
        timers := { s.timers with status := t.clock + 20 * 1024000 }
        status := if s.status.updating = none ∧ s.port.reset = none
          then { s.status with updating := some 0 } else { s.status with deferred := true } })
  ∧ (∀ s : State, s.xm.wf = true → s.status.updating = some 0 → s.port.reset = none →
    s.sound.voices.length = 8 → s.lamps.lamps.length = 10 →
    ∃ t, exec .statusUpdateEnd s = .next t
      ∧ t.xm.readBytes 0x100 2 = bytes16 (s.status.generation + 2).toNat
      ∧ t.xm.readBytes 0x102 3 = [if s.isRun then 2 else if s.port.start.isSome then 1 else 0,
          s.port.startFault.code, BitVec.ofNat 8 s.sets.chain.length]
      ∧ (∀ k, k < 4 → t.xm.read (0x105 + k) = (match s.sets.chain[k]? with
          | some e => BitVec.ofNat 8 e.index
          | none => 0xFF))
      ∧ t.xm.readBytes 0x109 3 = [if s.sets.clamped then 1 else 0, BitVec.ofNat 8 s.traction.state.code,
          BitVec.ofNat 8 ((match s.traction.direction with | .forward => 0 | .reverse => 1)
            + (if s.traction.pending then 2 else 0) + if s.traction.latch then 4 else 0)]
      ∧ t.xm.readBytes 0x10C 8 = bytes16 s.traction.t ++ bytes16 s.traction.c ++ bytes16 s.traction.u
          ++ bytes16 s.motion.m
      ∧ t.xm.readBytes 0x114 5 = [BitVec.ofNat 8 (wheelAngle s), BitVec.ofNat 8 s.motion.sensor.code,
          BitVec.ofNat 8 s.bridges.a.state.code, BitVec.ofNat 8 s.bridges.b.state.code,
          BitVec.ofNat 8 ((if s.bridges.a.chopFlag then 1 else 0) + if s.bridges.b.chopFlag then 2 else 0)]
      ∧ t.xm.readBytes 0x119 4 = [
          (match s.balance.run with | none => 0 | some r => if r.held then 2 else 1),
          s.bridges.a.episodes, s.bridges.b.episodes,
          (match s.balance.run with
            | none => 0
            | some r => if r.step = 1 ∧ r.driving = false then 0 else BitVec.ofNat 8 r.step)]
      ∧ t.xm.readBytes 0x11D 5 = (match s.radio.lease with
          | .none => [0, 0xFF, if s.radio.failsafe then 2 else 0, 0, 0]
          | .radio sender cls _ =>
            [1, BitVec.ofNat 8 cls, if s.radio.failsafe then 2 else 0] ++ bytes16 sender
          | .onBoard mark =>
            [2, 0xFF, BitVec.ofNat 8 ((if mark then 1 else 0) + if s.radio.failsafe then 2 else 0), 0, 0])
      ∧ t.xm.readBytes 0x122 6 = [BitVec.ofNat 8 s.radio.request.throttle,
          (match s.radio.request.direction with | .forward => 0 | .reverse => 1)]
            ++ bytes32 s.radio.request.functions.toNat
      ∧ t.xm.readBytes 0x128 4 = [BitVec.ofNat 8 s.radio.consist.number,
          (match s.radio.consist.role with | .lead => 0 | .mid => 1 | .trail => 2),
          if s.radio.consist.reversed then 1 else 0,
          if s.radio.zone.present then BitVec.ofNat 8 s.radio.zone.zone else 0]
      ∧ t.xm.readBytes 0x12C 2 = bytes16 s.radio.zone.cap
      ∧ t.xm.readBytes 0x12E 2 = (match s.radio.station with
          | .none => [0, 0]
          | .braking _ => [1, 0]
          | .dwell _ ends => [2, BitVec.ofNat 8 ((ends - s.clock + 1023999999) / 1024000000)])
      ∧ t.xm.readBytes 0x130 2 = [BitVec.ofNat 8 s.radio.logIndex, if s.radio.overflow then 1 else 0]
      ∧ (∀ (k : Nat) (v : Voice), s.sound.voices[k]? = some v →
          t.xm.read (0x132 + k) = BitVec.ofNat 8 v.state.code)
      ∧ t.xm.readBytes 0x13A 4 = [if s.sound.voices.any (fun v => decide (v.state = .starved)) then 1 else 0,
          (match s.sound.badClip with | some c => BitVec.ofNat 8 c | none => 0xFF),
          BitVec.ofNat 8 s.sound.badUse.code, s.status.faultCount]
      ∧ (∀ k, k < 14 → ((t.xm.read 0x13E).toNat + 256 * (t.xm.read 0x13F).toNat).testBit k = latchedBit s k)
      ∧ (t.xm.read 0x13F).toNat < 64
      ∧ (∀ (k : Nat) (l : Lamp), s.lamps.lamps[k]? = some l →
          t.xm.read (0x140 + k) = BitVec.ofNat 8 l.shown
          ∧ t.xm.read (0x14A + k) = BitVec.ofNat 8 l.lastKind.code ∧ t.xm.read (0x154 + k) = l.episodes)
      ∧ t.xm.readBytes 0x15E 4 = [BitVec.ofNat 8 s.lamps.heater.state.code,
          BitVec.ofNat 8 ((if s.lamps.heater.noHeat then 1 else 0) + (if s.lamps.heater.dry then 2 else 0)
            + if s.lamps.heater.sensor then 4 else 0),
          if s.lamps.heater.sensor then 1 else 0, BitVec.ofNat 8 s.lamps.fan.state.code]
      ∧ t.xm.readBytes 0x162 2 = bytes16 s.lamps.heater.lastT
      ∧ t.xm.readBytes 0x164 4 = [BitVec.ofNat 8 s.supply.state.code, BitVec.ofNat 8 s.supply.level,
          BitVec.ofNat 8 s.supply.thermal, BitVec.ofNat 8 s.supply.shed]
      ∧ t.xm.readBytes 0x168 7 = bytes16 s.supply.vtrk ++ bytes16 s.supply.vsto
          ++ bytes16 (BitVec.ofInt 16 s.supply.die).toNat ++ [if s.supply.charge then 1 else 0]
      ∧ (∀ a, a < 0x91 → t.xm.read (0x16F + a) = 0)
      ∧ sameBut s.xm t.xm (fun a => 0x100 ≤ a ∧ a < 0x200)
      ∧ t = { s with
          xm := t.xm, lastGranted := .statusWriter
          status := { s.status with
            generation := s.status.generation + 2
            updating := if s.status.deferred then some 0 else none, deferred := false } })
  ∧ ∀ (s : State) (k : Nat), s.xm.wf = true → s.status.updating = some k → 0 < k → s.port.reset = none →
    ∃ t, exec .statusUpdateEnd s = .next t
      ∧ (∃ u, exec .statusUpdateEnd { s with status := { s.status with updating := some 0 } } = .next u
        ∧ ∀ a, a < 0x200 → 0x100 + 2 * k ≤ a → t.xm.read a = u.xm.read a)
      ∧ t.xm.readBytes 0x100 2 = bytes16 (s.status.generation + 1).toNat
      ∧ sameBut s.xm t.xm (fun a => a = 0x100 ∨ a = 0x101 ∨ (0x100 + 2 * k ≤ a ∧ a < 0x200))
      ∧ t = { s with
          xm := t.xm, lastGranted := .statusWriter
          status := { s.status with
            generation := s.status.generation + 1
            updating := if s.status.deferred then some 0 else none, deferred := false } }

/-- R13 to R15: each reset leaves every block at its reset values, QUIET with no start in flight, the registers as R13
lists them, memory to be rewritten; a SOFT reset answers the bytes of its CONTROL write. The end of the rewrites: all of
memory cleared after a POWER reset; after the others each slot found TAKEN or HELD is DONE with outcome RESET, each
PLAYING segment of a STREAM entry EMPTY, and the log's write index the read index; the identity, the cause and a status
record of generation 2 stand. From every state in which a reset's writes are in progress their end is reached, and the
sweep and the start asked for meanwhile begin then (R13); with no reset in progress the command changes nothing. The
model's choices: log 3 (an event whose cause is not there); log 4 (the moment of State.reset); log 6 (free MISO bytes);
log 10 (values at reset the manual does not give); log 21 (where commands leave the rotation); log 38 (a status expiry
in a reset); log 47 (a reset during a reset's writes); log 52 (the fan's PWM timer at a reset). -/
def Obligations.ResetsLeaveTheResetState : Prop :=
  (∀ s : State, s.port.reset = none → exec .resetRewritesEnd s = .next s)
  ∧ (∀ (s : State) (j : ResetJob), s.port.reset = some j →
    ∃ t, exec .resetRewritesEnd s = .next t
      ∧ (.beginStatus ∈ j.todo ∨ s.status.updating = none ∨ s.status.updating = some 0 →
        t.status.generation = s.status.generation + 2)
      ∧ (s.xm.wf = true → t.xm.readBytes 0x100 2 = bytes16 t.status.generation.toNat)
      ∧ t = { s with
          xm := t.xm
          lastGranted := .statusWriter
          port := { s.port with
            reset := none, notice := t.port.notice
            start := if j.startRequest then some {
                stage := .anchor, todo := (List.range 15).map fun k => 8 + 2 * k, image := []
                baseIndex := 0, stopRequest := false }
              else s.port.start }
          orders := { s.orders with
            sweep := if j.sweepRequest then some { pos := 0, copy := none, current := none }
              else s.orders.sweep }
          status := { s.status with
            generation := t.status.generation
            updating := if s.status.deferred then some 0 else none, deferred := false }
          radio := { s.radio with logIndex := t.radio.logIndex } })
  ∧ (∀ s : State,
    (∃ t, exec .powerReset s = .next t
      ∧ t = { State.reset with
          pending := s.pending, free := s.free, xm := s.xm
          port := { Port.atReset with reset := t.port.reset }, status := StatusWriter.atReset }
      ∧ t.port.reset ≠ none)
    ∧ (∃ t, exec .brownoutReset s = .next t
      ∧ t = { State.reset with
          pending := s.pending, free := s.free, xm := s.xm
          port := { Port.atReset with reset := t.port.reset }, status := StatusWriter.atReset
          radio := { Radio.atReset with logIndex := s.radio.logIndex } }
      ∧ t.port.reset ≠ none)
    ∧ ∃ t, exec .softReset s = .next t
      ∧ t = { State.reset with
          pending := s.pending, free := s.free + 5, xm := s.xm
          port := { Port.atReset with reset := t.port.reset, miso := t.port.miso }
          status := StatusWriter.atReset
          radio := { Radio.atReset with logIndex := s.radio.logIndex } }
      ∧ t.port.reset ≠ none ∧ t.port.miso.length = 6)
  ∧ (∀ s u : State, s.xm.wf = true → exec .powerReset s = .next u →
    ∃ t, exec .resetRewritesEnd u = .next t
      ∧ t.xm = State.reset.xm
      ∧ t = { State.reset with pending := s.pending, free := s.free })
  ∧ ∀ (s u : State) (cause : Byte), s.xm.wf = true →
    (exec .brownoutReset s = .next u ∧ cause = 2 ∨ exec .softReset s = .next u ∧ cause = 3) →
    ∃ t, exec .resetRewritesEnd u = .next t
      ∧ t.xm.readBytes 0 5 = [0x40, 0x54, 0x01, 0x00, cause]
      ∧ (∀ n, n < 32 → (s.xm.read (0x200 + 64 * n) = 2 ∨ s.xm.read (0x200 + 64 * n) = 4) →
        t.xm.read (0x200 + 64 * n) = 3 ∧ t.xm.read (0x228 + 64 * n) = 0x2F
          ∧ t.port.notice.getLsbD 0 = true)
      ∧ (∀ n, n < 64 → s.xm.read (0x1401 + 16 * n) = 2 → ∀ k, k < 2 →
        s.xm.read (0x140E + 16 * n + k) = 3 → t.xm.read (0x140E + 16 * n + k) = 0
          ∧ t.port.notice.getLsbD 2 = true)
      ∧ t.radio.logIndex = (s.xm.read 0x32).toNat % 64
      ∧ t.xm.read 0x100 = 2 ∧ t.xm.read 0x101 = 0
      ∧ sameBut s.xm t.xm (fun a => a < 5 ∨ (0x100 ≤ a ∧ a < 0x200)
          ∨ (∃ n, n < 32 ∧ (s.xm.read (0x200 + 64 * n) = 2 ∨ s.xm.read (0x200 + 64 * n) = 4)
            ∧ (a = 0x200 + 64 * n ∨ a = 0x228 + 64 * n))
          ∨ (0x1400 ≤ a ∧ a < 0x1800 ∧ 14 ≤ a % 16 ∧ s.xm.read (a / 16 * 16 + 1) = 2
            ∧ s.xm.read a = 3))
      ∧ t = { u with
          xm := t.xm
          lastGranted := .statusWriter
          port := { u.port with reset := none, notice := t.port.notice }
          status := { StatusWriter.atReset with generation := 2 }
          radio := { u.radio with logIndex := t.radio.logIndex } }

/-- R8, R10 to R12: a START in QUIET begins a start at the anchor, and so loads the anchor's, the radio block's and the
lamp table's fields with their clamps (R5, R46, R85, R113, R161, R185); its end, whatever of its reads an idle step has
made already, reads the rest and enters RUN with the base set as the only entry when the base set is usable, and is
refused BAD_INDEX or NOT_VALID otherwise, what it has loaded staying loaded, CONTROL raised. Of a stage that is partly
read, the words read already count as they then stood. The entry puts the set alone into chain and cache (R35), the
traction controller at rest in STOPPED under the set's stop mode (R84), requests, zone record, station stop and receiver
at their starting values, every voice IDLE (R160) and voice 0 on the engine clip, where its entry is valid, at the
engine pitch (R151, R152); memory changes in segment bytes alone. START_REFUSED with a usable base set, and START_END
with one that is not, change nothing. With a stop request recorded, the teardown follows the entry at once; a refusal
drops the request. A CONTROL write of RUN = 0 makes the teardown, or is recorded with the start; with a set action in
flight the teardown waits for its decision (R37), and of the actions behind it nothing comes but NOT_RUNNING for an
order; the part is then QUIET with everything off (R84, R100, R160, R169), a balance run ending ABORTED first (R110); a
voice on a STREAM clip gives its segment back, raising STREAM (R159), and outside that run's slot, those segments and
the orders refused behind a decision no byte of memory changes. The model's choices: log 3 (an event whose cause is not
there); log 6 (free MISO bytes); log 8 (the cap of an emptied zone record); log 12 (set actions that wait at a
teardown); log 13 (frames and a service write at a teardown); log 40 (the role of the radio block); log 43 (the current
code of a cut on-time); log 49 (the stop mode and freewheel of a derivation after a set change). -/
def Obligations.StartsAndTeardowns : Prop :=
  (∀ s : State, ∃ t, exec .start s = .next t
    ∧ (s.isRun = true ∨ s.port.start ≠ none →
      t = { s with free := t.free, port := { s.port with miso := t.port.miso } })
    ∧ (s.isRun = false → s.port.start = none → s.port.reset = none →
      t = { s with
        free := t.free
        port := { s.port with
          miso := t.port.miso
          start := some { stage := .anchor, todo := (List.range 15).map fun k => 8 + 2 * k, image := []
                          baseIndex := 0, stopRequest := false } } })
    ∧ (s.isRun = false → s.port.start = none → ∀ j, s.port.reset = some j →
      t = { s with
        free := t.free
        port := { s.port with
          miso := t.port.miso, reset := some { j with startRequest := true } } }))
  ∧ (∀ (s : State) (j : StartJob), s.xm.wf = true → s.isRun = false → s.port.start = some j →
    s.radio.lease = .none →
    ∀ p : State × StartJob, p = State.endLoads 4 s j →
    ∀ d : DriveSet, d = loadDriveSet p.2.image (0xA00 + 256 * p.2.baseIndex) →
    ∀ img : Memory, img = j.todo.foldl (fun image a => image.copyWord s.xm a) j.image →
    (j = StartJob.first → ∀ a, 8 ≤ a → a < 0x26 → img.read a = s.xm.read a)
    ∧ (j.stage = .anchor → p.2.baseIndex = (img.read 9).toNat
      ∧ p.1.orders = { s.orders with period := min 64 (img.read 8).toNat }
      ∧ p.1.timers = { s.timers with
          sweep := if p.1.orders.period = 0 then none else some (s.clock + 1024000 * p.1.orders.period) }
      ∧ motionRead img p.1.motion.cfg
      ∧ (∀ sensor : Sensor, sensor = (if p.1.motion.cfg.magnets = 0 then .none else .ok) →
        p.1.motion = { s.motion with
          cfg := p.1.motion.cfg, sensor := sensor, ring := [], p := 0, lastEdge := none, m := 0, stall := none
          loss := 0, recovery := 0, phi := 0
          mark := s.motion.mark || decide (s.motion.sensor ≠ sensor) })
      ∧ bridgeRead img p.1.bridges.cfg ∧ supplyRead img p.1.supply.cfg
      ∧ p.1.supply = { s.supply with cfg := p.1.supply.cfg })
    ∧ (j.stage ≠ .anchor → p.2.baseIndex = j.baseIndex ∧ p.1.orders = s.orders ∧ p.1.timers = s.timers
      ∧ p.1.motion = s.motion ∧ p.1.bridges = s.bridges ∧ p.1.supply = s.supply)
    ∧ (j.stage = .anchor ∨ j.stage = .radioBlock →
      radioRead (if j.stage = .radioBlock then img else s.xm) p.1.radio.cfg p.1.radio.consist
      ∧ p.1.radio = { s.radio with cfg := p.1.radio.cfg, consist := p.1.radio.consist })
    ∧ (j.stage = .lampTable ∨ j.stage = .baseSet ∨ j.stage = .loaded → p.1.radio = s.radio)
    ∧ (j.stage = .anchor ∨ j.stage = .radioBlock ∨ j.stage = .lampTable →
      (∀ (n : Nat) (l : Lamp), n < 10 → s.lamps.lamps[n]? = some l →
        ∃ (c : LampCopy) (clamped : Bool), lampRead (if j.stage = .lampTable then img else s.xm) n c clamped
          ∧ p.1.lamps.lamps[n]? = some (if c.enabled then { l with copy := c }
            else { l with copy := c, shown := 0, output := false, onTime := 0 }))
      ∧ (p.2.baseIndex ≤ 7 → d = loadDriveSet s.xm (0xA00 + 256 * p.2.baseIndex)
        ∧ (d.valid = true ↔ s.xm.read (0xA00 + 256 * p.2.baseIndex) = 0x5A)))
    ∧ (j.stage = .baseSet ∨ j.stage = .loaded → p.1.lamps = s.lamps
      ∧ p.2.image = if j.stage = .loaded then j.image else img)
    ∧ (p.2.baseIndex ≤ 7 → d.valid = true →
      exec .startRefused s = .next s
      ∧ ∃ t, exec .startEnd s = .next t
        ∧ t.port.start = none ∧ t.port.startFault = .ok ∧ t.port.notice.getLsbD 5 = true
        ∧ (j.stopRequest = false ∨ s.balance.run = none → t.orders = p.1.orders)
        ∧ t.timers = p.1.timers ∧ t.motion = p.1.motion ∧ t.supply = p.1.supply
        ∧ t.bridges.cfg = p.1.bridges.cfg ∧ t.radio.cfg = p.1.radio.cfg ∧ t.radio.consist = p.1.radio.consist
        ∧ t.traction.latch = false ∧ t.traction.c = 0 ∧ t.traction.u = 0
        ∧ t.traction.direction = s.traction.direction
        ∧ t.radio.lease = .none ∧ t.radio.repeats = [] ∧ t.radio.zone.present = false
        ∧ t.radio.station = .none
        ∧ t.radio.request = { throttle := 0, direction := s.traction.direction, functions := 0 }
        ∧ (j.stopRequest = false →
          t.isRun = true ∧ t.traction.state = .stopped ∧ t.lamps = p.1.lamps
          ∧ t.sets = { s.sets with
              chain := [{ index := p.2.baseIndex, resume := none }], cache := some d
              clamped := driveSetClamped p.2.image (0xA00 + 256 * p.2.baseIndex) }
          ∧ t.bridges.held = stopCommand d.traction)
        ∧ (j.stopRequest = true → s.balance.run = none → s.sound.voices.length = 8 →
          t.isRun = false ∧ t.traction.state = .quiet ∧ t.bridges.held = .off
          ∧ t.sets = { s.sets with chain := [], cache := none, clamped := false }
          ∧ (∀ v ∈ t.sound.voices, v.state = .idle)
          ∧ (∀ l ∈ t.lamps.lamps, l.shown = 0 ∧ l.output = false)
          ∧ t.lamps.heater.output = false ∧ t.lamps.fan.drive = 0)
        ∧ (voicesLawful s → ∃ u : State,
          runEntered p.1 u p.2.baseIndex d (driveSetClamped p.2.image (0xA00 + 256 * p.2.baseIndex))
          ∧ sameBut s.xm u.xm inSegments
          ∧ (j.stopRequest = false → t = u)
          ∧ (j.stopRequest = true → s.balance.run = none → tornDown u t ∧ sameBut s.xm t.xm inSegments)))
    ∧ (7 < p.2.baseIndex ∨ d.valid = false →
      exec .startEnd s = .next s
      ∧ exec .startRefused s = .next { p.1 with
          port := { withNotice s.port [.control] with
            start := none, startFault := if 7 < p.2.baseIndex then .badIndex else .notValid } }
      ∧ p.1.isRun = false ∧ p.1.xm = s.xm ∧ p.1.sets = s.sets ∧ p.1.traction = s.traction
      ∧ p.1.sound = s.sound ∧ p.1.bridges = { s.bridges with cfg := p.1.bridges.cfg }))
  ∧ (∀ s : State, s.isRun = false → ∃ t, exec .teardown s = .next t
    ∧ t = { s with
        free := t.free
        port := { s.port with
          miso := t.port.miso
          start := s.port.start.map fun j => { j with stopRequest := true } } })
  ∧ (∀ (s : State) (a : SetAction) (rest : List SetAction) (c : Instr) (d : DriveSet) (clamped : Bool),
    s.xm.wf = true → s.isRun = true → s.port.teardownPending = true → s.sets.queue = a :: rest → queueSlots s →
    (∀ r, s.balance.run = some r → r.slot < 32 ∧ ∀ b ∈ a :: rest, b.source ≠ .order r.slot) →
    voicesLawful s → staged a s.xm = some (d, clamped) →
    (a.kind = .invoke ∧ c = .invoke ∨ a.kind = .switch ∧ c = .switch ∨ a.kind = .returnSet ∧ c = .returnSet
      ∨ a.kind = .refresh ∧ c = .refreshSet
        ∧ ∀ w o, s.orders.sweep = some w → w.current = some o → o.kind ≠ 5) →
    ∃ t, exec c s = .next t
      ∧ t.isRun = false ∧ t.port.teardownPending = false
      ∧ t.sets = { chain := [], cache := none, clamped := false, queue := [] }
      ∧ (∀ n, a.source = .order n → t.xm.read (slotBase n) = 3)
      ∧ (∀ b ∈ rest, ∀ n, b.source = .order n → slotDone t.xm n .notRunning 0 [0, 255, 255, 255, 255])
      ∧ t.traction.state = .quiet ∧ t.bridges.held = .off ∧ t.balance.run = none ∧ t.radio.lease = .none
      ∧ t.radio.handling = none ∧ t.radio.waiting = [] ∧ t.radio.service = none
      ∧ t.port.notice.getLsbD 5 = true
      ∧ sameBut s.xm t.xm (fun x => inReports s x ∨ inRunEnd s x))
  ∧ ∀ s : State, s.isRun = true →
    ∃ t, exec .teardown s = .next t
      ∧ (s.sets.queue ≠ [] →
        t = { s with
          free := t.free
          port := { s.port with miso := t.port.miso, teardownPending := true } })
      ∧ (s.sets.queue = [] → voicesLawful s →
        t.isRun = false ∧ t.sets = { s.sets with chain := [], cache := none, clamped := false }
        ∧ t.traction.c = 0 ∧ t.traction.i = 0 ∧ t.traction.u = 0 ∧ t.traction.latch = false
        ∧ t.traction.direction = s.traction.direction ∧ t.traction.state = .quiet
        ∧ t.bridges.held = .off ∧ t.bridges.a.state = .off
        ∧ (s.bridges.cfg.mode = .parallel → t.bridges.b.state = .off)
        ∧ t.balance.run = none ∧ t.radio.lease = .none ∧ t.radio.station = .none
        ∧ t.radio.zone.present = false
        ∧ (∀ v ∈ t.sound.voices, v.state = .idle)
        ∧ (∀ l ∈ t.lamps.lamps, l.shown = 0 ∧ l.output = false)
        ∧ t.lamps.heater.output = false ∧ t.lamps.heater.working = false
        ∧ (t.lamps.fan.state = .off ∨ t.lamps.fan.state = .latched) ∧ t.lamps.fan.drive = 0
        ∧ (fanLawful s → t.lamps.fan.leg.high = false)
        ∧ t.radio.handling = none ∧ t.radio.waiting = [] ∧ t.radio.service = none
        ∧ t.port.notice.getLsbD 5 = true
        ∧ t.supply = s.supply ∧ t.motion = s.motion ∧ t.timers = s.timers
        ∧ (s.xm.wf = true → runSlot s → sameBut s.xm t.xm (inRunEnd s)
          ∧ ∃ u : State, u = { s with free := u.free, port := { s.port with miso := u.port.miso } }
            ∧ tornDown u t))

/-! ## Laws that every step keeps -/

/-- The memory keeps its canonical form: addresses strictly rising, below 10000H, and no listed byte that reads as an
unlisted one does, so that equal memories are equal data. The model's choices: log 2 (what an idle step grants); log
7 (an unlisted byte reads 0). -/
def Obligations.EveryStepKeepsMemoryCanonical : Prop :=
  ∀ s t : State, s.xm.wf = true → step s = .next t → t.xm.wf = true

/-- R87, R89 and R94: after every step no leg of a bridge has both gates on, only gates asked for are on, a gate that is
on came on 500 ns or more after the other gate of its leg went off, and a bridge out of DRIVE holds the gate pattern
of its state and nothing of an on-phase. The model's choices: log 1 (the clock in State); log 2 (what an idle step
grants). -/
def Obligations.EveryStepKeepsTheBridgeLaws : Prop :=
  ∀ s t : State, bridgesLawful s → step s = .next t → bridgesLawful t

/-- R9, R12, R32, R34, R35, R85, R87, R89, R94, R105, R116, R130, R139 and R140, one law that every step keeps: in RUN
the chain has 1 to 4 entries of different sets, resume records below the top and a cached set; in QUIET chain and
cache are empty, no set action waits, no frame waits or is handled, bridges are OFF, voices IDLE, lamps dark, heater
and fan at rest, lease, station stop and zone record empty; a start and a reset's writes happen in QUIET alone,
never both; a set action that loads names one of the eight sets; a service write is that of the frame in hand; a
bridge that SINGLE mode does not use is OFF; the gates keep the bridge laws, dead time included; a balance run
exists exactly under its mark; a voice that plays stays within its clip. The model's choices: log 1 (the clock in
State); log 2 (what an idle step grants); log 12 (set actions that wait at a teardown); log 13 (frames and a service
write at a teardown). -/
def Obligations.EveryStepKeepsThePartLaws : Prop :=
  ∀ s t : State, partLawful s → step s = .next t → partLawful t

/-- R76, R174, R105, R119 and R191, each kept by every step: a DRIVE command stands in RUN alone with a duty within the
cap, 0 where R76 forces it; the heater output is on only where R174 allows it; the balance mark goes with a balance
run; the repeat table holds 8 senders at most, none twice; the shed level is the larger of the two levels; of R181,
the two sides of the fan's half-bridge are never on together, and a side that is on came on 500 ns or more after the
other went off. The model's choices: log 2 (what an idle step grants); log 10 (values at reset the manual does not
give); log 19 (limits of a duty at its handing); log 22 (the fan's low side). -/
def Obligations.EveryStepKeepsTheFieldLaws : Prop :=
  (∀ s t : State, dutyLawful s → step s = .next t → dutyLawful t)
  ∧ (∀ s t : State, startLawful s → heaterLawful s → step s = .next t → startLawful t ∧ heaterLawful t)
  ∧ (∀ s t : State, startLawful s → leaseLawful s → step s = .next t → startLawful t ∧ leaseLawful t)
  ∧ (∀ s t : State, repeatsLawful s → step s = .next t → repeatsLawful t)
  ∧ (∀ s t : State, supplyLawful s → step s = .next t → supplyLawful t)
  ∧ (∀ s t : State, fanLawful s → step s = .next t → fanLawful t)
  ∧ ∀ s t : State, voicesLawful s → step s = .next t → voicesLawful t

/-- The state after a reset meets every law that the steps keep. The model's choices: log 4 (the moment of State.reset);
log 10 (values at reset the manual does not give); log 52 (the fan's PWM timer at a reset). -/
def Obligations.ResetMeetsEveryLaw : Prop :=
  State.reset.xm.wf = true ∧ partLawful State.reset ∧ dutyLawful State.reset ∧ heaterLawful State.reset
    ∧ repeatsLawful State.reset ∧ supplyLawful State.reset ∧ fanLawful State.reset
end

