-- ==== Sys2Proof/Laws/State.lean ====
section
/-! SUPPORT. What each update of one block does to each field of the state: one lemma per field per
update, so that no later proof unfolds a record update. -/

namespace Sys2Proof.Machine

/-! ## onXm -/

section

variable (s : State) (f : Memory → Memory)

@[simp] theorem State.onXm_pending : (s.onXm f).pending = s.pending := rfl
@[simp] theorem State.onXm_clock : (s.onXm f).clock = s.clock := rfl
@[simp] theorem State.onXm_free : (s.onXm f).free = s.free := rfl
@[simp] theorem State.onXm_xm : (s.onXm f).xm = f s.xm := rfl
@[simp] theorem State.onXm_lastGranted : (s.onXm f).lastGranted = s.lastGranted := rfl
@[simp] theorem State.onXm_port : (s.onXm f).port = s.port := rfl
@[simp] theorem State.onXm_orders : (s.onXm f).orders = s.orders := rfl
@[simp] theorem State.onXm_status : (s.onXm f).status = s.status := rfl
@[simp] theorem State.onXm_timers : (s.onXm f).timers = s.timers := rfl
@[simp] theorem State.onXm_sets : (s.onXm f).sets = s.sets := rfl
@[simp] theorem State.onXm_motion : (s.onXm f).motion = s.motion := rfl
@[simp] theorem State.onXm_traction : (s.onXm f).traction = s.traction := rfl
@[simp] theorem State.onXm_bridges : (s.onXm f).bridges = s.bridges := rfl
@[simp] theorem State.onXm_balance : (s.onXm f).balance = s.balance := rfl
@[simp] theorem State.onXm_radio : (s.onXm f).radio = s.radio := rfl
@[simp] theorem State.onXm_sound : (s.onXm f).sound = s.sound := rfl
@[simp] theorem State.onXm_lamps : (s.onXm f).lamps = s.lamps := rfl
@[simp] theorem State.onXm_supply : (s.onXm f).supply = s.supply := rfl

end

/-! ## onPort -/

section

variable (s : State) (f : Port → Port)

@[simp] theorem State.onPort_pending : (s.onPort f).pending = s.pending := rfl
@[simp] theorem State.onPort_clock : (s.onPort f).clock = s.clock := rfl
@[simp] theorem State.onPort_free : (s.onPort f).free = s.free := rfl
@[simp] theorem State.onPort_xm : (s.onPort f).xm = s.xm := rfl
@[simp] theorem State.onPort_lastGranted : (s.onPort f).lastGranted = s.lastGranted := rfl
@[simp] theorem State.onPort_port : (s.onPort f).port = f s.port := rfl
@[simp] theorem State.onPort_orders : (s.onPort f).orders = s.orders := rfl
@[simp] theorem State.onPort_status : (s.onPort f).status = s.status := rfl
@[simp] theorem State.onPort_timers : (s.onPort f).timers = s.timers := rfl
@[simp] theorem State.onPort_sets : (s.onPort f).sets = s.sets := rfl
@[simp] theorem State.onPort_motion : (s.onPort f).motion = s.motion := rfl
@[simp] theorem State.onPort_traction : (s.onPort f).traction = s.traction := rfl
@[simp] theorem State.onPort_bridges : (s.onPort f).bridges = s.bridges := rfl
@[simp] theorem State.onPort_balance : (s.onPort f).balance = s.balance := rfl
@[simp] theorem State.onPort_radio : (s.onPort f).radio = s.radio := rfl
@[simp] theorem State.onPort_sound : (s.onPort f).sound = s.sound := rfl
@[simp] theorem State.onPort_lamps : (s.onPort f).lamps = s.lamps := rfl
@[simp] theorem State.onPort_supply : (s.onPort f).supply = s.supply := rfl

end

/-! ## onOrders -/

section

variable (s : State) (f : OrderEngine → OrderEngine)

@[simp] theorem State.onOrders_pending : (s.onOrders f).pending = s.pending := rfl
@[simp] theorem State.onOrders_clock : (s.onOrders f).clock = s.clock := rfl
@[simp] theorem State.onOrders_free : (s.onOrders f).free = s.free := rfl
@[simp] theorem State.onOrders_xm : (s.onOrders f).xm = s.xm := rfl
@[simp] theorem State.onOrders_lastGranted : (s.onOrders f).lastGranted = s.lastGranted := rfl
@[simp] theorem State.onOrders_port : (s.onOrders f).port = s.port := rfl
@[simp] theorem State.onOrders_orders : (s.onOrders f).orders = f s.orders := rfl
@[simp] theorem State.onOrders_status : (s.onOrders f).status = s.status := rfl
@[simp] theorem State.onOrders_timers : (s.onOrders f).timers = s.timers := rfl
@[simp] theorem State.onOrders_sets : (s.onOrders f).sets = s.sets := rfl
@[simp] theorem State.onOrders_motion : (s.onOrders f).motion = s.motion := rfl
@[simp] theorem State.onOrders_traction : (s.onOrders f).traction = s.traction := rfl
@[simp] theorem State.onOrders_bridges : (s.onOrders f).bridges = s.bridges := rfl
@[simp] theorem State.onOrders_balance : (s.onOrders f).balance = s.balance := rfl
@[simp] theorem State.onOrders_radio : (s.onOrders f).radio = s.radio := rfl
@[simp] theorem State.onOrders_sound : (s.onOrders f).sound = s.sound := rfl
@[simp] theorem State.onOrders_lamps : (s.onOrders f).lamps = s.lamps := rfl
@[simp] theorem State.onOrders_supply : (s.onOrders f).supply = s.supply := rfl

end

/-! ## onStatus -/

section

variable (s : State) (f : StatusWriter → StatusWriter)

@[simp] theorem State.onStatus_pending : (s.onStatus f).pending = s.pending := rfl
@[simp] theorem State.onStatus_clock : (s.onStatus f).clock = s.clock := rfl
@[simp] theorem State.onStatus_free : (s.onStatus f).free = s.free := rfl
@[simp] theorem State.onStatus_xm : (s.onStatus f).xm = s.xm := rfl
@[simp] theorem State.onStatus_lastGranted : (s.onStatus f).lastGranted = s.lastGranted := rfl
@[simp] theorem State.onStatus_port : (s.onStatus f).port = s.port := rfl
@[simp] theorem State.onStatus_orders : (s.onStatus f).orders = s.orders := rfl
@[simp] theorem State.onStatus_status : (s.onStatus f).status = f s.status := rfl
@[simp] theorem State.onStatus_timers : (s.onStatus f).timers = s.timers := rfl
@[simp] theorem State.onStatus_sets : (s.onStatus f).sets = s.sets := rfl
@[simp] theorem State.onStatus_motion : (s.onStatus f).motion = s.motion := rfl
@[simp] theorem State.onStatus_traction : (s.onStatus f).traction = s.traction := rfl
@[simp] theorem State.onStatus_bridges : (s.onStatus f).bridges = s.bridges := rfl
@[simp] theorem State.onStatus_balance : (s.onStatus f).balance = s.balance := rfl
@[simp] theorem State.onStatus_radio : (s.onStatus f).radio = s.radio := rfl
@[simp] theorem State.onStatus_sound : (s.onStatus f).sound = s.sound := rfl
@[simp] theorem State.onStatus_lamps : (s.onStatus f).lamps = s.lamps := rfl
@[simp] theorem State.onStatus_supply : (s.onStatus f).supply = s.supply := rfl

end

/-! ## onTimers -/

section

variable (s : State) (f : Timers → Timers)

@[simp] theorem State.onTimers_pending : (s.onTimers f).pending = s.pending := rfl
@[simp] theorem State.onTimers_clock : (s.onTimers f).clock = s.clock := rfl
@[simp] theorem State.onTimers_free : (s.onTimers f).free = s.free := rfl
@[simp] theorem State.onTimers_xm : (s.onTimers f).xm = s.xm := rfl
@[simp] theorem State.onTimers_lastGranted : (s.onTimers f).lastGranted = s.lastGranted := rfl
@[simp] theorem State.onTimers_port : (s.onTimers f).port = s.port := rfl
@[simp] theorem State.onTimers_orders : (s.onTimers f).orders = s.orders := rfl
@[simp] theorem State.onTimers_status : (s.onTimers f).status = s.status := rfl
@[simp] theorem State.onTimers_timers : (s.onTimers f).timers = f s.timers := rfl
@[simp] theorem State.onTimers_sets : (s.onTimers f).sets = s.sets := rfl
@[simp] theorem State.onTimers_motion : (s.onTimers f).motion = s.motion := rfl
@[simp] theorem State.onTimers_traction : (s.onTimers f).traction = s.traction := rfl
@[simp] theorem State.onTimers_bridges : (s.onTimers f).bridges = s.bridges := rfl
@[simp] theorem State.onTimers_balance : (s.onTimers f).balance = s.balance := rfl
@[simp] theorem State.onTimers_radio : (s.onTimers f).radio = s.radio := rfl
@[simp] theorem State.onTimers_sound : (s.onTimers f).sound = s.sound := rfl
@[simp] theorem State.onTimers_lamps : (s.onTimers f).lamps = s.lamps := rfl
@[simp] theorem State.onTimers_supply : (s.onTimers f).supply = s.supply := rfl

end

/-! ## onSets -/

section

variable (s : State) (f : SetManager → SetManager)

@[simp] theorem State.onSets_pending : (s.onSets f).pending = s.pending := rfl
@[simp] theorem State.onSets_clock : (s.onSets f).clock = s.clock := rfl
@[simp] theorem State.onSets_free : (s.onSets f).free = s.free := rfl
@[simp] theorem State.onSets_xm : (s.onSets f).xm = s.xm := rfl
@[simp] theorem State.onSets_lastGranted : (s.onSets f).lastGranted = s.lastGranted := rfl
@[simp] theorem State.onSets_port : (s.onSets f).port = s.port := rfl
@[simp] theorem State.onSets_orders : (s.onSets f).orders = s.orders := rfl
@[simp] theorem State.onSets_status : (s.onSets f).status = s.status := rfl
@[simp] theorem State.onSets_timers : (s.onSets f).timers = s.timers := rfl
@[simp] theorem State.onSets_sets : (s.onSets f).sets = f s.sets := rfl
@[simp] theorem State.onSets_motion : (s.onSets f).motion = s.motion := rfl
@[simp] theorem State.onSets_traction : (s.onSets f).traction = s.traction := rfl
@[simp] theorem State.onSets_bridges : (s.onSets f).bridges = s.bridges := rfl
@[simp] theorem State.onSets_balance : (s.onSets f).balance = s.balance := rfl
@[simp] theorem State.onSets_radio : (s.onSets f).radio = s.radio := rfl
@[simp] theorem State.onSets_sound : (s.onSets f).sound = s.sound := rfl
@[simp] theorem State.onSets_lamps : (s.onSets f).lamps = s.lamps := rfl
@[simp] theorem State.onSets_supply : (s.onSets f).supply = s.supply := rfl

end

/-! ## onMotion -/

section

variable (s : State) (f : Motion → Motion)

@[simp] theorem State.onMotion_pending : (s.onMotion f).pending = s.pending := rfl
@[simp] theorem State.onMotion_clock : (s.onMotion f).clock = s.clock := rfl
@[simp] theorem State.onMotion_free : (s.onMotion f).free = s.free := rfl
@[simp] theorem State.onMotion_xm : (s.onMotion f).xm = s.xm := rfl
@[simp] theorem State.onMotion_lastGranted : (s.onMotion f).lastGranted = s.lastGranted := rfl
@[simp] theorem State.onMotion_port : (s.onMotion f).port = s.port := rfl
@[simp] theorem State.onMotion_orders : (s.onMotion f).orders = s.orders := rfl
@[simp] theorem State.onMotion_status : (s.onMotion f).status = s.status := rfl
@[simp] theorem State.onMotion_timers : (s.onMotion f).timers = s.timers := rfl
@[simp] theorem State.onMotion_sets : (s.onMotion f).sets = s.sets := rfl
@[simp] theorem State.onMotion_motion : (s.onMotion f).motion = f s.motion := rfl
@[simp] theorem State.onMotion_traction : (s.onMotion f).traction = s.traction := rfl
@[simp] theorem State.onMotion_bridges : (s.onMotion f).bridges = s.bridges := rfl
@[simp] theorem State.onMotion_balance : (s.onMotion f).balance = s.balance := rfl
@[simp] theorem State.onMotion_radio : (s.onMotion f).radio = s.radio := rfl
@[simp] theorem State.onMotion_sound : (s.onMotion f).sound = s.sound := rfl
@[simp] theorem State.onMotion_lamps : (s.onMotion f).lamps = s.lamps := rfl
@[simp] theorem State.onMotion_supply : (s.onMotion f).supply = s.supply := rfl

end

/-! ## onTraction -/

section

variable (s : State) (f : Traction → Traction)

@[simp] theorem State.onTraction_pending : (s.onTraction f).pending = s.pending := rfl
@[simp] theorem State.onTraction_clock : (s.onTraction f).clock = s.clock := rfl
@[simp] theorem State.onTraction_free : (s.onTraction f).free = s.free := rfl
@[simp] theorem State.onTraction_xm : (s.onTraction f).xm = s.xm := rfl
@[simp] theorem State.onTraction_lastGranted : (s.onTraction f).lastGranted = s.lastGranted := rfl
@[simp] theorem State.onTraction_port : (s.onTraction f).port = s.port := rfl
@[simp] theorem State.onTraction_orders : (s.onTraction f).orders = s.orders := rfl
@[simp] theorem State.onTraction_status : (s.onTraction f).status = s.status := rfl
@[simp] theorem State.onTraction_timers : (s.onTraction f).timers = s.timers := rfl
@[simp] theorem State.onTraction_sets : (s.onTraction f).sets = s.sets := rfl
@[simp] theorem State.onTraction_motion : (s.onTraction f).motion = s.motion := rfl
@[simp] theorem State.onTraction_traction : (s.onTraction f).traction = f s.traction := rfl
@[simp] theorem State.onTraction_bridges : (s.onTraction f).bridges = s.bridges := rfl
@[simp] theorem State.onTraction_balance : (s.onTraction f).balance = s.balance := rfl
@[simp] theorem State.onTraction_radio : (s.onTraction f).radio = s.radio := rfl
@[simp] theorem State.onTraction_sound : (s.onTraction f).sound = s.sound := rfl
@[simp] theorem State.onTraction_lamps : (s.onTraction f).lamps = s.lamps := rfl
@[simp] theorem State.onTraction_supply : (s.onTraction f).supply = s.supply := rfl

end

/-! ## onBridges -/

section

variable (s : State) (f : BridgeUnit → BridgeUnit)

@[simp] theorem State.onBridges_pending : (s.onBridges f).pending = s.pending := rfl
@[simp] theorem State.onBridges_clock : (s.onBridges f).clock = s.clock := rfl
@[simp] theorem State.onBridges_free : (s.onBridges f).free = s.free := rfl
@[simp] theorem State.onBridges_xm : (s.onBridges f).xm = s.xm := rfl
@[simp] theorem State.onBridges_lastGranted : (s.onBridges f).lastGranted = s.lastGranted := rfl
@[simp] theorem State.onBridges_port : (s.onBridges f).port = s.port := rfl
@[simp] theorem State.onBridges_orders : (s.onBridges f).orders = s.orders := rfl
@[simp] theorem State.onBridges_status : (s.onBridges f).status = s.status := rfl
@[simp] theorem State.onBridges_timers : (s.onBridges f).timers = s.timers := rfl
@[simp] theorem State.onBridges_sets : (s.onBridges f).sets = s.sets := rfl
@[simp] theorem State.onBridges_motion : (s.onBridges f).motion = s.motion := rfl
@[simp] theorem State.onBridges_traction : (s.onBridges f).traction = s.traction := rfl
@[simp] theorem State.onBridges_bridges : (s.onBridges f).bridges = f s.bridges := rfl
@[simp] theorem State.onBridges_balance : (s.onBridges f).balance = s.balance := rfl
@[simp] theorem State.onBridges_radio : (s.onBridges f).radio = s.radio := rfl
@[simp] theorem State.onBridges_sound : (s.onBridges f).sound = s.sound := rfl
@[simp] theorem State.onBridges_lamps : (s.onBridges f).lamps = s.lamps := rfl
@[simp] theorem State.onBridges_supply : (s.onBridges f).supply = s.supply := rfl

end

/-! ## onBalance -/

section

variable (s : State) (f : Balance → Balance)

@[simp] theorem State.onBalance_pending : (s.onBalance f).pending = s.pending := rfl
@[simp] theorem State.onBalance_clock : (s.onBalance f).clock = s.clock := rfl
@[simp] theorem State.onBalance_free : (s.onBalance f).free = s.free := rfl
@[simp] theorem State.onBalance_xm : (s.onBalance f).xm = s.xm := rfl
@[simp] theorem State.onBalance_lastGranted : (s.onBalance f).lastGranted = s.lastGranted := rfl
@[simp] theorem State.onBalance_port : (s.onBalance f).port = s.port := rfl
@[simp] theorem State.onBalance_orders : (s.onBalance f).orders = s.orders := rfl
@[simp] theorem State.onBalance_status : (s.onBalance f).status = s.status := rfl
@[simp] theorem State.onBalance_timers : (s.onBalance f).timers = s.timers := rfl
@[simp] theorem State.onBalance_sets : (s.onBalance f).sets = s.sets := rfl
@[simp] theorem State.onBalance_motion : (s.onBalance f).motion = s.motion := rfl
@[simp] theorem State.onBalance_traction : (s.onBalance f).traction = s.traction := rfl
@[simp] theorem State.onBalance_bridges : (s.onBalance f).bridges = s.bridges := rfl
@[simp] theorem State.onBalance_balance : (s.onBalance f).balance = f s.balance := rfl
@[simp] theorem State.onBalance_radio : (s.onBalance f).radio = s.radio := rfl
@[simp] theorem State.onBalance_sound : (s.onBalance f).sound = s.sound := rfl
@[simp] theorem State.onBalance_lamps : (s.onBalance f).lamps = s.lamps := rfl
@[simp] theorem State.onBalance_supply : (s.onBalance f).supply = s.supply := rfl

end

/-! ## onRadio -/

section

variable (s : State) (f : Radio → Radio)

@[simp] theorem State.onRadio_pending : (s.onRadio f).pending = s.pending := rfl
@[simp] theorem State.onRadio_clock : (s.onRadio f).clock = s.clock := rfl
@[simp] theorem State.onRadio_free : (s.onRadio f).free = s.free := rfl
@[simp] theorem State.onRadio_xm : (s.onRadio f).xm = s.xm := rfl
@[simp] theorem State.onRadio_lastGranted : (s.onRadio f).lastGranted = s.lastGranted := rfl
@[simp] theorem State.onRadio_port : (s.onRadio f).port = s.port := rfl
@[simp] theorem State.onRadio_orders : (s.onRadio f).orders = s.orders := rfl
@[simp] theorem State.onRadio_status : (s.onRadio f).status = s.status := rfl
@[simp] theorem State.onRadio_timers : (s.onRadio f).timers = s.timers := rfl
@[simp] theorem State.onRadio_sets : (s.onRadio f).sets = s.sets := rfl
@[simp] theorem State.onRadio_motion : (s.onRadio f).motion = s.motion := rfl
@[simp] theorem State.onRadio_traction : (s.onRadio f).traction = s.traction := rfl
@[simp] theorem State.onRadio_bridges : (s.onRadio f).bridges = s.bridges := rfl
@[simp] theorem State.onRadio_balance : (s.onRadio f).balance = s.balance := rfl
@[simp] theorem State.onRadio_radio : (s.onRadio f).radio = f s.radio := rfl
@[simp] theorem State.onRadio_sound : (s.onRadio f).sound = s.sound := rfl
@[simp] theorem State.onRadio_lamps : (s.onRadio f).lamps = s.lamps := rfl
@[simp] theorem State.onRadio_supply : (s.onRadio f).supply = s.supply := rfl

end

/-! ## onSound -/

section

variable (s : State) (f : Sound → Sound)

@[simp] theorem State.onSound_pending : (s.onSound f).pending = s.pending := rfl
@[simp] theorem State.onSound_clock : (s.onSound f).clock = s.clock := rfl
@[simp] theorem State.onSound_free : (s.onSound f).free = s.free := rfl
@[simp] theorem State.onSound_xm : (s.onSound f).xm = s.xm := rfl
@[simp] theorem State.onSound_lastGranted : (s.onSound f).lastGranted = s.lastGranted := rfl
@[simp] theorem State.onSound_port : (s.onSound f).port = s.port := rfl
@[simp] theorem State.onSound_orders : (s.onSound f).orders = s.orders := rfl
@[simp] theorem State.onSound_status : (s.onSound f).status = s.status := rfl
@[simp] theorem State.onSound_timers : (s.onSound f).timers = s.timers := rfl
@[simp] theorem State.onSound_sets : (s.onSound f).sets = s.sets := rfl
@[simp] theorem State.onSound_motion : (s.onSound f).motion = s.motion := rfl
@[simp] theorem State.onSound_traction : (s.onSound f).traction = s.traction := rfl
@[simp] theorem State.onSound_bridges : (s.onSound f).bridges = s.bridges := rfl
@[simp] theorem State.onSound_balance : (s.onSound f).balance = s.balance := rfl
@[simp] theorem State.onSound_radio : (s.onSound f).radio = s.radio := rfl
@[simp] theorem State.onSound_sound : (s.onSound f).sound = f s.sound := rfl
@[simp] theorem State.onSound_lamps : (s.onSound f).lamps = s.lamps := rfl
@[simp] theorem State.onSound_supply : (s.onSound f).supply = s.supply := rfl

end

/-! ## onLamps -/

section

variable (s : State) (f : LampUnit → LampUnit)

@[simp] theorem State.onLamps_pending : (s.onLamps f).pending = s.pending := rfl
@[simp] theorem State.onLamps_clock : (s.onLamps f).clock = s.clock := rfl
@[simp] theorem State.onLamps_free : (s.onLamps f).free = s.free := rfl
@[simp] theorem State.onLamps_xm : (s.onLamps f).xm = s.xm := rfl
@[simp] theorem State.onLamps_lastGranted : (s.onLamps f).lastGranted = s.lastGranted := rfl
@[simp] theorem State.onLamps_port : (s.onLamps f).port = s.port := rfl
@[simp] theorem State.onLamps_orders : (s.onLamps f).orders = s.orders := rfl
@[simp] theorem State.onLamps_status : (s.onLamps f).status = s.status := rfl
@[simp] theorem State.onLamps_timers : (s.onLamps f).timers = s.timers := rfl
@[simp] theorem State.onLamps_sets : (s.onLamps f).sets = s.sets := rfl
@[simp] theorem State.onLamps_motion : (s.onLamps f).motion = s.motion := rfl
@[simp] theorem State.onLamps_traction : (s.onLamps f).traction = s.traction := rfl
@[simp] theorem State.onLamps_bridges : (s.onLamps f).bridges = s.bridges := rfl
@[simp] theorem State.onLamps_balance : (s.onLamps f).balance = s.balance := rfl
@[simp] theorem State.onLamps_radio : (s.onLamps f).radio = s.radio := rfl
@[simp] theorem State.onLamps_sound : (s.onLamps f).sound = s.sound := rfl
@[simp] theorem State.onLamps_lamps : (s.onLamps f).lamps = f s.lamps := rfl
@[simp] theorem State.onLamps_supply : (s.onLamps f).supply = s.supply := rfl

end

/-! ## onSupply -/

section

variable (s : State) (f : Supply → Supply)

@[simp] theorem State.onSupply_pending : (s.onSupply f).pending = s.pending := rfl
@[simp] theorem State.onSupply_clock : (s.onSupply f).clock = s.clock := rfl
@[simp] theorem State.onSupply_free : (s.onSupply f).free = s.free := rfl
@[simp] theorem State.onSupply_xm : (s.onSupply f).xm = s.xm := rfl
@[simp] theorem State.onSupply_lastGranted : (s.onSupply f).lastGranted = s.lastGranted := rfl
@[simp] theorem State.onSupply_port : (s.onSupply f).port = s.port := rfl
@[simp] theorem State.onSupply_orders : (s.onSupply f).orders = s.orders := rfl
@[simp] theorem State.onSupply_status : (s.onSupply f).status = s.status := rfl
@[simp] theorem State.onSupply_timers : (s.onSupply f).timers = s.timers := rfl
@[simp] theorem State.onSupply_sets : (s.onSupply f).sets = s.sets := rfl
@[simp] theorem State.onSupply_motion : (s.onSupply f).motion = s.motion := rfl
@[simp] theorem State.onSupply_traction : (s.onSupply f).traction = s.traction := rfl
@[simp] theorem State.onSupply_bridges : (s.onSupply f).bridges = s.bridges := rfl
@[simp] theorem State.onSupply_balance : (s.onSupply f).balance = s.balance := rfl
@[simp] theorem State.onSupply_radio : (s.onSupply f).radio = s.radio := rfl
@[simp] theorem State.onSupply_sound : (s.onSupply f).sound = s.sound := rfl
@[simp] theorem State.onSupply_lamps : (s.onSupply f).lamps = s.lamps := rfl
@[simp] theorem State.onSupply_supply : (s.onSupply f).supply = f s.supply := rfl

end

/-! ## atClock -/

section

variable (s : State) (n : Nat)

@[simp] theorem State.atClock_pending : (s.atClock n).pending = s.pending := rfl
@[simp] theorem State.atClock_clock : (s.atClock n).clock = n := rfl
@[simp] theorem State.atClock_free : (s.atClock n).free = s.free := rfl
@[simp] theorem State.atClock_xm : (s.atClock n).xm = s.xm := rfl
@[simp] theorem State.atClock_lastGranted : (s.atClock n).lastGranted = s.lastGranted := rfl
@[simp] theorem State.atClock_port : (s.atClock n).port = s.port := rfl
@[simp] theorem State.atClock_orders : (s.atClock n).orders = s.orders := rfl
@[simp] theorem State.atClock_status : (s.atClock n).status = s.status := rfl
@[simp] theorem State.atClock_timers : (s.atClock n).timers = s.timers := rfl
@[simp] theorem State.atClock_sets : (s.atClock n).sets = s.sets := rfl
@[simp] theorem State.atClock_motion : (s.atClock n).motion = s.motion := rfl
@[simp] theorem State.atClock_traction : (s.atClock n).traction = s.traction := rfl
@[simp] theorem State.atClock_bridges : (s.atClock n).bridges = s.bridges := rfl
@[simp] theorem State.atClock_balance : (s.atClock n).balance = s.balance := rfl
@[simp] theorem State.atClock_radio : (s.atClock n).radio = s.radio := rfl
@[simp] theorem State.atClock_sound : (s.atClock n).sound = s.sound := rfl
@[simp] theorem State.atClock_lamps : (s.atClock n).lamps = s.lamps := rfl
@[simp] theorem State.atClock_supply : (s.atClock n).supply = s.supply := rfl

end

/-! ## drawn -/

section

variable (s : State) (n : Nat)

@[simp] theorem State.drawn_pending : (s.drawn n).pending = s.pending := rfl
@[simp] theorem State.drawn_clock : (s.drawn n).clock = s.clock := rfl
@[simp] theorem State.drawn_free : (s.drawn n).free = s.free + n := rfl
@[simp] theorem State.drawn_xm : (s.drawn n).xm = s.xm := rfl
@[simp] theorem State.drawn_lastGranted : (s.drawn n).lastGranted = s.lastGranted := rfl
@[simp] theorem State.drawn_port : (s.drawn n).port = s.port := rfl
@[simp] theorem State.drawn_orders : (s.drawn n).orders = s.orders := rfl
@[simp] theorem State.drawn_status : (s.drawn n).status = s.status := rfl
@[simp] theorem State.drawn_timers : (s.drawn n).timers = s.timers := rfl
@[simp] theorem State.drawn_sets : (s.drawn n).sets = s.sets := rfl
@[simp] theorem State.drawn_motion : (s.drawn n).motion = s.motion := rfl
@[simp] theorem State.drawn_traction : (s.drawn n).traction = s.traction := rfl
@[simp] theorem State.drawn_bridges : (s.drawn n).bridges = s.bridges := rfl
@[simp] theorem State.drawn_balance : (s.drawn n).balance = s.balance := rfl
@[simp] theorem State.drawn_radio : (s.drawn n).radio = s.radio := rfl
@[simp] theorem State.drawn_sound : (s.drawn n).sound = s.sound := rfl
@[simp] theorem State.drawn_lamps : (s.drawn n).lamps = s.lamps := rfl
@[simp] theorem State.drawn_supply : (s.drawn n).supply = s.supply := rfl

end

/-! ## granted -/

section

variable (s : State) (r : Requester)

@[simp] theorem State.granted_pending : (s.granted r).pending = s.pending := rfl
@[simp] theorem State.granted_clock : (s.granted r).clock = s.clock := rfl
@[simp] theorem State.granted_free : (s.granted r).free = s.free := rfl
@[simp] theorem State.granted_xm : (s.granted r).xm = s.xm := rfl
@[simp] theorem State.granted_lastGranted : (s.granted r).lastGranted = r := rfl
@[simp] theorem State.granted_port : (s.granted r).port = s.port := rfl
@[simp] theorem State.granted_orders : (s.granted r).orders = s.orders := rfl
@[simp] theorem State.granted_status : (s.granted r).status = s.status := rfl
@[simp] theorem State.granted_timers : (s.granted r).timers = s.timers := rfl
@[simp] theorem State.granted_sets : (s.granted r).sets = s.sets := rfl
@[simp] theorem State.granted_motion : (s.granted r).motion = s.motion := rfl
@[simp] theorem State.granted_traction : (s.granted r).traction = s.traction := rfl
@[simp] theorem State.granted_bridges : (s.granted r).bridges = s.bridges := rfl
@[simp] theorem State.granted_balance : (s.granted r).balance = s.balance := rfl
@[simp] theorem State.granted_radio : (s.granted r).radio = s.radio := rfl
@[simp] theorem State.granted_sound : (s.granted r).sound = s.sound := rfl
@[simp] theorem State.granted_lamps : (s.granted r).lamps = s.lamps := rfl
@[simp] theorem State.granted_supply : (s.granted r).supply = s.supply := rfl

end

end Sys2Proof.Machine
end

