-- ==== Sys2Proof/Laws/Frames.lean ====
section
/-! SUPPORT. The frame of each shared operation: the blocks of the state it leaves as they were. A block
that a frame does not name may change. -/

namespace Sys2Proof.Machine


/-- What every step of a walk through the triggers keeps, the walk keeps. -/
theorem triggersFrom_keeps {α : Type} (p : State → α) {act : State → Nat → Trigger → State}
    (h : ∀ s k t, p (act s k t) = p s) (k : Nat) (ts : List Trigger) (s : State) :
    p (triggersFrom act k ts s) = p s := by
  induction ts generalizing k s with
  | nil => rfl
  | cons t ts ih => exact (ih (k + 1) (act s k t)).trans (h s k t)

/-- What every step of a walk through a list keeps, the walk keeps. -/
theorem foldl_keeps {α β : Type} (p : State → α) {act : State → β → State}
    (h : ∀ s x, p (act s x) = p s) (xs : List β) (s : State) : p (xs.foldl act s) = p s := by
  induction xs generalizing s with
  | nil => rfl
  | cons x xs ih => exact (ih (act s x)).trans (h s x)

/-- What the check of one frame keeps, beside the radio command unit's own fields, the check of
    those that
wait keeps. -/
theorem checkWaiting_keeps {α : Type} (p : State → α) (h : ∀ s f, p (s.onRadio f) = p s)
    (ws : List (List Byte)) (s : State) : p (State.checkWaiting ws s) = p s := by
  induction ws generalizing s with
  | nil => exact h s _
  | cons w ws ih =>
    have hc : p (s.checkFrame w) = p s := by
      unfold State.checkFrame; split
      · exact h s _
      · rfl
    unfold State.checkWaiting
    simp only
    split
    · exact (h _ _).trans hc
    · exact (ih _).trans hc

theorem writeStatusWords_keeps {α : Type} (p : State → α) (h : ∀ s f, p (s.onXm f) = p s) (k n : Nat)
    (s : State) : p (State.writeStatusWords k n s) = p s := by
  induction n generalizing k s with
  | zero => rfl
  | succ n ih => exact (ih (k + 1) _).trans (h s _)


/-! ## Shared operations -/

@[simp] theorem State.reach_frame (s : State) (due : Nat) :
    (s.reach due).pending = s.pending ∧ (s.reach due).free = s.free ∧ (s.reach due).xm = s.xm
      ∧ (s.reach due).lastGranted = s.lastGranted ∧ (s.reach due).port = s.port
      ∧ (s.reach due).orders = s.orders ∧ (s.reach due).status = s.status
      ∧ (s.reach due).timers = s.timers ∧ (s.reach due).sets = s.sets
      ∧ (s.reach due).motion = s.motion ∧ (s.reach due).traction = s.traction
      ∧ (s.reach due).bridges = s.bridges ∧ (s.reach due).balance = s.balance
      ∧ (s.reach due).radio = s.radio ∧ (s.reach due).sound = s.sound
      ∧ (s.reach due).lamps = s.lamps ∧ (s.reach due).supply = s.supply := by
  simp [State.reach]

@[simp] theorem State.raise_frame (s : State) (b : NoticeBit) :
    (s.raise b).pending = s.pending ∧ (s.raise b).clock = s.clock ∧ (s.raise b).free = s.free
      ∧ (s.raise b).xm = s.xm ∧ (s.raise b).lastGranted = s.lastGranted
      ∧ (s.raise b).orders = s.orders ∧ (s.raise b).status = s.status
      ∧ (s.raise b).timers = s.timers ∧ (s.raise b).sets = s.sets ∧ (s.raise b).motion = s.motion
      ∧ (s.raise b).traction = s.traction ∧ (s.raise b).bridges = s.bridges
      ∧ (s.raise b).balance = s.balance ∧ (s.raise b).radio = s.radio
      ∧ (s.raise b).sound = s.sound ∧ (s.raise b).lamps = s.lamps ∧ (s.raise b).supply = s.supply := by
  simp [State.raise]

@[simp] theorem State.recordFault_frame (s : State) :
    s.recordFault.pending = s.pending ∧ s.recordFault.clock = s.clock
      ∧ s.recordFault.free = s.free ∧ s.recordFault.xm = s.xm
      ∧ s.recordFault.lastGranted = s.lastGranted ∧ s.recordFault.orders = s.orders
      ∧ s.recordFault.timers = s.timers ∧ s.recordFault.sets = s.sets
      ∧ s.recordFault.motion = s.motion ∧ s.recordFault.traction = s.traction
      ∧ s.recordFault.bridges = s.bridges ∧ s.recordFault.balance = s.balance
      ∧ s.recordFault.radio = s.radio ∧ s.recordFault.sound = s.sound
      ∧ s.recordFault.lamps = s.lamps ∧ s.recordFault.supply = s.supply := by
  simp [State.recordFault]

@[simp] theorem State.spiWrite_frame (s : State) (n : Nat) :
    (s.spiWrite n).pending = s.pending ∧ (s.spiWrite n).clock = s.clock
      ∧ (s.spiWrite n).xm = s.xm ∧ (s.spiWrite n).lastGranted = s.lastGranted
      ∧ (s.spiWrite n).orders = s.orders ∧ (s.spiWrite n).status = s.status
      ∧ (s.spiWrite n).timers = s.timers ∧ (s.spiWrite n).sets = s.sets
      ∧ (s.spiWrite n).motion = s.motion ∧ (s.spiWrite n).traction = s.traction
      ∧ (s.spiWrite n).bridges = s.bridges ∧ (s.spiWrite n).balance = s.balance
      ∧ (s.spiWrite n).radio = s.radio ∧ (s.spiWrite n).sound = s.sound
      ∧ (s.spiWrite n).lamps = s.lamps ∧ (s.spiWrite n).supply = s.supply := by
  simp [State.spiWrite]

@[simp] theorem State.registerWrite_frame (s : State) :
    s.registerWrite.pending = s.pending ∧ s.registerWrite.clock = s.clock
      ∧ s.registerWrite.xm = s.xm ∧ s.registerWrite.lastGranted = s.lastGranted
      ∧ s.registerWrite.orders = s.orders ∧ s.registerWrite.status = s.status
      ∧ s.registerWrite.timers = s.timers ∧ s.registerWrite.sets = s.sets
      ∧ s.registerWrite.motion = s.motion ∧ s.registerWrite.traction = s.traction
      ∧ s.registerWrite.bridges = s.bridges ∧ s.registerWrite.balance = s.balance
      ∧ s.registerWrite.radio = s.radio ∧ s.registerWrite.sound = s.sound
      ∧ s.registerWrite.lamps = s.lamps ∧ s.registerWrite.supply = s.supply := by
  simp [State.registerWrite]

@[simp] theorem State.reads_frame (s : State) (words : List Nat) :
    (s.reads words).pending = s.pending ∧ (s.reads words).clock = s.clock
      ∧ (s.reads words).free = s.free ∧ (s.reads words).xm = s.xm ∧ (s.reads words).port = s.port
      ∧ (s.reads words).orders = s.orders ∧ (s.reads words).status = s.status
      ∧ (s.reads words).timers = s.timers ∧ (s.reads words).sets = s.sets
      ∧ (s.reads words).motion = s.motion ∧ (s.reads words).traction = s.traction
      ∧ (s.reads words).bridges = s.bridges ∧ (s.reads words).balance = s.balance
      ∧ (s.reads words).radio = s.radio ∧ (s.reads words).sound = s.sound
      ∧ (s.reads words).lamps = s.lamps ∧ (s.reads words).supply = s.supply := by
  simp only [State.reads]
  repeat' split
  all_goals simp

@[simp] theorem State.hostAccesses_frame (s : State) (n : Nat) :
    (s.hostAccesses n).pending = s.pending ∧ (s.hostAccesses n).clock = s.clock
      ∧ (s.hostAccesses n).free = s.free ∧ (s.hostAccesses n).xm = s.xm ∧ (s.hostAccesses n).port = s.port
      ∧ (s.hostAccesses n).orders = s.orders ∧ (s.hostAccesses n).status = s.status
      ∧ (s.hostAccesses n).timers = s.timers ∧ (s.hostAccesses n).sets = s.sets
      ∧ (s.hostAccesses n).motion = s.motion ∧ (s.hostAccesses n).traction = s.traction
      ∧ (s.hostAccesses n).bridges = s.bridges ∧ (s.hostAccesses n).balance = s.balance
      ∧ (s.hostAccesses n).radio = s.radio ∧ (s.hostAccesses n).sound = s.sound
      ∧ (s.hostAccesses n).lamps = s.lamps ∧ (s.hostAccesses n).supply = s.supply := by
  simp only [State.hostAccesses]
  repeat' split
  all_goals simp

/-! ## Bridges -/

@[simp] theorem State.noteDuty_frame (s : State) :
    s.noteDuty.pending = s.pending ∧ s.noteDuty.clock = s.clock ∧ s.noteDuty.free = s.free
      ∧ s.noteDuty.xm = s.xm ∧ s.noteDuty.lastGranted = s.lastGranted ∧ s.noteDuty.port = s.port
      ∧ s.noteDuty.orders = s.orders ∧ s.noteDuty.status = s.status ∧ s.noteDuty.timers = s.timers
      ∧ s.noteDuty.sets = s.sets ∧ s.noteDuty.motion = s.motion ∧ s.noteDuty.bridges = s.bridges
      ∧ s.noteDuty.balance = s.balance ∧ s.noteDuty.radio = s.radio ∧ s.noteDuty.sound = s.sound
      ∧ s.noteDuty.lamps = s.lamps ∧ s.noteDuty.supply = s.supply := by
  simp [State.noteDuty]

@[simp] theorem State.handCommand_frame (s : State) (c : Command) :
    (s.handCommand c).pending = s.pending ∧ (s.handCommand c).clock = s.clock
      ∧ (s.handCommand c).free = s.free ∧ (s.handCommand c).xm = s.xm
      ∧ (s.handCommand c).lastGranted = s.lastGranted ∧ (s.handCommand c).port = s.port
      ∧ (s.handCommand c).orders = s.orders ∧ (s.handCommand c).status = s.status
      ∧ (s.handCommand c).timers = s.timers ∧ (s.handCommand c).sets = s.sets
      ∧ (s.handCommand c).motion = s.motion ∧ (s.handCommand c).balance = s.balance
      ∧ (s.handCommand c).radio = s.radio ∧ (s.handCommand c).sound = s.sound
      ∧ (s.handCommand c).lamps = s.lamps ∧ (s.handCommand c).supply = s.supply := by
  simp [State.handCommand]

@[simp] theorem State.lowerDuty_frame (s : State) (duty : Nat) :
    (s.lowerDuty duty).pending = s.pending ∧ (s.lowerDuty duty).clock = s.clock
      ∧ (s.lowerDuty duty).free = s.free ∧ (s.lowerDuty duty).xm = s.xm
      ∧ (s.lowerDuty duty).lastGranted = s.lastGranted ∧ (s.lowerDuty duty).port = s.port
      ∧ (s.lowerDuty duty).orders = s.orders ∧ (s.lowerDuty duty).status = s.status
      ∧ (s.lowerDuty duty).timers = s.timers ∧ (s.lowerDuty duty).sets = s.sets
      ∧ (s.lowerDuty duty).motion = s.motion ∧ (s.lowerDuty duty).balance = s.balance
      ∧ (s.lowerDuty duty).radio = s.radio ∧ (s.lowerDuty duty).sound = s.sound
      ∧ (s.lowerDuty duty).lamps = s.lamps ∧ (s.lowerDuty duty).supply = s.supply := by
  simp only [State.lowerDuty]
  repeat' split
  all_goals simp

/-! ## Lamps and smoke -/

@[simp] theorem State.onLamp_frame (s : State) (n : Nat) (f : Lamp → Lamp) :
    (s.onLamp n f).pending = s.pending ∧ (s.onLamp n f).clock = s.clock
      ∧ (s.onLamp n f).free = s.free ∧ (s.onLamp n f).xm = s.xm
      ∧ (s.onLamp n f).lastGranted = s.lastGranted ∧ (s.onLamp n f).port = s.port
      ∧ (s.onLamp n f).orders = s.orders ∧ (s.onLamp n f).status = s.status
      ∧ (s.onLamp n f).timers = s.timers ∧ (s.onLamp n f).sets = s.sets
      ∧ (s.onLamp n f).motion = s.motion ∧ (s.onLamp n f).traction = s.traction
      ∧ (s.onLamp n f).bridges = s.bridges ∧ (s.onLamp n f).balance = s.balance
      ∧ (s.onLamp n f).radio = s.radio ∧ (s.onLamp n f).sound = s.sound
      ∧ (s.onLamp n f).supply = s.supply := by
  simp [State.onLamp]

@[simp] theorem State.onEachLamp_frame (s : State) (f : Nat → Lamp → Lamp) :
    (s.onEachLamp f).pending = s.pending ∧ (s.onEachLamp f).clock = s.clock
      ∧ (s.onEachLamp f).free = s.free ∧ (s.onEachLamp f).xm = s.xm
      ∧ (s.onEachLamp f).lastGranted = s.lastGranted ∧ (s.onEachLamp f).port = s.port
      ∧ (s.onEachLamp f).orders = s.orders ∧ (s.onEachLamp f).status = s.status
      ∧ (s.onEachLamp f).timers = s.timers ∧ (s.onEachLamp f).sets = s.sets
      ∧ (s.onEachLamp f).motion = s.motion ∧ (s.onEachLamp f).traction = s.traction
      ∧ (s.onEachLamp f).bridges = s.bridges ∧ (s.onEachLamp f).balance = s.balance
      ∧ (s.onEachLamp f).radio = s.radio ∧ (s.onEachLamp f).sound = s.sound
      ∧ (s.onEachLamp f).supply = s.supply := by
  simp [State.onEachLamp]

@[simp] theorem State.onHeater_frame (s : State) (f : Heater → Heater) :
    (s.onHeater f).pending = s.pending ∧ (s.onHeater f).clock = s.clock
      ∧ (s.onHeater f).free = s.free ∧ (s.onHeater f).xm = s.xm
      ∧ (s.onHeater f).lastGranted = s.lastGranted ∧ (s.onHeater f).port = s.port
      ∧ (s.onHeater f).orders = s.orders ∧ (s.onHeater f).status = s.status
      ∧ (s.onHeater f).timers = s.timers ∧ (s.onHeater f).sets = s.sets
      ∧ (s.onHeater f).motion = s.motion ∧ (s.onHeater f).traction = s.traction
      ∧ (s.onHeater f).bridges = s.bridges ∧ (s.onHeater f).balance = s.balance
      ∧ (s.onHeater f).radio = s.radio ∧ (s.onHeater f).sound = s.sound
      ∧ (s.onHeater f).supply = s.supply := by
  simp [State.onHeater]

@[simp] theorem State.onFan_frame (s : State) (f : Fan → Fan) :
    (s.onFan f).pending = s.pending ∧ (s.onFan f).clock = s.clock ∧ (s.onFan f).free = s.free
      ∧ (s.onFan f).xm = s.xm ∧ (s.onFan f).lastGranted = s.lastGranted
      ∧ (s.onFan f).port = s.port ∧ (s.onFan f).orders = s.orders ∧ (s.onFan f).status = s.status
      ∧ (s.onFan f).timers = s.timers ∧ (s.onFan f).sets = s.sets ∧ (s.onFan f).motion = s.motion
      ∧ (s.onFan f).traction = s.traction ∧ (s.onFan f).bridges = s.bridges
      ∧ (s.onFan f).balance = s.balance ∧ (s.onFan f).radio = s.radio
      ∧ (s.onFan f).sound = s.sound ∧ (s.onFan f).supply = s.supply := by
  simp [State.onFan]

@[simp] theorem State.recordLampFault_frame (s : State) (n : Nat) (k : LampFault) :
    (s.recordLampFault n k).pending = s.pending ∧ (s.recordLampFault n k).clock = s.clock
      ∧ (s.recordLampFault n k).free = s.free ∧ (s.recordLampFault n k).xm = s.xm
      ∧ (s.recordLampFault n k).lastGranted = s.lastGranted
      ∧ (s.recordLampFault n k).orders = s.orders ∧ (s.recordLampFault n k).timers = s.timers
      ∧ (s.recordLampFault n k).sets = s.sets ∧ (s.recordLampFault n k).motion = s.motion
      ∧ (s.recordLampFault n k).traction = s.traction
      ∧ (s.recordLampFault n k).bridges = s.bridges ∧ (s.recordLampFault n k).balance = s.balance
      ∧ (s.recordLampFault n k).radio = s.radio ∧ (s.recordLampFault n k).sound = s.sound
      ∧ (s.recordLampFault n k).supply = s.supply := by
  simp [State.recordLampFault]

@[simp] theorem State.overEpisode_frame (s : State) (n : Nat) :
    (s.overEpisode n).pending = s.pending ∧ (s.overEpisode n).clock = s.clock
      ∧ (s.overEpisode n).free = s.free ∧ (s.overEpisode n).xm = s.xm
      ∧ (s.overEpisode n).lastGranted = s.lastGranted ∧ (s.overEpisode n).orders = s.orders
      ∧ (s.overEpisode n).timers = s.timers ∧ (s.overEpisode n).sets = s.sets
      ∧ (s.overEpisode n).motion = s.motion ∧ (s.overEpisode n).traction = s.traction
      ∧ (s.overEpisode n).bridges = s.bridges ∧ (s.overEpisode n).balance = s.balance
      ∧ (s.overEpisode n).radio = s.radio ∧ (s.overEpisode n).sound = s.sound
      ∧ (s.overEpisode n).supply = s.supply := by
  simp only [State.overEpisode]
  repeat' split
  all_goals simp

@[simp] theorem overcurrentDetected_frame (s : State) (n : Nat) :
    (overcurrentDetected s n).pending = s.pending ∧ (overcurrentDetected s n).clock = s.clock
      ∧ (overcurrentDetected s n).free = s.free ∧ (overcurrentDetected s n).xm = s.xm
      ∧ (overcurrentDetected s n).lastGranted = s.lastGranted
      ∧ (overcurrentDetected s n).orders = s.orders ∧ (overcurrentDetected s n).timers = s.timers
      ∧ (overcurrentDetected s n).sets = s.sets ∧ (overcurrentDetected s n).motion = s.motion
      ∧ (overcurrentDetected s n).traction = s.traction
      ∧ (overcurrentDetected s n).bridges = s.bridges
      ∧ (overcurrentDetected s n).balance = s.balance ∧ (overcurrentDetected s n).radio = s.radio
      ∧ (overcurrentDetected s n).sound = s.sound ∧ (overcurrentDetected s n).supply = s.supply := by
  simp only [overcurrentDetected]
  repeat' split
  all_goals simp

@[simp] theorem openLoadDetected_frame (s : State) (n : Nat) :
    (openLoadDetected s n).pending = s.pending ∧ (openLoadDetected s n).clock = s.clock
      ∧ (openLoadDetected s n).free = s.free ∧ (openLoadDetected s n).xm = s.xm
      ∧ (openLoadDetected s n).lastGranted = s.lastGranted
      ∧ (openLoadDetected s n).orders = s.orders ∧ (openLoadDetected s n).timers = s.timers
      ∧ (openLoadDetected s n).sets = s.sets ∧ (openLoadDetected s n).motion = s.motion
      ∧ (openLoadDetected s n).traction = s.traction ∧ (openLoadDetected s n).bridges = s.bridges
      ∧ (openLoadDetected s n).balance = s.balance ∧ (openLoadDetected s n).radio = s.radio
      ∧ (openLoadDetected s n).sound = s.sound ∧ (openLoadDetected s n).supply = s.supply := by
  simp only [openLoadDetected]
  repeat' split
  all_goals simp

@[simp] theorem State.fanRuns_frame (s : State) :
    s.fanRuns.pending = s.pending ∧ s.fanRuns.clock = s.clock ∧ s.fanRuns.free = s.free
      ∧ s.fanRuns.xm = s.xm ∧ s.fanRuns.lastGranted = s.lastGranted ∧ s.fanRuns.port = s.port
      ∧ s.fanRuns.orders = s.orders ∧ s.fanRuns.status = s.status ∧ s.fanRuns.timers = s.timers
      ∧ s.fanRuns.sets = s.sets ∧ s.fanRuns.motion = s.motion ∧ s.fanRuns.traction = s.traction
      ∧ s.fanRuns.bridges = s.bridges ∧ s.fanRuns.balance = s.balance ∧ s.fanRuns.radio = s.radio
      ∧ s.fanRuns.sound = s.sound ∧ s.fanRuns.supply = s.supply := by
  simp [State.fanRuns]

@[simp] theorem State.fanStart_frame (s : State) :
    s.fanStart.pending = s.pending ∧ s.fanStart.clock = s.clock ∧ s.fanStart.free = s.free
      ∧ s.fanStart.xm = s.xm ∧ s.fanStart.lastGranted = s.lastGranted ∧ s.fanStart.port = s.port
      ∧ s.fanStart.orders = s.orders ∧ s.fanStart.status = s.status ∧ s.fanStart.timers = s.timers
      ∧ s.fanStart.sets = s.sets ∧ s.fanStart.motion = s.motion ∧ s.fanStart.traction = s.traction
      ∧ s.fanStart.bridges = s.bridges ∧ s.fanStart.balance = s.balance
      ∧ s.fanStart.radio = s.radio ∧ s.fanStart.sound = s.sound ∧ s.fanStart.supply = s.supply := by
  simp only [State.fanStart]
  repeat' split
  all_goals simp

@[simp] theorem State.fanPurge_frame (s : State) :
    s.fanPurge.pending = s.pending ∧ s.fanPurge.clock = s.clock ∧ s.fanPurge.free = s.free
      ∧ s.fanPurge.xm = s.xm ∧ s.fanPurge.lastGranted = s.lastGranted ∧ s.fanPurge.port = s.port
      ∧ s.fanPurge.orders = s.orders ∧ s.fanPurge.status = s.status ∧ s.fanPurge.timers = s.timers
      ∧ s.fanPurge.sets = s.sets ∧ s.fanPurge.motion = s.motion ∧ s.fanPurge.traction = s.traction
      ∧ s.fanPurge.bridges = s.bridges ∧ s.fanPurge.balance = s.balance
      ∧ s.fanPurge.radio = s.radio ∧ s.fanPurge.sound = s.sound ∧ s.fanPurge.supply = s.supply := by
  simp only [State.fanPurge]
  repeat' split
  all_goals simp

@[simp] theorem State.fanChuff_frame (s : State) :
    s.fanChuff.pending = s.pending ∧ s.fanChuff.clock = s.clock ∧ s.fanChuff.free = s.free
      ∧ s.fanChuff.xm = s.xm ∧ s.fanChuff.lastGranted = s.lastGranted ∧ s.fanChuff.port = s.port
      ∧ s.fanChuff.orders = s.orders ∧ s.fanChuff.status = s.status ∧ s.fanChuff.timers = s.timers
      ∧ s.fanChuff.sets = s.sets ∧ s.fanChuff.motion = s.motion ∧ s.fanChuff.traction = s.traction
      ∧ s.fanChuff.bridges = s.bridges ∧ s.fanChuff.balance = s.balance
      ∧ s.fanChuff.radio = s.radio ∧ s.fanChuff.sound = s.sound ∧ s.fanChuff.supply = s.supply := by
  simp only [State.fanChuff]
  repeat' split
  all_goals simp

@[simp] theorem State.fanDriveNow_frame (s : State) :
    s.fanDriveNow.pending = s.pending ∧ s.fanDriveNow.clock = s.clock
      ∧ s.fanDriveNow.free = s.free ∧ s.fanDriveNow.xm = s.xm
      ∧ s.fanDriveNow.lastGranted = s.lastGranted ∧ s.fanDriveNow.port = s.port
      ∧ s.fanDriveNow.orders = s.orders ∧ s.fanDriveNow.status = s.status
      ∧ s.fanDriveNow.timers = s.timers ∧ s.fanDriveNow.sets = s.sets
      ∧ s.fanDriveNow.motion = s.motion ∧ s.fanDriveNow.traction = s.traction
      ∧ s.fanDriveNow.bridges = s.bridges ∧ s.fanDriveNow.balance = s.balance
      ∧ s.fanDriveNow.radio = s.radio ∧ s.fanDriveNow.sound = s.sound
      ∧ s.fanDriveNow.supply = s.supply := by
  simp [State.fanDriveNow]

@[simp] theorem State.clearFan_frame (s : State) :
    s.clearFan.pending = s.pending ∧ s.clearFan.clock = s.clock ∧ s.clearFan.free = s.free
      ∧ s.clearFan.xm = s.xm ∧ s.clearFan.lastGranted = s.lastGranted ∧ s.clearFan.port = s.port
      ∧ s.clearFan.orders = s.orders ∧ s.clearFan.status = s.status ∧ s.clearFan.timers = s.timers
      ∧ s.clearFan.sets = s.sets ∧ s.clearFan.motion = s.motion ∧ s.clearFan.traction = s.traction
      ∧ s.clearFan.bridges = s.bridges ∧ s.clearFan.balance = s.balance
      ∧ s.clearFan.radio = s.radio ∧ s.clearFan.sound = s.sound ∧ s.clearFan.supply = s.supply := by
  simp only [State.clearFan]
  repeat' split
  all_goals simp

@[simp] theorem State.fanFollows_frame (s : State) (before : HeaterState) :
    (s.fanFollows before).pending = s.pending ∧ (s.fanFollows before).clock = s.clock
      ∧ (s.fanFollows before).free = s.free ∧ (s.fanFollows before).xm = s.xm
      ∧ (s.fanFollows before).lastGranted = s.lastGranted ∧ (s.fanFollows before).port = s.port
      ∧ (s.fanFollows before).orders = s.orders ∧ (s.fanFollows before).status = s.status
      ∧ (s.fanFollows before).timers = s.timers ∧ (s.fanFollows before).sets = s.sets
      ∧ (s.fanFollows before).motion = s.motion ∧ (s.fanFollows before).traction = s.traction
      ∧ (s.fanFollows before).bridges = s.bridges ∧ (s.fanFollows before).balance = s.balance
      ∧ (s.fanFollows before).radio = s.radio ∧ (s.fanFollows before).sound = s.sound
      ∧ (s.fanFollows before).supply = s.supply := by
  simp only [State.fanFollows]
  repeat' split
  all_goals simp

@[simp] theorem State.sensorTest_frame (s : State) :
    s.sensorTest.pending = s.pending ∧ s.sensorTest.clock = s.clock ∧ s.sensorTest.free = s.free
      ∧ s.sensorTest.xm = s.xm ∧ s.sensorTest.lastGranted = s.lastGranted
      ∧ s.sensorTest.orders = s.orders ∧ s.sensorTest.timers = s.timers
      ∧ s.sensorTest.sets = s.sets ∧ s.sensorTest.motion = s.motion
      ∧ s.sensorTest.traction = s.traction ∧ s.sensorTest.bridges = s.bridges
      ∧ s.sensorTest.balance = s.balance ∧ s.sensorTest.radio = s.radio
      ∧ s.sensorTest.sound = s.sound ∧ s.sensorTest.supply = s.supply := by
  simp only [State.sensorTest]
  repeat' split
  all_goals simp

@[simp] theorem State.dryTest_frame (s : State) :
    s.dryTest.pending = s.pending ∧ s.dryTest.clock = s.clock ∧ s.dryTest.free = s.free
      ∧ s.dryTest.xm = s.xm ∧ s.dryTest.lastGranted = s.lastGranted ∧ s.dryTest.orders = s.orders
      ∧ s.dryTest.timers = s.timers ∧ s.dryTest.sets = s.sets ∧ s.dryTest.motion = s.motion
      ∧ s.dryTest.traction = s.traction ∧ s.dryTest.bridges = s.bridges
      ∧ s.dryTest.balance = s.balance ∧ s.dryTest.radio = s.radio ∧ s.dryTest.sound = s.sound
      ∧ s.dryTest.supply = s.supply := by
  simp only [State.dryTest]
  repeat' split
  all_goals simp

@[simp] theorem State.heaterArrival_frame (s : State) :
    s.heaterArrival.pending = s.pending ∧ s.heaterArrival.clock = s.clock
      ∧ s.heaterArrival.free = s.free ∧ s.heaterArrival.xm = s.xm
      ∧ s.heaterArrival.lastGranted = s.lastGranted ∧ s.heaterArrival.port = s.port
      ∧ s.heaterArrival.orders = s.orders ∧ s.heaterArrival.status = s.status
      ∧ s.heaterArrival.timers = s.timers ∧ s.heaterArrival.sets = s.sets
      ∧ s.heaterArrival.motion = s.motion ∧ s.heaterArrival.traction = s.traction
      ∧ s.heaterArrival.bridges = s.bridges ∧ s.heaterArrival.balance = s.balance
      ∧ s.heaterArrival.radio = s.radio ∧ s.heaterArrival.sound = s.sound
      ∧ s.heaterArrival.supply = s.supply := by
  simp [State.heaterArrival]

@[simp] theorem State.heaterSetChange_frame (s : State) :
    s.heaterSetChange.pending = s.pending ∧ s.heaterSetChange.clock = s.clock
      ∧ s.heaterSetChange.free = s.free ∧ s.heaterSetChange.xm = s.xm
      ∧ s.heaterSetChange.lastGranted = s.lastGranted ∧ s.heaterSetChange.orders = s.orders
      ∧ s.heaterSetChange.timers = s.timers ∧ s.heaterSetChange.sets = s.sets
      ∧ s.heaterSetChange.motion = s.motion ∧ s.heaterSetChange.traction = s.traction
      ∧ s.heaterSetChange.bridges = s.bridges ∧ s.heaterSetChange.balance = s.balance
      ∧ s.heaterSetChange.radio = s.radio ∧ s.heaterSetChange.sound = s.sound
      ∧ s.heaterSetChange.supply = s.supply := by
  simp [State.heaterSetChange]

@[simp] theorem State.chuffEvent_frame (s : State) :
    s.chuffEvent.pending = s.pending ∧ s.chuffEvent.clock = s.clock ∧ s.chuffEvent.free = s.free
      ∧ s.chuffEvent.xm = s.xm ∧ s.chuffEvent.lastGranted = s.lastGranted
      ∧ s.chuffEvent.port = s.port ∧ s.chuffEvent.orders = s.orders
      ∧ s.chuffEvent.status = s.status ∧ s.chuffEvent.timers = s.timers
      ∧ s.chuffEvent.sets = s.sets ∧ s.chuffEvent.motion = s.motion
      ∧ s.chuffEvent.traction = s.traction ∧ s.chuffEvent.bridges = s.bridges
      ∧ s.chuffEvent.balance = s.balance ∧ s.chuffEvent.radio = s.radio
      ∧ s.chuffEvent.sound = s.sound ∧ s.chuffEvent.supply = s.supply := by
  simp [State.chuffEvent]

@[simp] theorem State.lampShedChange_frame (s : State) (before : Nat) :
    (s.lampShedChange before).pending = s.pending ∧ (s.lampShedChange before).clock = s.clock
      ∧ (s.lampShedChange before).free = s.free ∧ (s.lampShedChange before).xm = s.xm
      ∧ (s.lampShedChange before).lastGranted = s.lastGranted
      ∧ (s.lampShedChange before).port = s.port ∧ (s.lampShedChange before).orders = s.orders
      ∧ (s.lampShedChange before).status = s.status ∧ (s.lampShedChange before).timers = s.timers
      ∧ (s.lampShedChange before).sets = s.sets ∧ (s.lampShedChange before).motion = s.motion
      ∧ (s.lampShedChange before).traction = s.traction
      ∧ (s.lampShedChange before).bridges = s.bridges
      ∧ (s.lampShedChange before).balance = s.balance ∧ (s.lampShedChange before).radio = s.radio
      ∧ (s.lampShedChange before).sound = s.sound ∧ (s.lampShedChange before).supply = s.supply := by
  simp only [State.lampShedChange]
  repeat' split
  all_goals simp

/-! ## Motion -/

@[simp] theorem State.takeRate_frame (s : State) :
    s.takeRate.pending = s.pending ∧ s.takeRate.clock = s.clock ∧ s.takeRate.free = s.free
      ∧ s.takeRate.xm = s.xm ∧ s.takeRate.lastGranted = s.lastGranted ∧ s.takeRate.port = s.port
      ∧ s.takeRate.orders = s.orders ∧ s.takeRate.status = s.status ∧ s.takeRate.timers = s.timers
      ∧ s.takeRate.sets = s.sets ∧ s.takeRate.traction = s.traction
      ∧ s.takeRate.bridges = s.bridges ∧ s.takeRate.balance = s.balance
      ∧ s.takeRate.radio = s.radio ∧ s.takeRate.sound = s.sound ∧ s.takeRate.lamps = s.lamps
      ∧ s.takeRate.supply = s.supply := by
  simp [State.takeRate]

@[simp] theorem stallTimerExpiry_frame (s : State) :
    (stallTimerExpiry s).pending = s.pending ∧ (stallTimerExpiry s).free = s.free
      ∧ (stallTimerExpiry s).xm = s.xm ∧ (stallTimerExpiry s).lastGranted = s.lastGranted
      ∧ (stallTimerExpiry s).port = s.port ∧ (stallTimerExpiry s).orders = s.orders
      ∧ (stallTimerExpiry s).status = s.status ∧ (stallTimerExpiry s).timers = s.timers
      ∧ (stallTimerExpiry s).sets = s.sets ∧ (stallTimerExpiry s).traction = s.traction
      ∧ (stallTimerExpiry s).bridges = s.bridges ∧ (stallTimerExpiry s).balance = s.balance
      ∧ (stallTimerExpiry s).radio = s.radio ∧ (stallTimerExpiry s).sound = s.sound
      ∧ (stallTimerExpiry s).lamps = s.lamps ∧ (stallTimerExpiry s).supply = s.supply := by
  simp only [stallTimerExpiry]
  repeat' split
  all_goals simp

@[simp] theorem State.stallBefore_frame (s : State) (now : Nat) :
    (s.stallBefore now).pending = s.pending ∧ (s.stallBefore now).free = s.free
      ∧ (s.stallBefore now).xm = s.xm ∧ (s.stallBefore now).lastGranted = s.lastGranted
      ∧ (s.stallBefore now).port = s.port ∧ (s.stallBefore now).orders = s.orders
      ∧ (s.stallBefore now).status = s.status ∧ (s.stallBefore now).timers = s.timers
      ∧ (s.stallBefore now).sets = s.sets ∧ (s.stallBefore now).traction = s.traction
      ∧ (s.stallBefore now).bridges = s.bridges ∧ (s.stallBefore now).balance = s.balance
      ∧ (s.stallBefore now).radio = s.radio ∧ (s.stallBefore now).sound = s.sound
      ∧ (s.stallBefore now).lamps = s.lamps ∧ (s.stallBefore now).supply = s.supply := by
  simp only [State.stallBefore]
  repeat' split
  all_goals simp

@[simp] theorem State.lossDetection_frame (s : State) (applied : Nat) :
    (s.lossDetection applied).pending = s.pending ∧ (s.lossDetection applied).clock = s.clock
      ∧ (s.lossDetection applied).free = s.free ∧ (s.lossDetection applied).xm = s.xm
      ∧ (s.lossDetection applied).lastGranted = s.lastGranted
      ∧ (s.lossDetection applied).orders = s.orders ∧ (s.lossDetection applied).timers = s.timers
      ∧ (s.lossDetection applied).sets = s.sets ∧ (s.lossDetection applied).traction = s.traction
      ∧ (s.lossDetection applied).bridges = s.bridges
      ∧ (s.lossDetection applied).balance = s.balance ∧ (s.lossDetection applied).radio = s.radio
      ∧ (s.lossDetection applied).sound = s.sound ∧ (s.lossDetection applied).lamps = s.lamps
      ∧ (s.lossDetection applied).supply = s.supply := by
  simp only [State.lossDetection]
  repeat' split
  all_goals simp

/-! ## Sound -/

@[simp] theorem State.onVoice_frame (s : State) (n : Nat) (f : Voice → Voice) :
    (s.onVoice n f).pending = s.pending ∧ (s.onVoice n f).clock = s.clock
      ∧ (s.onVoice n f).free = s.free ∧ (s.onVoice n f).xm = s.xm
      ∧ (s.onVoice n f).lastGranted = s.lastGranted ∧ (s.onVoice n f).port = s.port
      ∧ (s.onVoice n f).orders = s.orders ∧ (s.onVoice n f).status = s.status
      ∧ (s.onVoice n f).timers = s.timers ∧ (s.onVoice n f).sets = s.sets
      ∧ (s.onVoice n f).motion = s.motion ∧ (s.onVoice n f).traction = s.traction
      ∧ (s.onVoice n f).bridges = s.bridges ∧ (s.onVoice n f).balance = s.balance
      ∧ (s.onVoice n f).radio = s.radio ∧ (s.onVoice n f).lamps = s.lamps
      ∧ (s.onVoice n f).supply = s.supply := by
  simp [State.onVoice]

@[simp] theorem State.playSegment_frame (s : State) (clip : Nat) (second : Bool) :
    (s.playSegment clip second).pending = s.pending
      ∧ (s.playSegment clip second).clock = s.clock ∧ (s.playSegment clip second).free = s.free
      ∧ (s.playSegment clip second).lastGranted = s.lastGranted
      ∧ (s.playSegment clip second).port = s.port ∧ (s.playSegment clip second).orders = s.orders
      ∧ (s.playSegment clip second).status = s.status
      ∧ (s.playSegment clip second).timers = s.timers ∧ (s.playSegment clip second).sets = s.sets
      ∧ (s.playSegment clip second).motion = s.motion
      ∧ (s.playSegment clip second).traction = s.traction
      ∧ (s.playSegment clip second).bridges = s.bridges
      ∧ (s.playSegment clip second).balance = s.balance
      ∧ (s.playSegment clip second).radio = s.radio ∧ (s.playSegment clip second).sound = s.sound
      ∧ (s.playSegment clip second).lamps = s.lamps
      ∧ (s.playSegment clip second).supply = s.supply := by
  simp [State.playSegment]

@[simp] theorem State.leaveSegment_frame (s : State) (clip : Nat) (second : Bool) :
    (s.leaveSegment clip second).pending = s.pending
      ∧ (s.leaveSegment clip second).clock = s.clock ∧ (s.leaveSegment clip second).free = s.free
      ∧ (s.leaveSegment clip second).lastGranted = s.lastGranted
      ∧ (s.leaveSegment clip second).orders = s.orders
      ∧ (s.leaveSegment clip second).status = s.status
      ∧ (s.leaveSegment clip second).timers = s.timers
      ∧ (s.leaveSegment clip second).sets = s.sets
      ∧ (s.leaveSegment clip second).motion = s.motion
      ∧ (s.leaveSegment clip second).traction = s.traction
      ∧ (s.leaveSegment clip second).bridges = s.bridges
      ∧ (s.leaveSegment clip second).balance = s.balance
      ∧ (s.leaveSegment clip second).radio = s.radio
      ∧ (s.leaveSegment clip second).sound = s.sound
      ∧ (s.leaveSegment clip second).lamps = s.lamps
      ∧ (s.leaveSegment clip second).supply = s.supply := by
  simp [State.leaveSegment]

@[simp] theorem State.stopVoice_frame (s : State) (n : Nat) :
    (s.stopVoice n).pending = s.pending ∧ (s.stopVoice n).clock = s.clock
      ∧ (s.stopVoice n).free = s.free ∧ (s.stopVoice n).lastGranted = s.lastGranted
      ∧ (s.stopVoice n).orders = s.orders ∧ (s.stopVoice n).status = s.status
      ∧ (s.stopVoice n).timers = s.timers ∧ (s.stopVoice n).sets = s.sets
      ∧ (s.stopVoice n).motion = s.motion ∧ (s.stopVoice n).traction = s.traction
      ∧ (s.stopVoice n).bridges = s.bridges ∧ (s.stopVoice n).balance = s.balance
      ∧ (s.stopVoice n).radio = s.radio ∧ (s.stopVoice n).lamps = s.lamps
      ∧ (s.stopVoice n).supply = s.supply := by
  simp only [State.stopVoice]
  repeat' split
  all_goals simp

@[simp] theorem State.stopVoices_frame (s : State) :
    (allVoices.foldl State.stopVoice s).pending = s.pending
      ∧ (allVoices.foldl State.stopVoice s).clock = s.clock
      ∧ (allVoices.foldl State.stopVoice s).free = s.free
      ∧ (allVoices.foldl State.stopVoice s).lastGranted = s.lastGranted
      ∧ (allVoices.foldl State.stopVoice s).orders = s.orders
      ∧ (allVoices.foldl State.stopVoice s).status = s.status
      ∧ (allVoices.foldl State.stopVoice s).timers = s.timers
      ∧ (allVoices.foldl State.stopVoice s).sets = s.sets
      ∧ (allVoices.foldl State.stopVoice s).motion = s.motion
      ∧ (allVoices.foldl State.stopVoice s).traction = s.traction
      ∧ (allVoices.foldl State.stopVoice s).bridges = s.bridges
      ∧ (allVoices.foldl State.stopVoice s).balance = s.balance
      ∧ (allVoices.foldl State.stopVoice s).radio = s.radio
      ∧ (allVoices.foldl State.stopVoice s).lamps = s.lamps
      ∧ (allVoices.foldl State.stopVoice s).supply = s.supply := 
    ⟨foldl_keeps (act := State.stopVoice) (·.pending) (by simp) allVoices s, foldl_keeps (act :=
    State.stopVoice) (·.clock) (by simp) allVoices s, foldl_keeps (act := State.stopVoice) (·.free)
    (by simp) allVoices s, foldl_keeps (act := State.stopVoice) (·.lastGranted) (by simp) allVoices
    s, foldl_keeps (act := State.stopVoice) (·.orders) (by simp) allVoices s, foldl_keeps (act :=
    State.stopVoice) (·.status) (by simp) allVoices s, foldl_keeps (act := State.stopVoice)
    (·.timers) (by simp) allVoices s, foldl_keeps (act := State.stopVoice) (·.sets) (by simp)
    allVoices s, foldl_keeps (act := State.stopVoice) (·.motion) (by simp) allVoices s, foldl_keeps
    (act := State.stopVoice) (·.traction) (by simp) allVoices s, foldl_keeps (act :=
    State.stopVoice) (·.bridges) (by simp) allVoices s, foldl_keeps (act := State.stopVoice)
    (·.balance) (by simp) allVoices s, foldl_keeps (act := State.stopVoice) (·.radio) (by simp)
    allVoices s, foldl_keeps (act := State.stopVoice) (·.lamps) (by simp) allVoices s, foldl_keeps
    (act := State.stopVoice) (·.supply) (by simp) allVoices s⟩

@[simp] theorem State.voiceStarts_frame (s : State) (n clip : Nat) (e : ClipEntry) (f : StartFields) (last : Bool) :
    (s.voiceStarts n clip e f last).pending = s.pending
      ∧ (s.voiceStarts n clip e f last).clock = s.clock
      ∧ (s.voiceStarts n clip e f last).free = s.free ∧ (s.voiceStarts n clip e f last).xm = s.xm
      ∧ (s.voiceStarts n clip e f last).lastGranted = s.lastGranted
      ∧ (s.voiceStarts n clip e f last).port = s.port
      ∧ (s.voiceStarts n clip e f last).orders = s.orders
      ∧ (s.voiceStarts n clip e f last).status = s.status
      ∧ (s.voiceStarts n clip e f last).timers = s.timers
      ∧ (s.voiceStarts n clip e f last).sets = s.sets
      ∧ (s.voiceStarts n clip e f last).motion = s.motion
      ∧ (s.voiceStarts n clip e f last).traction = s.traction
      ∧ (s.voiceStarts n clip e f last).bridges = s.bridges
      ∧ (s.voiceStarts n clip e f last).balance = s.balance
      ∧ (s.voiceStarts n clip e f last).radio = s.radio
      ∧ (s.voiceStarts n clip e f last).lamps = s.lamps
      ∧ (s.voiceStarts n clip e f last).supply = s.supply := by
  simp [State.voiceStarts]

@[simp] theorem State.startVoice_frame (s : State) (n clip : Nat) (use : ClipUse) (f : StartFields) :
    (s.startVoice n clip use f).1.pending = s.pending
      ∧ (s.startVoice n clip use f).1.clock = s.clock
      ∧ (s.startVoice n clip use f).1.free = s.free
      ∧ (s.startVoice n clip use f).1.lastGranted = s.lastGranted
      ∧ (s.startVoice n clip use f).1.orders = s.orders
      ∧ (s.startVoice n clip use f).1.status = s.status
      ∧ (s.startVoice n clip use f).1.timers = s.timers
      ∧ (s.startVoice n clip use f).1.sets = s.sets
      ∧ (s.startVoice n clip use f).1.motion = s.motion
      ∧ (s.startVoice n clip use f).1.traction = s.traction
      ∧ (s.startVoice n clip use f).1.bridges = s.bridges
      ∧ (s.startVoice n clip use f).1.balance = s.balance
      ∧ (s.startVoice n clip use f).1.radio = s.radio
      ∧ (s.startVoice n clip use f).1.lamps = s.lamps
      ∧ (s.startVoice n clip use f).1.supply = s.supply := by
  simp only [State.startVoice]
  repeat' split
  all_goals simp

@[simp] theorem State.clipFault_frame (s : State) (clip : Nat) (use : ClipUse) :
    (s.clipFault clip use).pending = s.pending ∧ (s.clipFault clip use).clock = s.clock
      ∧ (s.clipFault clip use).free = s.free ∧ (s.clipFault clip use).xm = s.xm
      ∧ (s.clipFault clip use).lastGranted = s.lastGranted
      ∧ (s.clipFault clip use).orders = s.orders ∧ (s.clipFault clip use).timers = s.timers
      ∧ (s.clipFault clip use).sets = s.sets ∧ (s.clipFault clip use).motion = s.motion
      ∧ (s.clipFault clip use).traction = s.traction ∧ (s.clipFault clip use).bridges = s.bridges
      ∧ (s.clipFault clip use).balance = s.balance ∧ (s.clipFault clip use).radio = s.radio
      ∧ (s.clipFault clip use).lamps = s.lamps ∧ (s.clipFault clip use).supply = s.supply := by
  simp [State.clipFault]

@[simp] theorem State.startOrFault_frame (s : State) (n clip : Nat) (use : ClipUse) (f : StartFields) :
    (s.startOrFault n clip use f).pending = s.pending
      ∧ (s.startOrFault n clip use f).clock = s.clock
      ∧ (s.startOrFault n clip use f).free = s.free
      ∧ (s.startOrFault n clip use f).lastGranted = s.lastGranted
      ∧ (s.startOrFault n clip use f).orders = s.orders
      ∧ (s.startOrFault n clip use f).timers = s.timers
      ∧ (s.startOrFault n clip use f).sets = s.sets
      ∧ (s.startOrFault n clip use f).motion = s.motion
      ∧ (s.startOrFault n clip use f).traction = s.traction
      ∧ (s.startOrFault n clip use f).bridges = s.bridges
      ∧ (s.startOrFault n clip use f).balance = s.balance
      ∧ (s.startOrFault n clip use f).radio = s.radio
      ∧ (s.startOrFault n clip use f).lamps = s.lamps
      ∧ (s.startOrFault n clip use f).supply = s.supply := by
  simp only [State.startOrFault]
  repeat' split
  all_goals simp

@[simp] theorem State.trigger_frame (s : State) (clip : Nat) (use : ClipUse) (f : StartFields) :
    (s.trigger clip use f).pending = s.pending ∧ (s.trigger clip use f).clock = s.clock
      ∧ (s.trigger clip use f).free = s.free ∧ (s.trigger clip use f).lastGranted = s.lastGranted
      ∧ (s.trigger clip use f).orders = s.orders ∧ (s.trigger clip use f).timers = s.timers
      ∧ (s.trigger clip use f).sets = s.sets ∧ (s.trigger clip use f).motion = s.motion
      ∧ (s.trigger clip use f).traction = s.traction ∧ (s.trigger clip use f).bridges = s.bridges
      ∧ (s.trigger clip use f).balance = s.balance ∧ (s.trigger clip use f).radio = s.radio
      ∧ (s.trigger clip use f).lamps = s.lamps ∧ (s.trigger clip use f).supply = s.supply := by
  simp only [State.trigger]
  repeat' split
  all_goals simp

@[simp] theorem State.playStartClip_frame (s : State) :
    s.playStartClip.pending = s.pending ∧ s.playStartClip.clock = s.clock
      ∧ s.playStartClip.free = s.free ∧ s.playStartClip.lastGranted = s.lastGranted
      ∧ s.playStartClip.orders = s.orders ∧ s.playStartClip.timers = s.timers
      ∧ s.playStartClip.sets = s.sets ∧ s.playStartClip.motion = s.motion
      ∧ s.playStartClip.traction = s.traction ∧ s.playStartClip.bridges = s.bridges
      ∧ s.playStartClip.balance = s.balance ∧ s.playStartClip.radio = s.radio
      ∧ s.playStartClip.lamps = s.lamps ∧ s.playStartClip.supply = s.supply := by
  simp [State.playStartClip]

@[simp] theorem State.playStopClip_frame (s : State) :
    s.playStopClip.pending = s.pending ∧ s.playStopClip.clock = s.clock
      ∧ s.playStopClip.free = s.free ∧ s.playStopClip.lastGranted = s.lastGranted
      ∧ s.playStopClip.orders = s.orders ∧ s.playStopClip.timers = s.timers
      ∧ s.playStopClip.sets = s.sets ∧ s.playStopClip.motion = s.motion
      ∧ s.playStopClip.traction = s.traction ∧ s.playStopClip.bridges = s.bridges
      ∧ s.playStopClip.balance = s.balance ∧ s.playStopClip.radio = s.radio
      ∧ s.playStopClip.lamps = s.lamps ∧ s.playStopClip.supply = s.supply := by
  simp [State.playStopClip]

@[simp] theorem State.playHorn_frame (s : State) :
    s.playHorn.pending = s.pending ∧ s.playHorn.clock = s.clock ∧ s.playHorn.free = s.free
      ∧ s.playHorn.lastGranted = s.lastGranted ∧ s.playHorn.orders = s.orders
      ∧ s.playHorn.timers = s.timers ∧ s.playHorn.sets = s.sets ∧ s.playHorn.motion = s.motion
      ∧ s.playHorn.traction = s.traction ∧ s.playHorn.bridges = s.bridges
      ∧ s.playHorn.balance = s.balance ∧ s.playHorn.radio = s.radio ∧ s.playHorn.lamps = s.lamps
      ∧ s.playHorn.supply = s.supply := by
  simp [State.playHorn]

@[simp] theorem State.functionClip_frame (s : State) (k : Nat) (t : Trigger) :
    (s.functionClip k t).pending = s.pending ∧ (s.functionClip k t).clock = s.clock
      ∧ (s.functionClip k t).free = s.free ∧ (s.functionClip k t).lastGranted = s.lastGranted
      ∧ (s.functionClip k t).orders = s.orders ∧ (s.functionClip k t).timers = s.timers
      ∧ (s.functionClip k t).sets = s.sets ∧ (s.functionClip k t).motion = s.motion
      ∧ (s.functionClip k t).traction = s.traction ∧ (s.functionClip k t).bridges = s.bridges
      ∧ (s.functionClip k t).balance = s.balance ∧ (s.functionClip k t).radio = s.radio
      ∧ (s.functionClip k t).lamps = s.lamps ∧ (s.functionClip k t).supply = s.supply := by
  simp only [State.functionClip]
  repeat' split
  all_goals simp

@[simp] theorem State.functionTrigger_frame (s : State) (before after : Reg) (k : Nat) (t : Trigger) :
    (s.functionTrigger before after k t).pending = s.pending
      ∧ (s.functionTrigger before after k t).clock = s.clock
      ∧ (s.functionTrigger before after k t).free = s.free
      ∧ (s.functionTrigger before after k t).lastGranted = s.lastGranted
      ∧ (s.functionTrigger before after k t).orders = s.orders
      ∧ (s.functionTrigger before after k t).timers = s.timers
      ∧ (s.functionTrigger before after k t).sets = s.sets
      ∧ (s.functionTrigger before after k t).motion = s.motion
      ∧ (s.functionTrigger before after k t).traction = s.traction
      ∧ (s.functionTrigger before after k t).bridges = s.bridges
      ∧ (s.functionTrigger before after k t).balance = s.balance
      ∧ (s.functionTrigger before after k t).radio = s.radio
      ∧ (s.functionTrigger before after k t).lamps = s.lamps
      ∧ (s.functionTrigger before after k t).supply = s.supply := by
  simp only [State.functionTrigger]
  repeat' split
  all_goals simp

@[simp] theorem State.soundFunctions_frame (s : State) (before : Reg) :
    (s.soundFunctions before).pending = s.pending ∧ (s.soundFunctions before).clock = s.clock
      ∧ (s.soundFunctions before).free = s.free
      ∧ (s.soundFunctions before).lastGranted = s.lastGranted
      ∧ (s.soundFunctions before).orders = s.orders ∧ (s.soundFunctions before).timers = s.timers
      ∧ (s.soundFunctions before).sets = s.sets ∧ (s.soundFunctions before).motion = s.motion
      ∧ (s.soundFunctions before).traction = s.traction
      ∧ (s.soundFunctions before).bridges = s.bridges
      ∧ (s.soundFunctions before).balance = s.balance ∧ (s.soundFunctions before).radio = s.radio
      ∧ (s.soundFunctions before).lamps = s.lamps ∧ (s.soundFunctions before).supply = s.supply :=
    ⟨triggersFrom_keeps (·.pending) (by simp) _ _ _, triggersFrom_keeps (·.clock) (by simp) _ _ _,
    triggersFrom_keeps (·.free) (by simp) _ _ _, triggersFrom_keeps (·.lastGranted) (by simp) _ _ _,
    triggersFrom_keeps (·.orders) (by simp) _ _ _, triggersFrom_keeps (·.timers) (by simp) _ _ _,
    triggersFrom_keeps (·.sets) (by simp) _ _ _, triggersFrom_keeps (·.motion) (by simp) _ _ _,
    triggersFrom_keeps (·.traction) (by simp) _ _ _, triggersFrom_keeps (·.bridges) (by simp) _ _ _,
    triggersFrom_keeps (·.balance) (by simp) _ _ _, triggersFrom_keeps (·.radio) (by simp) _ _ _,
    triggersFrom_keeps (·.lamps) (by simp) _ _ _, triggersFrom_keeps (·.supply) (by simp) _ _ _⟩

@[simp] theorem State.startEngine_frame (s : State) :
    s.startEngine.pending = s.pending ∧ s.startEngine.clock = s.clock
      ∧ s.startEngine.free = s.free ∧ s.startEngine.lastGranted = s.lastGranted
      ∧ s.startEngine.orders = s.orders ∧ s.startEngine.timers = s.timers
      ∧ s.startEngine.sets = s.sets ∧ s.startEngine.motion = s.motion
      ∧ s.startEngine.traction = s.traction ∧ s.startEngine.bridges = s.bridges
      ∧ s.startEngine.balance = s.balance ∧ s.startEngine.radio = s.radio
      ∧ s.startEngine.lamps = s.lamps ∧ s.startEngine.supply = s.supply := by
  simp [State.startEngine]

@[simp] theorem State.updateEngine_frame (s : State) :
    s.updateEngine.pending = s.pending ∧ s.updateEngine.clock = s.clock
      ∧ s.updateEngine.free = s.free ∧ s.updateEngine.xm = s.xm
      ∧ s.updateEngine.lastGranted = s.lastGranted ∧ s.updateEngine.port = s.port
      ∧ s.updateEngine.orders = s.orders ∧ s.updateEngine.status = s.status
      ∧ s.updateEngine.timers = s.timers ∧ s.updateEngine.sets = s.sets
      ∧ s.updateEngine.motion = s.motion ∧ s.updateEngine.traction = s.traction
      ∧ s.updateEngine.bridges = s.bridges ∧ s.updateEngine.balance = s.balance
      ∧ s.updateEngine.radio = s.radio ∧ s.updateEngine.lamps = s.lamps
      ∧ s.updateEngine.supply = s.supply := by
  simp only [State.updateEngine]
  repeat' split
  all_goals simp

@[simp] theorem State.chuff_frame (s : State) :
    s.chuff.pending = s.pending ∧ s.chuff.clock = s.clock ∧ s.chuff.free = s.free
      ∧ s.chuff.lastGranted = s.lastGranted ∧ s.chuff.orders = s.orders
      ∧ s.chuff.timers = s.timers ∧ s.chuff.sets = s.sets ∧ s.chuff.motion = s.motion
      ∧ s.chuff.traction = s.traction ∧ s.chuff.bridges = s.bridges ∧ s.chuff.balance = s.balance
      ∧ s.chuff.radio = s.radio ∧ s.chuff.supply = s.supply := by
  simp [State.chuff]

@[simp] theorem State.chuffCheck_frame (s : State) :
    s.chuffCheck.pending = s.pending ∧ s.chuffCheck.clock = s.clock ∧ s.chuffCheck.free = s.free
      ∧ s.chuffCheck.lastGranted = s.lastGranted ∧ s.chuffCheck.orders = s.orders
      ∧ s.chuffCheck.timers = s.timers ∧ s.chuffCheck.sets = s.sets
      ∧ s.chuffCheck.traction = s.traction ∧ s.chuffCheck.bridges = s.bridges
      ∧ s.chuffCheck.balance = s.balance ∧ s.chuffCheck.radio = s.radio
      ∧ s.chuffCheck.supply = s.supply := by
  simp only [State.chuffCheck]
  repeat' split
  all_goals simp

@[simp] theorem State.crossBoundary_frame (s : State) (n : Nat) (second : Bool) (entered boundary : Nat) :
    (s.crossBoundary n second entered boundary).pending = s.pending
      ∧ (s.crossBoundary n second entered boundary).clock = s.clock
      ∧ (s.crossBoundary n second entered boundary).free = s.free
      ∧ (s.crossBoundary n second entered boundary).lastGranted = s.lastGranted
      ∧ (s.crossBoundary n second entered boundary).orders = s.orders
      ∧ (s.crossBoundary n second entered boundary).status = s.status
      ∧ (s.crossBoundary n second entered boundary).timers = s.timers
      ∧ (s.crossBoundary n second entered boundary).sets = s.sets
      ∧ (s.crossBoundary n second entered boundary).motion = s.motion
      ∧ (s.crossBoundary n second entered boundary).traction = s.traction
      ∧ (s.crossBoundary n second entered boundary).bridges = s.bridges
      ∧ (s.crossBoundary n second entered boundary).balance = s.balance
      ∧ (s.crossBoundary n second entered boundary).radio = s.radio
      ∧ (s.crossBoundary n second entered boundary).lamps = s.lamps
      ∧ (s.crossBoundary n second entered boundary).supply = s.supply := by
  simp only [State.crossBoundary]
  repeat' split
  all_goals simp

@[simp] theorem State.streamBoundaries_frame (s : State) (n : Nat) (second : Bool) :
    (s.streamBoundaries n second).pending = s.pending
      ∧ (s.streamBoundaries n second).clock = s.clock
      ∧ (s.streamBoundaries n second).free = s.free
      ∧ (s.streamBoundaries n second).lastGranted = s.lastGranted
      ∧ (s.streamBoundaries n second).orders = s.orders
      ∧ (s.streamBoundaries n second).status = s.status
      ∧ (s.streamBoundaries n second).timers = s.timers
      ∧ (s.streamBoundaries n second).sets = s.sets
      ∧ (s.streamBoundaries n second).motion = s.motion
      ∧ (s.streamBoundaries n second).traction = s.traction
      ∧ (s.streamBoundaries n second).bridges = s.bridges
      ∧ (s.streamBoundaries n second).balance = s.balance
      ∧ (s.streamBoundaries n second).radio = s.radio
      ∧ (s.streamBoundaries n second).lamps = s.lamps
      ∧ (s.streamBoundaries n second).supply = s.supply := by
  simp only [State.streamBoundaries]
  repeat' split
  all_goals simp

@[simp] theorem State.advanceVoice_frame (s : State) (n : Nat) :
    (s.advanceVoice n).pending = s.pending ∧ (s.advanceVoice n).clock = s.clock
      ∧ (s.advanceVoice n).free = s.free ∧ (s.advanceVoice n).lastGranted = s.lastGranted
      ∧ (s.advanceVoice n).orders = s.orders ∧ (s.advanceVoice n).status = s.status
      ∧ (s.advanceVoice n).timers = s.timers ∧ (s.advanceVoice n).sets = s.sets
      ∧ (s.advanceVoice n).motion = s.motion ∧ (s.advanceVoice n).traction = s.traction
      ∧ (s.advanceVoice n).bridges = s.bridges ∧ (s.advanceVoice n).balance = s.balance
      ∧ (s.advanceVoice n).radio = s.radio ∧ (s.advanceVoice n).lamps = s.lamps
      ∧ (s.advanceVoice n).supply = s.supply := by
  simp only [State.advanceVoice]
  repeat' split
  all_goals simp

@[simp] theorem State.advanceVoices_frame (s : State) :
    (allVoices.foldl State.advanceVoice s).pending = s.pending
      ∧ (allVoices.foldl State.advanceVoice s).clock = s.clock
      ∧ (allVoices.foldl State.advanceVoice s).free = s.free
      ∧ (allVoices.foldl State.advanceVoice s).lastGranted = s.lastGranted
      ∧ (allVoices.foldl State.advanceVoice s).orders = s.orders
      ∧ (allVoices.foldl State.advanceVoice s).status = s.status
      ∧ (allVoices.foldl State.advanceVoice s).timers = s.timers
      ∧ (allVoices.foldl State.advanceVoice s).sets = s.sets
      ∧ (allVoices.foldl State.advanceVoice s).motion = s.motion
      ∧ (allVoices.foldl State.advanceVoice s).traction = s.traction
      ∧ (allVoices.foldl State.advanceVoice s).bridges = s.bridges
      ∧ (allVoices.foldl State.advanceVoice s).balance = s.balance
      ∧ (allVoices.foldl State.advanceVoice s).radio = s.radio
      ∧ (allVoices.foldl State.advanceVoice s).lamps = s.lamps
      ∧ (allVoices.foldl State.advanceVoice s).supply = s.supply := 
    ⟨foldl_keeps (act := State.advanceVoice) (·.pending) (by simp) allVoices s, foldl_keeps (act :=
    State.advanceVoice) (·.clock) (by simp) allVoices s, foldl_keeps (act := State.advanceVoice)
    (·.free) (by simp) allVoices s, foldl_keeps (act := State.advanceVoice) (·.lastGranted) (by
    simp) allVoices s, foldl_keeps (act := State.advanceVoice) (·.orders) (by simp) allVoices s,
    foldl_keeps (act := State.advanceVoice) (·.status) (by simp) allVoices s, foldl_keeps (act :=
    State.advanceVoice) (·.timers) (by simp) allVoices s, foldl_keeps (act := State.advanceVoice)
    (·.sets) (by simp) allVoices s, foldl_keeps (act := State.advanceVoice) (·.motion) (by simp)
    allVoices s, foldl_keeps (act := State.advanceVoice) (·.traction) (by simp) allVoices s,
    foldl_keeps (act := State.advanceVoice) (·.bridges) (by simp) allVoices s, foldl_keeps (act :=
    State.advanceVoice) (·.balance) (by simp) allVoices s, foldl_keeps (act := State.advanceVoice)
    (·.radio) (by simp) allVoices s, foldl_keeps (act := State.advanceVoice) (·.lamps) (by simp)
    allVoices s, foldl_keeps (act := State.advanceVoice) (·.supply) (by simp) allVoices s⟩

@[simp] theorem State.fadeVoice_frame (s : State) (n : Nat) :
    (s.fadeVoice n).pending = s.pending ∧ (s.fadeVoice n).clock = s.clock
      ∧ (s.fadeVoice n).free = s.free ∧ (s.fadeVoice n).lastGranted = s.lastGranted
      ∧ (s.fadeVoice n).orders = s.orders ∧ (s.fadeVoice n).status = s.status
      ∧ (s.fadeVoice n).timers = s.timers ∧ (s.fadeVoice n).sets = s.sets
      ∧ (s.fadeVoice n).motion = s.motion ∧ (s.fadeVoice n).traction = s.traction
      ∧ (s.fadeVoice n).bridges = s.bridges ∧ (s.fadeVoice n).balance = s.balance
      ∧ (s.fadeVoice n).radio = s.radio ∧ (s.fadeVoice n).lamps = s.lamps
      ∧ (s.fadeVoice n).supply = s.supply := by
  simp only [State.fadeVoice]
  repeat' split
  all_goals simp

@[simp] theorem State.fadeVoices_frame (s : State) :
    (allVoices.foldl State.fadeVoice s).pending = s.pending
      ∧ (allVoices.foldl State.fadeVoice s).clock = s.clock
      ∧ (allVoices.foldl State.fadeVoice s).free = s.free
      ∧ (allVoices.foldl State.fadeVoice s).lastGranted = s.lastGranted
      ∧ (allVoices.foldl State.fadeVoice s).orders = s.orders
      ∧ (allVoices.foldl State.fadeVoice s).status = s.status
      ∧ (allVoices.foldl State.fadeVoice s).timers = s.timers
      ∧ (allVoices.foldl State.fadeVoice s).sets = s.sets
      ∧ (allVoices.foldl State.fadeVoice s).motion = s.motion
      ∧ (allVoices.foldl State.fadeVoice s).traction = s.traction
      ∧ (allVoices.foldl State.fadeVoice s).bridges = s.bridges
      ∧ (allVoices.foldl State.fadeVoice s).balance = s.balance
      ∧ (allVoices.foldl State.fadeVoice s).radio = s.radio
      ∧ (allVoices.foldl State.fadeVoice s).lamps = s.lamps
      ∧ (allVoices.foldl State.fadeVoice s).supply = s.supply := 
    ⟨foldl_keeps (act := State.fadeVoice) (·.pending) (by simp) allVoices s, foldl_keeps (act :=
    State.fadeVoice) (·.clock) (by simp) allVoices s, foldl_keeps (act := State.fadeVoice) (·.free)
    (by simp) allVoices s, foldl_keeps (act := State.fadeVoice) (·.lastGranted) (by simp) allVoices
    s, foldl_keeps (act := State.fadeVoice) (·.orders) (by simp) allVoices s, foldl_keeps (act :=
    State.fadeVoice) (·.status) (by simp) allVoices s, foldl_keeps (act := State.fadeVoice)
    (·.timers) (by simp) allVoices s, foldl_keeps (act := State.fadeVoice) (·.sets) (by simp)
    allVoices s, foldl_keeps (act := State.fadeVoice) (·.motion) (by simp) allVoices s, foldl_keeps
    (act := State.fadeVoice) (·.traction) (by simp) allVoices s, foldl_keeps (act :=
    State.fadeVoice) (·.bridges) (by simp) allVoices s, foldl_keeps (act := State.fadeVoice)
    (·.balance) (by simp) allVoices s, foldl_keeps (act := State.fadeVoice) (·.radio) (by simp)
    allVoices s, foldl_keeps (act := State.fadeVoice) (·.lamps) (by simp) allVoices s, foldl_keeps
    (act := State.fadeVoice) (·.supply) (by simp) allVoices s⟩

@[simp] theorem State.retryVoice_frame (s : State) (n : Nat) :
    (s.retryVoice n).pending = s.pending ∧ (s.retryVoice n).clock = s.clock
      ∧ (s.retryVoice n).free = s.free ∧ (s.retryVoice n).lastGranted = s.lastGranted
      ∧ (s.retryVoice n).port = s.port ∧ (s.retryVoice n).orders = s.orders
      ∧ (s.retryVoice n).status = s.status ∧ (s.retryVoice n).timers = s.timers
      ∧ (s.retryVoice n).sets = s.sets ∧ (s.retryVoice n).motion = s.motion
      ∧ (s.retryVoice n).traction = s.traction ∧ (s.retryVoice n).bridges = s.bridges
      ∧ (s.retryVoice n).balance = s.balance ∧ (s.retryVoice n).radio = s.radio
      ∧ (s.retryVoice n).lamps = s.lamps ∧ (s.retryVoice n).supply = s.supply := by
  simp only [State.retryVoice]
  repeat' split
  all_goals simp

@[simp] theorem State.retryVoices_frame (s : State) :
    (allVoices.foldl State.retryVoice s).pending = s.pending
      ∧ (allVoices.foldl State.retryVoice s).clock = s.clock
      ∧ (allVoices.foldl State.retryVoice s).free = s.free
      ∧ (allVoices.foldl State.retryVoice s).lastGranted = s.lastGranted
      ∧ (allVoices.foldl State.retryVoice s).port = s.port
      ∧ (allVoices.foldl State.retryVoice s).orders = s.orders
      ∧ (allVoices.foldl State.retryVoice s).status = s.status
      ∧ (allVoices.foldl State.retryVoice s).timers = s.timers
      ∧ (allVoices.foldl State.retryVoice s).sets = s.sets
      ∧ (allVoices.foldl State.retryVoice s).motion = s.motion
      ∧ (allVoices.foldl State.retryVoice s).traction = s.traction
      ∧ (allVoices.foldl State.retryVoice s).bridges = s.bridges
      ∧ (allVoices.foldl State.retryVoice s).balance = s.balance
      ∧ (allVoices.foldl State.retryVoice s).radio = s.radio
      ∧ (allVoices.foldl State.retryVoice s).lamps = s.lamps
      ∧ (allVoices.foldl State.retryVoice s).supply = s.supply := 
    ⟨foldl_keeps (act := State.retryVoice) (·.pending) (by simp) allVoices s, foldl_keeps (act :=
    State.retryVoice) (·.clock) (by simp) allVoices s, foldl_keeps (act := State.retryVoice)
    (·.free) (by simp) allVoices s, foldl_keeps (act := State.retryVoice) (·.lastGranted) (by simp)
    allVoices s, foldl_keeps (act := State.retryVoice) (·.port) (by simp) allVoices s, foldl_keeps
    (act := State.retryVoice) (·.orders) (by simp) allVoices s, foldl_keeps (act :=
    State.retryVoice) (·.status) (by simp) allVoices s, foldl_keeps (act := State.retryVoice)
    (·.timers) (by simp) allVoices s, foldl_keeps (act := State.retryVoice) (·.sets) (by simp)
    allVoices s, foldl_keeps (act := State.retryVoice) (·.motion) (by simp) allVoices s, foldl_keeps
    (act := State.retryVoice) (·.traction) (by simp) allVoices s, foldl_keeps (act :=
    State.retryVoice) (·.bridges) (by simp) allVoices s, foldl_keeps (act := State.retryVoice)
    (·.balance) (by simp) allVoices s, foldl_keeps (act := State.retryVoice) (·.radio) (by simp)
    allVoices s, foldl_keeps (act := State.retryVoice) (·.lamps) (by simp) allVoices s, foldl_keeps
    (act := State.retryVoice) (·.supply) (by simp) allVoices s⟩

@[simp] theorem State.holdTrigger_frame (s : State) (k : Nat) (t : Trigger) :
    (s.holdTrigger k t).pending = s.pending ∧ (s.holdTrigger k t).clock = s.clock
      ∧ (s.holdTrigger k t).free = s.free ∧ (s.holdTrigger k t).lastGranted = s.lastGranted
      ∧ (s.holdTrigger k t).orders = s.orders ∧ (s.holdTrigger k t).timers = s.timers
      ∧ (s.holdTrigger k t).sets = s.sets ∧ (s.holdTrigger k t).motion = s.motion
      ∧ (s.holdTrigger k t).traction = s.traction ∧ (s.holdTrigger k t).bridges = s.bridges
      ∧ (s.holdTrigger k t).balance = s.balance ∧ (s.holdTrigger k t).radio = s.radio
      ∧ (s.holdTrigger k t).lamps = s.lamps ∧ (s.holdTrigger k t).supply = s.supply := by
  simp only [State.holdTrigger]
  repeat' split
  all_goals simp

@[simp] theorem State.soundSetChange_frame (s : State) :
    s.soundSetChange.pending = s.pending ∧ s.soundSetChange.clock = s.clock
      ∧ s.soundSetChange.free = s.free ∧ s.soundSetChange.lastGranted = s.lastGranted
      ∧ s.soundSetChange.orders = s.orders ∧ s.soundSetChange.timers = s.timers
      ∧ s.soundSetChange.sets = s.sets ∧ s.soundSetChange.motion = s.motion
      ∧ s.soundSetChange.traction = s.traction ∧ s.soundSetChange.bridges = s.bridges
      ∧ s.soundSetChange.balance = s.balance ∧ s.soundSetChange.radio = s.radio
      ∧ s.soundSetChange.lamps = s.lamps ∧ s.soundSetChange.supply = s.supply := by
  simp only [State.soundSetChange]
  refine ⟨(triggersFrom_keeps (·.pending) (by simp) _ _ _).trans ?_, (triggersFrom_keeps (·.clock)
    (by simp) _ _ _).trans ?_, (triggersFrom_keeps (·.free) (by simp) _ _ _).trans ?_,
    (triggersFrom_keeps (·.lastGranted) (by simp) _ _ _).trans ?_, (triggersFrom_keeps (·.orders)
    (by simp) _ _ _).trans ?_, (triggersFrom_keeps (·.timers) (by simp) _ _ _).trans ?_,
    (triggersFrom_keeps (·.sets) (by simp) _ _ _).trans ?_, (triggersFrom_keeps (·.motion) (by simp)
    _ _ _).trans ?_, (triggersFrom_keeps (·.traction) (by simp) _ _ _).trans ?_, (triggersFrom_keeps
    (·.bridges) (by simp) _ _ _).trans ?_, (triggersFrom_keeps (·.balance) (by simp) _ _ _).trans
    ?_, (triggersFrom_keeps (·.radio) (by simp) _ _ _).trans ?_, (triggersFrom_keeps (·.lamps) (by
    simp) _ _ _).trans ?_, (triggersFrom_keeps (·.supply) (by simp) _ _ _).trans ?_⟩ <;> simp

@[simp] theorem State.soundStop_frame (s : State) :
    s.soundStop.pending = s.pending ∧ s.soundStop.clock = s.clock ∧ s.soundStop.free = s.free
      ∧ s.soundStop.lastGranted = s.lastGranted ∧ s.soundStop.orders = s.orders
      ∧ s.soundStop.status = s.status ∧ s.soundStop.timers = s.timers ∧ s.soundStop.sets = s.sets
      ∧ s.soundStop.motion = s.motion ∧ s.soundStop.traction = s.traction
      ∧ s.soundStop.bridges = s.bridges ∧ s.soundStop.balance = s.balance
      ∧ s.soundStop.radio = s.radio ∧ s.soundStop.lamps = s.lamps ∧ s.soundStop.supply = s.supply := by
  simp [State.soundStop]

@[simp] theorem State.playClip_frame (s : State) (ps : List Byte) :
    (s.playClip ps).1.pending = s.pending ∧ (s.playClip ps).1.clock = s.clock
      ∧ (s.playClip ps).1.free = s.free ∧ (s.playClip ps).1.lastGranted = s.lastGranted
      ∧ (s.playClip ps).1.orders = s.orders ∧ (s.playClip ps).1.status = s.status
      ∧ (s.playClip ps).1.timers = s.timers ∧ (s.playClip ps).1.sets = s.sets
      ∧ (s.playClip ps).1.motion = s.motion ∧ (s.playClip ps).1.traction = s.traction
      ∧ (s.playClip ps).1.bridges = s.bridges ∧ (s.playClip ps).1.balance = s.balance
      ∧ (s.playClip ps).1.radio = s.radio ∧ (s.playClip ps).1.lamps = s.lamps
      ∧ (s.playClip ps).1.supply = s.supply := by
  simp only [State.playClip]
  split
  · simp
  split
  · simp
  split
  · simp
  rename_i n _
  have h := State.startVoice_frame s n (param8 ps 0) .none (playFields ps)
  split <;> rename_i heq <;> rw [heq] at h <;> simpa using h

@[simp] theorem State.hushVoice_frame (s : State) (fade n : Nat) :
    (s.hushVoice fade n).pending = s.pending ∧ (s.hushVoice fade n).clock = s.clock
      ∧ (s.hushVoice fade n).free = s.free ∧ (s.hushVoice fade n).lastGranted = s.lastGranted
      ∧ (s.hushVoice fade n).orders = s.orders ∧ (s.hushVoice fade n).status = s.status
      ∧ (s.hushVoice fade n).timers = s.timers ∧ (s.hushVoice fade n).sets = s.sets
      ∧ (s.hushVoice fade n).motion = s.motion ∧ (s.hushVoice fade n).traction = s.traction
      ∧ (s.hushVoice fade n).bridges = s.bridges ∧ (s.hushVoice fade n).balance = s.balance
      ∧ (s.hushVoice fade n).radio = s.radio ∧ (s.hushVoice fade n).lamps = s.lamps
      ∧ (s.hushVoice fade n).supply = s.supply := by
  simp only [State.hushVoice]
  repeat' split
  all_goals simp

@[simp] theorem State.hushVoices_frame (s : State) (ps : List Byte) :
    (s.hushVoices ps).1.pending = s.pending ∧ (s.hushVoices ps).1.clock = s.clock
      ∧ (s.hushVoices ps).1.free = s.free ∧ (s.hushVoices ps).1.lastGranted = s.lastGranted
      ∧ (s.hushVoices ps).1.orders = s.orders ∧ (s.hushVoices ps).1.status = s.status
      ∧ (s.hushVoices ps).1.timers = s.timers ∧ (s.hushVoices ps).1.sets = s.sets
      ∧ (s.hushVoices ps).1.motion = s.motion ∧ (s.hushVoices ps).1.traction = s.traction
      ∧ (s.hushVoices ps).1.bridges = s.bridges ∧ (s.hushVoices ps).1.balance = s.balance
      ∧ (s.hushVoices ps).1.radio = s.radio ∧ (s.hushVoices ps).1.lamps = s.lamps
      ∧ (s.hushVoices ps).1.supply = s.supply := by
  simp only [State.hushVoices]
  split
  · simp
  · exact ⟨foldl_keeps (·.pending) (by simp) _ _, foldl_keeps (·.clock) (by simp) _ _, foldl_keeps
    (·.free) (by simp) _ _, foldl_keeps (·.lastGranted) (by simp) _ _, foldl_keeps (·.orders) (by
    simp) _ _, foldl_keeps (·.status) (by simp) _ _, foldl_keeps (·.timers) (by simp) _ _,
    foldl_keeps (·.sets) (by simp) _ _, foldl_keeps (·.motion) (by simp) _ _, foldl_keeps
    (·.traction) (by simp) _ _, foldl_keeps (·.bridges) (by simp) _ _, foldl_keeps (·.balance) (by
    simp) _ _, foldl_keeps (·.radio) (by simp) _ _, foldl_keeps (·.lamps) (by simp) _ _, foldl_keeps
    (·.supply) (by simp) _ _⟩

/-! ## Slots and radio log -/

@[simp] theorem State.writeSlotState_frame (s : State) (n : Nat) (v : Byte) :
    (s.writeSlotState n v).pending = s.pending ∧ (s.writeSlotState n v).clock = s.clock
      ∧ (s.writeSlotState n v).free = s.free ∧ (s.writeSlotState n v).port = s.port
      ∧ (s.writeSlotState n v).orders = s.orders ∧ (s.writeSlotState n v).status = s.status
      ∧ (s.writeSlotState n v).timers = s.timers ∧ (s.writeSlotState n v).sets = s.sets
      ∧ (s.writeSlotState n v).motion = s.motion ∧ (s.writeSlotState n v).traction = s.traction
      ∧ (s.writeSlotState n v).bridges = s.bridges ∧ (s.writeSlotState n v).balance = s.balance
      ∧ (s.writeSlotState n v).radio = s.radio ∧ (s.writeSlotState n v).sound = s.sound
      ∧ (s.writeSlotState n v).lamps = s.lamps ∧ (s.writeSlotState n v).supply = s.supply := by
  simp [State.writeSlotState]

@[simp] theorem State.writeStep_frame (s : State) (n step : Nat) :
    (s.writeStep n step).pending = s.pending ∧ (s.writeStep n step).clock = s.clock
      ∧ (s.writeStep n step).free = s.free ∧ (s.writeStep n step).port = s.port
      ∧ (s.writeStep n step).orders = s.orders ∧ (s.writeStep n step).status = s.status
      ∧ (s.writeStep n step).timers = s.timers ∧ (s.writeStep n step).sets = s.sets
      ∧ (s.writeStep n step).motion = s.motion ∧ (s.writeStep n step).traction = s.traction
      ∧ (s.writeStep n step).bridges = s.bridges ∧ (s.writeStep n step).balance = s.balance
      ∧ (s.writeStep n step).radio = s.radio ∧ (s.writeStep n step).sound = s.sound
      ∧ (s.writeStep n step).lamps = s.lamps ∧ (s.writeStep n step).supply = s.supply := by
  simp [State.writeStep]

@[simp] theorem State.completeSlot_frame (s : State) (n : Nat) (outcome : OutcomeCode) (step : Nat) (result : List Byte) :
    (s.completeSlot n outcome step result).pending = s.pending
      ∧ (s.completeSlot n outcome step result).clock = s.clock
      ∧ (s.completeSlot n outcome step result).free = s.free
      ∧ (s.completeSlot n outcome step result).status = s.status
      ∧ (s.completeSlot n outcome step result).timers = s.timers
      ∧ (s.completeSlot n outcome step result).sets = s.sets
      ∧ (s.completeSlot n outcome step result).motion = s.motion
      ∧ (s.completeSlot n outcome step result).traction = s.traction
      ∧ (s.completeSlot n outcome step result).bridges = s.bridges
      ∧ (s.completeSlot n outcome step result).balance = s.balance
      ∧ (s.completeSlot n outcome step result).radio = s.radio
      ∧ (s.completeSlot n outcome step result).sound = s.sound
      ∧ (s.completeSlot n outcome step result).lamps = s.lamps
      ∧ (s.completeSlot n outcome step result).supply = s.supply := by
  simp [State.completeSlot]

@[simp] theorem State.offer_frame (s : State) (kind : RecordKind) (reason : Reason) (f : Frame) :
    (s.offer kind reason f).pending = s.pending ∧ (s.offer kind reason f).clock = s.clock
      ∧ (s.offer kind reason f).free = s.free ∧ (s.offer kind reason f).orders = s.orders
      ∧ (s.offer kind reason f).status = s.status ∧ (s.offer kind reason f).timers = s.timers
      ∧ (s.offer kind reason f).sets = s.sets ∧ (s.offer kind reason f).motion = s.motion
      ∧ (s.offer kind reason f).traction = s.traction
      ∧ (s.offer kind reason f).bridges = s.bridges ∧ (s.offer kind reason f).balance = s.balance
      ∧ (s.offer kind reason f).sound = s.sound ∧ (s.offer kind reason f).lamps = s.lamps
      ∧ (s.offer kind reason f).supply = s.supply := by
  simp only [State.offer]
  repeat' split
  all_goals simp

@[simp] theorem State.logFrame_frame (s : State) (reason : Reason) (f : Frame) :
    (s.logFrame reason f).pending = s.pending ∧ (s.logFrame reason f).clock = s.clock
      ∧ (s.logFrame reason f).free = s.free ∧ (s.logFrame reason f).orders = s.orders
      ∧ (s.logFrame reason f).status = s.status ∧ (s.logFrame reason f).timers = s.timers
      ∧ (s.logFrame reason f).sets = s.sets ∧ (s.logFrame reason f).motion = s.motion
      ∧ (s.logFrame reason f).traction = s.traction ∧ (s.logFrame reason f).bridges = s.bridges
      ∧ (s.logFrame reason f).balance = s.balance ∧ (s.logFrame reason f).sound = s.sound
      ∧ (s.logFrame reason f).lamps = s.lamps ∧ (s.logFrame reason f).supply = s.supply := by
  simp [State.logFrame]

@[simp] theorem State.logBeacon_frame (s : State) (reason : Reason) (f : Frame) :
    (s.logBeacon reason f).pending = s.pending ∧ (s.logBeacon reason f).clock = s.clock
      ∧ (s.logBeacon reason f).free = s.free ∧ (s.logBeacon reason f).orders = s.orders
      ∧ (s.logBeacon reason f).status = s.status ∧ (s.logBeacon reason f).timers = s.timers
      ∧ (s.logBeacon reason f).sets = s.sets ∧ (s.logBeacon reason f).motion = s.motion
      ∧ (s.logBeacon reason f).traction = s.traction ∧ (s.logBeacon reason f).bridges = s.bridges
      ∧ (s.logBeacon reason f).balance = s.balance ∧ (s.logBeacon reason f).sound = s.sound
      ∧ (s.logBeacon reason f).lamps = s.lamps ∧ (s.logBeacon reason f).supply = s.supply := by
  simp [State.logBeacon]

/-! ## Traction and balance -/

@[simp] theorem State.stationStopped_frame (s : State) :
    s.stationStopped.pending = s.pending ∧ s.stationStopped.clock = s.clock
      ∧ s.stationStopped.free = s.free ∧ s.stationStopped.xm = s.xm
      ∧ s.stationStopped.lastGranted = s.lastGranted ∧ s.stationStopped.port = s.port
      ∧ s.stationStopped.orders = s.orders ∧ s.stationStopped.status = s.status
      ∧ s.stationStopped.timers = s.timers ∧ s.stationStopped.sets = s.sets
      ∧ s.stationStopped.motion = s.motion ∧ s.stationStopped.traction = s.traction
      ∧ s.stationStopped.bridges = s.bridges ∧ s.stationStopped.balance = s.balance
      ∧ s.stationStopped.sound = s.sound ∧ s.stationStopped.lamps = s.lamps
      ∧ s.stationStopped.supply = s.supply := by
  simp only [State.stationStopped]
  repeat' split
  all_goals simp

@[simp] theorem State.cancelStation_frame (s : State) :
    s.cancelStation.pending = s.pending ∧ s.cancelStation.clock = s.clock
      ∧ s.cancelStation.free = s.free ∧ s.cancelStation.orders = s.orders
      ∧ s.cancelStation.status = s.status ∧ s.cancelStation.timers = s.timers
      ∧ s.cancelStation.sets = s.sets ∧ s.cancelStation.motion = s.motion
      ∧ s.cancelStation.traction = s.traction ∧ s.cancelStation.bridges = s.bridges
      ∧ s.cancelStation.balance = s.balance ∧ s.cancelStation.sound = s.sound
      ∧ s.cancelStation.lamps = s.lamps ∧ s.cancelStation.supply = s.supply := by
  simp only [State.cancelStation]
  repeat' split
  all_goals simp

@[simp] theorem State.reportTraction_frame (s : State) (before : TractionState) :
    (s.reportTraction before).pending = s.pending ∧ (s.reportTraction before).clock = s.clock
      ∧ (s.reportTraction before).free = s.free
      ∧ (s.reportTraction before).lastGranted = s.lastGranted
      ∧ (s.reportTraction before).orders = s.orders ∧ (s.reportTraction before).timers = s.timers
      ∧ (s.reportTraction before).sets = s.sets ∧ (s.reportTraction before).motion = s.motion
      ∧ (s.reportTraction before).traction = s.traction
      ∧ (s.reportTraction before).bridges = s.bridges
      ∧ (s.reportTraction before).balance = s.balance ∧ (s.reportTraction before).lamps = s.lamps
      ∧ (s.reportTraction before).supply = s.supply := by
  simp only [State.reportTraction]
  repeat' split
  all_goals simp

@[simp] theorem State.derive_frame (s : State) :
    s.derive.pending = s.pending ∧ s.derive.clock = s.clock ∧ s.derive.free = s.free
      ∧ s.derive.lastGranted = s.lastGranted ∧ s.derive.orders = s.orders
      ∧ s.derive.timers = s.timers ∧ s.derive.sets = s.sets ∧ s.derive.motion = s.motion
      ∧ s.derive.balance = s.balance ∧ s.derive.lamps = s.lamps ∧ s.derive.supply = s.supply := by
  simp [State.derive]

@[simp] theorem State.releaseLatch_frame (s : State) :
    s.releaseLatch.pending = s.pending ∧ s.releaseLatch.clock = s.clock
      ∧ s.releaseLatch.free = s.free ∧ s.releaseLatch.lastGranted = s.lastGranted
      ∧ s.releaseLatch.orders = s.orders ∧ s.releaseLatch.timers = s.timers
      ∧ s.releaseLatch.sets = s.sets ∧ s.releaseLatch.motion = s.motion
      ∧ s.releaseLatch.balance = s.balance ∧ s.releaseLatch.lamps = s.lamps
      ∧ s.releaseLatch.supply = s.supply := by
  simp only [State.releaseLatch]
  repeat' split
  all_goals simp

@[simp] theorem State.tractionShedChange_frame (s : State) (before : Nat) :
    (s.tractionShedChange before).pending = s.pending
      ∧ (s.tractionShedChange before).clock = s.clock
      ∧ (s.tractionShedChange before).free = s.free
      ∧ (s.tractionShedChange before).lastGranted = s.lastGranted
      ∧ (s.tractionShedChange before).orders = s.orders
      ∧ (s.tractionShedChange before).timers = s.timers
      ∧ (s.tractionShedChange before).sets = s.sets
      ∧ (s.tractionShedChange before).motion = s.motion
      ∧ (s.tractionShedChange before).balance = s.balance
      ∧ (s.tractionShedChange before).lamps = s.lamps
      ∧ (s.tractionShedChange before).supply = s.supply := by
  simp only [State.tractionShedChange]
  repeat' split
  all_goals simp

@[simp] theorem State.tractionLatchReport_frame (s : State) :
    s.tractionLatchReport.pending = s.pending ∧ s.tractionLatchReport.clock = s.clock
      ∧ s.tractionLatchReport.free = s.free ∧ s.tractionLatchReport.lastGranted = s.lastGranted
      ∧ s.tractionLatchReport.orders = s.orders ∧ s.tractionLatchReport.timers = s.timers
      ∧ s.tractionLatchReport.sets = s.sets ∧ s.tractionLatchReport.motion = s.motion
      ∧ s.tractionLatchReport.balance = s.balance ∧ s.tractionLatchReport.lamps = s.lamps
      ∧ s.tractionLatchReport.supply = s.supply := by
  simp only [State.tractionLatchReport]
  repeat' split
  all_goals simp

@[simp] theorem State.tractionRunBegins_frame (s : State) :
    s.tractionRunBegins.pending = s.pending ∧ s.tractionRunBegins.clock = s.clock
      ∧ s.tractionRunBegins.free = s.free ∧ s.tractionRunBegins.lastGranted = s.lastGranted
      ∧ s.tractionRunBegins.orders = s.orders ∧ s.tractionRunBegins.timers = s.timers
      ∧ s.tractionRunBegins.sets = s.sets ∧ s.tractionRunBegins.motion = s.motion
      ∧ s.tractionRunBegins.balance = s.balance ∧ s.tractionRunBegins.lamps = s.lamps
      ∧ s.tractionRunBegins.supply = s.supply := by
  simp [State.tractionRunBegins]

@[simp] theorem State.tractionRunEnds_frame (s : State) :
    s.tractionRunEnds.pending = s.pending ∧ s.tractionRunEnds.clock = s.clock
      ∧ s.tractionRunEnds.free = s.free ∧ s.tractionRunEnds.lastGranted = s.lastGranted
      ∧ s.tractionRunEnds.orders = s.orders ∧ s.tractionRunEnds.timers = s.timers
      ∧ s.tractionRunEnds.sets = s.sets ∧ s.tractionRunEnds.motion = s.motion
      ∧ s.tractionRunEnds.balance = s.balance ∧ s.tractionRunEnds.lamps = s.lamps
      ∧ s.tractionRunEnds.supply = s.supply := by
  simp [State.tractionRunEnds]

@[simp] theorem State.tractionSetChange_frame (s : State) :
    s.tractionSetChange.pending = s.pending ∧ s.tractionSetChange.clock = s.clock
      ∧ s.tractionSetChange.free = s.free ∧ s.tractionSetChange.xm = s.xm
      ∧ s.tractionSetChange.lastGranted = s.lastGranted ∧ s.tractionSetChange.port = s.port
      ∧ s.tractionSetChange.orders = s.orders ∧ s.tractionSetChange.status = s.status
      ∧ s.tractionSetChange.timers = s.timers ∧ s.tractionSetChange.sets = s.sets
      ∧ s.tractionSetChange.motion = s.motion ∧ s.tractionSetChange.balance = s.balance
      ∧ s.tractionSetChange.radio = s.radio ∧ s.tractionSetChange.sound = s.sound
      ∧ s.tractionSetChange.lamps = s.lamps ∧ s.tractionSetChange.supply = s.supply := by
  simp only [State.tractionSetChange]
  repeat' split
  all_goals simp

@[simp] theorem State.tractionEnterRun_frame (s : State) :
    s.tractionEnterRun.pending = s.pending ∧ s.tractionEnterRun.clock = s.clock
      ∧ s.tractionEnterRun.free = s.free ∧ s.tractionEnterRun.xm = s.xm
      ∧ s.tractionEnterRun.lastGranted = s.lastGranted ∧ s.tractionEnterRun.port = s.port
      ∧ s.tractionEnterRun.orders = s.orders ∧ s.tractionEnterRun.status = s.status
      ∧ s.tractionEnterRun.timers = s.timers ∧ s.tractionEnterRun.sets = s.sets
      ∧ s.tractionEnterRun.motion = s.motion ∧ s.tractionEnterRun.balance = s.balance
      ∧ s.tractionEnterRun.radio = s.radio ∧ s.tractionEnterRun.sound = s.sound
      ∧ s.tractionEnterRun.lamps = s.lamps ∧ s.tractionEnterRun.supply = s.supply := by
  simp [State.tractionEnterRun]

@[simp] theorem State.tractionTeardown_frame (s : State) :
    s.tractionTeardown.pending = s.pending ∧ s.tractionTeardown.clock = s.clock
      ∧ s.tractionTeardown.free = s.free ∧ s.tractionTeardown.xm = s.xm
      ∧ s.tractionTeardown.lastGranted = s.lastGranted ∧ s.tractionTeardown.port = s.port
      ∧ s.tractionTeardown.orders = s.orders ∧ s.tractionTeardown.status = s.status
      ∧ s.tractionTeardown.timers = s.timers ∧ s.tractionTeardown.sets = s.sets
      ∧ s.tractionTeardown.motion = s.motion ∧ s.tractionTeardown.balance = s.balance
      ∧ s.tractionTeardown.radio = s.radio ∧ s.tractionTeardown.sound = s.sound
      ∧ s.tractionTeardown.lamps = s.lamps ∧ s.tractionTeardown.supply = s.supply := by
  simp [State.tractionTeardown]

@[simp] theorem State.onRun_frame (s : State) (f : BalanceRun → BalanceRun) :
    (s.onRun f).pending = s.pending ∧ (s.onRun f).clock = s.clock ∧ (s.onRun f).free = s.free
      ∧ (s.onRun f).xm = s.xm ∧ (s.onRun f).lastGranted = s.lastGranted
      ∧ (s.onRun f).port = s.port ∧ (s.onRun f).orders = s.orders ∧ (s.onRun f).status = s.status
      ∧ (s.onRun f).timers = s.timers ∧ (s.onRun f).sets = s.sets ∧ (s.onRun f).motion = s.motion
      ∧ (s.onRun f).traction = s.traction ∧ (s.onRun f).bridges = s.bridges
      ∧ (s.onRun f).radio = s.radio ∧ (s.onRun f).sound = s.sound ∧ (s.onRun f).lamps = s.lamps
      ∧ (s.onRun f).supply = s.supply := by
  simp [State.onRun]

@[simp] theorem State.freeLease_frame (s : State) :
    s.freeLease.pending = s.pending ∧ s.freeLease.clock = s.clock ∧ s.freeLease.free = s.free
      ∧ s.freeLease.xm = s.xm ∧ s.freeLease.lastGranted = s.lastGranted
      ∧ s.freeLease.orders = s.orders ∧ s.freeLease.status = s.status
      ∧ s.freeLease.timers = s.timers ∧ s.freeLease.sets = s.sets ∧ s.freeLease.motion = s.motion
      ∧ s.freeLease.traction = s.traction ∧ s.freeLease.bridges = s.bridges
      ∧ s.freeLease.balance = s.balance ∧ s.freeLease.sound = s.sound
      ∧ s.freeLease.lamps = s.lamps ∧ s.freeLease.supply = s.supply := by
  simp [State.freeLease]

@[simp] theorem State.markLease_frame (s : State) :
    s.markLease.pending = s.pending ∧ s.markLease.clock = s.clock ∧ s.markLease.free = s.free
      ∧ s.markLease.xm = s.xm ∧ s.markLease.lastGranted = s.lastGranted
      ∧ s.markLease.orders = s.orders ∧ s.markLease.status = s.status
      ∧ s.markLease.timers = s.timers ∧ s.markLease.sets = s.sets ∧ s.markLease.motion = s.motion
      ∧ s.markLease.traction = s.traction ∧ s.markLease.bridges = s.bridges
      ∧ s.markLease.balance = s.balance ∧ s.markLease.sound = s.sound
      ∧ s.markLease.lamps = s.lamps ∧ s.markLease.supply = s.supply := by
  simp only [State.markLease]
  repeat' split
  all_goals simp

@[simp] theorem State.beginRun_frame (s : State) (r : BalanceRun) :
    (s.beginRun r).pending = s.pending ∧ (s.beginRun r).clock = s.clock
      ∧ (s.beginRun r).free = s.free ∧ (s.beginRun r).lastGranted = s.lastGranted
      ∧ (s.beginRun r).orders = s.orders ∧ (s.beginRun r).timers = s.timers
      ∧ (s.beginRun r).sets = s.sets ∧ (s.beginRun r).motion = s.motion
      ∧ (s.beginRun r).lamps = s.lamps ∧ (s.beginRun r).supply = s.supply := by
  simp [State.beginRun]

@[simp] theorem State.closeRun_frame (s : State) (r : BalanceRun) (outcome : OutcomeCode) (g : Nat) :
    (s.closeRun r outcome g).pending = s.pending ∧ (s.closeRun r outcome g).clock = s.clock
      ∧ (s.closeRun r outcome g).free = s.free ∧ (s.closeRun r outcome g).timers = s.timers
      ∧ (s.closeRun r outcome g).sets = s.sets ∧ (s.closeRun r outcome g).motion = s.motion
      ∧ (s.closeRun r outcome g).lamps = s.lamps ∧ (s.closeRun r outcome g).supply = s.supply := by
  simp [State.closeRun]

@[simp] theorem State.endRun_frame (s : State) (outcome : OutcomeCode) :
    (s.endRun outcome).pending = s.pending ∧ (s.endRun outcome).clock = s.clock
      ∧ (s.endRun outcome).free = s.free ∧ (s.endRun outcome).timers = s.timers
      ∧ (s.endRun outcome).sets = s.sets ∧ (s.endRun outcome).motion = s.motion
      ∧ (s.endRun outcome).lamps = s.lamps ∧ (s.endRun outcome).supply = s.supply := by
  simp only [State.endRun]
  repeat' split
  all_goals simp

@[simp] theorem State.finishRun_frame (s : State) (r : BalanceRun) :
    (s.finishRun r).pending = s.pending ∧ (s.finishRun r).clock = s.clock
      ∧ (s.finishRun r).free = s.free ∧ (s.finishRun r).timers = s.timers
      ∧ (s.finishRun r).sets = s.sets ∧ (s.finishRun r).motion = s.motion
      ∧ (s.finishRun r).lamps = s.lamps ∧ (s.finishRun r).supply = s.supply := by
  simp [State.finishRun]

@[simp] theorem State.beginRunStep_frame (s : State) (r : BalanceRun) :
    (s.beginRunStep r).pending = s.pending ∧ (s.beginRunStep r).clock = s.clock
      ∧ (s.beginRunStep r).free = s.free ∧ (s.beginRunStep r).port = s.port
      ∧ (s.beginRunStep r).orders = s.orders ∧ (s.beginRunStep r).status = s.status
      ∧ (s.beginRunStep r).timers = s.timers ∧ (s.beginRunStep r).sets = s.sets
      ∧ (s.beginRunStep r).motion = s.motion ∧ (s.beginRunStep r).traction = s.traction
      ∧ (s.beginRunStep r).bridges = s.bridges ∧ (s.beginRunStep r).radio = s.radio
      ∧ (s.beginRunStep r).sound = s.sound ∧ (s.beginRunStep r).lamps = s.lamps
      ∧ (s.beginRunStep r).supply = s.supply := by
  simp [State.beginRunStep]

@[simp] theorem State.balanceStep_frame (s : State) (m : Nat) :
    (s.balanceStep m).pending = s.pending ∧ (s.balanceStep m).clock = s.clock
      ∧ (s.balanceStep m).free = s.free ∧ (s.balanceStep m).timers = s.timers
      ∧ (s.balanceStep m).sets = s.sets ∧ (s.balanceStep m).motion = s.motion
      ∧ (s.balanceStep m).lamps = s.lamps ∧ (s.balanceStep m).supply = s.supply := by
  simp only [State.balanceStep]
  repeat' split
  all_goals simp

@[simp] theorem State.handStopMode_frame (s : State) :
    s.handStopMode.pending = s.pending ∧ s.handStopMode.clock = s.clock
      ∧ s.handStopMode.free = s.free ∧ s.handStopMode.xm = s.xm
      ∧ s.handStopMode.lastGranted = s.lastGranted ∧ s.handStopMode.port = s.port
      ∧ s.handStopMode.orders = s.orders ∧ s.handStopMode.status = s.status
      ∧ s.handStopMode.timers = s.timers ∧ s.handStopMode.sets = s.sets
      ∧ s.handStopMode.motion = s.motion ∧ s.handStopMode.balance = s.balance
      ∧ s.handStopMode.radio = s.radio ∧ s.handStopMode.sound = s.sound
      ∧ s.handStopMode.lamps = s.lamps ∧ s.handStopMode.supply = s.supply := by
  simp [State.handStopMode]

@[simp] theorem State.holdRun_frame (s : State) :
    s.holdRun.1.pending = s.pending ∧ s.holdRun.1.clock = s.clock ∧ s.holdRun.1.free = s.free
      ∧ s.holdRun.1.port = s.port ∧ s.holdRun.1.orders = s.orders ∧ s.holdRun.1.status = s.status
      ∧ s.holdRun.1.timers = s.timers ∧ s.holdRun.1.sets = s.sets ∧ s.holdRun.1.motion = s.motion
      ∧ s.holdRun.1.radio = s.radio ∧ s.holdRun.1.sound = s.sound ∧ s.holdRun.1.lamps = s.lamps
      ∧ s.holdRun.1.supply = s.supply := by
  simp only [State.holdRun]
  repeat' split
  all_goals simp

@[simp] theorem State.resumeRun_frame (s : State) :
    s.resumeRun.1.pending = s.pending ∧ s.resumeRun.1.clock = s.clock
      ∧ s.resumeRun.1.free = s.free ∧ s.resumeRun.1.port = s.port
      ∧ s.resumeRun.1.orders = s.orders ∧ s.resumeRun.1.status = s.status
      ∧ s.resumeRun.1.timers = s.timers ∧ s.resumeRun.1.sets = s.sets
      ∧ s.resumeRun.1.motion = s.motion ∧ s.resumeRun.1.traction = s.traction
      ∧ s.resumeRun.1.bridges = s.bridges ∧ s.resumeRun.1.radio = s.radio
      ∧ s.resumeRun.1.sound = s.sound ∧ s.resumeRun.1.lamps = s.lamps
      ∧ s.resumeRun.1.supply = s.supply := by
  simp only [State.resumeRun]
  repeat' split
  all_goals simp

@[simp] theorem State.emergencyStop_frame (s : State) :
    s.emergencyStop.pending = s.pending ∧ s.emergencyStop.clock = s.clock
      ∧ s.emergencyStop.free = s.free ∧ s.emergencyStop.timers = s.timers
      ∧ s.emergencyStop.sets = s.sets ∧ s.emergencyStop.motion = s.motion
      ∧ s.emergencyStop.lamps = s.lamps ∧ s.emergencyStop.supply = s.supply := by
  simp [State.emergencyStop]

@[simp] theorem State.balanceControl_frame (s : State) (d : Direction) :
    (s.balanceControl d).pending = s.pending ∧ (s.balanceControl d).clock = s.clock
      ∧ (s.balanceControl d).free = s.free ∧ (s.balanceControl d).timers = s.timers
      ∧ (s.balanceControl d).sets = s.sets ∧ (s.balanceControl d).motion = s.motion
      ∧ (s.balanceControl d).lamps = s.lamps ∧ (s.balanceControl d).supply = s.supply := by
  simp only [State.balanceControl]
  repeat' split
  all_goals simp

@[simp] theorem State.stepInputs_frame (s : State) :
    s.stepInputs.pending = s.pending ∧ s.stepInputs.clock = s.clock ∧ s.stepInputs.free = s.free
      ∧ s.stepInputs.timers = s.timers ∧ s.stepInputs.sets = s.sets ∧ s.stepInputs.lamps = s.lamps
      ∧ s.stepInputs.supply = s.supply := by
  simp only [State.stepInputs]
  repeat' split
  all_goals simp

@[simp] theorem State.control_frame (s : State) :
    s.control.pending = s.pending ∧ s.control.clock = s.clock ∧ s.control.free = s.free
      ∧ s.control.timers = s.timers ∧ s.control.sets = s.sets ∧ s.control.motion = s.motion
      ∧ s.control.lamps = s.lamps ∧ s.control.supply = s.supply := by
  simp only [State.control]
  repeat' split
  all_goals simp

@[simp] theorem State.stepEnds_frame (s : State) :
    s.stepEnds.pending = s.pending ∧ s.stepEnds.clock = s.clock ∧ s.stepEnds.free = s.free
      ∧ s.stepEnds.lastGranted = s.lastGranted ∧ s.stepEnds.orders = s.orders
      ∧ s.stepEnds.timers = s.timers ∧ s.stepEnds.sets = s.sets ∧ s.stepEnds.motion = s.motion
      ∧ s.stepEnds.balance = s.balance ∧ s.stepEnds.lamps = s.lamps ∧ s.stepEnds.supply = s.supply := by
  simp [State.stepEnds]

/-! ## Protection and supply -/

@[simp] theorem State.recordShort_frame (s : State) (id : BridgeId) :
    (s.recordShort id).pending = s.pending ∧ (s.recordShort id).clock = s.clock
      ∧ (s.recordShort id).free = s.free ∧ (s.recordShort id).xm = s.xm
      ∧ (s.recordShort id).lastGranted = s.lastGranted ∧ (s.recordShort id).orders = s.orders
      ∧ (s.recordShort id).timers = s.timers ∧ (s.recordShort id).sets = s.sets
      ∧ (s.recordShort id).motion = s.motion ∧ (s.recordShort id).traction = s.traction
      ∧ (s.recordShort id).balance = s.balance ∧ (s.recordShort id).radio = s.radio
      ∧ (s.recordShort id).sound = s.sound ∧ (s.recordShort id).lamps = s.lamps
      ∧ (s.recordShort id).supply = s.supply := by
  simp [State.recordShort]

@[simp] theorem State.latchBridge_frame (s : State) (id : BridgeId) :
    (s.latchBridge id).pending = s.pending ∧ (s.latchBridge id).clock = s.clock
      ∧ (s.latchBridge id).free = s.free ∧ (s.latchBridge id).timers = s.timers
      ∧ (s.latchBridge id).sets = s.sets ∧ (s.latchBridge id).motion = s.motion
      ∧ (s.latchBridge id).lamps = s.lamps ∧ (s.latchBridge id).supply = s.supply := by
  simp [State.latchBridge]

@[simp] theorem State.cycleShort_frame (s : State) (id : BridgeId) :
    (s.cycleShort id).pending = s.pending ∧ (s.cycleShort id).clock = s.clock
      ∧ (s.cycleShort id).free = s.free ∧ (s.cycleShort id).timers = s.timers
      ∧ (s.cycleShort id).sets = s.sets ∧ (s.cycleShort id).motion = s.motion
      ∧ (s.cycleShort id).lamps = s.lamps ∧ (s.cycleShort id).supply = s.supply := by
  simp only [State.cycleShort]
  repeat' split
  all_goals simp

@[simp] theorem State.reportShort_frame (s : State) (id : BridgeId) :
    (s.reportShort id).pending = s.pending ∧ (s.reportShort id).clock = s.clock
      ∧ (s.reportShort id).free = s.free ∧ (s.reportShort id).xm = s.xm
      ∧ (s.reportShort id).lastGranted = s.lastGranted ∧ (s.reportShort id).orders = s.orders
      ∧ (s.reportShort id).timers = s.timers ∧ (s.reportShort id).sets = s.sets
      ∧ (s.reportShort id).motion = s.motion ∧ (s.reportShort id).traction = s.traction
      ∧ (s.reportShort id).balance = s.balance ∧ (s.reportShort id).radio = s.radio
      ∧ (s.reportShort id).sound = s.sound ∧ (s.reportShort id).lamps = s.lamps
      ∧ (s.reportShort id).supply = s.supply := by
  simp only [State.reportShort]
  repeat' split
  all_goals simp

@[simp] theorem State.clearBridge_frame (s : State) (id : BridgeId) :
    (s.clearBridge id).pending = s.pending ∧ (s.clearBridge id).clock = s.clock
      ∧ (s.clearBridge id).free = s.free ∧ (s.clearBridge id).lastGranted = s.lastGranted
      ∧ (s.clearBridge id).orders = s.orders ∧ (s.clearBridge id).timers = s.timers
      ∧ (s.clearBridge id).sets = s.sets ∧ (s.clearBridge id).motion = s.motion
      ∧ (s.clearBridge id).balance = s.balance ∧ (s.clearBridge id).lamps = s.lamps
      ∧ (s.clearBridge id).supply = s.supply := by
  simp only [State.clearBridge]
  repeat' split
  all_goals simp

@[simp] theorem State.clearLamps_frame (s : State) (mask : BitVec 32) :
    (s.clearLamps mask).pending = s.pending ∧ (s.clearLamps mask).clock = s.clock
      ∧ (s.clearLamps mask).free = s.free ∧ (s.clearLamps mask).xm = s.xm
      ∧ (s.clearLamps mask).lastGranted = s.lastGranted ∧ (s.clearLamps mask).port = s.port
      ∧ (s.clearLamps mask).orders = s.orders ∧ (s.clearLamps mask).status = s.status
      ∧ (s.clearLamps mask).timers = s.timers ∧ (s.clearLamps mask).sets = s.sets
      ∧ (s.clearLamps mask).motion = s.motion ∧ (s.clearLamps mask).traction = s.traction
      ∧ (s.clearLamps mask).bridges = s.bridges ∧ (s.clearLamps mask).balance = s.balance
      ∧ (s.clearLamps mask).radio = s.radio ∧ (s.clearLamps mask).sound = s.sound
      ∧ (s.clearLamps mask).supply = s.supply := by
  simp [State.clearLamps]

@[simp] theorem State.clearMask_frame (s : State) (mask : BitVec 32) :
    (s.clearMask mask).pending = s.pending ∧ (s.clearMask mask).clock = s.clock
      ∧ (s.clearMask mask).free = s.free ∧ (s.clearMask mask).lastGranted = s.lastGranted
      ∧ (s.clearMask mask).orders = s.orders ∧ (s.clearMask mask).timers = s.timers
      ∧ (s.clearMask mask).sets = s.sets ∧ (s.clearMask mask).motion = s.motion
      ∧ (s.clearMask mask).balance = s.balance ∧ (s.clearMask mask).supply = s.supply := by
  simp only [State.clearMask]
  repeat' split
  all_goals simp

@[simp] theorem State.clearFaultsOrder_frame (s : State) (ps : List Byte) :
    (s.clearFaultsOrder ps).1.pending = s.pending ∧ (s.clearFaultsOrder ps).1.clock = s.clock
      ∧ (s.clearFaultsOrder ps).1.free = s.free
      ∧ (s.clearFaultsOrder ps).1.lastGranted = s.lastGranted
      ∧ (s.clearFaultsOrder ps).1.orders = s.orders ∧ (s.clearFaultsOrder ps).1.timers = s.timers
      ∧ (s.clearFaultsOrder ps).1.sets = s.sets ∧ (s.clearFaultsOrder ps).1.motion = s.motion
      ∧ (s.clearFaultsOrder ps).1.balance = s.balance
      ∧ (s.clearFaultsOrder ps).1.supply = s.supply := by
  simp [State.clearFaultsOrder]

@[simp] theorem State.balanceShedChange_frame (s : State) (before : Nat) :
    (s.balanceShedChange before).pending = s.pending
      ∧ (s.balanceShedChange before).clock = s.clock ∧ (s.balanceShedChange before).free = s.free
      ∧ (s.balanceShedChange before).timers = s.timers
      ∧ (s.balanceShedChange before).sets = s.sets
      ∧ (s.balanceShedChange before).motion = s.motion
      ∧ (s.balanceShedChange before).lamps = s.lamps
      ∧ (s.balanceShedChange before).supply = s.supply := by
  simp only [State.balanceShedChange]
  repeat' split
  all_goals simp

@[simp] theorem State.formShed_frame (s : State) :
    s.formShed.pending = s.pending ∧ s.formShed.clock = s.clock ∧ s.formShed.free = s.free
      ∧ s.formShed.timers = s.timers ∧ s.formShed.sets = s.sets ∧ s.formShed.motion = s.motion := by
  simp only [State.formShed]
  repeat' split
  all_goals simp

@[simp] theorem State.supplyReport_frame (s : State) (before : SupplyState) :
    (s.supplyReport before).pending = s.pending ∧ (s.supplyReport before).clock = s.clock
      ∧ (s.supplyReport before).free = s.free ∧ (s.supplyReport before).timers = s.timers
      ∧ (s.supplyReport before).sets = s.sets ∧ (s.supplyReport before).motion = s.motion
      ∧ (s.supplyReport before).lamps = s.lamps ∧ (s.supplyReport before).supply = s.supply := by
  simp only [State.supplyReport]
  repeat' split
  all_goals simp

/-! ## Requests, run state and sets -/

@[simp] theorem State.onRequest_frame (s : State) (f : Request → Request) :
    (s.onRequest f).pending = s.pending ∧ (s.onRequest f).clock = s.clock
      ∧ (s.onRequest f).free = s.free ∧ (s.onRequest f).xm = s.xm
      ∧ (s.onRequest f).lastGranted = s.lastGranted ∧ (s.onRequest f).port = s.port
      ∧ (s.onRequest f).orders = s.orders ∧ (s.onRequest f).status = s.status
      ∧ (s.onRequest f).timers = s.timers ∧ (s.onRequest f).sets = s.sets
      ∧ (s.onRequest f).motion = s.motion ∧ (s.onRequest f).traction = s.traction
      ∧ (s.onRequest f).bridges = s.bridges ∧ (s.onRequest f).balance = s.balance
      ∧ (s.onRequest f).sound = s.sound ∧ (s.onRequest f).lamps = s.lamps
      ∧ (s.onRequest f).supply = s.supply := by
  simp [State.onRequest]

@[simp] theorem State.tellFunctions_frame (s : State) (before : Reg) :
    (s.tellFunctions before).pending = s.pending ∧ (s.tellFunctions before).clock = s.clock
      ∧ (s.tellFunctions before).free = s.free
      ∧ (s.tellFunctions before).lastGranted = s.lastGranted
      ∧ (s.tellFunctions before).orders = s.orders ∧ (s.tellFunctions before).timers = s.timers
      ∧ (s.tellFunctions before).sets = s.sets ∧ (s.tellFunctions before).motion = s.motion
      ∧ (s.tellFunctions before).traction = s.traction
      ∧ (s.tellFunctions before).bridges = s.bridges
      ∧ (s.tellFunctions before).balance = s.balance ∧ (s.tellFunctions before).radio = s.radio
      ∧ (s.tellFunctions before).supply = s.supply := by
  simp [State.tellFunctions]

@[simp] theorem State.setFunctions_frame (s : State) (functions : Reg) :
    (s.setFunctions functions).pending = s.pending ∧ (s.setFunctions functions).clock = s.clock
      ∧ (s.setFunctions functions).free = s.free
      ∧ (s.setFunctions functions).lastGranted = s.lastGranted
      ∧ (s.setFunctions functions).orders = s.orders
      ∧ (s.setFunctions functions).timers = s.timers ∧ (s.setFunctions functions).sets = s.sets
      ∧ (s.setFunctions functions).motion = s.motion
      ∧ (s.setFunctions functions).traction = s.traction
      ∧ (s.setFunctions functions).bridges = s.bridges
      ∧ (s.setFunctions functions).balance = s.balance
      ∧ (s.setFunctions functions).supply = s.supply := by
  simp [State.setFunctions]

@[simp] theorem State.applyRequest_frame (s : State) (throttle : Nat) (direction : Direction) :
    (s.applyRequest throttle direction).pending = s.pending
      ∧ (s.applyRequest throttle direction).clock = s.clock
      ∧ (s.applyRequest throttle direction).free = s.free
      ∧ (s.applyRequest throttle direction).lastGranted = s.lastGranted
      ∧ (s.applyRequest throttle direction).orders = s.orders
      ∧ (s.applyRequest throttle direction).timers = s.timers
      ∧ (s.applyRequest throttle direction).sets = s.sets
      ∧ (s.applyRequest throttle direction).motion = s.motion
      ∧ (s.applyRequest throttle direction).balance = s.balance
      ∧ (s.applyRequest throttle direction).lamps = s.lamps
      ∧ (s.applyRequest throttle direction).supply = s.supply := by
  simp only [State.applyRequest]
  repeat' split
  all_goals simp

@[simp] theorem State.releaseLease_frame (s : State) :
    s.releaseLease.pending = s.pending ∧ s.releaseLease.clock = s.clock
      ∧ s.releaseLease.free = s.free ∧ s.releaseLease.lastGranted = s.lastGranted
      ∧ s.releaseLease.orders = s.orders ∧ s.releaseLease.timers = s.timers
      ∧ s.releaseLease.sets = s.sets ∧ s.releaseLease.motion = s.motion
      ∧ s.releaseLease.balance = s.balance ∧ s.releaseLease.lamps = s.lamps
      ∧ s.releaseLease.supply = s.supply := by
  simp [State.releaseLease]

@[simp] theorem State.hearHolder_frame (s : State) (f : Frame) :
    (s.hearHolder f).pending = s.pending ∧ (s.hearHolder f).clock = s.clock
      ∧ (s.hearHolder f).free = s.free ∧ (s.hearHolder f).xm = s.xm
      ∧ (s.hearHolder f).lastGranted = s.lastGranted ∧ (s.hearHolder f).port = s.port
      ∧ (s.hearHolder f).orders = s.orders ∧ (s.hearHolder f).status = s.status
      ∧ (s.hearHolder f).timers = s.timers ∧ (s.hearHolder f).sets = s.sets
      ∧ (s.hearHolder f).motion = s.motion ∧ (s.hearHolder f).traction = s.traction
      ∧ (s.hearHolder f).bridges = s.bridges ∧ (s.hearHolder f).balance = s.balance
      ∧ (s.hearHolder f).sound = s.sound ∧ (s.hearHolder f).lamps = s.lamps
      ∧ (s.hearHolder f).supply = s.supply := by
  simp only [State.hearHolder]
  repeat' split
  all_goals simp

@[simp] theorem State.takeLease_frame (s : State) (sender cls : Nat) :
    (s.takeLease sender cls).pending = s.pending ∧ (s.takeLease sender cls).clock = s.clock
      ∧ (s.takeLease sender cls).free = s.free ∧ (s.takeLease sender cls).xm = s.xm
      ∧ (s.takeLease sender cls).lastGranted = s.lastGranted
      ∧ (s.takeLease sender cls).orders = s.orders ∧ (s.takeLease sender cls).status = s.status
      ∧ (s.takeLease sender cls).timers = s.timers ∧ (s.takeLease sender cls).sets = s.sets
      ∧ (s.takeLease sender cls).motion = s.motion
      ∧ (s.takeLease sender cls).traction = s.traction
      ∧ (s.takeLease sender cls).bridges = s.bridges
      ∧ (s.takeLease sender cls).balance = s.balance ∧ (s.takeLease sender cls).sound = s.sound
      ∧ (s.takeLease sender cls).lamps = s.lamps ∧ (s.takeLease sender cls).supply = s.supply := by
  simp [State.takeLease]

@[simp] theorem State.overduePoints_frame (s : State) :
    s.overduePoints.pending = s.pending ∧ s.overduePoints.clock = s.clock
      ∧ s.overduePoints.free = s.free ∧ s.overduePoints.lastGranted = s.lastGranted
      ∧ s.overduePoints.orders = s.orders ∧ s.overduePoints.timers = s.timers
      ∧ s.overduePoints.sets = s.sets ∧ s.overduePoints.motion = s.motion
      ∧ s.overduePoints.balance = s.balance ∧ s.overduePoints.lamps = s.lamps
      ∧ s.overduePoints.supply = s.supply := by
  simp only [State.overduePoints]
  repeat' split
  all_goals simp

@[simp] theorem State.loadRadio_frame (s : State) (m : Memory) :
    (s.loadRadio m).pending = s.pending ∧ (s.loadRadio m).clock = s.clock
      ∧ (s.loadRadio m).free = s.free ∧ (s.loadRadio m).lastGranted = s.lastGranted
      ∧ (s.loadRadio m).orders = s.orders ∧ (s.loadRadio m).timers = s.timers
      ∧ (s.loadRadio m).sets = s.sets ∧ (s.loadRadio m).motion = s.motion
      ∧ (s.loadRadio m).balance = s.balance ∧ (s.loadRadio m).lamps = s.lamps
      ∧ (s.loadRadio m).supply = s.supply := by
  simp [State.loadRadio]

@[simp] theorem State.hostLease_frame (s : State) :
    s.hostLease.pending = s.pending ∧ s.hostLease.clock = s.clock ∧ s.hostLease.free = s.free
      ∧ s.hostLease.xm = s.xm ∧ s.hostLease.lastGranted = s.lastGranted
      ∧ s.hostLease.orders = s.orders ∧ s.hostLease.status = s.status
      ∧ s.hostLease.timers = s.timers ∧ s.hostLease.sets = s.sets ∧ s.hostLease.motion = s.motion
      ∧ s.hostLease.traction = s.traction ∧ s.hostLease.bridges = s.bridges
      ∧ s.hostLease.balance = s.balance ∧ s.hostLease.sound = s.sound
      ∧ s.hostLease.lamps = s.lamps ∧ s.hostLease.supply = s.supply := by
  simp only [State.hostLease]
  repeat' split
  all_goals simp

@[simp] theorem State.throttleOrder_frame (s : State) (ps : List Byte) :
    (s.throttleOrder ps).1.pending = s.pending ∧ (s.throttleOrder ps).1.clock = s.clock
      ∧ (s.throttleOrder ps).1.free = s.free ∧ (s.throttleOrder ps).1.lastGranted = s.lastGranted
      ∧ (s.throttleOrder ps).1.orders = s.orders ∧ (s.throttleOrder ps).1.timers = s.timers
      ∧ (s.throttleOrder ps).1.sets = s.sets ∧ (s.throttleOrder ps).1.motion = s.motion
      ∧ (s.throttleOrder ps).1.balance = s.balance ∧ (s.throttleOrder ps).1.lamps = s.lamps
      ∧ (s.throttleOrder ps).1.supply = s.supply := by
  simp only [State.throttleOrder]
  repeat' split
  all_goals simp

@[simp] theorem State.functionsOrder_frame (s : State) (ps : List Byte) :
    (s.functionsOrder ps).1.pending = s.pending ∧ (s.functionsOrder ps).1.clock = s.clock
      ∧ (s.functionsOrder ps).1.free = s.free
      ∧ (s.functionsOrder ps).1.lastGranted = s.lastGranted
      ∧ (s.functionsOrder ps).1.orders = s.orders ∧ (s.functionsOrder ps).1.timers = s.timers
      ∧ (s.functionsOrder ps).1.sets = s.sets ∧ (s.functionsOrder ps).1.motion = s.motion
      ∧ (s.functionsOrder ps).1.traction = s.traction
      ∧ (s.functionsOrder ps).1.bridges = s.bridges ∧ (s.functionsOrder ps).1.balance = s.balance
      ∧ (s.functionsOrder ps).1.supply = s.supply := by
  simp [State.functionsOrder]

@[simp] theorem State.leaseTakeOrder_frame (s : State) (ps : List Byte) :
    (s.leaseTakeOrder ps).1.pending = s.pending ∧ (s.leaseTakeOrder ps).1.clock = s.clock
      ∧ (s.leaseTakeOrder ps).1.free = s.free ∧ (s.leaseTakeOrder ps).1.xm = s.xm
      ∧ (s.leaseTakeOrder ps).1.lastGranted = s.lastGranted
      ∧ (s.leaseTakeOrder ps).1.orders = s.orders ∧ (s.leaseTakeOrder ps).1.status = s.status
      ∧ (s.leaseTakeOrder ps).1.timers = s.timers ∧ (s.leaseTakeOrder ps).1.sets = s.sets
      ∧ (s.leaseTakeOrder ps).1.motion = s.motion ∧ (s.leaseTakeOrder ps).1.traction = s.traction
      ∧ (s.leaseTakeOrder ps).1.bridges = s.bridges ∧ (s.leaseTakeOrder ps).1.balance = s.balance
      ∧ (s.leaseTakeOrder ps).1.sound = s.sound ∧ (s.leaseTakeOrder ps).1.lamps = s.lamps
      ∧ (s.leaseTakeOrder ps).1.supply = s.supply := by
  simp only [State.leaseTakeOrder]
  repeat' split
  all_goals simp

@[simp] theorem State.leaseReleaseOrder_frame (s : State) (ps : List Byte) :
    (s.leaseReleaseOrder ps).1.pending = s.pending ∧ (s.leaseReleaseOrder ps).1.clock = s.clock
      ∧ (s.leaseReleaseOrder ps).1.free = s.free
      ∧ (s.leaseReleaseOrder ps).1.lastGranted = s.lastGranted
      ∧ (s.leaseReleaseOrder ps).1.orders = s.orders
      ∧ (s.leaseReleaseOrder ps).1.timers = s.timers ∧ (s.leaseReleaseOrder ps).1.sets = s.sets
      ∧ (s.leaseReleaseOrder ps).1.motion = s.motion
      ∧ (s.leaseReleaseOrder ps).1.balance = s.balance
      ∧ (s.leaseReleaseOrder ps).1.lamps = s.lamps ∧ (s.leaseReleaseOrder ps).1.supply = s.supply := by
  simp only [State.leaseReleaseOrder]
  repeat' split
  all_goals simp

@[simp] theorem State.loadAnchor_frame (s : State) (m : Memory) :
    (s.loadAnchor m).pending = s.pending ∧ (s.loadAnchor m).clock = s.clock
      ∧ (s.loadAnchor m).free = s.free ∧ (s.loadAnchor m).xm = s.xm
      ∧ (s.loadAnchor m).lastGranted = s.lastGranted ∧ (s.loadAnchor m).port = s.port
      ∧ (s.loadAnchor m).status = s.status ∧ (s.loadAnchor m).sets = s.sets
      ∧ (s.loadAnchor m).traction = s.traction ∧ (s.loadAnchor m).balance = s.balance
      ∧ (s.loadAnchor m).radio = s.radio ∧ (s.loadAnchor m).sound = s.sound
      ∧ (s.loadAnchor m).lamps = s.lamps := by
  simp only [State.loadAnchor]
  repeat' split
  all_goals simp

@[simp] theorem State.loadLampTable_frame (s : State) (m : Memory) :
    (s.loadLampTable m).pending = s.pending ∧ (s.loadLampTable m).clock = s.clock
      ∧ (s.loadLampTable m).free = s.free ∧ (s.loadLampTable m).xm = s.xm
      ∧ (s.loadLampTable m).lastGranted = s.lastGranted ∧ (s.loadLampTable m).port = s.port
      ∧ (s.loadLampTable m).orders = s.orders ∧ (s.loadLampTable m).status = s.status
      ∧ (s.loadLampTable m).timers = s.timers ∧ (s.loadLampTable m).sets = s.sets
      ∧ (s.loadLampTable m).motion = s.motion ∧ (s.loadLampTable m).traction = s.traction
      ∧ (s.loadLampTable m).bridges = s.bridges ∧ (s.loadLampTable m).balance = s.balance
      ∧ (s.loadLampTable m).radio = s.radio ∧ (s.loadLampTable m).sound = s.sound
      ∧ (s.loadLampTable m).supply = s.supply := by
  simp [State.loadLampTable]

@[simp] theorem State.emptyZone_frame (s : State) :
    s.emptyZone.pending = s.pending ∧ s.emptyZone.clock = s.clock ∧ s.emptyZone.xm = s.xm
      ∧ s.emptyZone.lastGranted = s.lastGranted ∧ s.emptyZone.port = s.port
      ∧ s.emptyZone.orders = s.orders ∧ s.emptyZone.status = s.status
      ∧ s.emptyZone.timers = s.timers ∧ s.emptyZone.sets = s.sets ∧ s.emptyZone.motion = s.motion
      ∧ s.emptyZone.traction = s.traction ∧ s.emptyZone.bridges = s.bridges
      ∧ s.emptyZone.balance = s.balance ∧ s.emptyZone.sound = s.sound
      ∧ s.emptyZone.lamps = s.lamps ∧ s.emptyZone.supply = s.supply := by
  simp only [State.emptyZone]
  repeat' split
  all_goals simp

@[simp] theorem State.soundEnterRun_frame (s : State) :
    s.soundEnterRun.pending = s.pending ∧ s.soundEnterRun.clock = s.clock
      ∧ s.soundEnterRun.free = s.free ∧ s.soundEnterRun.lastGranted = s.lastGranted
      ∧ s.soundEnterRun.orders = s.orders ∧ s.soundEnterRun.timers = s.timers
      ∧ s.soundEnterRun.sets = s.sets ∧ s.soundEnterRun.motion = s.motion
      ∧ s.soundEnterRun.traction = s.traction ∧ s.soundEnterRun.bridges = s.bridges
      ∧ s.soundEnterRun.balance = s.balance ∧ s.soundEnterRun.radio = s.radio
      ∧ s.soundEnterRun.lamps = s.lamps ∧ s.soundEnterRun.supply = s.supply := by
  simp [State.soundEnterRun]

@[simp] theorem State.enterRun_frame (s : State) (j : StartJob) :
    (s.enterRun j).pending = s.pending ∧ (s.enterRun j).clock = s.clock
      ∧ (s.enterRun j).lastGranted = s.lastGranted ∧ (s.enterRun j).orders = s.orders
      ∧ (s.enterRun j).timers = s.timers ∧ (s.enterRun j).motion = s.motion
      ∧ (s.enterRun j).balance = s.balance ∧ (s.enterRun j).lamps = s.lamps
      ∧ (s.enterRun j).supply = s.supply := by
  simp [State.enterRun]

@[simp] theorem State.teardown_frame (s : State) :
    s.teardown.pending = s.pending ∧ s.teardown.clock = s.clock ∧ s.teardown.timers = s.timers
      ∧ s.teardown.motion = s.motion ∧ s.teardown.supply = s.supply := by
  simp [State.teardown]

@[simp] theorem State.requestTeardown_frame (s : State) :
    s.requestTeardown.pending = s.pending ∧ s.requestTeardown.clock = s.clock
      ∧ s.requestTeardown.timers = s.timers ∧ s.requestTeardown.motion = s.motion
      ∧ s.requestTeardown.supply = s.supply := by
  simp only [State.requestTeardown]
  repeat' split
  all_goals simp

@[simp] theorem State.tellSetChange_frame (s : State) :
    s.tellSetChange.pending = s.pending ∧ s.tellSetChange.clock = s.clock
      ∧ s.tellSetChange.free = s.free ∧ s.tellSetChange.lastGranted = s.lastGranted
      ∧ s.tellSetChange.orders = s.orders ∧ s.tellSetChange.timers = s.timers
      ∧ s.tellSetChange.sets = s.sets ∧ s.tellSetChange.motion = s.motion
      ∧ s.tellSetChange.balance = s.balance ∧ s.tellSetChange.radio = s.radio
      ∧ s.tellSetChange.supply = s.supply := by
  simp [State.tellSetChange]

/-- R37, R44: what an action itself changes. Chain, cache and clamped flag, and the request state, are new; the queue, and
every other block, are as they were, c, I and u and the bridges among them. -/
@[simp] theorem State.changeSet_frame (s : State) (a : SetAction) (d : DriveSet) (clamped : Bool) :
    (s.changeSet a d clamped).pending = s.pending ∧ (s.changeSet a d clamped).clock = s.clock
      ∧ (s.changeSet a d clamped).free = s.free ∧ (s.changeSet a d clamped).xm = s.xm
      ∧ (s.changeSet a d clamped).lastGranted = s.lastGranted ∧ (s.changeSet a d clamped).port = s.port
      ∧ (s.changeSet a d clamped).orders = s.orders ∧ (s.changeSet a d clamped).status = s.status
      ∧ (s.changeSet a d clamped).timers = s.timers
      ∧ (s.changeSet a d clamped).sets =
        { s.sets with chain := chainAfter s a, cache := some d, clamped := clamped }
      ∧ (s.changeSet a d clamped).motion = s.motion ∧ (s.changeSet a d clamped).traction = s.traction
      ∧ (s.changeSet a d clamped).bridges = s.bridges ∧ (s.changeSet a d clamped).balance = s.balance
      ∧ (s.changeSet a d clamped).radio = { s.radio with request := requestAfter s a d }
      ∧ (s.changeSet a d clamped).sound = s.sound ∧ (s.changeSet a d clamped).lamps = s.lamps
      ∧ (s.changeSet a d clamped).supply = s.supply := by
  simp [State.changeSet, State.onRequest]

@[simp] theorem State.applyAction_frame (s : State) (a : SetAction) (d : DriveSet) (clamped : Bool) :
    (s.applyAction a d clamped).pending = s.pending
      ∧ (s.applyAction a d clamped).clock = s.clock ∧ (s.applyAction a d clamped).free = s.free
      ∧ (s.applyAction a d clamped).lastGranted = s.lastGranted
      ∧ (s.applyAction a d clamped).orders = s.orders
      ∧ (s.applyAction a d clamped).timers = s.timers
      ∧ (s.applyAction a d clamped).motion = s.motion
      ∧ (s.applyAction a d clamped).balance = s.balance
      ∧ (s.applyAction a d clamped).supply = s.supply := by
  simp only [State.applyAction]
  repeat' split
  all_goals simp

@[simp] theorem State.reportAction_frame (s : State) (a : SetAction) (outcome : OutcomeCode) :
    (s.reportAction a outcome).pending = s.pending ∧ (s.reportAction a outcome).clock = s.clock
      ∧ (s.reportAction a outcome).free = s.free ∧ (s.reportAction a outcome).status = s.status
      ∧ (s.reportAction a outcome).timers = s.timers ∧ (s.reportAction a outcome).sets = s.sets
      ∧ (s.reportAction a outcome).motion = s.motion
      ∧ (s.reportAction a outcome).traction = s.traction
      ∧ (s.reportAction a outcome).bridges = s.bridges
      ∧ (s.reportAction a outcome).balance = s.balance
      ∧ (s.reportAction a outcome).sound = s.sound ∧ (s.reportAction a outcome).lamps = s.lamps
      ∧ (s.reportAction a outcome).supply = s.supply := by
  simp only [State.reportAction]
  repeat' split
  all_goals simp

@[simp] theorem State.conclude_frame (s : State) (a : SetAction) (d : Option (DriveSet × Bool)) :
    (s.conclude a d).pending = s.pending ∧ (s.conclude a d).clock = s.clock
      ∧ (s.conclude a d).free = s.free ∧ (s.conclude a d).timers = s.timers
      ∧ (s.conclude a d).motion = s.motion ∧ (s.conclude a d).balance = s.balance
      ∧ (s.conclude a d).supply = s.supply := by
  simp only [State.conclude]
  repeat' split
  all_goals simp

@[simp] theorem State.queueIs_frame (s : State) (q : List SetAction) :
    (s.queueIs q).pending = s.pending ∧ (s.queueIs q).clock = s.clock
      ∧ (s.queueIs q).free = s.free ∧ (s.queueIs q).xm = s.xm
      ∧ (s.queueIs q).lastGranted = s.lastGranted ∧ (s.queueIs q).port = s.port
      ∧ (s.queueIs q).orders = s.orders ∧ (s.queueIs q).status = s.status
      ∧ (s.queueIs q).timers = s.timers ∧ (s.queueIs q).motion = s.motion
      ∧ (s.queueIs q).traction = s.traction ∧ (s.queueIs q).bridges = s.bridges
      ∧ (s.queueIs q).balance = s.balance ∧ (s.queueIs q).radio = s.radio
      ∧ (s.queueIs q).sound = s.sound ∧ (s.queueIs q).lamps = s.lamps
      ∧ (s.queueIs q).supply = s.supply := by
  simp [State.queueIs]

@[simp] theorem State.takeWaiting_frame (s : State) (waiting : List SetAction) :
    (State.takeWaiting waiting s).pending = s.pending
      ∧ (State.takeWaiting waiting s).clock = s.clock
      ∧ (State.takeWaiting waiting s).free = s.free
      ∧ (State.takeWaiting waiting s).timers = s.timers
      ∧ (State.takeWaiting waiting s).motion = s.motion
      ∧ (State.takeWaiting waiting s).balance = s.balance
      ∧ (State.takeWaiting waiting s).supply = s.supply := by
  induction waiting generalizing s with
  | nil => simp [State.takeWaiting]
  | cons a rest ih =>
    simp only [State.takeWaiting]
    split
    · simp
    · simp [ih]

@[simp] theorem State.abandonAction_frame (s : State) (a : SetAction) :
    (s.abandonAction a).pending = s.pending ∧ (s.abandonAction a).clock = s.clock
      ∧ (s.abandonAction a).free = s.free ∧ (s.abandonAction a).status = s.status
      ∧ (s.abandonAction a).timers = s.timers ∧ (s.abandonAction a).sets = s.sets
      ∧ (s.abandonAction a).motion = s.motion ∧ (s.abandonAction a).traction = s.traction
      ∧ (s.abandonAction a).bridges = s.bridges ∧ (s.abandonAction a).balance = s.balance
      ∧ (s.abandonAction a).radio = s.radio ∧ (s.abandonAction a).sound = s.sound
      ∧ (s.abandonAction a).lamps = s.lamps ∧ (s.abandonAction a).supply = s.supply := by
  simp only [State.abandonAction]
  repeat' split
  all_goals simp

@[simp] theorem State.abandonWaiting_frame (s : State) (waiting : List SetAction) :
    (s.abandonWaiting waiting).pending = s.pending ∧ (s.abandonWaiting waiting).clock = s.clock
      ∧ (s.abandonWaiting waiting).free = s.free ∧ (s.abandonWaiting waiting).status = s.status
      ∧ (s.abandonWaiting waiting).timers = s.timers
      ∧ (s.abandonWaiting waiting).motion = s.motion
      ∧ (s.abandonWaiting waiting).traction = s.traction
      ∧ (s.abandonWaiting waiting).bridges = s.bridges
      ∧ (s.abandonWaiting waiting).balance = s.balance
      ∧ (s.abandonWaiting waiting).radio = s.radio ∧ (s.abandonWaiting waiting).sound = s.sound
      ∧ (s.abandonWaiting waiting).lamps = s.lamps ∧ (s.abandonWaiting waiting).supply = s.supply := by
  simp only [State.abandonWaiting]
  exact ⟨foldl_keeps (·.pending) (by simp) _ _, foldl_keeps (·.clock) (by simp) _ _, foldl_keeps
    (·.free) (by simp) _ _, foldl_keeps (·.status) (by simp) _ _, foldl_keeps (·.timers) (by simp) _
    _, foldl_keeps (·.motion) (by simp) _ _, foldl_keeps (·.traction) (by simp) _ _, foldl_keeps
    (·.bridges) (by simp) _ _, foldl_keeps (·.balance) (by simp) _ _, foldl_keeps (·.radio) (by
    simp) _ _, foldl_keeps (·.sound) (by simp) _ _, foldl_keeps (·.lamps) (by simp) _ _, foldl_keeps
    (·.supply) (by simp) _ _⟩

@[simp] theorem State.nextAction_frame (s : State) :
    s.nextAction.pending = s.pending ∧ s.nextAction.clock = s.clock
      ∧ s.nextAction.timers = s.timers ∧ s.nextAction.motion = s.motion
      ∧ s.nextAction.supply = s.supply := by
  simp only [State.nextAction]
  repeat' split
  all_goals simp

@[simp] theorem State.decideAction_frame (s : State) (a : SetAction) :
    (s.decideAction a).pending = s.pending ∧ (s.decideAction a).clock = s.clock
      ∧ (s.decideAction a).timers = s.timers ∧ (s.decideAction a).motion = s.motion
      ∧ (s.decideAction a).supply = s.supply := by
  simp [State.decideAction]

@[simp] theorem State.actionArrives_frame (s : State) (a : SetAction) :
    (s.actionArrives a).pending = s.pending ∧ (s.actionArrives a).clock = s.clock
      ∧ (s.actionArrives a).free = s.free ∧ (s.actionArrives a).timers = s.timers
      ∧ (s.actionArrives a).motion = s.motion ∧ (s.actionArrives a).balance = s.balance
      ∧ (s.actionArrives a).supply = s.supply := by
  simp only [State.actionArrives]
  repeat' split
  all_goals simp

@[simp] theorem State.requestAction_frame (s : State) (code index level : Nat) (source : Requestor) :
    (s.requestAction code index level source).pending = s.pending
      ∧ (s.requestAction code index level source).clock = s.clock
      ∧ (s.requestAction code index level source).free = s.free
      ∧ (s.requestAction code index level source).timers = s.timers
      ∧ (s.requestAction code index level source).motion = s.motion
      ∧ (s.requestAction code index level source).balance = s.balance
      ∧ (s.requestAction code index level source).supply = s.supply := by
  simp only [State.requestAction]
  repeat' split
  all_goals simp

@[simp] theorem State.decideHead_frame (s : State) (kind : SetActionKind) :
    (s.decideHead kind).pending = s.pending ∧ (s.decideHead kind).clock = s.clock
      ∧ (s.decideHead kind).timers = s.timers ∧ (s.decideHead kind).motion = s.motion
      ∧ (s.decideHead kind).supply = s.supply := by
  simp only [State.decideHead]
  repeat' split
  all_goals simp

/-! ## Radio -/

@[simp] theorem State.checkFrame_frame (s : State) (bytes : List Byte) :
    (s.checkFrame bytes).pending = s.pending ∧ (s.checkFrame bytes).clock = s.clock
      ∧ (s.checkFrame bytes).free = s.free ∧ (s.checkFrame bytes).xm = s.xm
      ∧ (s.checkFrame bytes).lastGranted = s.lastGranted ∧ (s.checkFrame bytes).port = s.port
      ∧ (s.checkFrame bytes).orders = s.orders ∧ (s.checkFrame bytes).status = s.status
      ∧ (s.checkFrame bytes).timers = s.timers ∧ (s.checkFrame bytes).sets = s.sets
      ∧ (s.checkFrame bytes).motion = s.motion ∧ (s.checkFrame bytes).traction = s.traction
      ∧ (s.checkFrame bytes).bridges = s.bridges ∧ (s.checkFrame bytes).balance = s.balance
      ∧ (s.checkFrame bytes).sound = s.sound ∧ (s.checkFrame bytes).lamps = s.lamps
      ∧ (s.checkFrame bytes).supply = s.supply := by
  simp only [State.checkFrame]
  repeat' split
  all_goals simp

@[simp] theorem State.frameDone_frame (s : State) :
    s.frameDone.pending = s.pending ∧ s.frameDone.clock = s.clock ∧ s.frameDone.free = s.free
      ∧ s.frameDone.xm = s.xm ∧ s.frameDone.lastGranted = s.lastGranted
      ∧ s.frameDone.port = s.port ∧ s.frameDone.orders = s.orders ∧ s.frameDone.status = s.status
      ∧ s.frameDone.timers = s.timers ∧ s.frameDone.sets = s.sets ∧ s.frameDone.motion = s.motion
      ∧ s.frameDone.traction = s.traction ∧ s.frameDone.bridges = s.bridges
      ∧ s.frameDone.balance = s.balance ∧ s.frameDone.sound = s.sound
      ∧ s.frameDone.lamps = s.lamps ∧ s.frameDone.supply = s.supply := ⟨checkWaiting_keeps
    (·.pending) (by simp) _ _, checkWaiting_keeps (·.clock) (by simp) _ _, checkWaiting_keeps
    (·.free) (by simp) _ _, checkWaiting_keeps (·.xm) (by simp) _ _, checkWaiting_keeps
    (·.lastGranted) (by simp) _ _, checkWaiting_keeps (·.port) (by simp) _ _, checkWaiting_keeps
    (·.orders) (by simp) _ _, checkWaiting_keeps (·.status) (by simp) _ _, checkWaiting_keeps
    (·.timers) (by simp) _ _, checkWaiting_keeps (·.sets) (by simp) _ _, checkWaiting_keeps
    (·.motion) (by simp) _ _, checkWaiting_keeps (·.traction) (by simp) _ _, checkWaiting_keeps
    (·.bridges) (by simp) _ _, checkWaiting_keeps (·.balance) (by simp) _ _, checkWaiting_keeps
    (·.sound) (by simp) _ _, checkWaiting_keeps (·.lamps) (by simp) _ _, checkWaiting_keeps
    (·.supply) (by simp) _ _⟩

@[simp] theorem State.frameComplete_frame (s : State) (bytes : List Byte) :
    (s.frameComplete bytes).pending = s.pending ∧ (s.frameComplete bytes).clock = s.clock
      ∧ (s.frameComplete bytes).free = s.free ∧ (s.frameComplete bytes).xm = s.xm
      ∧ (s.frameComplete bytes).lastGranted = s.lastGranted
      ∧ (s.frameComplete bytes).port = s.port ∧ (s.frameComplete bytes).orders = s.orders
      ∧ (s.frameComplete bytes).status = s.status ∧ (s.frameComplete bytes).timers = s.timers
      ∧ (s.frameComplete bytes).sets = s.sets ∧ (s.frameComplete bytes).motion = s.motion
      ∧ (s.frameComplete bytes).traction = s.traction
      ∧ (s.frameComplete bytes).bridges = s.bridges ∧ (s.frameComplete bytes).balance = s.balance
      ∧ (s.frameComplete bytes).sound = s.sound ∧ (s.frameComplete bytes).lamps = s.lamps
      ∧ (s.frameComplete bytes).supply = s.supply := by
  simp only [State.frameComplete]
  repeat' split
  all_goals simp

@[simp] theorem State.receive_frame (s : State) (r : Receiver) :
    (s.receive r).pending = s.pending ∧ (s.receive r).clock = s.clock
      ∧ (s.receive r).free = s.free ∧ (s.receive r).xm = s.xm
      ∧ (s.receive r).lastGranted = s.lastGranted ∧ (s.receive r).port = s.port
      ∧ (s.receive r).orders = s.orders ∧ (s.receive r).status = s.status
      ∧ (s.receive r).timers = s.timers ∧ (s.receive r).sets = s.sets
      ∧ (s.receive r).motion = s.motion ∧ (s.receive r).traction = s.traction
      ∧ (s.receive r).bridges = s.bridges ∧ (s.receive r).balance = s.balance
      ∧ (s.receive r).sound = s.sound ∧ (s.receive r).lamps = s.lamps
      ∧ (s.receive r).supply = s.supply := by
  simp only [State.receive]
  repeat' split
  all_goals simp

@[simp] theorem State.takeByte_frame (s : State) (b : Byte) :
    (s.takeByte b).pending = s.pending ∧ (s.takeByte b).clock = s.clock
      ∧ (s.takeByte b).free = s.free ∧ (s.takeByte b).xm = s.xm
      ∧ (s.takeByte b).lastGranted = s.lastGranted ∧ (s.takeByte b).port = s.port
      ∧ (s.takeByte b).orders = s.orders ∧ (s.takeByte b).status = s.status
      ∧ (s.takeByte b).timers = s.timers ∧ (s.takeByte b).sets = s.sets
      ∧ (s.takeByte b).motion = s.motion ∧ (s.takeByte b).traction = s.traction
      ∧ (s.takeByte b).bridges = s.bridges ∧ (s.takeByte b).balance = s.balance
      ∧ (s.takeByte b).sound = s.sound ∧ (s.takeByte b).lamps = s.lamps
      ∧ (s.takeByte b).supply = s.supply := by
  simp only [State.takeByte]
  repeat' split
  all_goals simp

@[simp] theorem State.beaconZone_frame (s : State) (f : Frame) :
    (s.beaconZone f).pending = s.pending ∧ (s.beaconZone f).clock = s.clock
      ∧ (s.beaconZone f).orders = s.orders ∧ (s.beaconZone f).status = s.status
      ∧ (s.beaconZone f).timers = s.timers ∧ (s.beaconZone f).sets = s.sets
      ∧ (s.beaconZone f).motion = s.motion ∧ (s.beaconZone f).traction = s.traction
      ∧ (s.beaconZone f).bridges = s.bridges ∧ (s.beaconZone f).balance = s.balance
      ∧ (s.beaconZone f).sound = s.sound ∧ (s.beaconZone f).lamps = s.lamps
      ∧ (s.beaconZone f).supply = s.supply := by
  simp only [State.beaconZone]
  repeat' split
  all_goals simp

@[simp] theorem State.beaconStation_frame (s : State) (f : Frame) :
    (s.beaconStation f).pending = s.pending ∧ (s.beaconStation f).clock = s.clock
      ∧ (s.beaconStation f).free = s.free ∧ (s.beaconStation f).orders = s.orders
      ∧ (s.beaconStation f).status = s.status ∧ (s.beaconStation f).timers = s.timers
      ∧ (s.beaconStation f).sets = s.sets ∧ (s.beaconStation f).motion = s.motion
      ∧ (s.beaconStation f).traction = s.traction ∧ (s.beaconStation f).bridges = s.bridges
      ∧ (s.beaconStation f).balance = s.balance ∧ (s.beaconStation f).sound = s.sound
      ∧ (s.beaconStation f).lamps = s.lamps ∧ (s.beaconStation f).supply = s.supply := by
  simp only [State.beaconStation]
  repeat' split
  all_goals simp

@[simp] theorem State.beaconHorn_frame (s : State) :
    s.beaconHorn.pending = s.pending ∧ s.beaconHorn.clock = s.clock ∧ s.beaconHorn.free = s.free
      ∧ s.beaconHorn.lastGranted = s.lastGranted ∧ s.beaconHorn.orders = s.orders
      ∧ s.beaconHorn.timers = s.timers ∧ s.beaconHorn.sets = s.sets
      ∧ s.beaconHorn.motion = s.motion ∧ s.beaconHorn.traction = s.traction
      ∧ s.beaconHorn.bridges = s.bridges ∧ s.beaconHorn.balance = s.balance
      ∧ s.beaconHorn.lamps = s.lamps ∧ s.beaconHorn.supply = s.supply := by
  simp only [State.beaconHorn]
  repeat' split
  all_goals simp

/-! ## Sweeps, status, resets -/

@[simp] theorem State.beginSweep_frame (s : State) :
    s.beginSweep.pending = s.pending ∧ s.beginSweep.clock = s.clock ∧ s.beginSweep.free = s.free
      ∧ s.beginSweep.xm = s.xm ∧ s.beginSweep.lastGranted = s.lastGranted
      ∧ s.beginSweep.port = s.port ∧ s.beginSweep.status = s.status
      ∧ s.beginSweep.timers = s.timers ∧ s.beginSweep.sets = s.sets
      ∧ s.beginSweep.motion = s.motion ∧ s.beginSweep.traction = s.traction
      ∧ s.beginSweep.bridges = s.bridges ∧ s.beginSweep.balance = s.balance
      ∧ s.beginSweep.radio = s.radio ∧ s.beginSweep.sound = s.sound ∧ s.beginSweep.lamps = s.lamps
      ∧ s.beginSweep.supply = s.supply := by
  simp [State.beginSweep]

@[simp] theorem State.requestSweep_frame (s : State) :
    s.requestSweep.pending = s.pending ∧ s.requestSweep.clock = s.clock
      ∧ s.requestSweep.free = s.free ∧ s.requestSweep.xm = s.xm
      ∧ s.requestSweep.lastGranted = s.lastGranted ∧ s.requestSweep.status = s.status
      ∧ s.requestSweep.timers = s.timers ∧ s.requestSweep.sets = s.sets
      ∧ s.requestSweep.motion = s.motion ∧ s.requestSweep.traction = s.traction
      ∧ s.requestSweep.bridges = s.bridges ∧ s.requestSweep.balance = s.balance
      ∧ s.requestSweep.radio = s.radio ∧ s.requestSweep.sound = s.sound
      ∧ s.requestSweep.lamps = s.lamps ∧ s.requestSweep.supply = s.supply := by
  simp only [State.requestSweep]
  repeat' split
  all_goals simp

@[simp] theorem State.onSweep_frame (s : State) (f : Sweep → Sweep) :
    (s.onSweep f).pending = s.pending ∧ (s.onSweep f).clock = s.clock
      ∧ (s.onSweep f).free = s.free ∧ (s.onSweep f).xm = s.xm
      ∧ (s.onSweep f).lastGranted = s.lastGranted ∧ (s.onSweep f).port = s.port
      ∧ (s.onSweep f).status = s.status ∧ (s.onSweep f).timers = s.timers
      ∧ (s.onSweep f).sets = s.sets ∧ (s.onSweep f).motion = s.motion
      ∧ (s.onSweep f).traction = s.traction ∧ (s.onSweep f).bridges = s.bridges
      ∧ (s.onSweep f).balance = s.balance ∧ (s.onSweep f).radio = s.radio
      ∧ (s.onSweep f).sound = s.sound ∧ (s.onSweep f).lamps = s.lamps
      ∧ (s.onSweep f).supply = s.supply := by
  simp [State.onSweep]

@[simp] theorem State.dropOrder_frame (s : State) :
    s.dropOrder.pending = s.pending ∧ s.dropOrder.clock = s.clock ∧ s.dropOrder.free = s.free
      ∧ s.dropOrder.xm = s.xm ∧ s.dropOrder.lastGranted = s.lastGranted
      ∧ s.dropOrder.port = s.port ∧ s.dropOrder.status = s.status ∧ s.dropOrder.timers = s.timers
      ∧ s.dropOrder.sets = s.sets ∧ s.dropOrder.motion = s.motion
      ∧ s.dropOrder.traction = s.traction ∧ s.dropOrder.bridges = s.bridges
      ∧ s.dropOrder.balance = s.balance ∧ s.dropOrder.radio = s.radio
      ∧ s.dropOrder.sound = s.sound ∧ s.dropOrder.lamps = s.lamps ∧ s.dropOrder.supply = s.supply := by
  simp [State.dropOrder]

@[simp] theorem State.completeOrder_frame (s : State) (o : TakenOrder) (outcome : OutcomeCode) (result : List Byte) :
    (s.completeOrder o outcome result).pending = s.pending
      ∧ (s.completeOrder o outcome result).clock = s.clock
      ∧ (s.completeOrder o outcome result).free = s.free
      ∧ (s.completeOrder o outcome result).status = s.status
      ∧ (s.completeOrder o outcome result).timers = s.timers
      ∧ (s.completeOrder o outcome result).sets = s.sets
      ∧ (s.completeOrder o outcome result).motion = s.motion
      ∧ (s.completeOrder o outcome result).traction = s.traction
      ∧ (s.completeOrder o outcome result).bridges = s.bridges
      ∧ (s.completeOrder o outcome result).balance = s.balance
      ∧ (s.completeOrder o outcome result).radio = s.radio
      ∧ (s.completeOrder o outcome result).sound = s.sound
      ∧ (s.completeOrder o outcome result).lamps = s.lamps
      ∧ (s.completeOrder o outcome result).supply = s.supply := by
  simp [State.completeOrder]

@[simp] theorem State.passSlot_frame (s : State) (n : Nat) (current : Option TakenOrder) :
    (s.passSlot n current).pending = s.pending ∧ (s.passSlot n current).clock = s.clock
      ∧ (s.passSlot n current).free = s.free ∧ (s.passSlot n current).xm = s.xm
      ∧ (s.passSlot n current).lastGranted = s.lastGranted ∧ (s.passSlot n current).port = s.port
      ∧ (s.passSlot n current).status = s.status ∧ (s.passSlot n current).timers = s.timers
      ∧ (s.passSlot n current).sets = s.sets ∧ (s.passSlot n current).motion = s.motion
      ∧ (s.passSlot n current).traction = s.traction ∧ (s.passSlot n current).bridges = s.bridges
      ∧ (s.passSlot n current).balance = s.balance ∧ (s.passSlot n current).radio = s.radio
      ∧ (s.passSlot n current).sound = s.sound ∧ (s.passSlot n current).lamps = s.lamps
      ∧ (s.passSlot n current).supply = s.supply := by
  simp [State.passSlot]

@[simp] theorem State.takeSlot_frame (s : State) (n : Nat) (bytes : List Byte) :
    (s.takeSlot n bytes).pending = s.pending ∧ (s.takeSlot n bytes).clock = s.clock
      ∧ (s.takeSlot n bytes).free = s.free ∧ (s.takeSlot n bytes).status = s.status
      ∧ (s.takeSlot n bytes).timers = s.timers ∧ (s.takeSlot n bytes).sets = s.sets
      ∧ (s.takeSlot n bytes).motion = s.motion ∧ (s.takeSlot n bytes).traction = s.traction
      ∧ (s.takeSlot n bytes).bridges = s.bridges ∧ (s.takeSlot n bytes).balance = s.balance
      ∧ (s.takeSlot n bytes).radio = s.radio ∧ (s.takeSlot n bytes).sound = s.sound
      ∧ (s.takeSlot n bytes).lamps = s.lamps ∧ (s.takeSlot n bytes).supply = s.supply := by
  simp only [State.takeSlot]
  repeat' split
  all_goals simp

@[simp] theorem State.sweepAccess_frame (s : State) (w : Sweep) :
    (s.sweepAccess w).pending = s.pending ∧ (s.sweepAccess w).clock = s.clock
      ∧ (s.sweepAccess w).free = s.free ∧ (s.sweepAccess w).xm = s.xm
      ∧ (s.sweepAccess w).lastGranted = s.lastGranted ∧ (s.sweepAccess w).port = s.port
      ∧ (s.sweepAccess w).status = s.status ∧ (s.sweepAccess w).timers = s.timers
      ∧ (s.sweepAccess w).sets = s.sets ∧ (s.sweepAccess w).motion = s.motion
      ∧ (s.sweepAccess w).traction = s.traction ∧ (s.sweepAccess w).bridges = s.bridges
      ∧ (s.sweepAccess w).balance = s.balance ∧ (s.sweepAccess w).radio = s.radio
      ∧ (s.sweepAccess w).sound = s.sound ∧ (s.sweepAccess w).lamps = s.lamps
      ∧ (s.sweepAccess w).supply = s.supply := by
  simp only [State.sweepAccess]
  repeat' split
  all_goals simp

@[simp] theorem State.writeGeneration_frame (s : State) :
    s.writeGeneration.pending = s.pending ∧ s.writeGeneration.clock = s.clock
      ∧ s.writeGeneration.free = s.free ∧ s.writeGeneration.lastGranted = s.lastGranted
      ∧ s.writeGeneration.port = s.port ∧ s.writeGeneration.orders = s.orders
      ∧ s.writeGeneration.timers = s.timers ∧ s.writeGeneration.sets = s.sets
      ∧ s.writeGeneration.motion = s.motion ∧ s.writeGeneration.traction = s.traction
      ∧ s.writeGeneration.bridges = s.bridges ∧ s.writeGeneration.balance = s.balance
      ∧ s.writeGeneration.radio = s.radio ∧ s.writeGeneration.sound = s.sound
      ∧ s.writeGeneration.lamps = s.lamps ∧ s.writeGeneration.supply = s.supply := by
  simp [State.writeGeneration]

@[simp] theorem State.writeStatusWord_frame (s : State) (k : Nat) :
    (s.writeStatusWord k).pending = s.pending ∧ (s.writeStatusWord k).clock = s.clock
      ∧ (s.writeStatusWord k).free = s.free ∧ (s.writeStatusWord k).lastGranted = s.lastGranted
      ∧ (s.writeStatusWord k).port = s.port ∧ (s.writeStatusWord k).orders = s.orders
      ∧ (s.writeStatusWord k).status = s.status ∧ (s.writeStatusWord k).timers = s.timers
      ∧ (s.writeStatusWord k).sets = s.sets ∧ (s.writeStatusWord k).motion = s.motion
      ∧ (s.writeStatusWord k).traction = s.traction ∧ (s.writeStatusWord k).bridges = s.bridges
      ∧ (s.writeStatusWord k).balance = s.balance ∧ (s.writeStatusWord k).radio = s.radio
      ∧ (s.writeStatusWord k).sound = s.sound ∧ (s.writeStatusWord k).lamps = s.lamps
      ∧ (s.writeStatusWord k).supply = s.supply := by
  simp [State.writeStatusWord]

@[simp] theorem State.beginUpdate_frame (s : State) :
    s.beginUpdate.pending = s.pending ∧ s.beginUpdate.clock = s.clock
      ∧ s.beginUpdate.free = s.free ∧ s.beginUpdate.xm = s.xm
      ∧ s.beginUpdate.lastGranted = s.lastGranted ∧ s.beginUpdate.port = s.port
      ∧ s.beginUpdate.orders = s.orders ∧ s.beginUpdate.timers = s.timers
      ∧ s.beginUpdate.sets = s.sets ∧ s.beginUpdate.motion = s.motion
      ∧ s.beginUpdate.traction = s.traction ∧ s.beginUpdate.bridges = s.bridges
      ∧ s.beginUpdate.balance = s.balance ∧ s.beginUpdate.radio = s.radio
      ∧ s.beginUpdate.sound = s.sound ∧ s.beginUpdate.lamps = s.lamps
      ∧ s.beginUpdate.supply = s.supply := by
  simp [State.beginUpdate]

@[simp] theorem State.endUpdate_frame (s : State) :
    s.endUpdate.pending = s.pending ∧ s.endUpdate.clock = s.clock ∧ s.endUpdate.free = s.free
      ∧ s.endUpdate.xm = s.xm ∧ s.endUpdate.lastGranted = s.lastGranted
      ∧ s.endUpdate.port = s.port ∧ s.endUpdate.orders = s.orders ∧ s.endUpdate.timers = s.timers
      ∧ s.endUpdate.sets = s.sets ∧ s.endUpdate.motion = s.motion
      ∧ s.endUpdate.traction = s.traction ∧ s.endUpdate.bridges = s.bridges
      ∧ s.endUpdate.balance = s.balance ∧ s.endUpdate.radio = s.radio
      ∧ s.endUpdate.sound = s.sound ∧ s.endUpdate.lamps = s.lamps ∧ s.endUpdate.supply = s.supply := by
  simp [State.endUpdate]

@[simp] theorem State.writeStatusWords_frame (s : State) (k n : Nat) :
    (State.writeStatusWords k n s).pending = s.pending
      ∧ (State.writeStatusWords k n s).clock = s.clock
      ∧ (State.writeStatusWords k n s).free = s.free
      ∧ (State.writeStatusWords k n s).lastGranted = s.lastGranted
      ∧ (State.writeStatusWords k n s).port = s.port
      ∧ (State.writeStatusWords k n s).orders = s.orders
      ∧ (State.writeStatusWords k n s).status = s.status
      ∧ (State.writeStatusWords k n s).timers = s.timers
      ∧ (State.writeStatusWords k n s).sets = s.sets
      ∧ (State.writeStatusWords k n s).motion = s.motion
      ∧ (State.writeStatusWords k n s).traction = s.traction
      ∧ (State.writeStatusWords k n s).bridges = s.bridges
      ∧ (State.writeStatusWords k n s).balance = s.balance
      ∧ (State.writeStatusWords k n s).radio = s.radio
      ∧ (State.writeStatusWords k n s).sound = s.sound
      ∧ (State.writeStatusWords k n s).lamps = s.lamps
      ∧ (State.writeStatusWords k n s).supply = s.supply := ⟨writeStatusWords_keeps (·.pending) (by
    simp) _ _ _, writeStatusWords_keeps (·.clock) (by simp) _ _ _, writeStatusWords_keeps (·.free)
    (by simp) _ _ _, writeStatusWords_keeps (·.lastGranted) (by simp) _ _ _, writeStatusWords_keeps
    (·.port) (by simp) _ _ _, writeStatusWords_keeps (·.orders) (by simp) _ _ _,
    writeStatusWords_keeps (·.status) (by simp) _ _ _, writeStatusWords_keeps (·.timers) (by simp) _
    _ _, writeStatusWords_keeps (·.sets) (by simp) _ _ _, writeStatusWords_keeps (·.motion) (by
    simp) _ _ _, writeStatusWords_keeps (·.traction) (by simp) _ _ _, writeStatusWords_keeps
    (·.bridges) (by simp) _ _ _, writeStatusWords_keeps (·.balance) (by simp) _ _ _,
    writeStatusWords_keeps (·.radio) (by simp) _ _ _, writeStatusWords_keeps (·.sound) (by simp) _ _
    _, writeStatusWords_keeps (·.lamps) (by simp) _ _ _, writeStatusWords_keeps (·.supply) (by simp)
    _ _ _⟩

@[simp] theorem State.finishUpdate_frame (s : State) (k : Nat) :
    (s.finishUpdate k).pending = s.pending ∧ (s.finishUpdate k).clock = s.clock
      ∧ (s.finishUpdate k).free = s.free ∧ (s.finishUpdate k).port = s.port
      ∧ (s.finishUpdate k).orders = s.orders ∧ (s.finishUpdate k).timers = s.timers
      ∧ (s.finishUpdate k).sets = s.sets ∧ (s.finishUpdate k).motion = s.motion
      ∧ (s.finishUpdate k).traction = s.traction ∧ (s.finishUpdate k).bridges = s.bridges
      ∧ (s.finishUpdate k).balance = s.balance ∧ (s.finishUpdate k).radio = s.radio
      ∧ (s.finishUpdate k).sound = s.sound ∧ (s.finishUpdate k).lamps = s.lamps
      ∧ (s.finishUpdate k).supply = s.supply := by
  simp only [State.finishUpdate]
  repeat' split
  all_goals simp

@[simp] theorem State.emptySegment_frame (s : State) (clip : Nat) (second : Bool) :
    (s.emptySegment clip second).pending = s.pending
      ∧ (s.emptySegment clip second).clock = s.clock ∧ (s.emptySegment clip second).free = s.free
      ∧ (s.emptySegment clip second).lastGranted = s.lastGranted
      ∧ (s.emptySegment clip second).orders = s.orders
      ∧ (s.emptySegment clip second).status = s.status
      ∧ (s.emptySegment clip second).timers = s.timers
      ∧ (s.emptySegment clip second).sets = s.sets
      ∧ (s.emptySegment clip second).motion = s.motion
      ∧ (s.emptySegment clip second).traction = s.traction
      ∧ (s.emptySegment clip second).bridges = s.bridges
      ∧ (s.emptySegment clip second).balance = s.balance
      ∧ (s.emptySegment clip second).radio = s.radio
      ∧ (s.emptySegment clip second).sound = s.sound
      ∧ (s.emptySegment clip second).lamps = s.lamps
      ∧ (s.emptySegment clip second).supply = s.supply := by
  simp only [State.emptySegment]
  repeat' split
  all_goals simp

@[simp] theorem State.resetAccess_frame (s : State) (t : ResetTask) :
    (s.resetAccess t).1.pending = s.pending ∧ (s.resetAccess t).1.clock = s.clock
      ∧ (s.resetAccess t).1.free = s.free ∧ (s.resetAccess t).1.orders = s.orders
      ∧ (s.resetAccess t).1.timers = s.timers ∧ (s.resetAccess t).1.sets = s.sets
      ∧ (s.resetAccess t).1.motion = s.motion ∧ (s.resetAccess t).1.traction = s.traction
      ∧ (s.resetAccess t).1.bridges = s.bridges ∧ (s.resetAccess t).1.balance = s.balance
      ∧ (s.resetAccess t).1.sound = s.sound ∧ (s.resetAccess t).1.lamps = s.lamps
      ∧ (s.resetAccess t).1.supply = s.supply := by
  simp only [State.resetAccess]
  repeat' split
  all_goals simp

@[simp] theorem State.resetTask_frame (s : State) (t : ResetTask) :
    (s.resetTask t).pending = s.pending ∧ (s.resetTask t).clock = s.clock
      ∧ (s.resetTask t).free = s.free ∧ (s.resetTask t).orders = s.orders
      ∧ (s.resetTask t).timers = s.timers ∧ (s.resetTask t).sets = s.sets
      ∧ (s.resetTask t).motion = s.motion ∧ (s.resetTask t).traction = s.traction
      ∧ (s.resetTask t).bridges = s.bridges ∧ (s.resetTask t).balance = s.balance
      ∧ (s.resetTask t).sound = s.sound ∧ (s.resetTask t).lamps = s.lamps
      ∧ (s.resetTask t).supply = s.supply := by
  simp only [State.resetTask]
  repeat' split
  all_goals simp

@[simp] theorem State.endReset_frame (s : State) (j : ResetJob) :
    (s.endReset j).pending = s.pending ∧ (s.endReset j).clock = s.clock
      ∧ (s.endReset j).free = s.free ∧ (s.endReset j).xm = s.xm
      ∧ (s.endReset j).lastGranted = s.lastGranted ∧ (s.endReset j).timers = s.timers
      ∧ (s.endReset j).sets = s.sets ∧ (s.endReset j).motion = s.motion
      ∧ (s.endReset j).traction = s.traction ∧ (s.endReset j).bridges = s.bridges
      ∧ (s.endReset j).balance = s.balance ∧ (s.endReset j).radio = s.radio
      ∧ (s.endReset j).sound = s.sound ∧ (s.endReset j).lamps = s.lamps
      ∧ (s.endReset j).supply = s.supply := by
  simp only [State.endReset]
  repeat' split
  all_goals simp

end Sys2Proof.Machine
end

