-- ==== Sys2Proof/Laws/Commands.lean ====
section
/-! SUPPORT. The frame of each command and of the idle step: the blocks of the state it leaves as they
were, whatever the state. A block that a frame does not name may change. -/

namespace Sys2Proof.Machine



/-! ## Host port -/

@[simp] theorem writeMemory_frame (s : State) (addr : BitVec 16) (data : List Byte) :
    (writeMemory addr data s).pending = s.pending ∧ (writeMemory addr data s).clock = s.clock
      ∧ (writeMemory addr data s).orders = s.orders ∧ (writeMemory addr data s).status = s.status
      ∧ (writeMemory addr data s).timers = s.timers ∧ (writeMemory addr data s).sets = s.sets
      ∧ (writeMemory addr data s).motion = s.motion
      ∧ (writeMemory addr data s).traction = s.traction
      ∧ (writeMemory addr data s).bridges = s.bridges
      ∧ (writeMemory addr data s).balance = s.balance ∧ (writeMemory addr data s).radio = s.radio
      ∧ (writeMemory addr data s).sound = s.sound ∧ (writeMemory addr data s).lamps = s.lamps
      ∧ (writeMemory addr data s).supply = s.supply := by
  simp [writeMemory]

@[simp] theorem readMemory_frame (s : State) (addr : BitVec 16) (count : Nat) :
    (readMemory addr count s).pending = s.pending ∧ (readMemory addr count s).clock = s.clock
      ∧ (readMemory addr count s).xm = s.xm ∧ (readMemory addr count s).orders = s.orders
      ∧ (readMemory addr count s).status = s.status ∧ (readMemory addr count s).timers = s.timers
      ∧ (readMemory addr count s).sets = s.sets ∧ (readMemory addr count s).motion = s.motion
      ∧ (readMemory addr count s).traction = s.traction
      ∧ (readMemory addr count s).bridges = s.bridges
      ∧ (readMemory addr count s).balance = s.balance ∧ (readMemory addr count s).radio = s.radio
      ∧ (readMemory addr count s).sound = s.sound ∧ (readMemory addr count s).lamps = s.lamps
      ∧ (readMemory addr count s).supply = s.supply := by
  simp [readMemory]

@[simp] theorem invalidCommand_frame (s : State) (command : Byte) (more : Nat) :
    (invalidCommand command more s).pending = s.pending
      ∧ (invalidCommand command more s).clock = s.clock
      ∧ (invalidCommand command more s).free = s.free ∧ (invalidCommand command more s).xm = s.xm
      ∧ (invalidCommand command more s).lastGranted = s.lastGranted
      ∧ (invalidCommand command more s).orders = s.orders
      ∧ (invalidCommand command more s).status = s.status
      ∧ (invalidCommand command more s).timers = s.timers
      ∧ (invalidCommand command more s).sets = s.sets
      ∧ (invalidCommand command more s).motion = s.motion
      ∧ (invalidCommand command more s).traction = s.traction
      ∧ (invalidCommand command more s).bridges = s.bridges
      ∧ (invalidCommand command more s).balance = s.balance
      ∧ (invalidCommand command more s).radio = s.radio
      ∧ (invalidCommand command more s).sound = s.sound
      ∧ (invalidCommand command more s).lamps = s.lamps
      ∧ (invalidCommand command more s).supply = s.supply := by
  simp [invalidCommand]

@[simp] theorem registerWriteOther_frame (s : State) (number : Byte) (value : Reg) :
    (registerWriteOther number value s).pending = s.pending
      ∧ (registerWriteOther number value s).clock = s.clock
      ∧ (registerWriteOther number value s).xm = s.xm
      ∧ (registerWriteOther number value s).lastGranted = s.lastGranted
      ∧ (registerWriteOther number value s).orders = s.orders
      ∧ (registerWriteOther number value s).status = s.status
      ∧ (registerWriteOther number value s).timers = s.timers
      ∧ (registerWriteOther number value s).sets = s.sets
      ∧ (registerWriteOther number value s).motion = s.motion
      ∧ (registerWriteOther number value s).traction = s.traction
      ∧ (registerWriteOther number value s).bridges = s.bridges
      ∧ (registerWriteOther number value s).balance = s.balance
      ∧ (registerWriteOther number value s).radio = s.radio
      ∧ (registerWriteOther number value s).sound = s.sound
      ∧ (registerWriteOther number value s).lamps = s.lamps
      ∧ (registerWriteOther number value s).supply = s.supply := by
  simp [registerWriteOther]

@[simp] theorem noticeWrite_frame (s : State) (value : Reg) :
    (noticeWrite value s).pending = s.pending ∧ (noticeWrite value s).clock = s.clock
      ∧ (noticeWrite value s).xm = s.xm ∧ (noticeWrite value s).lastGranted = s.lastGranted
      ∧ (noticeWrite value s).orders = s.orders ∧ (noticeWrite value s).status = s.status
      ∧ (noticeWrite value s).timers = s.timers ∧ (noticeWrite value s).sets = s.sets
      ∧ (noticeWrite value s).motion = s.motion ∧ (noticeWrite value s).traction = s.traction
      ∧ (noticeWrite value s).bridges = s.bridges ∧ (noticeWrite value s).balance = s.balance
      ∧ (noticeWrite value s).radio = s.radio ∧ (noticeWrite value s).sound = s.sound
      ∧ (noticeWrite value s).lamps = s.lamps ∧ (noticeWrite value s).supply = s.supply := by
  simp [noticeWrite]

@[simp] theorem noticeMaskWrite_frame (s : State) (value : Reg) :
    (noticeMaskWrite value s).pending = s.pending ∧ (noticeMaskWrite value s).clock = s.clock
      ∧ (noticeMaskWrite value s).xm = s.xm
      ∧ (noticeMaskWrite value s).lastGranted = s.lastGranted
      ∧ (noticeMaskWrite value s).orders = s.orders ∧ (noticeMaskWrite value s).status = s.status
      ∧ (noticeMaskWrite value s).timers = s.timers ∧ (noticeMaskWrite value s).sets = s.sets
      ∧ (noticeMaskWrite value s).motion = s.motion
      ∧ (noticeMaskWrite value s).traction = s.traction
      ∧ (noticeMaskWrite value s).bridges = s.bridges
      ∧ (noticeMaskWrite value s).balance = s.balance ∧ (noticeMaskWrite value s).radio = s.radio
      ∧ (noticeMaskWrite value s).sound = s.sound ∧ (noticeMaskWrite value s).lamps = s.lamps
      ∧ (noticeMaskWrite value s).supply = s.supply := by
  simp [noticeMaskWrite]

/-! ## Run state -/

@[simp] theorem State.requestStart_frame (s : State) :
    s.requestStart.pending = s.pending ∧ s.requestStart.clock = s.clock
      ∧ s.requestStart.free = s.free ∧ s.requestStart.xm = s.xm
      ∧ s.requestStart.lastGranted = s.lastGranted ∧ s.requestStart.orders = s.orders
      ∧ s.requestStart.status = s.status ∧ s.requestStart.timers = s.timers
      ∧ s.requestStart.sets = s.sets ∧ s.requestStart.motion = s.motion
      ∧ s.requestStart.traction = s.traction ∧ s.requestStart.bridges = s.bridges
      ∧ s.requestStart.balance = s.balance ∧ s.requestStart.radio = s.radio
      ∧ s.requestStart.sound = s.sound ∧ s.requestStart.lamps = s.lamps
      ∧ s.requestStart.supply = s.supply := by
  simp only [State.requestStart]
  repeat' split
  all_goals simp

@[simp] theorem start_frame (s : State) :
    (start s).pending = s.pending ∧ (start s).clock = s.clock ∧ (start s).xm = s.xm
      ∧ (start s).lastGranted = s.lastGranted ∧ (start s).orders = s.orders
      ∧ (start s).status = s.status ∧ (start s).timers = s.timers ∧ (start s).sets = s.sets
      ∧ (start s).motion = s.motion ∧ (start s).traction = s.traction
      ∧ (start s).bridges = s.bridges ∧ (start s).balance = s.balance ∧ (start s).radio = s.radio
      ∧ (start s).sound = s.sound ∧ (start s).lamps = s.lamps ∧ (start s).supply = s.supply := by
  simp [start]

@[simp] theorem State.endStage_frame (s : State) (j : StartJob) :
    (s.endStage j).1.pending = s.pending ∧ (s.endStage j).1.clock = s.clock
      ∧ (s.endStage j).1.free = s.free ∧ (s.endStage j).1.lastGranted = s.lastGranted
      ∧ (s.endStage j).1.sets = s.sets ∧ (s.endStage j).1.balance = s.balance := by
  simp only [State.endStage]
  repeat' split
  all_goals simp

@[simp] theorem State.endLoads_frame (s : State) (n : Nat) (j : StartJob) :
    (State.endLoads n s j).1.pending = s.pending ∧ (State.endLoads n s j).1.clock = s.clock
      ∧ (State.endLoads n s j).1.free = s.free ∧ (State.endLoads n s j).1.sets = s.sets
      ∧ (State.endLoads n s j).1.balance = s.balance := by
  induction n generalizing s j with
  | zero => simp [State.endLoads]
  | succ n ih =>
    simp only [State.endLoads]
    split
    · simp
    · simp [ih]

@[simp] theorem startEnd_frame (s : State) :
    (startEnd s).pending = s.pending ∧ (startEnd s).clock = s.clock := by
  simp only [startEnd]
  repeat' split
  all_goals simp

@[simp] theorem startRefused_frame (s : State) :
    (startRefused s).pending = s.pending ∧ (startRefused s).clock = s.clock
      ∧ (startRefused s).free = s.free ∧ (startRefused s).sets = s.sets
      ∧ (startRefused s).balance = s.balance := by
  simp only [startRefused]
  repeat' split
  all_goals simp

@[simp] theorem State.requestStop_frame (s : State) :
    s.requestStop.pending = s.pending ∧ s.requestStop.clock = s.clock
      ∧ s.requestStop.timers = s.timers ∧ s.requestStop.motion = s.motion
      ∧ s.requestStop.supply = s.supply := by
  simp only [State.requestStop]
  repeat' split
  all_goals simp

@[simp] theorem teardown_frame (s : State) :
    (teardown s).pending = s.pending ∧ (teardown s).clock = s.clock
      ∧ (teardown s).timers = s.timers ∧ (teardown s).motion = s.motion
      ∧ (teardown s).supply = s.supply := by
  simp [teardown]

/-! ## Resets -/

@[simp] theorem State.resetWith_frame (s : State) (tasks : List ResetTask) :
    (s.resetWith tasks).pending = s.pending ∧ (s.resetWith tasks).free = s.free
      ∧ (s.resetWith tasks).xm = s.xm := by
  simp [State.resetWith]

@[simp] theorem State.resetKeeping_frame (s : State) (cause : Byte) :
    (s.resetKeeping cause).pending = s.pending ∧ (s.resetKeeping cause).free = s.free
      ∧ (s.resetKeeping cause).xm = s.xm := by
  simp [State.resetKeeping]

@[simp] theorem powerReset_frame (s : State) :
    (powerReset s).pending = s.pending ∧ (powerReset s).free = s.free ∧ (powerReset s).xm = s.xm := by
  simp [powerReset]

@[simp] theorem brownoutReset_frame (s : State) :
    (brownoutReset s).pending = s.pending ∧ (brownoutReset s).free = s.free
      ∧ (brownoutReset s).xm = s.xm := by
  simp [brownoutReset]

@[simp] theorem softReset_frame (s : State) :
    (softReset s).pending = s.pending ∧ (softReset s).xm = s.xm := by
  simp [softReset]

@[simp] theorem resetRewritesEnd_frame (s : State) :
    (resetRewritesEnd s).pending = s.pending ∧ (resetRewritesEnd s).clock = s.clock
      ∧ (resetRewritesEnd s).free = s.free ∧ (resetRewritesEnd s).timers = s.timers
      ∧ (resetRewritesEnd s).sets = s.sets ∧ (resetRewritesEnd s).motion = s.motion
      ∧ (resetRewritesEnd s).traction = s.traction ∧ (resetRewritesEnd s).bridges = s.bridges
      ∧ (resetRewritesEnd s).balance = s.balance ∧ (resetRewritesEnd s).sound = s.sound
      ∧ (resetRewritesEnd s).lamps = s.lamps ∧ (resetRewritesEnd s).supply = s.supply := by
  simp only [resetRewritesEnd]
  split
  · simp only [State.endReset_frame, State.finishUpdate_frame]
    exact ⟨foldl_keeps (·.pending) (by simp) _ s, foldl_keeps (·.clock) (by simp) _ s, foldl_keeps
    (·.free) (by simp) _ s, foldl_keeps (·.timers) (by simp) _ s, foldl_keeps (·.sets) (by simp) _
    s, foldl_keeps (·.motion) (by simp) _ s, foldl_keeps (·.traction) (by simp) _ s, foldl_keeps
    (·.bridges) (by simp) _ s, foldl_keeps (·.balance) (by simp) _ s, foldl_keeps (·.sound) (by
    simp) _ s, foldl_keeps (·.lamps) (by simp) _ s, foldl_keeps (·.supply) (by simp) _ s⟩
  · simp

/-! ## Order engine and status writer -/

@[simp] theorem sweepWrite_frame (s : State) (value : Reg) :
    (sweepWrite value s).pending = s.pending ∧ (sweepWrite value s).clock = s.clock
      ∧ (sweepWrite value s).xm = s.xm ∧ (sweepWrite value s).lastGranted = s.lastGranted
      ∧ (sweepWrite value s).status = s.status ∧ (sweepWrite value s).timers = s.timers
      ∧ (sweepWrite value s).sets = s.sets ∧ (sweepWrite value s).motion = s.motion
      ∧ (sweepWrite value s).traction = s.traction ∧ (sweepWrite value s).bridges = s.bridges
      ∧ (sweepWrite value s).balance = s.balance ∧ (sweepWrite value s).radio = s.radio
      ∧ (sweepWrite value s).sound = s.sound ∧ (sweepWrite value s).lamps = s.lamps
      ∧ (sweepWrite value s).supply = s.supply := by
  simp [sweepWrite]

@[simp] theorem sweepTimerExpiry_frame (s : State) :
    (sweepTimerExpiry s).pending = s.pending ∧ (sweepTimerExpiry s).free = s.free
      ∧ (sweepTimerExpiry s).xm = s.xm ∧ (sweepTimerExpiry s).lastGranted = s.lastGranted
      ∧ (sweepTimerExpiry s).status = s.status ∧ (sweepTimerExpiry s).sets = s.sets
      ∧ (sweepTimerExpiry s).motion = s.motion ∧ (sweepTimerExpiry s).traction = s.traction
      ∧ (sweepTimerExpiry s).bridges = s.bridges ∧ (sweepTimerExpiry s).balance = s.balance
      ∧ (sweepTimerExpiry s).radio = s.radio ∧ (sweepTimerExpiry s).sound = s.sound
      ∧ (sweepTimerExpiry s).lamps = s.lamps ∧ (sweepTimerExpiry s).supply = s.supply := by
  simp only [sweepTimerExpiry]
  repeat' split
  all_goals simp

@[simp] theorem sweepEnd_frame (s : State) :
    (sweepEnd s).pending = s.pending ∧ (sweepEnd s).clock = s.clock ∧ (sweepEnd s).free = s.free
      ∧ (sweepEnd s).xm = s.xm ∧ (sweepEnd s).port = s.port ∧ (sweepEnd s).status = s.status
      ∧ (sweepEnd s).timers = s.timers ∧ (sweepEnd s).sets = s.sets
      ∧ (sweepEnd s).motion = s.motion ∧ (sweepEnd s).traction = s.traction
      ∧ (sweepEnd s).bridges = s.bridges ∧ (sweepEnd s).balance = s.balance
      ∧ (sweepEnd s).radio = s.radio ∧ (sweepEnd s).sound = s.sound ∧ (sweepEnd s).lamps = s.lamps
      ∧ (sweepEnd s).supply = s.supply := by
  simp only [sweepEnd]
  repeat' split
  all_goals simp

@[simp] theorem slotTake_frame (s : State) :
    (slotTake s).pending = s.pending ∧ (slotTake s).clock = s.clock ∧ (slotTake s).free = s.free
      ∧ (slotTake s).status = s.status ∧ (slotTake s).timers = s.timers
      ∧ (slotTake s).sets = s.sets ∧ (slotTake s).motion = s.motion
      ∧ (slotTake s).traction = s.traction ∧ (slotTake s).bridges = s.bridges
      ∧ (slotTake s).balance = s.balance ∧ (slotTake s).radio = s.radio
      ∧ (slotTake s).sound = s.sound ∧ (slotTake s).lamps = s.lamps
      ∧ (slotTake s).supply = s.supply := by
  simp only [slotTake]
  repeat' split
  all_goals simp

@[simp] theorem statusTimerExpiry_frame (s : State) :
    (statusTimerExpiry s).pending = s.pending ∧ (statusTimerExpiry s).free = s.free
      ∧ (statusTimerExpiry s).xm = s.xm ∧ (statusTimerExpiry s).lastGranted = s.lastGranted
      ∧ (statusTimerExpiry s).port = s.port ∧ (statusTimerExpiry s).orders = s.orders
      ∧ (statusTimerExpiry s).sets = s.sets ∧ (statusTimerExpiry s).motion = s.motion
      ∧ (statusTimerExpiry s).traction = s.traction ∧ (statusTimerExpiry s).bridges = s.bridges
      ∧ (statusTimerExpiry s).balance = s.balance ∧ (statusTimerExpiry s).radio = s.radio
      ∧ (statusTimerExpiry s).sound = s.sound ∧ (statusTimerExpiry s).lamps = s.lamps
      ∧ (statusTimerExpiry s).supply = s.supply := by
  simp only [statusTimerExpiry]
  repeat' split
  all_goals simp

@[simp] theorem statusUpdateEnd_frame (s : State) :
    (statusUpdateEnd s).pending = s.pending ∧ (statusUpdateEnd s).clock = s.clock
      ∧ (statusUpdateEnd s).free = s.free ∧ (statusUpdateEnd s).port = s.port
      ∧ (statusUpdateEnd s).orders = s.orders ∧ (statusUpdateEnd s).timers = s.timers
      ∧ (statusUpdateEnd s).sets = s.sets ∧ (statusUpdateEnd s).motion = s.motion
      ∧ (statusUpdateEnd s).traction = s.traction ∧ (statusUpdateEnd s).bridges = s.bridges
      ∧ (statusUpdateEnd s).balance = s.balance ∧ (statusUpdateEnd s).radio = s.radio
      ∧ (statusUpdateEnd s).sound = s.sound ∧ (statusUpdateEnd s).lamps = s.lamps
      ∧ (statusUpdateEnd s).supply = s.supply := by
  simp only [statusUpdateEnd]
  repeat' split
  all_goals simp

/-! ## Orders -/

@[simp] theorem State.requestRefresh_frame (s : State) (o : TakenOrder) :
    (s.requestRefresh o).pending = s.pending ∧ (s.requestRefresh o).clock = s.clock
      ∧ (s.requestRefresh o).free = s.free ∧ (s.requestRefresh o).timers = s.timers
      ∧ (s.requestRefresh o).motion = s.motion ∧ (s.requestRefresh o).balance = s.balance
      ∧ (s.requestRefresh o).supply = s.supply := by
  simp [State.requestRefresh]

@[simp] theorem throttleOrder_frame (s : State) :
    (throttleOrder s).pending = s.pending ∧ (throttleOrder s).clock = s.clock
      ∧ (throttleOrder s).free = s.free ∧ (throttleOrder s).timers = s.timers
      ∧ (throttleOrder s).sets = s.sets ∧ (throttleOrder s).motion = s.motion
      ∧ (throttleOrder s).balance = s.balance ∧ (throttleOrder s).lamps = s.lamps
      ∧ (throttleOrder s).supply = s.supply := by
  simp only [throttleOrder, State.runOrder]
  repeat' split
  all_goals simp

@[simp] theorem functions_frame (s : State) :
    (functions s).pending = s.pending ∧ (functions s).clock = s.clock
      ∧ (functions s).free = s.free ∧ (functions s).timers = s.timers
      ∧ (functions s).sets = s.sets ∧ (functions s).motion = s.motion
      ∧ (functions s).traction = s.traction ∧ (functions s).bridges = s.bridges
      ∧ (functions s).balance = s.balance ∧ (functions s).supply = s.supply := by
  simp only [functions, State.runOrder]
  repeat' split
  all_goals simp

@[simp] theorem stopOrder_frame (s : State) :
    (stopOrder s).pending = s.pending ∧ (stopOrder s).clock = s.clock
      ∧ (stopOrder s).free = s.free ∧ (stopOrder s).timers = s.timers
      ∧ (stopOrder s).sets = s.sets ∧ (stopOrder s).motion = s.motion
      ∧ (stopOrder s).lamps = s.lamps ∧ (stopOrder s).supply = s.supply := by
  simp only [stopOrder, State.runOrder]
  repeat' split
  all_goals simp

@[simp] theorem setAction_frame (s : State) :
    (setAction s).pending = s.pending ∧ (setAction s).clock = s.clock
      ∧ (setAction s).free = s.free ∧ (setAction s).timers = s.timers
      ∧ (setAction s).motion = s.motion ∧ (setAction s).balance = s.balance
      ∧ (setAction s).supply = s.supply := by
  simp only [setAction, State.handOver]
  repeat' split
  all_goals simp

@[simp] theorem invoke_frame (s : State) :
    (invoke s).pending = s.pending ∧ (invoke s).clock = s.clock ∧ (invoke s).timers = s.timers
      ∧ (invoke s).motion = s.motion ∧ (invoke s).supply = s.supply := by
  simp [invoke]

@[simp] theorem switchSet_frame (s : State) :
    (switchSet s).pending = s.pending ∧ (switchSet s).clock = s.clock
      ∧ (switchSet s).timers = s.timers ∧ (switchSet s).motion = s.motion
      ∧ (switchSet s).supply = s.supply := by
  simp [switchSet]

@[simp] theorem returnSet_frame (s : State) :
    (returnSet s).pending = s.pending ∧ (returnSet s).clock = s.clock
      ∧ (returnSet s).timers = s.timers ∧ (returnSet s).motion = s.motion
      ∧ (returnSet s).supply = s.supply := by
  simp [returnSet]

@[simp] theorem refreshSet_frame (s : State) :
    (refreshSet s).pending = s.pending ∧ (refreshSet s).clock = s.clock
      ∧ (refreshSet s).timers = s.timers ∧ (refreshSet s).motion = s.motion
      ∧ (refreshSet s).supply = s.supply := by
  simp only [refreshSet, State.handOver]
  repeat' split
  all_goals simp

@[simp] theorem loadLamps_frame (s : State) :
    (loadLamps s).pending = s.pending ∧ (loadLamps s).clock = s.clock
      ∧ (loadLamps s).free = s.free ∧ (loadLamps s).status = s.status
      ∧ (loadLamps s).timers = s.timers ∧ (loadLamps s).sets = s.sets
      ∧ (loadLamps s).motion = s.motion ∧ (loadLamps s).traction = s.traction
      ∧ (loadLamps s).bridges = s.bridges ∧ (loadLamps s).balance = s.balance
      ∧ (loadLamps s).radio = s.radio ∧ (loadLamps s).sound = s.sound
      ∧ (loadLamps s).supply = s.supply := by
  simp only [loadLamps, State.runOrder, State.loadLampsOrder]
  repeat' split
  all_goals simp

@[simp] theorem loadRadio_frame (s : State) :
    (loadRadio s).pending = s.pending ∧ (loadRadio s).clock = s.clock
      ∧ (loadRadio s).free = s.free ∧ (loadRadio s).timers = s.timers
      ∧ (loadRadio s).sets = s.sets ∧ (loadRadio s).motion = s.motion
      ∧ (loadRadio s).balance = s.balance ∧ (loadRadio s).lamps = s.lamps
      ∧ (loadRadio s).supply = s.supply := by
  simp only [loadRadio, State.runOrder, State.loadRadioOrder]
  repeat' split
  all_goals simp

@[simp] theorem play_frame (s : State) :
    (play s).pending = s.pending ∧ (play s).clock = s.clock ∧ (play s).free = s.free
      ∧ (play s).status = s.status ∧ (play s).timers = s.timers ∧ (play s).sets = s.sets
      ∧ (play s).motion = s.motion ∧ (play s).traction = s.traction ∧ (play s).bridges = s.bridges
      ∧ (play s).balance = s.balance ∧ (play s).radio = s.radio ∧ (play s).lamps = s.lamps
      ∧ (play s).supply = s.supply := by
  simp only [play, State.runOrder]
  repeat' split
  all_goals simp

@[simp] theorem hush_frame (s : State) :
    (hush s).pending = s.pending ∧ (hush s).clock = s.clock ∧ (hush s).free = s.free
      ∧ (hush s).status = s.status ∧ (hush s).timers = s.timers ∧ (hush s).sets = s.sets
      ∧ (hush s).motion = s.motion ∧ (hush s).traction = s.traction ∧ (hush s).bridges = s.bridges
      ∧ (hush s).balance = s.balance ∧ (hush s).radio = s.radio ∧ (hush s).lamps = s.lamps
      ∧ (hush s).supply = s.supply := by
  simp only [hush, State.runOrder]
  repeat' split
  all_goals simp

@[simp] theorem balance_frame (s : State) :
    (balance s).pending = s.pending ∧ (balance s).clock = s.clock ∧ (balance s).free = s.free
      ∧ (balance s).timers = s.timers ∧ (balance s).sets = s.sets ∧ (balance s).motion = s.motion
      ∧ (balance s).lamps = s.lamps ∧ (balance s).supply = s.supply := by
  simp only [balance]
  repeat' split
  all_goals simp

@[simp] theorem holdBalance_frame (s : State) :
    (holdBalance s).pending = s.pending ∧ (holdBalance s).clock = s.clock
      ∧ (holdBalance s).free = s.free ∧ (holdBalance s).status = s.status
      ∧ (holdBalance s).timers = s.timers ∧ (holdBalance s).sets = s.sets
      ∧ (holdBalance s).motion = s.motion ∧ (holdBalance s).radio = s.radio
      ∧ (holdBalance s).sound = s.sound ∧ (holdBalance s).lamps = s.lamps
      ∧ (holdBalance s).supply = s.supply := by
  simp only [holdBalance, State.runOrder]
  repeat' split
  all_goals simp

@[simp] theorem resumeBalance_frame (s : State) :
    (resumeBalance s).pending = s.pending ∧ (resumeBalance s).clock = s.clock
      ∧ (resumeBalance s).free = s.free ∧ (resumeBalance s).status = s.status
      ∧ (resumeBalance s).timers = s.timers ∧ (resumeBalance s).sets = s.sets
      ∧ (resumeBalance s).motion = s.motion ∧ (resumeBalance s).traction = s.traction
      ∧ (resumeBalance s).bridges = s.bridges ∧ (resumeBalance s).radio = s.radio
      ∧ (resumeBalance s).sound = s.sound ∧ (resumeBalance s).lamps = s.lamps
      ∧ (resumeBalance s).supply = s.supply := by
  simp only [resumeBalance, State.runOrder]
  repeat' split
  all_goals simp

@[simp] theorem clearFaults_frame (s : State) :
    (clearFaults s).pending = s.pending ∧ (clearFaults s).clock = s.clock
      ∧ (clearFaults s).free = s.free ∧ (clearFaults s).timers = s.timers
      ∧ (clearFaults s).sets = s.sets ∧ (clearFaults s).motion = s.motion
      ∧ (clearFaults s).balance = s.balance ∧ (clearFaults s).supply = s.supply := by
  simp only [clearFaults, State.runOrder]
  repeat' split
  all_goals simp

@[simp] theorem leaseTake_frame (s : State) :
    (leaseTake s).pending = s.pending ∧ (leaseTake s).clock = s.clock
      ∧ (leaseTake s).free = s.free ∧ (leaseTake s).status = s.status
      ∧ (leaseTake s).timers = s.timers ∧ (leaseTake s).sets = s.sets
      ∧ (leaseTake s).motion = s.motion ∧ (leaseTake s).traction = s.traction
      ∧ (leaseTake s).bridges = s.bridges ∧ (leaseTake s).balance = s.balance
      ∧ (leaseTake s).sound = s.sound ∧ (leaseTake s).lamps = s.lamps
      ∧ (leaseTake s).supply = s.supply := by
  simp only [leaseTake, State.runOrder]
  repeat' split
  all_goals simp

@[simp] theorem leaseRelease_frame (s : State) :
    (leaseRelease s).pending = s.pending ∧ (leaseRelease s).clock = s.clock
      ∧ (leaseRelease s).free = s.free ∧ (leaseRelease s).timers = s.timers
      ∧ (leaseRelease s).sets = s.sets ∧ (leaseRelease s).motion = s.motion
      ∧ (leaseRelease s).balance = s.balance ∧ (leaseRelease s).lamps = s.lamps
      ∧ (leaseRelease s).supply = s.supply := by
  simp only [leaseRelease, State.runOrder]
  repeat' split
  all_goals simp

/-! ## Motion and traction -/

@[simp] theorem axleEdge_frame (s : State) (rising : Bool) (captureTime : BitVec 32) :
    (axleEdge rising captureTime s).pending = s.pending
      ∧ (axleEdge rising captureTime s).free = s.free ∧ (axleEdge rising captureTime s).xm = s.xm
      ∧ (axleEdge rising captureTime s).lastGranted = s.lastGranted
      ∧ (axleEdge rising captureTime s).port = s.port
      ∧ (axleEdge rising captureTime s).orders = s.orders
      ∧ (axleEdge rising captureTime s).status = s.status
      ∧ (axleEdge rising captureTime s).timers = s.timers
      ∧ (axleEdge rising captureTime s).sets = s.sets
      ∧ (axleEdge rising captureTime s).traction = s.traction
      ∧ (axleEdge rising captureTime s).bridges = s.bridges
      ∧ (axleEdge rising captureTime s).balance = s.balance
      ∧ (axleEdge rising captureTime s).radio = s.radio
      ∧ (axleEdge rising captureTime s).sound = s.sound
      ∧ (axleEdge rising captureTime s).lamps = s.lamps
      ∧ (axleEdge rising captureTime s).supply = s.supply := by
  simp only [axleEdge]
  repeat' split
  all_goals simp

@[simp] theorem regulationStep_frame (s : State) :
    (regulationStep s).pending = s.pending ∧ (regulationStep s).free = s.free
      ∧ (regulationStep s).sets = s.sets ∧ (regulationStep s).lamps = s.lamps
      ∧ (regulationStep s).supply = s.supply := by
  simp [regulationStep]

@[simp] theorem balanceHeldTimerExpiry_frame (s : State) :
    (balanceHeldTimerExpiry s).pending = s.pending ∧ (balanceHeldTimerExpiry s).free = s.free
      ∧ (balanceHeldTimerExpiry s).timers = s.timers ∧ (balanceHeldTimerExpiry s).sets = s.sets
      ∧ (balanceHeldTimerExpiry s).motion = s.motion ∧ (balanceHeldTimerExpiry s).lamps = s.lamps
      ∧ (balanceHeldTimerExpiry s).supply = s.supply := by
  simp only [balanceHeldTimerExpiry]
  repeat' split
  all_goals simp

/-! ## Bridges -/

@[simp] theorem pwmPeriod_frame (s : State) :
    (pwmPeriod s).pending = s.pending ∧ (pwmPeriod s).free = s.free ∧ (pwmPeriod s).xm = s.xm
      ∧ (pwmPeriod s).lastGranted = s.lastGranted ∧ (pwmPeriod s).port = s.port
      ∧ (pwmPeriod s).orders = s.orders ∧ (pwmPeriod s).status = s.status
      ∧ (pwmPeriod s).sets = s.sets ∧ (pwmPeriod s).motion = s.motion
      ∧ (pwmPeriod s).traction = s.traction ∧ (pwmPeriod s).balance = s.balance
      ∧ (pwmPeriod s).radio = s.radio ∧ (pwmPeriod s).sound = s.sound
      ∧ (pwmPeriod s).lamps = s.lamps ∧ (pwmPeriod s).supply = s.supply := by
  simp [pwmPeriod]

@[simp] theorem onPhaseEnd_frame (s : State) (id : BridgeId) :
    (onPhaseEnd id s).pending = s.pending ∧ (onPhaseEnd id s).free = s.free
      ∧ (onPhaseEnd id s).xm = s.xm ∧ (onPhaseEnd id s).lastGranted = s.lastGranted
      ∧ (onPhaseEnd id s).port = s.port ∧ (onPhaseEnd id s).orders = s.orders
      ∧ (onPhaseEnd id s).status = s.status ∧ (onPhaseEnd id s).timers = s.timers
      ∧ (onPhaseEnd id s).sets = s.sets ∧ (onPhaseEnd id s).motion = s.motion
      ∧ (onPhaseEnd id s).traction = s.traction ∧ (onPhaseEnd id s).balance = s.balance
      ∧ (onPhaseEnd id s).radio = s.radio ∧ (onPhaseEnd id s).sound = s.sound
      ∧ (onPhaseEnd id s).lamps = s.lamps ∧ (onPhaseEnd id s).supply = s.supply := by
  simp only [onPhaseEnd]
  repeat' split
  all_goals simp

@[simp] theorem deadTimeExpiry_frame (s : State) (id : BridgeId) (leg : Leg) :
    (deadTimeExpiry id leg s).pending = s.pending ∧ (deadTimeExpiry id leg s).free = s.free
      ∧ (deadTimeExpiry id leg s).xm = s.xm
      ∧ (deadTimeExpiry id leg s).lastGranted = s.lastGranted
      ∧ (deadTimeExpiry id leg s).port = s.port ∧ (deadTimeExpiry id leg s).orders = s.orders
      ∧ (deadTimeExpiry id leg s).status = s.status ∧ (deadTimeExpiry id leg s).timers = s.timers
      ∧ (deadTimeExpiry id leg s).sets = s.sets ∧ (deadTimeExpiry id leg s).motion = s.motion
      ∧ (deadTimeExpiry id leg s).traction = s.traction
      ∧ (deadTimeExpiry id leg s).balance = s.balance ∧ (deadTimeExpiry id leg s).radio = s.radio
      ∧ (deadTimeExpiry id leg s).sound = s.sound ∧ (deadTimeExpiry id leg s).lamps = s.lamps
      ∧ (deadTimeExpiry id leg s).supply = s.supply := by
  simp only [deadTimeExpiry]
  repeat' split
  all_goals simp

@[simp] theorem blankingEnd_frame (s : State) (id : BridgeId) :
    (blankingEnd id s).pending = s.pending ∧ (blankingEnd id s).free = s.free
      ∧ (blankingEnd id s).xm = s.xm ∧ (blankingEnd id s).lastGranted = s.lastGranted
      ∧ (blankingEnd id s).port = s.port ∧ (blankingEnd id s).orders = s.orders
      ∧ (blankingEnd id s).status = s.status ∧ (blankingEnd id s).timers = s.timers
      ∧ (blankingEnd id s).sets = s.sets ∧ (blankingEnd id s).motion = s.motion
      ∧ (blankingEnd id s).traction = s.traction ∧ (blankingEnd id s).balance = s.balance
      ∧ (blankingEnd id s).radio = s.radio ∧ (blankingEnd id s).sound = s.sound
      ∧ (blankingEnd id s).lamps = s.lamps ∧ (blankingEnd id s).supply = s.supply := by
  simp only [blankingEnd]
  repeat' split
  all_goals simp

@[simp] theorem chop_frame (s : State) (id : BridgeId) (millivolts : Nat) :
    (chop id millivolts s).pending = s.pending ∧ (chop id millivolts s).clock = s.clock
      ∧ (chop id millivolts s).free = s.free ∧ (chop id millivolts s).xm = s.xm
      ∧ (chop id millivolts s).lastGranted = s.lastGranted ∧ (chop id millivolts s).port = s.port
      ∧ (chop id millivolts s).orders = s.orders ∧ (chop id millivolts s).status = s.status
      ∧ (chop id millivolts s).timers = s.timers ∧ (chop id millivolts s).sets = s.sets
      ∧ (chop id millivolts s).motion = s.motion ∧ (chop id millivolts s).traction = s.traction
      ∧ (chop id millivolts s).balance = s.balance ∧ (chop id millivolts s).radio = s.radio
      ∧ (chop id millivolts s).sound = s.sound ∧ (chop id millivolts s).lamps = s.lamps
      ∧ (chop id millivolts s).supply = s.supply := by
  simp only [chop]
  repeat' split
  all_goals simp

@[simp] theorem shortDetection_frame (s : State) (id : BridgeId) (millivolts since : Nat) :
    (shortDetection id millivolts since s).pending = s.pending
      ∧ (shortDetection id millivolts since s).free = s.free
      ∧ (shortDetection id millivolts since s).timers = s.timers
      ∧ (shortDetection id millivolts since s).sets = s.sets
      ∧ (shortDetection id millivolts since s).motion = s.motion
      ∧ (shortDetection id millivolts since s).lamps = s.lamps
      ∧ (shortDetection id millivolts since s).supply = s.supply := by
  simp only [shortDetection]
  repeat' split
  all_goals simp

/-! ## Radio -/

@[simp] theorem throttleFrame_frame (s : State) :
    (throttleFrame s).pending = s.pending ∧ (throttleFrame s).clock = s.clock
      ∧ (throttleFrame s).free = s.free ∧ (throttleFrame s).orders = s.orders
      ∧ (throttleFrame s).timers = s.timers ∧ (throttleFrame s).sets = s.sets
      ∧ (throttleFrame s).motion = s.motion ∧ (throttleFrame s).balance = s.balance
      ∧ (throttleFrame s).lamps = s.lamps ∧ (throttleFrame s).supply = s.supply := by
  simp only [throttleFrame, State.handleFrame, State.actOn, throttleAct]
  repeat' split
  all_goals simp

@[simp] theorem funcFrame_frame (s : State) :
    (funcFrame s).pending = s.pending ∧ (funcFrame s).clock = s.clock
      ∧ (funcFrame s).free = s.free ∧ (funcFrame s).orders = s.orders
      ∧ (funcFrame s).timers = s.timers ∧ (funcFrame s).sets = s.sets
      ∧ (funcFrame s).motion = s.motion ∧ (funcFrame s).traction = s.traction
      ∧ (funcFrame s).bridges = s.bridges ∧ (funcFrame s).balance = s.balance
      ∧ (funcFrame s).supply = s.supply := by
  simp only [funcFrame, State.handleFrame, State.actOn, funcAct]
  repeat' split
  all_goals simp

@[simp] theorem releaseFrame_frame (s : State) :
    (releaseFrame s).pending = s.pending ∧ (releaseFrame s).clock = s.clock
      ∧ (releaseFrame s).free = s.free ∧ (releaseFrame s).orders = s.orders
      ∧ (releaseFrame s).timers = s.timers ∧ (releaseFrame s).sets = s.sets
      ∧ (releaseFrame s).motion = s.motion ∧ (releaseFrame s).balance = s.balance
      ∧ (releaseFrame s).lamps = s.lamps ∧ (releaseFrame s).supply = s.supply := by
  simp only [releaseFrame, State.handleFrame, State.actOn, releaseAct]
  repeat' split
  all_goals simp

@[simp] theorem stopFrame_frame (s : State) :
    (stopFrame s).pending = s.pending ∧ (stopFrame s).clock = s.clock
      ∧ (stopFrame s).free = s.free ∧ (stopFrame s).timers = s.timers
      ∧ (stopFrame s).sets = s.sets ∧ (stopFrame s).motion = s.motion
      ∧ (stopFrame s).lamps = s.lamps ∧ (stopFrame s).supply = s.supply := by
  simp only [stopFrame, State.handleFrame, State.actOn, stopAct]
  repeat' split
  all_goals simp

@[simp] theorem setFrame_frame (s : State) :
    (setFrame s).pending = s.pending ∧ (setFrame s).clock = s.clock ∧ (setFrame s).free = s.free
      ∧ (setFrame s).timers = s.timers ∧ (setFrame s).motion = s.motion
      ∧ (setFrame s).balance = s.balance ∧ (setFrame s).supply = s.supply := by
  simp only [setFrame, State.handleFrame, State.actOn, setAct]
  repeat' split
  all_goals simp

@[simp] theorem passFrame_frame (s : State) :
    (passFrame s).pending = s.pending ∧ (passFrame s).clock = s.clock
      ∧ (passFrame s).free = s.free ∧ (passFrame s).orders = s.orders
      ∧ (passFrame s).status = s.status ∧ (passFrame s).timers = s.timers
      ∧ (passFrame s).sets = s.sets ∧ (passFrame s).motion = s.motion
      ∧ (passFrame s).traction = s.traction ∧ (passFrame s).bridges = s.bridges
      ∧ (passFrame s).balance = s.balance ∧ (passFrame s).sound = s.sound
      ∧ (passFrame s).lamps = s.lamps ∧ (passFrame s).supply = s.supply := by
  simp only [passFrame, State.handleFrame, State.actOn, passAct]
  repeat' split
  all_goals simp

@[simp] theorem consistJoin_frame (s : State) :
    (consistJoin s).pending = s.pending ∧ (consistJoin s).clock = s.clock
      ∧ (consistJoin s).free = s.free ∧ (consistJoin s).orders = s.orders
      ∧ (consistJoin s).status = s.status ∧ (consistJoin s).timers = s.timers
      ∧ (consistJoin s).sets = s.sets ∧ (consistJoin s).motion = s.motion
      ∧ (consistJoin s).traction = s.traction ∧ (consistJoin s).bridges = s.bridges
      ∧ (consistJoin s).balance = s.balance ∧ (consistJoin s).sound = s.sound
      ∧ (consistJoin s).lamps = s.lamps ∧ (consistJoin s).supply = s.supply := by
  simp only [consistJoin, State.handleFrame, State.actOn, joinAct]
  repeat' split
  all_goals simp

@[simp] theorem consistLeave_frame (s : State) :
    (consistLeave s).pending = s.pending ∧ (consistLeave s).clock = s.clock
      ∧ (consistLeave s).free = s.free ∧ (consistLeave s).orders = s.orders
      ∧ (consistLeave s).status = s.status ∧ (consistLeave s).timers = s.timers
      ∧ (consistLeave s).sets = s.sets ∧ (consistLeave s).motion = s.motion
      ∧ (consistLeave s).traction = s.traction ∧ (consistLeave s).bridges = s.bridges
      ∧ (consistLeave s).balance = s.balance ∧ (consistLeave s).sound = s.sound
      ∧ (consistLeave s).lamps = s.lamps ∧ (consistLeave s).supply = s.supply := by
  simp only [consistLeave, State.handleFrame, State.actOn, leaveAct]
  repeat' split
  all_goals simp

@[simp] theorem beaconFrame_frame (s : State) :
    (beaconFrame s).pending = s.pending ∧ (beaconFrame s).clock = s.clock
      ∧ (beaconFrame s).orders = s.orders ∧ (beaconFrame s).timers = s.timers
      ∧ (beaconFrame s).sets = s.sets ∧ (beaconFrame s).motion = s.motion
      ∧ (beaconFrame s).traction = s.traction ∧ (beaconFrame s).bridges = s.bridges
      ∧ (beaconFrame s).balance = s.balance ∧ (beaconFrame s).lamps = s.lamps
      ∧ (beaconFrame s).supply = s.supply := by
  simp only [beaconFrame, State.handleFrame, State.actOn, beaconAct]
  repeat' split
  all_goals simp

@[simp] theorem serviceWrite_frame (s : State) :
    (serviceWrite s).pending = s.pending ∧ (serviceWrite s).clock = s.clock
      ∧ (serviceWrite s).free = s.free ∧ (serviceWrite s).orders = s.orders
      ∧ (serviceWrite s).status = s.status ∧ (serviceWrite s).timers = s.timers
      ∧ (serviceWrite s).sets = s.sets ∧ (serviceWrite s).motion = s.motion
      ∧ (serviceWrite s).traction = s.traction ∧ (serviceWrite s).bridges = s.bridges
      ∧ (serviceWrite s).balance = s.balance ∧ (serviceWrite s).sound = s.sound
      ∧ (serviceWrite s).lamps = s.lamps ∧ (serviceWrite s).supply = s.supply := by
  simp only [serviceWrite]
  repeat' split
  all_goals simp

@[simp] theorem serviceWriteDone_frame (s : State) :
    (serviceWriteDone s).pending = s.pending ∧ (serviceWriteDone s).clock = s.clock
      ∧ (serviceWriteDone s).free = s.free ∧ (serviceWriteDone s).orders = s.orders
      ∧ (serviceWriteDone s).status = s.status ∧ (serviceWriteDone s).timers = s.timers
      ∧ (serviceWriteDone s).sets = s.sets ∧ (serviceWriteDone s).motion = s.motion
      ∧ (serviceWriteDone s).traction = s.traction ∧ (serviceWriteDone s).bridges = s.bridges
      ∧ (serviceWriteDone s).balance = s.balance ∧ (serviceWriteDone s).sound = s.sound
      ∧ (serviceWriteDone s).lamps = s.lamps ∧ (serviceWriteDone s).supply = s.supply := by
  simp only [serviceWriteDone]
  repeat' split
  all_goals simp

@[simp] theorem rxdByte_frame (s : State) (byte : Byte) (stopBit : Bool) :
    (rxdByte byte stopBit s).pending = s.pending ∧ (rxdByte byte stopBit s).clock = s.clock
      ∧ (rxdByte byte stopBit s).free = s.free ∧ (rxdByte byte stopBit s).xm = s.xm
      ∧ (rxdByte byte stopBit s).lastGranted = s.lastGranted
      ∧ (rxdByte byte stopBit s).port = s.port ∧ (rxdByte byte stopBit s).orders = s.orders
      ∧ (rxdByte byte stopBit s).status = s.status ∧ (rxdByte byte stopBit s).timers = s.timers
      ∧ (rxdByte byte stopBit s).sets = s.sets ∧ (rxdByte byte stopBit s).motion = s.motion
      ∧ (rxdByte byte stopBit s).traction = s.traction
      ∧ (rxdByte byte stopBit s).bridges = s.bridges
      ∧ (rxdByte byte stopBit s).balance = s.balance ∧ (rxdByte byte stopBit s).sound = s.sound
      ∧ (rxdByte byte stopBit s).lamps = s.lamps ∧ (rxdByte byte stopBit s).supply = s.supply := by
  simp only [rxdByte]
  repeat' split
  all_goals simp

@[simp] theorem gapTimerExpiry_frame (s : State) :
    (gapTimerExpiry s).pending = s.pending ∧ (gapTimerExpiry s).free = s.free
      ∧ (gapTimerExpiry s).xm = s.xm ∧ (gapTimerExpiry s).lastGranted = s.lastGranted
      ∧ (gapTimerExpiry s).port = s.port ∧ (gapTimerExpiry s).orders = s.orders
      ∧ (gapTimerExpiry s).status = s.status ∧ (gapTimerExpiry s).timers = s.timers
      ∧ (gapTimerExpiry s).sets = s.sets ∧ (gapTimerExpiry s).motion = s.motion
      ∧ (gapTimerExpiry s).traction = s.traction ∧ (gapTimerExpiry s).bridges = s.bridges
      ∧ (gapTimerExpiry s).balance = s.balance ∧ (gapTimerExpiry s).sound = s.sound
      ∧ (gapTimerExpiry s).lamps = s.lamps ∧ (gapTimerExpiry s).supply = s.supply := by
  simp only [gapTimerExpiry]
  repeat' split
  all_goals simp

@[simp] theorem repeatWindowExpiry_frame (s : State) (sender : BitVec 16) :
    (repeatWindowExpiry sender s).pending = s.pending
      ∧ (repeatWindowExpiry sender s).free = s.free ∧ (repeatWindowExpiry sender s).xm = s.xm
      ∧ (repeatWindowExpiry sender s).lastGranted = s.lastGranted
      ∧ (repeatWindowExpiry sender s).port = s.port
      ∧ (repeatWindowExpiry sender s).orders = s.orders
      ∧ (repeatWindowExpiry sender s).status = s.status
      ∧ (repeatWindowExpiry sender s).timers = s.timers
      ∧ (repeatWindowExpiry sender s).sets = s.sets
      ∧ (repeatWindowExpiry sender s).motion = s.motion
      ∧ (repeatWindowExpiry sender s).traction = s.traction
      ∧ (repeatWindowExpiry sender s).bridges = s.bridges
      ∧ (repeatWindowExpiry sender s).balance = s.balance
      ∧ (repeatWindowExpiry sender s).sound = s.sound
      ∧ (repeatWindowExpiry sender s).lamps = s.lamps
      ∧ (repeatWindowExpiry sender s).supply = s.supply := by
  simp only [repeatWindowExpiry]
  repeat' split
  all_goals simp

@[simp] theorem failsafeExpiry_frame (s : State) :
    (failsafeExpiry s).pending = s.pending ∧ (failsafeExpiry s).free = s.free
      ∧ (failsafeExpiry s).xm = s.xm ∧ (failsafeExpiry s).lastGranted = s.lastGranted
      ∧ (failsafeExpiry s).port = s.port ∧ (failsafeExpiry s).orders = s.orders
      ∧ (failsafeExpiry s).status = s.status ∧ (failsafeExpiry s).timers = s.timers
      ∧ (failsafeExpiry s).sets = s.sets ∧ (failsafeExpiry s).motion = s.motion
      ∧ (failsafeExpiry s).traction = s.traction ∧ (failsafeExpiry s).bridges = s.bridges
      ∧ (failsafeExpiry s).balance = s.balance ∧ (failsafeExpiry s).sound = s.sound
      ∧ (failsafeExpiry s).lamps = s.lamps ∧ (failsafeExpiry s).supply = s.supply := by
  simp only [failsafeExpiry]
  repeat' split
  all_goals simp

@[simp] theorem lapseExpiry_frame (s : State) :
    (lapseExpiry s).pending = s.pending ∧ (lapseExpiry s).free = s.free
      ∧ (lapseExpiry s).lastGranted = s.lastGranted ∧ (lapseExpiry s).orders = s.orders
      ∧ (lapseExpiry s).timers = s.timers ∧ (lapseExpiry s).sets = s.sets
      ∧ (lapseExpiry s).motion = s.motion ∧ (lapseExpiry s).balance = s.balance
      ∧ (lapseExpiry s).lamps = s.lamps ∧ (lapseExpiry s).supply = s.supply := by
  simp only [lapseExpiry]
  repeat' split
  all_goals simp

@[simp] theorem dwellTimerExpiry_frame (s : State) :
    (dwellTimerExpiry s).pending = s.pending ∧ (dwellTimerExpiry s).free = s.free
      ∧ (dwellTimerExpiry s).orders = s.orders ∧ (dwellTimerExpiry s).status = s.status
      ∧ (dwellTimerExpiry s).timers = s.timers ∧ (dwellTimerExpiry s).sets = s.sets
      ∧ (dwellTimerExpiry s).motion = s.motion ∧ (dwellTimerExpiry s).traction = s.traction
      ∧ (dwellTimerExpiry s).bridges = s.bridges ∧ (dwellTimerExpiry s).balance = s.balance
      ∧ (dwellTimerExpiry s).sound = s.sound ∧ (dwellTimerExpiry s).lamps = s.lamps
      ∧ (dwellTimerExpiry s).supply = s.supply := by
  simp only [dwellTimerExpiry]
  repeat' split
  all_goals simp

/-! ## Sound -/

@[simp] theorem sampleTimerExpiry_frame (s : State) :
    (sampleTimerExpiry s).pending = s.pending ∧ (sampleTimerExpiry s).free = s.free
      ∧ (sampleTimerExpiry s).lastGranted = s.lastGranted
      ∧ (sampleTimerExpiry s).orders = s.orders ∧ (sampleTimerExpiry s).status = s.status
      ∧ (sampleTimerExpiry s).sets = s.sets ∧ (sampleTimerExpiry s).motion = s.motion
      ∧ (sampleTimerExpiry s).traction = s.traction ∧ (sampleTimerExpiry s).bridges = s.bridges
      ∧ (sampleTimerExpiry s).balance = s.balance ∧ (sampleTimerExpiry s).radio = s.radio
      ∧ (sampleTimerExpiry s).lamps = s.lamps ∧ (sampleTimerExpiry s).supply = s.supply := by
  simp only [sampleTimerExpiry]
  split <;> simp

@[simp] theorem mixerFrame_frame (s : State) :
    (mixerFrame s).pending = s.pending ∧ (mixerFrame s).free = s.free
      ∧ (mixerFrame s).lastGranted = s.lastGranted ∧ (mixerFrame s).orders = s.orders
      ∧ (mixerFrame s).sets = s.sets ∧ (mixerFrame s).traction = s.traction
      ∧ (mixerFrame s).bridges = s.bridges ∧ (mixerFrame s).balance = s.balance
      ∧ (mixerFrame s).radio = s.radio ∧ (mixerFrame s).supply = s.supply := by
  simp only [mixerFrame]
  repeat' split
  all_goals simp

/-! ## Lamps and smoke -/

@[simp] theorem effectTimerExpiry_frame (s : State) :
    (effectTimerExpiry s).pending = s.pending ∧ (effectTimerExpiry s).free = s.free
      ∧ (effectTimerExpiry s).xm = s.xm ∧ (effectTimerExpiry s).lastGranted = s.lastGranted
      ∧ (effectTimerExpiry s).port = s.port ∧ (effectTimerExpiry s).orders = s.orders
      ∧ (effectTimerExpiry s).status = s.status ∧ (effectTimerExpiry s).sets = s.sets
      ∧ (effectTimerExpiry s).motion = s.motion ∧ (effectTimerExpiry s).traction = s.traction
      ∧ (effectTimerExpiry s).bridges = s.bridges ∧ (effectTimerExpiry s).balance = s.balance
      ∧ (effectTimerExpiry s).radio = s.radio ∧ (effectTimerExpiry s).sound = s.sound
      ∧ (effectTimerExpiry s).supply = s.supply := by
  simp [effectTimerExpiry]

@[simp] theorem lampPwmPeriod_frame (s : State) (n : Fin 10) :
    (lampPwmPeriod n s).pending = s.pending ∧ (lampPwmPeriod n s).free = s.free
      ∧ (lampPwmPeriod n s).xm = s.xm ∧ (lampPwmPeriod n s).lastGranted = s.lastGranted
      ∧ (lampPwmPeriod n s).port = s.port ∧ (lampPwmPeriod n s).orders = s.orders
      ∧ (lampPwmPeriod n s).status = s.status ∧ (lampPwmPeriod n s).timers = s.timers
      ∧ (lampPwmPeriod n s).sets = s.sets ∧ (lampPwmPeriod n s).motion = s.motion
      ∧ (lampPwmPeriod n s).traction = s.traction ∧ (lampPwmPeriod n s).bridges = s.bridges
      ∧ (lampPwmPeriod n s).balance = s.balance ∧ (lampPwmPeriod n s).radio = s.radio
      ∧ (lampPwmPeriod n s).sound = s.sound ∧ (lampPwmPeriod n s).supply = s.supply := by
  simp [lampPwmPeriod]

@[simp] theorem lampOnTimeEnd_frame (s : State) (n : Fin 10) (milliamps : Nat) :
    (lampOnTimeEnd n milliamps s).pending = s.pending
      ∧ (lampOnTimeEnd n milliamps s).free = s.free ∧ (lampOnTimeEnd n milliamps s).xm = s.xm
      ∧ (lampOnTimeEnd n milliamps s).lastGranted = s.lastGranted
      ∧ (lampOnTimeEnd n milliamps s).port = s.port
      ∧ (lampOnTimeEnd n milliamps s).orders = s.orders
      ∧ (lampOnTimeEnd n milliamps s).status = s.status
      ∧ (lampOnTimeEnd n milliamps s).timers = s.timers
      ∧ (lampOnTimeEnd n milliamps s).sets = s.sets
      ∧ (lampOnTimeEnd n milliamps s).motion = s.motion
      ∧ (lampOnTimeEnd n milliamps s).traction = s.traction
      ∧ (lampOnTimeEnd n milliamps s).bridges = s.bridges
      ∧ (lampOnTimeEnd n milliamps s).balance = s.balance
      ∧ (lampOnTimeEnd n milliamps s).radio = s.radio
      ∧ (lampOnTimeEnd n milliamps s).sound = s.sound
      ∧ (lampOnTimeEnd n milliamps s).supply = s.supply := by
  simp only [lampOnTimeEnd]
  repeat' split
  all_goals simp

@[simp] theorem lampOvercurrent_frame (s : State) (n : Fin 10) (milliamps since : Nat) :
    (lampOvercurrent n milliamps since s).pending = s.pending
      ∧ (lampOvercurrent n milliamps since s).free = s.free
      ∧ (lampOvercurrent n milliamps since s).xm = s.xm
      ∧ (lampOvercurrent n milliamps since s).lastGranted = s.lastGranted
      ∧ (lampOvercurrent n milliamps since s).orders = s.orders
      ∧ (lampOvercurrent n milliamps since s).timers = s.timers
      ∧ (lampOvercurrent n milliamps since s).sets = s.sets
      ∧ (lampOvercurrent n milliamps since s).motion = s.motion
      ∧ (lampOvercurrent n milliamps since s).traction = s.traction
      ∧ (lampOvercurrent n milliamps since s).bridges = s.bridges
      ∧ (lampOvercurrent n milliamps since s).balance = s.balance
      ∧ (lampOvercurrent n milliamps since s).radio = s.radio
      ∧ (lampOvercurrent n milliamps since s).sound = s.sound
      ∧ (lampOvercurrent n milliamps since s).supply = s.supply := by
  simp only [lampOvercurrent]
  repeat' split
  all_goals simp

@[simp] theorem lampRetryExpiry_frame (s : State) (n : Fin 10) :
    (lampRetryExpiry n s).pending = s.pending ∧ (lampRetryExpiry n s).free = s.free
      ∧ (lampRetryExpiry n s).xm = s.xm ∧ (lampRetryExpiry n s).lastGranted = s.lastGranted
      ∧ (lampRetryExpiry n s).port = s.port ∧ (lampRetryExpiry n s).orders = s.orders
      ∧ (lampRetryExpiry n s).status = s.status ∧ (lampRetryExpiry n s).timers = s.timers
      ∧ (lampRetryExpiry n s).sets = s.sets ∧ (lampRetryExpiry n s).motion = s.motion
      ∧ (lampRetryExpiry n s).traction = s.traction ∧ (lampRetryExpiry n s).bridges = s.bridges
      ∧ (lampRetryExpiry n s).balance = s.balance ∧ (lampRetryExpiry n s).radio = s.radio
      ∧ (lampRetryExpiry n s).sound = s.sound ∧ (lampRetryExpiry n s).supply = s.supply := by
  simp only [lampRetryExpiry]
  repeat' split
  all_goals simp

@[simp] theorem openLoadExpiry_frame (s : State) (n : Fin 10) :
    (openLoadExpiry n s).pending = s.pending ∧ (openLoadExpiry n s).free = s.free
      ∧ (openLoadExpiry n s).xm = s.xm ∧ (openLoadExpiry n s).lastGranted = s.lastGranted
      ∧ (openLoadExpiry n s).orders = s.orders ∧ (openLoadExpiry n s).timers = s.timers
      ∧ (openLoadExpiry n s).sets = s.sets ∧ (openLoadExpiry n s).motion = s.motion
      ∧ (openLoadExpiry n s).traction = s.traction ∧ (openLoadExpiry n s).bridges = s.bridges
      ∧ (openLoadExpiry n s).balance = s.balance ∧ (openLoadExpiry n s).radio = s.radio
      ∧ (openLoadExpiry n s).sound = s.sound ∧ (openLoadExpiry n s).supply = s.supply := by
  simp only [openLoadExpiry]
  repeat' split
  all_goals simp

@[simp] theorem heaterTimerExpiry_frame (s : State) (thermistor : BitVec 10) :
    (heaterTimerExpiry thermistor s).pending = s.pending
      ∧ (heaterTimerExpiry thermistor s).free = s.free
      ∧ (heaterTimerExpiry thermistor s).xm = s.xm
      ∧ (heaterTimerExpiry thermistor s).lastGranted = s.lastGranted
      ∧ (heaterTimerExpiry thermistor s).orders = s.orders
      ∧ (heaterTimerExpiry thermistor s).sets = s.sets
      ∧ (heaterTimerExpiry thermistor s).motion = s.motion
      ∧ (heaterTimerExpiry thermistor s).traction = s.traction
      ∧ (heaterTimerExpiry thermistor s).bridges = s.bridges
      ∧ (heaterTimerExpiry thermistor s).balance = s.balance
      ∧ (heaterTimerExpiry thermistor s).radio = s.radio
      ∧ (heaterTimerExpiry thermistor s).sound = s.sound
      ∧ (heaterTimerExpiry thermistor s).supply = s.supply := by
  simp only [heaterTimerExpiry]
  repeat' split
  all_goals simp

@[simp] theorem puffTimerExpiry_frame (s : State) :
    (puffTimerExpiry s).pending = s.pending ∧ (puffTimerExpiry s).free = s.free
      ∧ (puffTimerExpiry s).xm = s.xm ∧ (puffTimerExpiry s).lastGranted = s.lastGranted
      ∧ (puffTimerExpiry s).port = s.port ∧ (puffTimerExpiry s).orders = s.orders
      ∧ (puffTimerExpiry s).status = s.status ∧ (puffTimerExpiry s).timers = s.timers
      ∧ (puffTimerExpiry s).sets = s.sets ∧ (puffTimerExpiry s).motion = s.motion
      ∧ (puffTimerExpiry s).traction = s.traction ∧ (puffTimerExpiry s).bridges = s.bridges
      ∧ (puffTimerExpiry s).balance = s.balance ∧ (puffTimerExpiry s).radio = s.radio
      ∧ (puffTimerExpiry s).sound = s.sound ∧ (puffTimerExpiry s).supply = s.supply := by
  simp only [puffTimerExpiry]
  repeat' split
  all_goals simp

@[simp] theorem purgeTimerExpiry_frame (s : State) :
    (purgeTimerExpiry s).pending = s.pending ∧ (purgeTimerExpiry s).free = s.free
      ∧ (purgeTimerExpiry s).xm = s.xm ∧ (purgeTimerExpiry s).lastGranted = s.lastGranted
      ∧ (purgeTimerExpiry s).port = s.port ∧ (purgeTimerExpiry s).orders = s.orders
      ∧ (purgeTimerExpiry s).status = s.status ∧ (purgeTimerExpiry s).timers = s.timers
      ∧ (purgeTimerExpiry s).sets = s.sets ∧ (purgeTimerExpiry s).motion = s.motion
      ∧ (purgeTimerExpiry s).traction = s.traction ∧ (purgeTimerExpiry s).bridges = s.bridges
      ∧ (purgeTimerExpiry s).balance = s.balance ∧ (purgeTimerExpiry s).radio = s.radio
      ∧ (purgeTimerExpiry s).sound = s.sound ∧ (purgeTimerExpiry s).supply = s.supply := by
  simp only [purgeTimerExpiry]
  repeat' split
  all_goals simp

@[simp] theorem fanPwmPeriod_frame (s : State) :
    (fanPwmPeriod s).pending = s.pending ∧ (fanPwmPeriod s).free = s.free
      ∧ (fanPwmPeriod s).xm = s.xm ∧ (fanPwmPeriod s).lastGranted = s.lastGranted
      ∧ (fanPwmPeriod s).port = s.port ∧ (fanPwmPeriod s).orders = s.orders
      ∧ (fanPwmPeriod s).status = s.status ∧ (fanPwmPeriod s).sets = s.sets
      ∧ (fanPwmPeriod s).motion = s.motion ∧ (fanPwmPeriod s).traction = s.traction
      ∧ (fanPwmPeriod s).bridges = s.bridges ∧ (fanPwmPeriod s).balance = s.balance
      ∧ (fanPwmPeriod s).radio = s.radio ∧ (fanPwmPeriod s).sound = s.sound
      ∧ (fanPwmPeriod s).supply = s.supply := by
  simp [fanPwmPeriod]

@[simp] theorem fanOvercurrent_frame (s : State) (milliamps since : Nat) :
    (fanOvercurrent milliamps since s).pending = s.pending
      ∧ (fanOvercurrent milliamps since s).free = s.free
      ∧ (fanOvercurrent milliamps since s).xm = s.xm
      ∧ (fanOvercurrent milliamps since s).lastGranted = s.lastGranted
      ∧ (fanOvercurrent milliamps since s).orders = s.orders
      ∧ (fanOvercurrent milliamps since s).timers = s.timers
      ∧ (fanOvercurrent milliamps since s).sets = s.sets
      ∧ (fanOvercurrent milliamps since s).motion = s.motion
      ∧ (fanOvercurrent milliamps since s).traction = s.traction
      ∧ (fanOvercurrent milliamps since s).bridges = s.bridges
      ∧ (fanOvercurrent milliamps since s).balance = s.balance
      ∧ (fanOvercurrent milliamps since s).radio = s.radio
      ∧ (fanOvercurrent milliamps since s).sound = s.sound
      ∧ (fanOvercurrent milliamps since s).supply = s.supply := by
  simp only [fanOvercurrent]
  repeat' split
  all_goals simp

/-! ## Supply -/

@[simp] theorem supplySample_frame (s : State) (vtrk vsto : Nat) :
    (supplySample vtrk vsto s).pending = s.pending ∧ (supplySample vtrk vsto s).free = s.free
      ∧ (supplySample vtrk vsto s).sets = s.sets ∧ (supplySample vtrk vsto s).motion = s.motion := by
  simp [supplySample]

@[simp] theorem dieTemperatureExpiry_frame (s : State) (celsius : Int) :
    (dieTemperatureExpiry celsius s).pending = s.pending
      ∧ (dieTemperatureExpiry celsius s).free = s.free
      ∧ (dieTemperatureExpiry celsius s).sets = s.sets
      ∧ (dieTemperatureExpiry celsius s).motion = s.motion := by
  simp [dieTemperatureExpiry]

/-! ## Idle -/

@[simp] theorem State.startAccess_frame (s : State) (j : StartJob) :
    (s.startAccess j).pending = s.pending ∧ (s.startAccess j).clock = s.clock
      ∧ (s.startAccess j).free = s.free ∧ (s.startAccess j).sets = s.sets
      ∧ (s.startAccess j).balance = s.balance := by
  simp only [State.startAccess]
  repeat' split
  all_goals simp

@[simp] theorem State.resetGoesOn_frame (s : State) (todo : List ResetTask) :
    (s.resetGoesOn todo).pending = s.pending ∧ (s.resetGoesOn todo).clock = s.clock
      ∧ (s.resetGoesOn todo).free = s.free ∧ (s.resetGoesOn todo).xm = s.xm
      ∧ (s.resetGoesOn todo).lastGranted = s.lastGranted ∧ (s.resetGoesOn todo).orders = s.orders
      ∧ (s.resetGoesOn todo).timers = s.timers ∧ (s.resetGoesOn todo).sets = s.sets
      ∧ (s.resetGoesOn todo).motion = s.motion ∧ (s.resetGoesOn todo).traction = s.traction
      ∧ (s.resetGoesOn todo).bridges = s.bridges ∧ (s.resetGoesOn todo).balance = s.balance
      ∧ (s.resetGoesOn todo).radio = s.radio ∧ (s.resetGoesOn todo).sound = s.sound
      ∧ (s.resetGoesOn todo).lamps = s.lamps ∧ (s.resetGoesOn todo).supply = s.supply := by
  simp only [State.resetGoesOn]
  split <;> simp [State.beginUpdate]

@[simp] theorem State.grantReset_frame (s : State) :
    s.grantReset.pending = s.pending ∧ s.grantReset.clock = s.clock ∧ s.grantReset.free = s.free
      ∧ s.grantReset.orders = s.orders ∧ s.grantReset.timers = s.timers
      ∧ s.grantReset.sets = s.sets ∧ s.grantReset.motion = s.motion
      ∧ s.grantReset.traction = s.traction ∧ s.grantReset.bridges = s.bridges
      ∧ s.grantReset.balance = s.balance ∧ s.grantReset.sound = s.sound
      ∧ s.grantReset.lamps = s.lamps ∧ s.grantReset.supply = s.supply := by
  simp only [State.grantReset]
  repeat' split
  all_goals simp

@[simp] theorem State.grantLoad_frame (s : State) :
    s.grantLoad.pending = s.pending ∧ s.grantLoad.clock = s.clock ∧ s.grantLoad.free = s.free
      ∧ s.grantLoad.xm = s.xm ∧ s.grantLoad.lastGranted = s.lastGranted
      ∧ s.grantLoad.port = s.port ∧ s.grantLoad.orders = s.orders ∧ s.grantLoad.status = s.status
      ∧ s.grantLoad.timers = s.timers ∧ s.grantLoad.motion = s.motion
      ∧ s.grantLoad.traction = s.traction ∧ s.grantLoad.bridges = s.bridges
      ∧ s.grantLoad.balance = s.balance ∧ s.grantLoad.radio = s.radio
      ∧ s.grantLoad.sound = s.sound ∧ s.grantLoad.lamps = s.lamps ∧ s.grantLoad.supply = s.supply := by
  simp [State.grantLoad]

@[simp] theorem State.grantOrderLoad_frame (s : State) :
    s.grantOrderLoad.pending = s.pending ∧ s.grantOrderLoad.clock = s.clock
      ∧ s.grantOrderLoad.free = s.free ∧ s.grantOrderLoad.xm = s.xm
      ∧ s.grantOrderLoad.lastGranted = s.lastGranted ∧ s.grantOrderLoad.port = s.port
      ∧ s.grantOrderLoad.status = s.status ∧ s.grantOrderLoad.timers = s.timers
      ∧ s.grantOrderLoad.sets = s.sets ∧ s.grantOrderLoad.motion = s.motion
      ∧ s.grantOrderLoad.traction = s.traction ∧ s.grantOrderLoad.bridges = s.bridges
      ∧ s.grantOrderLoad.balance = s.balance ∧ s.grantOrderLoad.radio = s.radio
      ∧ s.grantOrderLoad.sound = s.sound ∧ s.grantOrderLoad.lamps = s.lamps
      ∧ s.grantOrderLoad.supply = s.supply := by
  simp [State.grantOrderLoad]

@[simp] theorem State.grantRefresh_frame (s : State) :
    s.grantRefresh.pending = s.pending ∧ s.grantRefresh.clock = s.clock
      ∧ s.grantRefresh.free = s.free ∧ s.grantRefresh.timers = s.timers
      ∧ s.grantRefresh.motion = s.motion ∧ s.grantRefresh.balance = s.balance
      ∧ s.grantRefresh.supply = s.supply := by
  simp only [State.grantRefresh]
  repeat' split
  all_goals simp

@[simp] theorem State.grantOrders_frame (s : State) :
    s.grantOrders.pending = s.pending ∧ s.grantOrders.clock = s.clock
      ∧ s.grantOrders.free = s.free ∧ s.grantOrders.balance = s.balance := by
  simp only [State.grantOrders]
  repeat' split
  all_goals simp

@[simp] theorem State.updateWritten_frame (s : State) :
    s.updateWritten.pending = s.pending ∧ s.updateWritten.clock = s.clock
      ∧ s.updateWritten.free = s.free ∧ s.updateWritten.xm = s.xm
      ∧ s.updateWritten.lastGranted = s.lastGranted ∧ s.updateWritten.timers = s.timers
      ∧ s.updateWritten.sets = s.sets ∧ s.updateWritten.motion = s.motion
      ∧ s.updateWritten.traction = s.traction ∧ s.updateWritten.bridges = s.bridges
      ∧ s.updateWritten.balance = s.balance ∧ s.updateWritten.radio = s.radio
      ∧ s.updateWritten.sound = s.sound ∧ s.updateWritten.lamps = s.lamps
      ∧ s.updateWritten.supply = s.supply := by
  simp only [State.updateWritten]
  repeat' split
  all_goals simp

@[simp] theorem State.grantStatus_frame (s : State) :
    s.grantStatus.pending = s.pending ∧ s.grantStatus.clock = s.clock
      ∧ s.grantStatus.free = s.free ∧ s.grantStatus.lastGranted = s.lastGranted
      ∧ s.grantStatus.timers = s.timers ∧ s.grantStatus.sets = s.sets
      ∧ s.grantStatus.motion = s.motion ∧ s.grantStatus.traction = s.traction
      ∧ s.grantStatus.bridges = s.bridges ∧ s.grantStatus.balance = s.balance
      ∧ s.grantStatus.radio = s.radio ∧ s.grantStatus.sound = s.sound
      ∧ s.grantStatus.lamps = s.lamps ∧ s.grantStatus.supply = s.supply := by
  simp only [State.grantStatus]
  repeat' split
  all_goals simp

@[simp] theorem State.grantRadio_frame (s : State) :
    s.grantRadio.pending = s.pending ∧ s.grantRadio.clock = s.clock ∧ s.grantRadio.free = s.free
      ∧ s.grantRadio.lastGranted = s.lastGranted ∧ s.grantRadio.port = s.port
      ∧ s.grantRadio.orders = s.orders ∧ s.grantRadio.status = s.status
      ∧ s.grantRadio.timers = s.timers ∧ s.grantRadio.sets = s.sets
      ∧ s.grantRadio.motion = s.motion ∧ s.grantRadio.traction = s.traction
      ∧ s.grantRadio.bridges = s.bridges ∧ s.grantRadio.balance = s.balance
      ∧ s.grantRadio.sound = s.sound ∧ s.grantRadio.lamps = s.lamps
      ∧ s.grantRadio.supply = s.supply := by
  simp only [State.grantRadio]
  repeat' split
  all_goals simp

@[simp] theorem State.grant_frame (s : State) (r : Requester) :
    (s.grant r).pending = s.pending ∧ (s.grant r).clock = s.clock ∧ (s.grant r).free = s.free
      ∧ (s.grant r).balance = s.balance := by
  simp only [State.grant]
  repeat' split
  all_goals simp

@[simp] theorem State.grants_frame (s : State) (n : Nat) :
    (State.grants n s).pending = s.pending ∧ (State.grants n s).clock = s.clock
      ∧ (State.grants n s).free = s.free ∧ (State.grants n s).balance = s.balance := by
  induction n generalizing s with
  | zero => simp [State.grants]
  | succ n ih =>
    simp only [State.grants]
    repeat' split
    all_goals simp [ih]

@[simp] theorem idle_frame (s : State) :
    (idle s).pending = s.pending ∧ (idle s).balance = s.balance := by
  simp [idle]

end Sys2Proof.Machine
end

