-- ==== Sys2Proof/Laws/Memory.lean ====
section
/-! SUPPORT. The laws of exchange memory: a read after a write, and the canonical form that every memory
operation keeps. -/

namespace Sys2Proof.Machine

/-! ## The canonical form -/

theorem Memory.wfFrom_weaken {m : Memory} {lo lo' : Nat} (h : Memory.wfFrom lo m = true) (hl : lo' ≤ lo) :
    Memory.wfFrom lo' m = true := by
  cases m with
  | nil => rfl
  | cons c rest =>
    obtain ⟨k, v⟩ := c
    simp only [Memory.wfFrom, Bool.and_eq_true, decide_eq_true_eq] at h ⊢
    exact ⟨⟨⟨by omega, h.1.1.2⟩, h.1.2⟩, h.2⟩

theorem Memory.wfFrom_insert {m : Memory} {lo a : Nat} (v : Byte) (h : Memory.wfFrom lo m = true)
    (ha : a < 65536) (hl : lo ≤ a) : Memory.wfFrom lo (m.insert a v) = true := by
  induction m generalizing lo with
  | nil =>
    by_cases hv : v = 0#8
    · simp [Memory.insert, Memory.wfFrom, hv]
    · simp [Memory.insert, Memory.wfFrom, hv]; omega
  | cons c rest ih =>
    obtain ⟨k, w⟩ := c
    simp only [Memory.wfFrom, Bool.and_eq_true, decide_eq_true_eq] at h
    obtain ⟨⟨⟨h1, h2⟩, h3⟩, h4⟩ := h
    unfold Memory.insert
    by_cases hak : a < k
    · rw [if_pos hak]
      by_cases hv : v = 0
      · rw [if_pos hv]
        simp only [Memory.wfFrom, Bool.and_eq_true, decide_eq_true_eq]
        exact ⟨⟨⟨h1, h2⟩, h3⟩, h4⟩
      · rw [if_neg hv]
        simp only [Memory.wfFrom, Bool.and_eq_true, decide_eq_true_eq]
        exact ⟨⟨⟨hl, ha⟩, hv⟩, ⟨⟨hak, h2⟩, h3⟩, h4⟩
    · rw [if_neg hak]
      by_cases hek : a = k
      · subst hek
        rw [if_pos rfl]
        by_cases hv : v = 0
        · rw [if_pos hv]
          exact Memory.wfFrom_weaken h4 (by omega)
        · rw [if_neg hv]
          simp only [Memory.wfFrom, Bool.and_eq_true, decide_eq_true_eq]
          exact ⟨⟨⟨h1, h2⟩, hv⟩, h4⟩
      · rw [if_neg hek]
        simp only [Memory.wfFrom, Bool.and_eq_true, decide_eq_true_eq]
        exact ⟨⟨⟨h1, h2⟩, h3⟩, ih h4 (by omega)⟩

@[simp] theorem Memory.wf_write {m : Memory} (a : Nat) (v : Byte) (h : m.wf = true) : (m.write a v).wf = true :=
  Memory.wfFrom_insert v h (Nat.mod_lt _ (by decide)) (Nat.zero_le _)

@[simp] theorem Memory.wf_writeBytes {m : Memory} (a : Nat) (l : List Byte) (h : m.wf = true) :
    (m.writeBytes a l).wf = true := by
  induction l generalizing m a with
  | nil => exact h
  | cons v rest ih => exact ih _ (Memory.wf_write a v h)

@[simp] theorem Memory.wf_copyWord {m : Memory} (source : Memory) (a : Nat) (h : m.wf = true) :
    (m.copyWord source a).wf = true :=
  Memory.wf_write _ _ (Memory.wf_write _ _ h)

theorem Memory.wfFrom_filter {m : Memory} {lo : Nat} (p : Host.Cell → Bool)
    (h : Memory.wfFrom lo m = true) : Memory.wfFrom lo (m.filter p) = true := by
  induction m generalizing lo with
  | nil => rfl
  | cons c rest ih =>
    obtain ⟨k, w⟩ := c
    simp only [Memory.wfFrom, Bool.and_eq_true, decide_eq_true_eq] at h
    obtain ⟨⟨⟨h1, h2⟩, h3⟩, h4⟩ := h
    by_cases hp : p (k, w)
    · simp only [List.filter_cons, hp, if_true, Memory.wfFrom, Bool.and_eq_true, decide_eq_true_eq]
      exact ⟨⟨⟨h1, h2⟩, h3⟩, ih h4⟩
    · simp only [List.filter_cons, hp]
      exact Memory.wfFrom_weaken (ih h4) (by omega)

@[simp] theorem Memory.wf_clearFrom {m : Memory} (a : Nat) (h : m.wf = true) : (m.clearFrom a).wf = true :=
  Memory.wfFrom_filter _ h

@[simp] theorem Memory.wf_writeCells {m : Memory} (cells : List Host.Cell) (h : m.wf = true) :
    (writeCells m cells).wf = true := by
  unfold writeCells
  induction cells generalizing m with
  | nil => exact h
  | cons c rest ih => exact ih (Memory.wf_write c.1 c.2 h)

theorem Memory.wf_reset : State.reset.xm.wf = true := by decide

/-! ## Reads after writes -/

theorem Memory.lookup_of_wfFrom {m : Memory} {lo a : Nat} (h : Memory.wfFrom lo m = true) (ha : a < lo) :
    m.lookup a = 0 := by
  induction m generalizing lo with
  | nil => rfl
  | cons c rest ih =>
    obtain ⟨k, w⟩ := c
    simp only [Memory.wfFrom, Bool.and_eq_true, decide_eq_true_eq] at h
    obtain ⟨⟨⟨h1, h2⟩, h3⟩, h4⟩ := h
    simp [Memory.lookup, show k ≠ a by omega, ih h4 (by omega)]

theorem Memory.lookup_insert {m : Memory} {lo : Nat} (a b : Nat) (v : Byte)
    (h : Memory.wfFrom lo m = true) : (m.insert a v).lookup b = if a = b then v else m.lookup b := by
  induction m generalizing lo with
  | nil =>
    by_cases hv : v = 0#8
    · by_cases hab : a = b <;> simp [Memory.insert, Memory.lookup, hv, hab]
    · by_cases hab : a = b <;> simp [Memory.insert, Memory.lookup, hv, hab]
  | cons c rest ih =>
    obtain ⟨k, w⟩ := c
    have hwf := h
    simp only [Memory.wfFrom, Bool.and_eq_true, decide_eq_true_eq] at h
    obtain ⟨⟨⟨h1, h2⟩, h3⟩, h4⟩ := h
    unfold Memory.insert
    by_cases hak : a < k
    · by_cases hab : a = b
      · subst hab
        by_cases hv : v = 0#8
        · simp [hak, hv, Memory.lookup, show k ≠ a by omega,
            Memory.lookup_of_wfFrom h4 (show a < k + 1 by omega)]
        · simp [hak, hv, Memory.lookup]
      · by_cases hv : v = 0#8 <;> simp [hak, hv, Memory.lookup, hab]
    · by_cases hek : a = k
      · subst hek
        by_cases hab : a = b
        · subst hab
          by_cases hv : v = 0#8
          · simp [hv, Memory.lookup_of_wfFrom h4 (Nat.lt_succ_self a)]
          · simp [hv, Memory.lookup]
        · by_cases hv : v = 0#8 <;> simp [hv, Memory.lookup, hab]
      · simp only [hak, hek, if_false, Memory.lookup, ih h4]
        by_cases hkb : k = b
        · subst hkb; simp [hek]
        · simp [hkb]

/-- A read after a write: the byte written at its own address (addresses wrap), the old one elsewhere. -/
theorem Memory.read_write {m : Memory} (a b : Nat) (v : Byte) (h : m.wf = true) :
    (m.write a v).read b = if a % 65536 = b % 65536 then v else m.read b :=
  Memory.lookup_insert _ _ v h

theorem Memory.read_write_same {m : Memory} (a : Nat) (v : Byte) (h : m.wf = true) :
    (m.write a v).read a = v := by simp [Memory.read_write a a v h]

theorem Memory.read_write_other {m : Memory} {a b : Nat} (v : Byte) (h : m.wf = true)
    (hab : a % 65536 ≠ b % 65536) : (m.write a v).read b = m.read b := by
  simp [Memory.read_write a b v h, hab]

/-- A run of writes leaves every address outside it as it was. -/
theorem Memory.read_writeBytes_other {m : Memory} {a b : Nat} {l : List Byte} (h : m.wf = true)
    (hb : ∀ k, k < l.length → (a + k) % 65536 ≠ b % 65536) : (m.writeBytes a l).read b = m.read b := by
  induction l generalizing m a with
  | nil => rfl
  | cons v rest ih =>
    unfold Memory.writeBytes
    rw [ih (Memory.wf_write a v h) fun k hk => by
      have := hb (k + 1) (by simpa using hk)
      rwa [show a + 1 + k = a + (k + 1) by omega],
      Memory.read_write_other v h (by simpa using hb 0 (by simp))]

/-- A byte of a run of writes, when no later byte of the run falls on its address. -/
theorem Memory.read_writeBytes {m : Memory} {a : Nat} {l : List Byte} (h : m.wf = true) (k : Nat)
    (hk : k < l.length) (hlast : ∀ j, k < j → j < l.length → (a + j) % 65536 ≠ (a + k) % 65536) :
    (m.writeBytes a l).read (a + k) = l[k] := by
  induction l generalizing m a k with
  | nil => simp at hk
  | cons v rest ih =>
    unfold Memory.writeBytes
    cases k with
    | zero =>
      rw [Memory.read_writeBytes_other (Memory.wf_write a v h) fun j hj => by
        have := hlast (j + 1) (by omega) (by simpa using hj)
        rwa [show a + 1 + j = a + (j + 1) by omega]]
      simpa using Memory.read_write_same a v h
    | succ k =>
      have := ih (Memory.wf_write a v h) (a := a + 1) k (by simpa using hk) fun j hj hjl => by
        have := hlast (j + 1) (by omega) (by simpa using hjl)
        rwa [show a + 1 + j = a + (j + 1) by omega, show a + 1 + k = a + (k + 1) by omega]
      rw [show a + (k + 1) = a + 1 + k by omega, this]; rfl

theorem Memory.length_readBytes (m : Memory) (a n : Nat) : (m.readBytes a n).length = n := by
  induction n generalizing a with
  | zero => rfl
  | succ n ih => simp [Memory.readBytes, ih]

theorem Memory.getElem_readBytes (m : Memory) (a n k : Nat) (hk : k < (m.readBytes a n).length) :
    (m.readBytes a n)[k] = m.read (a + k) := by
  induction n generalizing a k with
  | zero => simp [Memory.readBytes] at hk
  | succ n ih =>
    cases k with
    | zero => rfl
    | succ k =>
      have hk' : k < (m.readBytes (a + 1) n).length := by simpa [Memory.readBytes] using hk
      simpa [Memory.readBytes, show a + 1 + k = a + (k + 1) by omega] using ih (a + 1) k hk'

/-! ## Table loads (R4, R31) -/

/-- A word copied from one memory into another, as one byte reads. -/
theorem Memory.read_copyWord {image : Memory} (source : Memory) (w a : Nat) (h : image.wf = true) :
    (image.copyWord source w).read a =
      if a % 65536 = w % 65536 ∨ a % 65536 = (w + 1) % 65536 then source.read a else image.read a := by
  have hs : ∀ b, a % 65536 = b % 65536 → source.read b = source.read a := fun b hb => by
    simp [Memory.read, hb]
  rw [Memory.copyWord, Memory.read_write _ _ _ (Memory.wf_write _ _ h), Memory.read_write _ _ _ h]
  by_cases h1 : a % 65536 = (w + 1) % 65536
  · rw [if_pos h1.symm, if_pos (.inr h1), hs _ h1]
  · rw [if_neg (Ne.symm h1)]
    by_cases h0 : a % 65536 = w % 65536
    · rw [if_pos h0.symm, if_pos (.inl h0), hs _ h0]
    · rw [if_neg (Ne.symm h0), if_neg (by tauto)]

/-- Words copied one after another: each byte of theirs reads as in the source, every other as before. -/
theorem Memory.read_copyWords {image : Memory} (source : Memory) (words : List Nat) (a : Nat)
    (h : image.wf = true) :
    (words.foldl (fun image w => image.copyWord source w) image).read a =
      if ∃ w ∈ words, a % 65536 = w % 65536 ∨ a % 65536 = (w + 1) % 65536 then source.read a
      else image.read a := by
  induction words generalizing image with
  | nil => simp
  | cons w words ih =>
    rw [List.foldl_cons, ih (Memory.wf_copyWord source w h), Memory.read_copyWord source w a h]
    by_cases h1 : ∃ w ∈ words, a % 65536 = w % 65536 ∨ a % 65536 = (w + 1) % 65536
    · have ⟨x, hx, hax⟩ := h1
      rw [if_pos h1, if_pos ⟨x, List.mem_cons_of_mem w hx, hax⟩]
    · rw [if_neg h1]
      by_cases h2 : a % 65536 = w % 65536 ∨ a % 65536 = (w + 1) % 65536
      · rw [if_pos h2, if_pos ⟨w, by simp, h2⟩]
      · rw [if_neg h2, if_neg]
        rintro ⟨x, hx, hax⟩
        rcases List.mem_cons.1 hx with rfl | hx
        · exact h2 hax
        · exact h1 ⟨x, hx, hax⟩

/-- A load read to its end: its remaining words come from the memory of that moment. -/
theorem TableLoad.read_readAll (l : TableLoad) (m : Memory) (a : Nat) (h : l.image.wf = true) :
    (l.readAll m).image.read a =
      if ∃ w ∈ l.todo, a % 65536 = w % 65536 ∨ a % 65536 = (w + 1) % 65536 then m.read a
      else l.image.read a :=
  Memory.read_copyWords m l.todo a h

end Sys2Proof.Machine
end

