-- ==== Sys2Proof/Laws/MemoryForm.lean ====
section
/-! SUPPORT. The canonical form of exchange memory is kept by every shared operation and command that writes
it. -/

namespace Sys2Proof.Machine

/-- What every step of a walk through the triggers keeps true, the walk keeps true. -/
theorem triggersFrom_inv (P : State → Prop) {act : State → Nat → Trigger → State}
    (h : ∀ s k t, P s → P (act s k t)) (k : Nat) (ts : List Trigger) (s : State) (hs : P s) :
    P (triggersFrom act k ts s) := by
  induction ts generalizing k s with
  | nil => exact hs
  | cons t ts ih => exact ih (k + 1) (act s k t) (h s k t hs)

/-- What every step of a walk through a list keeps true, the walk keeps true. -/
theorem foldl_inv {β : Type} (P : State → Prop) {act : State → β → State}
    (h : ∀ s x, P s → P (act s x)) (xs : List β) (s : State) (hs : P s) : P (xs.foldl act s) := by
  induction xs generalizing s with
  | nil => exact hs
  | cons x xs ih => exact ih (act s x) (h s x hs)


@[simp] theorem State.playSegment_wf (s : State) (clip : Nat) (second : Bool) (h : s.xm.wf = true) :
    (s.playSegment clip second).xm.wf = true := by
  simp [State.playSegment, h]

@[simp] theorem State.leaveSegment_wf (s : State) (clip : Nat) (second : Bool) (h : s.xm.wf = true) :
    (s.leaveSegment clip second).xm.wf = true := by
  simp [State.leaveSegment, h]

@[simp] theorem State.stopVoice_wf (s : State) (n : Nat) (h : s.xm.wf = true) :
    (s.stopVoice n).xm.wf = true := by
  simp only [State.stopVoice]
  repeat' split
  all_goals simp [h]

@[simp] theorem State.stopVoices_wf (s : State) (h : s.xm.wf = true) :
    ((allVoices.foldl State.stopVoice s)).xm.wf = true := 
    foldl_inv (act := State.stopVoice) (·.xm.wf = true) (fun _ _ h => by simp [h]) allVoices s h

@[simp] theorem State.startVoice_wf (s : State) (n clip : Nat) (use : ClipUse) (f : StartFields) (h : s.xm.wf = true) :
    ((s.startVoice n clip use f).1).xm.wf = true := by
  simp only [State.startVoice]
  repeat' split
  all_goals simp [h]

@[simp] theorem State.startOrFault_wf (s : State) (n clip : Nat) (use : ClipUse) (f : StartFields) (h : s.xm.wf = true) :
    (s.startOrFault n clip use f).xm.wf = true := by
  simp only [State.startOrFault]
  repeat' split
  all_goals simp [h]

@[simp] theorem State.trigger_wf (s : State) (clip : Nat) (use : ClipUse) (f : StartFields) (h : s.xm.wf = true) :
    (s.trigger clip use f).xm.wf = true := by
  simp only [State.trigger]
  repeat' split
  all_goals simp [h]

@[simp] theorem State.playStartClip_wf (s : State) (h : s.xm.wf = true) :
    (s.playStartClip).xm.wf = true := by
  simp [State.playStartClip, h]

@[simp] theorem State.playStopClip_wf (s : State) (h : s.xm.wf = true) :
    (s.playStopClip).xm.wf = true := by
  simp [State.playStopClip, h]

@[simp] theorem State.playHorn_wf (s : State) (h : s.xm.wf = true) :
    (s.playHorn).xm.wf = true := by
  simp [State.playHorn, h]

@[simp] theorem State.functionClip_wf (s : State) (k : Nat) (t : Trigger) (h : s.xm.wf = true) :
    (s.functionClip k t).xm.wf = true := by
  simp only [State.functionClip]
  repeat' split
  all_goals simp [h]

@[simp] theorem State.functionTrigger_wf (s : State) (before after : Reg) (k : Nat) (t : Trigger) (h : s.xm.wf = true) :
    (s.functionTrigger before after k t).xm.wf = true := by
  simp only [State.functionTrigger]
  repeat' split
  all_goals simp [h]

@[simp] theorem State.soundFunctions_wf (s : State) (before : Reg) (h : s.xm.wf = true) :
    (s.soundFunctions before).xm.wf = true := 
    triggersFrom_inv (·.xm.wf = true) (fun _ _ _ h => by simp [h]) _ _ _ h

@[simp] theorem State.startEngine_wf (s : State) (h : s.xm.wf = true) :
    (s.startEngine).xm.wf = true := by
  simp [State.startEngine, h]

@[simp] theorem State.chuff_wf (s : State) (h : s.xm.wf = true) :
    (s.chuff).xm.wf = true := by
  simp [State.chuff, h]

@[simp] theorem State.chuffCheck_wf (s : State) (h : s.xm.wf = true) :
    (s.chuffCheck).xm.wf = true := by
  simp only [State.chuffCheck]
  repeat' split
  all_goals simp [h]

@[simp] theorem State.crossBoundary_wf (s : State) (n : Nat) (second : Bool) (entered boundary : Nat) (h : s.xm.wf = true) :
    (s.crossBoundary n second entered boundary).xm.wf = true := by
  simp only [State.crossBoundary]
  repeat' split
  all_goals simp [h]

@[simp] theorem State.streamBoundaries_wf (s : State) (n : Nat) (second : Bool) (h : s.xm.wf = true) :
    (s.streamBoundaries n second).xm.wf = true := by
  simp only [State.streamBoundaries]
  repeat' split
  all_goals simp [h]

@[simp] theorem State.advanceVoice_wf (s : State) (n : Nat) (h : s.xm.wf = true) :
    (s.advanceVoice n).xm.wf = true := by
  simp only [State.advanceVoice]
  repeat' split
  all_goals simp [h]

@[simp] theorem State.advanceVoices_wf (s : State) (h : s.xm.wf = true) :
    ((allVoices.foldl State.advanceVoice s)).xm.wf = true := 
    foldl_inv (act := State.advanceVoice) (·.xm.wf = true) (fun _ _ h => by simp [h]) allVoices s h

@[simp] theorem State.fadeVoice_wf (s : State) (n : Nat) (h : s.xm.wf = true) :
    (s.fadeVoice n).xm.wf = true := by
  simp only [State.fadeVoice]
  repeat' split
  all_goals simp [h]

@[simp] theorem State.fadeVoices_wf (s : State) (h : s.xm.wf = true) :
    ((allVoices.foldl State.fadeVoice s)).xm.wf = true := 
    foldl_inv (act := State.fadeVoice) (·.xm.wf = true) (fun _ _ h => by simp [h]) allVoices s h

@[simp] theorem State.retryVoice_wf (s : State) (n : Nat) (h : s.xm.wf = true) :
    (s.retryVoice n).xm.wf = true := by
  simp only [State.retryVoice]
  repeat' split
  all_goals simp [h]

@[simp] theorem State.retryVoices_wf (s : State) (h : s.xm.wf = true) :
    ((allVoices.foldl State.retryVoice s)).xm.wf = true := 
    foldl_inv (act := State.retryVoice) (·.xm.wf = true) (fun _ _ h => by simp [h]) allVoices s h

@[simp] theorem State.holdTrigger_wf (s : State) (k : Nat) (t : Trigger) (h : s.xm.wf = true) :
    (s.holdTrigger k t).xm.wf = true := by
  simp only [State.holdTrigger]
  repeat' split
  all_goals simp [h]

@[simp] theorem State.soundSetChange_wf (s : State) (h : s.xm.wf = true) :
    (s.soundSetChange).xm.wf = true := by
  simp only [State.soundSetChange]
  exact triggersFrom_inv (·.xm.wf = true) (fun _ _ _ h => by simp [h]) _ _ _ (by simp [h])

@[simp] theorem State.soundStop_wf (s : State) (h : s.xm.wf = true) :
    (s.soundStop).xm.wf = true := by
  simp [State.soundStop, h]

@[simp] theorem State.playClip_wf (s : State) (ps : List Byte) (h : s.xm.wf = true) :
    ((s.playClip ps).1).xm.wf = true := by
  simp only [State.playClip]
  split
  · simp [h]
  split
  · simp [h]
  split
  · simp [h]
  rename_i n _
  have h := State.startVoice_wf s n (param8 ps 0) .none (playFields ps) h
  split <;> rename_i heq <;> rw [heq] at h <;> simpa using h

@[simp] theorem State.hushVoice_wf (s : State) (fade n : Nat) (h : s.xm.wf = true) :
    (s.hushVoice fade n).xm.wf = true := by
  simp only [State.hushVoice]
  repeat' split
  all_goals simp [h]

@[simp] theorem State.hushVoices_wf (s : State) (ps : List Byte) (h : s.xm.wf = true) :
    ((s.hushVoices ps).1).xm.wf = true := by
  simp only [State.hushVoices]
  split
  · simp [h]
  · exact foldl_inv (·.xm.wf = true) (fun _ _ h => by simp [h]) _ _ h

@[simp] theorem State.writeSlotState_wf (s : State) (n : Nat) (v : Byte) (h : s.xm.wf = true) :
    (s.writeSlotState n v).xm.wf = true := by
  simp [State.writeSlotState, h]

@[simp] theorem State.writeStep_wf (s : State) (n step : Nat) (h : s.xm.wf = true) :
    (s.writeStep n step).xm.wf = true := by
  simp [State.writeStep, h]

@[simp] theorem State.completeSlot_wf (s : State) (n : Nat) (outcome : OutcomeCode) (step : Nat) (result : List Byte) (h : s.xm.wf = true) :
    (s.completeSlot n outcome step result).xm.wf = true := by
  simp [State.completeSlot, h]

@[simp] theorem State.offer_wf (s : State) (kind : RecordKind) (reason : Reason) (f : Frame) (h : s.xm.wf = true) :
    (s.offer kind reason f).xm.wf = true := by
  simp only [State.offer]
  repeat' split
  all_goals simp [h]

@[simp] theorem State.logFrame_wf (s : State) (reason : Reason) (f : Frame) (h : s.xm.wf = true) :
    (s.logFrame reason f).xm.wf = true := by
  simp [State.logFrame, h]

@[simp] theorem State.logBeacon_wf (s : State) (reason : Reason) (f : Frame) (h : s.xm.wf = true) :
    (s.logBeacon reason f).xm.wf = true := by
  simp [State.logBeacon, h]

@[simp] theorem State.cancelStation_wf (s : State) (h : s.xm.wf = true) :
    (s.cancelStation).xm.wf = true := by
  simp only [State.cancelStation]
  repeat' split
  all_goals simp [h]

@[simp] theorem State.reportTraction_wf (s : State) (before : TractionState) (h : s.xm.wf = true) :
    (s.reportTraction before).xm.wf = true := by
  simp only [State.reportTraction]
  repeat' split
  all_goals simp [h]

@[simp] theorem State.derive_wf (s : State) (h : s.xm.wf = true) :
    (s.derive).xm.wf = true := by
  simp [State.derive, h]

@[simp] theorem State.releaseLatch_wf (s : State) (h : s.xm.wf = true) :
    (s.releaseLatch).xm.wf = true := by
  simp only [State.releaseLatch]
  repeat' split
  all_goals simp [h]

@[simp] theorem State.tractionShedChange_wf (s : State) (before : Nat) (h : s.xm.wf = true) :
    (s.tractionShedChange before).xm.wf = true := by
  simp only [State.tractionShedChange]
  repeat' split
  all_goals simp [h]

@[simp] theorem State.tractionLatchReport_wf (s : State) (h : s.xm.wf = true) :
    (s.tractionLatchReport).xm.wf = true := by
  simp only [State.tractionLatchReport]
  repeat' split
  all_goals simp [h]

@[simp] theorem State.tractionRunBegins_wf (s : State) (h : s.xm.wf = true) :
    (s.tractionRunBegins).xm.wf = true := by
  simp [State.tractionRunBegins, h]

@[simp] theorem State.tractionRunEnds_wf (s : State) (h : s.xm.wf = true) :
    (s.tractionRunEnds).xm.wf = true := by
  simp [State.tractionRunEnds, h]

@[simp] theorem State.beginRun_wf (s : State) (r : BalanceRun) (h : s.xm.wf = true) :
    (s.beginRun r).xm.wf = true := by
  simp [State.beginRun, h]

@[simp] theorem State.closeRun_wf (s : State) (r : BalanceRun) (outcome : OutcomeCode) (g : Nat) (h : s.xm.wf = true) :
    (s.closeRun r outcome g).xm.wf = true := by
  simp [State.closeRun, h]

@[simp] theorem State.endRun_wf (s : State) (outcome : OutcomeCode) (h : s.xm.wf = true) :
    (s.endRun outcome).xm.wf = true := by
  simp only [State.endRun]
  repeat' split
  all_goals simp [h]

@[simp] theorem State.finishRun_wf (s : State) (r : BalanceRun) (h : s.xm.wf = true) :
    (s.finishRun r).xm.wf = true := by
  simp [State.finishRun, h]

@[simp] theorem State.beginRunStep_wf (s : State) (r : BalanceRun) (h : s.xm.wf = true) :
    (s.beginRunStep r).xm.wf = true := by
  simp [State.beginRunStep, h]

@[simp] theorem State.balanceStep_wf (s : State) (m : Nat) (h : s.xm.wf = true) :
    (s.balanceStep m).xm.wf = true := by
  simp only [State.balanceStep]
  repeat' split
  all_goals simp [h]

@[simp] theorem State.holdRun_wf (s : State) (h : s.xm.wf = true) :
    (s.holdRun.1).xm.wf = true := by
  simp only [State.holdRun]
  repeat' split
  all_goals simp [h]

@[simp] theorem State.resumeRun_wf (s : State) (h : s.xm.wf = true) :
    (s.resumeRun.1).xm.wf = true := by
  simp only [State.resumeRun]
  repeat' split
  all_goals simp [h]

@[simp] theorem State.emergencyStop_wf (s : State) (h : s.xm.wf = true) :
    (s.emergencyStop).xm.wf = true := 
    State.endRun_wf _ _ (State.cancelStation_wf _ (by simp [h]))

@[simp] theorem State.balanceControl_wf (s : State) (d : Direction) (h : s.xm.wf = true) :
    (s.balanceControl d).xm.wf = true := by
  simp only [State.balanceControl]
  repeat' split
  all_goals simp [h]

@[simp] theorem State.stepInputs_wf (s : State) (h : s.xm.wf = true) :
    (s.stepInputs).xm.wf = true := by
  simp only [State.stepInputs]
  repeat' split
  all_goals simp [h]

@[simp] theorem State.control_wf (s : State) (h : s.xm.wf = true) :
    (s.control).xm.wf = true := by
  simp only [State.control]
  repeat' split
  all_goals simp [h]

@[simp] theorem State.stepEnds_wf (s : State) (h : s.xm.wf = true) :
    (s.stepEnds).xm.wf = true := by
  simp [State.stepEnds, h]

@[simp] theorem State.latchBridge_wf (s : State) (id : BridgeId) (h : s.xm.wf = true) :
    (s.latchBridge id).xm.wf = true := by
  simp [State.latchBridge, h]

@[simp] theorem State.cycleShort_wf (s : State) (id : BridgeId) (h : s.xm.wf = true) :
    (s.cycleShort id).xm.wf = true := by
  simp only [State.cycleShort]
  repeat' split
  all_goals simp [h]

@[simp] theorem State.clearBridge_wf (s : State) (id : BridgeId) (h : s.xm.wf = true) :
    (s.clearBridge id).xm.wf = true := by
  simp only [State.clearBridge]
  repeat' split
  all_goals simp [h]

@[simp] theorem State.clearMask_wf (s : State) (mask : BitVec 32) (h : s.xm.wf = true) :
    (s.clearMask mask).xm.wf = true := by
  simp only [State.clearMask]
  repeat' split
  all_goals simp [h]

@[simp] theorem State.clearFaultsOrder_wf (s : State) (ps : List Byte) (h : s.xm.wf = true) :
    ((s.clearFaultsOrder ps).1).xm.wf = true := by
  simp [State.clearFaultsOrder, h]

@[simp] theorem State.balanceShedChange_wf (s : State) (before : Nat) (h : s.xm.wf = true) :
    (s.balanceShedChange before).xm.wf = true := by
  simp only [State.balanceShedChange]
  repeat' split
  all_goals simp [h]

@[simp] theorem State.formShed_wf (s : State) (h : s.xm.wf = true) :
    (s.formShed).xm.wf = true := by
  simp only [State.formShed]
  repeat' split
  all_goals simp [h]

@[simp] theorem State.supplyReport_wf (s : State) (before : SupplyState) (h : s.xm.wf = true) :
    (s.supplyReport before).xm.wf = true := by
  simp only [State.supplyReport]
  repeat' split
  all_goals simp [h]

@[simp] theorem State.tellFunctions_wf (s : State) (before : Reg) (h : s.xm.wf = true) :
    (s.tellFunctions before).xm.wf = true := by
  simp [State.tellFunctions, h]

@[simp] theorem State.setFunctions_wf (s : State) (functions : Reg) (h : s.xm.wf = true) :
    (s.setFunctions functions).xm.wf = true := by
  simp [State.setFunctions, h]

@[simp] theorem State.applyRequest_wf (s : State) (throttle : Nat) (direction : Direction) (h : s.xm.wf = true) :
    (s.applyRequest throttle direction).xm.wf = true := by
  simp only [State.applyRequest]
  repeat' split
  all_goals simp [h]

@[simp] theorem State.releaseLease_wf (s : State) (h : s.xm.wf = true) :
    (s.releaseLease).xm.wf = true := by
  simp [State.releaseLease, h]

@[simp] theorem State.overduePoints_wf (s : State) (h : s.xm.wf = true) :
    (s.overduePoints).xm.wf = true := by
  simp only [State.overduePoints]
  repeat' split
  all_goals simp [h]

@[simp] theorem State.loadRadio_wf (s : State) (m : Memory) (h : s.xm.wf = true) :
    (s.loadRadio m).xm.wf = true := by
  simp [State.loadRadio, h]

@[simp] theorem State.throttleOrder_wf (s : State) (ps : List Byte) (h : s.xm.wf = true) :
    ((s.throttleOrder ps).1).xm.wf = true := by
  simp only [State.throttleOrder]
  repeat' split
  all_goals simp [h]

@[simp] theorem State.functionsOrder_wf (s : State) (ps : List Byte) (h : s.xm.wf = true) :
    ((s.functionsOrder ps).1).xm.wf = true := by
  simp [State.functionsOrder, h]

@[simp] theorem State.leaseReleaseOrder_wf (s : State) (ps : List Byte) (h : s.xm.wf = true) :
    ((s.leaseReleaseOrder ps).1).xm.wf = true := by
  simp only [State.leaseReleaseOrder]
  repeat' split
  all_goals simp [h]

@[simp] theorem State.soundEnterRun_wf (s : State) (h : s.xm.wf = true) :
    (s.soundEnterRun).xm.wf = true := by
  simp [State.soundEnterRun, h]

@[simp] theorem State.enterRun_wf (s : State) (j : StartJob) (h : s.xm.wf = true) :
    (s.enterRun j).xm.wf = true := by
  simp [State.enterRun, h]

@[simp] theorem State.teardown_wf (s : State) (h : s.xm.wf = true) :
    (s.teardown).xm.wf = true := by
  simp [State.teardown, h]

@[simp] theorem State.requestTeardown_wf (s : State) (h : s.xm.wf = true) :
    (s.requestTeardown).xm.wf = true := by
  simp only [State.requestTeardown]
  repeat' split
  all_goals simp [h]

@[simp] theorem State.tellSetChange_wf (s : State) (h : s.xm.wf = true) :
    (s.tellSetChange).xm.wf = true := by
  simp [State.tellSetChange, h]

@[simp] theorem State.applyAction_wf (s : State) (a : SetAction) (d : DriveSet) (clamped : Bool) (h : s.xm.wf = true) :
    (s.applyAction a d clamped).xm.wf = true := by
  simp only [State.applyAction]
  repeat' split
  all_goals simp [h]

@[simp] theorem State.reportAction_wf (s : State) (a : SetAction) (outcome : OutcomeCode) (h : s.xm.wf = true) :
    (s.reportAction a outcome).xm.wf = true := by
  simp only [State.reportAction]
  repeat' split
  all_goals simp [h]

@[simp] theorem State.conclude_wf (s : State) (a : SetAction) (d : Option (DriveSet × Bool)) (h : s.xm.wf = true) :
    (s.conclude a d).xm.wf = true := by
  simp only [State.conclude]
  split
  · exact State.reportAction_wf _ _ _ (by simp [h])
  all_goals simp [h]

@[simp] theorem State.takeWaiting_wf (s : State) (waiting : List SetAction) (h : s.xm.wf = true) :
    (State.takeWaiting waiting s).xm.wf = true := by
  induction waiting generalizing s with
  | nil => simp [State.takeWaiting, h]
  | cons a rest ih =>
    simp only [State.takeWaiting]
    split
    · simp [h]
    · exact ih _ (by simp [h])

@[simp] theorem State.abandonAction_wf (s : State) (a : SetAction) (h : s.xm.wf = true) :
    (s.abandonAction a).xm.wf = true := by
  simp only [State.abandonAction]
  repeat' split
  all_goals simp [h]

@[simp] theorem State.abandonWaiting_wf (s : State) (waiting : List SetAction) (h : s.xm.wf = true) :
    (s.abandonWaiting waiting).xm.wf = true := by
  simp only [State.abandonWaiting]
  exact foldl_inv (·.xm.wf = true) (fun _ _ h => by simp [h]) _ _ h

@[simp] theorem State.nextAction_wf (s : State) (h : s.xm.wf = true) :
    (s.nextAction).xm.wf = true := by
  simp only [State.nextAction]
  repeat' split
  all_goals simp [h]

@[simp] theorem State.decideAction_wf (s : State) (a : SetAction) (h : s.xm.wf = true) :
    (s.decideAction a).xm.wf = true := by
  simp [State.decideAction, h]

@[simp] theorem State.actionArrives_wf (s : State) (a : SetAction) (h : s.xm.wf = true) :
    (s.actionArrives a).xm.wf = true := by
  simp only [State.actionArrives]
  repeat' split
  all_goals simp [h]

@[simp] theorem State.requestAction_wf (s : State) (code index level : Nat) (source : Requestor) (h : s.xm.wf = true) :
    (s.requestAction code index level source).xm.wf = true := by
  simp only [State.requestAction]
  repeat' split
  all_goals simp [h]

@[simp] theorem State.decideHead_wf (s : State) (kind : SetActionKind) (h : s.xm.wf = true) :
    (s.decideHead kind).xm.wf = true := by
  simp only [State.decideHead]
  repeat' split
  all_goals simp [h]

@[simp] theorem State.beaconZone_wf (s : State) (f : Frame) (h : s.xm.wf = true) :
    (s.beaconZone f).xm.wf = true := by
  simp only [State.beaconZone]
  repeat' split
  all_goals simp [h]

@[simp] theorem State.beaconStation_wf (s : State) (f : Frame) (h : s.xm.wf = true) :
    (s.beaconStation f).xm.wf = true := by
  simp only [State.beaconStation]
  repeat' split
  all_goals simp [h]

@[simp] theorem State.beaconHorn_wf (s : State) (h : s.xm.wf = true) :
    (s.beaconHorn).xm.wf = true := by
  simp only [State.beaconHorn]
  repeat' split
  all_goals simp [h]

@[simp] theorem State.completeOrder_wf (s : State) (o : TakenOrder) (outcome : OutcomeCode) (result : List Byte) (h : s.xm.wf = true) :
    (s.completeOrder o outcome result).xm.wf = true := by
  simp [State.completeOrder, h]

@[simp] theorem State.takeSlot_wf (s : State) (n : Nat) (bytes : List Byte) (h : s.xm.wf = true) :
    (s.takeSlot n bytes).xm.wf = true := by
  simp only [State.takeSlot]
  repeat' split
  all_goals simp [h]

@[simp] theorem State.writeGeneration_wf (s : State) (h : s.xm.wf = true) :
    (s.writeGeneration).xm.wf = true := by
  simp [State.writeGeneration, h]

@[simp] theorem State.writeStatusWord_wf (s : State) (k : Nat) (h : s.xm.wf = true) :
    (s.writeStatusWord k).xm.wf = true := by
  simp [State.writeStatusWord, h]

@[simp] theorem State.writeStatusWords_wf (s : State) (k n : Nat) (h : s.xm.wf = true) :
    (State.writeStatusWords k n s).xm.wf = true := by
  induction n generalizing k s with
  | zero => simpa [State.writeStatusWords] using h
  | succ n ih => exact ih _ _ (by simp [h])

@[simp] theorem State.finishUpdate_wf (s : State) (k : Nat) (h : s.xm.wf = true) :
    (s.finishUpdate k).xm.wf = true := 
    State.writeGeneration_wf _ (State.writeStatusWords_wf _ _ _ (by split <;> simp [h]))

@[simp] theorem State.emptySegment_wf (s : State) (clip : Nat) (second : Bool) (h : s.xm.wf = true) :
    (s.emptySegment clip second).xm.wf = true := by
  simp only [State.emptySegment]
  repeat' split
  all_goals simp [h]

@[simp] theorem State.resetAccess_wf (s : State) (t : ResetTask) (h : s.xm.wf = true) :
    ((s.resetAccess t).1).xm.wf = true := by
  simp only [State.resetAccess]
  repeat' split
  all_goals simp [h]

@[simp] theorem State.resetTask_wf (s : State) (t : ResetTask) (h : s.xm.wf = true) :
    (s.resetTask t).xm.wf = true := by
  simp only [State.resetTask]
  repeat' split
  all_goals simp [h]

@[simp] theorem writeMemory_wf (s : State) (addr : BitVec 16) (data : List Byte) (h : s.xm.wf = true) :
    (writeMemory addr data s).xm.wf = true := by
  simp [writeMemory, h]

@[simp] theorem State.endStage_wf (s : State) (j : StartJob) (h : s.xm.wf = true) :
    ((s.endStage j).1).xm.wf = true := by
  simp only [State.endStage]
  repeat' split
  all_goals simp [h]

@[simp] theorem State.endLoads_wf (s : State) (n : Nat) (j : StartJob) (h : s.xm.wf = true) :
    ((State.endLoads n s j).1).xm.wf = true := by
  induction n generalizing s j with
  | zero => simp [State.endLoads, h]
  | succ n ih =>
    simp only [State.endLoads]
    split
    · simp [h]
    · exact ih _ _ (by simp [h])

@[simp] theorem startEnd_wf (s : State) (h : s.xm.wf = true) :
    (startEnd s).xm.wf = true := by
  simp only [startEnd]
  split
  · rename_i j _
    have hl := State.endLoads_wf s 4 j h
    repeat' split
    all_goals simp [h, hl]
  · exact h

@[simp] theorem startRefused_wf (s : State) (h : s.xm.wf = true) :
    (startRefused s).xm.wf = true := by
  simp only [startRefused]
  repeat' split
  all_goals simp [h]

@[simp] theorem State.requestStop_wf (s : State) (h : s.xm.wf = true) :
    (s.requestStop).xm.wf = true := by
  simp only [State.requestStop]
  repeat' split
  all_goals simp [h]

@[simp] theorem teardown_wf (s : State) (h : s.xm.wf = true) :
    (teardown s).xm.wf = true := by
  simp [teardown, h]

@[simp] theorem resetRewritesEnd_wf (s : State) (h : s.xm.wf = true) :
    (resetRewritesEnd s).xm.wf = true := by
  simp only [resetRewritesEnd]
  split
  · simp only [State.endReset_frame]
    exact State.finishUpdate_wf _ _ (foldl_inv (·.xm.wf = true) (fun _ _ h => by simp [h]) _ s h)
  · simp [h]

@[simp] theorem slotTake_wf (s : State) (h : s.xm.wf = true) :
    (slotTake s).xm.wf = true := by
  simp only [slotTake]
  repeat' split
  all_goals simp [h]

@[simp] theorem statusUpdateEnd_wf (s : State) (h : s.xm.wf = true) :
    (statusUpdateEnd s).xm.wf = true := by
  simp only [statusUpdateEnd]
  repeat' split
  all_goals simp [h]

@[simp] theorem State.requestRefresh_wf (s : State) (o : TakenOrder) (h : s.xm.wf = true) :
    (s.requestRefresh o).xm.wf = true := by
  simp [State.requestRefresh, h]

@[simp] theorem throttleOrder_wf (s : State) (h : s.xm.wf = true) :
    (throttleOrder s).xm.wf = true := by
  simp only [throttleOrder, State.runOrder]
  repeat' split
  all_goals simp [h]

@[simp] theorem functions_wf (s : State) (h : s.xm.wf = true) :
    (functions s).xm.wf = true := by
  simp only [functions, State.runOrder]
  repeat' split
  all_goals simp [h]

@[simp] theorem stopOrder_wf (s : State) (h : s.xm.wf = true) :
    (stopOrder s).xm.wf = true := by
  simp only [stopOrder, State.runOrder]
  repeat' split
  all_goals simp [h]

@[simp] theorem setAction_wf (s : State) (h : s.xm.wf = true) :
    (setAction s).xm.wf = true := by
  simp only [setAction, State.handOver]
  repeat' split
  all_goals simp [h]

@[simp] theorem invoke_wf (s : State) (h : s.xm.wf = true) :
    (invoke s).xm.wf = true := by
  simp [invoke, h]

@[simp] theorem switchSet_wf (s : State) (h : s.xm.wf = true) :
    (switchSet s).xm.wf = true := by
  simp [switchSet, h]

@[simp] theorem returnSet_wf (s : State) (h : s.xm.wf = true) :
    (returnSet s).xm.wf = true := by
  simp [returnSet, h]

@[simp] theorem refreshSet_wf (s : State) (h : s.xm.wf = true) :
    (refreshSet s).xm.wf = true := by
  simp only [refreshSet, State.handOver]
  repeat' split
  all_goals simp [h]

@[simp] theorem loadLamps_wf (s : State) (h : s.xm.wf = true) :
    (loadLamps s).xm.wf = true := by
  simp only [loadLamps, State.runOrder, State.loadLampsOrder]
  repeat' split
  all_goals simp [h]

@[simp] theorem loadRadio_wf (s : State) (h : s.xm.wf = true) :
    (loadRadio s).xm.wf = true := by
  simp only [loadRadio, State.runOrder, State.loadRadioOrder]
  repeat' split
  all_goals simp [h]

@[simp] theorem play_wf (s : State) (h : s.xm.wf = true) :
    (play s).xm.wf = true := by
  simp only [play, State.runOrder]
  repeat' split
  all_goals simp [h]

@[simp] theorem hush_wf (s : State) (h : s.xm.wf = true) :
    (hush s).xm.wf = true := by
  simp only [hush, State.runOrder]
  repeat' split
  all_goals simp [h]

@[simp] theorem balance_wf (s : State) (h : s.xm.wf = true) :
    (balance s).xm.wf = true := by
  simp only [balance]
  repeat' split
  all_goals simp [h]

@[simp] theorem holdBalance_wf (s : State) (h : s.xm.wf = true) :
    (holdBalance s).xm.wf = true := by
  simp only [holdBalance, State.runOrder]
  repeat' split
  all_goals simp [h]

@[simp] theorem resumeBalance_wf (s : State) (h : s.xm.wf = true) :
    (resumeBalance s).xm.wf = true := by
  simp only [resumeBalance, State.runOrder]
  repeat' split
  all_goals simp [h]

@[simp] theorem clearFaults_wf (s : State) (h : s.xm.wf = true) :
    (clearFaults s).xm.wf = true := by
  simp only [clearFaults, State.runOrder]
  repeat' split
  all_goals simp [h]

@[simp] theorem leaseTake_wf (s : State) (h : s.xm.wf = true) :
    (leaseTake s).xm.wf = true := by
  simp only [leaseTake, State.runOrder]
  repeat' split
  all_goals simp [h]

@[simp] theorem leaseRelease_wf (s : State) (h : s.xm.wf = true) :
    (leaseRelease s).xm.wf = true := by
  simp only [leaseRelease, State.runOrder]
  repeat' split
  all_goals simp [h]

@[simp] theorem regulationStep_wf (s : State) (h : s.xm.wf = true) :
    (regulationStep s).xm.wf = true := 
    State.stepEnds_wf _ (State.control_wf _ (State.stepInputs_wf _ (by simp [h])))

@[simp] theorem balanceHeldTimerExpiry_wf (s : State) (h : s.xm.wf = true) :
    (balanceHeldTimerExpiry s).xm.wf = true := by
  simp only [balanceHeldTimerExpiry]
  repeat' split
  all_goals simp [h]

@[simp] theorem shortDetection_wf (s : State) (id : BridgeId) (millivolts since : Nat) (h : s.xm.wf = true) :
    (shortDetection id millivolts since s).xm.wf = true := by
  simp only [shortDetection]
  repeat' split
  all_goals simp [h]

@[simp] theorem throttleFrame_wf (s : State) (h : s.xm.wf = true) :
    (throttleFrame s).xm.wf = true := by
  simp only [throttleFrame, State.handleFrame, State.actOn, throttleAct]
  repeat' split
  all_goals simp [h]

@[simp] theorem funcFrame_wf (s : State) (h : s.xm.wf = true) :
    (funcFrame s).xm.wf = true := by
  simp only [funcFrame, State.handleFrame, State.actOn, funcAct]
  repeat' split
  all_goals simp [h]

@[simp] theorem releaseFrame_wf (s : State) (h : s.xm.wf = true) :
    (releaseFrame s).xm.wf = true := by
  simp only [releaseFrame, State.handleFrame, State.actOn, releaseAct]
  repeat' split
  all_goals simp [h]

@[simp] theorem stopFrame_wf (s : State) (h : s.xm.wf = true) :
    (stopFrame s).xm.wf = true := by
  simp only [stopFrame, State.handleFrame, State.actOn, stopAct]
  repeat' split
  all_goals simp [h]

@[simp] theorem setFrame_wf (s : State) (h : s.xm.wf = true) :
    (setFrame s).xm.wf = true := by
  simp only [setFrame, State.handleFrame, State.actOn, setAct]
  repeat' split
  all_goals simp [h]

@[simp] theorem passFrame_wf (s : State) (h : s.xm.wf = true) :
    (passFrame s).xm.wf = true := by
  simp only [passFrame, State.handleFrame, State.actOn, passAct]
  repeat' split
  all_goals simp [h]

@[simp] theorem consistJoin_wf (s : State) (h : s.xm.wf = true) :
    (consistJoin s).xm.wf = true := by
  simp only [consistJoin, State.handleFrame, State.actOn, joinAct]
  repeat' split
  all_goals simp [h]

@[simp] theorem consistLeave_wf (s : State) (h : s.xm.wf = true) :
    (consistLeave s).xm.wf = true := by
  simp only [consistLeave, State.handleFrame, State.actOn, leaveAct]
  repeat' split
  all_goals simp [h]

@[simp] theorem beaconFrame_wf (s : State) (h : s.xm.wf = true) :
    (beaconFrame s).xm.wf = true := by
  simp only [beaconFrame, State.handleFrame, State.actOn, beaconAct]
  repeat' split
  all_goals first
    | (simp [h]; done)
    | simpa using State.beaconHorn_wf _ (State.beaconStation_wf _ _ (by simp [h]))

@[simp] theorem serviceWrite_wf (s : State) (h : s.xm.wf = true) :
    (serviceWrite s).xm.wf = true := by
  simp only [serviceWrite]
  repeat' split
  all_goals simp [h]

@[simp] theorem serviceWriteDone_wf (s : State) (h : s.xm.wf = true) :
    (serviceWriteDone s).xm.wf = true := by
  simp only [serviceWriteDone]
  repeat' split
  all_goals simp [h]

@[simp] theorem lapseExpiry_wf (s : State) (h : s.xm.wf = true) :
    (lapseExpiry s).xm.wf = true := by
  simp only [lapseExpiry]
  repeat' split
  all_goals simp [h]

@[simp] theorem dwellTimerExpiry_wf (s : State) (h : s.xm.wf = true) :
    (dwellTimerExpiry s).xm.wf = true := by
  simp only [dwellTimerExpiry]
  repeat' split
  all_goals simp [h]

@[simp] theorem sampleTimerExpiry_wf (s : State) (h : s.xm.wf = true) :
    (sampleTimerExpiry s).xm.wf = true := by
  simp only [sampleTimerExpiry]
  repeat' split
  all_goals simp [h]

@[simp] theorem mixerFrame_wf (s : State) (h : s.xm.wf = true) :
    (mixerFrame s).xm.wf = true := by
  simp only [mixerFrame]
  repeat' split
  all_goals first
    | simp [h]
    | exact State.retryVoices_wf _ (by simp [h])

@[simp] theorem supplySample_wf (s : State) (vtrk vsto : Nat) (h : s.xm.wf = true) :
    (supplySample vtrk vsto s).xm.wf = true := by
  simp [supplySample, h]

@[simp] theorem dieTemperatureExpiry_wf (s : State) (celsius : Int) (h : s.xm.wf = true) :
    (dieTemperatureExpiry celsius s).xm.wf = true := by
  simp [dieTemperatureExpiry, h]

@[simp] theorem State.startAccess_wf (s : State) (j : StartJob) (h : s.xm.wf = true) :
    (s.startAccess j).xm.wf = true := by
  simp only [State.startAccess]
  repeat' split
  all_goals simp [h]

@[simp] theorem State.resetGoesOn_xm (s : State) (todo : List ResetTask) : (s.resetGoesOn todo).xm = s.xm := by
  simp only [State.resetGoesOn]
  split <;> simp [State.beginUpdate]

@[simp] theorem State.grantReset_wf (s : State) (h : s.xm.wf = true) :
    (s.grantReset).xm.wf = true := by
  simp only [State.grantReset]
  repeat' split
  all_goals simp [h]

@[simp] theorem State.grantRefresh_wf (s : State) (h : s.xm.wf = true) :
    (s.grantRefresh).xm.wf = true := by
  simp only [State.grantRefresh]
  repeat' split
  all_goals simp [h]

@[simp] theorem State.grantOrders_wf (s : State) (h : s.xm.wf = true) :
    (s.grantOrders).xm.wf = true := by
  simp only [State.grantOrders]
  repeat' split
  all_goals simp [h]

@[simp] theorem State.grantStatus_wf (s : State) (h : s.xm.wf = true) :
    (s.grantStatus).xm.wf = true := by
  simp only [State.grantStatus]
  repeat' split
  all_goals simp [h]

@[simp] theorem State.grantRadio_wf (s : State) (h : s.xm.wf = true) :
    (s.grantRadio).xm.wf = true := by
  simp only [State.grantRadio]
  repeat' split
  all_goals simp [h]

@[simp] theorem State.grant_wf (s : State) (r : Requester) (h : s.xm.wf = true) :
    (s.grant r).xm.wf = true := by
  simp only [State.grant]
  repeat' split
  all_goals simp [h]

@[simp] theorem State.grants_wf (s : State) (n : Nat) (h : s.xm.wf = true) :
    (State.grants n s).xm.wf = true := by
  induction n generalizing s with
  | zero => simp [State.grants, h]
  | succ n ih =>
    simp only [State.grants]
    repeat' split
    · exact ih _ (by simp [h])
    · exact ih _ (by simp [h])
    · exact h

@[simp] theorem idle_wf (s : State) (h : s.xm.wf = true) :
    (idle s).xm.wf = true := by
  simp [idle, h]

end Sys2Proof.Machine
end

