-- ==== Sys2Proof/Laws/Slots.lean ====
section
/-! SUPPORT. What a completion write does (R20): the slot it leaves, the memory and the blocks it leaves
alone; what a register of pending bits holds after several of them were set; and which slot a sweep reads next
(R18). -/

namespace Sys2Proof.Machine

open Sys2Proof.Safety

/-- Setting a pending bit, as one update of the host port. -/
theorem State.raise_port (s : State) (b : NoticeBit) : (s.raise b).port = withNotice s.port [b] := rfl

theorem withNotice_append (p : Port) (l : List NoticeBit) (b : NoticeBit) :
    withNotice (withNotice p l) [b] = withNotice p (l ++ [b]) := by
  simp [withNotice]

theorem length_padTo (n : Nat) (l : List Byte) : (padTo n l).length = n := by simp [padTo]

theorem getElem_padTo (n k : Nat) (l : List Byte) (h : k < (padTo n l).length) :
    (padTo n l)[k] = l.getD k 0 := by
  have hk : k < n := by simpa [length_padTo] using h
  simp only [padTo, List.getElem_take, List.getElem_append, List.getElem_replicate]
  split
  · rename_i hl
    simp [hl]
  · rename_i hl
    simp [Nat.le_of_not_lt hl]

/-- Memory after the 24 bytes of outcome, step and result, and then DONE. -/
theorem completed_memory {m : Memory} (h : m.wf = true) (slot : Nat) (hs : slot < 32) (code stepByte : Byte)
    (result : List Byte) (a : Nat) :
    ((m.writeBytes (slotBase slot + 0x28) ([code, stepByte] ++ padTo 22 result)).write (slotBase slot)
        3).read a =
      if a % 65536 = slotBase slot then 3
      else if a % 65536 = slotBase slot + 0x28 then code
      else if a % 65536 = slotBase slot + 0x29 then stepByte
      else if slotBase slot + 0x2A ≤ a % 65536 ∧ a % 65536 < slotBase slot + 0x40 then
        result.getD (a % 65536 - (slotBase slot + 0x2A)) 0
      else m.read a := by
  have hb : slotBase slot + 0x40 ≤ 65536 := by simp only [slotBase]; omega
  have hl : ([code, stepByte] ++ padTo 22 result).length = 24 := by simp [length_padTo]
  have hread : ∀ x, (m.writeBytes (slotBase slot + 0x28) ([code, stepByte] ++ padTo 22 result)).read x =
      (m.writeBytes (slotBase slot + 0x28) ([code, stepByte] ++ padTo 22 result)).read (x % 65536) := by
    intro x; simp [Memory.read]
  rw [Memory.read_write _ _ _ (Memory.wf_writeBytes _ _ h), Nat.mod_eq_of_lt (by omega), hread]
  by_cases h0 : a % 65536 = slotBase slot
  · simp [h0]
  · rw [if_neg (Ne.symm h0), if_neg h0]
    by_cases hin : slotBase slot + 0x28 ≤ a % 65536 ∧ a % 65536 < slotBase slot + 0x40
    · obtain ⟨k, hk⟩ : ∃ k, a % 65536 = slotBase slot + 0x28 + k := ⟨_, (Nat.add_sub_cancel' hin.1).symm⟩
      have hk24 : k < ([code, stepByte] ++ padTo 22 result).length := by omega
      rw [hk, Memory.read_writeBytes h k hk24 (by intro j _ hj; omega)]
      match k, hk24 with
      | 0, _ => simp
      | 1, _ => simp
      | k + 2, hk24 =>
        rw [if_neg (by omega), if_neg (by omega), if_pos (by omega)]
        have : slotBase slot + 0x28 + (k + 2) - (slotBase slot + 0x2A) = k := by omega
        rw [this]
        simpa using getElem_padTo 22 k result (by simp [length_padTo]; omega)
    · rw [if_neg (by omega), if_neg (by omega), if_neg (by omega)]
      rw [Memory.read_writeBytes_other h (by intro j hj; omega)]
      simp [Memory.read]

/-- The slot after a completion write. -/
theorem State.completeSlot_done (s : State) (n : Nat) (outcome : OutcomeCode) (step : Nat)
    (result : List Byte) (h : s.xm.wf = true) (hn : n < 32) :
    slotDone (s.completeSlot n outcome step result).xm n outcome step result := by
  have hb : slotBase n + 0x40 ≤ 65536 := by simp only [slotBase]; omega
  simp only [State.completeSlot, State.raise_frame, State.onOrders_xm, State.writeSlotState, State.granted_xm,
    State.onXm_xm, slotDone, completed_memory h n hn]
  refine ⟨by rw [Nat.mod_eq_of_lt (by omega)]; simp, by rw [Nat.mod_eq_of_lt (by omega)]; simp,
    by rw [Nat.mod_eq_of_lt (by omega)]; simp [loByte], fun k hk => ?_⟩
  rw [Nat.mod_eq_of_lt (by omega), if_neg (by omega), if_neg (by omega), if_neg (by omega),
    if_pos (by omega)]
  congr 1
  omega

/-- A completion write leaves every byte outside the slot's own as it was. -/
theorem State.completeSlot_same (s : State) (n : Nat) (outcome : OutcomeCode) (step : Nat)
    (result : List Byte) (h : s.xm.wf = true) (hn : n < 32) :
    sameBut s.xm (s.completeSlot n outcome step result).xm (inSlot n) := by
  intro a ha hout
  simp only [inSlot, not_or, not_and] at hout
  simp only [State.completeSlot, State.raise_frame, State.onOrders_xm, State.writeSlotState, State.granted_xm,
    State.onXm_xm, completed_memory h n hn, Nat.mod_eq_of_lt ha]
  have := hout.2
  rw [if_neg hout.1, if_neg (by omega), if_neg (by omega), if_neg (by omega)]

theorem State.completeSlot_port (s : State) (n : Nat) (outcome : OutcomeCode) (step : Nat)
    (result : List Byte) : (s.completeSlot n outcome step result).port = withNotice s.port [.order] := rfl

theorem State.completeSlot_orders (s : State) (n : Nat) (outcome : OutcomeCode) (step : Nat)
    (result : List Byte) :
    (s.completeSlot n outcome step result).orders =
      { s.orders with held := s.orders.held.filter fun k => decide (k ≠ n) } := rfl

/-- A completion write, as one state. -/
theorem State.completeSlot_eq (s : State) (n : Nat) (outcome : OutcomeCode) (step : Nat) (result : List Byte) :
    s.completeSlot n outcome step result =
      { s with
        xm := (s.completeSlot n outcome step result).xm
        lastGranted := .orderEngine
        orders := { s.orders with held := s.orders.held.filter fun k => decide (k ≠ n) }
        port := withNotice s.port [.order] } := rfl

/-- The end of the order in hand: the order engine afterwards. -/
theorem State.completeOrder_orders (s : State) (o : TakenOrder) (outcome : OutcomeCode)
    (result : List Byte) : (s.completeOrder o outcome result).orders = ordersAfter s o := rfl

theorem State.completeOrder_port (s : State) (o : TakenOrder) (outcome : OutcomeCode)
    (result : List Byte) : (s.completeOrder o outcome result).port = withNotice s.port [.order] := rfl

theorem State.completeOrder_xm (s : State) (o : TakenOrder) (outcome : OutcomeCode)
    (result : List Byte) :
    (s.completeOrder o outcome result).xm = (s.completeSlot o.slot outcome 0 result).xm := rfl

/-- The order in hand ended, as one state. -/
theorem State.completeOrder_eq (s : State) (o : TakenOrder) (outcome : OutcomeCode) (result : List Byte) :
    s.completeOrder o outcome result =
      { s with
        xm := (s.completeSlot o.slot outcome 0 result).xm
        lastGranted := .orderEngine
        orders := ordersAfter s o
        port := withNotice s.port [.order] } := rfl

/-- The next slot that a sweep reads is the first, from where it stands on, that is not held (R18). -/
theorem nextUnheld_some {held : List Nat} {n count m : Nat} (h : nextUnheld held n count = some m) :
    n ≤ m ∧ m < n + count ∧ m ∉ held ∧ ∀ k, n ≤ k → k < m → k ∈ held := by
  induction count generalizing n with
  | zero => simp [nextUnheld] at h
  | succ count ih =>
    simp only [nextUnheld] at h
    split at h
    · rename_i hn
      obtain ⟨a, b, c, d⟩ := ih h
      refine ⟨by omega, by omega, c, fun k hk hm => ?_⟩
      rcases Nat.eq_or_lt_of_le hk with e | e
      · subst e
        simpa using hn
      · exact d k e hm
    · rename_i hn
      have : n = m := by simpa using h
      subst this
      exact ⟨Nat.le_refl _, by omega, by simpa using hn, fun k hk hm => absurd hm (by omega)⟩

/-- A sweep with no slot to read has only held slots before it. -/
theorem nextUnheld_none {held : List Nat} {n count : Nat} (h : nextUnheld held n count = none) :
    ∀ k, n ≤ k → k < n + count → k ∈ held := by
  induction count generalizing n with
  | zero => intro k hk hm; omega
  | succ count ih =>
    simp only [nextUnheld] at h
    split at h
    · rename_i hn
      intro k hk hm
      rcases Nat.eq_or_lt_of_le hk with e | e
      · subst e
        simpa using hn
      · exact ih h k e (by omega)
    · cases h

/-- An order refused, or ended without another effect. -/
theorem State.completeOrder_refused (s : State) (o : TakenOrder) (outcome : OutcomeCode)
    (result : List Byte) (h : s.xm.wf = true) (ho : orderTaken s o) :
    refusedOrder s (s.completeOrder o outcome result) o outcome result := by
  obtain ⟨w, _, _, hs⟩ := ho
  exact ⟨State.completeSlot_done s o.slot outcome 0 result h hs,
    State.completeSlot_same s o.slot outcome 0 result h hs, rfl⟩

/-- The order in hand is found when it is of the kind asked for. -/
theorem orderInHand_taken {s : State} {o : TakenOrder} (h : orderTaken s o) {mine : TakenOrder → Bool}
    (hm : mine o = true) : orderInHand s mine = some o := by
  obtain ⟨w, hw, hc, _⟩ := h
  simp [orderInHand, hw, hc, hm]

/-- In RUN every order of a known kind passes the common checks (R19). -/
theorem orderRefusal_run {s : State} (h : s.isRun = true) {k : Nat} (hk : 1 ≤ k) (hk' : k ≤ 14) :
    orderRefusal s k = none := by
  unfold orderRefusal
  rw [if_neg (by omega), if_neg (by simp [h])]

/-- An order of a known kind in RUN is carried out by its owner and completed. -/
theorem State.runOrder_run {s : State} {o : TakenOrder} (h : orderTaken s o) (hr : s.isRun = true)
    (hk : 1 ≤ o.kind) (hk' : o.kind ≤ 14) {mine : TakenOrder → Bool} (hm : mine o = true)
    (act : State → TakenOrder → OrderAnswer) :
    s.runOrder mine act = (act s o).1.completeOrder o (act s o).2.1 (act s o).2.2 := by
  simp [State.runOrder, orderInHand_taken h hm, orderRefusal_run hr hk hk']

end Sys2Proof.Machine
end

