-- ==== Sys2Proof/Laws/Bridges.lean ====
section
/-! SUPPORT. What the bridges make of a command handed (R87 to R89). -/

namespace Sys2Proof.Machine

open Sys2Proof.Safety

/-! ## Gates and periods -/

theorem deadTimeOver_iff (off : Option Nat) (now : Nat) : deadTimeOver off now = true ↔ deadOver off now := by
  unfold deadTimeOver deadOver
  cases off <;> simp

theorem lowNext_rests (now : Nat) (high low brake : Bool) (off : Option Nat) :
    lowNext now high low false brake off = true ↔
      brake = true ∧ (low = true ∨ high = false ∧ deadOver off now) := by
  cases high <;> cases low <;> cases brake <;> simp [lowNext, offTime, deadTimeOver, deadTime, ← deadTimeOver_iff]

/-- A bridge out of DRIVE, or released for DRIVE, takes up its fixed pattern (R87, R89). -/
theorem Bridge.rest_rests (b : Bridge) (now : Nat) (state : BridgeState) :
    bridgeRests b (b.rest now state (restPattern state)) state now := by
  have hask : restPattern state = { Gates.none with
      low1 := decide (state = .brake), low2 := decide (state = .brake) } := by
    cases state <;> rfl
  have hlow : ∀ high low off, lowNext now high low false (decide (state = .brake)) off = true ↔
      state = .brake ∧ (low = true ∨ high = false ∧ deadOver off now) := fun high low off =>
    (lowNext_rests ..).trans (by rw [decide_eq_true_iff])
  have hhi : ∀ (on : Bool) off, offTime now on false off = if on = true then some now else off := by
    intro on off; cases on <;> rfl
  have hlo : ∀ (on : Bool) off, offTime now on (decide (state = .brake)) off =
      if on = true ∧ state ≠ .brake then some now else off := by
    intro on off; cases on <;> by_cases h : state = .brake <;> simp [offTime, h]
  refine ⟨fun leg => ?_, rfl⟩
  rw [hask]
  cases leg
  · exact ⟨rfl, hlow _ _ _, Prod.ext (hhi _ _) (hlo _ _)⟩
  · exact ⟨rfl, hlow _ _ _, Prod.ext (hhi _ _) (hlo _ _)⟩

/-- What a clear makes of a bridge (R99). -/
theorem Bridge.release_eq (b : Bridge) (now : Nat) (c : Command) : b.release now c =
    if b.state = .latched then b.rest now (stateNamed c) (restPattern (stateNamed c)) else { b with shortRun := 0 } := by
  cases c <;> rfl

/-- A gate that is on after new gates are asked for is one of them. -/
theorem Bridge.ask_within (b : Bridge) (now : Nat) (asked : Gates) :
    gatesWithin (b.ask now asked).gates (b.ask now asked).asked := by
  refine ⟨fun h => ?_, fun h => ?_, fun h => ?_, fun h => ?_⟩ <;>
    simp only [Bridge.ask, highNext, lowNext, Bool.and_eq_true] at h ⊢
  · exact h.1
  · exact h.1.1
  · exact h.1
  · exact h.1.1

/-- The high side that is on when an on-phase begins conducts from there, with the blanking if chopping is on (R90). -/
theorem Bridge.noteConduct_onPhase (x : Bridge) (cfg : BridgeConfig) (now : Nat) (driven : Bool)
    (hp : x.phase = .onPhase) (hc : x.conduct = none) (hb : x.blanking = none) (hd : x.conducting = driven) :
    x.noteConduct cfg now = { x with
      conduct := if driven then some now else none
      blanking := if driven = true ∧ cfg.chopLevel ≠ 0 then some (now + 2048) else none } := by
  have hch : (cfg.chopThreshold.map fun _ => now + us 2) = if cfg.chopLevel ≠ 0 then some (now + 2048) else none := by
    unfold BridgeConfig.chopThreshold
    split
    · rename_i e; rw [e]; rfl
    · rename_i e; rfl
  rw [Bridge.noteConduct, hd]
  cases driven
  · rw [if_neg (by simp)]
    cases x
    cases hc
    cases hb
    rfl
  · rw [if_pos ⟨hp, hc, rfl⟩, hch]
    simp

/-- A bridge that is not in DRIVE enters it (R88, R89). -/
theorem Bridge.take_drives (b : Bridge) (cfg : BridgeConfig) (now : Nat) (p : DriveParams)
    (h : b.state ≠ .latched) (hd : b.state ≠ .drive) :
    bridgeDrives cfg b (b.take cfg now (.drive p)) p now := by
  intro driven hdr
  have ht : b.take cfg now (.drive p) = ({ b with state := .drive, shortRun := 0 } : Bridge).beginPeriod cfg now p := by
    simp only [Bridge.take, if_neg h, if_neg hd]
  rw [ht] at hdr ⊢
  unfold Bridge.beginPeriod at hdr ⊢
  by_cases hz : p.duty = 0
  · simp only [hz, if_true] at hdr ⊢
    have hoff : driven = false := by
      rw [hdr]
      cases p.direction <;> cases hf : p.freewheel <;>
        simp [Bridge.endOnPhase, Bridge.ask, Bridge.noPhase, hf, offPhaseGates, highNext, lowGates, Gates.none]
    rw [hoff]
    refine ⟨Bridge.ask_within _ _ _, ?_, ?_⟩
    · simp only [Bridge.endOnPhase, Bridge.ask, Bridge.noPhase]
      cases p.freewheel <;> rfl
    · simp [Bridge.endOnPhase, Bridge.noPhase, Bridge.ask]
  · simp only [hz, if_false] at hdr ⊢
    generalize hx : Bridge.ask { ({ b with
      state := .drive, shortRun := 0, params := p, periodStart := now, detected := false } : Bridge).noPhase .onPhase with
        onEnd := some (now + onPhase p.duty) } now (driveGates p.direction) = x at hdr ⊢
    have hxf : x = { b with
        state := .drive, shortRun := 0, detected := false, params := p, periodStart := now, phase := .onPhase
        onEnd := some (now + onPhase p.duty), conduct := none, blanking := none, chopArmed := false
        asked := driveGates p.direction, gates := x.gates, offAt := x.offAt } := by
      rw [← hx]; rfl
    have hw : gatesWithin x.gates x.asked := by rw [← hx]; exact Bridge.ask_within _ _ _
    have hgates : (x.noteConduct cfg now).gates = x.gates := by
      unfold Bridge.noteConduct; split <;> rfl
    rw [hgates] at hdr
    generalize x.gates = g at hxf hw hdr
    generalize x.offAt = o at hxf
    rw [Bridge.noteConduct_onPhase x cfg now driven (by rw [hxf]) (by rw [hxf]) (by rw [hxf]) (by
      rw [hxf, hdr]
      rfl)]
    clear hx
    subst hxf
    refine ⟨hw, ?_, rfl⟩
    show driveGates p.direction = _
    cases p.direction <;> rfl

/-- What a configured bridge makes of a command (R87, R88). -/
theorem Bridge.take_taken (b : Bridge) (cfg : BridgeConfig) (now : Nat) (before handed : Command)
    (b' : Bridge) (h : b' = if handed = before then b else b.take cfg now handed) :
    commandTaken cfg now before handed b b' := by
  refine ⟨fun hsame => ?_, fun hne hl => ?_⟩
  · rcases hsame with e | e
    · rw [h, if_pos e]
    · rw [h]
      split
      · rfl
      · simp only [Bridge.take, if_pos e]
  · rw [if_neg hne] at h
    subst h
    cases handed with
    | off => rw [Bridge.take, if_neg hl]; exact b.rest_rests now .off
    | coast => rw [Bridge.take, if_neg hl]; exact b.rest_rests now .coast
    | brake => rw [Bridge.take, if_neg hl]; exact b.rest_rests now .brake
    | drive p =>
      refine ⟨fun hd => ?_, fun hd => b.take_drives cfg now p hl hd⟩
      simp only [Bridge.take, if_neg hl, if_pos hd]

/-- The command handed is the one held. -/
@[simp] theorem BridgeUnit.hand_held (u : BridgeUnit) (now : Nat) (c : Command) : (u.hand now c).held = c := by
  unfold BridgeUnit.hand
  split
  · rename_i e; exact e.symm
  · rfl

/-- Each configured bridge takes the command handed (R85, R87). -/
theorem BridgeUnit.hand_taken (u : BridgeUnit) (now : Nat) (c : Command) : bridgesTaken now u (u.hand now c) := by
  rw [bridgesTaken, BridgeUnit.hand_held]
  refine ⟨Bridge.take_taken _ _ _ _ _ _ ?_, fun hp => Bridge.take_taken _ _ _ _ _ _ ?_, fun hs => ?_⟩ <;>
    unfold BridgeUnit.hand <;> split <;> simp_all [BridgeUnit.configured]

/-- A command handed changes the command held and the two bridges alone. -/
theorem BridgeUnit.hand_eq (u : BridgeUnit) (now : Nat) (c : Command) :
    u.hand now c = { u with held := c, a := (u.hand now c).a, b := (u.hand now c).b } := by
  unfold BridgeUnit.hand
  split
  · rename_i e; subst e; rfl
  · rfl

/-- A command handed changes the bridges, and with them the lowest duty of the step, alone. -/
theorem State.handCommand_eq (s : State) (c : Command) : s.handCommand c = { s with
    traction := { s.traction with
      lowest := min s.traction.lowest
        { s.bridges with
          held := c, a := (s.bridges.hand s.clock c).a, b := (s.bridges.hand s.clock c).b }.drivenDuty }
    bridges := { s.bridges with
      held := c, a := (s.bridges.hand s.clock c).a, b := (s.bridges.hand s.clock c).b } } := by
  rw [← s.bridges.hand_eq s.clock c]
  rfl

end Sys2Proof.Machine
end

