-- ==== Sys2Proof/Laws/Sound.lean ====
section
/-! SUPPORT. What the voices do in their turns: a stream boundary (R157), the move of a voice by one sample (R145 to
R147), its fade (R148) and its retry (R158), and that each keeps the law of the voices. -/

namespace Sys2Proof.Machine

open Sys2Proof.Safety

theorem State.onVoice_eq (s : State) (k : Nat) (f : Voice → Voice) (hk : k < s.sound.voices.length) :
    s.onVoice k f = voiceIs s k (f (s.sound.voice k)) := by
  have : s.sound.voices.modify k f = s.sound.voices.set k (f (s.sound.voice k)) := by
    rw [List.modify_eq_set_getElem?, List.getElem?_eq_getElem hk]
    simp [Sound.voice, List.getD_eq_getElem?_getD, List.getElem?_eq_getElem hk]
  simp [State.onVoice, State.onSound, voiceIs, this]

@[simp] theorem voiceIs_voice (s : State) (k : Nat) (v : Voice) (hk : k < s.sound.voices.length) :
    (voiceIs s k v).sound.voice k = v := by
  simp [voiceIs, Sound.voice, List.getD_eq_getElem?_getD, hk]

@[simp] theorem voiceIs_again (s : State) (k : Nat) (v w : Voice) :
    voiceIs (voiceIs s k v) k w = voiceIs s k w := by
  simp [voiceIs]

@[simp] theorem voiceIs_xm (s : State) (k : Nat) (v : Voice) : (voiceIs s k v).xm = s.xm := rfl
@[simp] theorem voiceIs_port (s : State) (k : Nat) (v : Voice) : (voiceIs s k v).port = s.port := rfl
@[simp] theorem voiceIs_length (s : State) (k : Nat) (v : Voice) :
    (voiceIs s k v).sound.voices.length = s.sound.voices.length := by simp [voiceIs]

theorem lawful_voice {s : State} (h : voicesLawful s) {k : Nat} (hk : k < 8) : voiceLawful (s.sound.voice k) := by
  have hl : k < s.sound.voices.length := by rw [h.1]; exact hk
  refine h.2 _ ?_
  simp [Sound.voice, List.getD_eq_getElem?_getD, List.getElem?_eq_getElem hl]

/-- A voice that sounds is not IDLE, so plays a valid entry of a clip of the directory. -/
theorem voiceLawful_sounds {v : Voice} (h : voiceLawful v) (hs : v.sounds = true) :
    v.clip ≤ 63 ∧ v.entry.valid = true ∧ v.position < v.entry.ends := by
  rcases h with h | ⟨hc, hv, hp, -⟩
  · simp [Voice.sounds, h] at hs
  · exact ⟨hc, hv, hp hs⟩

theorem segmentAddr_eq (clip : Nat) (b : Bool) : segmentAddr clip b = segmentByte clip b := by
  cases b <;> simp [segmentAddr, segmentByte, clipBase, boolNat, Nat.add_assoc]


theorem segmentByte_lt {clip : Nat} (h : clip ≤ 63) (b : Bool) : segmentByte clip b < 65536 := by
  unfold segmentByte; split <;> omega

theorem segmentByte_ne (clip : Nat) (b : Bool) : segmentByte clip b ≠ segmentByte clip (!b) := by
  cases b <;> simp [segmentByte]

/-- What a voice is once it has passed a boundary, or not (R157, R158): `byte` is the state byte of the segment ahead. -/
def Voice.crossed (v : Voice) (byte : Byte) (entered boundary : Nat) : Voice :=
  if v.lastSegment then { v with state := .idle }
  else if byte = 1 ∨ byte = 2 then { v with position := entered, lastSegment := decide (byte = 2) }
  else v.starve boundary

/-- A STREAM voice at a boundary (R157): the segment left reads EMPTY, the one ahead PLAYING where it is taken. -/
theorem State.crossBoundary_spec (s : State) (k : Nat) (second : Bool) (entered boundary : Nat) (h : s.xm.wf = true)
    (hk : k < s.sound.voices.length) (hc : (s.sound.voice k).clip ≤ 63) (t : State)
    (ht : t = s.crossBoundary k second entered boundary) (v : Voice) (hv : v = s.sound.voice k) (byte : Byte)
    (hb : byte = s.xm.read (segmentByte v.clip second)) :
    t.xm.wf = true ∧ t.xm.read (segmentByte v.clip (!second)) = 0
      ∧ t.xm.read (segmentByte v.clip second) = (if v.lastSegment = false ∧ (byte = 1 ∨ byte = 2) then 3 else byte)
      ∧ (∀ a, a < 65536 → a ≠ segmentByte v.clip second → a ≠ segmentByte v.clip (!second) →
        t.xm.read a = s.xm.read a)
      ∧ t = { voiceIs s k (v.crossed byte entered boundary) with
          xm := t.xm, port := withNotice s.port [.stream] } := by
  subst hv
  have hlt := fun b => segmentByte_lt hc b
  have hne := segmentByte_ne (s.sound.voice k).clip second
  have hw0 : ∀ a, a < 65536 → (s.xm.write (segmentByte (s.sound.voice k).clip (!second)) 0).read a =
      if segmentByte (s.sound.voice k).clip (!second) = a then 0 else s.xm.read a := by
    intro a ha
    rw [Memory.read_write _ _ _ h, Nat.mod_eq_of_lt (hlt _), Nat.mod_eq_of_lt ha]
  have hwf : (s.xm.write (segmentByte (s.sound.voice k).clip (!second)) 0).wf = true := Memory.wf_write _ _ h
  have hw1 : ∀ a, a < 65536 → ((s.xm.write (segmentByte (s.sound.voice k).clip (!second)) 0).write
      (segmentByte (s.sound.voice k).clip second) 3).read a =
      if segmentByte (s.sound.voice k).clip second = a then 3
      else if segmentByte (s.sound.voice k).clip (!second) = a then 0 else s.xm.read a := by
    intro a ha
    rw [Memory.read_write _ _ _ hwf, Nat.mod_eq_of_lt (hlt _), Nat.mod_eq_of_lt ha, hw0 a ha]
  have hseg : ∀ u : State, u.xm = s.xm.write (segmentByte (s.sound.voice k).clip (!second)) 0 →
      segmentFull u (s.sound.voice k).clip second =
        if byte = 1 then some false else if byte = 2 then some true else none := by
    intro u hu
    simp only [segmentFull, segmentAddr_eq, hu, hw0 _ (hlt second), if_neg (Ne.symm hne), ← hb]
  simp only [State.crossBoundary, State.leaveSegment, segmentAddr_eq] at ht
  rw [hseg _ (by simp)] at ht
  cases hl : (s.sound.voice k).lastSegment
  · simp only [hl, Bool.false_eq_true, if_false] at ht
    by_cases h1 : byte = 1 ∨ byte = 2
    · have : ∃ last, (if byte = 1 then some false else if byte = 2 then some true else none) = some last
          ∧ last = decide (byte = 2) := by
        rcases h1 with rfl | rfl <;> exact ⟨_, rfl, by decide⟩
      obtain ⟨last, hlast, hd⟩ := this
      rw [hlast] at ht
      simp only at ht
      rw [State.onVoice_eq _ _ _ (by simpa [State.playSegment, State.onXm] using hk)] at ht
      subst ht
      simp only [State.playSegment, segmentAddr_eq, voiceIs_xm, State.onXm_xm, State.raise_frame, h1, and_self, if_true]
      refine ⟨Memory.wf_write _ _ hwf, ?_, ?_, ?_, ?_⟩
      · rw [hw1 _ (hlt _)]; simp [hne]
      · rw [hw1 _ (hlt _)]; simp
      · intro a ha h2 h3
        rw [hw1 _ ha, if_neg (Ne.symm h2), if_neg (Ne.symm h3)]
      · have hcr : (s.sound.voice k).crossed byte entered boundary =
            { s.sound.voice k with position := entered, lastSegment := decide (byte = 2) } := by
          simp only [Voice.crossed, hl, Bool.false_eq_true, if_false, if_pos h1]
        rw [hcr, hd]
        simp [voiceIs, State.onXm, State.raise, State.onPort, withNotice]
    · have : (if byte = 1 then some false else if byte = 2 then some true else none) = none := by
        rw [if_neg (fun e => h1 (.inl e)), if_neg (fun e => h1 (.inr e))]
      rw [this] at ht
      simp only at ht
      rw [State.onVoice_eq _ _ _ (by simpa using hk)] at ht
      subst ht
      simp only [voiceIs_xm, State.onXm_xm, State.raise_frame, h1, and_false, if_false]
      refine ⟨hwf, ?_, ?_, ?_, ?_⟩
      · rw [hw0 _ (hlt _)]; simp
      · rw [hw0 _ (hlt _), if_neg (Ne.symm hne), ← hb]
      · intro a ha h2 h3
        rw [hw0 _ ha, if_neg (Ne.symm h3)]
      · have hcr : (s.sound.voice k).crossed byte entered boundary = (s.sound.voice k).starve boundary := by
          simp only [Voice.crossed, hl, Bool.false_eq_true, if_false, if_neg h1]
        rw [hcr]
        simp [voiceIs, State.onXm, State.raise, State.onPort, withNotice]
  · simp only [hl, if_true] at ht
    rw [State.onVoice_eq _ _ _ (by simpa using hk)] at ht
    subst ht
    simp only [voiceIs_xm, State.onXm_xm, State.raise_frame, Bool.true_eq_false, false_and, if_false]
    refine ⟨hwf, ?_, ?_, ?_, ?_⟩
    · rw [hw0 _ (hlt _)]; simp
    · rw [hw0 _ (hlt _), if_neg (Ne.symm hne), ← hb]
    · intro a ha h2 h3
      rw [hw0 _ ha, if_neg (Ne.symm h3)]
    · simp [Voice.crossed, hl, voiceIs, State.onXm, State.raise, State.onPort, withNotice]

/-- A voice that sounds moves on by one sample, and on a stream it passes the boundaries it reaches (R145 to R147,
R157, R158). -/
theorem State.advanceVoice_moved (s : State) (k : Nat) (h : s.xm.wf = true) (hv : voicesLawful s) (hk : k < 8) :
    voiceMoved s (s.advanceVoice k) k := by
  have hl : k < s.sound.voices.length := by rw [hv.1]; exact hk
  intro v hv' p hp half hh ends he first hf second hs
  have hlaw := hv' ▸ lawful_voice hv hk
  cases hsound : v.sounds with
  | false =>
    refine ⟨fun _ => ?_, fun c => (nomatch c), fun c => (nomatch c), fun c => (nomatch c)⟩
    simp [State.advanceVoice, ← hv', hsound]
  | true =>
    obtain ⟨hclip, hvalid, hpos⟩ := voiceLawful_sounds hlaw hsound
    have hpn : p = v.position + v.step * v.entry.size := hp
    have hadv : s.advanceVoice k =
        if v.entry.kind = 2 then
          (voiceIs s k { v with position := p }).streamBoundaries k v.inSecond
        else voiceIs s k (if v.entry.kind = 1 then ({ v with position := p } : Voice).loopEnds
          else ({ v with position := p } : Voice).oneShotEnd) := by
      simp only [State.advanceVoice, ← hv', hsound, if_true, ← hpn]
      rw [State.onVoice_eq _ _ _ hl, State.onVoice_eq _ _ _ hl]
    have hmoved : ({ v with position := p } : Voice).sounds = true := hsound
    have hkinds : v.entry.kind ≤ 2 := by
      simp only [ClipEntry.valid, Bool.and_eq_true, decide_eq_true_eq] at hvalid
      exact hvalid.1.1.2
    have hends : v.entry.ends = ends := he.symm
    have hhalf : v.entry.half = half := hh.symm
    have hle : half ≤ ends := by
      rw [hh, he]
      exact Nat.mul_le_mul_right _ (Nat.div_le_self _ _)
    have hquiet : ∀ m : State, ∀ second, m.sound.voice k = { v with position := p } →
        (second = true ∨ p < half) → p < ends → m.streamBoundaries k second = m := by
      intro m second hm h1 h2
      have : (!second && decide (half ≤ p)) = false := by
        rcases h1 with rfl | h1
        · rfl
        · simp [Nat.not_le.mpr h1]
      simp only [State.streamBoundaries, hm, hhalf, this, Bool.false_eq_true, if_false, hends, hmoved, Bool.true_and,
        decide_eq_true_eq, if_neg (Nat.not_le.mpr h2)]
    refine ⟨fun c => (nomatch c), fun _ hno => ?_, fun _ hkind hin hreach => ?_, fun _ hkind hin hreach => ?_⟩
    · rw [hadv]
      by_cases hkind : v.entry.kind = 2
      · rw [if_pos hkind]
        have hm : movedOn v = { v with position := p } := by simp [movedOn, hkind, ← hp]
        rw [hm]
        rcases hno with hno | hno | hno
        · exact absurd hkind hno
        · exact hquiet _ _ (voiceIs_voice _ _ _ hl) (.inr hno) (by omega)
        · exact hquiet _ _ (voiceIs_voice _ _ _ hl) (.inl (by simpa [Voice.inSecond, hhalf] using hno.1)) hno.2
      · rw [if_neg hkind]
        congr 1
        by_cases h1 : v.entry.kind = 1
        · simp only [h1, if_true, movedOn, Voice.loopEnds, ← hp, ClipEntry.loopEnd, Voice.loopWrap, ClipEntry.ends]
          simp only [Nat.one_ne_zero, if_false]
          by_cases hlt : p < (v.entry.loopStart + v.entry.loopLength) * 256
          · simp [hlt]
          · simp only [hlt, if_false]
            cases v.repeats with
            | none => rfl
            | some n =>
              match n with
              | 0 | 1 => by_cases hq : p < v.entry.length * 256 <;> simp [hq, Nat.not_le.mpr, Nat.le_of_not_lt]
              | n + 2 => rfl
        · have h0 : v.entry.kind = 0 := by omega
          simp only [h0, Nat.zero_ne_one, if_false, if_true, movedOn, Voice.oneShotEnd, ← hp, ClipEntry.ends]
          rcases v.repeats with _ | _ | _ <;> rfl
    · have hnot : v.inSecond = false := by simp [Voice.inSecond, hhalf, hin]
      rw [hadv, if_pos hkind, hnot]
      obtain ⟨w1, r1, r2, r3, e1⟩ := (voiceIs s k { v with position := p }).crossBoundary_spec k true p half h (by simpa using hl)
        (by rw [voiceIs_voice _ _ _ hl]; exact hclip) _ rfl { v with position := p }
        (by rw [voiceIs_voice _ _ _ hl]) second hs
      generalize hs1 : (voiceIs s k { v with position := p }).crossBoundary k true p half = s1 at *
      have hv1 : s1.sound.voice k = Voice.crossed { v with position := p } second p half := by
        rw [e1]
        exact voiceIs_voice _ _ _ (by simpa using hl)
      have hl1 : s1.sound.voices.length = s.sound.voices.length := by rw [e1]; simp [voiceIs]
      have hb : (voiceIs s k { v with position := p }).streamBoundaries k false =
          if (s1.sound.voice k).sounds && decide (ends ≤ (s1.sound.voice k).position) then
            s1.crossBoundary k false (((s1.sound.voice k).position - ends) % half) ends
          else s1 := by
        have hent : (s1.sound.voice k).entry = v.entry := by
          rw [hv1]; unfold Voice.crossed Voice.starve; repeat' split
          all_goals rfl
        simp only [State.streamBoundaries, voiceIs_voice _ _ _ hl, hhalf, Bool.not_false, Bool.true_and, hreach,
          decide_true, if_true, hs1, hent, hends]
      rw [hb]
      have hone : ∀ x : Voice, Voice.crossed { v with position := p } second p half = x →
          (x.sounds = false ∨ x.position < ends) → x.clip = v.clip →
          ∀ b, b = (if v.lastSegment = false ∧ (second = 1 ∨ second = 2) then 3 else second) →
          streamPassed s (if (s1.sound.voice k).sounds && decide (ends ≤ (s1.sound.voice k).position) then
            s1.crossBoundary k false (((s1.sound.voice k).position - ends) % half) ends
          else s1) k 0 b x := by
        intro x hx hout hxc b hbb
        have : ((s1.sound.voice k).sounds && decide (ends ≤ (s1.sound.voice k).position)) = false := by
          rw [hv1, hx]
          rcases hout with ho | ho
          · simp [ho]
          · simp [Nat.not_le.mpr ho]
        rw [this]
        refine ⟨by rw [hxc]; exact r1, by rw [hxc, hbb]; exact r2, ?_, ?_⟩
        · intro a ha hout
          rw [hxc] at hout
          exact r3 a ha (fun e => hout (.inr e)) (fun e => hout (.inl e))
        · simp only [Bool.false_eq_true, if_false]
          conv => lhs; rw [e1, hx]
          simp [voiceIs]
      have hstuck : ∀ (w : Voice) b, w.state = v.state → w.position = p → w.clip = v.clip →
          (w.starve b).sounds = false ∧ (w.starve b).clip = v.clip := by
        intro w b _ _ hw3
        unfold Voice.starve
        split <;> exact ⟨rfl, hw3⟩
      have htwice : ∀ x, v.lastSegment = false → (second = 1 ∨ second = 2) → ends ≤ p →
          Voice.crossed { v with position := p, lastSegment := decide (second = 2) } 0 ((p - ends) % half) ends = x →
          x.clip = v.clip →
          streamPassed s (if (s1.sound.voice k).sounds && decide (ends ≤ (s1.sound.voice k).position) then
            s1.crossBoundary k false (((s1.sound.voice k).position - ends) % half) ends
          else s1) k 0 0 x := by
        intro x hlast h12 hep hx hxc
        have hv2 : s1.sound.voice k = { v with position := p, lastSegment := decide (second = 2) } := by
          rw [hv1]
          simp only [Voice.crossed, hlast, Bool.false_eq_true, if_false, if_pos h12]
        have : ((s1.sound.voice k).sounds && decide (ends ≤ (s1.sound.voice k).position)) = true := by
          rw [hv2]
          simp [hep]
          exact hsound
        rw [this]
        simp only [if_true]
        obtain ⟨w2, q1, q2, q3, e2⟩ := s1.crossBoundary_spec k false (((s1.sound.voice k).position - ends) % half) ends w1
          (by rw [hl1]; exact hl) (by rw [hv2]; exact hclip) _ rfl _ rfl 0
          (by rw [hv2]; exact r1.symm)
        generalize s1.crossBoundary k false (((s1.sound.voice k).position - ends) % half) ends = s2 at *
        rw [hv2] at q1 q2 q3 e2
        refine ⟨by rw [hxc, q2]; simp, by rw [hxc]; exact q1, ?_, ?_⟩
        · intro a ha hout
          rw [hxc] at hout
          rw [q3 a ha (fun e => hout (.inl e)) (fun e => hout (.inr e))]
          exact r3 a ha (fun e => hout (.inr e)) (fun e => hout (.inl e))
        · conv => lhs; rw [e2, e1]
          rw [← hx]
          simp [voiceIs, withNotice, BitVec.or_assoc]
      refine ⟨fun hlast => hone { v with position := p, state := .idle } (by simp only [Voice.crossed, hlast, if_true])
          (.inl rfl) rfl second (by rw [if_neg (fun c => by rw [hlast] at c; cases c.1)]),
        fun hlast => ⟨fun h12 hep => ?_, fun h2 hep => ?_, fun h1 hep => ?_, fun h1 h2 => ?_⟩⟩
      · exact hone { v with position := p, lastSegment := decide (second = 2) }
          (by simp only [Voice.crossed, hlast, Bool.false_eq_true, if_false, if_pos h12]) (.inr hep) rfl 3
          (by rw [if_pos ⟨hlast, h12⟩])
      · refine htwice _ hlast (.inr h2) hep ?_ rfl
        simp [Voice.crossed, h2]
      · refine htwice _ hlast (.inl h1) hep ?_ ?_
        · subst h1
          simp only [Voice.crossed, stuckAt, ← hp, Voice.starve]
          simp
          split <;> simp [hlast]
        · unfold stuckAt; split <;> rfl
      · refine hone _ ?_ (.inl ?_) ?_ _ (by rw [if_neg (fun c => c.2.elim h1 h2)])
        · simp only [Voice.crossed, hlast, Bool.false_eq_true, if_false, if_neg (not_or.mpr ⟨h1, h2⟩), Voice.starve,
            stuckAt, ← hp]
        · unfold stuckAt; split <;> rfl
        · unfold stuckAt; split <;> rfl
    · have hyes : v.inSecond = true := by simp [Voice.inSecond, hhalf, hin]
      rw [hadv, if_pos hkind, hyes]
      have hb : (voiceIs s k { v with position := p }).streamBoundaries k true =
          (voiceIs s k { v with position := p }).crossBoundary k false ((p - ends) % half) ends := by
        simp only [State.streamBoundaries, voiceIs_voice _ _ _ hl, hhalf, Bool.not_true, Bool.false_and,
          Bool.false_eq_true, if_false, hmoved, hends, hreach, decide_true, Bool.true_and, if_true]
      rw [hb]
      obtain ⟨w1, r1, r2, r3, e1⟩ := (voiceIs s k { v with position := p }).crossBoundary_spec k false ((p - ends) % half) ends
        h (by simpa using hl) (by rw [voiceIs_voice _ _ _ hl]; exact hclip) _ rfl { v with position := p }
        (by rw [voiceIs_voice _ _ _ hl]) first hf
      have hone : ∀ x : Voice, Voice.crossed { v with position := p } first ((p - ends) % half) ends = x →
          x.clip = v.clip → ∀ b, b = (if v.lastSegment = false ∧ (first = 1 ∨ first = 2) then 3 else first) →
          streamPassed s ((voiceIs s k { v with position := p }).crossBoundary k false ((p - ends) % half) ends) k b 0 x := by
        intro x hx hxc b hbb
        refine ⟨by rw [hxc, hbb]; exact r2, by rw [hxc]; exact r1, ?_, ?_⟩
        · intro a ha hout
          rw [hxc] at hout
          exact r3 a ha (fun e => hout (.inl e)) (fun e => hout (.inr e))
        · conv => lhs; rw [e1, hx]
          simp [voiceIs]
      refine ⟨fun hlast => hone { v with position := p, state := .idle } (by simp only [Voice.crossed, hlast, if_true])
          rfl first (by rw [if_neg (fun c => by rw [hlast] at c; cases c.1)]),
        fun hlast => ⟨fun h12 => ?_, fun h1 h2 => ?_⟩⟩
      · exact hone { v with position := (p - ends) % half, lastSegment := decide (first = 2) }
          (by simp only [Voice.crossed, hlast, Bool.false_eq_true, if_false, if_pos h12]) rfl 3
          (by rw [if_pos ⟨hlast, h12⟩])
      · refine hone _ ?_ ?_ _ (by rw [if_neg (fun c => c.2.elim h1 h2)])
        · simp only [Voice.crossed, hlast, Bool.false_eq_true, if_false, if_neg (not_or.mpr ⟨h1, h2⟩), Voice.starve,
            stuckAt, ← hp]
        · unfold stuckAt; split <;> rfl

/-- The fade of a voice at a frame boundary (R148, R159). -/
theorem State.fadeVoice_faded (s : State) (k : Nat) (h : s.xm.wf = true) (hv : voicesLawful s) (hk : k < 8) :
    voiceFaded s (s.fadeVoice k) k := by
  have hl : k < s.sound.voices.length := by rw [hv.1]; exact hk
  intro v hv' ended hend
  have hlaw := hv' ▸ lawful_voice hv hk
  simp only [State.fadeVoice, ← hv']
  by_cases hf : v.state = .fading
  · have hsound : v.sounds = true := by simp [Voice.sounds, hf]
    obtain ⟨hclip, -, -⟩ := voiceLawful_sounds hlaw hsound
    refine ⟨fun c => absurd hf c, fun _ hlt => ?_, fun _ hle hkind => ?_, fun _ hle hkind a ha => ?_⟩
    · rw [if_pos hf, if_neg (Nat.not_le.mpr hlt), State.onVoice_eq _ _ _ hl, ← hv']
    · rw [if_pos hf, if_pos hle, State.onVoice_eq _ _ _ hl, ← hv', State.stopVoice, voiceIs_voice _ _ _ hl]
      simp only [hkind, decide_false, Bool.and_false, Bool.false_eq_true, if_false]
      rw [State.onVoice_eq _ _ _ (by simpa using hl), voiceIs_voice _ _ _ hl, hend, voiceIs_again]
    · have hs2 : ({ v with envelope := 0 } : Voice).sounds = true := hsound
      rw [if_pos hf, if_pos hle, State.onVoice_eq _ _ _ hl, ← hv', State.stopVoice, voiceIs_voice _ _ _ hl]
      simp only [hkind, decide_true, hs2, Bool.and_true, if_true, State.leaveSegment, segmentAddr_eq]
      have haddr : segmentByte v.clip (Voice.inSecond { v with envelope := 0 }) = a := by
        rw [ha]; rfl
      rw [haddr, State.onVoice_eq _ _ _ (by simpa using hl)]
      have halt : a < 65536 := by rw [ha]; exact segmentByte_lt hclip _
      refine ⟨?_, ?_, ?_⟩
      · simp only [voiceIs_xm, State.raise_frame, State.onXm_xm]
        exact Memory.read_write_same _ _ h
      · intro x hx hne
        simp only [voiceIs_xm, State.raise_frame, State.onXm_xm]
        rw [Memory.read_write _ _ _ h, Nat.mod_eq_of_lt halt, Nat.mod_eq_of_lt hx, if_neg (Ne.symm hne)]
      · simp [voiceIs, State.raise, State.onPort, State.onXm, withNotice, hend, Sound.voice,
          List.getD_eq_getElem?_getD, hl]
  · refine ⟨fun _ => by rw [if_neg hf], fun c => absurd c hf, fun c => absurd c hf, fun c => absurd c hf⟩

/-- The look of a STARVED voice for its segment (R158). -/
theorem State.retryVoice_retried (s : State) (k : Nat) (h : s.xm.wf = true) (hv : voicesLawful s) (hk : k < 8) :
    voiceRetried s (s.retryVoice k) k := by
  have hl : k < s.sound.voices.length := by rw [hv.1]; exact hk
  intro v hv' second hs a ha
  have hlaw := hv' ▸ lawful_voice hv hk
  simp only [State.retryVoice, ← hv']
  by_cases hst : v.state = .starved
  · have hclip : v.clip ≤ 63 := by
      rcases hlaw with hi | ⟨hc, -⟩
      · rw [hi] at hst; cases hst
      · exact hc
    have halt : a < 65536 := by rw [ha]; exact segmentByte_lt hclip _
    have hsec : decide (v.position < v.entry.ends) = second := hs.symm
    have hseg : segmentFull s v.clip second =
        if s.xm.read a = 1 then some false else if s.xm.read a = 2 then some true else none := by
      simp only [segmentFull, segmentAddr_eq, ha]
    rw [if_pos hst, hsec, hseg]
    refine ⟨fun c => ?_, fun _ h12 => ?_⟩
    · rcases c with c | ⟨c1, c2⟩
      · exact absurd hst c
      · rw [if_neg c1, if_neg c2]
    · have : ∃ last, (if s.xm.read a = 1 then some false else if s.xm.read a = 2 then some true else none) = some last
          ∧ last = decide (s.xm.read a = 2) := by
        rcases h12 with e | e <;> rw [e] <;> exact ⟨_, rfl, by decide⟩
      obtain ⟨last, hlast, hd⟩ := this
      rw [hlast]
      simp only
      rw [State.onVoice_eq _ _ _ (by simpa [State.playSegment, State.onXm] using hl)]
      simp only [State.playSegment, segmentAddr_eq, ← ha]
      refine ⟨?_, ?_, ?_⟩
      · simp only [voiceIs_xm, State.onXm_xm]
        exact Memory.read_write_same _ _ h
      · intro x hx hne
        simp only [voiceIs_xm, State.onXm_xm]
        rw [Memory.read_write _ _ _ h, Nat.mod_eq_of_lt halt, Nat.mod_eq_of_lt hx, if_neg (Ne.symm hne)]
      · simp only [voiceIs, State.onXm, hd, ← hv', ClipEntry.half]
  · refine ⟨fun _ => by rw [if_neg hst], fun c => absurd c hst⟩

/-! ## The law of the voices is kept -/

theorem voiceIs_lawful {s : State} (h : voicesLawful s) (k : Nat) {v : Voice} (hv : voiceLawful v) :
    voicesLawful (voiceIs s k v) := by
  refine ⟨by simp [voiceIs, h.1], fun w hw => ?_⟩
  rcases List.mem_or_eq_of_mem_set hw with hw | rfl
  · exact h.2 w hw
  · exact hv

/-- A voice that is IDLE is lawful whatever else it holds. -/
theorem voiceLawful_idle {v : Voice} (h : v.state = .idle) : voiceLawful v := .inl h

/-- A voice of a valid entry is lawful at a position within its clip, and STARVED on a stream. -/
theorem voiceLawful_of {v w : Voice} (h : voiceLawful v) (hs : v.state ≠ .idle) (hc : w.clip = v.clip)
    (he : w.entry = v.entry) (hf : w.starter = v.starter) (hp : w.sounds = true → w.position < v.entry.ends)
    (hk : w.state = .starved → v.entry.kind = 2) : voiceLawful w := by
  rcases h with h | ⟨h1, h2, -, -, h5⟩
  · exact absurd h hs
  · exact .inr ⟨hc ▸ h1, he ▸ h2, fun c => he ▸ hp c, fun c => he ▸ hk c, fun c => he ▸ h5 (hf ▸ c)⟩

theorem movedOn_lawful {v : Voice} (h : voiceLawful v) (hs : v.sounds = true)
    (hno : v.entry.kind ≠ 2 ∨ positionNext v < v.entry.ends) : voiceLawful (movedOn v) := by
  obtain ⟨-, hvalid, hpos⟩ := voiceLawful_sounds h hs
  simp only [ClipEntry.valid, Bool.and_eq_true, Bool.or_eq_true, decide_eq_true_eq] at hvalid
  obtain ⟨⟨⟨⟨⟨-, hlen⟩, -⟩, hkind⟩, hloop⟩, -⟩ := hvalid
  have hni : v.state ≠ .idle := fun c => by simp [Voice.sounds, c] at hs
  have hne : v.state ≠ .starved := fun c => by simp [Voice.sounds, c] at hs
  have hends : 0 < v.entry.ends := by unfold ClipEntry.ends; omega
  have hmod : (positionNext v - v.entry.ends) % v.entry.ends < v.entry.ends := Nat.mod_lt _ hends
  unfold movedOn
  simp only [← ClipEntry.ends.eq_1]
  split
  · split
    · exact voiceLawful_of h hni rfl rfl rfl (fun _ => by assumption) (fun c => absurd c hne)
    · split
      · exact voiceLawful_of h hni rfl rfl rfl (fun _ => hmod) (fun c => absurd c hne)
      · exact voiceLawful_idle rfl
      · exact voiceLawful_of h hni rfl rfl rfl (fun _ => hmod) (fun c => absurd c hne)
  · split
    · rename_i h1
      have hl := hloop.resolve_left (fun c => c h1)
      have hregion : (v.entry.loopStart + v.entry.loopLength) * 256 ≤ v.entry.ends := by
        unfold ClipEntry.ends; omega
      have hwrap : ∀ q, v.entry.loopStart * 256 + q % (v.entry.loopLength * 256) < v.entry.ends := by
        intro q
        have := Nat.mod_lt q (show v.entry.loopLength * 256 > 0 by omega)
        omega
      split
      · exact voiceLawful_of h hni rfl rfl rfl (fun _ => by simp only; omega) (fun c => absurd c hne)
      · split
        · exact voiceLawful_of h hni rfl rfl rfl (fun _ => hwrap _) (fun c => absurd c hne)
        · exact voiceLawful_of h hni rfl rfl rfl (fun _ => hwrap _) (fun c => absurd c hne)
        · split
          · exact voiceLawful_of h hni rfl rfl rfl (fun _ => by assumption) (fun c => absurd c hne)
          · exact voiceLawful_idle rfl
    · refine voiceLawful_of h hni rfl rfl rfl (fun _ => ?_) (fun c => absurd c hne)
      exact hno.resolve_left (fun c => c (by omega))

theorem stuckAt_lawful {v : Voice} (h : voiceLawful v) (hs : v.sounds = true) (hk : v.entry.kind = 2) (b : Nat) :
    voiceLawful (stuckAt v b) := by
  have hni : v.state ≠ .idle := fun c => by simp [Voice.sounds, c] at hs
  unfold stuckAt
  split
  · exact voiceLawful_idle rfl
  · exact voiceLawful_of h hni rfl rfl rfl (fun c => by simp [Voice.sounds] at c) (fun _ => hk)

/-- A move of one voice keeps the law of the voices. -/
theorem voiceMoved_lawful {s t : State} {k : Nat} (hv : voicesLawful s) (hk : k < 8) (h : voiceMoved s t k) :
    voicesLawful t := by
  obtain ⟨hq, hn, hb, he⟩ := h _ rfl _ rfl _ rfl _ rfl _ rfl _ rfl
  have hlaw := lawful_voice hv hk
  generalize s.sound.voice k = v at *
  have hpass : ∀ a b w, voiceLawful w → streamPassed s t k a b w → voicesLawful t := by
    intro a b w hw hp
    have := voiceIs_lawful hv k hw
    rw [hp.2.2.2]
    exact this
  cases hs : v.sounds with
  | false => rw [hq hs]; exact hv
  | true =>
    have hni : v.state ≠ .idle := fun c => by simp [Voice.sounds, c] at hs
    have hne : v.state ≠ .starved := fun c => by simp [Voice.sounds, c] at hs
    obtain ⟨-, hvalid, hpos⟩ := voiceLawful_sounds hlaw hs
    have hle : v.entry.length / 2 * 256 ≤ v.entry.ends := Nat.mul_le_mul_right _ (Nat.div_le_self _ _)
    simp only [ClipEntry.valid, Bool.and_eq_true, Bool.or_eq_true, decide_eq_true_eq] at hvalid
    obtain ⟨⟨⟨⟨⟨-, hlen⟩, -⟩, hkind⟩, hloop⟩, hfour⟩ := hvalid
    by_cases hno : v.entry.kind ≠ 2 ∨ positionNext v < v.entry.length / 2 * 256
        ∨ (v.entry.length / 2 * 256 ≤ v.position ∧ positionNext v < v.entry.length * 256)
    · rw [hn hs hno]
      refine voiceIs_lawful hv k (movedOn_lawful hlaw hs ?_)
      rcases hno with c | c | c
      · exact .inl c
      · exact .inr (Nat.lt_of_lt_of_le c hle)
      · exact .inr c.2
    · simp only [not_or, not_and, not_lt, ne_eq, not_not] at hno
      obtain ⟨hk2, h1, h2⟩ := hno
      have hhalf : 0 < v.entry.length / 2 * 256 := by
        have := hfour.resolve_left (fun c => c hk2)
        omega
      have hmod : ∀ q, q % (v.entry.length / 2 * 256) < v.entry.ends :=
        fun q => Nat.lt_of_lt_of_le (Nat.mod_lt q hhalf) hle
      by_cases hin : v.position < v.entry.length / 2 * 256
      · obtain ⟨p1, p2⟩ := hb hs hk2 hin h1
        cases hlast : v.lastSegment with
        | true => exact hpass _ _ _ (voiceLawful_idle rfl) (p1 hlast)
        | false =>
          obtain ⟨q1, q2, q3, q4⟩ := p2 hlast
          by_cases h12 : s.xm.read (segmentByte v.clip true) = 1 ∨ s.xm.read (segmentByte v.clip true) = 2
          · by_cases hend : positionNext v < v.entry.length * 256
            · refine hpass _ _ _ ?_ (q1 h12 hend)
              exact voiceLawful_of hlaw hni rfl rfl rfl (fun _ => hend) (fun c => absurd c hne)
            · rcases h12 with c | c
              · exact hpass _ _ _ (stuckAt_lawful hlaw hs hk2 _) (q3 c (Nat.le_of_not_lt hend))
              · exact hpass _ _ _ (voiceLawful_idle rfl) (q2 c (Nat.le_of_not_lt hend))
          · exact hpass _ _ _ (stuckAt_lawful hlaw hs hk2 _) (q4 (fun c => h12 (.inl c)) (fun c => h12 (.inr c)))
      · obtain ⟨p1, p2⟩ := he hs hk2 (Nat.le_of_not_lt hin) (h2 (Nat.le_of_not_lt hin))
        cases hlast : v.lastSegment with
        | true => exact hpass _ _ _ (voiceLawful_idle rfl) (p1 hlast)
        | false =>
          obtain ⟨q1, q2⟩ := p2 hlast
          by_cases h12 : s.xm.read (segmentByte v.clip false) = 1 ∨ s.xm.read (segmentByte v.clip false) = 2
          · refine hpass _ _ _ ?_ (q1 h12)
            exact voiceLawful_of hlaw hni rfl rfl rfl (fun _ => hmod _) (fun c => absurd c hne)
          · exact hpass _ _ _ (stuckAt_lawful hlaw hs hk2 _) (q2 (fun c => h12 (.inl c)) (fun c => h12 (.inr c)))

/-- A fade keeps it. -/
theorem voiceFaded_lawful {s t : State} {k : Nat} (hv : voicesLawful s) (hk : k < 8) (h : voiceFaded s t k) :
    voicesLawful t := by
  obtain ⟨h1, h2, h3, h4⟩ := h _ rfl _ rfl
  have hlaw := lawful_voice hv hk
  generalize s.sound.voice k = v at *
  by_cases hf : v.state = .fading
  · have hs : v.sounds = true := by simp [Voice.sounds, hf]
    have hni : v.state ≠ .idle := by rw [hf]; decide
    by_cases hle : v.envelope ≤ v.fadeStep
    · by_cases hk2 : v.entry.kind = 2
      · obtain ⟨-, -, e⟩ := h4 hf hle hk2 _ rfl
        have := voiceIs_lawful hv k (v := { v with envelope := 0, state := .idle }) (voiceLawful_idle rfl)
        rw [e]
        exact this
      · rw [h3 hf hle hk2]
        exact voiceIs_lawful hv k (voiceLawful_idle rfl)
    · rw [h2 hf (Nat.lt_of_not_le hle)]
      exact voiceIs_lawful hv k (voiceLawful_of hlaw hni rfl rfl rfl
        (fun _ => (voiceLawful_sounds hlaw hs).2.2) (fun c => by rw [hf] at c; cases c))
  · rw [h1 hf]
    exact hv

/-- A retry keeps it. -/
theorem voiceRetried_lawful {s t : State} {k : Nat} (hv : voicesLawful s) (hk : k < 8) (h : voiceRetried s t k) :
    voicesLawful t := by
  obtain ⟨h1, h2⟩ := h _ rfl _ rfl _ rfl
  have hlaw := lawful_voice hv hk
  generalize s.sound.voice k = v at *
  by_cases hst : v.state = .starved
  · have hni : v.state ≠ .idle := by rw [hst]; decide
    have hk2 : v.entry.kind = 2 ∧ 0 < v.entry.length ∧ v.entry.length % 4 = 0 := by
      rcases hlaw with c | ⟨-, hvalid, -, c, -⟩
      · exact absurd c hni
      · simp only [ClipEntry.valid, Bool.and_eq_true, Bool.or_eq_true, decide_eq_true_eq] at hvalid
        exact ⟨c hst, hvalid.1.1.1.1.2.1, hvalid.2.resolve_left (fun c' => c' (c hst))⟩
    generalize ha : segmentByte v.clip (decide (v.position < v.entry.length * 256)) = a at *
    by_cases h12 : s.xm.read a = 1 ∨ s.xm.read a = 2
    · obtain ⟨-, -, e⟩ := h2 hst h12
      have hlt : (if decide (v.position < v.entry.length * 256) = true then v.entry.length / 2 * 256 else 0)
          < v.entry.ends := by
        unfold ClipEntry.ends
        split <;> omega
      have := voiceIs_lawful hv k (v := { v with
            state := .playing, lastSegment := decide (s.xm.read a = 2)
            position := if decide (v.position < v.entry.length * 256) = true then v.entry.length / 2 * 256 else 0 })
        (voiceLawful_of hlaw hni rfl rfl rfl (fun _ => hlt) (fun c => by cases c))
      rw [e]
      exact this
    · rw [h1 (.inr ⟨fun c => h12 (.inl c), fun c => h12 (.inr c)⟩)]
      exact hv
  · rw [h1 (.inl hst)]
    exact hv

/-! ## The turns -/

/-- Voices that act one after the other, each as `act` says of the state at its turn. -/
theorem voicesInTurn_foldl {act : State → State → Nat → Prop} {step : State → Nat → State}
    (hstep : ∀ s k, s.xm.wf = true → voicesLawful s → k < 8 →
      act s (step s k) k ∧ (step s k).xm.wf = true ∧ voicesLawful (step s k))
    (l : List Nat) (hl : ∀ k ∈ l, k < 8) (s : State) (h : s.xm.wf = true) (hv : voicesLawful s) :
    voicesInTurn act l s (l.foldl step s) ∧ (l.foldl step s).xm.wf = true ∧ voicesLawful (l.foldl step s) := by
  induction l generalizing s with
  | nil => exact ⟨rfl, h, hv⟩
  | cons k rest ih =>
    obtain ⟨h1, h2, h3⟩ := hstep s k h hv (hl k (by simp))
    obtain ⟨q1, q2⟩ := ih (fun j hj => hl j (by simp [hj])) (step s k) h2 h3
    exact ⟨⟨_, h1, q1⟩, q2⟩

/-- The eight voices move on by one sample. -/
theorem State.advanceVoices_inTurn (s : State) (h : s.xm.wf = true) (hv : voicesLawful s) :
    voicesInTurn voiceMoved [0, 1, 2, 3, 4, 5, 6, 7] s (allVoices.foldl State.advanceVoice s)
      ∧ (allVoices.foldl State.advanceVoice s).xm.wf = true
      ∧ voicesLawful (allVoices.foldl State.advanceVoice s) :=
  voicesInTurn_foldl (fun s k h hv hk => ⟨s.advanceVoice_moved k h hv hk, State.advanceVoice_wf _ _ h,
    voiceMoved_lawful hv hk (s.advanceVoice_moved k h hv hk)⟩) _ (by decide) s h hv

/-- The eight voices fade. -/
theorem State.fadeVoices_inTurn (s : State) (h : s.xm.wf = true) (hv : voicesLawful s) :
    voicesInTurn voiceFaded [0, 1, 2, 3, 4, 5, 6, 7] s (allVoices.foldl State.fadeVoice s)
      ∧ (allVoices.foldl State.fadeVoice s).xm.wf = true
      ∧ voicesLawful (allVoices.foldl State.fadeVoice s) :=
  voicesInTurn_foldl (fun s k h hv hk => ⟨s.fadeVoice_faded k h hv hk, State.fadeVoice_wf _ _ h,
    voiceFaded_lawful hv hk (s.fadeVoice_faded k h hv hk)⟩) _ (by decide) s h hv

/-- The eight voices look for their segments. -/
theorem State.retryVoices_inTurn (s : State) (h : s.xm.wf = true) (hv : voicesLawful s) :
    voicesInTurn voiceRetried [0, 1, 2, 3, 4, 5, 6, 7] s (allVoices.foldl State.retryVoice s)
      ∧ (allVoices.foldl State.retryVoice s).xm.wf = true
      ∧ voicesLawful (allVoices.foldl State.retryVoice s) :=
  voicesInTurn_foldl (fun s k h hv hk => ⟨s.retryVoice_retried k h hv hk, State.retryVoice_wf _ _ h,
    voiceRetried_lawful hv hk (s.retryVoice_retried k h hv hk)⟩) _ (by decide) s h hv

/-! ## What the turns leave alone -/

/-- What a turn may reach. -/
def turnFrame (s t : State) (k : Nat) : Prop :=
  sameBut s.xm t.xm inSegments
    ∧ (∀ j, j ≠ k → t.sound.voices[j]? = s.sound.voices[j]?)
    ∧ t = { s with
        xm := t.xm, port := { s.port with notice := t.port.notice }
        sound := { s.sound with voices := t.sound.voices } }

theorem inSegments_byte {clip : Nat} (h : clip ≤ 63) (b : Bool) : inSegments (segmentByte clip b) := by
  unfold inSegments segmentByte
  split <;> omega

theorem turnFrame_refl (s : State) (k : Nat) : turnFrame s s k :=
  ⟨fun _ _ _ => rfl, fun _ _ => rfl, rfl⟩

theorem turnFrame_voiceIs (s : State) (k : Nat) (v : Voice) : turnFrame s (voiceIs s k v) k := by
  refine ⟨fun _ _ _ => rfl, fun j hj => ?_, rfl⟩
  simp [voiceIs, List.getElem?_set_ne (Ne.symm hj)]

theorem turnFrame_passed {s t : State} {k : Nat} {a b : Byte} {v : Voice} (hc : v.clip ≤ 63)
    (h : streamPassed s t k a b v) : turnFrame s t k := by
  obtain ⟨-, -, hs, he⟩ := h
  refine ⟨fun x hx hout => hs x hx ?_, fun j hj => ?_, ?_⟩
  · rintro (rfl | rfl) <;> exact hout (inSegments_byte hc _)
  · rw [he]; simp [voiceIs, List.getElem?_set_ne (Ne.symm hj)]
  · conv => lhs; rw [he]
    rw [he]
    simp [voiceIs, withNotice]

theorem stuckAt_clip (v : Voice) (b : Nat) : (stuckAt v b).clip = v.clip := by unfold stuckAt; split <;> rfl

theorem voiceMoved_frame {s t : State} {k : Nat} (hv : voicesLawful s) (hk : k < 8) (h : voiceMoved s t k) :
    turnFrame s t k := by
  obtain ⟨hq, hn, hb, he⟩ := h _ rfl _ rfl _ rfl _ rfl _ rfl _ rfl
  have hlaw := lawful_voice hv hk
  generalize s.sound.voice k = v at *
  cases hs : v.sounds with
  | false => rw [hq hs]; exact turnFrame_refl s k
  | true =>
    obtain ⟨hc, -, -⟩ := voiceLawful_sounds hlaw hs
    by_cases hno : v.entry.kind ≠ 2 ∨ positionNext v < v.entry.length / 2 * 256
        ∨ (v.entry.length / 2 * 256 ≤ v.position ∧ positionNext v < v.entry.length * 256)
    · rw [hn hs hno]; exact turnFrame_voiceIs s k _
    · simp only [not_or, not_and, not_lt, ne_eq, not_not] at hno
      obtain ⟨hk2, h1, h2⟩ := hno
      have hst : ∀ b, (stuckAt v b).clip ≤ 63 := fun b => by rw [stuckAt_clip]; exact hc
      by_cases hin : v.position < v.entry.length / 2 * 256
      · obtain ⟨p1, p2⟩ := hb hs hk2 hin h1
        cases hlast : v.lastSegment with
        | true => exact turnFrame_passed (by exact hc) (p1 hlast)
        | false =>
          obtain ⟨q1, q2, q3, q4⟩ := p2 hlast
          by_cases h12 : s.xm.read (segmentByte v.clip true) = 1 ∨ s.xm.read (segmentByte v.clip true) = 2
          · by_cases hend : positionNext v < v.entry.length * 256
            · exact turnFrame_passed (by exact hc) (q1 h12 hend)
            · rcases h12 with c | c
              · exact turnFrame_passed (hst _) (q3 c (Nat.le_of_not_lt hend))
              · exact turnFrame_passed (by exact hc) (q2 c (Nat.le_of_not_lt hend))
          · exact turnFrame_passed (hst _) (q4 (fun c => h12 (.inl c)) (fun c => h12 (.inr c)))
      · obtain ⟨p1, p2⟩ := he hs hk2 (Nat.le_of_not_lt hin) (h2 (Nat.le_of_not_lt hin))
        cases hlast : v.lastSegment with
        | true => exact turnFrame_passed (by exact hc) (p1 hlast)
        | false =>
          obtain ⟨q1, q2⟩ := p2 hlast
          by_cases h12 : s.xm.read (segmentByte v.clip false) = 1 ∨ s.xm.read (segmentByte v.clip false) = 2
          · exact turnFrame_passed (by exact hc) (q1 h12)
          · exact turnFrame_passed (hst _) (q2 (fun c => h12 (.inl c)) (fun c => h12 (.inr c)))

/-- The turns together. -/
theorem voicesInTurn_frame {act : State → State → Nat → Prop}
    (hact : ∀ s t k, voicesLawful s → k < 8 → act s t k → turnFrame s t k ∧ voicesLawful t)
    (l : List Nat) (hl : ∀ k ∈ l, k < 8) (s t : State) (hv : voicesLawful s) (h : voicesInTurn act l s t) :
    sameBut s.xm t.xm inSegments
      ∧ (∀ j, j ∉ l → t.sound.voices[j]? = s.sound.voices[j]?)
      ∧ t = { s with
          xm := t.xm, port := { s.port with notice := t.port.notice }
          sound := { s.sound with voices := t.sound.voices } } := by
  induction l generalizing s with
  | nil => cases h; exact ⟨fun _ _ _ => rfl, fun _ _ => rfl, rfl⟩
  | cons k rest ih =>
    obtain ⟨u, h1, h2⟩ := h
    obtain ⟨⟨f1, f2, f3⟩, hu⟩ := hact s u k hv (hl k (by simp)) h1
    obtain ⟨g1, g2, g3⟩ := ih (fun j hj => hl j (by simp [hj])) u hu h2
    refine ⟨fun a ha ho => (g1 a ha ho).trans (f1 a ha ho), fun j hj => ?_, ?_⟩
    · rw [g2 j (fun c => hj (List.mem_cons_of_mem _ c)), f2 j (fun c => hj (c ▸ List.mem_cons_self))]
    · conv => lhs; rw [g3]
      have e : ∀ {α : Type} (f : State → α), f u = f { s with
        xm := u.xm, port := { s.port with notice := u.port.notice }
        sound := { s.sound with voices := u.sound.voices } } := fun f => congrArg f f3
      congr 1
      all_goals first
        | exact e _
        | (rw [e State.port])
        | (rw [e State.sound])

/-- A voice after the turns is what its own turn has made of it. -/
theorem voicesInTurn_voice {P : Voice → Voice → Prop} {act : State → State → Nat → Prop}
    (hact : ∀ s t k, voicesLawful s → k < 8 → act s t k → turnFrame s t k ∧ voicesLawful t ∧ P (s.sound.voice k) (t.sound.voice k))
    (l : List Nat) (hn : l.Nodup) (hl : ∀ k ∈ l, k < 8) (s t : State) (hv : voicesLawful s) (h : voicesInTurn act l s t) :
    ∀ k ∈ l, P (s.sound.voice k) (t.sound.voice k) := by
  induction l generalizing s with
  | nil => intro k hk; cases hk
  | cons j rest ih =>
    obtain ⟨u, h1, h2⟩ := h
    obtain ⟨⟨f1, f2, f3⟩, hu, hp⟩ := hact s u j hv (hl j (by simp)) h1
    have hr := voicesInTurn_frame (fun s t k a b c => ⟨(hact s t k a b c).1, (hact s t k a b c).2.1⟩) rest
      (fun j hj => hl j (by simp [hj])) u t hu h2
    intro k hk
    rw [List.nodup_cons] at hn
    by_cases e : k = j
    · subst e
      have := hr.2.1 k hn.1
      have e2 : t.sound.voice k = u.sound.voice k := by
        simp only [Sound.voice, List.getD_eq_getElem?_getD, this]
      rw [e2]; exact hp
    · have e2 : u.sound.voice k = s.sound.voice k := by
        simp only [Sound.voice, List.getD_eq_getElem?_getD, f2 k e]
      rw [← e2]
      exact ih hn.2 (fun j hj => hl j (by simp [hj])) u hu h2 k (by simpa [e] using hk)

end Sys2Proof.Machine
end

