-- ==== Sys2Proof/Laws/Starts.lean ====
section
/-! SUPPORT. How voices start (R139, R141, R142, R155): the stop before a start, the start itself, the voice an
automatic start takes, and a clip that the part starts by itself. -/

namespace Sys2Proof.Machine

open Sys2Proof.Safety

/-- A stop reaches one voice, its segment and STREAM alone. -/
theorem State.stopVoice_eq (s : State) (n : Nat) (hn : n < s.sound.voices.length) :
    s.stopVoice n = { s with
      xm := (s.stopVoice n).xm, port := (s.stopVoice n).port
      sound := { s.sound with voices := s.sound.voices.set n { s.sound.voice n with state := .idle } } } := by
  simp only [State.stopVoice]
  split
  · rw [State.onVoice_eq _ _ _ (by simpa [State.leaveSegment] using hn)]
    rfl
  · rw [State.onVoice_eq _ _ _ hn]
    rfl

/-- A stop writes segment bytes alone. -/
theorem State.stopVoice_same (s : State) (n : Nat) (hv : voicesLawful s) (hn : n < 8) (h : s.xm.wf = true) :
    sameBut s.xm (s.stopVoice n).xm inSegments := by
  intro a ha hout
  simp only [State.stopVoice]
  split
  · rename_i hs
    simp only [Bool.and_eq_true] at hs
    obtain ⟨hc, -, -⟩ := voiceLawful_sounds (lawful_voice hv hn) hs.1
    simp only [State.onVoice, State.onSound_xm, State.leaveSegment, State.raise_frame, State.onXm_xm, segmentAddr_eq]
    rw [Memory.read_write _ _ _ h, Nat.mod_eq_of_lt (segmentByte_lt hc _), Nat.mod_eq_of_lt ha, if_neg]
    intro e
    exact hout (e ▸ inSegments_byte hc _)
  · rfl

/-- The directory is read as before where segment bytes alone have changed. -/
theorem loadClip_same {m m' : Memory} (h : sameBut m m' inSegments) {x : Nat} (hx : x ≤ 63) :
    loadClip m' x = loadClip m x := by
  have hr : ∀ k, k < 14 → m'.read (clipBase x + k) = m.read (clipBase x + k) := by
    intro k hk
    refine h _ (by simp only [clipBase]; omega) ?_
    simp only [inSegments, clipBase]
    omega
  have hr' : ∀ k, k < 13 → m'.read (clipBase x + k + 1) = m.read (clipBase x + k + 1) :=
    fun k hk => hr (k + 1) (by omega)
  simp only [loadClip, field8, field16, Memory.read16, hr _ (show (0x00 : Nat) < 14 by decide),
    hr _ (show (0x01 : Nat) < 14 by decide), hr _ (show (0x02 : Nat) < 14 by decide),
    hr _ (show (0x04 : Nat) < 14 by decide), hr _ (show (0x06 : Nat) < 14 by decide),
    hr _ (show (0x08 : Nat) < 14 by decide), hr _ (show (0x0A : Nat) < 14 by decide),
    hr _ (show (0x0C : Nat) < 14 by decide), hr' _ (show (0x02 : Nat) < 13 by decide),
    hr' _ (show (0x04 : Nat) < 13 by decide), hr' _ (show (0x06 : Nat) < 13 by decide),
    hr' _ (show (0x08 : Nat) < 13 by decide), hr' _ (show (0x0A : Nat) < 13 by decide)]

/-- A start by the engine, chuff or trigger rules (R139, R141). -/
theorem State.startOrFault_given (s : State) (n clip : Nat) (use : ClipUse) (f : StartFields) (h : s.xm.wf = true)
    (hv : voicesLawful s) (hn : n < 8) (hu : use ≠ .none) :
    voiceGiven s (s.startOrFault n clip use f) n clip use fun e =>
      freshVoice clip e (f.volume.getD e.volume) (f.pitch.getD (clampPitch e.basePitch)) (f.repeats.left e.kind)
        f.priority f.starter (s.sound.startCount + 1) := by
  intro freed hf
  have hl : n < s.sound.voices.length := by rw [hv.1]; exact hn
  have hstop : s.stopVoice n = freed := (s.stopVoice_eq n hl).trans hf.symm
  have hallow : ∀ e : ClipEntry, use.allows e.kind = decide (if use = .engine then e.kind = 1 else e.kind ≤ 1) := by
    intro e
    cases use <;> first | exact absurd rfl hu | rfl
  refine ⟨fun hc => by rw [State.startOrFault, if_pos hc, hstop], fun hc e he => ?_⟩
  have he' : loadClip freed.xm clip = e := by
    rw [he, hf]
    exact loadClip_same (s.stopVoice_same n hv hn h) hc
  have hfl : n < freed.sound.voices.length := by rw [hf]; simpa using hl
  rw [State.startOrFault, if_neg (Nat.not_lt.mpr hc)]
  simp only [State.startVoice, hstop, he', validFor, hc, decide_true, Bool.true_and, hallow]
  by_cases hg : e.valid = true ∧ (if use = .engine then e.kind = 1 else e.kind ≤ 1)
  · have hk : e.kind ≠ 2 := by
      have := hg.2
      split at this <;> omega
    have hgo : (e.valid && decide (if use = .engine then e.kind = 1 else e.kind ≤ 1)) = true := by
      simp only [Bool.and_eq_true, decide_eq_true_eq]; exact hg
    rw [if_pos hg, if_pos hgo, if_neg hk]
    simp only [if_true, State.voiceStarts]
    rw [State.onVoice_eq _ _ _ (by simpa using hfl)]
    subst hf
    simp [voiceIs, State.onSound, startedVoice, freshVoice]
  · have hgo : ¬(e.valid && decide (if use = .engine then e.kind = 1 else e.kind ≤ 1)) = true := by
      simp only [Bool.and_eq_true, decide_eq_true_eq]; exact hg
    rw [if_neg hg, if_neg hgo]
    simp only [Bool.false_eq_true, if_false, State.clipFault, State.recordFault]
    subst hf
    rfl

/-! ## The voice an automatic start takes (R142) -/

/-- Voice `n` is to be stolen rather than any other candidate listed. -/
def stolenFirst (u : Sound) (priority n : Nat) (l : List Nat) : Prop :=
  ∀ k ∈ l, k ≠ n → (u.voice k).priority < priority →
    (u.voice n).priority < (u.voice k).priority
      ∨ ((u.voice n).priority = (u.voice k).priority
        ∧ (u.startCount - (u.voice k).stamp).toNat < (u.startCount - (u.voice n).stamp).toNat)

theorem stealCandidate_mem (u : Sound) (priority : Nat) (l : List Nat) {k : Nat}
    (h : stealCandidate u priority l = some k) : k ∈ l ∧ (u.voice k).priority < priority := by
  induction l with
  | nil => cases h
  | cons m rest ih =>
    simp only [stealCandidate] at h
    split at h
    · split at h
      · rename_i j hj
        split at h
        · cases h
          exact ⟨List.mem_cons_of_mem _ (ih hj).1, (ih hj).2⟩
        · cases h
          exact ⟨List.mem_cons_self, by assumption⟩
      · cases h
        exact ⟨List.mem_cons_self, by assumption⟩
    · exact ⟨List.mem_cons_of_mem _ (ih h).1, (ih h).2⟩

theorem stealCandidate_first (u : Sound) (priority n : Nat) (l : List Nat) (hl : l.Nodup) (hn : n ∈ l)
    (hp : (u.voice n).priority < priority) (h : stolenFirst u priority n l) :
    stealCandidate u priority l = some n := by
  induction l with
  | nil => cases hn
  | cons m rest ih =>
    rw [List.nodup_cons] at hl
    simp only [stealCandidate]
    by_cases e : m = n
    · subst e
      rw [if_pos hp]
      cases hb : stealCandidate u priority rest with
      | none => rfl
      | some k =>
        obtain ⟨hk, hkp⟩ := stealCandidate_mem u priority rest hb
        have hne : k ≠ m := fun c => hl.1 (c ▸ hk)
        have hfalse : (u.voice k).stolenBefore u.startCount (u.voice m) = false := by
          simp only [Voice.stolenBefore, Voice.age, Bool.or_eq_false_iff, Bool.and_eq_false_iff, decide_eq_false_iff_not]
          rcases h k (List.mem_cons_of_mem _ hk) hne hkp with c | ⟨c, d⟩
          · exact ⟨by omega, .inl (by omega)⟩
          · exact ⟨by omega, .inr (decide_eq_false (by omega))⟩
        simp [hfalse]
    · have hr : n ∈ rest := (List.mem_cons.1 hn).resolve_left (fun c => e c.symm)
      rw [ih hl.2 hr (fun k hk => h k (List.mem_cons_of_mem _ hk))]
      by_cases hm : (u.voice m).priority < priority
      · have htrue : (u.voice n).stolenBefore u.startCount (u.voice m) = true := by
          simp only [Voice.stolenBefore, Voice.age, Bool.or_eq_true, Bool.and_eq_true, decide_eq_true_eq]
          rcases h m List.mem_cons_self e hm with c | ⟨c, d⟩
          · exact .inl c
          · exact .inr ⟨c, decide_eq_true d⟩
        simp [hm, htrue]
      · simp [hm]

theorem stealCandidate_none (u : Sound) (priority : Nat) (l : List Nat)
    (h : ∀ k ∈ l, priority ≤ (u.voice k).priority) : stealCandidate u priority l = none := by
  cases hb : stealCandidate u priority l with
  | none => rfl
  | some k =>
    obtain ⟨hk, hp⟩ := stealCandidate_mem u priority l hb
    exact absurd (h k hk) (Nat.not_le.mpr hp)

theorem mem_pool {n : Nat} : n ∈ pool ↔ 2 ≤ n ∧ n ≤ 7 := by
  simp only [pool, List.mem_cons, List.not_mem_nil, or_false]
  omega

/-- The voice of an automatic start, where the rule names one. -/
theorem Sound.allocate_plays (u : Sound) (priority n : Nat) (h : playsOn u 255 priority n) :
    u.allocate priority = some n := by
  obtain ⟨h2, h7, h⟩ := h
  have hn : n ∈ pool := mem_pool.2 ⟨h2, h7⟩
  have hfind : ∀ l : List Nat, (∀ k ∈ l, (u.voice k).state ≠ .idle) →
      l.find? (fun n => decide ((u.voice n).state = .idle)) = none := by
    intro l hl
    rw [List.find?_eq_none]
    intro k hk
    simpa using hl k hk
  rcases h with h | ⟨-, hidle, hlow⟩ | ⟨-, hbusy, hp, hfirst⟩
  · omega
  · have : pool.find? (fun n => decide ((u.voice n).state = .idle)) = some n := by
      simp only [pool, List.find?]
      have hd : ∀ k, 2 ≤ k → k < n → decide ((u.voice k).state = .idle) = false :=
        fun k a b => by simpa using hlow k a b
      have ht : decide ((u.voice n).state = .idle) = true := by simpa using hidle
      have : n = 2 ∨ n = 3 ∨ n = 4 ∨ n = 5 ∨ n = 6 ∨ n = 7 := by omega
      rcases this with rfl | rfl | rfl | rfl | rfl | rfl <;>
      simp only [ht, hd 2 (by decide), hd 3 (by decide), hd 4 (by decide), hd 5 (by decide), hd 6 (by decide),
        Nat.reduceLT]
    simp [Sound.allocate, this]
  · have := hfind pool (fun k hk => hbusy k (mem_pool.1 hk).1 (mem_pool.1 hk).2)
    simp only [Sound.allocate, this]
    exact stealCandidate_first u priority n pool (by decide) hn hp
      (fun k hk hne hkp => hfirst k (mem_pool.1 hk).1 (mem_pool.1 hk).2 hne hkp)

/-- An automatic start that finds no voice. -/
theorem Sound.allocate_none (u : Sound) (priority : Nat)
    (h : ∀ n, 2 ≤ n → n ≤ 7 → (u.voice n).state ≠ .idle ∧ priority ≤ (u.voice n).priority) :
    u.allocate priority = none := by
  have : pool.find? (fun n => decide ((u.voice n).state = .idle)) = none := by
    rw [List.find?_eq_none]
    intro k hk
    simpa using (h k (mem_pool.1 hk).1 (mem_pool.1 hk).2).1
  simp only [Sound.allocate, this]
  exact stealCandidate_none u priority pool (fun k hk => (h k (mem_pool.1 hk).1 (mem_pool.1 hk).2).2)

/-- A clip that the part starts by itself (R155, R156, R160). -/
theorem State.trigger_plays (s : State) (clip : Nat) (use : ClipUse) (priority : Nat) (starter : Starter)
    (endless : Bool) (h : s.xm.wf = true) (hv : voicesLawful s) (hu : use ≠ .none) :
    clipPlays s (s.trigger clip use {
      volume := none, pitch := none, repeats := if endless then .endless else .once, priority := priority
      starter := starter }) clip use priority starter endless := by
  refine ⟨fun hno => ?_, fun hc hr n hp => ?_⟩
  · simp only [State.trigger]
    by_cases hgo : s.isRun = true ∧ clip ≤ 63
    · rw [if_pos hgo]
      rcases hno with c | c | c
      · omega
      · rw [hgo.1] at c; cases c
      · rw [s.sound.allocate_none priority c]
    · rw [if_neg hgo]
  · have hg := s.startOrFault_given n clip use {
      volume := none, pitch := none, repeats := if endless then .endless else .once, priority := priority
      starter := starter } h hv (by have := hp.2.1; omega) hu
    simp only [State.trigger]
    rw [if_pos ⟨hr, hc⟩, s.sound.allocate_plays priority n hp]
    refine (?_ : (fun e : ClipEntry => freshVoice clip e ((none : Option Nat).getD e.volume)
        ((none : Option Nat).getD (clampPitch e.basePitch))
        (RepeatSetting.left (if endless then .endless else .once) e.kind) priority starter (s.sound.startCount + 1))
      = fun e => freshVoice clip e e.volume (max 0x40 (min 0x400 e.basePitch))
        (if endless then none else some (if e.kind = 1 then 1 else 0)) priority starter
        (s.sound.startCount + 1)) ▸ hg
    funext e
    cases endless <;> rfl

end Sys2Proof.Machine
end

