-- ==== Sys2Proof/Laws/Derive.lean ====
section
/-! SUPPORT. What a derivation of the traction state does (R73 to R75, R87, R134, R155), and with it a clear of a bridge
(R97, R99). -/

namespace Sys2Proof.Machine

open Sys2Proof.Safety

/-! ## Derivations -/

theorem State.stopVoice_onTraction (s : State) (f : Traction → Traction) (n : Nat) :
    (s.onTraction f).stopVoice n = (s.stopVoice n).onTraction f := by
  have e : ∀ c : Bool, (((s.onTraction f).sound.voice n).sounds
        && decide (((s.onTraction f).sound.voice n).entry.kind = 2)) = c →
      ((s.sound.voice n).sounds && decide ((s.sound.voice n).entry.kind = 2)) = c := fun _ h => h
  cases h : ((s.onTraction f).sound.voice n).sounds && decide (((s.onTraction f).sound.voice n).entry.kind = 2) <;>
  · simp only [State.stopVoice, h, e _ h]
    rfl

theorem State.startOrFault_onTraction (s : State) (f : Traction → Traction) (n clip : Nat) (use : ClipUse)
    (g : StartFields) : (s.onTraction f).startOrFault n clip use g = (s.startOrFault n clip use g).onTraction f := by
  unfold State.startOrFault
  split
  · exact s.stopVoice_onTraction f n
  · simp only [State.startVoice, State.stopVoice_onTraction, State.onTraction_xm]
    split
    · split
      · have : segmentFull ((s.stopVoice n).onTraction f) clip false = segmentFull (s.stopVoice n) clip false := rfl
        rw [this]
        cases segmentFull (s.stopVoice n) clip false <;> rfl
      · rfl
    · rfl

theorem State.trigger_onTraction (s : State) (f : Traction → Traction) (clip : Nat) (use : ClipUse) (g : StartFields) :
    (s.onTraction f).trigger clip use g = (s.trigger clip use g).onTraction f := by
  unfold State.trigger
  have : (s.onTraction f).isRun = s.isRun := rfl
  rw [this, State.onTraction_sound]
  split
  · cases s.sound.allocate g.priority with
    | none => rfl
    | some n => exact s.startOrFault_onTraction f n clip use g
  · rfl

/-- The traction state is the first of R73 that holds. -/
theorem derivedState_eq (s : State) : derivedState s = stateOf s := by
  unfold derivedState stateOf
  cases h1 : s.isRun <;> cases h2 : s.balance.run <;> cases h3 : s.bridges.allLatched <;> cases h4 : s.traction.latch <;>
    cases h5 : s.traction.pending <;> simp

/-- The command that goes with it. -/
theorem commandFor_eq (s : State) (x : TractionState) : commandFor s x = commandOf s x := by
  cases x <;> simp only [commandFor, commandOf] <;> try rfl
  · unfold balanceCommand
    cases s.balance.run with
    | none => rfl
    | some r =>
      simp only [BalanceRun.testDuty]
      cases r.driving <;> cases r.held <;> rfl

/-- A trigger reaches sound, segments, pending bits and the fault count alone. -/
theorem State.trigger_eq (s : State) (clip : Nat) (use : ClipUse) (g : StartFields) :
    s.trigger clip use g = { s with
      xm := (s.trigger clip use g).xm, port := (s.trigger clip use g).port
      status := (s.trigger clip use g).status, sound := (s.trigger clip use g).sound } := by
  have h := s.trigger_frame clip use g
  generalize s.trigger clip use g = t at *
  obtain ⟨h1, h2, h3, h4, h5, h6, h7, h8, h9, h10, h11, h12, h13, h14⟩ := h
  cases t
  simp_all

/-- An entry to STOPPED begins the dwell of a station stop in BRAKING (R134). -/
theorem State.stationStopped_eq (s : State) (before : TractionState) (hb : before ≠ .stopped) :
    s.stationStopped = { s with radio := { s.radio with
      station := stationThen s.radio.station s.clock before .stopped } } := by
  unfold State.stationStopped stationThen
  cases h : s.radio.station with
  | braking f => simp [hb, State.onRadio, dwellTime, ms, Nat.mul_comm]
  | none => simp only; rw [← h]
  | dwell f ends => simp only; rw [← h]

theorem stationThen_same (st : Station) (now : Nat) (before after : TractionState)
    (h : after ≠ .stopped ∨ before = .stopped) : stationThen st now before after = st := by
  unfold stationThen
  cases st <;> simp
  intro ha
  refine Classical.byContradiction fun hb => ?_
  rcases h with h | h
  · exact absurd ha h
  · exact absurd h hb

/-- The clips and the station stop at a change of traction state. -/
theorem State.reportTraction_clips (s : State) (x : TractionState) (h : s.xm.wf = true) (hv : voicesLawful s) :
    ∃ v : State, clipsOfChange s v s.traction.state x
      ∧ (s.onTraction fun t => { t with state := x }).reportTraction s.traction.state
        = { s with
            xm := v.xm, port := v.port, status := v.status, sound := v.sound
            traction := { s.traction with state := x }
            radio := { s.radio with station := stationThen s.radio.station s.clock s.traction.state x } } := by
  have hstart : clipPlays s s.playStartClip s.soundSet.startClip .start 1 .event false :=
    s.trigger_plays _ _ 1 .event false h hv (by decide)
  have hstop : clipPlays s s.playStopClip s.soundSet.stopClip .stop 1 .event false :=
    s.trigger_plays _ _ 1 .event false h hv (by decide)
  generalize hb : s.traction.state = before
  have hquiet : ¬(before = .stopped ∧ x = .running) → ¬((before = .running ∨ before = .reversing) ∧ x = .stopped) →
      clipsOfChange s s before x := fun a b => ⟨fun c => absurd c a, fun c => absurd c b, fun _ _ => rfl⟩
  by_cases h1 : before = .stopped ∧ x = .running
  · obtain ⟨rfl, rfl⟩ := h1
    refine ⟨s.playStartClip, ⟨fun _ => hstart, fun c => by simp at c, fun c => absurd ⟨rfl, rfl⟩ c⟩, ?_⟩
    show State.playStartClip _ = _
    unfold State.playStartClip
    rw [State.trigger_onTraction, stationThen_same _ _ _ _ (.inr rfl)]
    conv => lhs; rw [State.trigger_eq]
    rfl
  · by_cases h2 : (before = .running ∨ before = .reversing) ∧ x = .stopped
    · obtain ⟨h2, rfl⟩ := h2
      refine ⟨s.playStopClip, ⟨fun c => by simp at c, fun _ => hstop, fun _ c => absurd ⟨h2, rfl⟩ c⟩, ?_⟩
      have hn : before ≠ .stopped := by rcases h2 with rfl | rfl <;> decide
      have : (s.onTraction fun t => { t with state := .stopped }).reportTraction before =
          (s.onTraction fun t => { t with state := .stopped }).playStopClip.stationStopped := by
        rcases h2 with rfl | rfl <;> rfl
      rw [this, State.stationStopped_eq _ before hn]
      unfold State.playStopClip
      have hset : (s.onTraction fun t => { t with state := .stopped }).soundSet = s.soundSet := rfl
      rw [hset, State.trigger_onTraction]
      simp only [State.onTraction_radio, State.onTraction_clock, State.trigger_frame]
      conv => lhs; rw [State.trigger_eq]
      rfl
    · refine ⟨s, hquiet h1 h2, ?_⟩
      by_cases h3 : x = .stopped ∧ before ≠ .stopped
      · obtain ⟨rfl, hn⟩ := h3
        have : (s.onTraction fun t => { t with state := .stopped }).reportTraction before =
            (s.onTraction fun t => { t with state := .stopped }).stationStopped := by
          cases before <;> first | rfl | exact absurd rfl hn | exact absurd ⟨.inl rfl, rfl⟩ h2 | exact absurd ⟨.inr rfl, rfl⟩ h2
        rw [this, State.stationStopped_eq _ before hn]
        rfl
      · have : (s.onTraction fun t => { t with state := x }).reportTraction before =
            (s.onTraction fun t => { t with state := x }) := by
          cases x <;> cases before <;>
            first | rfl | exact absurd ⟨rfl, rfl⟩ h1 | exact absurd ⟨rfl, by decide⟩ h3
        rw [this, stationThen_same _ _ _ _ (by
          by_cases hx : x = .stopped
          · exact .inr (Classical.byContradiction fun c => h3 ⟨hx, c⟩)
          · exact .inl hx)]
        rfl

/-- A derivation (R73 to R75, R87, R134, R155). -/
theorem State.derive_afresh (s : State) (h : s.xm.wf = true) (hv : voicesLawful s) : derivedAfresh s s.derive := by
  obtain ⟨v, hc, he⟩ := s.reportTraction_clips (derivedState s) h hv
  have hd : s.derive = State.handCommand { s with
            xm := v.xm, port := v.port, status := v.status, sound := v.sound
            traction := { s.traction with state := derivedState s }
            radio := { s.radio with station := stationThen s.radio.station s.clock s.traction.state (derivedState s) } }
      (commandOf s (derivedState s)) := by
    unfold State.derive
    simp only [he]
    rw [commandFor_eq]
    rfl
  rw [derivedState_eq] at hd hc
  rw [hd, State.handCommand_eq]
  have ht := s.bridges.hand_taken s.clock (commandOf s (stateOf s))
  rw [bridgesTaken, BridgeUnit.hand_held] at ht
  exact ⟨rfl, rfl, rfl, ⟨v, hc, rfl, rfl, rfl, rfl⟩, ht, rfl⟩

/-- A clear of one bridge (R97, R99). -/
theorem State.clearBridge_cleared (s : State) (id : BridgeId) (h : s.xm.wf = true) (hv : voicesLawful s)
    (hsingle : s.bridges.cfg.mode = .single → s.bridges.b.state = .off) : bridgeCleared s (s.clearBridge id) id := by
  refine ⟨fun hl => ?_, fun hl => ?_⟩
  · have hr : (s.bridges.get id).release s.clock s.bridges.held = { s.bridges.get id with shortRun := 0 } := by
      rw [Bridge.release_eq, if_neg hl]
    rw [← hr]
    simp only [State.clearBridge, if_neg hl]
    rfl
  · let u : State := s.onBridges fun u => u.clearFault id s.clock
    have hget : u.bridges.get id = (s.bridges.get id).rest s.clock (stateNamed s.bridges.held)
        (restPattern (stateNamed s.bridges.held)) := by
      simp only [u, State.onBridges_bridges, BridgeUnit.clearFault, Bridge.release_eq, if_pos hl]
      cases id <;> rfl
    have hu : u = { s with bridges := s.bridges.set id (u.bridges.get id) } := by
      cases id <;> rfl
    have hstate : (u.bridges.get id).state ≠ .latched := by
      rw [hget]
      show stateNamed s.bridges.held ≠ .latched
      cases s.bridges.held <;> simp [stateNamed]
    have hall : u.bridges.allLatched = false := by
      cases id with
      | a =>
        have : u.bridges.a.state ≠ .latched := hstate
        simp [BridgeUnit.allLatched, this]
      | b =>
        have hb : u.bridges.b.state ≠ .latched := hstate
        have hmode : s.bridges.cfg.mode ≠ .single := by
          intro c
          have := hsingle c
          have hl' : s.bridges.b.state = .latched := hl
          rw [this] at hl'; cases hl'
        have hcfg : u.bridges.cfg.mode = .parallel := by
          have : u.bridges.cfg = s.bridges.cfg := rfl
          rw [this]
          cases hm : s.bridges.cfg.mode with
          | single => exact absurd hm hmode
          | parallel => rfl
        simp [BridgeUnit.allLatched, BridgeUnit.configured, hcfg, hb]
    have ht : s.clearBridge id = u.derive := by
      simp only [State.clearBridge, if_pos hl, State.tractionLatchReport]
      rw [show (s.onBridges fun u => u.clearFault id s.clock) = u from rfl, hall]
      rfl
    rw [ht]
    refine ⟨u, ?_, hu, u.derive_afresh h hv⟩
    rw [hget]
    exact Bridge.rest_rests _ _ _

end Sys2Proof.Machine
end

