-- ==== Sys2Proof/Laws/Log.lean ====
section
/-! SUPPORT. What the offer of a record to the radio log does (R135, R136). -/

namespace Sys2Proof.Machine

open Sys2Proof.Safety

theorem length_recordBytes (seq : Half) (time : Reg) (kind : RecordKind) (reason : Reason) (gap : Bool) (f : Frame) :
    (recordBytes seq time kind reason gap f).length = 32 := by
  simp [recordBytes, bytes16, bytes32]

/-- The 32 bytes of a record as the statements say them. -/
theorem recordBytes_read (s : State) (seq : Half) (kind : RecordKind) (reason : Reason) (f : Frame) :
    recordBytes seq (millisecondClock s) kind reason s.radio.overflow f =
      bytes16 seq.toNat ++ bytes32 (BitVec.ofNat 32 (s.clock / 1024000)).toNat
        ++ [kind.code, reason.code,
            (if s.radio.overflow then 1 else 0) + (if 16 < f.payload.length then 2 else 0),
            BitVec.ofNat 8 f.cls]
        ++ bytes16 f.sender ++ bytes16 f.target
        ++ [BitVec.ofNat 8 f.kind, BitVec.ofNat 8 f.payload.length]
        ++ (f.payload ++ List.replicate 16 0).take 16 := by
  have hflags : loByte (recordFlags s.radio.overflow f) =
      (if s.radio.overflow then 1 else 0) + (if 16 < f.payload.length then 2 else 0) := by
    unfold recordFlags boolNat
    cases s.radio.overflow <;> by_cases h : 16 < f.payload.length <;> simp [h] <;> decide
  simp only [recordBytes, hflags, millisecondClock]
  rfl

/-- A record that is offered is written at the write index, or dropped when the log is full. -/
theorem State.offer_recorded (s : State) (kind : RecordKind) (reason : Reason) (f : Frame)
    (h : s.xm.wf = true) :
    recordOffered s (s.offer kind reason f) kind reason f [] := by
  unfold State.offer logFull recordOffered
  by_cases hf : (s.radio.logIndex + 1) % 64 = logReadIndex s
  · have hf' : (s.radio.logIndex + 1) % 64 = (s.xm.read 0x32).toNat % 64 := hf
    cases ho : s.radio.overflow <;> simp [hf, ho, State.raise_port, withNotice, hf.symm.trans hf']
  · have hf' : ¬(s.radio.logIndex + 1) % 64 = (s.xm.read 0x32).toNat % 64 := hf
    simp only [hf, hf', decide_false, if_false, Bool.false_eq_true]
    refine ⟨by simp, ?_, by simp, by simp, by simp [State.raise_port]⟩
    intro k hk
    have hr := Memory.read_writeBytes h (a := logBase s.radio.logIndex)
      (l := recordBytes (s.radio.logSeq + 1) (millisecondClock s) kind reason s.radio.overflow f) k
      (by rw [length_recordBytes]; exact hk)
      (by intro j _ hj; rw [length_recordBytes] at hj; simp only [logBase]; omega)
    simp only [State.raise_frame, State.onRadio_xm, State.onXm_xm, State.granted_xm]
    rw [show 0x1800 + 32 * s.radio.logIndex + k = logBase s.radio.logIndex + k from rfl, hr,
      List.getD_eq_getElem?_getD, ← recordBytes_read, List.getElem?_eq_getElem (by rw [length_recordBytes]; exact hk),
      Option.getD_some]

/-- No byte outside the record it takes changes. -/
theorem State.offer_only (s : State) (kind : RecordKind) (reason : Reason) (f : Frame)
    (h : s.xm.wf = true) (hl : s.radio.logIndex < 64) : recordOnly s (s.offer kind reason f) := by
  intro a ha hout
  unfold State.offer logFull
  by_cases hf : (s.radio.logIndex + 1) % 64 = logReadIndex s
  · simp only [hf, decide_true, if_true]
    split <;> simp
  · simp only [hf, decide_false, if_false, Bool.false_eq_true, State.raise_frame, State.onRadio_xm, State.onXm_xm,
      State.granted_xm]
    refine Memory.read_writeBytes_other h ?_
    intro j hj
    rw [length_recordBytes] at hj
    have : ¬inRecord s.radio.logIndex a := fun hc => hout ⟨hf, hc⟩
    simp only [inRecord, not_and, Nat.not_lt] at this
    simp only [logBase]
    omega

/-- An offer reaches memory, the pending bits and the log's own place alone. -/
theorem State.offer_eq (s : State) (kind : RecordKind) (reason : Reason) (f : Frame) :
    s.offer kind reason f = { s with
      xm := (s.offer kind reason f).xm, lastGranted := .radioWriter
      port := { s.port with notice := (s.offer kind reason f).port.notice }
      radio := { s.radio with
        logIndex := (s.offer kind reason f).radio.logIndex, logSeq := (s.offer kind reason f).radio.logSeq
        overflow := (s.offer kind reason f).radio.overflow } } := by
  unfold State.offer
  repeat' split
  all_goals simp only [State.raise, State.onPort, State.onRadio, State.granted, State.onXm]

end Sys2Proof.Machine
end

