-- ==== Sys2Proof/Laws/RunState.lean ====
section
/-! SUPPORT. What leaves the run state as it was: every shared operation and command that reaches the host
port's registers, but those that enter RUN, tear down or reset. -/

namespace Sys2Proof.Machine


@[simp] theorem State.raise_run (s : State) (b : NoticeBit) :
    (s.raise b).port.run = s.port.run := by
  simp [State.raise]

@[simp] theorem State.recordFault_run (s : State) :
    (s.recordFault).port.run = s.port.run := by
  simp [State.recordFault]

@[simp] theorem State.spiWrite_run (s : State) (n : Nat) :
    (s.spiWrite n).port.run = s.port.run := by
  simp [State.spiWrite]

@[simp] theorem State.registerWrite_run (s : State) :
    (s.registerWrite).port.run = s.port.run := by
  simp [State.registerWrite]

@[simp] theorem State.recordLampFault_run (s : State) (n : Nat) (k : LampFault) :
    (s.recordLampFault n k).port.run = s.port.run := by
  simp [State.recordLampFault]

@[simp] theorem State.overEpisode_run (s : State) (n : Nat) :
    (s.overEpisode n).port.run = s.port.run := by
  simp only [State.overEpisode]
  repeat' split
  all_goals simp

@[simp] theorem overcurrentDetected_run (s : State) (n : Nat) :
    (overcurrentDetected s n).port.run = s.port.run := by
  simp only [overcurrentDetected]
  repeat' split
  all_goals simp

@[simp] theorem openLoadDetected_run (s : State) (n : Nat) :
    (openLoadDetected s n).port.run = s.port.run := by
  simp only [openLoadDetected]
  repeat' split
  all_goals simp

@[simp] theorem State.sensorTest_run (s : State) :
    (s.sensorTest).port.run = s.port.run := by
  simp only [State.sensorTest]
  repeat' split
  all_goals simp

@[simp] theorem State.dryTest_run (s : State) :
    (s.dryTest).port.run = s.port.run := by
  simp only [State.dryTest]
  repeat' split
  all_goals simp

@[simp] theorem State.heaterSetChange_run (s : State) :
    (s.heaterSetChange).port.run = s.port.run := by
  simp [State.heaterSetChange]

@[simp] theorem State.lossDetection_run (s : State) (applied : Nat) :
    (s.lossDetection applied).port.run = s.port.run := by
  simp only [State.lossDetection]
  repeat' split
  all_goals simp

@[simp] theorem State.leaveSegment_run (s : State) (clip : Nat) (second : Bool) :
    (s.leaveSegment clip second).port.run = s.port.run := by
  simp [State.leaveSegment]

@[simp] theorem State.stopVoice_run (s : State) (n : Nat) :
    (s.stopVoice n).port.run = s.port.run := by
  simp only [State.stopVoice]
  repeat' split
  all_goals simp

@[simp] theorem State.stopVoices_run (s : State) :
    ((allVoices.foldl State.stopVoice s)).port.run = s.port.run := 
    foldl_keeps (act := State.stopVoice) (·.port.run) (by simp) allVoices s

@[simp] theorem State.startVoice_run (s : State) (n clip : Nat) (use : ClipUse) (f : StartFields) :
    ((s.startVoice n clip use f).1).port.run = s.port.run := by
  simp only [State.startVoice]
  repeat' split
  all_goals simp

@[simp] theorem State.clipFault_run (s : State) (clip : Nat) (use : ClipUse) :
    (s.clipFault clip use).port.run = s.port.run := by
  simp [State.clipFault]

@[simp] theorem State.startOrFault_run (s : State) (n clip : Nat) (use : ClipUse) (f : StartFields) :
    (s.startOrFault n clip use f).port.run = s.port.run := by
  simp only [State.startOrFault]
  repeat' split
  all_goals simp

@[simp] theorem State.trigger_run (s : State) (clip : Nat) (use : ClipUse) (f : StartFields) :
    (s.trigger clip use f).port.run = s.port.run := by
  simp only [State.trigger]
  repeat' split
  all_goals simp

@[simp] theorem State.playStartClip_run (s : State) :
    (s.playStartClip).port.run = s.port.run := by
  simp [State.playStartClip]

@[simp] theorem State.playStopClip_run (s : State) :
    (s.playStopClip).port.run = s.port.run := by
  simp [State.playStopClip]

@[simp] theorem State.playHorn_run (s : State) :
    (s.playHorn).port.run = s.port.run := by
  simp [State.playHorn]

@[simp] theorem State.functionClip_run (s : State) (k : Nat) (t : Trigger) :
    (s.functionClip k t).port.run = s.port.run := by
  simp only [State.functionClip]
  repeat' split
  all_goals simp

@[simp] theorem State.functionTrigger_run (s : State) (before after : Reg) (k : Nat) (t : Trigger) :
    (s.functionTrigger before after k t).port.run = s.port.run := by
  simp only [State.functionTrigger]
  repeat' split
  all_goals simp

@[simp] theorem State.soundFunctions_run (s : State) (before : Reg) :
    (s.soundFunctions before).port.run = s.port.run := triggersFrom_keeps (·.port.run) (by simp) _ _ _

@[simp] theorem State.startEngine_run (s : State) :
    (s.startEngine).port.run = s.port.run := by
  simp [State.startEngine]

@[simp] theorem State.chuff_run (s : State) :
    (s.chuff).port.run = s.port.run := by
  simp [State.chuff]

@[simp] theorem State.chuffCheck_run (s : State) :
    (s.chuffCheck).port.run = s.port.run := by
  simp only [State.chuffCheck]
  repeat' split
  all_goals simp

@[simp] theorem State.crossBoundary_run (s : State) (n : Nat) (second : Bool) (entered boundary : Nat) :
    (s.crossBoundary n second entered boundary).port.run = s.port.run := by
  simp only [State.crossBoundary]
  repeat' split
  all_goals simp

@[simp] theorem State.streamBoundaries_run (s : State) (n : Nat) (second : Bool) :
    (s.streamBoundaries n second).port.run = s.port.run := by
  simp only [State.streamBoundaries]
  repeat' split
  all_goals simp

@[simp] theorem State.advanceVoice_run (s : State) (n : Nat) :
    (s.advanceVoice n).port.run = s.port.run := by
  simp only [State.advanceVoice]
  repeat' split
  all_goals simp

@[simp] theorem State.advanceVoices_run (s : State) :
    ((allVoices.foldl State.advanceVoice s)).port.run = s.port.run := 
    foldl_keeps (act := State.advanceVoice) (·.port.run) (by simp) allVoices s

@[simp] theorem State.fadeVoice_run (s : State) (n : Nat) :
    (s.fadeVoice n).port.run = s.port.run := by
  simp only [State.fadeVoice]
  repeat' split
  all_goals simp

@[simp] theorem State.fadeVoices_run (s : State) :
    ((allVoices.foldl State.fadeVoice s)).port.run = s.port.run := 
    foldl_keeps (act := State.fadeVoice) (·.port.run) (by simp) allVoices s

@[simp] theorem State.holdTrigger_run (s : State) (k : Nat) (t : Trigger) :
    (s.holdTrigger k t).port.run = s.port.run := by
  simp only [State.holdTrigger]
  repeat' split
  all_goals simp

@[simp] theorem State.soundSetChange_run (s : State) :
    (s.soundSetChange).port.run = s.port.run := by
  simp only [State.soundSetChange]
  exact (triggersFrom_keeps (·.port.run) (by simp) _ _ _).trans (by simp)

@[simp] theorem State.soundStop_run (s : State) :
    (s.soundStop).port.run = s.port.run := by
  simp [State.soundStop]

@[simp] theorem State.playClip_run (s : State) (ps : List Byte) :
    ((s.playClip ps).1).port.run = s.port.run := by
  simp only [State.playClip]
  split
  · simp
  split
  · simp
  split
  · simp
  rename_i n _
  have h := State.startVoice_run s n (param8 ps 0) .none (playFields ps)
  split <;> rename_i heq <;> rw [heq] at h <;> simpa using h

@[simp] theorem State.hushVoice_run (s : State) (fade n : Nat) :
    (s.hushVoice fade n).port.run = s.port.run := by
  simp only [State.hushVoice]
  repeat' split
  all_goals simp

@[simp] theorem State.hushVoices_run (s : State) (ps : List Byte) :
    ((s.hushVoices ps).1).port.run = s.port.run := by
  simp only [State.hushVoices]
  split
  · simp
  · exact foldl_keeps (·.port.run) (by simp) _ _

@[simp] theorem State.completeSlot_run (s : State) (n : Nat) (outcome : OutcomeCode) (step : Nat) (result : List Byte) :
    (s.completeSlot n outcome step result).port.run = s.port.run := by
  simp [State.completeSlot]

@[simp] theorem State.offer_run (s : State) (kind : RecordKind) (reason : Reason) (f : Frame) :
    (s.offer kind reason f).port.run = s.port.run := by
  simp only [State.offer]
  repeat' split
  all_goals simp

@[simp] theorem State.logFrame_run (s : State) (reason : Reason) (f : Frame) :
    (s.logFrame reason f).port.run = s.port.run := by
  simp [State.logFrame]

@[simp] theorem State.logBeacon_run (s : State) (reason : Reason) (f : Frame) :
    (s.logBeacon reason f).port.run = s.port.run := by
  simp [State.logBeacon]

@[simp] theorem State.cancelStation_run (s : State) :
    (s.cancelStation).port.run = s.port.run := by
  simp only [State.cancelStation]
  repeat' split
  all_goals simp

@[simp] theorem State.reportTraction_run (s : State) (before : TractionState) :
    (s.reportTraction before).port.run = s.port.run := by
  simp only [State.reportTraction]
  repeat' split
  all_goals simp

@[simp] theorem State.derive_run (s : State) :
    (s.derive).port.run = s.port.run := by
  simp [State.derive]

@[simp] theorem State.releaseLatch_run (s : State) :
    (s.releaseLatch).port.run = s.port.run := by
  simp only [State.releaseLatch]
  repeat' split
  all_goals simp

@[simp] theorem State.tractionShedChange_run (s : State) (before : Nat) :
    (s.tractionShedChange before).port.run = s.port.run := by
  simp only [State.tractionShedChange]
  repeat' split
  all_goals simp

@[simp] theorem State.tractionLatchReport_run (s : State) :
    (s.tractionLatchReport).port.run = s.port.run := by
  simp only [State.tractionLatchReport]
  repeat' split
  all_goals simp

@[simp] theorem State.tractionRunBegins_run (s : State) :
    (s.tractionRunBegins).port.run = s.port.run := by
  simp [State.tractionRunBegins]

@[simp] theorem State.tractionRunEnds_run (s : State) :
    (s.tractionRunEnds).port.run = s.port.run := by
  simp [State.tractionRunEnds]

@[simp] theorem State.freeLease_run (s : State) :
    (s.freeLease).port.run = s.port.run := by
  simp [State.freeLease]

@[simp] theorem State.markLease_run (s : State) :
    (s.markLease).port.run = s.port.run := by
  simp only [State.markLease]
  repeat' split
  all_goals simp

@[simp] theorem State.beginRun_run (s : State) (r : BalanceRun) :
    (s.beginRun r).port.run = s.port.run := by
  simp [State.beginRun]

@[simp] theorem State.closeRun_run (s : State) (r : BalanceRun) (outcome : OutcomeCode) (g : Nat) :
    (s.closeRun r outcome g).port.run = s.port.run := by
  simp [State.closeRun]

@[simp] theorem State.endRun_run (s : State) (outcome : OutcomeCode) :
    (s.endRun outcome).port.run = s.port.run := by
  simp only [State.endRun]
  repeat' split
  all_goals simp

@[simp] theorem State.finishRun_run (s : State) (r : BalanceRun) :
    (s.finishRun r).port.run = s.port.run := by
  simp [State.finishRun]

@[simp] theorem State.balanceStep_run (s : State) (m : Nat) :
    (s.balanceStep m).port.run = s.port.run := by
  simp only [State.balanceStep]
  repeat' split
  all_goals simp

@[simp] theorem State.emergencyStop_run (s : State) :
    (s.emergencyStop).port.run = s.port.run := by
  simp [State.emergencyStop]

@[simp] theorem State.balanceControl_run (s : State) (d : Direction) :
    (s.balanceControl d).port.run = s.port.run := by
  simp only [State.balanceControl]
  repeat' split
  all_goals simp

@[simp] theorem State.stepInputs_run (s : State) :
    (s.stepInputs).port.run = s.port.run := by
  simp only [State.stepInputs]
  repeat' split
  all_goals simp

@[simp] theorem State.control_run (s : State) :
    (s.control).port.run = s.port.run := by
  simp only [State.control]
  repeat' split
  all_goals simp

@[simp] theorem State.stepEnds_run (s : State) :
    (s.stepEnds).port.run = s.port.run := by
  simp [State.stepEnds]

@[simp] theorem State.recordShort_run (s : State) (id : BridgeId) :
    (s.recordShort id).port.run = s.port.run := by
  simp [State.recordShort]

@[simp] theorem State.latchBridge_run (s : State) (id : BridgeId) :
    (s.latchBridge id).port.run = s.port.run := by
  simp [State.latchBridge]

@[simp] theorem State.cycleShort_run (s : State) (id : BridgeId) :
    (s.cycleShort id).port.run = s.port.run := by
  simp only [State.cycleShort]
  repeat' split
  all_goals simp

@[simp] theorem State.reportShort_run (s : State) (id : BridgeId) :
    (s.reportShort id).port.run = s.port.run := by
  simp only [State.reportShort]
  repeat' split
  all_goals simp

@[simp] theorem State.clearBridge_run (s : State) (id : BridgeId) :
    (s.clearBridge id).port.run = s.port.run := by
  simp only [State.clearBridge]
  repeat' split
  all_goals simp

@[simp] theorem State.clearMask_run (s : State) (mask : BitVec 32) :
    (s.clearMask mask).port.run = s.port.run := by
  simp only [State.clearMask]
  repeat' split
  all_goals simp

@[simp] theorem State.clearFaultsOrder_run (s : State) (ps : List Byte) :
    ((s.clearFaultsOrder ps).1).port.run = s.port.run := by
  simp [State.clearFaultsOrder]

@[simp] theorem State.balanceShedChange_run (s : State) (before : Nat) :
    (s.balanceShedChange before).port.run = s.port.run := by
  simp only [State.balanceShedChange]
  repeat' split
  all_goals simp

@[simp] theorem State.formShed_run (s : State) :
    (s.formShed).port.run = s.port.run := by
  simp only [State.formShed]
  repeat' split
  all_goals simp

@[simp] theorem State.supplyReport_run (s : State) (before : SupplyState) :
    (s.supplyReport before).port.run = s.port.run := by
  simp only [State.supplyReport]
  repeat' split
  all_goals simp

@[simp] theorem State.tellFunctions_run (s : State) (before : Reg) :
    (s.tellFunctions before).port.run = s.port.run := by
  simp [State.tellFunctions]

@[simp] theorem State.setFunctions_run (s : State) (functions : Reg) :
    (s.setFunctions functions).port.run = s.port.run := by
  simp [State.setFunctions]

@[simp] theorem State.applyRequest_run (s : State) (throttle : Nat) (direction : Direction) :
    (s.applyRequest throttle direction).port.run = s.port.run := by
  simp only [State.applyRequest]
  repeat' split
  all_goals simp

@[simp] theorem State.releaseLease_run (s : State) :
    (s.releaseLease).port.run = s.port.run := by
  simp [State.releaseLease]

@[simp] theorem State.takeLease_run (s : State) (sender cls : Nat) :
    (s.takeLease sender cls).port.run = s.port.run := by
  simp [State.takeLease]

@[simp] theorem State.overduePoints_run (s : State) :
    (s.overduePoints).port.run = s.port.run := by
  simp only [State.overduePoints]
  repeat' split
  all_goals simp

@[simp] theorem State.loadRadio_run (s : State) (m : Memory) :
    (s.loadRadio m).port.run = s.port.run := by
  simp [State.loadRadio]

@[simp] theorem State.hostLease_run (s : State) :
    (s.hostLease).port.run = s.port.run := by
  simp only [State.hostLease]
  repeat' split
  all_goals simp

@[simp] theorem State.throttleOrder_run (s : State) (ps : List Byte) :
    ((s.throttleOrder ps).1).port.run = s.port.run := by
  simp only [State.throttleOrder]
  repeat' split
  all_goals simp

@[simp] theorem State.functionsOrder_run (s : State) (ps : List Byte) :
    ((s.functionsOrder ps).1).port.run = s.port.run := by
  simp [State.functionsOrder]

@[simp] theorem State.leaseTakeOrder_run (s : State) (ps : List Byte) :
    ((s.leaseTakeOrder ps).1).port.run = s.port.run := by
  simp only [State.leaseTakeOrder]
  repeat' split
  all_goals simp

@[simp] theorem State.leaseReleaseOrder_run (s : State) (ps : List Byte) :
    ((s.leaseReleaseOrder ps).1).port.run = s.port.run := by
  simp only [State.leaseReleaseOrder]
  repeat' split
  all_goals simp

@[simp] theorem State.soundEnterRun_run (s : State) :
    (s.soundEnterRun).port.run = s.port.run := by
  simp [State.soundEnterRun]

@[simp] theorem State.tellSetChange_run (s : State) :
    (s.tellSetChange).port.run = s.port.run := by
  simp [State.tellSetChange]

@[simp] theorem State.applyAction_run (s : State) (a : SetAction) (d : DriveSet) (clamped : Bool) :
    (s.applyAction a d clamped).port.run = s.port.run := by
  simp only [State.applyAction]
  repeat' split
  all_goals simp

@[simp] theorem State.reportAction_run (s : State) (a : SetAction) (outcome : OutcomeCode) :
    (s.reportAction a outcome).port.run = s.port.run := by
  simp only [State.reportAction]
  repeat' split
  all_goals simp

@[simp] theorem State.conclude_run (s : State) (a : SetAction) (d : Option (DriveSet × Bool)) :
    (s.conclude a d).port.run = s.port.run := by
  simp only [State.conclude]
  repeat' split
  all_goals simp

@[simp] theorem State.takeWaiting_run (s : State) (waiting : List SetAction) :
    (State.takeWaiting waiting s).port.run = s.port.run := by
  induction waiting generalizing s with
  | nil => simp [State.takeWaiting]
  | cons a rest ih =>
    simp only [State.takeWaiting]
    split
    · simp
    · simp [ih]

@[simp] theorem State.abandonAction_run (s : State) (a : SetAction) :
    (s.abandonAction a).port.run = s.port.run := by
  simp only [State.abandonAction]
  repeat' split
  all_goals simp

@[simp] theorem State.abandonWaiting_run (s : State) (waiting : List SetAction) :
    (s.abandonWaiting waiting).port.run = s.port.run := by
  simp only [State.abandonWaiting]
  exact foldl_keeps (·.port.run) (by simp) _ _

@[simp] theorem State.actionArrives_run (s : State) (a : SetAction) :
    (s.actionArrives a).port.run = s.port.run := by
  simp only [State.actionArrives]
  repeat' split
  all_goals simp

@[simp] theorem State.requestAction_run (s : State) (code index level : Nat) (source : Requestor) :
    (s.requestAction code index level source).port.run = s.port.run := by
  simp only [State.requestAction]
  repeat' split
  all_goals simp

@[simp] theorem State.beaconZone_run (s : State) (f : Frame) :
    (s.beaconZone f).port.run = s.port.run := by
  simp only [State.beaconZone]
  repeat' split
  all_goals simp

@[simp] theorem State.beaconStation_run (s : State) (f : Frame) :
    (s.beaconStation f).port.run = s.port.run := by
  simp only [State.beaconStation]
  repeat' split
  all_goals simp

@[simp] theorem State.beaconHorn_run (s : State) :
    (s.beaconHorn).port.run = s.port.run := by
  simp only [State.beaconHorn]
  repeat' split
  all_goals simp

@[simp] theorem State.requestSweep_run (s : State) :
    (s.requestSweep).port.run = s.port.run := by
  simp only [State.requestSweep]
  repeat' split
  all_goals simp

@[simp] theorem State.completeOrder_run (s : State) (o : TakenOrder) (outcome : OutcomeCode) (result : List Byte) :
    (s.completeOrder o outcome result).port.run = s.port.run := by
  simp [State.completeOrder]

@[simp] theorem State.takeSlot_run (s : State) (n : Nat) (bytes : List Byte) :
    (s.takeSlot n bytes).port.run = s.port.run := by
  simp only [State.takeSlot]
  repeat' split
  all_goals simp

@[simp] theorem State.emptySegment_run (s : State) (clip : Nat) (second : Bool) :
    (s.emptySegment clip second).port.run = s.port.run := by
  simp only [State.emptySegment]
  repeat' split
  all_goals simp

@[simp] theorem State.resetAccess_run (s : State) (t : ResetTask) :
    ((s.resetAccess t).1).port.run = s.port.run := by
  simp only [State.resetAccess]
  repeat' split
  all_goals simp

@[simp] theorem State.resetTask_run (s : State) (t : ResetTask) :
    (s.resetTask t).port.run = s.port.run := by
  simp only [State.resetTask]
  repeat' split
  all_goals simp

@[simp] theorem State.endReset_run (s : State) (j : ResetJob) :
    (s.endReset j).port.run = s.port.run := by
  simp only [State.endReset]
  repeat' split
  all_goals simp

@[simp] theorem writeMemory_run (s : State) (addr : BitVec 16) (data : List Byte) :
    (writeMemory addr data s).port.run = s.port.run := by
  simp [writeMemory]

@[simp] theorem readMemory_run (s : State) (addr : BitVec 16) (count : Nat) :
    (readMemory addr count s).port.run = s.port.run := by
  simp [readMemory]

@[simp] theorem invalidCommand_run (s : State) (command : Byte) (more : Nat) :
    (invalidCommand command more s).port.run = s.port.run := by
  simp [invalidCommand]

@[simp] theorem registerWriteOther_run (s : State) (number : Byte) (value : Reg) :
    (registerWriteOther number value s).port.run = s.port.run := by
  simp [registerWriteOther]

@[simp] theorem noticeWrite_run (s : State) (value : Reg) :
    (noticeWrite value s).port.run = s.port.run := by
  simp [noticeWrite]

@[simp] theorem noticeMaskWrite_run (s : State) (value : Reg) :
    (noticeMaskWrite value s).port.run = s.port.run := by
  simp [noticeMaskWrite]

@[simp] theorem State.requestStart_run (s : State) :
    (s.requestStart).port.run = s.port.run := by
  simp only [State.requestStart]
  repeat' split
  all_goals simp

@[simp] theorem start_run (s : State) :
    (start s).port.run = s.port.run := by
  simp [start]

@[simp] theorem State.endStage_run (s : State) (j : StartJob) :
    ((s.endStage j).1).port.run = s.port.run := by
  simp only [State.endStage]
  repeat' split
  all_goals simp

@[simp] theorem State.endLoads_run (s : State) (n : Nat) (j : StartJob) :
    ((State.endLoads n s j).1).port.run = s.port.run := by
  induction n generalizing s j with
  | zero => simp [State.endLoads]
  | succ n ih =>
    simp only [State.endLoads]
    split
    · simp
    · simp [ih]

@[simp] theorem startRefused_run (s : State) :
    (startRefused s).port.run = s.port.run := by
  simp only [startRefused]
  repeat' split
  all_goals simp

@[simp] theorem resetRewritesEnd_run (s : State) :
    (resetRewritesEnd s).port.run = s.port.run := by
  simp only [resetRewritesEnd]
  split
  · simp only [State.endReset_run, State.finishUpdate_frame]
    exact foldl_keeps (·.port.run) (by simp) _ s
  · simp

@[simp] theorem sweepWrite_run (s : State) (value : Reg) :
    (sweepWrite value s).port.run = s.port.run := by
  simp [sweepWrite]

@[simp] theorem sweepTimerExpiry_run (s : State) :
    (sweepTimerExpiry s).port.run = s.port.run := by
  simp only [sweepTimerExpiry]
  repeat' split
  all_goals simp

@[simp] theorem slotTake_run (s : State) :
    (slotTake s).port.run = s.port.run := by
  simp only [slotTake]
  repeat' split
  all_goals simp

@[simp] theorem State.requestRefresh_run (s : State) (o : TakenOrder) :
    (s.requestRefresh o).port.run = s.port.run := by
  simp [State.requestRefresh]

@[simp] theorem throttleOrder_run (s : State) :
    (throttleOrder s).port.run = s.port.run := by
  simp only [throttleOrder, State.runOrder]
  repeat' split
  all_goals simp

@[simp] theorem functions_run (s : State) :
    (functions s).port.run = s.port.run := by
  simp only [functions, State.runOrder]
  repeat' split
  all_goals simp

@[simp] theorem stopOrder_run (s : State) :
    (stopOrder s).port.run = s.port.run := by
  simp only [stopOrder, State.runOrder]
  repeat' split
  all_goals simp

@[simp] theorem setAction_run (s : State) :
    (setAction s).port.run = s.port.run := by
  simp only [setAction, State.handOver]
  repeat' split
  all_goals simp

@[simp] theorem loadLamps_run (s : State) :
    (loadLamps s).port.run = s.port.run := by
  simp only [loadLamps, State.runOrder, State.loadLampsOrder]
  repeat' split
  all_goals simp

@[simp] theorem loadRadio_run (s : State) :
    (loadRadio s).port.run = s.port.run := by
  simp only [loadRadio, State.runOrder, State.loadRadioOrder]
  repeat' split
  all_goals simp

@[simp] theorem play_run (s : State) :
    (play s).port.run = s.port.run := by
  simp only [play, State.runOrder]
  repeat' split
  all_goals simp

@[simp] theorem hush_run (s : State) :
    (hush s).port.run = s.port.run := by
  simp only [hush, State.runOrder]
  repeat' split
  all_goals simp

@[simp] theorem balance_run (s : State) :
    (balance s).port.run = s.port.run := by
  simp only [balance]
  repeat' split
  all_goals simp

@[simp] theorem holdBalance_run (s : State) :
    (holdBalance s).port.run = s.port.run := by
  simp only [holdBalance, State.runOrder]
  repeat' split
  all_goals simp

@[simp] theorem resumeBalance_run (s : State) :
    (resumeBalance s).port.run = s.port.run := by
  simp only [resumeBalance, State.runOrder]
  repeat' split
  all_goals simp

@[simp] theorem clearFaults_run (s : State) :
    (clearFaults s).port.run = s.port.run := by
  simp only [clearFaults, State.runOrder]
  repeat' split
  all_goals simp

@[simp] theorem leaseTake_run (s : State) :
    (leaseTake s).port.run = s.port.run := by
  simp only [leaseTake, State.runOrder]
  repeat' split
  all_goals simp

@[simp] theorem leaseRelease_run (s : State) :
    (leaseRelease s).port.run = s.port.run := by
  simp only [leaseRelease, State.runOrder]
  repeat' split
  all_goals simp

@[simp] theorem regulationStep_run (s : State) :
    (regulationStep s).port.run = s.port.run := by
  simp [regulationStep]

@[simp] theorem balanceHeldTimerExpiry_run (s : State) :
    (balanceHeldTimerExpiry s).port.run = s.port.run := by
  simp only [balanceHeldTimerExpiry]
  repeat' split
  all_goals simp

@[simp] theorem shortDetection_run (s : State) (id : BridgeId) (millivolts since : Nat) :
    (shortDetection id millivolts since s).port.run = s.port.run := by
  simp only [shortDetection]
  repeat' split
  all_goals simp

@[simp] theorem throttleFrame_run (s : State) :
    (throttleFrame s).port.run = s.port.run := by
  simp only [throttleFrame, State.handleFrame, State.actOn, throttleAct]
  repeat' split
  all_goals simp

@[simp] theorem funcFrame_run (s : State) :
    (funcFrame s).port.run = s.port.run := by
  simp only [funcFrame, State.handleFrame, State.actOn, funcAct]
  repeat' split
  all_goals simp

@[simp] theorem releaseFrame_run (s : State) :
    (releaseFrame s).port.run = s.port.run := by
  simp only [releaseFrame, State.handleFrame, State.actOn, releaseAct]
  repeat' split
  all_goals simp

@[simp] theorem stopFrame_run (s : State) :
    (stopFrame s).port.run = s.port.run := by
  simp only [stopFrame, State.handleFrame, State.actOn, stopAct]
  repeat' split
  all_goals simp

@[simp] theorem setFrame_run (s : State) :
    (setFrame s).port.run = s.port.run := by
  simp only [setFrame, State.handleFrame, State.actOn, setAct]
  repeat' split
  all_goals simp

@[simp] theorem passFrame_run (s : State) :
    (passFrame s).port.run = s.port.run := by
  simp only [passFrame, State.handleFrame, State.actOn, passAct]
  repeat' split
  all_goals simp

@[simp] theorem consistJoin_run (s : State) :
    (consistJoin s).port.run = s.port.run := by
  simp only [consistJoin, State.handleFrame, State.actOn, joinAct]
  repeat' split
  all_goals simp

@[simp] theorem consistLeave_run (s : State) :
    (consistLeave s).port.run = s.port.run := by
  simp only [consistLeave, State.handleFrame, State.actOn, leaveAct]
  repeat' split
  all_goals simp

@[simp] theorem beaconFrame_run (s : State) :
    (beaconFrame s).port.run = s.port.run := by
  simp only [beaconFrame, State.handleFrame, State.actOn, beaconAct]
  repeat' split
  all_goals simp

@[simp] theorem serviceWrite_run (s : State) :
    (serviceWrite s).port.run = s.port.run := by
  simp only [serviceWrite]
  repeat' split
  all_goals simp

@[simp] theorem serviceWriteDone_run (s : State) :
    (serviceWriteDone s).port.run = s.port.run := by
  simp only [serviceWriteDone]
  repeat' split
  all_goals simp

@[simp] theorem lapseExpiry_run (s : State) :
    (lapseExpiry s).port.run = s.port.run := by
  simp only [lapseExpiry]
  repeat' split
  all_goals simp

@[simp] theorem dwellTimerExpiry_run (s : State) :
    (dwellTimerExpiry s).port.run = s.port.run := by
  simp only [dwellTimerExpiry]
  repeat' split
  all_goals simp

@[simp] theorem sampleTimerExpiry_run (s : State) :
    (sampleTimerExpiry s).port.run = s.port.run := by
  simp only [sampleTimerExpiry]
  repeat' split
  all_goals simp

@[simp] theorem mixerFrame_run (s : State) :
    (mixerFrame s).port.run = s.port.run := by
  simp only [mixerFrame]
  repeat' split
  all_goals simp

@[simp] theorem lampOvercurrent_run (s : State) (n : Fin 10) (milliamps since : Nat) :
    (lampOvercurrent n milliamps since s).port.run = s.port.run := by
  simp only [lampOvercurrent]
  repeat' split
  all_goals simp

@[simp] theorem openLoadExpiry_run (s : State) (n : Fin 10) :
    (openLoadExpiry n s).port.run = s.port.run := by
  simp only [openLoadExpiry]
  repeat' split
  all_goals simp

@[simp] theorem heaterTimerExpiry_run (s : State) (thermistor : BitVec 10) :
    (heaterTimerExpiry thermistor s).port.run = s.port.run := by
  simp only [heaterTimerExpiry]
  repeat' split
  all_goals simp

@[simp] theorem fanOvercurrent_run (s : State) (milliamps since : Nat) :
    (fanOvercurrent milliamps since s).port.run = s.port.run := by
  simp only [fanOvercurrent]
  repeat' split
  all_goals simp

@[simp] theorem supplySample_run (s : State) (vtrk vsto : Nat) :
    (supplySample vtrk vsto s).port.run = s.port.run := by
  simp [supplySample]

@[simp] theorem dieTemperatureExpiry_run (s : State) (celsius : Int) :
    (dieTemperatureExpiry celsius s).port.run = s.port.run := by
  simp [dieTemperatureExpiry]

@[simp] theorem State.startAccess_run (s : State) (j : StartJob) :
    (s.startAccess j).port.run = s.port.run := by
  simp only [State.startAccess]
  repeat' split
  all_goals simp

@[simp] theorem State.resetGoesOn_run (s : State) (todo : List ResetTask) :
    (s.resetGoesOn todo).port.run = s.port.run := by
  simp only [State.resetGoesOn]
  split <;> simp [State.beginUpdate]

@[simp] theorem State.grantReset_run (s : State) :
    (s.grantReset).port.run = s.port.run := by
  simp only [State.grantReset]
  repeat' split
  all_goals simp

@[simp] theorem State.grantRefresh_run (s : State) :
    (s.grantRefresh).port.run = s.port.run := by
  simp only [State.grantRefresh]
  repeat' split
  all_goals simp

@[simp] theorem State.grantOrders_run (s : State) :
    (s.grantOrders).port.run = s.port.run := by
  simp only [State.grantOrders]
  repeat' split
  all_goals simp

@[simp] theorem State.updateWritten_run (s : State) :
    (s.updateWritten).port.run = s.port.run := by
  simp only [State.updateWritten]
  repeat' split
  all_goals simp

@[simp] theorem State.grantStatus_run (s : State) :
    (s.grantStatus).port.run = s.port.run := by
  simp only [State.grantStatus]
  repeat' split
  all_goals simp

@[simp] theorem State.grant_run (s : State) (r : Requester) :
    (s.grant r).port.run = s.port.run := by
  simp only [State.grant]
  repeat' split
  all_goals simp

@[simp] theorem State.grants_run (s : State) (n : Nat) :
    (State.grants n s).port.run = s.port.run := by
  induction n generalizing s with
  | zero => simp [State.grants]
  | succ n ih =>
    simp only [State.grants]
    repeat' split
    all_goals simp [ih]

@[simp] theorem idle_run (s : State) :
    (idle s).port.run = s.port.run := by
  simp [idle]

end Sys2Proof.Machine
end

