-- ==== Sys2Proof/Laws/Endings.lean ====
section
/-! SUPPORT. What the ends of balance runs and station stops do (R77, R108, R134), a change of the shed level (R191) and the
latching of a bridge (R94), with what starts and derivations keep. -/

namespace Sys2Proof.Machine

open Sys2Proof.Safety

/-! ## What starts and derivations keep -/

theorem sameBut_trans {m n o : Memory} {p : Nat → Prop} (h : sameBut m n p) (h' : sameBut n o p) : sameBut m o p :=
  fun a ha hp => (h' a ha hp).trans (h a ha hp)

theorem sameBut_weaken {m n : Memory} {p q : Nat → Prop} (h : sameBut m n p) (hq : ∀ a, p a → q a) : sameBut m n q :=
  fun a ha hp => h a ha fun c => hp (hq a c)

theorem sameBut_refl (m : Memory) (p : Nat → Prop) : sameBut m m p := fun _ _ _ => rfl

/-- A voice right after a start is lawful. -/
theorem freshVoice_lawful {clip : Nat} {e : ClipEntry} (hc : clip ≤ 63) (he : e.valid = true) (volume step : Nat)
    (repeats : Option Nat) (priority : Nat) (starter : Starter) (stamp : Reg)
    (hk : startedByFunction starter → e.kind ≠ 2) :
    voiceLawful (freshVoice clip e volume step repeats priority starter stamp) := by
  refine .inr ⟨hc, he, fun _ => ?_, fun c => by simp [freshVoice] at c, hk⟩
  simp only [ClipEntry.valid, Bool.and_eq_true, decide_eq_true_eq] at he
  have := he.1.1.1.1.2.1
  simp only [freshVoice, ClipEntry.ends]
  omega

/-- Voice `n` given a clip: the voices stay lawful and memory changes in segment bytes alone. -/
theorem State.startOrFault_kept (s : State) (n clip : Nat) (use : ClipUse) (f : StartFields) (h : s.xm.wf = true)
    (hv : voicesLawful s) (hn : n < 8) (hu : use ≠ .none) :
    voicesLawful (s.startOrFault n clip use f) ∧ sameBut s.xm (s.startOrFault n clip use f).xm inSegments := by
  have hg := s.startOrFault_given n clip use f h hv hn hu
  have hs := s.stopVoice_same n hv hn h
  generalize s.startOrFault n clip use f = t at hg ⊢
  obtain ⟨h1, h2⟩ := hg _ rfl
  have hset : ∀ v : Voice, voiceLawful v → voicesLawful (voiceIs s n v) := fun v => voiceIs_lawful hv n
  by_cases hc : 63 < clip
  · rw [h1 hc]
    exact ⟨hset _ (voiceLawful_idle rfl), hs⟩
  · have h2 := h2 (Nat.le_of_not_lt hc) _ rfl
    by_cases he : (loadClip s.xm clip).valid = true
        ∧ (if use = .engine then (loadClip s.xm clip).kind = 1 else (loadClip s.xm clip).kind ≤ 1)
    · rw [if_pos he] at h2
      rw [h2]
      refine ⟨hset _ (freshVoice_lawful (Nat.le_of_not_lt hc) he.1 _ _ _ _ _ _ fun _ => ?_), hs⟩
      have := he.2
      split at this <;> omega
    · rw [if_neg he] at h2
      rw [h2]
      exact ⟨hset _ (voiceLawful_idle rfl), hs⟩

/-- So does a trigger. -/
theorem State.trigger_kept (s : State) (clip : Nat) (use : ClipUse) (f : StartFields) (h : s.xm.wf = true)
    (hv : voicesLawful s) (hu : use ≠ .none) :
    voicesLawful (s.trigger clip use f) ∧ sameBut s.xm (s.trigger clip use f).xm inSegments := by
  unfold State.trigger
  split
  · cases ha : s.sound.allocate f.priority with
    | none => exact ⟨hv, sameBut_refl _ _⟩
    | some n =>
      refine s.startOrFault_kept n clip use f h hv ?_ hu
      unfold Sound.allocate at ha
      have hmem : n ∈ pool := by
        split at ha
        · rename_i k hk
          cases ha
          exact List.mem_of_find?_eq_some hk
        · exact (stealCandidate_mem _ _ _ ha).1
      have := mem_pool.1 hmem
      omega
  · exact ⟨hv, sameBut_refl _ _⟩

/-- And a derivation of the traction state. -/
theorem State.derive_kept (s : State) (h : s.xm.wf = true) (hv : voicesLawful s) :
    voicesLawful s.derive ∧ sameBut s.xm s.derive.xm inSegments := by
  have hkeep : ∀ (x : TractionState), voicesLawful ((s.onTraction fun t => { t with state := x }).reportTraction
        s.traction.state)
      ∧ sameBut s.xm ((s.onTraction fun t => { t with state := x }).reportTraction s.traction.state).xm
        inSegments := by
    intro x
    generalize hu : (s.onTraction fun t => { t with state := x }) = u
    have huv : voicesLawful u := by rw [← hu]; exact hv
    have huw : u.xm.wf = true := by rw [← hu]; exact h
    have hux : u.xm = s.xm := by rw [← hu]; rfl
    rw [← hux]
    have hst : ∀ w : State, voicesLawful w → voicesLawful w.stationStopped ∧ w.stationStopped.xm = w.xm := by
      intro w hw
      unfold State.stationStopped
      split
      · exact ⟨hw, rfl⟩
      · exact ⟨hw, rfl⟩
      · exact ⟨hw, rfl⟩
    have hstart : voicesLawful u.playStartClip ∧ sameBut u.xm u.playStartClip.xm inSegments :=
      u.trigger_kept _ .start _ huw huv (by decide)
    have hstop : voicesLawful u.playStopClip ∧ sameBut u.xm u.playStopClip.xm inSegments :=
      u.trigger_kept _ .stop _ huw huv (by decide)
    have hstopped := hst u huv
    have hboth := hst u.playStopClip hstop.1
    unfold State.reportTraction
    split
    · exact hstart
    · exact ⟨hboth.1, hboth.2 ▸ hstop.2⟩
    · exact ⟨hboth.1, hboth.2 ▸ hstop.2⟩
    · exact ⟨huv, sameBut_refl _ _⟩
    · exact ⟨hstopped.1, hstopped.2 ▸ sameBut_refl _ _⟩
    · exact ⟨huv, sameBut_refl _ _⟩
  unfold State.derive
  simp only [State.handCommand_eq]
  exact hkeep _

/-! ## The end of a balance run (R107, R108) -/

theorem runResult_eq (r : BalanceRun) (g : Nat) : runResult r g =
    (List.range 4).flatMap (fun k => bytes16 (r.rates.getD k 0)) ++ bytes16 g
      ++ (List.range 4).flatMap (fun k => bytes16 (r.duties.getD k 0))
      ++ [BitVec.ofNat 8 r.holdTime, BitVec.ofNat 8 r.rates.length] := rfl

/-- The moment before the derivation at the end of a run, as one state. -/
theorem State.closeRun_eq (s : State) (r : BalanceRun) (outcome : OutcomeCode) (g : Nat) :
    s.closeRun r outcome g = State.derive { s with
        xm := (s.completeSlot r.slot outcome r.written (runResult r g)).xm
        lastGranted := .orderEngine
        orders := { s.orders with held := s.orders.held.filter fun k => decide (k ≠ r.slot) }
        port := withNotice s.port [.order, .control]
        traction := { s.traction with c := 0, i := 0, u := 0 }
        balance := { run := none }
        radio := { s.radio with
          lease := .none, failsafe := false, request := { s.radio.request with throttle := 0 } } } := by
  have hw := (s.onBalance fun b => { b with run := none }).completeSlot_eq r.slot outcome r.written (runResult r g)
  have hx : ((s.onBalance fun b => { b with run := none }).completeSlot r.slot outcome r.written (runResult r g)).xm
      = (s.completeSlot r.slot outcome r.written (runResult r g)).xm := rfl
  rw [hx] at hw
  simp only [State.closeRun, State.tractionRunEnds, hw]
  generalize (s.completeSlot r.slot outcome r.written (runResult r g)).xm = m
  rfl

/-- A run ends (R107, R108). -/
theorem State.closeRun_closes (s : State) (r : BalanceRun) (outcome : OutcomeCode) (g : Nat) (h : s.xm.wf = true)
    (hv : voicesLawful s) (hr : r.slot < 32) :
    runCloses s (s.closeRun r outcome g) r outcome g ∧ voicesLawful (s.closeRun r outcome g) := by
  have hd := s.completeSlot_done r.slot outcome r.written (runResult r g) h hr
  have hs := s.completeSlot_same r.slot outcome r.written (runResult r g) h hr
  have hw := s.completeSlot_wf r.slot outcome r.written (runResult r g) h
  rw [State.closeRun_eq]
  generalize s.completeSlot r.slot outcome r.written (runResult r g) = c at hd hs hw
  generalize hu : ({ s with
        xm := c.xm
        lastGranted := .orderEngine
        orders := { s.orders with held := s.orders.held.filter fun k => decide (k ≠ r.slot) }
        port := withNotice s.port [.order, .control]
        traction := { s.traction with c := 0, i := 0, u := 0 }
        balance := { run := none }
        radio := { s.radio with
          lease := .none, failsafe := false
          request := { s.radio.request with throttle := 0 } } } : State) = u
  have hux : u.xm = c.xm := by rw [← hu]
  have huv : voicesLawful u := by rw [← hu]; exact hv
  have huw : u.xm.wf = true := hux ▸ hw
  refine ⟨⟨u, ?_, hux ▸ hs, ?_, u.derive_afresh huw huv, (u.derive_kept huw huv).2⟩, (u.derive_kept huw huv).1⟩
  · rw [hux]
    exact hd
  · rw [← hu]

/-- A run, where one exists, ends without results (R108, R110). -/
theorem State.endRun_closed (s : State) (outcome : OutcomeCode) (h : s.xm.wf = true) (hv : voicesLawful s)
    (hr : runSlot s) : runClosed s (s.endRun outcome) outcome ∧ voicesLawful (s.endRun outcome) := by
  unfold State.endRun
  cases hb : s.balance.run with
  | none => exact ⟨⟨fun _ => rfl, fun r c => by rw [hb] at c; cases c⟩, hv⟩
  | some r =>
    have := s.closeRun_closes r outcome 0 h hv (hr r hb)
    refine ⟨⟨fun c => by rw [hb] at c; (nomatch c), fun r' c => ?_⟩, this.2⟩
    rw [hb] at c
    cases c
    exact this.1

/-- The end of a run writes its slot and segment bytes alone. -/
theorem runClosed_same {s t : State} {outcome : OutcomeCode} (h : runClosed s t outcome) :
    sameBut s.xm t.xm (inRunEnd s) := by
  cases hb : s.balance.run with
  | none => rw [h.1 hb]; exact sameBut_refl _ _
  | some r =>
    obtain ⟨u, -, h1, -, -, h2⟩ := h.2 r hb
    exact sameBut_trans (sameBut_weaken h1 fun a ha => .inl ⟨r, hb, ha⟩) (sameBut_weaken h2 fun a ha => .inr ha)

/-! ## Emergency stops (R77, R134) -/

/-- The station stop ends (R134). -/
theorem State.cancelStation_cancelled (s : State) (h : s.xm.wf = true) (hl : s.radio.logIndex < 64) :
    stationCancelled s s.cancelStation := by
  refine ⟨fun c => by unfold State.cancelStation; rw [c], fun g hg => ?_⟩
  have he : s.cancelStation =
      ((s.onRadio fun r => { r with station := .none }).offer .beacon .stationCancelled g).raise .beacon := by
    unfold State.cancelStation
    rcases hg with c | ⟨e, c⟩ <;> rw [c] <;> rfl
  rw [he]
  generalize hu : (s.onRadio fun r => { r with station := .none }) = u
  have huw : u.xm.wf = true := by rw [← hu]; exact h
  have hrec := u.offer_recorded .beacon .stationCancelled g huw
  have honly := u.offer_only .beacon .stationCancelled g huw (by rw [← hu]; exact hl)
  have heq := u.offer_eq .beacon .stationCancelled g
  generalize u.offer .beacon .stationCancelled g = w at hrec honly heq
  subst hu
  refine ⟨?_, honly, ?_⟩
  · obtain ⟨q1, q2⟩ : recordOffered s w .beacon .stationCancelled g [] := hrec
    refine ⟨q1, ?_⟩
    by_cases hfull : (s.radio.logIndex + 1) % 64 = (s.xm.read 0x32).toNat % 64
    · rw [if_pos hfull] at q2 ⊢
      obtain ⟨a, b, c⟩ := q2
      exact ⟨a, b, by rw [State.raise_port, c, withNotice_append, List.append_nil]⟩
    · rw [if_neg hfull] at q2 ⊢
      obtain ⟨z, a, b, c⟩ := q2
      exact ⟨z, a, b, by rw [State.raise_port, c, withNotice_append]; rfl⟩
  · conv => lhs; rw [heq]
    rfl

/-- An emergency stop (R77). -/
theorem State.emergencyStop_stopped (s : State) (h : s.xm.wf = true) (hv : voicesLawful s) (hr : runSlot s)
    (hl : s.radio.logIndex < 64) :
    emergencyStopped s s.emergencyStop ∧ voicesLawful s.emergencyStop
      ∧ sameBut s.xm s.emergencyStop.xm (fun a => inRunEnd s a ∨ inRecord s.radio.logIndex a) := by
  generalize hu : ({ s with
      traction := { s.traction with c := 0, i := 0, u := 0, prev := 0, latch := true } } : State) = u
  have huw : u.xm.wf = true := by rw [← hu]; exact h
  have huv : voicesLawful u := by rw [← hu]; exact hv
  have he : s.emergencyStop = u.derive.cancelStation.endRun .aborted := by rw [← hu]; rfl
  have hrun : u.derive.balance.run = s.balance.run := by rw [State.derive_frame u |>.2.2.2.2.2.2.2.2.1, ← hu]
  have hlog : u.derive.radio.logIndex < 64 := by
    have := u.derive_afresh huw huv
    obtain ⟨-, -, -, -, -, he⟩ := this
    rw [he, ← hu]
    exact hl
  have hv' : voicesLawful u.derive.cancelStation := by
    have := (u.derive_kept huw huv).1
    unfold voicesLawful at this ⊢
    rwa [State.cancelStation_frame u.derive |>.2.2.2.2.2.2.2.2.2.2.2.1]
  have hb : u.derive.cancelStation.balance = u.derive.balance := by simp
  have hend := u.derive.cancelStation.endRun_closed .aborted (by simp [huw]) hv' (by
    intro r c; rw [hb, hrun] at c; exact hr r c)
  rw [he]
  have hcan := u.derive.cancelStation_cancelled (u.derive_wf huw) hlog
  have hidx : u.derive.radio.logIndex = s.radio.logIndex := by
    rw [(u.derive_afresh huw huv).2.2.2.2.2, ← hu]
  have hsame : sameBut s.xm (u.derive.cancelStation.endRun .aborted).xm
      (fun a => inRunEnd s a ∨ inRecord s.radio.logIndex a) := by
    have h1 : sameBut u.xm u.derive.xm inSegments := (u.derive_kept huw huv).2
    have h2 : sameBut u.derive.xm u.derive.cancelStation.xm (inRecord s.radio.logIndex) := by
      by_cases c : u.derive.radio.station = .none
      · rw [hcan.1 c]; exact sameBut_refl _ _
      · have : ∃ g, u.derive.radio.station = .braking g ∨ ∃ ends, u.derive.radio.station = .dwell g ends := by
          cases hs : u.derive.radio.station with
          | none => exact absurd hs c
          | braking g => exact ⟨g, .inl rfl⟩
          | dwell g ends => exact ⟨g, .inr ⟨ends, rfl⟩⟩
        obtain ⟨g, hg⟩ := this
        rw [← hidx]
        exact sameBut_weaken (hcan.2 g hg).2.1 fun a ha => ha.2
    have h3 := runClosed_same hend.1
    unfold inRunEnd at h3 ⊢
    rw [hb, hrun] at h3
    rw [show u.xm = s.xm by rw [← hu]] at h1
    exact sameBut_trans (sameBut_trans (sameBut_weaken h1 fun a ha => .inl (.inr ha))
      (sameBut_weaken h2 fun a ha => .inr ha)) (sameBut_weaken h3 fun a ha => .inl ha)
  exact ⟨⟨u.derive, u.derive.cancelStation, hu ▸ u.derive_afresh huw huv, hcan, hend.1⟩, hend.2, hsame⟩

/-! ## Changes of the shed level (R191) -/

/-- The heater and the fan follow a change of the enable (R178, R180). -/
theorem State.heaterArrival_told (s : State) :
    heaterTold s s.heaterArrival s.radio.request.functions
      ∧ s.heaterArrival = { s with lamps := { s.lamps with
          heater := s.heaterArrival.lamps.heater, fan := s.heaterArrival.lamps.fan } }
      ∧ s.heaterArrival.lamps.fan.periodStart = s.lamps.fan.periodStart := by
  unfold heaterTold State.heaterArrival State.fanFollows State.fanPurge State.fanStart State.fanRuns
  rw [show (s.isRun && decide (s.lampSet.smokeFunction ≤ 31)
      && s.radio.request.functions.getLsbD s.lampSet.smokeFunction && decide (s.supply.shed = 0)
      && !s.lamps.heater.latched) = heaterEnabled s from rfl]
  have hset : ∀ l, ({ s with lamps := l } : State).lampSet = s.lampSet := fun _ => rfl
  have hms : ∀ n, ms n = 1024000 * n := fun n => Nat.mul_comm _ _
  refine ⟨?_, ?_, ?_⟩
  · rintro enabled rfl
    cases heaterEnabled s <;> cases hh : s.lamps.heater.state <;> cases hf : s.lamps.fan.state <;>
      simp [State.onHeater, State.onFan, State.onLamps, Heater.unlessEnabled, Heater.working, hh, hf, hset, hms]
  all_goals
    cases heaterEnabled s <;> cases hh : s.lamps.heater.state <;> cases hf : s.lamps.fan.state <;>
      simp [State.onHeater, State.onFan, State.onLamps, Heater.unlessEnabled, Heater.working, hh, hf, hset] <;>
      split <;> rfl

theorem getElem?_mapFrom {α : Type} (f : Nat → α → α) (n k : Nat) (l : List α) :
    (mapFrom f n l)[k]? = (l[k]?).map (f (n + k)) := by
  induction l generalizing n k with
  | nil => simp [mapFrom]
  | cons x xs ih =>
    cases k with
    | zero => simp [mapFrom]
    | succ k => simp [mapFrom, ih, Nat.add_comm, Nat.add_left_comm]

theorem length_mapFrom {α : Type} (f : Nat → α → α) (n : Nat) (l : List α) : (mapFrom f n l).length = l.length := by
  induction l generalizing n with
  | nil => rfl
  | cons x xs ih => simp [mapFrom, ih]

/-- The lamps at a change of shed level (R169). -/
def shedLamps (s : State) (before : Nat) : State :=
  if before < s.supply.shed then s.onEachLamp fun _ l => l.shedRise s.supply.shed else s

theorem shedLamps_eq (s : State) (before : Nat) :
    shedLamps s before = { s with lamps := { s.lamps with lamps := (shedLamps s before).lamps.lamps } }
      ∧ (∀ (k : Nat) (l : Lamp), s.lamps.lamps[k]? = some l → (shedLamps s before).lamps.lamps[k]? = some
          (if before < s.supply.shed ∧ 5 ≤ s.supply.shed then { l with shown := 0, output := false, onTime := 0 }
          else if before < s.supply.shed ∧ 2 ≤ s.supply.shed then { l with shown := min 64 l.shown } else l))
      ∧ (shedLamps s before).lamps.lamps.length = s.lamps.lamps.length := by
  unfold shedLamps
  split
  · rename_i hb
    refine ⟨rfl, fun k l hl => ?_, length_mapFrom _ _ _⟩
    simp only [State.onEachLamp, State.onLamps, getElem?_mapFrom, hl, Option.map_some, Lamp.shedRise, Lamp.dark, hb,
      true_and]
  · rename_i hb
    exact ⟨rfl, fun k l hl => by simp only [hb, false_and, if_false]; exact hl, rfl⟩

/-- Readers of the shed level in the lamp and smoke unit (R169, R178, R181). -/
theorem State.lampShedChange_eq (s : State) (before : Nat) : s.lampShedChange before =
    if decide (before < 2) = decide (s.supply.shed < 2) then (shedLamps s before).heaterArrival
    else (shedLamps s before).heaterArrival.fanDriveNow := by
  have h : (shedLamps s before).heaterArrival.supply = s.supply := by
    rw [(shedLamps s before).heaterArrival_told.2.1, (shedLamps_eq s before).1]
  have : s.lampShedChange before = if decide (before < 2) = decide ((shedLamps s before).heaterArrival.supply.shed < 2)
      then (shedLamps s before).heaterArrival else (shedLamps s before).heaterArrival.fanDriveNow := rfl
  rw [this, h]

/-- A change of the shed level, formed and published (R191). -/
theorem State.formShed_told (s : State) (u : State) (h : s.xm.wf = true) (hv : voicesLawful s) (hr : runSlot s)
    (hne : max s.supply.level s.supply.thermal ≠ s.supply.shed)
    (hu : u = { s with supply := { s.supply with shed := max s.supply.level s.supply.thermal } }) :
    shedTold u s.formShed s.supply.shed ∧ sameBut s.xm s.formShed.xm (inRunEnd s) := by
  generalize hlev : max s.supply.level s.supply.thermal = level at hu hne
  have huv : voicesLawful u := by rw [hu]; exact hv
  have huw : u.xm.wf = true := by rw [hu]; exact h
  have hsh : u.supply.shed = level := by rw [hu]
  generalize hb : s.supply.shed = before at hne
  have ht : s.formShed = (((u.tractionShedChange before).balanceShedChange before).lampShedChange before).raise
      .supply := by
    simp only [State.formShed, hlev, hb]
    rw [if_neg hne, hu]
    rfl
  generalize hy : ({ u with traction := { u.traction with
      u := if 4 ≤ u.supply.shed ∧ before < u.supply.shed then 0 else u.traction.u
      prev := if 4 ≤ u.supply.shed ∧ before < u.supply.shed then 0 else u.traction.prev
      i := if u.supply.shed < 4 ∧ 4 ≤ before then 0 else u.traction.i } } : State) = y
  have hyv : voicesLawful y := by rw [← hy]; exact huv
  have hyw : y.xm.wf = true := by rw [← hy]; exact huw
  have hys : y.supply = u.supply := by rw [← hy]
  have hyl : y.lamps = u.lamps := by rw [← hy]
  have hyb : y.balance = u.balance := by rw [← hy]
  have hyc : y.clock = u.clock := by rw [← hy]
  have hd : u.tractionShedChange before = y.derive := by
    unfold State.tractionShedChange
    rw [← hy]
    by_cases h4 : 4 ≤ u.supply.shed
    · by_cases h5 : before < u.supply.shed
      · simp only [h4, h5, and_self, if_true, Nat.not_lt.mpr h4, false_and, if_false]; rfl
      · simp only [h4, h5, and_false, if_true, Nat.not_lt.mpr h4, false_and, if_false]
    · by_cases h5 : 4 ≤ before
      · simp only [h4, h5, false_and, if_false, if_true, Nat.lt_of_not_le h4, and_self]; rfl
      · simp only [h4, h5, false_and, and_false, if_false]
  obtain ⟨-, hdc, -, -, -, -, hdset, -, hdb, hdl, hds⟩ := y.derive_frame
  have hdk := y.derive_kept hyw hyv
  have hend := y.derive.endRun_closed .aborted (y.derive_wf hyw) hdk.1 (by
    intro r c; rw [hdb, hyb, hu] at c; exact hr r c)
  generalize hdv : y.derive = d at hd hdc hdset hdb hdl hds hdk hend
  have hdr : d.port.run = u.port.run := by rw [← hdv, State.derive_run, ← hy]
  have hdset' : d.sets = u.sets := by rw [hdset, ← hy]
  have hdlam : d.lamps = u.lamps := hdl.trans hyl
  have hbal : d.balanceShedChange before = if 4 ≤ level ∧ before < level then d.endRun .aborted else d := by
    have : d.supply.shed = level := by rw [hds, hys, hsh]
    unfold State.balanceShedChange
    rw [this]
  have hvf : ∀ v, v = d.balanceShedChange before → v.clock = u.clock ∧ v.port.run = u.port.run ∧ v.sets = u.sets
      ∧ v.lamps = u.lamps ∧ v.supply = u.supply := by
    intro v hv'
    rw [hv', hbal]
    split
    · obtain ⟨-, e1, -, -, e2, -, e3, e4⟩ := d.endRun_frame .aborted
      rw [e1, State.endRun_run, e2, e3, e4]
      exact ⟨hdc.trans hyc, hdr, hdset', hdlam, hds.trans hys⟩
    · exact ⟨hdc.trans hyc, hdr, hdset', hdlam, hds.trans hys⟩
  rw [hd] at ht
  generalize hvd : d.balanceShedChange before = v at ht hbal
  obtain ⟨vc, vr, vs, vl, vu⟩ := hvf v hvd.symm
  obtain ⟨hle, hlk, hll⟩ := shedLamps_eq v before
  obtain ⟨hat, hae, hap⟩ := (shedLamps v before).heaterArrival_told
  rw [State.lampShedChange_eq] at ht
  generalize hL : (shedLamps v before).lamps.lamps = L at hle hlk hll
  rw [hle] at hat hae hap ht
  generalize hw : ({ v with lamps := { v.lamps with lamps := L } } : State).heaterArrival = w at hat hae hap ht
  rw [vl] at hlk hll
  rw [vu] at ht hlk
  have hda : derivedAfresh y d := hdv ▸ y.derive_afresh hyw hyv
  have hdf : d.radio.request.functions = u.radio.request.functions := by
    rw [hda.2.2.2.2.2, ← hy]
  have hclosed : 4 ≤ level ∧ before < level → runClosed d v .aborted := fun c => by
    rw [hbal, if_pos c]; exact hend.1
  have hvfun : v.radio.request.functions = u.radio.request.functions := by
    by_cases c : 4 ≤ level ∧ before < level
    · cases hrun : d.balance.run with
      | none => rw [(hclosed c).1 hrun]; exact hdf
      | some r =>
        obtain ⟨x, -, -, hx, hx', -⟩ := (hclosed c).2 r hrun
        rw [hx'.2.2.2.2.2, hx]
        exact hdf
    · rw [hbal, if_neg c]; exact hdf
  have hat : heaterTold v w u.radio.request.functions := hvfun ▸ hat
  have hwith : ∀ l, ({ w with lamps := l } : State) = { v with lamps := l } := by
    intro l
    rw [hae]
  have hwl : ∀ (H : Heater) (F : Fan), ({ w.lamps with heater := H, fan := F } : LampUnit)
      = { v.lamps with lamps := w.lamps.lamps, heater := H, fan := F } := by
    intro H F
    rw [hae]
  have hwL : w.lamps.lamps = L := by rw [hae]
  have hgo : ∀ t, (t = if decide (before < 2) = decide (level < 2) then w else w.fanDriveNow) →
      t.lamps.lamps = L ∧ t = { v with lamps := { v.lamps with
        lamps := t.lamps.lamps, heater := t.lamps.heater, fan := t.lamps.fan } }
      ∧ t.lamps.heater = w.lamps.heater
      ∧ (decide (before < 2) = decide (level < 2) → t.lamps.fan = w.lamps.fan)
      ∧ (decide (before < 2) ≠ decide (level < 2) → t.lamps.fan = w.lamps.fan.driveAt u.clock w.lamps.fan.periodStart
        (fanDuty w)) := by
    intro t ht
    rw [ht]
    split
    · rename_i c
      exact ⟨hwL, (hwith w.lamps).trans (congrArg (fun l => ({ v with lamps := l } : State))
        (hwl w.lamps.heater w.lamps.fan)), rfl, fun _ => rfl, fun c' => absurd c c'⟩
    · rename_i c
      have hk : w.clock = u.clock := by rw [hae]; exact vc
      have hf : w.fanDriveNow = { w with lamps := { w.lamps with
          heater := w.lamps.heater
          fan := w.lamps.fan.driveAt u.clock w.lamps.fan.periodStart (fanDuty w) } } := by rw [← hk]; rfl
      rw [hf]
      exact ⟨hwL, (hwith _).trans (congrArg (fun l => ({ v with lamps := l } : State)) (hwl _ _)), rfl,
        fun c' => absurd c' c, fun _ => rfl⟩
  have hlev2 : u.supply.shed = level := hsh
  rw [hsh] at ht
  obtain ⟨g1, g2, g3, g4, g5⟩ := hgo _ rfl
  generalize (if decide (before < 2) = decide (level < 2) then w else w.fanDriveNow) = x at ht g1 g2 g3 g4 g5
  have htl : s.formShed.lamps = x.lamps := by rw [ht]; rfl
  have hwr : w.isRun = u.isRun := by
    rw [hae]
    show decide (v.port.run = .run) = decide (u.port.run = .run)
    
    rw [vr]
  have hwd : fanDuty w = if u.isRun = false ∨ 2 ≤ u.supply.shed then 0 else match w.lamps.fan.state with
            | .off | .latched => 0
            | .run => if w.lamps.fan.fast then u.lampSet.fanRun else u.lampSet.fanIdle
            | .puff => u.lampSet.puffDuty
            | .purge => u.lampSet.fanIdle := by
    have e1 : w.lampSet = u.lampSet := by
      unfold State.lampSet
      rw [show w.sets = u.sets by rw [hae]; exact vs]
    have e2 : w.supply = u.supply := by rw [hae]; exact vu
    unfold fanDuty fanAsked
    rw [hwr, e1, e2]
    by_cases c : u.supply.shed < 2
    · cases u.isRun <;> cases w.lamps.fan.state <;> simp [c, Nat.not_le.mpr c]
    · cases u.isRun <;> simp [c, Nat.le_of_not_lt c]
  have hsame : sameBut s.xm v.xm (inRunEnd s) := by
    have h1 : sameBut y.xm d.xm inSegments := hdk.2
    have h2 : sameBut d.xm v.xm (inRunEnd d) := by
      by_cases c : 4 ≤ level ∧ before < level
      · exact runClosed_same (hclosed c)
      · rw [hbal, if_neg c]; exact sameBut_refl _ _
    unfold inRunEnd at h2 ⊢
    rw [hdb, hyb, show u.balance = s.balance by rw [hu]] at h2
    rw [show y.xm = s.xm by rw [← hy, hu]] at h1
    exact sameBut_trans (sameBut_weaken h1 fun a ha => .inr ha) h2
  have hxm : s.formShed.xm = v.xm := by rw [ht, g2]; rfl
  refine ⟨⟨d, v, hy ▸ hda, fun c => hclosed (hsh ▸ c), fun c => ?_, ?_, ?_, ⟨w, hat, ?_, ?_, ?_⟩, ?_⟩, hxm ▸ hsame⟩
  · rw [hbal, if_neg (hsh ▸ c)]
  · rw [htl, g1]; exact hlk
  · rw [htl, g1]; exact hll
  · rw [htl, g3]
  · rw [htl, hsh]; exact g4
  · rw [htl, hsh]
    intro c
    rw [g5 c]
    refine ⟨?_, fun h2 hlaw => ?_⟩
    · rw [← hsh]
      exact congrArg (fun x => ({ w.lamps.fan with
        since := u.clock, drive := x
        leg := (w.lamps.fan.driveAt u.clock w.lamps.fan.periodStart (fanDuty w)).leg } : Fan)) hwd
    · have hps : w.lamps.fan.periodStart = u.lamps.fan.periodStart := hap.trans (by rw [← vl])
      have h0 : fanDuty w = 0 := by rw [hwd, if_pos (.inr (hsh ▸ h2))]
      have : u.lamps.fan.periodStart ≤ u.clock := Nat.le_trans hlaw.1 hlaw.2.1
      have hlow : ∀ f : Fan, f.periodStart ≤ u.clock → (f.driveAt u.clock f.periodStart 0).leg.high = false := by
        intro f hf
        have : decide (u.clock < f.periodStart + onPhase 0) = false := by
          simp only [onPhase]; exact decide_eq_false (by omega)
        simp only [Fan.driveAt, this]
        rfl
      rw [h0]
      exact hlow _ (hps ▸ this)
  · rw [htl]
    conv => lhs; rw [ht, g2]
    rfl

/-! ## Bridges that latch (R93 to R95, R97, R110) -/

theorem Bridge.latch_latches (b : Bridge) (now : Nat) : bridgeLatches b (b.latch now) now :=
  Bridge.rest_rests { b with chopFlag := false } now .latched

/-- Only the bridge's own fields, not its on-phase, decide how it latches. -/
theorem State.latchBridge_set (s : State) (id : BridgeId) (x : Bridge)
    (h : x.latch s.clock = (s.bridges.get id).latch s.clock) :
    (s.onBridges fun u => u.set id x).latchBridge id = s.latchBridge id := by
  cases id
  · have : x.latch s.clock = s.bridges.a.latch s.clock := h
    simp only [State.latchBridge, State.onBridges, BridgeUnit.set, BridgeUnit.get, this]
  · have : x.latch s.clock = s.bridges.b.latch s.clock := h
    simp only [State.latchBridge, State.onBridges, BridgeUnit.set, BridgeUnit.get, this]

/-- A bridge cut for the rest of its period latches as it would have without the cut. -/
theorem Bridge.cutPeriod_latch (b : Bridge) (now n : Nat) (d : Bool) :
    ({ ({ b with detected := d } : Bridge).cutPeriod now with shortRun := n } : Bridge).latch now = b.latch now := by
  simp only [Bridge.latch, Bridge.rest, Bridge.cutPeriod, Bridge.ask, Bridge.noPhase, Gates.none, highNext, lowNext,
    offTime]
  simp

/-- A bridge latches, with all that follows it (R94, R97, R110). -/
theorem State.latchBridge_shorted (s : State) (id : BridgeId) (h : s.xm.wf = true) (hv : voicesLawful s)
    (hr : runSlot s) :
    bridgeShorted s (s.latchBridge id) id ∧ sameBut s.xm (s.latchBridge id).xm (inRunEnd s) := by
  generalize hg : (s.bridges.set id ((s.bridges.get id).latch s.clock)).gang (BridgeId.other id) s.clock = g
  have hgf : g = { s.bridges with a := g.a, b := g.b } ∧ g.get id = (s.bridges.get id).latch s.clock
      ∧ g.get (BridgeId.other id) = if s.bridges.cfg.independence = .gang ∧ (BridgeId.other id = .a
          ∨ s.bridges.cfg.mode = .parallel) ∧ (s.bridges.get (BridgeId.other id)).state ≠ .latched then
        (s.bridges.get (BridgeId.other id)).latch s.clock else s.bridges.get (BridgeId.other id) := by
    rw [← hg]
    unfold BridgeUnit.gang
    cases id <;> split <;> rename_i c
    · exact ⟨rfl, rfl, (if_pos ⟨c.1, .inr (of_decide_eq_true c.2.1), c.2.2⟩).symm⟩
    · exact ⟨rfl, rfl, (if_neg fun d => c ⟨d.1, decide_eq_true (d.2.1.resolve_left (by decide)), d.2.2⟩).symm⟩
    · exact ⟨rfl, rfl, (if_pos ⟨c.1, .inl rfl, c.2.2⟩).symm⟩
    · exact ⟨rfl, rfl, (if_neg fun d => c ⟨d.1, rfl, d.2.2⟩).symm⟩
  obtain ⟨hg1, hg2, hg3⟩ := hgf
  generalize hx : g.set id { g.get id with episodes := (g.get id).episodes + 1 } = x
  have hx1 : x = { s.bridges with a := x.a, b := x.b } := by
    rw [← hx, hg1]; cases id <;> rfl
  have hx2 : x.get id = ({ s.bridges.get id with episodes := (s.bridges.get id).episodes + 1 } : Bridge).latch s.clock := by
    rw [← hx]; cases id <;> (simp only [BridgeUnit.set, BridgeUnit.get] at hg2 ⊢; rw [hg2]; rfl)
  have hx3 : x.get (BridgeId.other id) = g.get (BridgeId.other id) := by
    rw [← hx]; cases id <;> rfl
  generalize hu : ({ s with
        port := withNotice s.port [.fault]
        status := { s.status with faultCount := s.status.faultCount + 1 }
        bridges := x
        traction := if x.allLatched = true then { s.traction with c := 0, i := 0, u := 0, prev := 0 }
          else s.traction } : State) = u
  have ht : s.latchBridge id = u.derive.endRun .failedFault := by
    have hrec : (s.onBridges fun _ => g).recordShort id = { s with
        port := withNotice s.port [.fault]
        status := { s.status with faultCount := s.status.faultCount + 1 }
        bridges := x } := by
      rw [← hx]; rfl
    have hl : s.latchBridge id = (((s.onBridges fun _ => g).recordShort id).tractionLatchReport).endRun
        .failedFault := by rw [← hg]; rfl
    rw [hl, hrec, ← hu]
    unfold State.tractionLatchReport
    cases x.allLatched <;> rfl
  have huw : u.xm.wf = true := by rw [← hu]; exact h
  have huv : voicesLawful u := by rw [← hu]; exact hv
  have hub : u.bridges = x := by rw [← hu]
  have hrun : u.derive.balance = s.balance := by rw [u.derive_frame.2.2.2.2.2.2.2.2.1, ← hu]
  have hend := (u.derive.endRun_closed .failedFault (u.derive_wf huw) (u.derive_kept huw huv).1 (by
      intro r c; rw [hrun] at c; exact hr r c)).1
  have hsame : sameBut s.xm (u.derive.endRun .failedFault).xm (inRunEnd s) := by
    have h1 : sameBut u.xm u.derive.xm inSegments := (u.derive_kept huw huv).2
    have h2 := runClosed_same hend
    unfold inRunEnd at h2 ⊢
    rw [hrun] at h2
    rw [show u.xm = s.xm by rw [← hu]] at h1
    exact sameBut_trans (sameBut_weaken h1 fun a ha => .inr ha) h2
  refine ⟨⟨u, u.derive, ?_, fun c => ?_, fun c => ?_, ?_, u.derive_afresh huw huv, ht ▸ hend⟩, ht ▸ hsame⟩
  · rw [hub, hx2]; exact Bridge.latch_latches _ _
  · rw [hub, hx3, hg3, if_pos c]; exact Bridge.latch_latches _ _
  · rw [hub, hx3, hg3, if_neg c]
  · rw [hub, ← hx1]; exact hu.symm

end Sys2Proof.Machine
end

