-- ==== Sys2Proof/Laws/Radio.lean ====
section
/-! SUPPORT. What the receiver's shared operations do (R118, R119): the checks of a complete frame, and the end of
one frame's handling, which takes up the frames that wait. -/

namespace Sys2Proof.Machine

open Sys2Proof.Safety

/-- The checks of R118 pass exactly when the frame is accepted. -/
theorem accepted_eq (r : Radio) (bytes : List Byte) :
    accepted r bytes = if frameAccepted r bytes then some (parseFrame bytes) else none := by
  have h : addressed r (parseFrame bytes) = true ↔
      (((parseFrame bytes).target = r.cfg.own ∧ r.cfg.own ≠ 0)
        ∨ ((parseFrame bytes).target = 10000 + r.consist.number ∧ r.consist.number ≠ 0)
        ∨ ((parseFrame bytes).target = 0 ∧ ((parseFrame bytes).kind = 3 ∨ (parseFrame bytes).kind = 5))) := by
    simp [addressed, or_assoc]
  unfold accepted frameAccepted
  simp only [← h]
  by_cases h1 : carriedCrc bytes = (crc (bytes.take (bytes.length - 2))).toNat <;>
  by_cases h2 : 2 < (parseFrame bytes).cls <;>
  cases h3 : addressed r (parseFrame bytes) <;>
  cases h4 : isRepeat r.repeats (parseFrame bytes) <;>
  simp_all

/-- An accepted frame is in hand and its sender heard; any other changes nothing (R118). -/
theorem State.checkFrame_eq (s : State) (bytes : List Byte) :
    s.checkFrame bytes = if frameAccepted s.radio bytes then
        { s with radio := { s.radio with
            repeats := senderFirst s.radio.repeats (parseFrame bytes) s.clock
            handling := some (parseFrame bytes) } }
      else s := by
  unfold State.checkFrame
  rw [accepted_eq]
  cases frameAccepted s.radio bytes <;> rfl

/-- With no frame in hand, those that wait are checked up to the first that is accepted. -/
theorem State.checkWaiting_cases (waiting : List (List Byte)) (s : State) (h : s.radio.handling = none) :
    ((∀ b ∈ waiting, frameAccepted s.radio b = false)
        ∧ State.checkWaiting waiting s = { s with radio := { s.radio with waiting := [] } })
      ∨ ∃ gone bytes rest, waiting = gone ++ bytes :: rest ∧ (∀ b ∈ gone, frameAccepted s.radio b = false)
        ∧ frameAccepted s.radio bytes = true
        ∧ State.checkWaiting waiting s = { s with radio := { s.radio with
            handling := some (parseFrame bytes), waiting := rest
            repeats := senderFirst s.radio.repeats (parseFrame bytes) s.clock } } := by
  induction waiting with
  | nil => exact .inl ⟨by simp, by simp [State.checkWaiting, State.onRadio]⟩
  | cons x rest ih =>
    cases hx : frameAccepted s.radio x with
    | true =>
      refine .inr ⟨[], x, rest, rfl, by simp, hx, ?_⟩
      simp only [State.checkWaiting, State.checkFrame_eq, hx]
      rfl
    | false =>
      have hc : State.checkWaiting (x :: rest) s = State.checkWaiting rest s := by
        simp [State.checkWaiting, State.checkFrame_eq, hx, h]
      rw [hc]
      rcases ih with ⟨hn, he⟩ | ⟨gone, bytes, last, hw, hg, ha, he⟩
      · exact .inl ⟨List.forall_mem_cons.2 ⟨hx, hn⟩, he⟩
      · refine .inr ⟨x :: gone, bytes, last, by simp [hw], List.forall_mem_cons.2 ⟨hx, hg⟩, ha, he⟩

/-- The end of a frame's handling reaches the receiver's side alone. -/
theorem State.frameDone_receiver (s : State) :
    s.frameDone = { s with radio := { s.radio with
      handling := s.frameDone.radio.handling, waiting := s.frameDone.radio.waiting
      repeats := s.frameDone.radio.repeats } } := by
  rcases State.checkWaiting_cases s.radio.waiting (s.onRadio fun r => { r with handling := none }) rfl with
    ⟨-, he⟩ | ⟨gone, bytes, rest, -, -, -, he⟩ <;>
  · unfold State.frameDone
    rw [he]
    rfl

/-- The first element that passes a test splits a list in one way. -/
theorem firstPassing_unique {α : Type} {p : α → Bool} {as bs cs ds : List α} {x y : α}
    (h : as ++ x :: bs = cs ++ y :: ds) (ha : ∀ a ∈ as, p a = false) (hx : p x = true)
    (hc : ∀ c ∈ cs, p c = false) (hy : p y = true) : as = cs ∧ x = y ∧ bs = ds := by
  induction as generalizing cs with
  | nil =>
    cases cs with
    | nil => simpa using h
    | cons c cs =>
      obtain ⟨rfl, -⟩ := List.cons.inj h
      simp [hc x (by simp)] at hx
  | cons a as ih =>
    cases cs with
    | nil =>
      obtain ⟨rfl, -⟩ := List.cons.inj h
      simp [ha a (by simp)] at hy
    | cons c cs =>
      obtain ⟨rfl, hs⟩ := List.cons.inj h
      obtain ⟨rfl, hr⟩ := ih hs (fun a h => ha a (by simp [h])) (fun c h => hc c (by simp [h]))
      exact ⟨rfl, hr⟩

/-- The end of a frame's handling takes up the frames that wait (R118). -/
theorem State.frameDone_ended (s : State) : frameEnded s s.frameDone := by
  intro r hr
  have hacc : ∀ b, frameAccepted r b = frameAccepted (s.onRadio fun r => { r with handling := none }).radio b := by
    intro b
    rw [hr, s.frameDone_receiver]
    rfl
  simp only [hacc]
  rcases State.checkWaiting_cases s.radio.waiting (s.onRadio fun r => { r with handling := none }) rfl with
    ⟨hn, he⟩ | ⟨gone, bytes, rest, hw, hg, ha, he⟩
  · have he' : s.frameDone = _ := he
    rw [he']
    refine ⟨fun _ => ⟨rfl, rfl, rfl⟩, fun g b rest hw _ hb => absurd (hb.symm.trans (hn b (hw ▸ by simp))) (by decide)⟩
  · have he' : s.frameDone = _ := he
    rw [he']
    refine ⟨fun h => absurd (ha.symm.trans (h bytes (hw ▸ by simp))) (by decide), fun g b r2 hw2 hg2 hb => ?_⟩
    obtain ⟨hx, hy, hz⟩ := firstPassing_unique (hw.symm.trans hw2) hg ha hg2 hb
    subst hx hy hz
    exact ⟨rfl, rfl, rfl⟩

end Sys2Proof.Machine
end

