-- ==== Sys2Proof/Laws/Sets.lean ====
section
/-! SUPPORT. What the set manager's shared operations do (R37): the decision of one action, the taking up of
those that wait, and the end of a decision with and without a teardown. -/

namespace Sys2Proof.Machine

open Sys2Proof.Safety

/-- The decision of an action: it passed its checks and was applied, or its first failing check refused it. -/
theorem State.conclude_cases (s : State) (a : SetAction) (d : Option (DriveSet × Bool)) :
    (∃ set clamped, actionRefusal s a d = none ∧ d = some (set, clamped) ∧
        s.conclude a d = (s.applyAction a set clamped).reportAction a (if clamped then .adjusted else .ok))
      ∨ (∃ outcome, actionRefusal s a d = some outcome ∧ s.conclude a d = s.reportAction a outcome)
      ∨ (actionRefusal s a d = none ∧ d = none ∧ s.conclude a d = s) := by
  unfold State.conclude
  split
  · rename_i h
    exact .inl ⟨_, _, h, rfl, rfl⟩
  · rename_i h
    exact .inr (.inl ⟨_, h, rfl⟩)
  · rename_i h
    exact .inr (.inr ⟨h, rfl, rfl⟩)

/-- A report leaves the set manager as it was. -/
@[simp] theorem State.reportAction_sets (s : State) (a : SetAction) (outcome : OutcomeCode) :
    (s.reportAction a outcome).sets = s.sets := by simp

/-- An action that loads nothing is refused: BUSY during a balance run, CHAIN_EMPTY for a RETURN and BAD_INDEX for
an INVOKE or SWITCH. -/
theorem actionRefusal_unloaded (s : State) (a : SetAction) (h : loadIndex s.sets a = none) :
    actionRefusal s a none =
      some (if s.balance.run.isSome then .busy else if a.kind = .returnSet then .chainEmpty
        else .badIndex) := by
  unfold loadIndex at h
  unfold actionRefusal
  split <;> rename_i hk <;> simp only [hk] at h
  · simp only [placeRefusal, hk]
    split <;> rfl
  · simp only [placeRefusal, hk]
    split <;> rfl
  · have : s.sets.chain.length ≤ 1 := by
      by_contra hc
      simp [hc] at h
    simp only [returnRefusal, this, hk]
    split <;> rfl
  · cases h

/-- Such an action is reported and nothing else. -/
theorem State.conclude_unloaded (s : State) (a : SetAction) (h : loadIndex s.sets a = none) :
    s.conclude a none =
      s.reportAction a (if s.balance.run.isSome then .busy else if a.kind = .returnSet then .chainEmpty
        else .badIndex) := by
  simp [State.conclude, actionRefusal_unloaded s a h]

/-- Taking up the waiting actions changes the set manager in its queue alone. -/
theorem State.takeWaiting_sets (waiting : List SetAction) (s : State) :
    (State.takeWaiting waiting s).sets = { s.sets with queue := takenUp s.sets waiting } := by
  induction waiting generalizing s with
  | nil => rfl
  | cons a rest ih =>
    cases h : loadIndex s.sets a with
    | some x => simp [State.takeWaiting, takenUp, h, State.queueIs]
    | none => simp [State.takeWaiting, takenUp, h, ih, State.conclude_unloaded s a h]

/-- A report, of an action that changed nothing, is a refusal and nothing else. -/
theorem State.reportAction_refused (s : State) (a : SetAction) (outcome : OutcomeCode) (h : s.xm.wf = true)
    (hl : s.radio.logIndex < 64) (ha : ∀ n, a.source = .order n → n < 32) :
    refusedAction s (s.reportAction a outcome) a outcome := by
  unfold refusedAction State.reportAction
  cases hs : a.source with
  | order n =>
    refine ⟨s.completeSlot_done n outcome 0 _ h (ha n hs), s.completeSlot_same n outcome 0 _ h (ha n hs), ?_⟩
    simp only
    generalize chainResult s.sets = result
    conv => lhs; rw [s.completeSlot_eq n outcome 0 result]
    simp only [State.completeSlot_frame]
  | frame f =>
    refine ⟨s.offer_recorded .frame _ f h, s.offer_only .frame _ f h hl, ?_⟩
    simp only [State.logFrame]
    conv => lhs; rw [s.offer_eq .frame _ f]
    simp only [State.offer_frame]

/-- A report leaves the place in the log within the log. -/
theorem State.reportAction_logIndex (s : State) (a : SetAction) (outcome : OutcomeCode)
    (hl : s.radio.logIndex < 64) : (s.reportAction a outcome).radio.logIndex < 64 := by
  unfold State.reportAction
  split
  · exact hl
  · unfold State.logFrame State.offer
    repeat' split
    · exact hl
    · exact hl
    · exact Nat.mod_lt _ (by decide)

/-- The actions that wait are taken up one after the other. -/
theorem State.takeWaiting_taken (waiting : List SetAction) (s : State) (h : s.xm.wf = true)
    (hl : s.radio.logIndex < 64) (hw : ∀ a ∈ waiting, ∀ n, a.source = .order n → n < 32) :
    restTakenUp waiting s (State.takeWaiting waiting s) := by
  induction waiting generalizing s with
  | nil => rfl
  | cons a rest ih =>
    unfold restTakenUp State.takeWaiting
    cases hx : loadIndex s.sets a with
    | some x => exact ⟨fun y hy => Option.some.inj hy ▸ rfl, fun hn => (nomatch hn)⟩
    | none =>
      refine ⟨fun y hy => (nomatch hy), fun _ => ⟨s.conclude a none, ?_, ?_⟩⟩
      · rw [s.conclude_unloaded a hx]
        exact s.reportAction_refused a _ h hl (hw a (by simp))
      · simp only
        rw [s.conclude_unloaded a hx]
        exact ih _ (State.reportAction_wf _ _ _ h) (s.reportAction_logIndex a _ hl)
          (fun b hb => hw b (by simp [hb]))

/-- A teardown that waited is taken at a decision, and the queue is empty after it. -/
theorem State.nextAction_teardown (s : State) (h : s.port.teardownPending = true) :
    s.nextAction = s.teardown.abandonWaiting (s.sets.queue.drop 1) := by
  simp [State.nextAction, h]

/-- With no teardown waiting, the actions behind the head are taken up. -/
theorem State.nextAction_waiting (s : State) (h : s.port.teardownPending = false) :
    s.nextAction = State.takeWaiting (s.sets.queue.drop 1) s := by
  simp [State.nextAction, h]

end Sys2Proof.Machine
end

