-- ==== Sys2Proof/Laws/Step.lean ====
section
/-! SUPPORT. How a step is taken apart: a command or the idle step, each answering a next state. -/

namespace Sys2Proof.Machine

/-- Every command answers a next state. -/
theorem exec_answers (c : Instr) (s : State) : ∃ t, exec c s = .next t := by
  cases c <;> exact ⟨_, rfl⟩

/-- With a command waiting a step is that command's meaning on the queue's rest. -/
theorem step_command (s : State) (c : Instr) (rest : List Instr) (h : s.pending = c :: rest) :
    step s = exec c { s with pending := rest } := by
  simp [step, h]

/-- With none waiting it is the idle step. -/
theorem step_idle (s : State) (h : s.pending = []) : step s = .next (idle s) := by
  simp [step, h]

/-- A property that says nothing of the queue is kept by every step, once every command and the idle step
keep it. -/
theorem step_keeps (P : State → Prop) (hq : ∀ s q, P s → P { s with pending := q })
    (hidle : ∀ s, P s → P (idle s)) (hexec : ∀ c s t, P s → exec c s = .next t → P t) (s t : State)
    (hs : P s) (h : step s = .next t) : P t := by
  cases hp : s.pending with
  | nil =>
    rw [step_idle s hp] at h
    cases h
    exact hidle s hs
  | cons c rest => exact hexec c _ t (hq s rest hs) ((step_command s c rest hp).symm.trans h)

end Sys2Proof.Machine
end

