-- ==== Sys2Proof/Laws/Stops.lean ====
section
/-! SUPPORT. How voices stop (R144, R159, R160): the segments that stopped STREAM voices give back, under a HUSH and
where every voice stops. -/

namespace Sys2Proof.Machine

open Sys2Proof.Safety

/-! ## Pending bits set twice -/

theorem withNotice_nil (p : Port) : withNotice p [] = p := rfl

theorem withNotice_twice (p : Port) (b : NoticeBit) : withNotice p [b, b] = withNotice p [b] := by
  simp [withNotice, BitVec.or_assoc]

theorem withNotice_comm (p : Port) (a b : NoticeBit) : withNotice p [a, b] = withNotice p [b, a] := by
  simp [withNotice, BitVec.or_assoc, BitVec.or_comm a.flag]

/-! ## Segments given back -/

/-- Segments given back by some voices and then by others are given back by all of them. -/
theorem segmentsReleased_append {l l' : List Voice} {m n o : Memory} {p : Nat → Prop}
    (h : segmentsReleased l m n p) (h' : segmentsReleased l' n o p) : segmentsReleased (l ++ l') m o p := by
  intro a ha hp
  rw [h' a ha hp, h a ha hp, List.any_append]
  cases l.any (holdsSegment a) <;> cases l'.any (holdsSegment a) <;> rfl

theorem releaseNotice_append (p : Port) (l l' : List Voice) :
    withNotice (withNotice p (releaseNotice l)) (releaseNotice l') = withNotice p (releaseNotice (l ++ l')) := by
  unfold releaseNotice
  rw [List.any_append]
  cases l.any _ <;> cases l'.any _ <;>
    simp only [Bool.or_self, Bool.or_true, Bool.or_false, if_true, if_false, Bool.false_eq_true,
      withNotice_nil]
  rw [withNotice_append]
  exact withNotice_twice p .stream

/-- One voice that stops (R159). -/
theorem State.stopVoice_released (s : State) (n : Nat) (h : s.xm.wf = true) (hv : voicesLawful s) (hn : n < 8) :
    segmentsReleased [s.sound.voice n] s.xm (s.stopVoice n).xm (fun _ => False)
      ∧ (s.stopVoice n).port = withNotice s.port (releaseNotice [s.sound.voice n]) := by
  unfold State.stopVoice segmentsReleased releaseNotice holdsSegment
  cases hk : (s.sound.voice n).sounds && decide ((s.sound.voice n).entry.kind = 2)
  · refine ⟨fun a ha _ => ?_, ?_⟩ <;> simp [hk, State.onVoice, withNotice]
  · rw [Bool.and_eq_true] at hk
    obtain ⟨hc, -, -⟩ := voiceLawful_sounds (lawful_voice hv hn) hk.1
    refine ⟨fun a ha _ => ?_, ?_⟩
    · simp only [hk.1, hk.2, Bool.and_self, if_true, State.onVoice, State.onSound_xm, State.leaveSegment,
        State.raise_frame, State.onXm_xm, segmentAddr_eq, List.any_cons, List.any_nil, Bool.or_false, Bool.true_and,
        decide_eq_true_eq]
      rw [Memory.read_write _ _ _ h, Nat.mod_eq_of_lt (segmentByte_lt hc _), Nat.mod_eq_of_lt ha]
      simp only [Voice.inSecond, ClipEntry.half, eq_comm]
      rfl
    · simp [hk.1, hk.2, State.onVoice, State.leaveSegment, State.raise_port]

/-- Voices act one after the other, each giving back what `r` says of it and leaving the others alone. -/
theorem voices_released {f : State → Nat → State} (r : Voice → List Voice)
    (hf : ∀ s n, s.xm.wf = true → voicesLawful s → n < 8 →
      (f s n).xm.wf = true ∧ voicesLawful (f s n)
        ∧ (∀ k, k ≠ n → (f s n).sound.voice k = s.sound.voice k)
        ∧ segmentsReleased (r (s.sound.voice n)) s.xm (f s n).xm (fun _ => False)
        ∧ (f s n).port = withNotice s.port (releaseNotice (r (s.sound.voice n))))
    (l : List Nat) (hl : ∀ n ∈ l, n < 8) (hd : l.Nodup) (s : State) (h : s.xm.wf = true) (hv : voicesLawful s) :
    segmentsReleased (l.flatMap fun n => r (s.sound.voice n)) s.xm (l.foldl f s).xm (fun _ => False)
      ∧ (l.foldl f s).port = withNotice s.port (releaseNotice (l.flatMap fun n => r (s.sound.voice n)))
      ∧ voicesLawful (l.foldl f s) := by
  induction l generalizing s with
  | nil => exact ⟨fun _ _ _ => rfl, rfl, hv⟩
  | cons n rest ih =>
    obtain ⟨h1, h2, h3, h4, h5⟩ := hf s n h hv (hl n (by simp))
    rw [List.nodup_cons] at hd
    obtain ⟨q1, q2, q3⟩ := ih (fun k hk => hl k (by simp [hk])) hd.2 (f s n) h1 h2
    have hsame : (rest.flatMap fun k => r ((f s n).sound.voice k)) = rest.flatMap fun k => r (s.sound.voice k) := by
      rw [List.flatMap_def, List.flatMap_def, List.map_congr_left]
      intro k hk
      rw [h3 k (fun c => hd.1 (c ▸ hk))]
    rw [hsame] at q1 q2
    refine ⟨segmentsReleased_append h4 q1, ?_, q3⟩
    rw [List.foldl_cons, q2, h5, releaseNotice_append]
    rfl

/-- The other voices stand while one is changed. -/
theorem voiceIs_other (s : State) (n k : Nat) (v : Voice) (hk : k ≠ n) :
    (voiceIs s n v).sound.voice k = s.sound.voice k := by
  simp [voiceIs, Sound.voice, List.getD_eq_getElem?_getD, List.getElem?_set_ne (Ne.symm hk)]

/-- A stop, as the walk through voices asks. -/
theorem State.stopVoice_step (s : State) (n : Nat) (h : s.xm.wf = true) (hv : voicesLawful s) (hn : n < 8) :
    (s.stopVoice n).xm.wf = true ∧ voicesLawful (s.stopVoice n)
      ∧ (∀ k, k ≠ n → (s.stopVoice n).sound.voice k = s.sound.voice k)
      ∧ segmentsReleased [s.sound.voice n] s.xm (s.stopVoice n).xm (fun _ => False)
      ∧ (s.stopVoice n).port = withNotice s.port (releaseNotice [s.sound.voice n]) := by
  have he := s.stopVoice_eq n (by rw [hv.1]; exact hn)
  have hs : (s.stopVoice n).sound = (voiceIs s n { s.sound.voice n with state := .idle }).sound := by
    rw [he]; rfl
  refine ⟨s.stopVoice_wf n h, ?_, fun k hk => ?_, s.stopVoice_released n h hv hn⟩
  · have := voiceIs_lawful hv n (v := { s.sound.voice n with state := .idle }) (voiceLawful_idle rfl)
    unfold voicesLawful at this ⊢
    rwa [hs]
  · rw [hs]
    exact voiceIs_other s n k _ hk

/-! ## Every voice stops (R160) -/

/-- The eight voices of a lawful state, one by one. -/
theorem eight_voices {l : List Voice} (h : l.length = 8) : ∃ a b c d e f g i, l = [a, b, c, d, e, f, g, i] := by
  match l, h with
  | [a, b, c, d, e, f, g, i], _ => exact ⟨a, b, c, d, e, f, g, i, rfl⟩

theorem State.stopVoices_eq (l : List Nat) (hl : ∀ n ∈ l, n < 8) (s : State) (h : s.sound.voices.length = 8) :
    l.foldl State.stopVoice s = { s with
      xm := (l.foldl State.stopVoice s).xm, port := (l.foldl State.stopVoice s).port
      sound := { s.sound with
        voices := l.foldl (fun vs n => vs.set n { vs.getD n Voice.idle with state := .idle }) s.sound.voices } } := by
  induction l generalizing s with
  | nil => rfl
  | cons n rest ih =>
    have he := s.stopVoice_eq n (by rw [h]; exact hl n (by simp))
    have hlen : (s.stopVoice n).sound.voices.length = 8 := by rw [he]; simpa using h
    have hr := ih (fun k hk => hl k (by simp [hk])) (s.stopVoice n) hlen
    rw [List.foldl_cons, List.foldl_cons, hr]
    generalize (rest.foldl State.stopVoice (s.stopVoice n)) = w
    conv => lhs; rw [he]
    rfl

/-- Every voice stops, and the rotation begins again (R160). -/
theorem State.soundStop_stopped (s : State) (h : s.xm.wf = true) (hv : voicesLawful s) :
    voicesStopped s s.soundStop ∧ voicesLawful s.soundStop := by
  have he := State.stopVoices_eq allVoices (by decide) s hv.1
  obtain ⟨h1, h2, h3⟩ := voices_released (f := State.stopVoice) (fun v => [v])
    (fun s n h hv hn => s.stopVoice_step n h hv hn) allVoices (by decide) (by decide) s h hv
  obtain ⟨a, b, c, d, e, f, g, i, hlist⟩ := eight_voices hv.1
  have hall : (allVoices.flatMap fun n => [s.sound.voice n]) = s.sound.voices := by
    simp [allVoices, Sound.voice, hlist]
  have hidle : allVoices.foldl (fun vs n => vs.set n { vs.getD n Voice.idle with state := .idle }) s.sound.voices
      = s.sound.voices.map fun v => { v with state := .idle } := by
    rw [hlist]; rfl
  rw [hall] at h1 h2
  rw [hidle] at he
  have hs : s.soundStop = (allVoices.foldl State.stopVoice s).onSound fun u => { u with rotation := 0 } := rfl
  generalize allVoices.foldl State.stopVoice s = w at he h1 h2 h3 hs
  refine ⟨⟨by rw [hs]; exact h1, ?_⟩, by rw [hs]; exact h3⟩
  rw [hs, ← h2]
  conv => lhs; rw [he]
  rfl

/-! ## HUSH (R144) -/

/-- The voices named by a HUSH give back their segments where they stop at once (R144, R159). -/
theorem State.hushVoices_released (s : State) (fade : Nat) (l : List Nat) (hl : ∀ n ∈ l, n < 8) (hd : l.Nodup)
    (h : s.xm.wf = true) (hv : voicesLawful s) :
    segmentsReleased (if fade = 0 then l.map s.sound.voice else []) s.xm
        (l.foldl (fun s n => s.hushVoice fade n) s).xm (fun _ => False)
      ∧ (l.foldl (fun s n => s.hushVoice fade n) s).port
        = withNotice s.port (releaseNotice (if fade = 0 then l.map s.sound.voice else [])) := by
  have hstep : ∀ s n, s.xm.wf = true → voicesLawful s → n < 8 →
      (s.hushVoice fade n).xm.wf = true ∧ voicesLawful (s.hushVoice fade n)
        ∧ (∀ k, k ≠ n → (s.hushVoice fade n).sound.voice k = s.sound.voice k)
        ∧ segmentsReleased (if fade = 0 then [s.sound.voice n] else []) s.xm (s.hushVoice fade n).xm (fun _ => False)
        ∧ (s.hushVoice fade n).port
          = withNotice s.port (releaseNotice (if fade = 0 then [s.sound.voice n] else [])) := by
    intro s n h hv hn
    have hstop := s.stopVoice_step n h hv hn
    have hsilent : (s.sound.voice n).sounds = false → ∀ a, holdsSegment a (s.sound.voice n) = false := by
      intro hs a; simp [holdsSegment, hs]
    have hnone : (s.sound.voice n).sounds = false →
        releaseNotice (if fade = 0 then [s.sound.voice n] else []) = []
        ∧ ∀ a, (if fade = 0 then [s.sound.voice n] else []).any (holdsSegment a) = false := by
      intro hs
      split <;> simp [releaseNotice, hs, hsilent hs]
    have hsame : ∀ a, a < 65536 → ¬False → (s.stopVoice n).xm.read a =
        if [s.sound.voice n].any (holdsSegment a) then 0 else s.xm.read a := hstop.2.2.2.1
    unfold State.hushVoice
    cases hst : (s.sound.voice n).state with
    | idle =>
      have hs : (s.sound.voice n).sounds = false := by simp [Voice.sounds, hst]
      refine ⟨h, hv, fun _ _ => rfl, fun a ha _ => ?_, ?_⟩
      · rw [(hnone hs).2 a]; rfl
      · rw [(hnone hs).1]; rfl
    | starved =>
      have hs : (s.sound.voice n).sounds = false := by simp [Voice.sounds, hst]
      refine ⟨hstop.1, hstop.2.1, hstop.2.2.1, fun a ha hp => ?_, ?_⟩
      · rw [(hnone hs).2 a]
        have := hsame a ha hp
        simpa [hsilent hs a] using this
      · rw [(hnone hs).1, hstop.2.2.2.2]
        simp [releaseNotice, hs]
    | playing | fading =>
      by_cases hf : fade = 0
      · simp only [hf, if_true]
        exact hstop
      · simp only [hf, if_false]
        have hlen : n < s.sound.voices.length := by rw [hv.1]; exact hn
        rw [State.onVoice_eq _ _ _ hlen]
        refine ⟨h, voiceIs_lawful hv n ?_, fun k hk => voiceIs_other s n k _ hk, fun _ _ _ => rfl, rfl⟩
        refine voiceLawful_of (lawful_voice hv hn) (by rw [hst]; decide) rfl rfl rfl (fun _ => ?_) (fun c => (nomatch c))
        exact (voiceLawful_sounds (lawful_voice hv hn) (by simp [Voice.sounds, hst])).2.2
  obtain ⟨q1, q2, -⟩ := voices_released (f := fun s n => s.hushVoice fade n)
    (fun v => if fade = 0 then [v] else []) hstep l hl hd s h hv
  have hmap : (l.flatMap fun n => if fade = 0 then [s.sound.voice n] else [])
      = if fade = 0 then l.map s.sound.voice else [] := by
    split
    · exact List.map_eq_flatMap.symm
    · simp
  rw [hmap] at q1 q2
  exact ⟨q1, q2⟩

end Sys2Proof.Machine
end

