-- ==== Sys2Proof/Laws/Teardown.lean ====
section
/-! SUPPORT. The entry to RUN and the teardown (R10, R12, R84, R160): what each is, and which memory it may write. -/

namespace Sys2Proof.Machine

open Sys2Proof.Safety

/-- A segment byte that a lawful voice gives back is one. -/
theorem holdsSegment_in {v : Voice} (h : voiceLawful v) {a : Nat} (ha : holdsSegment a v = true) : inSegments a := by
  simp only [holdsSegment, Bool.and_eq_true, decide_eq_true_eq] at ha
  rw [ha.2]
  exact inSegments_byte (voiceLawful_sounds h ha.1.1).1 _

/-- The stop of every voice writes segment bytes alone. -/
theorem voicesStopped_same {s t : State} (hv : voicesLawful s) (h : voicesStopped s t) :
    sameBut s.xm t.xm inSegments := by
  intro a ha hp
  rw [h.1 a ha (fun c => c), if_neg]
  rw [Bool.not_eq_true, List.any_eq_false]
  exact fun v hm c => hp (holdsSegment_in (hv.2 v hm) c)

/-- The clip a voice is given writes the segment that the voice gives back, alone. -/
theorem voiceGiven_xm {s t : State} {n clip : Nat} {use : ClipUse} {voice : ClipEntry → Voice}
    (h : voiceGiven s t n clip use voice) : t.xm = (s.stopVoice n).xm := by
  obtain ⟨h1, h2⟩ := h _ rfl
  by_cases hc : 63 < clip
  · rw [h1 hc]
  · have h2 := h2 (Nat.le_of_not_lt hc) _ rfl
    by_cases hg : (loadClip s.xm clip).valid = true
        ∧ (if use = .engine then (loadClip s.xm clip).kind = 1 else (loadClip s.xm clip).kind ≤ 1)
    · rw [if_pos hg] at h2
      rw [h2]
    · rw [if_neg hg] at h2
      rw [h2]

/-- A voice that does not sound gives nothing back. -/
theorem State.stopVoice_silent (s : State) (n : Nat) (h : (s.sound.voice n).sounds = false) :
    (s.stopVoice n).xm = s.xm := by
  simp [State.stopVoice, h, State.onVoice]

/-- The zone record is emptied (R133; log 8). -/
theorem State.emptyZone_emptied (s : State) :
    zoneEmptied s s.emptyZone
      ∧ s.emptyZone = { s with
          free := s.emptyZone.free, radio := { s.radio with zone := s.emptyZone.radio.zone } } := by
  unfold State.emptyZone zoneEmptied
  cases h : s.radio.zone.present
  · simp [h]
  · simp [State.onRadio, State.drawn]

/-- The part enters RUN (R10, R35, R84, R151, R160). -/
theorem State.enterRun_entered (s : State) (j : StartJob) (h : s.xm.wf = true) (hv : voicesLawful s) :
    runEntered s (s.enterRun j) j.baseIndex (loadDriveSet j.image (setBase j.baseIndex))
      (driveSetClamped j.image (setBase j.baseIndex))
      ∧ sameBut s.xm (s.enterRun j).xm inSegments := by
  generalize hd : loadDriveSet j.image (setBase j.baseIndex) = d
  generalize hc : driveSetClamped j.image (setBase j.baseIndex) = clamped
  generalize hy : ((s.onPort fun p => { p with run := .run, start := none, startFault := .ok }).onSets fun m =>
        { m with chain := [{ index := j.baseIndex, resume := none }], cache := some d, clamped := clamped }) = y
  obtain ⟨hz, hze⟩ := y.emptyZone_emptied
  have hent : s.enterRun j = (((y.emptyZone.onRadio fun r => r.enterRun y.traction.direction)
      ).tractionEnterRun.soundEnterRun).raise .control := by
    rw [← hy]; simp only [State.enterRun, hd, hc]
  generalize y.emptyZone = z at hz hze hent
  have hzs : zoneEmptied s z := by rw [← hy] at hz; exact hz
  generalize hx : z.onRadio (fun r => r.enterRun y.traction.direction) = x at hent
  have hxe : x = { s with
      free := z.free
      port := { s.port with run := .run, start := none, startFault := .ok }
      sets := { s.sets with chain := [{ index := j.baseIndex, resume := none }], cache := some d, clamped := clamped }
      radio := { s.radio with
        request := { throttle := 0, direction := s.traction.direction, functions := 0 }
        lease := .none, failsafe := false, repeats := [], zone := z.radio.zone
        passage := { zone := 0, horn := false, station := false }, station := .none
        receiver := .hunt, gap := none } } := by
    generalize z.free = F at hze ⊢
    generalize z.radio.zone = Z at hze ⊢
    rw [← hx, hze, ← hy]
    rfl
  clear hx hze hz
  have hstop : stopCommand d.traction = (match d.traction.stopMode with | .brake => .brake | .coast => .coast) := rfl
  have hu : x.tractionEnterRun = { s with
        free := z.free
        port := { s.port with run := .run, start := none, startFault := .ok }
        sets := { s.sets with
          chain := [{ index := j.baseIndex, resume := none }], cache := some d, clamped := clamped }
        traction := { s.traction with
          t := 0, c := 0, i := 0, u := 0, prev := 0, zeroHold := 0, latch := false, pending := false
          state := .stopped, lowest := min s.traction.lowest
            { s.bridges with
              held := stopCommand d.traction
              a := (s.bridges.hand s.clock (stopCommand d.traction)).a
              b := (s.bridges.hand s.clock (stopCommand d.traction)).b }.drivenDuty }
        bridges := { s.bridges with
          held := stopCommand d.traction
          a := (s.bridges.hand s.clock (stopCommand d.traction)).a
          b := (s.bridges.hand s.clock (stopCommand d.traction)).b }
        radio := { s.radio with
          request := { throttle := 0, direction := s.traction.direction, functions := 0 }
          lease := .none, failsafe := false, repeats := [], zone := z.radio.zone
          passage := { zone := 0, horn := false, station := false }, station := .none
          receiver := .hunt, gap := none } } := by
    unfold State.tractionEnterRun
    simp only [State.handCommand_eq]
    rw [hxe]
    rfl
  have ht := s.bridges.hand_taken s.clock (stopCommand d.traction)
  rw [bridgesTaken, BridgeUnit.hand_held] at ht
  generalize hA : (s.bridges.hand s.clock (stopCommand d.traction)).a = A at hu ht
  generalize hB : (s.bridges.hand s.clock (stopCommand d.traction)).b = B at hu ht
  generalize hU : x.tractionEnterRun = u at hu hent
  have huw : u.xm.wf = true := by rw [hu]; exact h
  have huv : voicesLawful u := by rw [hu]; exact hv
  obtain ⟨hstopped, hvv⟩ := u.soundStop_stopped huw huv
  have hvw := u.soundStop_wf huw
  have hsnd : u.soundEnterRun = u.soundStop.startEngine := rfl
  rw [hsnd] at hent
  generalize u.soundStop = v at hstopped hvv hvw hent
  have hg := v.startOrFault_given 0 d.sound.engineClip .engine
    { volume := none, pitch := some (enginePitch v), repeats := .endless, priority := 3, starter := .engine }
    hvw hvv (by decide) (by decide)
  have hvset : v.soundSet = d.sound := by
    rw [hstopped.2, hu]; rfl
  have hcount : v.sound.startCount = s.sound.startCount := by
    rw [hstopped.2, hu]
  have hpitch : enginePitch v = max 0x40 (min 0x400 (d.sound.basePitch
            + (if s.motion.sensor = .ok then s.motion.m else 0) * d.sound.slope / 4096)) := by
    have e1 : engineRate v = if s.motion.sensor = .ok then s.motion.m else 0 := by
      unfold engineRate
      rw [show v.motion = s.motion by rw [hstopped.2, hu], show v.traction.c = 0 by rw [hstopped.2, hu]]
      cases s.motion.sensor <;> rfl
    unfold enginePitch
    rw [hvset, e1]
    rfl
  have hw : v.startEngine = v.startOrFault 0 d.sound.engineClip .engine
    { volume := none, pitch := some (enginePitch v), repeats := .endless, priority := 3, starter := .engine } := by
    unfold State.startEngine; rw [hvset]
  rw [← hw, hpitch, hcount] at hg
  generalize v.startEngine = w at hg hent
  have hsilent : (v.sound.voice 0).sounds = false := by
    have : (v.sound.voice 0).state = .idle := by
      obtain ⟨a, b, c, d, e, f, g, i, hlist⟩ := eight_voices huv.1
      rw [hstopped.2]
      simp [Sound.voice, hlist]
    simp [Voice.sounds, this]
  have hsame : sameBut s.xm (s.enterRun j).xm inSegments := by
    have h1 : sameBut u.xm v.xm inSegments := voicesStopped_same huv hstopped
    have h2 : w.xm = v.xm := (voiceGiven_xm hg).trans (v.stopVoice_silent 0 hsilent)
    have h3 : u.xm = s.xm := by rw [hu]
    rw [hent]
    show sameBut s.xm w.xm inSegments
    rw [h2, ← h3]
    exact h1
  refine ⟨⟨u, v, w, ?_, ?_, ?_, hstopped, hg, hent⟩, hsame⟩
  · rw [hu]; exact ht
  · rw [hu]; exact hzs
  · conv => lhs; rw [hu]
    rw [hu]
    rfl

/-- A bridge that was at rest already when it goes OFF. -/
theorem Bridge.rest_off (b : Bridge) (now : Nat) (x : BridgeState) (n : Nat) :
    ({ b.rest now x Gates.none with shortRun := n } : Bridge).rest now .off Gates.none = b.rest now .off Gates.none := by
  simp only [Bridge.rest, Bridge.ask, Bridge.noPhase, Gates.none, highNext, lowNext, offTime]
  simp

/-- The bridges of a teardown go OFF by way of COAST (R84, R100). -/
theorem BridgeUnit.teardown_eq (u : BridgeUnit) (now : Nat) :
    ((u.hand now .coast).releaseAll now).hand now .off = { u with
      held := .off, a := u.a.rest now .off Gates.none
      b := if u.cfg.mode = .parallel then u.b.rest now .off Gates.none else u.b.release now .coast } := by
  have hone : ∀ b : Bridge, ((if Command.coast = u.held then b else b.take u.cfg now .coast).release now .coast).take
      u.cfg now .off = b.rest now .off Gates.none := by
    intro b
    have hlatch : ∀ c : Bridge, c.state = .latched →
        (c.release now .coast).take u.cfg now .off = c.rest now .off Gates.none := by
      intro c hc
      simp only [Bridge.release, hc, if_true]
      exact Bridge.rest_off c now .coast 0
    have hfree : ∀ c : Bridge, c.state ≠ .latched →
        (c.release now .coast).take u.cfg now .off = c.rest now .off Gates.none := by
      intro c hc
      simp only [Bridge.release, hc, if_false, Bridge.take]
      rfl
    by_cases hl : b.state = .latched
    · have : (if Command.coast = u.held then b else b.take u.cfg now .coast) = b := by
        split
        · rfl
        · simp [Bridge.take, hl]
      rw [this]
      exact hlatch b hl
    · split
      · exact hfree b hl
      · have ht : b.take u.cfg now .coast = b.rest now .coast Gates.none := by simp [Bridge.take, hl]
        rw [ht, hfree _ (by simp [Bridge.rest, Bridge.ask])]
        exact Bridge.rest_off b now .coast 0
  have hb : ∀ v : BridgeUnit, v.held = .coast → v.hand now .off = { v with
      held := .off, a := v.a.take v.cfg now .off
      b := if v.cfg.mode = .parallel then v.b.take v.cfg now .off else v.b } := by
    intro v hv
    unfold BridgeUnit.hand
    rw [if_neg (by rw [hv]; decide)]
    simp only [BridgeUnit.configured, decide_eq_true_eq]
  have hc : ∀ v : BridgeUnit, v.hand now .coast = { v with
      held := .coast, a := if Command.coast = v.held then v.a else v.a.take v.cfg now .coast
      b := if Command.coast = v.held then v.b else if v.cfg.mode = .parallel then v.b.take v.cfg now .coast else v.b } := by
    intro v
    unfold BridgeUnit.hand
    split
    · rename_i e; simp [e]
    · simp only [BridgeUnit.configured, decide_eq_true_eq]
  rw [hb _ (by simp [BridgeUnit.releaseAll])]
  simp only [BridgeUnit.releaseAll, hc, hone]
  cases hm : u.cfg.mode
  · simp
    exact hone u.b
  · simp

/-- The end of a run keeps whatever it does not name; of the radio command unit it changes what the lease and the station
stop hold. -/
theorem State.endRun_kept (s : State) (outcome : OutcomeCode) (h : s.xm.wf = true) (hv : voicesLawful s)
    (hr : runSlot s) : ∃ lease failsafe station request, (s.endRun outcome).radio =
      { s.radio with lease := lease, failsafe := failsafe, station := station, request := request } := by
  have hc := (s.endRun_closed outcome h hv hr).1
  cases hb : s.balance.run with
  | none => exact ⟨_, _, _, _, by rw [hc.1 hb]⟩
  | some r =>
    obtain ⟨x, -, -, hx, hx', -⟩ := hc.2 r hb
    exact ⟨_, _, _, _, by rw [hx'.2.2.2.2.2, hx]⟩

/-- A teardown (R12). -/
theorem State.teardown_down (s : State) (h : s.xm.wf = true) (hv : voicesLawful s) (hr : runSlot s) :
    tornDown s s.teardown ∧ sameBut s.xm s.teardown.xm (inRunEnd s) := by
  generalize hx : s.onPort (fun p => { p with run := .quiet, teardownPending := false }) = x
  generalize hu : x.tractionTeardown = u
  have hue : u = { s with
        port := { s.port with run := .quiet, teardownPending := false }
        traction := { s.traction with
          t := 0, c := 0, i := 0, u := 0, prev := 0, zeroHold := 0, latch := false, pending := false
          state := .quiet, lowest := 0 }
        bridges := { s.bridges with
          held := .off, a := s.bridges.a.rest s.clock .off Gates.none
          b := if s.bridges.cfg.mode = .parallel then s.bridges.b.rest s.clock .off Gates.none
            else s.bridges.b.release s.clock .coast } } := by
    have hcoast : ∀ v : BridgeUnit, v.held = .coast → v.drivenDuty = 0 := by
      intro v hv; simp [BridgeUnit.drivenDuty, hv]
    have hoff : ∀ v : BridgeUnit, v.held = .off → v.drivenDuty = 0 := by
      intro v hv; simp [BridgeUnit.drivenDuty, hv]
    rw [← hu, ← s.bridges.teardown_eq s.clock, ← hx]
    simp only [State.tractionTeardown, State.handCommand, State.noteDuty, State.onTraction, State.onBridges, State.onPort,
      hcoast _ (BridgeUnit.hand_held _ _ _), hoff _ (BridgeUnit.hand_held _ _ _), Nat.min_zero]
    rfl
  have huw : u.xm.wf = true := by rw [hue]; exact h
  have huv : voicesLawful u := by rw [hue]; exact hv
  have hur : runSlot u := by rw [hue]; exact hr
  obtain ⟨hend, hvv⟩ := u.endRun_closed .aborted huw huv hur
  obtain ⟨lease, failsafe, station, request, hrad⟩ := u.endRun_kept .aborted huw huv hur
  obtain ⟨-, e1, e2, -, e3, -, e4, -⟩ := u.endRun_frame .aborted
  have hvw := u.endRun_wf .aborted huw
  have ht : s.teardown = ((((u.endRun .aborted).soundStop.onLamps fun l => l.teardown
      (u.endRun .aborted).soundStop.clock).emptyZone.onRadio Radio.teardown).onSets fun m =>
        { m with chain := [], cache := none, clamped := false }).raise .control := by
    rw [← hu, ← hx]; rfl
  generalize u.endRun .aborted = v at hend hvv hrad e1 e2 e3 e4 hvw ht
  obtain ⟨hstop, -⟩ := v.soundStop_stopped hvw hvv
  have hux : u.xm = s.xm := by rw [hue]
  have hub : u.balance = s.balance := by rw [hue]
  have hsame : sameBut s.xm v.soundStop.xm (inRunEnd s) := by
    have h1 : sameBut u.xm v.xm (inRunEnd u) := runClosed_same hend
    have h2 := voicesStopped_same hvv hstop
    unfold inRunEnd at h1 ⊢
    rw [hux, hub] at h1
    exact sameBut_trans h1 (sameBut_weaken h2 fun a ha => .inr ha)
  generalize v.soundStop = w at hstop ht hsame
  have hwl : w.lamps = s.lamps := by rw [hstop.2, e4, hue]
  have hwc : w.clock = s.clock := by rw [hstop.2, e1, hue]
  have hwf : w.free = s.free := by rw [hstop.2, e2, hue]
  have hws : w.sets = s.sets := by rw [hstop.2, e3, hue]
  have hwz : w.radio.zone = s.radio.zone := by rw [hstop.2, hrad, hue]
  obtain ⟨hz, hze⟩ := (w.onLamps fun l => l.teardown w.clock).emptyZone_emptied
  generalize (w.onLamps fun l => l.teardown w.clock).emptyZone = z at hz hze ht
  have hzs : zoneEmptied s z := ⟨hz.1, fun c => by
    have := hz.2 (by rw [← hwz] at c; exact c)
    exact ⟨this.1.trans hwz, this.2.trans hwf⟩⟩
  have hze' : z = { w with
      free := z.free, lamps := s.lamps.teardown s.clock, radio := { w.radio with zone := z.radio.zone } } := by
    rw [hze, ← hwl, ← hwc]
    rfl
  clear hze
  obtain ⟨hz1, hz2⟩ := hzs
  generalize z.free = F at hze' hz2
  generalize z.radio.zone = Z at hze' hz1 hz2
  have hte : s.teardown = { w with
      free := F, port := withNotice w.port [.control]
      sets := { s.sets with chain := [], cache := none, clamped := false }
      lamps := s.lamps.teardown s.clock
      radio := { w.radio with
          lease := .none, failsafe := false, zone := Z
          passage := { zone := 0, horn := false, station := false }, station := .none
          receiver := .hunt, gap := none, waiting := [], handling := none, service := none } } := by
    rw [ht, hze', ← hws]
    rfl
  have hleg : fanLawful s → (s.lamps.fan.driveAt s.clock s.lamps.fan.periodStart 0).leg.high = false := by
    intro hl
    have h1 : s.lamps.fan.periodStart ≤ s.clock := Nat.le_trans hl.1 hl.2.1
    have : decide (s.clock < s.lamps.fan.periodStart + onPhase 0) = false := by
      simp only [onPhase]; exact decide_eq_false (by omega)
    simp only [Fan.driveAt, this]
    rfl
  refine ⟨⟨u, v, w, ?_, fun c => ?_, fun c c' => ?_, ?_, hend, hstop, ?_, ?_, ?_⟩, by rw [hte]; exact hsame⟩
  · rw [hue]
    exact Bridge.rest_rests _ _ _
  · rw [hue]
    simp only [c, if_true]
    exact Bridge.rest_rests _ _ _
  · rw [hue]
    simp [c, Bridge.release, c']
  · conv => lhs; rw [hue]
    rw [hue]
  · rw [hte]
    exact ⟨hz1, hz2⟩
  · rw [hte]
    exact hleg
  · rw [hte]
    rfl

end Sys2Proof.Machine
end

