-- ==== Sys2Proof/Tests/Slice0.lean ====
section
/-! SUPPORT. Tests: the checks of WellFormed refuse what is ill formed; values that the manual itself gives or
that follow from its formulas by hand; and, for each statement with hypotheses, a state and operands that
meet them (theorems `test_hyps_…`, one line for each clause). -/

namespace Sys2Proof.Tests

open Sys2Proof Sys2Proof.Machine Sys2Proof.Safety

/-! ## Helpers -/

/-- A part in RUN on set 0, STOPPED, with two READY slots and two VALID drive sets in memory. -/
def onTrack : State :=
  { State.reset with
    xm := [(0x200, 1), (0x201, 14), (0x9C0, 1), (0x9C1, 1), (0xA00, 0x5A), (0xB00, 0x5A)]
    port := { Port.atReset with run := .run }
    sets := { SetManager.atReset with
      chain := [{ index := 0, resume := none }], cache := some (loadDriveSet [(0xA00, 0x5A)] 0xA00) }
    traction := { Traction.atReset with state := .stopped }
    bridges := { BridgeUnit.atReset with held := .brake } }

def order (kind : Nat) (params : List Byte) : TakenOrder := { slot := 31, kind := kind, tag := 0, params := params, load := none }

/-- The order engine of `s` has an order in hand. -/
def withOrder (s : State) (kind : Nat) (params : List Byte) : State :=
  { s with orders := { s.orders with
      held := [31], sweep := some { pos := 32, copy := none, current := some (order kind params) } } }

def frame (cls kind : Nat) (payload : List Byte) : Frame :=
  { sender := 5, cls := cls, target := 3, seq := 1, kind := kind, payload := payload }

/-- The radio command unit of `s`, at the address 3, has a frame in hand. -/
def withFrame (s : State) (f : Frame) : State :=
  { s with radio := { s.radio with
      cfg := { s.radio.cfg with own := 3 }, handling := some f } }

def withLease (s : State) (l : Lease) : State := { s with radio := { s.radio with lease := l } }

/-- The part on its track with the emergency-stop latch set. -/
def latched : State := { onTrack with traction := { onTrack.traction with latch := true, state := .estop } }

def aRun : BalanceRun where
  held := false
  slot := 4
  steps := 1
  duties := [64]
  holdTime := 1
  direction := .forward
  step := 1
  driving := false
  period := 0
  sum := 0
  count := 0
  rates := []
  adjusted := false
  heldTimer := none
  written := 0

def withRun (s : State) (r : BalanceRun) : State := { s with balance := { run := some r } }

def withAction (s : State) (a : SetAction) : State := { s with sets := { s.sets with queue := [a] } }

/-- An action whose load has begun, of the order in slot 31. -/
def action (kind : SetActionKind) (index : Nat) : SetAction :=
  { kind := kind, index := index, level := 0, source := .order 31, load := some (TableLoad.ofSet index) }

/-- The queue of one action from the order in slot 31 or from a frame answers at most that slot. -/
theorem alone (s : State) (a : SetAction) (l : s.radio.logIndex < 64) (h : ∀ n, a.source = .order n → n < 32) :
    queueSlots (withAction s a) := by
  refine ⟨l, ?_, List.pairwise_singleton _ _⟩
  intro b hb n hn
  have : b = a := by simpa [withAction] using hb
  subst this
  exact h n hn
theorem from_31 {n : Nat} (h : Requestor.order 31 = .order n) : n < 32 := by
  cases h
  decide

theorem idle_voices (s : State) (h : s.sound.voices = List.replicate 8 Voice.idle) : voicesLawful s := by
  refine ⟨by rw [h]; rfl, fun v hv => Or.inl ?_⟩
  rw [h] at hv
  rw [List.eq_of_mem_replicate hv]
  rfl

/-! ## WellFormed -/

/-- A transaction whose first byte is a command byte is none of an unknown one (R1). -/
theorem test_wf_refuses_known_command_byte : (Instr.invalidCommand 1 0).wellFormed = false := by decide
/-- CONTROL is no register without effect (R3). -/
theorem test_wf_refuses_control_as_other_register : (Instr.registerWriteOther 1 0).wellFormed = false := by
  decide
/-- No die temperature above 200 is read (R184). -/
theorem test_wf_refuses_die_201 : (Instr.dieTemperatureExpiry 201).wellFormed = false := by decide

/-! ## Values from the manual -/

set_option maxRecDepth 8000 in
/-- R117: the check value of the nine digits 1 to 9, as the manual states it. -/
theorem test_crc_of_the_digits :
    crc [0x31, 0x32, 0x33, 0x34, 0x35, 0x36, 0x37, 0x38, 0x39] = 0x29B1 := by decide
set_option maxRecDepth 4000 in
/-- R164: after ACE1H the register holds 59C3H. -/
theorem test_lfsr_first_value :
    (match exec .effectTimerExpiry State.reset with
      | .next t => t.lamps.lfsr
      | .fault _ | .refused _ => 0) = 0x59C3 := by decide
/-- R7: the identity the host reads. -/
theorem test_id_bytes : (registerAnswer State.reset 0 4).drop 3 = [0x40, 0x54, 0x01, 0x00] := by decide
/-- R62: the curve 32, 64, ... at throttle 16, half way from 0 to the first point. -/
theorem test_curve_half_way : rawTarget [32, 64, 96, 128, 160, 192, 224, 256] 16 = 16 := by decide

/-- R91, R94: the running chop flag outlives the latch, which reports a clear flag. -/
theorem test_latch_keeps_running_chop :
    ({ Bridge.atReset with chopRunning := true, chopFlag := true }.latch 0).chopRunning = true
      ∧ ({ Bridge.atReset with chopRunning := true, chopFlag := true }.latch 0).chopFlag = false := by decide
/-- R181: the high side waits 512 units of 1/1024 us after the low side's turn-off. -/
theorem test_fan_dead_time :
    let g : FanLeg := { high := false, low := false, highOff := none, lowOff := some 0 }
    (g.ask 511 true).high = false ∧ (g.ask 512 true).high = true := by decide
/-- R43: the result of a SET_ACTION that ends NOT_RUNNING in QUIET. -/
theorem test_not_running_result : refusalResult State.reset 4 = [0, 0xFF, 0xFF, 0xFF, 0xFF] := by decide

/-! ## Steps and the host port -/

theorem test_hyps_step : ({ State.reset with pending := [.sweepEnd] } : State).pending = .sweepEnd :: [] := rfl
theorem test_hyps_idle :
    State.reset.xm.wf = true ∧ State.reset.pending = [] ∧ State.reset.port.start = none
      ∧ State.reset.port.reset = none := by decide
theorem test_hyps_write_memory :
    State.reset.xm.wf = true
      ∧ (∀ j, 1 < j → j < 2 → ((0xFFFF : BitVec 16).toNat + j) % 65536 ≠ ((0xFFFF : BitVec 16).toNat + 1) % 65536)
      ∧ ∀ k, k < 2 → ((0xFFFF : BitVec 16).toNat + k) % 65536 ≠ 1 % 65536 := by
  refine ⟨by decide, ?_, by decide⟩
  intro j h g
  omega
theorem test_hyps_ignored :
    (Instr.invalidCommand 0 0).wellFormed = true ∧ (Instr.registerWriteOther 0 7).wellFormed = true
      ∧ (Instr.registerWriteOther 5 7).wellFormed = true := by decide
theorem test_hyps_attn : ∃ t, exec (.noticeMaskWrite 0xFF) State.reset = .next t := ⟨_, rfl⟩

/-! ## Sweeps and slots -/

def sweeping (pos : Nat) : State :=
  { onTrack with orders := { onTrack.orders with sweep := some { pos := pos, copy := none, current := none } } }

/-- R6, R18: the sweep passes over the held slots 0 and 1 without an access, and waits for none when all are held. -/
theorem test_held_slots_cost_no_access :
    sweepReads { (sweeping 0) with orders := { (sweeping 0).orders with held := [0, 1] } }
        { pos := 0, copy := none, current := none } = some 2
      ∧ sweepWaits { (sweeping 0) with orders := { (sweeping 0).orders with held := List.range 32 } } = false := by
  decide
theorem test_hyps_sweeps :
    (State.reset.port.reset = none ∧ State.reset.orders.sweep = none ∧ (sweeping 0).port.reset = none
      ∧ (sweeping 0).orders.sweep ≠ none)
    ∧ (∃ j, ({ State.reset with port := { Port.atReset with
        reset := some { todo := [], sweepRequest := false, startRequest := false } } } : State).port.reset
          = some j)
    ∧ State.reset.timers.sweep = some (8 * 1024000)
    ∧ (∃ w, (sweeping 32).orders.sweep = some w ∧ w.current = none
      ∧ (∀ a ∈ (sweeping 32).sets.queue, ∀ n, a.source ≠ .order n)
      ∧ ∀ n, w.pos ≤ n → n < 32 → n ∉ (sweeping 32).orders.held
        → (sweeping 32).xm.read (0x200 + 64 * n) ≠ 1) :=
  ⟨by decide, ⟨_, rfl⟩, rfl, ⟨_, rfl, rfl, fun a ha => (by cases ha), fun n h g => by
    have : 32 ≤ n := h
    omega⟩⟩

theorem sweep_at (pos n : Nat) (h : pos ≤ n ∧ n < 32) (r : onTrack.xm.read (0x200 + 64 * n) = 1)
    (e : ∀ k, pos ≤ k → k < n → onTrack.xm.read (0x200 + 64 * k) ≠ 1) :
    sweepBefore (sweeping pos) { pos := pos, copy := none, current := none } n [] := by
  refine ⟨rfl, rfl, ?_, h.2, Or.inr ⟨rfl, rfl, h.1, ?_, r, fun k a b => Or.inr (e k a b)⟩⟩
  · intro a ha
    cases ha
  · intro ha
    cases ha
/-- A sweep that has copied some bytes of slot 0. -/
def copying (s : State) (copied : List Byte) : State :=
  { s with orders := { s.orders with sweep := some { pos := 0, copy := some copied, current := none } } }
theorem copying_at (s : State) (copied : List Byte) (q : s.sets.queue = []) (l : copied.length ≤ 40) :
    sweepBefore (copying s copied) { pos := 0, copy := some copied, current := none } 0 copied := by
  refine ⟨rfl, rfl, ?_, by decide, Or.inl ⟨rfl, rfl, l⟩⟩
  intro a ha
  rw [show (copying s copied).sets.queue = [] from q] at ha
  cases ha
/-- Slot 0 holds kind 14, slot 31 kind 1; with nothing copied, two bytes and all 40; and a slot that is FREE by
then. -/
theorem test_hyps_slot_take :
    (sweeping 0).xm.wf = true ∧ sweepBefore (sweeping 0) { pos := 0, copy := none, current := none } 0 []
      ∧ ((slotCopy (sweeping 0) 0 []).getD 1 0).toNat = 14 ∧ (sweeping 0).isRun = true
      ∧ (sweeping 0).xm.read (0x200 + 64 * 0) = 1
      ∧ sweepBefore (sweeping 1) { pos := 1, copy := none, current := none } 31 []
      ∧ ((slotCopy (sweeping 1) 31 []).getD 1 0).toNat = 1
      ∧ sweepBefore (copying onTrack [1, 13]) { pos := 0, copy := some [1, 13], current := none } 0 [1, 13]
      ∧ ((slotCopy (copying onTrack [1, 13]) 0 [1, 13]).getD 1 0).toNat = 13
      ∧ sweepBefore (copying onTrack (List.replicate 40 1))
          { pos := 0, copy := some (List.replicate 40 1), current := none } 0 (List.replicate 40 1)
      ∧ ((slotCopy (copying onTrack (List.replicate 40 1)) 0 (List.replicate 40 1)).getD 1 0).toNat = 1
      ∧ sweepBefore (copying State.reset [1]) { pos := 0, copy := some [1], current := none } 0 [1]
      ∧ (copying State.reset [1]).xm.read (0x200 + 64 * 0) ≠ 1 :=
  ⟨by decide, sweep_at 0 0 (by decide) (by decide) (fun k _ h => by omega), by decide, by decide, by decide,
    sweep_at 1 31 (by decide) (by decide) (by
      intro k h g
      have : ∀ k, k < 31 → 1 ≤ k → onTrack.xm.read (0x200 + 64 * k) ≠ 1 := by decide
      exact this k g h), by decide,
    copying_at _ _ rfl (by decide), by decide, copying_at _ _ rfl (by decide), by decide,
    copying_at _ _ rfl (by decide), by decide⟩
/-- An unknown kind 15 and a kind 0 in RUN; a kind 1 and a kind 5 in QUIET. -/
theorem test_hyps_slot_take_refuses :
    ∀ c ∈ ([([1, 15], onTrack.port), ([1, 0], onTrack.port), ([1, 1], Port.atReset), ([1, 5], Port.atReset)] :
        List (List Byte × Port)),
      ∃ (s : State) (w : Sweep) (copied : List Byte), s.xm.wf = true ∧ sweepBefore s w 0 copied
        ∧ s.xm.read (0x200 + 64 * 0) = 1 ∧ 0 ∉ s.orders.held
        ∧ ∃ k, ((slotCopy s 0 copied).getD 1 0).toNat = k
          ∧ (k = 0 ∨ 14 < k ∨ (s.isRun = false ∧ k ≠ 13)) := by
  intro c hc
  refine ⟨copying { onTrack with port := c.2 } c.1, _, c.1, show onTrack.xm.wf = true by decide,
    copying_at _ _ rfl ?_, show onTrack.xm.read (0x200 + 64 * 0) = 1 by decide, ?_, _, rfl, ?_⟩
  · fin_cases hc <;> decide
  · intro h
    cases h
  · fin_cases hc
    · exact Or.inr (Or.inl (by decide))
    · exact Or.inl (by decide)
    · exact Or.inr (Or.inr (by decide))
    · exact Or.inr (Or.inr (by decide))

/-! ## Orders -/

theorem in_hand (s : State) (k : Nat) (p : List Byte) : orderTaken (withOrder s k p) (order k p) :=
  ⟨_, rfl, rfl, show 31 < 32 by decide⟩

theorem test_hyps_throttle_order :
    (withOrder onTrack 1 [1]).xm.wf = true ∧ (withOrder onTrack 1 [1]).isRun = true
      ∧ orderTaken (withOrder onTrack 1 [1]) (order 1 [1])
      ∧ (withLease onTrack (.onBoard true)).radio.lease = .onBoard true
      ∧ (withLease onTrack (.radio 1 0 0)).radio.lease = .radio 1 0 0
      ∧ (withOrder onTrack 1 [1]).radio.lease = .none ∧ param8 (order 1 [1]).params 0 ≠ 0
      ∧ (withLease onTrack (.onBoard false)).radio.lease = .onBoard false
      ∧ param8 (order 1 []).params 0 = 0 ∧ onTrack.traction.latch = false :=
  ⟨by decide, by decide, in_hand _ _ _, by decide⟩
/-- The latch set in ESTOP, with a station stop; then what each state of the chain of R73 asks for. -/
theorem test_hyps_throttle_zero :
    (∃ s : State, s.xm.wf = true ∧ s.isRun = true ∧ orderTaken s (order 1 []) ∧ s.radio.lease = .none
      ∧ param8 (order 1 []).params 0 = 0 ∧ s.traction.latch = true ∧ s.balance.run = none ∧ voicesLawful s
      ∧ s.bridges.allLatched = false ∧ s.supply.shed < 4 ∧ s.traction.pending = false ∧ s.traction.c = 0
      ∧ s.traction.lastM = 0 ∧ s.traction.state = .estop ∧ s.radio.station = .braking (frame 2 5 []))
    ∧ (withLease onTrack (.onBoard false)).radio.lease = .onBoard false
    ∧ ({ onTrack.bridges with
          a := { onTrack.bridges.a with state := .latched }
          b := { onTrack.bridges.b with state := .latched } } : BridgeUnit).allLatched = true
    ∧ 4 ≤ ({ onTrack.supply with shed := 4 } : Supply).shed
    ∧ ({ onTrack.traction with pending := true } : Traction).pending = true
    ∧ 0 < ({ onTrack.traction with c := 1 } : Traction).c :=
  ⟨⟨withOrder { onTrack with
      traction := { onTrack.traction with latch := true, state := .estop }
      radio := { onTrack.radio with station := .braking (frame 2 5 []) } } 1 [], by decide, by decide,
    in_hand _ _ _, by decide, by decide, by decide, by decide, idle_voices _ rfl, by decide⟩, by decide⟩
theorem test_hyps_functions :
    (withOrder onTrack 2 []).xm.wf = true ∧ (withOrder onTrack 2 []).isRun = true
      ∧ orderTaken (withOrder onTrack 2 []) (order 2 []) ∧ voicesLawful (withOrder onTrack 2 [])
      ∧ param32 (order 2 []).params 0 = 0 ∧ onTrack.lamps.heater.working = false :=
  ⟨by decide, by decide, in_hand _ _ _, idle_voices _ rfl, by decide⟩
/-- By order and by frame; with a station stop and with a balance run; a STOP frame with a payload. -/
theorem test_hyps_emergency_stop :
    (withOrder onTrack 3 []).xm.wf = true ∧ (withOrder onTrack 3 []).isRun = true
      ∧ orderTaken (withOrder onTrack 3 []) (order 3 []) ∧ (withOrder onTrack 3 []).balance.run = none
      ∧ frameInHand (withFrame onTrack (frame 2 3 [0])) (frame 2 3 [0]) 3
      ∧ orderTaken (withOrder (withRun onTrack aRun) 3 []) (order 3 []) ∧ voicesLawful (withRun onTrack aRun)
      ∧ (withFrame onTrack (frame 2 3 [])).radio.handling = some (frame 2 3 []) ∧ (frame 2 3 []).payload = []
      ∧ (withFrame onTrack (frame 2 3 [])).radio.logIndex < 64
      ∧ (withFrame onTrack (frame 2 3 [])).radio.station = .none
      ∧ ({ onTrack.radio with station := .braking (frame 2 5 []) } : Radio).station = .braking (frame 2 5 [])
      ∧ ({ onTrack.radio with station := .dwell (frame 2 5 []) 9 } : Radio).station = .dwell (frame 2 5 []) 9
      ∧ (withFrame (withRun onTrack aRun) (frame 2 3 [])).balance.run = some aRun
      ∧ (frame 2 3 [0]).payload ≠ [] ∧ (withOrder (withRun onTrack aRun) 3 []).balance.run = some aRun
      ∧ aRun.slot < 32 ∧ aRun.slot ≠ (order 3 []).slot ∧ (withOrder onTrack 3 []).radio.logIndex < 64
      ∧ (withOrder onTrack 3 []).radio.station = .none :=
  ⟨by decide, by decide, in_hand _ _ _, by decide, ⟨by decide, by decide, rfl, rfl⟩, in_hand _ _ _,
    idle_voices _ rfl, by decide⟩
theorem test_hyps_lease_orders :
    (withOrder onTrack 14 []).xm.wf = true ∧ (withOrder onTrack 14 []).isRun = true
      ∧ orderTaken (withOrder onTrack 14 []) (order 14 []) ∧ param8 (order 14 []).params 0 = 0
      ∧ orderTaken (withOrder (withLease onTrack (.onBoard false)) 14 [1]) (order 14 [1])
      ∧ param8 (order 14 [1]).params 0 = 1
      ∧ (withLease onTrack (.onBoard false)).radio.lease = .onBoard false
      ∧ (withLease onTrack (.onBoard true)).radio.lease = .onBoard true
      ∧ (withLease onTrack (.radio 7 0 0)).radio.lease = .radio 7 0 0
      ∧ (withLease onTrack (.radio 7 1 0)).radio.lease = .radio 7 1 0 ∧ onTrack.radio.lease = .none
      ∧ 1 < param8 (order 14 [2]).params 0 ∧ onTrack.traction.latch = false :=
  ⟨by decide, by decide, in_hand _ _ _, by decide, in_hand _ _ _, by decide⟩
/-- A release by the host, and a THROTTLE frame of throttle 0, under the emergency-stop latch. -/
theorem test_hyps_release_under_latch :
    voicesLawful latched ∧ latched.traction.latch = true
      ∧ orderTaken (withOrder (withLease latched (.onBoard false)) 14 [1]) (order 14 [1])
      ∧ (withLease latched (.onBoard false)).radio.lease = .onBoard false
      ∧ (withLease latched (.radio 5 2 0)).radio.lease = .radio 5 2 0
      ∧ param8 (frame 2 1 [0, 1]).payload 0 = 0 ∧ latched.xm.wf = true ∧ latched.isRun = true :=
  ⟨idle_voices _ rfl, by decide, in_hand _ _ _, by decide⟩

/-! ## Set manager -/

/-- SWITCH, INVOKE and RETURN with nothing in flight; a second action; a code above 2; set 8; RETURN on the base. -/
theorem test_hyps_set_action_order :
    (withOrder onTrack 4 [0, 7]).xm.wf = true ∧ (withOrder onTrack 4 [0, 7]).isRun = true
      ∧ orderTaken (withOrder onTrack 4 [0, 7]) (order 4 [0, 7]) ∧ onTrack.sets.queue = []
      ∧ param8 (order 4 [0, 7]).params 0 = 0 ∧ param8 (order 4 [0, 7]).params 1 = 7
      ∧ param8 (order 4 [1, 0]).params 0 = 1 ∧ param8 (order 4 [2]).params 0 = 2
      ∧ (withAction onTrack (action .invoke 1)).sets.queue ≠ []
      ∧ 2 < param8 (order 4 [3]).params 0
      ∧ onTrack.port.teardownPending = false ∧ onTrack.balance.run = none
      ∧ 7 < param8 (order 4 [1, 8]).params 1 ∧ onTrack.sets.chain.length ≤ 1
      ∧ 2 ≤ ([{ index := 0, resume := some onTrack.radio.request }, { index := 1, resume := none }]
          : List ChainEntry).length :=
  ⟨by decide, by decide, in_hand _ _ _, by decide⟩

theorem test_hyps_invoke :
    ∃ (s : State) (a : SetAction) (d : DriveSet) (clamped : Bool),
      s.xm.wf = true ∧ s.port.teardownPending = false ∧ s.sets.queue = a :: [] ∧ a.kind = .invoke
      ∧ queueSlots s ∧ voicesLawful s
      ∧ staged a s.xm = some (d, clamped) ∧ s.balance.run = none ∧ a.level ≤ d.authority ∧ d.valid = true
      ∧ s.sets.chain = [] ++ [{ index := 0, resume := none }] ∧ (∀ e ∈ s.sets.chain, e.index ≠ a.index)
      ∧ s.sets.chain.length < 4 :=
  ⟨withAction onTrack (action .invoke 1), action .invoke 1, _, _, by decide, by decide, by decide, by decide,
    alone _ _ (by decide) (fun _ => from_31), idle_voices _ rfl, rfl, by decide⟩
theorem test_hyps_switch :
    ∃ (s : State) (a : SetAction) (d : DriveSet) (clamped : Bool),
      s.xm.wf = true ∧ s.port.teardownPending = false ∧ s.sets.queue = a :: [] ∧ a.kind = .switch
      ∧ queueSlots s ∧ voicesLawful s
      ∧ staged a s.xm = some (d, clamped) ∧ s.balance.run = none ∧ a.level ≤ d.authority ∧ d.valid = true
      ∧ s.sets.chain = [] ++ [{ index := 0, resume := none }] ∧ ∀ e ∈ s.sets.chain, e.index ≠ a.index :=
  ⟨withAction onTrack (action .switch 1), action .switch 1, _, _, by decide, by decide, by decide, by decide,
    alone _ _ (by decide) (fun _ => from_31), idle_voices _ rfl, rfl, by decide⟩
/-- Set 0 with a resume record below set 1. -/
def onTwo : State :=
  { onTrack with sets := { onTrack.sets with
      chain := [{ index := 0, resume := some onTrack.radio.request }, { index := 1, resume := none }] } }
theorem test_hyps_return :
    ∃ (s : State) (a : SetAction) (d cached : DriveSet) (clamped : Bool) (next top : ChainEntry) (q : Request),
      s.xm.wf = true ∧ s.port.teardownPending = false ∧ s.sets.queue = a :: [] ∧ a.kind = .returnSet
      ∧ queueSlots s ∧ voicesLawful s
      ∧ staged a s.xm = some (d, clamped) ∧ s.balance.run = none ∧ s.sets.cache = some cached
      ∧ a.level ≤ cached.authority ∧ d.valid = true ∧ s.sets.chain = [] ++ [next, top] ∧ next.resume = some q :=
  ⟨withAction onTwo (action .returnSet 0), action .returnSet 0, _, _, _, _, _, _, by decide, by decide,
    by decide, by decide, alone _ _ (by decide) (fun _ => from_31), idle_voices _ rfl, rfl, by decide, rfl,
    by decide, by decide, rfl, rfl⟩
/-- A REFRESH_SET with nothing in flight, of a set that is VALID and of one that is not, and in a balance run; one
that finds an action in flight; and one in flight itself. -/
theorem test_hyps_refresh :
    (∃ (s : State) (top : ChainEntry),
      s.xm.wf = true ∧ s.isRun = true ∧ orderTaken s (order 5 []) ∧ s.port.teardownPending = false
      ∧ voicesLawful s ∧ s.sets.queue = [] ∧ s.balance.run = none ∧ s.sets.chain = [] ++ [top]
      ∧ s.sets.chain.getLast? = some top ∧ top.index ≤ 7
      ∧ s.xm.read (0xA00 + 256 * top.index) = 0x5A ∧ State.reset.xm.read (0xA00 + 256 * top.index) ≠ 0x5A
      ∧ (withRun s aRun).balance.run ≠ none)
    ∧ (orderTaken (withOrder (withAction onTrack (action .invoke 1)) 5 []) (order 5 [])
      ∧ (withOrder (withAction onTrack (action .invoke 1)) 5 []).sets.queue = action .invoke 1 :: []
      ∧ (action .invoke 1).kind ≠ .refresh)
    ∧ ∃ (s : State) (a : SetAction) (d : DriveSet) (clamped : Bool),
      s.xm.wf = true ∧ s.port.teardownPending = false ∧ s.sets.queue = a :: [] ∧ a.kind = .refresh
      ∧ s.orders.sweep = none ∧ queueSlots s ∧ voicesLawful s ∧ staged a s.xm = some (d, clamped)
      ∧ s.balance.run = none ∧ d.valid = true :=
  ⟨⟨withOrder onTrack 5 [], { index := 0, resume := none }, by decide, by decide, in_hand _ _ _, by decide,
      idle_voices _ rfl, by decide⟩,
    ⟨in_hand _ _ _, by decide⟩,
    ⟨withAction onTrack (action .refresh 1), action .refresh 1, _, _, by decide, by decide, by decide, by decide,
      rfl, alone _ _ (by decide) (fun _ => from_31), idle_voices _ rfl, rfl, by decide⟩⟩
/-- What every refusal needs of the action in flight. -/
def InFlight (s : State) (a : SetAction) (rest : List SetAction) (d : DriveSet) (clamped : Bool) : Prop :=
  s.xm.wf = true ∧ s.port.teardownPending = false ∧ s.sets.queue = a :: rest ∧ queueSlots s
    ∧ staged a s.xm = some (d, clamped)
/-- An action of level 1 from a SET frame. -/
def framed (kind : SetActionKind) (index : Nat) : SetAction :=
  { action kind index with level := 1, source := .frame (frame 1 4 [0, 1]) }
theorem framed_alone (s : State) (kind : SetActionKind) (index : Nat) (l : s.radio.logIndex < 64) :
    queueSlots (withAction s (framed kind index)) := alone _ _ l fun _ h => by cases h
/-- INVOKE and SWITCH: BUSY; a set that asks for more than its frame's sender has; set 2, not VALID; set 0, in the
chain; a fifth set. -/
theorem test_hyps_refused_invoke :
    (∃ s a d c, InFlight s a [] d c ∧ a.kind = .invoke ∧ s.balance.run ≠ none)
    ∧ (∃ s a d c, InFlight s a [] d c ∧ a.kind = .switch ∧ s.balance.run = none ∧ d.authority < a.level)
    ∧ (∃ s a d c, InFlight s a [] d c ∧ a.kind = .invoke ∧ s.balance.run = none ∧ a.level ≤ d.authority
        ∧ d.valid = false)
    ∧ (∃ s a d c, InFlight s a [] d c ∧ a.kind = .invoke ∧ s.balance.run = none ∧ a.level ≤ d.authority
        ∧ d.valid = true ∧ ∃ e ∈ s.sets.chain, e.index = a.index)
    ∧ ∃ s a d c, InFlight s a [] d c ∧ a.kind = .invoke ∧ s.balance.run = none ∧ a.level ≤ d.authority
        ∧ d.valid = true ∧ (∀ e ∈ s.sets.chain, e.index ≠ a.index) ∧ 4 ≤ s.sets.chain.length :=
  ⟨⟨withAction (withRun onTrack aRun) (action .invoke 1), _, _, _,
      ⟨by decide, rfl, rfl, alone _ _ (by decide) (fun _ => from_31), rfl⟩, rfl, by decide⟩,
    ⟨withAction onTrack (framed .switch 1), _, _, _,
      ⟨by decide, rfl, rfl, framed_alone _ _ _ (by decide), rfl⟩, rfl, rfl, by decide⟩,
    ⟨withAction onTrack (action .invoke 2), _, _, _,
      ⟨by decide, rfl, rfl, alone _ _ (by decide) (fun _ => from_31), rfl⟩, rfl, rfl, by decide⟩,
    ⟨withAction onTrack (action .invoke 0), _, _, _,
      ⟨by decide, rfl, rfl, alone _ _ (by decide) (fun _ => from_31), rfl⟩, rfl, rfl, by decide⟩,
    ⟨withAction { onTrack with sets := { onTrack.sets with
        chain := [⟨0, none⟩, ⟨2, none⟩, ⟨3, none⟩, ⟨4, none⟩] } } (action .invoke 1), _, _, _,
      ⟨by decide, rfl, rfl, alone _ _ (by decide) (fun _ => from_31), rfl⟩, rfl, rfl, by decide⟩⟩
/-- RETURN on the base, against the cached set's level, and to set 2, not VALID; REFRESH_SET of a set that is not VALID. -/
theorem test_hyps_refused_return_and_refresh :
    (∃ s a d c, InFlight s a [] d c ∧ a.kind = .returnSet ∧ s.balance.run = none ∧ s.sets.chain.length ≤ 1)
    ∧ (∃ s a d c top, InFlight s a [] d c ∧ a.kind = .returnSet ∧ s.balance.run = none
        ∧ 2 ≤ s.sets.chain.length ∧ s.sets.cache = some top ∧ top.authority < a.level)
    ∧ (∃ s a d c top, InFlight s a [] d c ∧ a.kind = .returnSet ∧ s.balance.run = none
        ∧ 2 ≤ s.sets.chain.length ∧ s.sets.cache = some top ∧ a.level ≤ top.authority ∧ d.valid = false)
    ∧ ∃ s a d c, InFlight s a [] d c ∧ a.kind = .refresh ∧ s.orders.sweep = none ∧ s.balance.run = none
        ∧ d.valid = false :=
  ⟨⟨withAction onTrack (action .returnSet 0), _, _, _,
      ⟨by decide, rfl, rfl, alone _ _ (by decide) (fun _ => from_31), rfl⟩, rfl, rfl, by decide⟩,
    ⟨withAction onTwo (framed .returnSet 0), _, _, _, _,
      ⟨by decide, rfl, rfl, framed_alone _ _ _ (by decide), rfl⟩, rfl, rfl, by decide, rfl, by decide⟩,
    ⟨withAction onTwo (action .returnSet 2), _, _, _, _,
      ⟨by decide, rfl, rfl, alone _ _ (by decide) (fun _ => from_31), rfl⟩, rfl, rfl, by decide, rfl, by decide⟩,
    ⟨withAction onTrack (action .refresh 2), _, _, _,
      ⟨by decide, rfl, rfl, alone _ _ (by decide) (fun _ => from_31), rfl⟩, rfl, rfl, rfl, by decide⟩⟩
/-- Behind a refused INVOKE wait one of set 8 and one of set 9, which load nothing, and behind those a SWITCH that loads.
-/
theorem test_hyps_refused_chain :
    ∃ s a b b' b'' d c, InFlight s a [b, b', b''] d c ∧ a.kind = .invoke ∧ s.balance.run = none
      ∧ a.level ≤ d.authority ∧ d.valid = false ∧ loadIndex s.sets b = none ∧ loadIndex s.sets b' = none
      ∧ loadIndex s.sets b'' ≠ none := by
  refine ⟨{ onTrack with sets := { onTrack.sets with
      queue := [action .invoke 2, { framed .invoke 8 with load := none }, { framed .switch 9 with load := none },
        { framed .switch 1 with load := none }] } },
    _, _, _, _, _, _, ⟨by decide, rfl, rfl, ⟨by decide, ?_, ?_⟩, rfl⟩, rfl, rfl, by decide⟩
  · intro a ha n hn
    fin_cases ha <;> cases hn
    decide
  · refine List.Pairwise.cons ?_ (List.Pairwise.cons ?_ (List.Pairwise.cons ?_ (List.pairwise_singleton _ _)))
    · intro b hb n _ hn
      fin_cases hb <;> cases hn
    · intro b hb n hn
      cases hn
    · intro b hb n hn
      cases hn

/-! ## Loads by order, sound, balance and protection orders -/

/-- A RADIO holder before its points; one whose points lie in the past, with the latch clear and set. -/
theorem test_hyps_loads :
    (withOrder onTrack 6 [255, 255]).xm.wf = true ∧ (withOrder onTrack 6 [255, 255]).isRun = true
      ∧ orderTaken (withOrder onTrack 6 [255, 255]) (order 6 [255, 255]) ∧ (order 6 [255, 255]).load = none
      ∧ orderTaken (withOrder onTrack 7 []) (order 7 []) ∧ onTrack.radio.lease.isRadio = false
      ∧ voicesLawful (withOrder onTrack 7 [])
      ∧ (withLease onTrack (.radio 7 0 0)).radio.lease = .radio 7 0 0
      ∧ onTrack.clock < 0 + 1024000 * (loadRadioConfig onTrack.xm).failsafeMs
      ∧ onTrack.clock < 0 + 1024000 * (loadRadioConfig onTrack.xm).leaseMs
      ∧ 0 + 1024000 * (loadRadioConfig onTrack.xm).leaseMs
          ≤ ({ onTrack with clock := 10240000000 } : State).clock
      ∧ onTrack.traction.latch = false ∧ latched.traction.latch = true :=
  ⟨by decide, by decide, in_hand _ _ _, by decide, in_hand _ _ _, by decide, idle_voices _ rfl, by decide⟩

/-- Clip 0 is a valid ONE_SHOT of four bytes at 2000H. -/
def withClip : State :=
  { onTrack with xm := [(0x1400, 1), (0x1403, 0x20), (0x1404, 4)] }
/-- Clip 1 is a valid STREAM of 16 bytes at 2000H with segment A FULL; clip 2 is not valid. -/
def withStream : State :=
  { onTrack with xm := [(0x1410, 1), (0x1411, 2), (0x1413, 0x20), (0x1414, 16), (0x141E, 1)] }
/-- A voice of the clip kind `kind`, 16 bytes long, at position `p`. -/
def voiceAt (kind p : Nat) : Voice :=
  { Voice.idle with
    state := .playing, position := p, step := 0x100, envelope := 255, volume := 255, starter := .order
    entry := { format := 1, kind := kind, start := 0x2000, length := 16, loopStart := 4, loopLength := 8
               basePitch := 0x100, volume := 255 } }
def busyVoices : Sound :=
  { Sound.atReset with voices := List.replicate 8 (voiceAt 1 0) }
theorem busy (n : Nat) (a : 2 ≤ n) (b : n ≤ 7) : (busyVoices.voice n).state ≠ .idle := by
  have : ∀ n, n < 8 → 2 ≤ n → (busyVoices.voice n).state ≠ .idle := by decide
  exact this n (by omega) a
/-- A named voice, and the lowest IDLE one. -/
theorem test_hyps_play :
    withClip.xm.wf = true ∧ withClip.isRun = true ∧ orderTaken (withOrder withClip 8 [0, 7]) (order 8 [0, 7])
      ∧ voicesLawful (withOrder withClip 8 [0, 7]) ∧ param8 (order 8 [0, 7]).params 0 ≤ 63
      ∧ playsOn onTrack.sound (param8 (order 8 [0, 7]).params 1) 0 7
      ∧ playsOn onTrack.sound (param8 (order 8 [0, 255]).params 1) 0 2
      ∧ (loadClip withClip.xm 0).valid = true ∧ (loadClip withClip.xm 0).kind ≠ 2
      ∧ 63 < param8 (order 8 [64, 7]).params 0 ∧ param8 (order 8 [0, 1]).params 1 < 2
      ∧ ∀ n, 2 ≤ n → n ≤ 7 → (busyVoices.voice n).state ≠ .idle ∧ 0 ≤ (busyVoices.voice n).priority :=
  ⟨by decide, by decide, in_hand _ _ _, idle_voices _ rfl, by decide,
    ⟨by decide, by decide, Or.inl (by decide)⟩,
    ⟨by decide, by decide, Or.inr (Or.inl ⟨by decide, by decide, fun k a b => by omega⟩)⟩,
    by decide, by decide, by decide, by decide, fun n a b => ⟨busy n a b, Nat.zero_le _⟩⟩
/-- Every pool voice sounds at priority 0, voice 5 started earliest: it is stolen at priority 1. -/
theorem test_hyps_play_steals :
    ∃ u : Sound, playsOn u 255 1 5 ∧ (∀ s : State, s.sound = u → voicesLawful s) := by
  refine ⟨{ busyVoices with
    startCount := 9, voices := busyVoices.voices.mapIdx fun k v => { v with stamp := if k = 5 then 1 else 9 } },
    ⟨by decide, by decide, Or.inr (Or.inr ⟨by decide, ?_, by decide, ?_⟩)⟩, ?_⟩
  · intro k a b
    have : ∀ k, k < 8 → 2 ≤ k → (Sound.voice { busyVoices with
        startCount := 9
        voices := busyVoices.voices.mapIdx fun k v => { v with stamp := if k = 5 then 1 else 9 } } k).state
          ≠ .idle := by decide
    exact this k (by omega) a
  · intro k a b c _
    have : ∀ u : Sound, u = { busyVoices with
        startCount := 9
        voices := busyVoices.voices.mapIdx fun k v => { v with stamp := if k = 5 then 1 else 9 } } →
        ∀ k, k < 8 → k ≠ 5 → (u.voice 5).priority < (u.voice k).priority
          ∨ ((u.voice 5).priority = (u.voice k).priority
            ∧ (u.startCount - (u.voice k).stamp).toNat < (u.startCount - (u.voice 5).stamp).toNat) := by
      intro u hu
      subst hu
      decide
    exact this _ rfl k (by omega) c
  · intro s hs
    refine ⟨by rw [hs]; rfl, ?_⟩
    intro v hv
    rw [hs] at hv
    fin_cases hv
    all_goals exact Or.inr ⟨by decide, by decide, fun _ => by decide, fun h => (by cases h), fun h => (by cases h)⟩
/-- A STREAM with its segment there; with none; an entry that is not valid. -/
theorem test_hyps_play_stream :
    withStream.xm.wf = true ∧ withStream.isRun = true ∧ orderTaken (withOrder withStream 8 [1, 2]) (order 8 [1, 2])
      ∧ voicesLawful (withOrder withStream 8 [1, 2]) ∧ (loadClip withStream.xm 1).valid = true
      ∧ (loadClip withStream.xm 1).kind = 2
      ∧ ((withOrder withStream 8 [1, 2]).stopVoice 2).xm.read (0x140E + 16 * 1) = 1
      ∧ (loadClip (withStream.xm.write 0x141E 0) 1).kind = 2
      ∧ (withStream.xm.write 0x141E 0).read (0x140E + 16 * 1) = 0
      ∧ (loadClip withStream.xm 2).valid = false :=
  ⟨by decide, by decide, in_hand _ _ _, idle_voices _ rfl, by decide⟩
theorem test_hyps_hush :
    onTrack.xm.wf = true ∧ onTrack.isRun = true ∧ orderTaken (withOrder onTrack 9 [7]) (order 9 [7])
      ∧ voicesLawful (withOrder onTrack 9 [7]) ∧ param8 (order 9 [7]).params 0 ≤ 7
      ∧ param8 (order 9 [255]).params 0 = 255 ∧ 7 < param8 (order 9 [8]).params 0
      ∧ param8 (order 9 [8]).params 0 ≠ 255 :=
  ⟨by decide, by decide, in_hand _ _ _, idle_voices _ rfl, by decide⟩
theorem test_hyps_balance_order :
    ∃ s : State, s.xm.wf = true ∧ s.isRun = true ∧ orderTaken s (order 10 [0]) ∧ s.balance.run = none
      ∧ s.motion.sensor = .ok ∧ s.radio.lease = .none ∧ s.traction.state = .stopped
      ∧ ¬(s.tractionSet.lock = .forwardOnly ∧ param8 (order 10 [0]).params 1 = 1)
      ∧ ¬(s.tractionSet.lock = .reverseOnly ∧ param8 (order 10 [0]).params 1 ≠ 1)
      ∧ (withRun s aRun).balance.run ≠ none ∧ onTrack.motion.sensor ≠ .ok
      ∧ (withLease s (.radio 1 0 0)).radio.lease = .radio 1 0 0 ∧ State.reset.traction.state ≠ .stopped
      ∧ ({ s with sets := { s.sets with cache := s.sets.cache.map fun d =>
          { d with traction := { d.traction with lock := .reverseOnly } } } } : State).tractionSet.lock
            = .reverseOnly :=
  ⟨withOrder { onTrack with motion := { onTrack.motion with sensor := .ok } } 10 [0], by decide, by decide,
    in_hand _ _ _, by decide⟩
theorem test_hyps_balance_runs :
    (withRun onTrack aRun).xm.wf = true ∧ (withRun onTrack aRun).isRun = true
      ∧ orderTaken (withOrder (withRun onTrack aRun) 11 []) (order 11 [])
      ∧ (withRun onTrack aRun).balance.run = some aRun ∧ aRun.slot < 32 ∧ aRun.slot ≠ (order 11 []).slot
      ∧ aRun.held = false ∧ ({ aRun with held := true } : BalanceRun).held = true
      ∧ orderTaken (withOrder onTrack 12 []) (order 12 []) ∧ onTrack.balance.run = none
      ∧ ({ aRun with held := true, heldTimer := some 9 } : BalanceRun).heldTimer = some 9
      ∧ voicesLawful (withRun onTrack { aRun with held := true, heldTimer := some 9 }) :=
  ⟨by decide, by decide, in_hand _ _ _, by decide, by decide, by decide, by decide, by decide, in_hand _ _ _,
    by decide, by decide, idle_voices _ rfl⟩
/-- At both sides of the loss of the sensor, and of the end of a hold of N = 125 periods, with a step to come and with
none. -/
theorem test_hyps_balance_work :
    (withRun onTrack aRun).xm.wf = true ∧ (withRun onTrack aRun).isRun = true
      ∧ (withRun onTrack aRun).balance.run = some aRun ∧ aRun.slot < 32 ∧ voicesLawful (withRun onTrack aRun)
      ∧ (∃ s : State, s.xm.wf = true ∧ s.isRun = true ∧ s.balance.run = some aRun ∧ voicesLawful s
        ∧ (decide (s.motion.sensor = .ok) && decide (256 ≤ s.traction.lowest)
          && decide (250 ≤ if s.motion.edgeSinceStep then s.motion.loss else s.motion.loss + 1)) = true)
      ∧ (decide (onTrack.motion.sensor = .ok) && decide (256 ≤ onTrack.traction.lowest)
          && decide (250 ≤ if onTrack.motion.edgeSinceStep then onTrack.motion.loss else onTrack.motion.loss + 1))
        = false
      ∧ aRun.held = false ∧ aRun.driving = false ∧ ({ aRun with held := true } : BalanceRun).held = true
      ∧ ({ aRun with driving := true, period := 123 } : BalanceRun).period + 1 < 125 * aRun.holdTime
      ∧ 125 * aRun.holdTime ≤ ({ aRun with driving := true, period := 124 } : BalanceRun).period + 1
      ∧ aRun.step < ({ aRun with steps := 2 } : BalanceRun).steps ∧ aRun.steps ≤ aRun.step :=
  ⟨by decide, by decide, by decide, by decide, idle_voices _ rfl,
    ⟨withRun { onTrack with
        motion := { onTrack.motion with sensor := .ok, loss := 249 }
        traction := { onTrack.traction with lowest := 256 } } aRun,
      by decide, by decide, by decide, idle_voices _ rfl, by decide⟩, by decide⟩
theorem test_hyps_clear_faults :
    onTrack.xm.wf = true ∧ orderTaken (withOrder onTrack 13 [1]) (order 13 [1])
      ∧ param32 (order 13 [1]).params 0 = 1 ∧ onTrack.bridges.a.state ≠ .latched
      ∧ onTrack.bridges.b.state ≠ .latched :=
  ⟨by decide, in_hand _ _ _, by decide⟩
/-- Bridge A is LATCHED under the command BRAKE, bridge B not used: the clear of A has it BRAKE again. -/
theorem test_hyps_clear_latched :
    ∃ s : State, orderTaken s (order 13 [1]) ∧ s.xm.wf = true ∧ voicesLawful s
      ∧ (s.bridges.cfg.mode = .single → s.bridges.b.state = .off) ∧ s.bridges.a.state = .latched
      ∧ (param32 (order 13 [1]).params 0).testBit 0 = true
      ∧ ∃ t, exec .clearFaults s = .next t ∧ t.bridges.a.state = .brake ∧ t.traction.state = .stopped :=
  ⟨withOrder { onTrack with
      traction := { onTrack.traction with state := .faulted }
      bridges := { onTrack.bridges with a := { onTrack.bridges.a with state := .latched } } } 13 [1],
    in_hand _ _ _, by decide, idle_voices _ rfl, by decide, by decide, by decide, _, rfl, by decide⟩

/-! ## Motion unit and traction controller -/

/-- Two magnets, an edge 100 us before the next. -/
def turning : State :=
  { onTrack with motion := { onTrack.motion with
      cfg := { edge := .rise, magnets := 2, window := 500 }, lastEdge := some 0, stall := some 512000000
      sensor := .ok, ring := [100] } }
theorem test_hyps_axle_edges :
    onTrack.motion.cfg.magnets = 0 ∧ turning.motion.cfg.edge = .rise ∧ turning.motion.cfg.magnets ≠ 0
      ∧ (∀ due, turning.motion.stall = some due → captureMoment turning 100 ≤ due)
      ∧ turning.motion.lastEdge = some 0 ∧ ((99 : BitVec 32) - 0).toNat < 100
      ∧ 100 ≤ ((100 : BitVec 32) - 0).toNat ∧ turning.motion.sensor ≠ .lost
      ∧ ({ turning.motion with sensor := .lost } : Motion).sensor = .lost := by
  refine ⟨by decide, by decide, by decide, ?_, by decide⟩
  intro due h
  have : due = 512000000 := by
    have : some 512000000 = some due := h
    simpa using this.symm
  subst this
  decide
theorem test_hyps_target :
    (255 : Nat) < 256 ∧ onTrack.isRun = true ∧ onTrack.balance.run = none
      ∧ onTrack.sets.cache = some (loadDriveSet [(0xA00, 0x5A)] 0xA00) := by decide
/-- Both sides of each test that the regulation step makes: latched bridges, shed level, sensor. -/
theorem test_hyps_regulation_step :
    onTrack.bridges.allLatched = false ∧ onTrack.supply.shed < 4
      ∧ ({ onTrack.supply with shed := 4 } : Supply).shed = 4
      ∧ ({ onTrack.bridges with
            a := { onTrack.bridges.a with state := .latched }
            b := { onTrack.bridges.b with state := .latched } } : BridgeUnit).allLatched = true
      ∧ voicesLawful onTrack ∧ onTrack.xm.wf = true :=
  ⟨by decide, by decide, by decide, by decide, idle_voices _ rfl, by decide⟩
/-- Outside a balance run and in one. -/
theorem test_hyps_decay_and_loss :
    (withRun turning aRun).motion.lastEdge = some 0 ∧ turning.motion.lastEdge = some 0 ∧ turning.motion.sensor = .ok
      ∧ onTrack.motion.ring = [] ∧ onTrack.motion.sensor ≠ .ok ∧ State.reset.isRun = false
      ∧ ({ turning.motion with loss := 249 } : Motion).loss + 1 = 250 := by decide
/-- The direction changes at a regulation step at rest, and at a reset. -/
theorem test_hyps_direction_changes :
    (∃ t, exec .regulationStep { onTrack with
        radio := { onTrack.radio with request := { onTrack.radio.request with direction := .reverse } }
        traction := { onTrack.traction with zeroHold := 63 } } = .next t
      ∧ t.traction.direction ≠ onTrack.traction.direction)
    ∧ ∃ t, exec .powerReset { onTrack with traction := { onTrack.traction with direction := .reverse } }
        = .next t ∧ t.traction.direction ≠ .reverse :=
  ⟨⟨_, rfl, by decide⟩, ⟨_, rfl, by decide⟩⟩

/-! ## Bridge unit -/

/-- An on-phase forward under DRIVE, the high side waiting for the dead time. -/
def onPhase : State :=
  { onTrack with bridges := { onTrack.bridges with
      held := .drive { duty := 100, direction := .forward, freewheel := .slow }
      a := { onTrack.bridges.a with
        state := .drive, phase := .onPhase, onEnd := some 5000, conduct := some 0
        params := { duty := 100, direction := .forward, freewheel := .slow }
        asked := { high1 := true, low1 := false, high2 := false, low2 := true }
        offAt := { high1 := none, low1 := some 0, high2 := none, low2 := none }
        blanking := some 2048, chopArmed := true } } }
theorem test_hyps_pwm :
    onPhase.bridges.held = .drive { duty := 100, direction := .forward, freewheel := .slow }
      ∧ (onPhase.bridges.get .a).state = .drive ∧ (onPhase.bridges.get .b).state ≠ .drive
      ∧ onTrack.bridges.held = .brake ∧ (onPhase.bridges.get .a).onEnd = some 5000 := by decide
/-- A high side that waits in the on-phase of leg one, at both sides of the phase's end, and a low side that waits on
leg two in the off-phase. -/
theorem test_hyps_dead_time_and_chop :
    legWaits (onPhase.bridges.get .a) .one 0 ∧ (onPhase.bridges.get .a).phase = .onPhase
      ∧ (onPhase.bridges.get .a).onEnd = some 5000 ∧ 0 + 512 < 5000 ∧ 5000 ≤ 4488 + 512
      ∧ legWaits { onPhase.bridges.a with
          phase := .offPhase, asked := lowGates
          offAt := { high1 := none, low1 := none, high2 := some 7, low2 := none } } .two 7
      ∧ gatesWithin (onPhase.bridges.get .a).gates (onPhase.bridges.get .a).asked
      ∧ (onPhase.bridges.get .a).blanking = some 2048 ∧ onPhase.bridges.cfg.chopLevel = 0
      ∧ (onPhase.bridges.get .a).chopArmed = true
      ∧ ({ onPhase.bridges.cfg with chopLevel := 500 } : BridgeConfig).chopLevel ≠ 0
      ∧ max 1 (min 1023 (500 * onPhase.bridges.cfg.gain / 40)) ≤ min 1023 (500 / 4)
      ∧ min 1023 (499 / 4) < max 1 (min 1023 (500 * onPhase.bridges.cfg.gain / 40)) :=
  ⟨⟨by decide, by decide⟩, by decide, by decide, by decide, by decide, ⟨by decide, by decide⟩,
    ⟨by decide, by decide⟩, by decide⟩
/-- A code that rises so late that it just fits into the on-phase, one that rises a unit later, and a deglitch time
that does not fit; with chopping off, and on with the moment at the end of the blanking and a unit after it. -/
theorem test_hyps_short_detection :
    voicesLawful (withRun onPhase aRun) ∧ onPhase.isRun = true ∧ (onPhase.bridges.get .a).conduct = some 0
      ∧ (onPhase.bridges.get .a).onEnd = some 5000 ∧ (onPhase.bridges.get .a).phase = .onPhase
      ∧ (onPhase.bridges.get .a).detected = false
      ∧ max 1 (min 1023 (onPhase.bridges.cfg.shortLevel * onPhase.bridges.cfg.gain / 40))
          ≤ min 1023 (4095 / 4)
      ∧ (0 + 3976 + 1024 * onPhase.bridges.cfg.deglitch = 5000 ∧ 5000 < 0 + 3977 + 1024 * onPhase.bridges.cfg.deglitch
        ∧ 5000 < 0 + 0 + 1024 * ({ onPhase.bridges.cfg with deglitch := 8 } : BridgeConfig).deglitch)
      ∧ (∀ c : Nat × Nat × Bool, c ∈ [(0, 3976, false), (500, 1024, false), (500, 1025, true)] →
        (decide (c.1 ≠ 0) && decide (max 1 (min 1023 (c.1 * onPhase.bridges.cfg.gain / 40)) ≤ min 1023 (4095 / 4))
          && decide (0 + 2048 < 0 + c.2.1 + 1024 * onPhase.bridges.cfg.deglitch)) = c.2.2)
      ∧ onPhase.bridges.cfg.shortMode = .latch
      ∧ ({ onPhase.bridges.cfg with shortMode := .cycle } : BridgeConfig).shortMode = .cycle
      ∧ ({ onPhase.bridges.a with shortRun := 199 } : Bridge).shortRun = 199
      ∧ (onPhase.bridges.get .a).shortRun < 199
      ∧ (withRun onPhase aRun).balance.run = some aRun ∧ aRun.slot < 32 ∧ (withRun onPhase aRun).xm.wf = true :=
  ⟨idle_voices _ rfl, by decide⟩

/-! ## Radio command unit -/

theorem frame_in_hand (s : State) (f : Frame) (w : s.xm.wf = true) (l : s.radio.logIndex < 64) :
    frameInHand (withFrame s f) f f.kind := ⟨w, l, rfl, rfl⟩

theorem test_hyps_receiver :
    State.reset.isRun = false ∧ onTrack.isRun = true ∧ onTrack.radio.receiver = .hunt
      ∧ ({ onTrack.radio with receiver := .length } : Radio).receiver = .length
      ∧ ({ onTrack.radio with receiver := .body 9 [] } : Radio).receiver = .body 9 []
      ∧ ([] : List Byte).length + 1 < 9 ∧ (List.replicate 8 (0 : Byte)).length + 1 = 9
      ∧ ([] : List Nat).Nodup ∧ onTrack.radio.handling = none
      ∧ (withFrame onTrack (frame 0 9 [])).radio.handling ≠ none
      ∧ ({ onTrack.radio with gap := some 7 } : Radio).gap = some 7 := by decide
/-- A RELEASE frame after LEN, with the low byte of its check value, B3H by a computation outside the model from R117. -/
def releaseBytes (low : Byte) : List Byte := [5, 0, 2, 3, 0, 2, 7, low, 0x41]
/-- A RELEASE of a sender that is not the holder is in hand, and two more wait, one with a wrong check value and one with
the right one: with the first done, the last is in hand. -/
def twoWait : State :=
  { withFrame onTrack (frame 2 7 []) with radio := { (withFrame onTrack (frame 2 7 [])).radio with
      waiting := [releaseBytes 0, releaseBytes 0xB3] } }
set_option maxRecDepth 8000 in
theorem test_hyps_waiting_accepted :
    frameAccepted twoWait.radio (releaseBytes 0) = false ∧ frameAccepted twoWait.radio (releaseBytes 0xB3) = true := by
  decide
set_option maxRecDepth 8000 in
theorem test_hyps_waiting_frames :
    frameInHand twoWait (frame 2 7 []) 7
      ∧ twoWait.radio.waiting = [releaseBytes 0] ++ releaseBytes 0xB3 :: []
      ∧ ∃ t, exec .releaseFrame twoWait = .next t ∧ t.radio.handling = some { frame 2 7 [] with seq := 2 } :=
  ⟨⟨by decide, by decide, rfl, rfl⟩, rfl, _, rfl, by decide⟩
def anEntry : RepeatEntry := { sender := 5, seq := 0, stale := false, window := some 7 }
theorem test_hyps_radio_timers :
    repeatsLawful { onTrack with radio := { onTrack.radio with repeats := [anEntry] } }
      ∧ anEntry ∈ [anEntry] ∧ anEntry.sender = (5 : BitVec 16).toNat ∧ anEntry.window = some 7
      ∧ (withLease onTrack (.radio 5 2 0)).radio.lease = .radio 5 2 0 ∧ onTrack.radio.failsafe = false
      ∧ onTrack.traction.latch = false
      ∧ ({ onTrack.traction with latch := true } : Traction).latch = true
      ∧ ({ onTrack.radio with station := .dwell (frame 2 5 []) 9 } : Radio).station = .dwell (frame 2 5 []) 9
      ∧ onTrack.xm.wf = true ∧ onTrack.radio.logIndex < 64 :=
  ⟨⟨by decide, by decide⟩, by decide⟩
/-- MALFORMED, applied from NONE, from the holder and over a weaker class, NOT_HOLDER, IN_CONSIST. -/
theorem test_hyps_throttle_frame :
    frameInHand (withFrame onTrack (frame 2 1 [0, 2])) (frame 2 1 [0, 2]) 1
      ∧ frameInHand (withFrame onTrack (frame 2 1 [0, 1])) (frame 2 1 [0, 1]) 1
      ∧ (∀ sender cls last, Lease.radio 6 1 0 = .radio sender cls last → cls ≤ (frame 2 1 [0, 1]).cls)
      ∧ 1 < param8 (frame 2 1 [0, 2]).payload 1
      ∧ (frame 2 1 [0, 1]).payload.length = 2 ∧ param8 (frame 2 1 [0, 1]).payload 1 ≤ 1
      ∧ (frame 2 1 [0, 1]).target = (withFrame onTrack (frame 2 1 [0, 1])).radio.cfg.own
      ∧ ({ onTrack.radio.consist with number := 1 } : Consist).number ≠ 0
      ∧ onTrack.radio.consist.number = 0 ∧ onTrack.radio.lease = .none
      ∧ (Lease.radio 5 2 0).heldBy (frame 2 1 [0, 1]).sender (frame 2 1 [0, 1]).cls = true
      ∧ (Lease.radio 6 1 0).heldBy (frame 2 1 [0, 1]).sender (frame 2 1 [0, 1]).cls = false
      ∧ (frame 1 1 [0, 1]).cls < 2 :=
  ⟨frame_in_hand _ _ (by decide) (by decide), frame_in_hand _ _ (by decide) (by decide),
    fun _ _ _ h => by cases h; decide, by decide⟩
theorem test_hyps_func_and_release :
    frameInHand (withFrame onTrack (frame 1 2 [3, 255])) (frame 1 2 [3, 255]) 2
      ∧ frameInHand (withFrame onTrack (frame 2 7 [])) (frame 2 7 []) 7
      ∧ voicesLawful (withFrame onTrack (frame 1 2 [3, 255]))
      ∧ (frame 1 2 [3, 255]).payload.length = 2 ∧ param8 (frame 1 2 [3, 255]).payload 0 ≤ 3
      ∧ 3 < param8 (frame 1 2 [4, 255]).payload 0 ∧ 1 < (frame 2 2 []).cls
      ∧ (Lease.onBoard false).heldBy 5 2 = false ∧ Lease.onBoard false ≠ .none
      ∧ (Lease.radio 5 2 0).heldBy (frame 2 7 []).sender (frame 2 7 []).cls = true
      ∧ onTrack.radio.lease.heldBy (frame 2 7 []).sender (frame 2 7 []).cls = false
      ∧ (frame 2 7 [0]).payload ≠ [] ∧ onTrack.traction.latch = false ∧ latched.traction.latch = true :=
  ⟨frame_in_hand _ _ (by decide) (by decide), frame_in_hand _ _ (by decide) (by decide), idle_voices _ rfl,
    by decide⟩
/-- A RELEASE of the holder, and a THROTTLE frame of throttle 0, under the emergency-stop latch. -/
theorem test_hyps_frames_under_latch :
    frameInHand (withFrame (withLease latched (.radio 5 2 0)) (frame 2 7 [])) (frame 2 7 []) 7
      ∧ frameInHand (withFrame latched (frame 2 1 [0, 1])) (frame 2 1 [0, 1]) 1
      ∧ voicesLawful (withFrame latched (frame 2 1 [0, 1])) :=
  ⟨frame_in_hand _ _ (by decide) (by decide), frame_in_hand _ _ (by decide) (by decide), idle_voices _ rfl⟩
theorem test_hyps_pass_frames :
    frameInHand (withFrame onTrack (frame 2 9 (List.replicate 16 7))) (frame 2 9 (List.replicate 16 7)) 9
      ∧ (frame 2 9 (List.replicate 16 7)).payload.length ≤ 16
      ∧ frameInHand (withFrame onTrack (frame 2 9 (List.replicate 17 7))) (frame 2 9 (List.replicate 17 7)) 9
      ∧ 16 < (frame 2 9 (List.replicate 17 7)).payload.length
      ∧ frameInHand (withFrame onTrack (frame 2 0 [])) (frame 2 0 []) 0
      ∧ frameInHand (withFrame onTrack (frame 2 10 [])) (frame 2 10 []) 10 :=
  ⟨frame_in_hand _ _ (by decide) (by decide), by decide, frame_in_hand _ _ (by decide) (by decide), by decide,
    frame_in_hand _ _ (by decide) (by decide), frame_in_hand _ _ (by decide) (by decide)⟩
theorem test_hyps_set_and_consist :
    frameInHand (withFrame onTrack (frame 1 4 [0, 7])) (frame 1 4 [0, 7]) 4
      ∧ frameInHand (withFrame onTrack (frame 1 6 [0, 127, 2, 1])) (frame 1 6 [0, 127, 2, 1]) 6
      ∧ (frame 1 4 [0]).payload.length ≠ 2 ∧ (frame 1 4 [0, 7]).payload.length = 2
      ∧ (withRun onTrack aRun).balance.run ≠ none ∧ onTrack.balance.run = none ∧ (frame 2 4 [0, 7]).cls = 2
      ∧ onTrack.radio.lease.heldBy 5 2 = false ∧ 2 < param8 (frame 1 4 [3, 7]).payload 0
      ∧ param8 (frame 1 4 [0, 7]).payload 1 ≤ 7 ∧ 7 < param8 (frame 1 4 [0, 8]).payload 1
      ∧ param8 (frame 1 4 [2, 0]).payload 0 = 2 ∧ 2 ≤ onTwo.sets.chain.length
      ∧ onTrack.sets.chain.length < 2 ∧ onTrack.sets.queue = [] ∧ onTrack.port.teardownPending = false
      ∧ param8 [0, 127, 2, 1] 1 ≤ 127 ∧ param8 [0, 127, 2, 1] 2 ≤ 2 ∧ param8 [0, 128, 2, 1] 1 = 128
      ∧ (frame 1 6 []).cls ≤ 1 ∧ (frame 1 6 []).target = (withFrame onTrack (frame 1 6 [])).radio.cfg.own
      ∧ param8 [1, 0, 0, 0] 0 = 1 ∧ ([1, 0, 0, 0] : List Byte).length = 4 :=
  ⟨frame_in_hand _ _ (by decide) (by decide), frame_in_hand _ _ (by decide) (by decide), by decide⟩
theorem test_hyps_service_writes :
    frameInHand (withFrame onTrack (frame 0 8 [0, 10, 1, 9])) (frame 0 8 [0, 10, 1, 9]) 8
      ∧ onTrack.radio.service = none
      ∧ (decide ((frame 0 8 [0, 10, 1, 9]).payload.length = 3 + param8 [0, 10, 1, 9] 2)
          && decide (1 ≤ param8 [0, 10, 1, 9] 2) && decide (param8 [0, 10, 1, 9] 2 ≤ 16)) = true
      ∧ param16 [0, 10, 1, 9] 0 + param8 [0, 10, 1, 9] 2 - 1 = 0xA00
      ∧ (frame 1 8 []).cls ≠ 0 ∧ (frame 0 8 []).cls = 0
      ∧ onTrack.radio.cfg.windowEnd < onTrack.radio.cfg.windowStart
      ∧ ({ onTrack.radio with service := some [(0xA00, 9)] } : Radio).service = some [(0xA00, 9)]
      ∧ ([0xA00] : List Nat).Nodup ∧ (0xA00 : Nat) < 65536 :=
  ⟨frame_in_hand _ _ (by decide) (by decide), by decide⟩
theorem test_hyps_beacon :
    frameInHand (withFrame onTrack (frame 2 5 [1, 7, 0, 0, 1, 0])) (frame 2 5 [1, 7, 0, 0, 1, 0]) 5
      ∧ voicesLawful (withFrame onTrack (frame 2 5 [1, 7, 0, 0, 1, 0]))
      ∧ ([1, 7, 0, 0, 1, 0] : List Byte).length = 6 ∧ 1 ≤ param8 [1, 7, 0, 0, 1, 0] 0
      ∧ param8 [1, 7, 0, 0, 1, 0] 2 = 0 ∧ 2 < param8 [1, 7, 3, 0, 1, 0] 2
      ∧ param8 [1, 7, 2, 0, 1, 0] 2 = 2 ∧ onTrack.traction.direction = .forward :=
  ⟨frame_in_hand _ _ (by decide) (by decide), idle_voices _ rfl, by decide⟩
/-- Zone 1: a cap of 256 that changes the zone record, FFFFH that does not, CLEAR of the zone held and of another; a
station stop that begins, and one that was served; a horn not sounded yet, and one that was. -/
theorem test_hyps_beacon_clauses :
    (∀ c ∈ ([([1, 0, 0, 0, 1, 0], onTrack.radio.zone, true), ([1, 0, 0, 255, 255, 0], onTrack.radio.zone, false),
        ([1, 4, 0, 0, 1, 0], { present := true, zone := 1, cap := 9 }, true),
        ([1, 4, 0, 0, 1, 0], { present := true, zone := 2, cap := 9 }, false)] :
          List (List Byte × ZoneRecord × Bool)),
      (if (param8 c.1 1).testBit 2 then c.2.1.present && decide (c.2.1.zone = param8 c.1 0)
        else decide (param16 c.1 3 ≠ 0xFFFF
          ∧ c.2.1 ≠ { present := true, zone := param8 c.1 0, cap := param16 c.1 3 })) = c.2.2)
    ∧ ∀ mark : Bool, ∀ p : Passage, p = { zone := 1, horn := mark, station := mark } →
      ((param8 [1, 3, 0, 0, 1, 0] 1).testBit 0 && decide (onTrack.radio.station = .none)
        && !(decide (p.zone = param8 [1, 3, 0, 0, 1, 0] 0) && p.station)) = !mark
      ∧ (param8 [1, 3, 0, 0, 1, 0] 1).testBit 1 = true
      ∧ (decide (p.zone = param8 [1, 3, 0, 0, 1, 0] 0) && p.horn) = mark := by
  refine ⟨by decide, fun mark p h => ?_⟩
  subst h
  revert mark
  decide

/-! ## Sound engine -/

/-- Voice 2 plays a ONE_SHOT, voice 3 a LOOP, voice 4 the end of segment A of a STREAM. -/
def playing : State :=
  { onTrack with sound := { onTrack.sound with
      voices := [Voice.idle, Voice.idle, voiceAt 0 4095, voiceAt 1 3071, voiceAt 2 2047, Voice.idle, Voice.idle,
                 { voiceAt 0 0 with state := .fading, fadeStep := 5 }] } }
theorem playing_lawful : voicesLawful playing := by
  refine ⟨by decide, ?_⟩
  intro v hv
  fin_cases hv
  all_goals first
    | exact Or.inl rfl
    | exact Or.inr ⟨by decide, by decide, fun _ => by decide, fun h => (by cases h), fun h => (by cases h)⟩
/-- Voice 4 sounds a STREAM, voice 2 does not. -/
theorem test_hyps_stop_voice :
    playing.xm.wf = true ∧ voicesLawful playing ∧ playing.sound.voices[2]? = some (voiceAt 0 4095)
      ∧ (voiceAt 0 4095).entry.kind ≠ 2 ∧ playing.sound.voices[4]? = some (voiceAt 2 2047)
      ∧ (voiceAt 2 2047).sounds = true ∧ (voiceAt 2 2047).entry.kind = 2 :=
  ⟨by decide, playing_lawful, by decide⟩
/-- Two STREAM voices of one clip: voice 4 comes to segment B, which is empty, and voice 5, so fast that it crosses both
segments' ends, to the clip's end. -/
def streaming : State :=
  { playing with sound := { playing.sound with
      voices := playing.sound.voices.set 5 { voiceAt 2 2047 with step := 0x900 } } }
theorem streaming_lawful : voicesLawful streaming := by
  refine ⟨by decide, ?_⟩
  intro v hv
  fin_cases hv
  all_goals first
    | exact Or.inl rfl
    | exact Or.inr ⟨by decide, by decide, fun _ => by decide, fun h => (by cases h), fun h => (by cases h)⟩
theorem test_hyps_sample :
    streaming.xm.wf = true ∧ voicesLawful streaming ∧ streaming.supply.shed < 3
      ∧ streaming.sound.voices[2]? = some (voiceAt 0 4095) ∧ (voiceAt 0 4095).sounds = true
      ∧ (voiceAt 0 4095).entry.kind ≠ 2 ∧ (voiceAt 2 2047).sounds = true
      ∧ (voiceAt 2 2047).entry.length / 2 * 256 ≤ positionNext (voiceAt 2 2047)
      ∧ positionNext (voiceAt 2 2047) < (voiceAt 2 2047).entry.length * 256
      ∧ (voiceAt 2 2047).lastSegment = false ∧ streaming.xm.read 0x140F = 0
      ∧ (voiceAt 2 2047).entry.length * 256 ≤ positionNext { voiceAt 2 2047 with step := 0x900 }
      ∧ ∃ t, exec .sampleTimerExpiry streaming = .next t ∧ (t.sound.voice 4).state = .starved :=
  ⟨by decide, streaming_lawful, by decide, by decide, by decide, by decide, by decide, by decide, by decide, by decide,
    by decide, by decide, _, rfl, by decide⟩
theorem test_hyps_mixer :
    playing.xm.wf = true ∧ voicesLawful playing ∧ playing.motion.sensor ≠ .ok ∧ playing.supply.shed < 3
      ∧ turning.motion.sensor = .ok
      ∧ playing.sound.voices[7]? = some { voiceAt 0 0 with state := .fading, fadeStep := 5 }
      ∧ (loadClip withClip.xm 0).valid = true ∧ (loadClip withClip.xm 0).kind ≤ 1 :=
  ⟨by decide, playing_lawful, by decide⟩
/-- A wheel whose cam angle comes to 1, past a chuff point at 1, the part RUNNING; with a jump mark, and at rest, no
chuff fires. -/
def rolling : State :=
  { onTrack with
    traction := { onTrack.traction with state := .running }
    motion := { onTrack.motion with phi := 4000 }
    sets := { onTrack.sets with cache := onTrack.sets.cache.map fun d =>
      { d with sound := { d.sound with chuffPoints := [1], chuffClips := [255] } } } }
theorem test_hyps_chuff :
    rolling.xm.wf = true ∧ rolling.motion.sensor ≠ .ok
      ∧ (match exec .mixerFrame rolling with
        | .next t => t.sound.prevAngle
        | .fault _ | .refused _ => 0) = 1
      ∧ ∀ c ∈ [(rolling, true), ({ rolling with motion := { rolling.motion with mark := true } }, false),
          ({ rolling with traction := { rolling.traction with state := .stopped } }, false)],
        (c.1.isRun && decide (c.1.traction.state ≠ .stopped) && !c.1.motion.mark
          && c.1.soundSet.chuffPoints.any fun a =>
            decide (1 ≤ (a % 256 + 256 - c.1.sound.prevAngle % 256) % 256)
              && decide ((a % 256 + 256 - c.1.sound.prevAngle % 256) % 256
                ≤ (1 % 256 + 256 - c.1.sound.prevAngle % 256) % 256)) = c.2 := by decide
theorem test_hyps_chuff_voices : voicesLawful rolling := idle_voices _ rfl

/-! ## Lamps and smoke -/

/-- An enabled lamp in its on-time, its timers running. -/
def litLamp : Lamp :=
  { Lamp.atReset with
    copy := { Lamp.atReset.copy with enabled := true }, output := true, shown := 5, onTime := 20
    retry := some 3, openTimer := some 4 }
def lit : State := { onTrack with lamps := { onTrack.lamps with lamps := List.replicate 10 litLamp } }
theorem test_hyps_lamps :
    onTrack.lamps.lamps[(9 : Fin 10).val]? = some Lamp.atReset ∧ Lamp.atReset.output = false
      ∧ lit.lamps.lamps[(9 : Fin 10).val]? = some litLamp ∧ litLamp.output = true := by decide
/-- A STROBE of rate 3 in its last phase and beyond it, and a ROTARY of the same rate. -/
theorem test_hyps_stray_phase :
    ∀ c ∈ [(Effect.strobe, 4, true), (.strobe, 5, false), (.rotary, 5, true), (.rotary, 6, false)],
      (match c.1 with
        | .strobe => decide (c.2.1 < 3 + 2)
        | .rotary => decide (c.2.1 < 2 * 3)
        | .steady | .flicker | .ditch | .firebox => true) = c.2.2 := by decide
theorem test_hyps_lamp_faults :
    lit.lamps.lamps[(9 : Fin 10).val]? = some litLamp ∧ litLamp.copy.enabled = true ∧ litLamp.latched = .none
      ∧ litLamp.output = true ∧ litLamp.seenPwm = false
      ∧ 0 + 20 * 1024 ≤ 1024 * litLamp.onTime ∧ 1024 * litLamp.onTime < 1 + 20 * 1024
      ∧ litLamp.retry = some 3 ∧ litLamp.openTimer = some 4 := by decide
/-- A heater asked for: setpoint 500, dry limit 600. -/
def warm (state : HeaterState) (preheat : Nat) : State :=
  { onTrack with
    radio := { onTrack.radio with request := { onTrack.radio.request with functions := 1 } }
    sets := { onTrack.sets with cache := onTrack.sets.cache.map fun d =>
      { d with lamp := { d.lamp with smokeFunction := 0, idleSetpoint := 500, dryLimit := 600 } } }
    lamps := { onTrack.lamps with heater := { onTrack.lamps.heater with state := state, preheat := preheat } } }
/-- A heater expiry in a state and at a code T: is the output asked for, does it find the heater dry, and does its
preheating fail. At both ends of the sensor's range, of the dry limit, of the setpoint and of the preheat count. -/
theorem test_hyps_heater :
    (∀ c ∈ [(warm .off 0, 15, false, false, false), (warm .regulate 0, 1009, false, false, false),
        (warm .regulate 0, 600, true, false, false), (warm .regulate 0, 601, true, true, false),
        (warm .preheat 599, 500, true, false, false), (warm .preheat 599, 499, true, false, true),
        (warm .preheat 598, 499, true, false, false), (warm .dry 0, 16, true, false, false)],
      ∀ h, h = c.1.lamps.heater → ∀ T, T = c.2.1 →
      ∀ faulty : Bool, faulty = (c.1.isRun && (decide (T < 16) || decide (1008 < T))) →
      ∀ works : Bool, works = (decide (h.state = .preheat) || decide (h.state = .regulate)) →
      ∀ asked : Bool, asked = (c.1.isRun && decide (c.1.lampSet.smokeFunction ≤ 31)
        && c.1.radio.request.functions.getLsbD c.1.lampSet.smokeFunction && decide (c.1.supply.shed = 0)
        && !h.noHeat && !h.dry && !h.sensor && !faulty) →
      ∀ dries : Bool, dries = (asked && works && decide (c.1.lampSet.dryLimit < T)) →
      asked = c.2.2.1 ∧ dries = c.2.2.2.1
        ∧ (asked && decide (h.state = .preheat) && !dries && decide (T < 500) && decide (599 ≤ h.preheat))
          = c.2.2.2.2)
    ∧ min (if (warm .off 0).traction.c = 0 then (warm .off 0).lampSet.idleSetpoint
        else (warm .off 0).lampSet.workSetpoint) ((warm .off 0).lampSet.dryLimit - 16) = 500
    ∧ (491 + 8 < 500 ∧ 500 ≤ 492 + 8) ∧ (FanState.off ≠ .latched ∧ (warm .regulate 0).lamps.fan.state = .off) := by
  refine ⟨?_, by decide⟩
  intro c hc h hh T hT faulty hf works hw asked ha dries hd
  subst hh hT hf hw ha hd
  revert c
  decide
theorem fan_at_rest (s : State) (since : s.lamps.fan.periodStart ≤ s.lamps.fan.since ∧ s.lamps.fan.since ≤ s.clock)
    (leg : s.lamps.fan.leg = LampUnit.atReset.fan.leg) : fanLawful s := by
  refine ⟨since.1, since.2, ?_⟩
  rw [leg]
  exact ⟨by decide, fun h => (by cases h), fun h => (by cases h)⟩
/-- A detection that fits into the on-phase of 20500 units to the last, a code that rises a unit later, and a fan that
is not driven; a high side that waits for the dead time after a turn-off at 100. -/
theorem test_hyps_fan :
    ({ onTrack.lamps.fan with puff := some 7 } : Fan).puff = some 7
      ∧ ({ onTrack.lamps.fan with purge := some 7 } : Fan).purge = some 7 ∧ fanLawful onTrack
      ∧ (onTrack.lamps.fan.state ≠ .latched ∧ onTrack.lamps.fan.leg.high = false)
      ∧ max onTrack.lamps.fan.since ((onTrack.lamps.fan.leg.lowOff.map fun off => off + 512).getD 0) = 0
      ∧ 0 + 20 + 20 * 1024 ≤ 0 + ({ onTrack.lamps.fan with drive := 410 } : Fan).drive * 50
      ∧ 0 + ({ onTrack.lamps.fan with drive := 410 } : Fan).drive * 50 < 0 + 21 + 20 * 1024
      ∧ 0 + onTrack.lamps.fan.drive * 50 < 0 + 0 + 20 * 1024
      ∧ max 0 (((some 100 : Option Nat).map fun off => off + 512).getD 0) = 612 :=
  ⟨by decide, by decide, fan_at_rest _ (by decide) rfl, by decide⟩

/-! ## Supply, status, resets, the run state -/

/-- Two low samples in NORMAL, ten good ones in RIDE, the walk of the levels. -/
theorem test_hyps_supply :
    voicesLawful (withRun onTrack aRun) ∧ onTrack.supply.state = .normal ∧ onTrack.supply.level = 0
      ∧ ({ onTrack.supply with lost := 1 } : Supply).lost + 1 = 2
      ∧ ({ onTrack.supply with state := .ride, back := 9 } : Supply).back + 1 = 10
      ∧ (Instr.dieTemperatureExpiry 200).wellFormed = true
      ∧ (Instr.dieTemperatureExpiry (-40)).wellFormed = true
      ∧ (withRun onTrack aRun).balance.run = some aRun ∧ aRun.slot < 32 ∧ (withRun onTrack aRun).xm.wf = true :=
  ⟨idle_voices _ rfl, by decide⟩
/-- Each side of the weak count at 100 and of the strong count at 1000; a reading and a sample, in RIDE with an empty
store, that change the shed level outside a balance run. -/
theorem test_hyps_levels :
    voicesLawful onTrack ∧ onTrack.balance.run = none ∧ onTrack.xm.wf = true
      ∧ min 32000 10999 < onTrack.supply.cfg.weak ∧ onTrack.supply.cfg.weak + 500 ≤ min 32000 11500
      ∧ (99 ≤ ({ onTrack.supply with weak := 99 } : Supply).weak ∧ ¬ 99 ≤ onTrack.supply.weak)
      ∧ (({ onTrack.supply with level := 1 } : Supply).level = 1
        ∧ 999 ≤ ({ onTrack.supply with strong := 999 } : Supply).strong ∧ ¬ 999 ≤ onTrack.supply.strong)
      ∧ (match exec (.dieTemperatureExpiry 140) onTrack with
        | .next t => t.supply.shed
        | .fault _ | .refused _ => 0) = 2
      ∧ (match exec (.supplySample 0 5000) { onTrack with supply := { onTrack.supply with state := .ride } } with
        | .next t => t.supply.shed
        | .fault _ | .refused _ => 0) = 4 :=
  ⟨idle_voices _ rfl, by decide⟩
/-- An update that begins now, and one of which only the even generation is still to write. -/
theorem test_hyps_status :
    (∃ s : State, s.xm.wf = true ∧ s.status.updating = some 0 ∧ s.port.reset = none
      ∧ s.sound.voices.length = 8 ∧ s.lamps.lamps.length = 10)
    ∧ ∃ s : State, s.xm.wf = true ∧ s.status.updating = some 128 ∧ 0 < 128 ∧ s.port.reset = none :=
  ⟨⟨{ onTrack with status := { onTrack.status with updating := some 0 } }, by decide⟩,
    ⟨{ onTrack with status := { onTrack.status with updating := some 128 } }, by decide⟩⟩
/-- Each reset from RUN, and the end of a reset's writes with a sweep and a start asked for and with nothing left. -/
theorem test_hyps_resets :
    onTrack.xm.wf = true ∧ (∃ u, exec .powerReset onTrack = .next u) ∧ (∃ u, exec .brownoutReset onTrack = .next u)
      ∧ (∃ u, exec .softReset onTrack = .next u) ∧ onTrack.port.reset = none
      ∧ (∃ (s : State) (j : ResetJob), s.port.reset = some j ∧ s.xm.wf = true ∧ s.status.updating = none
        ∧ j.sweepRequest = true ∧ j.startRequest = true)
      ∧ ∃ (s : State) (j : ResetJob), s.port.reset = some j ∧ s.status.updating = some 0 ∧ j.todo = [] :=
  ⟨by decide, ⟨_, rfl⟩, ⟨_, rfl⟩, ⟨_, rfl⟩, rfl,
    ⟨{ State.reset with port := { Port.atReset with
        reset := some { todo := [.beginStatus], sweepRequest := true, startRequest := true } } }, _, rfl, by decide,
      rfl, rfl, rfl⟩,
    ⟨{ State.reset with
        status := { State.reset.status with updating := some 0 }
        port := { Port.atReset with
          reset := some { todo := [], sweepRequest := false, startRequest := false } } }, _, rfl, rfl, rfl⟩⟩
/-- A start of which everything has been read, with a usable base set `base`, or with an empty record. -/
def starting (base : Nat) (image : Memory) (stop : Bool) : State :=
  { State.reset with port := { Port.atReset with start := some {
      stage := .loaded, todo := [], image := image, baseIndex := base, stopRequest := stop } } }
/-- A START in QUIET, in RUN and during a reset; starts at their first word, in their last stage and with everything read,
with a base set that is VALID, one that is not and one above 7, with a stop request and without; teardowns. -/
theorem test_hyps_starts_and_teardowns :
    voicesLawful onTrack
    ∧ (∃ s : State, s.xm.wf = true ∧ s.isRun = false ∧ s.port.start = some StartJob.first ∧ s.radio.lease = .none
      ∧ (s.xm.read 9).toNat = 0 ∧ s.xm.read (0xA00 + 256 * 0) = 0x5A)
    ∧ (∀ stop, (starting 7 [(0x1100, 0x5A)] stop).xm.wf = true ∧ (starting 7 [(0x1100, 0x5A)] stop).isRun = false
      ∧ (starting 7 [(0x1100, 0x5A)] stop).radio.lease = .none
      ∧ (starting 7 [(0x1100, 0x5A)] stop).balance.run = none
      ∧ (starting 7 [(0x1100, 0x5A)] stop).sound.voices.length = 8)
    ∧ (loadDriveSet [(0x1100, 0x5A)] (0xA00 + 256 * 7)).valid = true
    ∧ (loadDriveSet [] (0xA00 + 256 * 7)).valid = false ∧ 7 < 8
    ∧ State.reset.isRun = false ∧ State.reset.port.start = none ∧ State.reset.port.reset = none
    ∧ onTrack.isRun = true ∧ onTrack.sets.queue = []
    ∧ (withAction onTrack (action .invoke 1)).sets.queue ≠ [] :=
  ⟨idle_voices _ rfl, ⟨{ State.reset with
      xm := [(0xA00, 0x5A)], port := { Port.atReset with start := some StartJob.first } }, by decide⟩,
    fun _ => ⟨rfl, rfl, rfl, rfl, rfl⟩, by decide⟩

/-- A start that has read a part of each stage's words. -/
theorem test_hyps_partly_read :
    ∀ stage ∈ [StartStage.anchor, .radioBlock, .lampTable], ∃ (s : State) (j : StartJob), s.xm.wf = true
      ∧ s.isRun = false ∧ s.radio.lease = .none ∧ s.port.start = some j ∧ j.stage = stage ∧ j.todo ≠ []
      ∧ j.image ≠ [] :=
  fun stage _ => ⟨{ State.reset with port := { Port.atReset with
      start := some { StartJob.first with stage := stage, todo := [0x24], image := [(9, 1)] } } }, _,
    rfl, rfl, rfl, rfl, rfl, by simp, by simp⟩

/-- A teardown waits for an INVOKE that another action waits behind. -/
theorem test_hyps_teardown_at_decision :
    ∃ (s : State) (a b : SetAction) (d : DriveSet) (clamped : Bool),
      s.xm.wf = true ∧ s.isRun = true ∧ s.port.teardownPending = true ∧ s.sets.queue = a :: [b] ∧ queueSlots s
      ∧ s.balance.run = none ∧ voicesLawful s ∧ staged a s.xm = some (d, clamped) ∧ a.kind = .invoke
      ∧ a.source = .order 31 ∧ b.source = .order 30 := by
  refine ⟨{ onTrack with
      port := { onTrack.port with teardownPending := true }
      sets := { onTrack.sets with
        queue := [action .invoke 1, { action .invoke 2 with source := .order 30, load := none }] } },
    _, _, _, _, by decide, by decide, rfl, rfl, ⟨by decide, ?_, ?_⟩, rfl, idle_voices _ rfl, rfl, rfl, rfl, rfl⟩
  · intro a ha n hn
    fin_cases ha <;> cases hn <;> decide
  · refine List.Pairwise.cons ?_ (List.pairwise_singleton _ _)
    intro b hb n hn
    cases hn
    fin_cases hb
    intro h
    cases h

/-! ## What follows a command, a latch, a stop, an entry to RUN -/

/-- A balance run that answers one of the 32 slots. -/
theorem test_hyps_run_slot : runSlot (withRun onTrack aRun) := by
  intro r h
  cases h
  decide
/-- HELD at a regulation step: the bridges leave BRAKE for COAST, but for one that is LATCHED. -/
theorem test_step_hands_coast :
    ∃ t, exec .regulationStep { onTrack with
        supply := { onTrack.supply with shed := 4 }
        bridges := { onTrack.bridges with b := { onTrack.bridges.b with state := .latched } } } = .next t
      ∧ t.traction.state = .held ∧ t.bridges.a.state = .coast ∧ t.bridges.b.state = .latched :=
  ⟨_, rfl, by decide⟩
/-- The latch of bridge A ends the balance run. -/
theorem test_latch_ends_the_run :
    ∃ t, exec (.shortDetection .a 4095 0) (withRun onPhase aRun) = .next t
      ∧ t.bridges.a.state = .latched ∧ t.balance.run = none ∧ t.xm.read (slotBase 4) = 3 :=
  ⟨_, rfl, by decide⟩
/-- Voice 4 of `streaming`, its segment PLAYING. -/
def streamed : State := { streaming with xm := streaming.xm.write 0x140E 3 }
theorem test_hush_gives_the_segment_back :
    ∃ t, exec .hush (withOrder streamed 9 [4, 0]) = .next t
      ∧ (t.sound.voice 4).state = .idle ∧ streamed.xm.read 0x140E = 3 ∧ t.xm.read 0x140E = 0 :=
  ⟨_, rfl, by decide⟩
theorem test_play_gives_the_segment_back :
    ∃ t, exec .play (withOrder streamed 8 [2, 4]) = .next t
      ∧ (t.sound.voice 4).state = .idle ∧ t.xm.read 0x140E = 0 :=
  ⟨_, rfl, by decide⟩
theorem test_teardown_gives_the_segment_back :
    ∃ t, exec .teardown streamed = .next t ∧ t.isRun = false ∧ t.xm.read 0x140E = 0 :=
  ⟨_, rfl, by decide⟩
/-- At the entry to RUN voice 0 loops the engine clip 0 at the least pitch, and the set's stop mode is handed. -/
theorem test_start_sounds_the_engine :
    ∃ t, exec .startEnd { starting 0 [(0xA00, 0x5A)] false with
        xm := [(0x1400, 1), (0x1401, 1), (0x1403, 0x20), (0x1404, 16), (0x1408, 8)] } = .next t
      ∧ (t.sound.voice 0).state = .playing ∧ (t.sound.voice 0).step = 0x40 ∧ t.bridges.a.state = .brake :=
  ⟨_, rfl, by decide⟩

/-! ## Laws: the reset state meets each -/

theorem reset_voices : voicesLawful State.reset := idle_voices _ rfl
/-- The hypotheses of the laws that every step keeps, met by the reset state. -/
theorem test_hyps_laws :
    State.reset.xm.wf = true ∧ startLawful State.reset ∧ heaterLawful State.reset ∧ dutyLawful State.reset
      ∧ repeatsLawful State.reset ∧ supplyLawful State.reset ∧ fanLawful State.reset ∧ leaseLawful State.reset
      ∧ voicesLawful State.reset ∧ ∃ t, step State.reset = .next t := by
  exact ⟨by decide, ⟨by decide, by decide⟩, fun h => (by cases h), fun p h => (by cases h),
    ⟨by decide, by decide⟩, ⟨by decide, by decide⟩,
    fan_at_rest _ (by decide) rfl, ⟨by decide, fun _ => rfl⟩, reset_voices,
    ⟨_, rfl⟩⟩
theorem reset_bridges : bridgesLawful State.reset := by
  have : bridgeLawful Bridge.atReset 0 := by
    refine ⟨⟨by decide, by decide⟩, ⟨by decide, by decide⟩,
      fun _ => ⟨rfl, rfl, rfl, rfl, rfl⟩, ⟨?_, ?_, ?_, ?_⟩⟩ <;> · intro h; cases h
  exact ⟨this, this⟩
theorem test_hyps_part_laws : partLawful State.reset := by
  refine ⟨⟨⟨by decide, by decide⟩, ?_, ⟨by decide, fun a ha => (by cases ha)⟩,
      ⟨by decide, fun h => absurd rfl h⟩⟩, reset_bridges,
    ⟨by decide, fun _ => rfl⟩, reset_voices, ?_⟩
  · exact ⟨rfl, rfl, rfl⟩
  · exact ⟨by decide, fun _ => by decide⟩

end Sys2Proof.Tests
end

section
/-! PROOFS. The NOTICE and NOTICE_MASK registers (R23): when ATTN is asserted, what a read of NOTICE_MASK shows, and
what a write leaves in it. -/

namespace Sys2Proof.Attention

open Sys2Proof Sys2Proof.Machine

/-- Two words share a set bit exactly when their conjunction is not zero. -/
theorem and_ne_zero_iff_shared_bit {w : Nat} (x y : BitVec w) :
    x &&& y ≠ 0 ↔ ∃ i, i < w ∧ x.getLsbD i = true ∧ y.getLsbD i = true := by
  constructor
  · intro hne
    by_contra hnone
    push Not at hnone
    refine hne (BitVec.eq_of_getLsbD_eq fun i hi => ?_)
    simpa using hnone i hi
  · rintro ⟨i, -, hx, hy⟩ hzero
    have hbit : (x &&& y).getLsbD i = true := by simp [hx, hy]
    simp [hzero] at hbit

/-- ATTN in terms of the bit positions of the two registers (R23). -/
theorem attn_iff_shared_bit (s : State) :
    attn s = true ↔ ∃ i, i < 8 ∧ s.port.notice.getLsbD i = true ∧ s.port.mask.getLsbD i = true := by
  rw [← and_ne_zero_iff_shared_bit]
  exact bne_iff_ne

/-- A read of NOTICE_MASK shows the mask in its low byte (R3, R23). -/
theorem readRegister_mask (s : State) : readRegister s 4 = s.port.mask.setWidth 32 :=
  BitVec.ofNat_toNat 32 s.port.mask

theorem readRegister_mask_getLsbD (s : State) (i : Nat) :
    (readRegister s 4).getLsbD i = (decide (i < 8) && s.port.mask.getLsbD i) := by
  rw [readRegister_mask, BitVec.getLsbD_setWidth]
  by_cases hlow : i < 8
  · have hreg : i < 32 := by omega
    simp [hlow, hreg]
  · have hclear : s.port.mask.getLsbD i = false := BitVec.getLsbD_of_ge _ _ (by omega)
    simp [hclear]

/-- A write to NOTICE_MASK keeps the low byte of the value written (R23). -/
@[simp] theorem noticeMaskWrite_mask (value : Reg) (s : State) :
    (noticeMaskWrite value s).port.mask = value.setWidth 8 := rfl

theorem exec_noticeMaskWrite (value : Reg) (s : State) :
    exec (.noticeMaskWrite value) s = .next (noticeMaskWrite value s) := rfl

/-- Settles O6, from the bits that NOTICE and NOTICE_MASK share, and the mask at its read and at its write. -/
theorem attnFollowsNoticeAndMask : Obligations.AttnFollowsNoticeAndMask := by
  intro s
  refine ⟨attn_iff_shared_bit s, readRegister_mask_getLsbD s, fun value t hwrite i hlow => ?_⟩
  rw [exec_noticeMaskWrite] at hwrite
  cases hwrite
  simp [hlow]

end Sys2Proof.Attention
end

section
/-! PROOFS. The target of a regulation step: the speed curve (R62), the rate and zone caps over it (R63), what forces
the target to 0 (R64), and its way through a step in RUN outside BALANCE. -/

namespace Sys2Proof.TractionTarget

open Sys2Proof Sys2Proof.Machine

/-! ## The speed curve (R62) -/

/-- A part of f/32 of a rise, f being below 32, truncated: from 0 to the whole rise. -/
theorem tdiv_part_of_rise {d f : Int} (hd : 0 ≤ d) (hf : 0 ≤ f) (hlt : f < 32) :
    0 ≤ (d * f).tdiv 32 ∧ (d * f).tdiv 32 ≤ d := by
  have hprod : 0 ≤ d * f := Int.mul_nonneg hd hf
  have hle : d * f ≤ d * 32 := Int.mul_le_mul_of_nonneg_left (by omega) hd
  rw [Int.tdiv_eq_ediv_of_nonneg hprod]
  omega

/-- A fall is the same with the sign turned, the quotient being truncated toward zero. -/
theorem tdiv_part_of_fall {d f : Int} (hd : d ≤ 0) (hf : 0 ≤ f) (hlt : f < 32) :
    d ≤ (d * f).tdiv 32 ∧ (d * f).tdiv 32 ≤ 0 := by
  have hneg : (-d * f).tdiv 32 = -(d * f).tdiv 32 := by rw [Int.neg_mul, Int.neg_tdiv]
  obtain ⟨hlow, hhigh⟩ := tdiv_part_of_rise (d := -d) (by omega) hf hlt
  omega

/-- The interpolation stays between its two ends, so no value of the curve is negative. -/
theorem interpolation_between (lower upper : Nat) {f : Nat} (hlt : f < 32) :
    ((min lower upper : Nat) : Int) ≤ lower + (((upper : Int) - lower) * (f : Nat)).tdiv 32
      ∧ lower + (((upper : Int) - lower) * (f : Nat)).tdiv 32 ≤ ((max lower upper : Nat) : Int) := by
  rcases Nat.le_total lower upper with hrise | hfall
  · have hpart := tdiv_part_of_rise (d := (upper : Int) - lower) (f := f) (by omega) (by omega) (by omega)
    omega
  · have hpart := tdiv_part_of_fall (d := (upper : Int) - lower) (f := f) (by omega) (by omega) (by omega)
    omega

/-- The curve's value needs no clamp at 0: it is the interpolation itself. -/
theorem rawTarget_eq_interpolation (curve : List Nat) (h : Nat) :
    (rawTarget curve h : Int) = curvePoint curve (h / 32)
      + (((curvePoint curve (h / 32 + 1) : Int) - curvePoint curve (h / 32)) * (h % 32 : Nat)).tdiv 32 := by
  obtain ⟨hlow, -⟩ := interpolation_between (curvePoint curve (h / 32)) (curvePoint curve (h / 32 + 1))
    (Nat.mod_lt h (by decide : 32 > 0))
  exact Int.toNat_of_nonneg (Int.le_trans (Int.natCast_nonneg _) hlow)

theorem rawTarget_between (curve : List Nat) (h : Nat) :
    min (curvePoint curve (h / 32)) (curvePoint curve (h / 32 + 1)) ≤ rawTarget curve h
      ∧ rawTarget curve h ≤ max (curvePoint curve (h / 32)) (curvePoint curve (h / 32 + 1)) := by
  obtain ⟨hlow, hhigh⟩ := interpolation_between (curvePoint curve (h / 32)) (curvePoint curve (h / 32 + 1))
    (Nat.mod_lt h (by decide : 32 > 0))
  rw [← rawTarget_eq_interpolation] at hlow hhigh
  exact ⟨Int.ofNat_le.mp hlow, Int.ofNat_le.mp hhigh⟩

@[simp] theorem curvePoint_zero (curve : List Nat) : curvePoint curve 0 = 0 := rfl

@[simp] theorem curvePoint_succ (curve : List Nat) (k : Nat) : curvePoint curve (k + 1) = curve.getD k 0 := rfl

theorem rawTarget_zero (curve : List Nat) : rawTarget curve 0 = 0 := by
  have hcurve := rawTarget_eq_interpolation curve 0
  simpa using hcurve

/-- At full throttle the curve is read 31/32 of the way from C7 to C8. -/
theorem rawTarget_full (curve : List Nat) :
    (rawTarget curve 255 : Int) = (curve.getD 6 0 : Nat)
      + ((((curve.getD 7 0 : Nat) : Int) - (curve.getD 6 0 : Nat)) * 31).tdiv 32 :=
  rawTarget_eq_interpolation curve 255

/-! ## The caps and the forced 0 (R63, R64) -/

theorem lock_forbids_iff (lock : DirectionLock) (d : Direction) :
    lock.forbids d = true ↔ (lock = .forwardOnly ∧ d = .reverse) ∨ (lock = .reverseOnly ∧ d = .forward) := by
  cases lock <;> cases d <;> decide

theorem tractionSet_of_cache {s : State} {d : DriveSet} (hcache : s.sets.cache = some d) :
    s.tractionSet = d.traction := by
  simp [State.tractionSet, hcache]

theorem targetForced_iff {s : State} {d : DriveSet} (hcache : s.sets.cache = some d) (pending : Bool) :
    targetForced s pending = true ↔
      s.radio.request.throttle = 0 ∨ s.radio.failsafe = true ∨ s.radio.station ≠ .none ∨ pending = true
        ∨ (d.traction.lock = .forwardOnly ∧ s.radio.request.direction = .reverse)
        ∨ (d.traction.lock = .reverseOnly ∧ s.radio.request.direction = .forward)
        ∨ s.traction.latch = true := by
  simp only [targetForced, tractionSet_of_cache hcache, Bool.or_eq_true, decide_eq_true_eq, lock_forbids_iff,
    or_assoc]

theorem target_le_maxRate (s : State) (pending : Bool) : target s pending ≤ s.tractionSet.maxRate := by
  unfold target
  split
  · exact Nat.zero_le _
  · exact Nat.le_trans (Nat.min_le_right _ _) (Nat.min_le_left _ _)

theorem target_le_zoneLimit (s : State) (pending : Bool) : target s pending ≤ zoneLimit s := by
  unfold target
  split
  · exact Nat.zero_le _
  · exact Nat.le_trans (Nat.min_le_right _ _) (Nat.min_le_right _ _)

/-- The target reads the request side, the cached set and the latch alone. -/
theorem target_congr {s s' : State} (hradio : s'.radio = s.radio) (hsets : s'.sets = s.sets)
    (hlatch : s'.traction.latch = s.traction.latch) (pending : Bool) : target s' pending = target s pending := by
  have hset : s'.tractionSet = s.tractionSet := by rw [State.tractionSet, hsets, State.tractionSet]
  have hforced : targetForced s' pending = targetForced s pending := by
    rw [targetForced, hradio, hset, hlatch, targetForced]
  have hzone : zoneLimit s' = zoneLimit s := by rw [zoneLimit, hradio, zoneLimit]
  rw [target, hforced, hradio, hset, hzone, target]

/-! ## The target that a step forms -/

@[simp] theorem ramped_t (t : Traction) (state : TractionState) (d : TractionSet) : (t.ramped state d).t = t.t := by
  cases state <;> rfl

@[simp] theorem settle_t (t : Traction) (requested : Direction) (sensor : Sensor) (m : Nat) :
    (t.settle requested sensor m).t = t.t := by
  simp only [Traction.settle]
  split <;> rfl

@[simp] theorem seed_t (t : Traction) : t.seed.t = t.t := by
  unfold Traction.seed
  split <;> rfl

@[simp] theorem formDuty_t (t : Traction) (d : TractionSet) (sensor : Sensor) (m : Nat) (chopped : Bool) :
    (t.formDuty d sensor m chopped).t = t.t := by
  cases sensor with
  | ok =>
    simp only [Traction.formDuty]
    split
    · rfl
    · exact seed_t t
  | none => rfl
  | lost => rfl

@[simp] theorem driven_t (t : Traction) (state : TractionState) (d : TractionSet) (sensor : Sensor) (m : Nat)
    (chopped : Bool) : (t.driven state d sensor m chopped).t = t.t := by
  cases state with
  | held | faulted => rfl
  | quiet | stopped | running | reversing | estop | balance => exact formDuty_t t d sensor m chopped

/-- Stages 2 to 4 leave the target of stage 1, formed with the direction comparison of this step (R66). -/
@[simp] theorem controlStep_t (s : State) (chopped : Bool) :
    (controlStep s chopped).t = target s (decide (s.radio.request.direction ≠ s.traction.direction)) := by
  simp [controlStep]

/-! ## The rest of a step in RUN outside BALANCE -/

theorem endRun_of_no_run {s : State} (hrun : s.balance.run = none) (outcome : OutcomeCode) :
    s.endRun outcome = s := by
  simp [State.endRun, hrun]

/-- With no balance run to end, the inputs of a step touch nothing that stage 1 reads. -/
theorem stepInputs_of_no_run {s : State} (hrun : s.balance.run = none) :
    s.stepInputs.balance = s.balance ∧ s.stepInputs.radio = s.radio
      ∧ s.stepInputs.traction.direction = s.traction.direction
      ∧ s.stepInputs.traction.latch = s.traction.latch := by
  simp only [State.stepInputs]
  rw [endRun_of_no_run (by simpa using hrun), ite_self]
  simp

theorem control_of_no_run {s : State} (hgo : s.isRun = true) (hrun : s.balance.run = none) :
    s.control = s.onTraction fun _ => controlStep s (s.bridges.a.chopFlag || s.bridges.b.chopFlag) := by
  simp [State.control, hgo, hrun]

@[simp] theorem handCommand_t (s : State) (c : Command) : (s.handCommand c).traction.t = s.traction.t := rfl

@[simp] theorem stationStopped_request (s : State) : s.stationStopped.radio.request = s.radio.request := by
  unfold State.stationStopped
  split <;> rfl

@[simp] theorem reportTraction_request (s : State) (before : TractionState) :
    (s.reportTraction before).radio.request = s.radio.request := by
  simp only [State.reportTraction]
  split <;> simp

@[simp] theorem derive_t (s : State) : s.derive.traction.t = s.traction.t := by
  simp [State.derive]

@[simp] theorem derive_request (s : State) : s.derive.radio.request = s.radio.request := by
  simp [State.derive]

@[simp] theorem stepEnds_t (s : State) : s.stepEnds.traction.t = s.traction.t := by
  simp [State.stepEnds]

@[simp] theorem stepEnds_request (s : State) : s.stepEnds.radio.request = s.radio.request := by
  simp [State.stepEnds]

/-- Through the stages of a step the target is that of stage 1 over the state before them, and the request stands. -/
theorem stages_of_no_run {s : State} (hgo : s.isRun = true) (hrun : s.balance.run = none) :
    s.stepInputs.control.stepEnds.traction.t
        = target s (decide (s.radio.request.direction ≠ s.traction.direction))
      ∧ s.stepInputs.control.stepEnds.radio.request = s.radio.request := by
  obtain ⟨hbalance, hradio, hdirection, hlatch⟩ := stepInputs_of_no_run hrun
  have hsets : s.stepInputs.sets = s.sets := by simp
  have hgo' : s.stepInputs.isRun = true := by
    rw [State.isRun, State.stepInputs_run]
    exact hgo
  have hcontrol := control_of_no_run hgo' (by rw [hbalance, hrun])
  constructor
  · calc s.stepInputs.control.stepEnds.traction.t
        = target s.stepInputs
            (decide (s.stepInputs.radio.request.direction ≠ s.stepInputs.traction.direction)) := by
          rw [stepEnds_t, hcontrol, State.onTraction_traction, controlStep_t]
      _ = target s (decide (s.radio.request.direction ≠ s.traction.direction)) := by
          rw [hradio, hdirection, target_congr hradio hsets hlatch]
  · rw [stepEnds_request, hcontrol, State.onTraction_radio, hradio]

/-- A whole step: the clock and the timer, which it sets before its stages, are nothing that stage 1 reads. -/
theorem regulationStep_of_no_run {s : State} (hgo : s.isRun = true) (hrun : s.balance.run = none) :
    (regulationStep s).traction.t = target s (decide (s.radio.request.direction ≠ s.traction.direction))
      ∧ (regulationStep s).radio.request = s.radio.request :=
  stages_of_no_run (s := (s.reach s.timers.regulation).onTimers fun t =>
    { t with regulation := (s.reach s.timers.regulation).clock + ms 8 }) hgo hrun

/-! ## The obligation -/

theorem exec_regulationStep (s : State) : exec .regulationStep s = .next (regulationStep s) := rfl

/-- Settles O30: the curve by its interpolation between two points, the step by the target of its stage 1, which the
later stages and the derivation leave. -/
theorem targetFollowsTheCurveUnderTheCaps : Obligations.TargetFollowsTheCurveUnderTheCaps := by
  constructor
  · intro curve h _
    obtain ⟨hlow, hhigh⟩ := rawTarget_between curve h
    exact ⟨rawTarget_eq_interpolation curve h, curvePoint_zero curve, curvePoint_succ curve (h / 32), hlow, hhigh,
      rawTarget_zero curve, rawTarget_full curve⟩
  · intro s d hgo hrun hcache
    obtain ⟨ht, hrequest⟩ := regulationStep_of_no_run hgo hrun
    have hset := tractionSet_of_cache hcache
    refine ⟨regulationStep s, exec_regulationStep s, ?_, fun hzone => ?_, ?_, hrequest, by simp⟩
    · rw [ht, ← hset]
      exact target_le_maxRate s _
    · have hlimit : zoneLimit s = s.radio.zone.cap := if_pos hzone
      rw [ht, ← hlimit]
      exact target_le_zoneLimit s _
    · rw [ht]
      simp only [target, targetForced_iff hcache, decide_eq_true_eq, hset, zoneLimit]

end Sys2Proof.TractionTarget
end

section
/-! PROOFS. Frames that come to a record in the radio log and to nothing else (R123, R135, R136): the sender is heard,
the record offered, and the frames that wait are taken up; with this, the PASS frame (R132). -/

namespace Sys2Proof.LoggedFrames

open Sys2Proof Sys2Proof.Machine Sys2Proof.Safety

/-! ## The sender is heard (R123) -/

theorem hearHolder_eq (s : State) (f : Frame) :
    s.hearHolder f = { s with radio := heard s.radio f s.clock } := by
  unfold State.hearHolder heard
  split <;> rfl

/-- Hearing a sender reaches neither the log's place nor the receiver's side. -/
@[simp] theorem heard_receiver (r : Radio) (f : Frame) (now : Nat) :
    (heard r f now).logIndex = r.logIndex ∧ (heard r f now).logSeq = r.logSeq
      ∧ (heard r f now).overflow = r.overflow ∧ (heard r f now).handling = r.handling
      ∧ (heard r f now).waiting = r.waiting ∧ (heard r f now).repeats = r.repeats := by
  unfold heard
  split <;> exact ⟨rfl, rfl, rfl, rfl, rfl, rfl⟩

/-! ## The log's place and the frames that wait -/

/-- The end of a frame's handling leaves the place in the log (R118). -/
@[simp] theorem frameDone_log (s : State) :
    s.frameDone.radio.logIndex = s.radio.logIndex ∧ s.frameDone.radio.logSeq = s.radio.logSeq
      ∧ s.frameDone.radio.overflow = s.radio.overflow := by
  rw [s.frameDone_receiver]
  exact ⟨rfl, rfl, rfl⟩

/-- An offer leaves the frames that wait and the repeat table (R135). -/
@[simp] theorem offer_receiver (s : State) (kind : RecordKind) (reason : Reason) (f : Frame) :
    (s.offer kind reason f).radio.waiting = s.radio.waiting
      ∧ (s.offer kind reason f).radio.repeats = s.radio.repeats := by
  rw [s.offer_eq kind reason f]
  exact ⟨rfl, rfl⟩

/-- The end of a handling speaks of the state before it by the waiting frames, the repeat table and the clock alone, so
it may be told from any earlier state that agrees on these. -/
theorem frameEnded_of_receiver_eq {s u t : State} (hwaiting : u.radio.waiting = s.radio.waiting)
    (hrepeats : u.radio.repeats = s.radio.repeats) (hclock : u.clock = s.clock) (h : frameEnded u t) :
    frameEnded s t := by
  simp only [frameEnded, hwaiting, hrepeats, hclock] at h
  exact h

/-! ## Heard, logged, ended -/

/-- A frame of which nothing comes but its record: the whole of its handling. -/
def loggedOnly (s : State) (kind : RecordKind) (reason : Reason) (f : Frame) : State :=
  ((s.hearHolder f).offer kind reason f).frameDone

theorem loggedOnly_recorded (s : State) (kind : RecordKind) (reason : Reason) (f : Frame)
    (hwf : s.xm.wf = true) : recordOffered s (loggedOnly s kind reason f) kind reason f [] := by
  have hoffer := (s.hearHolder f).offer_recorded kind reason f (by simpa using hwf)
  simpa [recordOffered, loggedOnly, hearHolder_eq] using hoffer

theorem loggedOnly_only (s : State) (kind : RecordKind) (reason : Reason) (f : Frame)
    (hwf : s.xm.wf = true) (hindex : s.radio.logIndex < 64) :
    recordOnly s (loggedOnly s kind reason f) := by
  have hoffer := (s.hearHolder f).offer_only kind reason f (by simpa using hwf)
    (by simpa [hearHolder_eq] using hindex)
  simpa [recordOnly, loggedOnly, hearHolder_eq] using hoffer

theorem loggedOnly_ended (s : State) (kind : RecordKind) (reason : Reason) (f : Frame) :
    frameEnded s (loggedOnly s kind reason f) :=
  frameEnded_of_receiver_eq (by simp [hearHolder_eq]) (by simp [hearHolder_eq]) (by simp)
    (State.frameDone_ended _)

/-- Beside memory, the arbiter's rotation, the pending bits and the receiver's side, the sender's being heard is all
that is left of the frame (R123). -/
theorem loggedOnly_eq (s : State) (kind : RecordKind) (reason : Reason) (f : Frame) :
    loggedOnly s kind reason f = { s with
      xm := (loggedOnly s kind reason f).xm, lastGranted := .radioWriter
      port := { s.port with notice := (loggedOnly s kind reason f).port.notice }
      radio := besideFrames (heard s.radio f s.clock) (loggedOnly s kind reason f).radio } := by
  unfold loggedOnly
  rw [State.frameDone_receiver, State.offer_eq, hearHolder_eq]
  rfl

theorem loggedOnly_frameLogged (s : State) (kind : RecordKind) (reason : Reason) (f : Frame)
    (hwf : s.xm.wf = true) (hindex : s.radio.logIndex < 64) :
    frameLogged s (loggedOnly s kind reason f) kind reason f :=
  ⟨loggedOnly_recorded s kind reason f hwf, loggedOnly_only s kind reason f hwf hindex,
    loggedOnly_ended s kind reason f, loggedOnly_eq s kind reason f⟩

/-! ## The fields of a record (11.7) -/

/-- A part of a run of bytes, read from their place. -/
theorem readBytes_of_reads {m : Memory} {a : Nat} {l : List Byte}
    (h : ∀ k, k < l.length → m.read (a + k) = l.getD k 0) (start n : Nat) (hfit : start + n ≤ l.length) :
    m.readBytes (a + start) n = (l.drop start).take n := by
  refine List.ext_getElem (by simp [Memory.length_readBytes]; omega) fun k hk hk' => ?_
  rw [Memory.length_readBytes] at hk
  rw [Memory.getElem_readBytes, Nat.add_assoc, h (start + k) (by omega), List.getElem_take,
    List.getElem_drop, List.getD_eq_getElem?_getD, List.getElem?_eq_getElem (by omega), Option.getD_some]

/-- With room in the log, a record that is offered stands whole at the old write index (R135). -/
theorem recordOffered_reads {s t : State} {kind : RecordKind} {reason : Reason} {f : Frame} {bits : List NoticeBit}
    (h : recordOffered s t kind reason f bits)
    (hroom : (s.radio.logIndex + 1) % 64 ≠ (s.xm.read 0x32).toNat % 64) :
    (∀ k, k < 32 → t.xm.read (0x1800 + 32 * s.radio.logIndex + k) =
        (recordBytes (s.radio.logSeq + 1) (millisecondClock s) kind reason s.radio.overflow f).getD k 0)
      ∧ t.radio.logIndex = (s.radio.logIndex + 1) % 64 ∧ t.port = withNotice s.port (.radio :: bits) := by
  obtain ⟨-, hcase⟩ := h
  rw [if_neg hroom] at hcase
  obtain ⟨hbytes, hmoved, -, hport⟩ := hcase
  rw [recordBytes_read]
  exact ⟨hbytes, hmoved, hport⟩

/-- The record's kind and reason, the addresses with class, kind and payload length, and the payload, filled up
with 0, in its bytes. -/
theorem recordBytes_fields (seq : Half) (time : Reg) (kind : RecordKind) (reason : Reason) (gap : Bool) (f : Frame) :
    (recordBytes seq time kind reason gap f).getD 6 0 = kind.code
      ∧ (recordBytes seq time kind reason gap f).getD 7 0 = reason.code
      ∧ ((recordBytes seq time kind reason gap f).drop 9).take 7 =
          [loByte f.cls] ++ bytes16 f.sender ++ bytes16 f.target ++ [loByte f.kind, loByte f.payload.length]
      ∧ ((recordBytes seq time kind reason gap f).drop 16).take 16 =
          (f.payload ++ List.replicate 16 0).take 16 := by
  refine ⟨rfl, rfl, rfl, ?_⟩
  have hlast : (recordBytes seq time kind reason gap f).drop 16 = (f.payload ++ List.replicate 16 0).take 16 := rfl
  rw [hlast, List.take_take, Nat.min_self]

/-- With room in the log, those fields stand in memory. -/
theorem recordOffered_fields {s t : State} {kind : RecordKind} {reason : Reason} {f : Frame} {bits : List NoticeBit}
    (h : recordOffered s t kind reason f bits)
    (hroom : (s.radio.logIndex + 1) % 64 ≠ (s.xm.read 0x32).toNat % 64) :
    t.xm.read (0x1800 + 32 * s.radio.logIndex + 6) = kind.code
      ∧ t.xm.read (0x1800 + 32 * s.radio.logIndex + 7) = reason.code
      ∧ t.xm.readBytes (0x1800 + 32 * s.radio.logIndex + 9) 7 =
          [loByte f.cls] ++ bytes16 f.sender ++ bytes16 f.target ++ [loByte f.kind, loByte f.payload.length]
      ∧ t.xm.readBytes (0x1800 + 32 * s.radio.logIndex + 16) 16 =
          (f.payload ++ List.replicate 16 0).take 16 := by
  obtain ⟨hbytes, -, -⟩ := recordOffered_reads h hroom
  obtain ⟨hkind, hreason, hhead, hpayload⟩ :=
    recordBytes_fields (s.radio.logSeq + 1) (millisecondClock s) kind reason s.radio.overflow f
  have hpart := readBytes_of_reads (by rw [length_recordBytes]; exact hbytes)
  rw [length_recordBytes] at hpart
  exact ⟨(hbytes 6 (by decide)).trans hkind, (hbytes 7 (by decide)).trans hreason,
    (hpart 9 7 (by decide)).trans hhead, (hpart 16 16 (by decide)).trans hpayload⟩

/-! ## PASS (R132) -/

theorem exec_passFrame (s : State) : exec .passFrame s = .next (passFrame s) := rfl

/-- A PASS payload is well formed by its length alone (R120). -/
theorem wellFormedPayload_pass {f : Frame} (hkind : f.kind = 9) :
    wellFormedPayload f = decide (f.payload.length ≤ 16) := by
  simp [wellFormedPayload, hkind]

/-- A well-formed PASS frame in hand comes to its record alone. -/
theorem passFrame_eq_loggedOnly {s : State} {f : Frame} (hhand : s.radio.handling = some f) (hkind : f.kind = 9)
    (hlength : f.payload.length ≤ 16) : passFrame s = loggedOnly s .frame .passed f := by
  have hact : s.actOn f passAct = (s.hearHolder f).logFrame .passed f := by
    simp [State.actOn, passAct, wellFormedPayload_pass hkind, hkind, hlength]
  simp [passFrame, State.handleFrame, hhand, hkind, hact, loggedOnly, State.logFrame]

/-- Settles O42: the frame's handling is its sender's being heard, the offer of its record and the end of its handling,
and the record's fields are read from the 32 bytes that the offer writes. -/
theorem passFramesAreLoggedAndNoMore : Obligations.PassFramesAreLoggedAndNoMore := by
  rintro s f ⟨hwf, hindex, hhand, hkind⟩ hlength
  obtain ⟨hoffered, honly, hended, hframe⟩ := loggedOnly_frameLogged s .frame .passed f hwf hindex
  rw [← passFrame_eq_loggedOnly hhand hkind hlength] at hoffered honly hended hframe
  refine ⟨passFrame s, exec_passFrame s, fun hroom => ?_, honly, hended, hframe⟩
  obtain ⟨-, hmoved, hport⟩ := recordOffered_reads hoffered hroom
  obtain ⟨hcode, hreason, hhead, hpayload⟩ := recordOffered_fields hoffered hroom
  rw [hkind] at hhead
  exact ⟨hcode, hreason, hhead, hpayload, hmoved, hport⟩

end Sys2Proof.LoggedFrames
end

section
/-! PROOFS. The canonical form of exchange memory, kept by every command and by the idle step (R4; log 7). -/

namespace Sys2Proof.CanonicalMemory

open Sys2Proof Sys2Proof.Machine

/-- A command that writes memory has its own law of the canonical form; every other leaves memory as it was. -/
theorem exec_wf (c : Instr) (s t : State) (hwf : s.xm.wf = true) (ht : exec c s = .next t) : t.xm.wf = true := by
  cases c <;> cases ht <;> simp [hwf]

/-- Settles O56: the law says nothing of the queue, and every command and the idle step keep it. -/
theorem everyStepKeepsMemoryCanonical : Obligations.EveryStepKeepsMemoryCanonical :=
  step_keeps (fun s => s.xm.wf = true) (fun _ _ hwf => hwf) idle_wf exec_wf

end Sys2Proof.CanonicalMemory
end

section
/-! PROOFS. The host port: what a step takes from the queue, memory transactions (R2), register reads and writes (R1,
R3, R7, R8, R17, R22, R23). -/

namespace Sys2Proof.HostPort

open Sys2Proof Sys2Proof.Machine

/-! ## Steps -/

/-- Settles O1, by what a step does with a command waiting. -/
theorem stepRunsTheFrontCommand : Obligations.StepRunsTheFrontCommand :=
  fun c rest s hpending => step_command s c rest hpending

/-! ## MISO bytes -/

@[simp] theorem length_misoBytes (free n : Nat) : (misoBytes free n).length = n := by simp [misoBytes]

/-! ## Memory transactions (R2) -/

theorem hostAccesses_eq (s : State) (n : Nat) :
    s.hostAccesses n = { s with lastGranted := if n = 0 then s.lastGranted else .hostPort } := by
  unfold State.hostAccesses
  split <;> rfl

/-- Settles O3, by the reads of a memory after a run of bytes has been written into it. -/
theorem writeMemoryStoresItsBytes : Obligations.WriteMemoryStoresItsBytes := by
  intro addr data s hwf
  have hxm : (writeMemory addr data s).xm = s.xm.writeBytes addr.toNat data := by simp [writeMemory]
  refine ⟨writeMemory addr data s, rfl, fun k hk hlast => ?_, fun a ha => ?_, ?_, ?_, ?_⟩
  · rw [hxm]
    exact Memory.read_writeBytes hwf k hk hlast
  · rw [hxm]
    exact Memory.read_writeBytes_other hwf ha
  · simp [writeMemory, State.spiWrite]
    omega
  · simp [writeMemory, State.spiWrite]
  · simp only [writeMemory, hostAccesses_eq, List.length_eq_zero_iff]
    rfl

/-- The answer of a READ_MEMORY: the four bytes before the data, then the bytes read. -/
theorem readMemory_eq (addr : BitVec 16) (count : Nat) (s : State) :
    readMemory addr count s = { s with
      free := s.free + 2, lastGranted := if count = 0 then s.lastGranted else .hostPort
      port := { s.port with miso :=
        [0, Config.misoByte s.free, Config.misoByte (s.free + 1), 0] ++ s.xm.readBytes addr.toNat count } } := by
  simp only [readMemory, hostAccesses_eq]
  rfl

/-- Settles O4, by the bytes of the answer and where each stands in it. -/
theorem readMemoryAnswersTheBytes : Obligations.ReadMemoryAnswersTheBytes := by
  intro addr count s
  refine ⟨readMemory addr count s, rfl, ?_⟩
  rw [readMemory_eq]
  refine ⟨?_, rfl, rfl, fun k hk => ?_, rfl⟩
  · simp [Memory.length_readBytes]
    omega
  · have hlength : k < (s.xm.readBytes addr.toNat count).length := by rwa [Memory.length_readBytes]
    rw [List.getElem?_append_right (by simp), List.length_cons, List.length_cons, List.length_cons,
      List.length_singleton, Nat.add_sub_cancel_left, List.getElem?_eq_getElem hlength,
      Memory.getElem_readBytes]

/-! ## Register writes (R1, R3, R22, R23) -/

/-- Settles O5, one row at a time, each a transaction with its effect on NOTICE or on the mask, or with none. -/
theorem registerWritesActOrAreIgnored : Obligations.RegisterWritesActOrAreIgnored := by
  refine ⟨⟨fun command more s _ => ?_, fun number value s _ => ?_⟩, fun value s => ?_, fun value s => ?_⟩
  · exact ⟨invalidCommand command more s, rfl, by simp [invalidCommand],
      fun b hb => List.eq_of_mem_replicate hb, rfl⟩
  · exact ⟨registerWriteOther number value s, rfl,
      by simp [registerWriteOther, State.registerWrite, State.spiWrite], rfl⟩
  · refine ⟨noticeWrite value s, rfl, fun i hi => ?_, rfl⟩
    simp [noticeWrite, State.registerWrite, State.spiWrite, hi]
  · refine ⟨noticeMaskWrite value s, rfl, fun i hi => ?_, rfl⟩
    simp [noticeMaskWrite, hi]

/-! ## Register reads (R3, R7, R8, R17) -/

/-- CONTROL shows RUN in bit 0 and STARTING in bit 1. -/
theorem control_bits (running starting : Bool) (i : Nat) :
    (BitVec.ofNat 32 (boolNat running + 2 * boolNat starting)).getLsbD i =
      ((decide (i = 0) && running) || (decide (i = 1) && starting)) := by
  rcases i with _ | _ | i
  · cases running <;> cases starting <;> rfl
  · cases running <;> cases starting <;> rfl
  · have hsmall : boolNat running + 2 * boolNat starting < 2 ^ (i + 2) := by
      have hfour : 2 ^ 2 ≤ 2 ^ (i + 2) := Nat.pow_le_pow_right (by decide) (by omega)
      have hrun : boolNat running ≤ 1 := by cases running <;> decide
      have hstart : boolNat starting ≤ 1 := by cases starting <;> decide
      omega
    simp [BitVec.getLsbD_ofNat, Nat.testBit_lt_two_pow hsmall]

/-- Settles O7: ID and SWEEP are constants, CONTROL is read bit by bit, and no number above 4 names a register. -/
theorem registersAsTheHostReadsThem : Obligations.RegistersAsTheHostReadsThem := by
  refine fun s => ⟨by simp [registerAnswer, misoBytes, readRegister, bytes32], control_bits _ _, rfl, fun n hn => ?_⟩
  obtain ⟨k, rfl⟩ := Nat.exists_eq_add_of_lt hn
  rw [show 4 + k + 1 = k + 5 by omega]
  rfl

end Sys2Proof.HostPort
end

section
/-! PROOFS. Sweeps (R17) and the take of a slot (R18 to R20): when a sweep is free, which slot it copies next, and what
SLOT_TAKE and SWEEP_END do then. -/

namespace Sys2Proof.Sweeps

open Sys2Proof Sys2Proof.Machine Sys2Proof.Safety

/-! ## A free sweep and its next slot -/

theorem orderWaits_eq_false {q : List SetAction} (h : ∀ a ∈ q, ∀ k, a.source ≠ .order k) :
    orderWaits q = false := by
  rw [orderWaits, List.any_eq_false]
  intro a ha
  cases hsource : a.source with
  | order slot => exact absurd hsource (h a ha slot)
  | frame f => simp

theorem sweepFree_of_idle {s : State} {w : Sweep} (hcurrent : w.current = none)
    (hqueue : ∀ a ∈ s.sets.queue, ∀ k, a.source ≠ .order k) : sweepFree s w = true := by
  simp [sweepFree, hcurrent, orderWaits_eq_false hqueue]

/-- A slot reads POSTED where its state byte is 1. -/
theorem slotState_eq_one_iff (m : Memory) (n : Nat) : slotState m n = 1 ↔ m.read (0x200 + 64 * n) = 1 := by
  rw [slotState, slotBase, ← BitVec.toNat_inj]
  rfl

theorem nextPosted_eq_some {m : Memory} {held : List Nat} {first count n : Nat} (hlow : first ≤ n)
    (hhigh : n < first + count) (hheld : n ∉ held) (hposted : slotState m n = 1)
    (hpassed : ∀ k, first ≤ k → k < n → k ∈ held ∨ slotState m k ≠ 1) : nextPosted m held first count = some n := by
  induction count generalizing first with
  | zero => omega
  | succ count ih =>
    rw [nextPosted]
    by_cases hfirst : first = n
    · subst hfirst
      simp [hheld, hposted]
    · have hnot : (!held.contains first && decide (slotState m first = 1)) = false := by
        rcases hpassed first (Nat.le_refl _) (by omega) with hmem | hstate
        · simp [hmem]
        · simp [hstate]
      rw [hnot]
      exact ih (by omega) (by omega) fun k hk hkn => hpassed k (by omega) hkn

theorem nextPosted_eq_none {m : Memory} {held : List Nat} {first count : Nat}
    (hpassed : ∀ k, first ≤ k → k < first + count → k ∉ held → slotState m k ≠ 1) :
    nextPosted m held first count = none := by
  induction count generalizing first with
  | zero => rfl
  | succ count ih =>
    have hnot : (!held.contains first && decide (slotState m first = 1)) = false := by
      by_cases hmem : first ∈ held
      · simp [hmem]
      · simp [hpassed first (Nat.le_refl _) (by omega) hmem]
    rw [nextPosted, hnot]
    exact ih fun k hk hkn => hpassed k (by omega) (by omega)

theorem sweepTarget_of_before {s : State} {w : Sweep} {n : Nat} {copied : List Byte}
    (h : sweepBefore s w n copied) : sweepTarget s w = some (n, copied) := by
  obtain ⟨-, -, -, hn, ⟨hcopy, hpos, -⟩ | ⟨hcopy, hnone, hpos, hheld, hposted, hpassed⟩⟩ := h
  · simp [sweepTarget, hcopy, hpos]
  · have hnext : nextPosted s.xm s.orders.held w.pos (32 - w.pos) = some n :=
      nextPosted_eq_some hpos (by omega) hheld ((slotState_eq_one_iff _ _).2 hposted) fun k hk hkn =>
        (hpassed k hk hkn).imp id fun hread hstate => hread ((slotState_eq_one_iff _ _).1 hstate)
    simp [sweepTarget, hcopy, hnext, hnone]

/-- SLOT_TAKE at the copy of slot `n`. -/
theorem slotTake_of_before {s : State} {w : Sweep} {n : Nat} {copied : List Byte} (h : sweepBefore s w n copied) :
    slotTake s = (s.takeSlot n (slotCopy s n copied)).granted .orderEngine := by
  obtain ⟨hsweep, hcurrent, hqueue, -⟩ := id h
  simp only [slotTake, hsweep, sweepFree_of_idle hcurrent hqueue, if_true, sweepTarget_of_before h]
  rfl

theorem length_slotCopy {s : State} {w : Sweep} {n : Nat} {copied : List Byte} (h : sweepBefore s w n copied) :
    copied.length ≤ 40 ∧ (slotCopy s n copied).length = 40 := by
  have hlength : copied.length ≤ 40 := by
    obtain ⟨-, -, -, -, ⟨-, -, hle⟩ | ⟨-, hnil, -⟩⟩ := h
    · exact hle
    · simp [hnil]
  refine ⟨hlength, ?_⟩
  rw [slotCopy, List.length_append, Memory.length_readBytes]
  omega

/-- The copy holds what an idle step copied, and the rest of the slot as it stands. -/
theorem getD_slotCopy {s : State} {w : Sweep} {n : Nat} {copied : List Byte} (h : sweepBefore s w n copied) {i : Nat}
    (hi : i < 40) : (slotCopy s n copied).getD i 0 =
      if i < copied.length then copied.getD i 0 else s.xm.read (0x200 + 64 * n + i) := by
  obtain ⟨hlength, -⟩ := length_slotCopy h
  rw [slotCopy]
  split
  · next hlt => rw [List.getD_append _ _ _ _ hlt]
  · next hge =>
    have hrest : i - copied.length < (s.xm.readBytes (0x200 + 64 * n + copied.length) (40 - copied.length)).length := by
      rw [Memory.length_readBytes]
      omega
    rw [List.getD_append_right _ _ _ _ (by omega), List.getD_eq_getElem _ _ hrest, Memory.getElem_readBytes]
    congr 1
    omega

/-! ## The take of a slot (R18) -/

theorem param8_eq (bytes : List Byte) (k : Nat) : param8 bytes k = (bytes.getD k 0).toNat := rfl

/-- The order that a copy of 40 bytes holds. -/
theorem takenOrder_eq (n : Nat) {bytes : List Byte} (hlength : bytes.length = 40) :
    takenOrder n bytes = {
      slot := n
      kind := (bytes.getD 1 0).toNat
      tag := BitVec.ofNat 16 ((bytes.getD 2 0).toNat + 256 * (bytes.getD 3 0).toNat)
      params := (List.range 36).map fun i => bytes.getD (4 + i) 0
      load := none } := by
  have hparams : bytes.drop 4 = (List.range 36).map fun i => bytes.getD (4 + i) 0 := by
    refine List.ext_getElem (by simp [hlength]) fun i hi hi' => ?_
    rw [List.length_drop, hlength] at hi
    rw [List.getElem_drop, List.getElem_map, List.getElem_range, List.getD_eq_getElem _ _ (by omega)]
  rw [takenOrder, hparams]
  rfl

/-- The state of a slot just taken, the order in hand. -/
def slotTaken (s : State) (n : Nat) (o : TakenOrder) : State :=
  { s with
    xm := s.xm.write (slotBase n) 2, lastGranted := .orderEngine
    orders := { s.orders with
      held := s.orders.held ++ [n], sweep := some { pos := n + 1, copy := none, current := some o } } }

theorem takeSlot_posted {s : State} {w : Sweep} {n : Nat} (bytes : List Byte) (hsweep : s.orders.sweep = some w)
    (hposted : s.xm.read (0x200 + 64 * n) = 1) :
    s.takeSlot n bytes = match orderRefusal s (param8 bytes 1) with
      | some outcome => (slotTaken s n (takenOrder n bytes)).completeOrder (takenOrder n bytes) outcome
          (refusalResult s (param8 bytes 1))
      | none => slotTaken s n (takenOrder n bytes) := by
  have htaken : (((s.writeSlotState n 2).onOrders fun e => { e with held := e.held ++ [n] }).passSlot n
      (some (takenOrder n bytes))) = slotTaken s n (takenOrder n bytes) := by
    simp only [State.passSlot, State.onSweep, State.onOrders, State.writeSlotState, State.onXm, State.granted, hsweep]
    rfl
  rw [State.takeSlot, if_pos ((slotState_eq_one_iff _ _).2 hposted)]
  simp only [htaken]
  rfl

theorem takeSlot_gone {s : State} {w : Sweep} {n : Nat} (bytes : List Byte) (hsweep : s.orders.sweep = some w)
    (hgone : s.xm.read (0x200 + 64 * n) ≠ 1) : s.takeSlot n bytes = { s with
      orders := { s.orders with sweep := some { pos := n + 1, copy := none, current := none } } } := by
  rw [State.takeSlot, if_neg fun hstate => hgone ((slotState_eq_one_iff _ _).1 hstate)]
  simp only [State.passSlot, State.onSweep, State.onOrders, hsweep]
  rfl

theorem orderRefusal_eq_none {s : State} {k : Nat} (hlow : 1 ≤ k) (hhigh : k ≤ 14)
    (hrun : s.isRun = true ∨ k = 13) : orderRefusal s k = none := by
  rw [orderRefusal, if_neg (by omega), if_neg]
  rintro ⟨hquiet, hkind⟩
  rcases hrun with hrun | hrun
  · rw [hrun] at hquiet
    cases hquiet
  · exact hkind hrun

theorem orderRefusal_eq_some {s : State} {k : Nat} (hrefused : k = 0 ∨ 14 < k ∨ (s.isRun = false ∧ k ≠ 13)) :
    orderRefusal s k = some (if k = 0 ∨ 14 < k then .unknownKind else .notRunning) := by
  by_cases hkind : k = 0 ∨ 14 < k
  · simp [orderRefusal, hkind]
  · have hquiet : s.isRun = false ∧ k ≠ 13 := by tauto
    rw [orderRefusal, if_neg hkind, if_pos hquiet, if_neg hkind]

/-- Settles O9: the copy byte by byte, and the take, which the common checks let pass, or the discard. -/
theorem slotTakeCopiesAndTakes : Obligations.SlotTakeCopiesAndTakes := by
  constructor
  · rintro s w n copied bytes hwf hbefore rfl hposted hlow hhigh hrun
    obtain ⟨-, hlength⟩ := length_slotCopy hbefore
    refine ⟨fun i hi => getD_slotCopy hbefore hi, slotTake s, rfl, ?_⟩
    rw [slotTake_of_before hbefore, takeSlot_posted _ hbefore.1 hposted, param8_eq,
      orderRefusal_eq_none hlow hhigh hrun, takenOrder_eq n hlength]
    have hn : n < 32 := hbefore.2.2.2.1
    refine ⟨Memory.read_write_same (m := s.xm) _ _ hwf, fun a ha hne => ?_, rfl⟩
    refine Memory.read_write_other (m := s.xm) _ hwf ?_
    simp only [slotBase]
    omega
  · intro s w n copied hbefore hgone
    show Host.Outcome.next (slotTake s) = _
    rw [slotTake_of_before hbefore, takeSlot_gone _ hbefore.1 hgone]
    rfl

/-! ## Orders that the common checks refuse (R19, R20) -/

theorem filter_ne_append_self {held : List Nat} {n : Nat} (h : n ∉ held) :
    (held ++ [n]).filter (fun k => decide (k ≠ n)) = held := by
  rw [List.filter_append, List.filter_eq_self.2 fun k hk => by
    simp only [decide_eq_true_eq]
    rintro rfl
    exact h hk]
  simp

/-- A taken slot differs from the posted one in its state byte alone, which the completion writes again. -/
theorem sameBut_slotTaken {s : State} {n : Nat} (o : TakenOrder) (hwf : s.xm.wf = true) (hn : n < 32) :
    sameBut s.xm (slotTaken s n o).xm (inSlot n) := by
  intro a ha hout
  refine Memory.read_write_other (m := s.xm) _ hwf fun heq => hout (.inl ?_)
  simp only [slotBase] at heq ⊢
  omega

/-- A slot taken and its order completed at once. -/
theorem takeSlot_refused {s : State} {o : TakenOrder} (hwf : s.xm.wf = true) (hn : o.slot < 32)
    (hheld : o.slot ∉ s.orders.held) (outcome : OutcomeCode) (result : List Byte) :
    slotDone ((slotTaken s o.slot o).completeOrder o outcome result).xm o.slot outcome 0 result
    ∧ sameBut s.xm ((slotTaken s o.slot o).completeOrder o outcome result).xm (inSlot o.slot)
    ∧ (slotTaken s o.slot o).completeOrder o outcome result = { s with
        xm := ((slotTaken s o.slot o).completeOrder o outcome result).xm
        lastGranted := .orderEngine
        port := withNotice s.port [.order]
        orders := { s.orders with sweep := some { pos := o.slot + 1, copy := none, current := none } } } := by
  have hwf' : (slotTaken s o.slot o).xm.wf = true := Memory.wf_write _ _ hwf
  have hheld' : (slotTaken s o.slot o).orders.held.filter (fun k => decide (k ≠ o.slot)) = s.orders.held :=
    filter_ne_append_self hheld
  refine ⟨State.completeSlot_done _ o.slot _ 0 _ hwf' hn,
    sameBut_trans (sameBut_slotTaken o hwf hn) (State.completeSlot_same _ o.slot _ 0 _ hwf' hn), ?_⟩
  rw [State.completeOrder_eq, ordersAfter, hheld']
  rfl

/-- Settles O10: the slot is taken, its order completed with the refusal in the same command. -/
theorem slotTakeRefusesByTheCommonChecks : Obligations.SlotTakeRefusesByTheCommonChecks := by
  rintro s w n k copied hwf hbefore hposted rfl hrefused hheld
  have hn : n < 32 := hbefore.2.2.2.1
  refine ⟨slotTake s, rfl, ?_⟩
  rw [slotTake_of_before hbefore, takeSlot_posted _ hbefore.1 hposted, param8_eq, orderRefusal_eq_some hrefused]
  exact takeSlot_refused (s := s) (o := takenOrder n (slotCopy s n copied)) hwf hn hheld _ _

/-! ## Requests and the end of a sweep (R17) -/

theorem requestSweep_begins {s : State} (hreset : s.port.reset = none) (hsweep : s.orders.sweep = none) :
    s.requestSweep = { s with
      orders := { s.orders with sweep := some { pos := 0, copy := none, current := none } } } := by
  simp only [State.requestSweep, hreset, hsweep]
  rfl

theorem requestSweep_again {s : State} (hreset : s.port.reset = none) (hsweep : s.orders.sweep ≠ none) :
    s.requestSweep = { s with orders := { s.orders with again := true } } := by
  rw [State.requestSweep, hreset]
  simp [Option.isSome_iff_ne_none.2 hsweep, State.onOrders]

theorem requestSweep_reset {s : State} {j : ResetJob} (hreset : s.port.reset = some j) :
    s.requestSweep = { s with port := { s.port with reset := some { j with sweepRequest := true } } } := by
  rw [State.requestSweep, hreset]
  rfl

/-- A request with no reset in progress: the order engine alone changes. -/
theorem requestSweep_orders {s : State} (hreset : s.port.reset = none) :
    (s.orders.sweep = none → s.requestSweep.orders =
        { s.orders with sweep := some { pos := 0, copy := none, current := none } })
    ∧ (s.orders.sweep ≠ none → s.requestSweep.orders = { s.orders with again := true })
    ∧ s.requestSweep = { s with orders := s.requestSweep.orders } := by
  refine ⟨fun hsweep => by rw [requestSweep_begins hreset hsweep], fun hsweep => by rw [requestSweep_again hreset hsweep],
    ?_⟩
  by_cases hsweep : s.orders.sweep = none
  · rw [requestSweep_begins hreset hsweep]
  · rw [requestSweep_again hreset hsweep]

theorem unread_eq_nil_iff {s : State} {w : Sweep} :
    unread s w = [] ↔ ∀ n, w.pos ≤ n → n < 32 → n ∈ s.orders.held := by
  simp only [unread, List.filter_eq_nil_iff, List.mem_range, Bool.and_eq_true, decide_eq_true_eq, Bool.not_eq_true',
    ← Bool.not_eq_true, List.contains_iff_mem, not_and, not_not]
  exact forall_congr' fun n => forall_comm

theorem sweepExhausted_of_none {s : State} {w : Sweep} (hcurrent : w.current = none)
    (hqueue : ∀ a ∈ s.sets.queue, ∀ k, a.source ≠ .order k)
    (hnone : ∀ n, w.pos ≤ n → n < 32 → n ∉ s.orders.held → s.xm.read (0x200 + 64 * n) ≠ 1) :
    sweepExhausted s w = true := by
  have hnext : nextPosted s.xm s.orders.held w.pos (32 - w.pos) = none :=
    nextPosted_eq_none fun k hk hkn hheld hstate =>
      hnone k hk (by omega) hheld ((slotState_eq_one_iff _ _).1 hstate)
  simp [sweepExhausted, sweepFree_of_idle hcurrent hqueue, hnext]

/-- SWEEP_END of an exhausted sweep. -/
theorem sweepEnd_of_exhausted {s : State} {w : Sweep} (hsweep : s.orders.sweep = some w)
    (hexhausted : sweepExhausted s w = true) :
    sweepEnd s = { s with
      lastGranted := if unread s w = [] then s.lastGranted else .orderEngine
      orders := { s.orders with
        sweep := if s.orders.again then some { pos := 0, copy := none, current := none } else none
        again := false } } := by
  rw [sweepEnd, hsweep]
  simp only [hexhausted, if_true, State.reads]
  split <;> rfl

/-- Settles O8, by whether a sweep or a reset is in progress. -/
theorem sweepsBeginAndEnd : Obligations.SweepsBeginAndEnd := by
  refine ⟨⟨fun value s hreset => ?_, fun value s j hreset => ?_, fun s due hdue hreset => ?_⟩, ?_⟩
  · obtain ⟨hbegins, hagain, hframe⟩ := requestSweep_orders (s := s.registerWrite) hreset
    exact ⟨_, rfl, hbegins, hagain, by rw [show sweepWrite value s = _ from hframe]; rfl⟩
  · refine ⟨_, rfl, ?_⟩
    rw [show sweepWrite value s = _ from requestSweep_reset (s := s.registerWrite) hreset]
    rfl
  · have hexpiry : sweepTimerExpiry s = ({ s with
        clock := max s.clock due
        timers := { s.timers with sweep := some (max s.clock due + s.orders.period * 1024000) } } : State).requestSweep := by
      rw [sweepTimerExpiry, hdue]
      rfl
    refine ⟨_, rfl, ?_⟩
    rw [hexpiry]
    obtain ⟨hbegins, hagain, hframe⟩ := requestSweep_orders (s := { s with
      clock := max s.clock due
      timers := { s.timers with sweep := some (max s.clock due + s.orders.period * 1024000) } }) hreset
    exact ⟨hbegins, hagain, hframe⟩
  · intro s w hsweep hcurrent hqueue hnone
    refine ⟨_, rfl, ?_⟩
    rw [sweepEnd_of_exhausted hsweep (sweepExhausted_of_none hcurrent hqueue hnone)]
    exact ⟨fun hheld => if_pos (unread_eq_nil_iff.2 hheld),
      fun n hpos hn hheld => if_neg fun hnil => hheld (unread_eq_nil_iff.1 hnil n hpos hn), rfl⟩

end Sys2Proof.Sweeps
end

section
/-! PROOFS. What an operation that shows itself to the host does beside its own blocks: it raises notices and counts
faults, and reaches nothing else of the host port and the status writer (R22, R25). With it the end of an order in
hand (R20), as one fact. -/

namespace Sys2Proof.Notices

open Sys2Proof Sys2Proof.Machine Sys2Proof.Safety

/-- Of the host port nothing has changed but pending bits that were set, of the status writer nothing but the fault
event count. -/
def noticesOnly (s t : State) : Prop :=
  (∃ bits, t.port = withNotice s.port bits) ∧ t.status = { s.status with faultCount := t.status.faultCount }

theorem withNotice_flatten (p : Port) (l l' : List NoticeBit) :
    withNotice (withNotice p l) l' = withNotice p (l ++ l') := by
  simp [withNotice]

theorem noticesOnly_refl (s : State) : noticesOnly s s := ⟨⟨[], rfl⟩, rfl⟩

theorem noticesOnly_trans {s t u : State} (h : noticesOnly s t) (h' : noticesOnly t u) : noticesOnly s u := by
  obtain ⟨⟨bits, hbits⟩, hstatus⟩ := h
  obtain ⟨⟨bits', hbits'⟩, hstatus'⟩ := h'
  refine ⟨⟨bits ++ bits', by rw [hbits', hbits, withNotice_flatten]⟩, ?_⟩
  rw [hstatus', hstatus]

/-- An operation that leaves port and status alone. -/
theorem noticesOnly_of_eq {s t : State} (hport : t.port = s.port) (hstatus : t.status = s.status) : noticesOnly s t :=
  ⟨⟨[], hport⟩, by rw [hstatus]⟩

theorem noticesOnly_port {s t : State} (h : noticesOnly s t) : t.port = { s.port with notice := t.port.notice } := by
  obtain ⟨⟨bits, hbits⟩, -⟩ := h
  rw [hbits]
  rfl

/-- A pending bit that stands stays. -/
theorem withNotice_keeps {p : Port} {k : Nat} (bits : List NoticeBit) (h : p.notice.getLsbD k = true) :
    (withNotice p bits).notice.getLsbD k = true := by
  induction bits generalizing p with
  | nil => exact h
  | cons b bits ih => exact ih (p := withNotice p [b]) (by simp [withNotice, h])

theorem noticesOnly_keeps {s t : State} (h : noticesOnly s t) {k : Nat} (hk : s.port.notice.getLsbD k = true) :
    t.port.notice.getLsbD k = true := by
  obtain ⟨⟨bits, hbits⟩, -⟩ := h
  rw [hbits]
  exact withNotice_keeps bits hk

theorem noticesOnly_raise (s : State) (b : NoticeBit) : noticesOnly s (s.raise b) := ⟨⟨[b], rfl⟩, rfl⟩

theorem noticesOnly_recordFault (s : State) : noticesOnly s s.recordFault := ⟨⟨[.fault], rfl⟩, rfl⟩

/-- A pending bit that an operation raises stands after it. -/
theorem raised_of_mem {p : Port} {bits : List NoticeBit} {b : NoticeBit} (h : b ∈ bits) :
    (withNotice p bits).notice.getLsbD b.index = true := by
  induction bits generalizing p with
  | nil => cases h
  | cons c bits ih =>
    rcases List.mem_cons.1 h with rfl | h
    · refine withNotice_keeps (p := withNotice p [b]) bits ?_
      have hflag : b.flag.getLsbD b.index = true := by cases b <;> rfl
      simp [withNotice, hflag]
    · exact ih (p := withNotice p [c]) h

/-! ## Voices -/

theorem noticesOnly_stopVoice (s : State) (n : Nat) : noticesOnly s (s.stopVoice n) := by
  unfold State.stopVoice
  simp only
  split
  · exact noticesOnly_raise _ .stream
  · exact noticesOnly_refl s

theorem noticesOnly_startVoice (s : State) (n clip : Nat) (use : ClipUse) (f : StartFields) :
    noticesOnly s (s.startVoice n clip use f).1 := by
  refine noticesOnly_trans (noticesOnly_stopVoice s n) ?_
  unfold State.startVoice
  simp only
  repeat' split
  all_goals exact noticesOnly_refl _

theorem noticesOnly_startOrFault (s : State) (n clip : Nat) (use : ClipUse) (f : StartFields) :
    noticesOnly s (s.startOrFault n clip use f) := by
  unfold State.startOrFault
  split
  · exact noticesOnly_stopVoice s n
  · simp only
    split
    · exact noticesOnly_startVoice s n clip use f
    · exact noticesOnly_trans (noticesOnly_startVoice s n clip use f) (noticesOnly_recordFault _)

theorem noticesOnly_trigger (s : State) (clip : Nat) (use : ClipUse) (f : StartFields) :
    noticesOnly s (s.trigger clip use f) := by
  unfold State.trigger
  split
  · split
    · exact noticesOnly_startOrFault ..
    · exact noticesOnly_refl s
  · exact noticesOnly_refl s

/-! ## Derivations -/

theorem noticesOnly_stationStopped (s : State) : noticesOnly s s.stationStopped :=
  noticesOnly_of_eq (by simp) (by simp)

theorem noticesOnly_reportTraction (s : State) (before : TractionState) :
    noticesOnly s (s.reportTraction before) := by
  unfold State.reportTraction
  split
  · exact noticesOnly_trigger ..
  · exact noticesOnly_trans (noticesOnly_trigger ..) (noticesOnly_stationStopped _)
  · exact noticesOnly_trans (noticesOnly_trigger ..) (noticesOnly_stationStopped _)
  · exact noticesOnly_refl s
  · exact noticesOnly_stationStopped s
  · exact noticesOnly_refl s

theorem noticesOnly_handCommand (s : State) (c : Command) : noticesOnly s (s.handCommand c) :=
  noticesOnly_of_eq (by simp) (by simp)

theorem noticesOnly_derive (s : State) : noticesOnly s s.derive :=
  noticesOnly_trans (noticesOnly_reportTraction (s.onTraction fun t => { t with state := derivedState s }) _)
    (noticesOnly_handCommand _ _)

/-- What a report of the traction state may reach: sound, segments, notices, the fault count and the station stop. -/
def reportOnly (s t : State) : Prop :=
  t = { s with
    xm := t.xm, port := t.port, status := t.status, sound := t.sound
    radio := { s.radio with station := t.radio.station } }

theorem reportOnly_trans {s t u : State} (h : reportOnly s t) (h' : reportOnly t u) : reportOnly s u := by
  refine h'.trans ?_
  conv_lhs => rw [h]

theorem reportOnly_stationStopped (s : State) : reportOnly s s.stationStopped := by
  unfold reportOnly State.stationStopped
  split <;> rfl

theorem reportOnly_trigger (s : State) (clip : Nat) (use : ClipUse) (f : StartFields) :
    reportOnly s (s.trigger clip use f) := by
  have h := s.trigger_eq clip use f
  unfold reportOnly
  generalize s.trigger clip use f = t at h
  have hradio : t.radio = s.radio := by rw [h]
  rw [hradio]
  exact h

theorem reportOnly_reportTraction (s : State) (before : TractionState) : reportOnly s (s.reportTraction before) := by
  unfold State.reportTraction
  split
  · exact reportOnly_trigger ..
  · exact reportOnly_trans (reportOnly_trigger ..) (reportOnly_stationStopped _)
  · exact reportOnly_trans (reportOnly_trigger ..) (reportOnly_stationStopped _)
  · rfl
  · exact reportOnly_stationStopped s
  · rfl

/-- A derivation reaches, beside what its report does, the traction state and the bridges (R73 to R75). -/
theorem derive_eq (s : State) : s.derive = { s with
    xm := s.derive.xm, port := s.derive.port, status := s.derive.status, sound := s.derive.sound
    traction := { s.traction with state := s.derive.traction.state, lowest := s.derive.traction.lowest }
    bridges := { s.bridges with held := s.derive.bridges.held, a := s.derive.bridges.a, b := s.derive.bridges.b }
    radio := { s.radio with station := s.derive.radio.station } } := by
  have hreport := reportOnly_reportTraction (s.onTraction fun t => { t with state := derivedState s }) s.traction.state
  obtain ⟨c, hderive⟩ : ∃ c, s.derive = ((s.onTraction fun t => { t with state := derivedState s }).reportTraction
      s.traction.state).handCommand c := ⟨_, rfl⟩
  rw [State.handCommand_eq] at hderive
  generalize (s.onTraction fun t => { t with state := derivedState s }).reportTraction s.traction.state = u
    at hreport hderive
  generalize s.derive = t at hderive
  unfold reportOnly at hreport
  have htraction : u.traction = { s.traction with state := derivedState s } := by
    rw [hreport]
    rfl
  have hbridges : u.bridges = s.bridges := by
    rw [hreport]
    rfl
  have hclock : u.clock = s.clock := by
    rw [hreport]
    rfl
  rw [htraction, hbridges, hclock] at hderive
  subst hderive
  conv_lhs => rw [hreport]
  rfl

/-! ## The radio log -/

theorem noticesOnly_offer (s : State) (kind : RecordKind) (reason : Reason) (f : Frame) :
    noticesOnly s (s.offer kind reason f) := by
  unfold State.offer
  simp only
  repeat' split
  · exact noticesOnly_refl s
  · exact noticesOnly_raise _ .logFull
  · exact noticesOnly_raise _ .radio

/-! ## The end of the order in hand (R20) -/

/-- The order in hand ends with an outcome and a result; beside its slot, the order engine and ORDER nothing changes. -/
theorem completeOrder_ends (t : State) (o : TakenOrder) (outcome : OutcomeCode) (result : List Byte)
    (hwf : t.xm.wf = true) (hslot : o.slot < 32) :
    refusedOrder t (t.completeOrder o outcome result) o outcome result :=
  ⟨State.completeSlot_done t o.slot outcome 0 result hwf hslot,
    State.completeSlot_same t o.slot outcome 0 result hwf hslot, rfl⟩

/-- The bytes of a completion write stay where nothing of them is written. -/
theorem slotDone_of_same {m m' : Memory} {n step : Nat} {outcome : OutcomeCode} {result : List Byte} {p : Nat → Prop}
    (h : slotDone m n outcome step result) (hsame : sameBut m m' p) (hn : n < 32) (hout : ∀ a, inSlot n a → ¬p a) :
    slotDone m' n outcome step result := by
  have hkept : ∀ a, inSlot n a → m'.read a = m.read a := by
    intro a ha
    refine hsame a ?_ (hout a ha)
    simp only [inSlot, slotBase] at ha
    omega
  obtain ⟨hstate, hcode, hstep, hresult⟩ := h
  refine ⟨(hkept _ (.inl rfl)).trans hstate, (hkept _ (.inr (by omega))).trans hcode,
    (hkept _ (.inr (by omega))).trans hstep, fun k hk => (hkept _ (.inr (by omega))).trans (hresult k hk)⟩

theorem inSlot_segments {n a : Nat} (hn : n < 32) (h : inSlot n a) : ¬inSegments a := by
  simp only [inSlot, slotBase, inSegments] at *
  omega

theorem inSlot_record {n i a : Nat} (hn : n < 32) (h : inSlot n a) : ¬inRecord i a := by
  simp only [inSlot, slotBase, inRecord] at *
  omega

theorem inSlot_other {m n a : Nat} (hne : m ≠ n) (h : inSlot n a) : ¬inSlot m a := by
  simp only [inSlot, slotBase] at *
  omega

/-- An order in hand whose slot exists. -/
theorem slot_lt_of_taken {s : State} {o : TakenOrder} (h : orderTaken s o) : o.slot < 32 := by
  obtain ⟨-, -, -, hslot⟩ := h
  exact hslot

/-- An order of a known kind in RUN ends with its owner's outcome and result, on the state its owner leaves. -/
theorem runOrder_ends {s : State} {o : TakenOrder} (hrun : s.isRun = true) (htaken : orderTaken s o)
    (hlow : 1 ≤ o.kind) (hhigh : o.kind ≤ 14) {mine : TakenOrder → Bool} (hmine : mine o = true)
    {act : State → TakenOrder → OrderAnswer} {t : State} {outcome : OutcomeCode} {result : List Byte}
    (hact : act s o = (t, outcome, result)) (hwf : t.xm.wf = true) :
    refusedOrder t (s.runOrder mine act) o outcome result := by
  rw [State.runOrder_run htaken hrun hlow hhigh hmine act, hact]
  exact completeOrder_ends t o outcome result hwf (slot_lt_of_taken htaken)

/-! ## The end of a balance run (R108) -/

theorem noticesOnly_closeRun (s : State) (r : BalanceRun) (outcome : OutcomeCode) (g : Nat) :
    noticesOnly s (s.closeRun r outcome g) := by
  rw [State.closeRun_eq]
  refine noticesOnly_trans ?_ (noticesOnly_derive _)
  exact ⟨⟨[.order, .control], rfl⟩, rfl⟩

theorem noticesOnly_endRun (s : State) (outcome : OutcomeCode) : noticesOnly s (s.endRun outcome) := by
  unfold State.endRun
  split
  · exact noticesOnly_closeRun ..
  · exact noticesOnly_refl s

/-- A balance run that ends without results (R108, R110). -/
theorem closeRun_ended {s : State} {r : BalanceRun} (outcome : OutcomeCode) (hwf : s.xm.wf = true)
    (hvoices : voicesLawful s) (hslot : r.slot < 32) : runEnded (s.closeRun r outcome 0) r outcome := by
  obtain ⟨⟨u, hdone, -, hu, ⟨-, -, -, -, -, hframe⟩, hsegments⟩, -⟩ := s.closeRun_closes r outcome 0 hwf hvoices hslot
  have hport : ∀ b ∈ [NoticeBit.order, .control], (s.closeRun r outcome 0).port.notice.getLsbD b.index = true := by
    intro b hb
    rw [State.closeRun_eq]
    exact noticesOnly_keeps (noticesOnly_derive _) (raised_of_mem hb)
  refine ⟨?_, slotDone_of_same hdone hsegments hslot fun a => inSlot_segments hslot, ?_, ?_,
    hport .order (by simp), hport .control (by simp)⟩
  · rw [hframe, hu]
  · rw [hframe, hu]
  · rw [hframe, hu]

/-- The end of a run stays told where its slot, lease, throttle and notices stay. -/
theorem runEnded_of_same {t t' : State} {r : BalanceRun} {outcome : OutcomeCode} {p : Nat → Prop}
    (h : runEnded t r outcome) (hslot : r.slot < 32) (hbalance : t'.balance = t.balance)
    (hsame : sameBut t.xm t'.xm p) (hout : ∀ a, inSlot r.slot a → ¬p a) (hlease : t'.radio.lease = t.radio.lease)
    (hrequest : t'.radio.request = t.radio.request) (hnotices : noticesOnly t t') : runEnded t' r outcome := by
  obtain ⟨hover, hdone, hfree, hthrottle, horder, hcontrol⟩ := h
  exact ⟨by rw [hbalance]; exact hover, slotDone_of_same hdone hsame hslot hout, hlease.trans hfree,
    by rw [hrequest]; exact hthrottle, noticesOnly_keeps hnotices horder, noticesOnly_keeps hnotices hcontrol⟩

end Sys2Proof.Notices
end

section
/-! PROOFS. How the handling of a frame ends (R118, R123, R135): with a record of it or without one, told from the state that
its owner leaves. -/

namespace Sys2Proof.FrameEnds

open Sys2Proof Sys2Proof.Machine Sys2Proof.Safety Sys2Proof.Notices Sys2Proof.LoggedFrames

/-- The end of a frame's handling, beside the receiver's side of the radio command unit, changes nothing. -/
theorem frameDone_ends (e : State) : frameEnded e e.frameDone ∧ noticesOnly e e.frameDone
    ∧ e.frameDone = { e with radio := { e.radio with
        handling := e.frameDone.radio.handling, waiting := e.frameDone.radio.waiting
        repeats := e.frameDone.radio.repeats } } := by
  have hframe := e.frameDone_receiver
  exact ⟨e.frameDone_ended, noticesOnly_of_eq (by rw [hframe]) (by rw [hframe]), hframe⟩

/-- The end of a handling, told beside the receiver's side; the place in the log stays. -/
theorem frameDone_beside (e : State) : e.frameDone = { e with radio := besideFrames e.radio e.frameDone.radio }
    ∧ e.frameDone.radio.logIndex = e.radio.logIndex ∧ e.frameDone.radio.logSeq = e.radio.logSeq
    ∧ e.frameDone.radio.overflow = e.radio.overflow := by
  have hframe := e.frameDone_receiver
  obtain ⟨hindex, hseq, hoverflow⟩ := frameDone_log e
  refine ⟨?_, hindex, hseq, hoverflow⟩
  rw [besideFrames, hindex, hseq, hoverflow]
  exact hframe

/-- A frame ends with a record of it, `e` being the state that its owner leaves. -/
def loggedFrom (e : State) (kind : RecordKind) (reason : Reason) (f : Frame) : State :=
  (e.offer kind reason f).frameDone

/-- Of a record and the end of the handling, everything but the bytes of the record. -/
theorem loggedFrom_ends (e : State) (kind : RecordKind) (reason : Reason) (f : Frame) :
    frameEnded e (loggedFrom e kind reason f) ∧ noticesOnly e (loggedFrom e kind reason f)
      ∧ loggedFrom e kind reason f = { e with
          xm := (loggedFrom e kind reason f).xm, lastGranted := .radioWriter
          port := { e.port with notice := (loggedFrom e kind reason f).port.notice }
          radio := besideFrames e.radio (loggedFrom e kind reason f).radio } := by
  have hoffer := e.offer_eq kind reason f
  have hnotices := noticesOnly_offer e kind reason f
  unfold loggedFrom
  generalize e.offer kind reason f = w at hoffer hnotices
  obtain ⟨hended, hnotices', hframe⟩ := frameDone_ends w
  refine ⟨frameEnded_of_receiver_eq (by rw [hoffer]) (by rw [hoffer]) (by rw [hoffer]) hended,
    noticesOnly_trans hnotices hnotices', ?_⟩
  generalize w.frameDone = t at hframe
  have hxm : t.xm = w.xm := by rw [hframe]
  have hport : t.port = w.port := by rw [hframe]
  have hlog : t.radio.logIndex = w.radio.logIndex ∧ t.radio.logSeq = w.radio.logSeq
      ∧ t.radio.overflow = w.radio.overflow := by
    rw [hframe]
    exact ⟨rfl, rfl, rfl⟩
  obtain ⟨hindex, hseq, hoverflow⟩ := hlog
  rw [besideFrames, hxm, hport, hindex, hseq, hoverflow]
  refine hframe.trans ?_
  conv_lhs => rw [hoffer]

theorem loggedFrom_recorded (e : State) (kind : RecordKind) (reason : Reason) (f : Frame) (hwf : e.xm.wf = true) :
    recordOffered e (loggedFrom e kind reason f) kind reason f [] := by
  have hoffer := e.offer_recorded kind reason f hwf
  simpa [recordOffered, loggedFrom] using hoffer

theorem loggedFrom_only (e : State) (kind : RecordKind) (reason : Reason) (f : Frame) (hwf : e.xm.wf = true)
    (hindex : e.radio.logIndex < 64) : recordOnly e (loggedFrom e kind reason f) := by
  have hoffer := e.offer_only kind reason f hwf hindex
  simpa [recordOnly, loggedFrom] using hoffer

/-- The bytes that a record may change, as one of the 64 records. -/
theorem recordOnly_same {s t : State} (h : recordOnly s t) : sameBut s.xm t.xm (inRecord s.radio.logIndex) :=
  sameBut_weaken h fun _ ⟨_, hin⟩ => hin

/-- An offer is told the same of two states that agree on log, clock, port and memory. -/
theorem recordOffered_congr {s e t : State} {kind : RecordKind} {reason : Reason} {f : Frame} {bits : List NoticeBit}
    (hxm : e.xm = s.xm) (hport : e.port = s.port) (hclock : e.clock = s.clock)
    (hlog : e.radio.logIndex = s.radio.logIndex ∧ e.radio.logSeq = s.radio.logSeq
      ∧ e.radio.overflow = s.radio.overflow)
    (h : recordOffered e t kind reason f bits) : recordOffered s t kind reason f bits := by
  obtain ⟨hindex, hseq, hoverflow⟩ := hlog
  rw [recordOffered, hxm, hport, hclock, hindex, hseq, hoverflow] at h
  exact h

theorem recordOnly_congr {s e t : State} (hxm : e.xm = s.xm) (hindex : e.radio.logIndex = s.radio.logIndex)
    (h : recordOnly e t) : recordOnly s t := by
  rw [recordOnly, hxm, hindex] at h
  exact h

/-- The write index after an offer: where it was, or one further. -/
theorem recordOffered_index {s t : State} {kind : RecordKind} {reason : Reason} {f : Frame} {bits : List NoticeBit}
    (h : recordOffered s t kind reason f bits) :
    t.radio.logIndex = s.radio.logIndex ∨ t.radio.logIndex = (s.radio.logIndex + 1) % 64 := by
  obtain ⟨-, hcase⟩ := h
  split at hcase
  · exact .inl hcase.1
  · exact .inr hcase.2.1

/-- The state in which a frame's sender has been heard (R123). -/
def heardFrom (s : State) (f : Frame) : State := { s with radio := heard s.radio f s.clock }

/-- Hearing a sender reaches lease and failsafe flag alone. -/
theorem heard_eq (r : Radio) (f : Frame) (now : Nat) :
    heard r f now = { r with lease := (heard r f now).lease, failsafe := (heard r f now).failsafe } := by
  unfold heard
  split <;> rfl

/-- Hearing the sender leaves the log's place and the receiver's side. -/
theorem heardFrom_receiver (s : State) (f : Frame) : (heardFrom s f).radio.waiting = s.radio.waiting
    ∧ (heardFrom s f).radio.repeats = s.radio.repeats ∧ (heardFrom s f).radio.logIndex = s.radio.logIndex
    ∧ (heardFrom s f).radio.logSeq = s.radio.logSeq ∧ (heardFrom s f).radio.overflow = s.radio.overflow := by
  simp [heardFrom]

/-- A frame that is acted on: its sender heard, then its owner's act. -/
theorem actOn_eq {s : State} {f : Frame} (act : State → Frame → State) (hgood : wellFormedPayload f = true) :
    s.actOn f act = act (heardFrom s f) f := by
  rw [State.actOn, hgood, hearHolder_eq]
  rfl

theorem handleFrame_eq {s : State} {f : Frame} {mine : Frame → Bool} {act : State → Frame → State}
    (hhand : s.radio.handling = some f) (hmine : mine f = true) (hgood : wellFormedPayload f = true) :
    s.handleFrame mine act = (act (heardFrom s f) f).frameDone := by
  rw [State.handleFrame, hhand]
  simp only [hmine, if_true]
  rw [actOn_eq act hgood]

/-- A frame whose payload has not its kind's size and values comes to a record MALFORMED (R120). -/
theorem handleFrame_malformed {s : State} {f : Frame} {mine : Frame → Bool} {act : State → Frame → State}
    (hhand : s.radio.handling = some f) (hmine : mine f = true) (hbad : wellFormedPayload f = false) :
    s.handleFrame mine act = loggedOnly s .frame .malformed f := by
  rw [State.handleFrame, hhand]
  simp only [hmine, if_true]
  rw [State.actOn, hbad]
  rfl

/-- A frame that its owner answers with a record alone. -/
theorem handleFrame_logged {s : State} {f : Frame} {mine : Frame → Bool} {act : State → Frame → State} {reason : Reason}
    (hhand : s.radio.handling = some f) (hmine : mine f = true) (hgood : wellFormedPayload f = true)
    (hact : act (heardFrom s f) f = (heardFrom s f).logFrame reason f) :
    s.handleFrame mine act = loggedOnly s .frame reason f := by
  rw [handleFrame_eq hhand hmine hgood, hact, loggedOnly, hearHolder_eq]
  rfl

end Sys2Proof.FrameEnds
end

section
/-! PROOFS. Orders on the request state and the control lease (R78, R125, R127): THROTTLE and LEASE. -/

namespace Sys2Proof.Requests

open Sys2Proof Sys2Proof.Machine Sys2Proof.Safety Sys2Proof.Notices

/-! ## THROTTLE (R125) -/

/-- The host is the ON-BOARD holder, with CONTROL raised when it was not. -/
def hostHolds (s : State) : State :=
  { s with
    port := withNotice s.port (if s.radio.lease = .none then [.control] else [])
    radio := { s.radio with
      lease := .onBoard false, failsafe := if s.radio.lease = .none then false else s.radio.failsafe } }

theorem hostLease_eq {s : State} (h : s.radio.lease = .none ∨ s.radio.lease = .onBoard false) :
    s.hostLease = hostHolds s := by
  rcases h with h | h
  · simp only [State.hostLease, hostHolds, h, if_true]
    rfl
  · simp only [State.hostLease, hostHolds, h, reduceCtorEq, if_false]
    rw [← h]
    rfl

/-- The state after a throttle and a direction of the host are stored (R121, R125). -/
def hostDrives (s : State) (throttle : Nat) (direction : Direction) : State :=
  { hostHolds s with radio := { (hostHolds s).radio with
      request := { s.radio.request with throttle := throttle, direction := direction } } }

theorem applyRequest_stored {s : State} (h : s.radio.lease = .none ∨ s.radio.lease = .onBoard false)
    {throttle : Nat} (direction : Direction) (hkept : throttle ≠ 0 ∨ s.traction.latch = false) :
    s.hostLease.applyRequest throttle direction = hostDrives s throttle direction := by
  rw [hostLease_eq h, State.applyRequest]
  split
  · next hzero =>
    have hlatch : (hostHolds s).traction.latch = false := hkept.resolve_left (absurd hzero)
    rw [State.releaseLatch, if_neg]
    · rfl
    · exact fun c => Bool.noConfusion (hlatch.symm.trans c)
  · rfl

/-- The state in which the latch has been cleared by a throttle of 0 of the host, before the derivation. -/
def hostUnlatched (s : State) (direction : Direction) : State :=
  { hostDrives s 0 direction with traction := { s.traction with latch := false } }

/-- A throttle of 0 under the latch: the latch is cleared and the traction state derived afresh (R78). -/
theorem applyRequest_releases {s : State} (h : s.radio.lease = .none ∨ s.radio.lease = .onBoard false)
    (direction : Direction) (hlatch : s.traction.latch = true) :
    s.hostLease.applyRequest 0 direction = (hostUnlatched s direction).derive := by
  rw [hostLease_eq h, State.applyRequest, if_pos rfl, State.releaseLatch, if_pos]
  · rfl
  · exact hlatch

theorem throttleOrder_applies {s : State} (h : s.radio.lease = .none ∨ s.radio.lease = .onBoard false)
    (ps : List Byte) : ∃ t, t = s.hostLease.applyRequest (param8 ps 0) (directionOf (param8 ps 1))
      ∧ s.throttleOrder ps = (t, if 1 < param8 ps 1 then .adjusted else .ok, throttleResult t.radio) := by
  refine ⟨_, rfl, ?_⟩
  rcases h with h | h <;> simp [State.throttleOrder, h, Lease.markSet, Lease.isRadio]

theorem loByte_code_directionOf (n : Nat) : loByte (directionOf n).code = if n = 1 then 1 else 0 := by
  unfold directionOf
  split <;> rfl

/-- The result of a THROTTLE that is applied (11.3). -/
theorem throttleResult_applied {r : Radio} {q : Request} {throttle n : Nat} (hlease : r.lease = .onBoard false)
    (hrequest : r.request = { q with throttle := throttle, direction := directionOf n }) :
    throttleResult r = [BitVec.ofNat 8 throttle, if n = 1 then 1 else 0] ++ bytes32 q.functions.toNat ++ [2] := by
  rw [throttleResult, hlease, hrequest, ← loByte_code_directionOf]
  rfl

/-- Settles O11, by the lease as the order finds it. -/
theorem throttleOrderAppliesOrIsRefused : Obligations.ThrottleOrderAppliesOrIsRefused := by
  intro s o hwf hrun htaken hkind
  have hends : ∀ {t outcome result}, s.throttleOrder o.params = (t, outcome, result) → t.xm.wf = true →
      refusedOrder t (throttleOrder s) o outcome result := fun hact =>
    runOrder_ends hrun htaken (by omega) (by omega) (by simp [orderKind, hkind]) hact
  refine ⟨fun hlease => ⟨_, rfl, hends ?_ hwf⟩, fun sender cls heard hlease => ⟨_, rfl, hends ?_ hwf⟩,
    fun hlease hkept => ?_⟩
  · simp [State.throttleOrder, hlease, Lease.markSet]
  · simp [State.throttleOrder, hlease, Lease.markSet, Lease.isRadio]
  · obtain ⟨t, ht, hact⟩ := throttleOrder_applies hlease o.params
    rw [applyRequest_stored hlease _ hkept] at ht
    have hresult := throttleResult_applied (r := t.radio) (q := s.radio.request) (by rw [ht]; rfl) (by rw [ht]; rfl)
    rw [hresult] at hact
    obtain ⟨hdone, hsame, hframe⟩ := hends hact (by rw [ht]; exact hwf)
    refine ⟨_, rfl, hdone, by rw [ht] at hsame; exact hsame, hframe.trans ?_⟩
    generalize (throttleOrder s).xm = m
    rw [ht]
    by_cases hnone : s.radio.lease = .none
    · simp [hostDrives, hostHolds, hnone, withNotice, ordersAfter, directionOf]
    · simp [hostDrives, hostHolds, hnone, withNotice, ordersAfter, directionOf]

/-! ## The release of the emergency-stop latch (R78) -/

/-- With the latch clear and no balance run, the state derived in RUN and its command (R73, R75). -/
theorem derived_unlatched {s t : State} (hderived : derivedAfresh s t) (hrun : s.isRun = true)
    (hbalance : s.balance.run = none) (hlatch : s.traction.latch = false) :
    ∀ drive, drive = Command.drive {
        duty := min s.tractionSet.dutyCap s.traction.u, direction := s.traction.direction
        freewheel := s.tractionSet.freewheel } →
      if s.bridges.allLatched = true then t.traction.state = .faulted ∧ t.bridges.held = .coast
      else if 4 ≤ s.supply.shed then t.traction.state = .held ∧ t.bridges.held = .coast
      else if s.traction.pending = true then t.traction.state = .reversing ∧ t.bridges.held = drive
      else if 0 < s.traction.c ∨ 0 < s.traction.lastM then
        t.traction.state = .running ∧ t.bridges.held = drive
      else t.traction.state = .stopped
        ∧ t.bridges.held = (match s.tractionSet.stopMode with | .brake => .brake | .coast => .coast) := by
  rintro drive rfl
  obtain ⟨hstate, hheld, -⟩ := hderived
  rw [hheld, hstate]
  simp only [stateOf, hrun, hbalance, hlatch, Bool.true_eq_false, if_false, ne_eq, not_true_eq_false,
    Bool.false_eq_true]
  repeat' split
  all_goals simp_all [commandOf, driveOf, stopOf]

/-- A derivation from ESTOP, HELD or FAULTED sounds nothing (R155). -/
theorem clipsOfChange_silent {s v : State} {before after : TractionState} (h : clipsOfChange s v before after)
    (hbefore : before = .estop ∨ before = .held ∨ before = .faulted) : v = s := by
  obtain ⟨-, -, hsilent⟩ := h
  refine hsilent ?_ ?_
  · rintro ⟨rfl, -⟩
    simp at hbefore
  · rintro ⟨rfl | rfl, -⟩ <;> simp at hbefore

/-- Settles O12: the host holds, the latch is cleared, and the traction state derived afresh. -/
theorem throttleZeroReleasesTheLatch : Obligations.ThrottleZeroReleasesTheLatch := by
  intro s o hwf hrun htaken hkind hlease hzero hlatch hbalance hvoices
  obtain ⟨t, ht, hact⟩ := throttleOrder_applies hlease o.params
  rw [hzero, applyRequest_releases hlease _ hlatch] at ht
  obtain ⟨u, hu⟩ : ∃ u, u = hostUnlatched s (directionOf (param8 o.params 1)) := ⟨_, rfl⟩
  rw [← hu] at ht
  have hderived : derivedAfresh u t := by
    rw [ht, hu]
    exact State.derive_afresh _ hwf hvoices
  have hsegments : sameBut s.xm t.xm inSegments := by
    rw [ht, hu]
    exact (State.derive_kept (hostUnlatched s _) hwf hvoices).2
  have hnotices : noticesOnly u t := by
    rw [ht]
    exact noticesOnly_derive u
  have htwf : t.xm.wf = true := by
    rw [ht, hu]
    exact State.derive_wf _ hwf
  obtain ⟨-, -, hstation, ⟨v, hclips, hsound, hxm, hport, hstatus⟩, hbridges, htframe⟩ := id hderived
  have hresult := throttleResult_applied (r := t.radio) (q := s.radio.request) (n := param8 o.params 1) (throttle := 0)
    (by rw [htframe, hu]; rfl) (by rw [htframe, hu]; rfl)
  rw [hresult] at hact
  obtain ⟨hdone, hsame, hframe⟩ : refusedOrder t (throttleOrder s) o _ _ :=
    runOrder_ends hrun htaken (by omega) (by omega) (by simp [orderKind, hkind]) hact htwf
  refine ⟨throttleOrder s, rfl, ?_⟩
  generalize throttleOrder s = done at hdone hsame hframe
  have hdoneport : done.port = withNotice t.port [.order] := by rw [hframe]
  have hdonestatus : done.status = t.status := by rw [hframe]
  have htraction : done.traction = t.traction := by rw [hframe]
  have hbridge : done.bridges = t.bridges := by rw [hframe]
  have hradio : done.radio = t.radio := by rw [hframe]
  have hdonesound : done.sound = t.sound := by rw [hframe]
  refine ⟨hdone, ?_, ?_, fun hnone => ?_, ?_, ?_, ?_, fun hsilent => ?_, ?_⟩
  · exact sameBut_trans (sameBut_weaken hsegments fun _ => .inr) (sameBut_weaken hsame fun _ => .inl)
  · rw [hdoneport]
    exact raised_of_mem (b := .order) (by simp)
  · rw [hdoneport]
    refine withNotice_keeps _ (noticesOnly_keeps hnotices ?_)
    simp only [hu, hostUnlatched, hostDrives, hostHolds, hnone, if_true]
    exact raised_of_mem (b := .control) (by simp)
  · rw [htraction, hbridge]
    exact derived_unlatched (s := hostUnlatched s _) (hu ▸ hderived) hrun hbalance rfl
  · rw [hbridge]
    rw [hu] at hbridges
    exact hbridges
  · rw [hradio, htraction, hstation, hu]
    rfl
  · have hvu : v = u := clipsOfChange_silent hclips (by rw [hu]; exact hsilent)
    rw [hvu, hu] at hsound hxm hport hstatus
    refine ⟨?_, hdonesound.trans hsound, hdonestatus.trans hstatus, ?_⟩
    · rw [hxm] at hsame
      exact hsame
    · rw [hdoneport, hport]
      by_cases hnone : s.radio.lease = .none
      · simp only [hostUnlatched, hostDrives, hostHolds, hnone, if_true]
        rfl
      · simp only [hostUnlatched, hostDrives, hostHolds, hnone, if_false]
        rfl
  · rw [hdoneport, hdonestatus, htraction, hbridge, hradio, hdonesound]
    refine hframe.trans ?_
    generalize done.xm = m
    obtain ⟨hp, hs⟩ : (withNotice t.port [.order] = { s.port with notice := (withNotice t.port [.order]).notice })
        ∧ t.status = { s.status with faultCount := t.status.faultCount } := by
      refine ⟨?_, ?_⟩
      · rw [noticesOnly_port hnotices, hu]
        rfl
      · rw [hnotices.2, hu]
        rfl
    rw [← hp, ← hs]
    clear hp hs
    conv_lhs => rw [htframe, hu]
    rfl

/-! ## LEASE (R127) -/

theorem mine_leaseTake {o : TakenOrder} (hkind : o.kind = 14) (haction : param8 o.params 0 ≠ 1) :
    (orderKind 14 o && !isRelease o) = true := by
  simp [isRelease, orderKind, hkind, haction]

theorem mine_leaseRelease {o : TakenOrder} (hkind : o.kind = 14) (haction : param8 o.params 0 = 1) :
    isRelease o = true := by
  simp [isRelease, orderKind, hkind, haction]

/-- The lease freed with throttle 0 (R123, R124, R127). -/
theorem freeLease_eq (s : State) : s.freeLease = { s with
    port := withNotice s.port [.control]
    radio := { s.radio with
      lease := .none, failsafe := false, request := { s.radio.request with throttle := 0 } } } := rfl

theorem releaseLease_unlatched {s : State} (h : s.traction.latch = false) : s.releaseLease = s.freeLease := by
  rw [State.releaseLease, State.releaseLatch, if_neg]
  exact fun c => Bool.noConfusion (h.symm.trans c)

/-- The lease freed and the latch cleared, before the derivation (R78). -/
def leaseUnlatched (s : State) : State :=
  { s with
    port := withNotice s.port [.control], traction := { s.traction with latch := false }
    radio := { s.radio with
      lease := .none, failsafe := false, request := { s.radio.request with throttle := 0 } } }

theorem releaseLease_latched {s : State} (h : s.traction.latch = true) :
    s.releaseLease = (leaseUnlatched s).derive := by
  rw [State.releaseLease, State.releaseLatch, if_pos]
  · rfl
  · exact h

/-- A TAKE, and a LEASE order of an action above 1. -/
theorem leaseTake_ends {s : State} {o : TakenOrder} (hrun : s.isRun = true) (htaken : orderTaken s o)
    (hkind : o.kind = 14) (haction : param8 o.params 0 ≠ 1) {t : State} {outcome : OutcomeCode} {result : List Byte}
    (hact : s.leaseTakeOrder o.params = (t, outcome, result)) (hwf : t.xm.wf = true) :
    refusedOrder t (leaseTake s) o outcome result :=
  runOrder_ends hrun htaken (by omega) (by omega) (mine_leaseTake hkind haction) hact hwf

theorem leaseRelease_ends {s : State} {o : TakenOrder} (hrun : s.isRun = true) (htaken : orderTaken s o)
    (hkind : o.kind = 14) (haction : param8 o.params 0 = 1) {t : State} {outcome : OutcomeCode} {result : List Byte}
    (hact : s.leaseReleaseOrder o.params = (t, outcome, result)) (hwf : t.xm.wf = true) :
    refusedOrder t (leaseRelease s) o outcome result :=
  runOrder_ends hrun htaken (by omega) (by omega) (mine_leaseRelease hkind haction) hact hwf

/-- The holder as a LEASE order shows it (11.3). -/
theorem leaseResult_eq (l : Lease) : leaseResult l = match l with
    | .none => [0, 255, 0, 0]
    | .radio sender cls _ => [1, BitVec.ofNat 8 cls] ++ bytes16 sender
    | .onBoard _ => [2, 255, 0, 0] := by
  cases l with
  | none => rfl
  | radio sender cls heard => rfl
  | onBoard mark => cases mark <;> rfl

theorem leaseTakeOrder_takes {s : State} {ps : List Byte} (haction : param8 ps 0 = 0)
    (hlease : s.radio.lease = .none ∨ ∃ sender cls heard, s.radio.lease = .radio sender cls heard ∧ cls ≠ 0) :
    s.leaseTakeOrder ps = ({ s with
        port := withNotice s.port [.control]
        radio := { s.radio with lease := .onBoard false, failsafe := false } }, .ok, [2, 255, 0, 0]) := by
  rw [State.leaseTakeOrder, if_neg (by simp [haction])]
  simp only [leaseResult_eq]
  rcases hlease with hlease | ⟨sender, cls, heard, hlease, hcls⟩
  · rw [hlease]
    rfl
  · rw [hlease]
    cases cls with
    | zero => exact absurd rfl hcls
    | succ cls => rfl

theorem leaseTakes_orders {s : State} {o : TakenOrder} (hwf : s.xm.wf = true) (hrun : s.isRun = true)
    (htaken : orderTaken s o) (hkind : o.kind = 14) (haction : param8 o.params 0 = 0) :
    ((s.radio.lease = .none ∨ ∃ sender cls heard, s.radio.lease = .radio sender cls heard ∧ cls ≠ 0) →
      ∃ t, exec .leaseTake s = .next t
        ∧ slotDone t.xm o.slot .ok 0 [2, 255, 0, 0] ∧ sameBut s.xm t.xm (inSlot o.slot)
        ∧ t = { s with
            xm := t.xm, lastGranted := .orderEngine, orders := ordersAfter s o
            port := withNotice s.port [.control, .order]
            radio := { s.radio with lease := .onBoard false, failsafe := false } })
    ∧ (s.radio.lease = .onBoard false →
      ∃ t, exec .leaseTake s = .next t ∧ refusedOrder s t o .ok [2, 255, 0, 0])
    ∧ (s.radio.lease = .onBoard true →
      ∃ t, exec .leaseTake s = .next t ∧ refusedOrder s t o .busy [2, 255, 0, 0])
    ∧ ∀ sender heard, s.radio.lease = .radio sender 0 heard →
      ∃ t, exec .leaseTake s = .next t ∧ refusedOrder s t o .notHolder ([1, 0] ++ bytes16 sender) := by
  have hends := @leaseTake_ends s o hrun htaken hkind (by omega)
  refine ⟨fun hlease => ?_, fun hlease => ⟨_, rfl, hends ?_ hwf⟩, fun hlease => ⟨_, rfl, hends ?_ hwf⟩,
    fun sender heard hlease => ⟨_, rfl, hends ?_ hwf⟩⟩
  · obtain ⟨hdone, hsame, hframe⟩ := hends (leaseTakeOrder_takes haction hlease) hwf
    exact ⟨_, rfl, hdone, hsame, hframe⟩
  · rw [State.leaseTakeOrder, if_neg (by simp [haction]), leaseResult_eq, hlease]
  · rw [State.leaseTakeOrder, if_neg (by simp [haction]), leaseResult_eq, hlease]
  · rw [State.leaseTakeOrder, if_neg (by simp [haction]), leaseResult_eq, hlease]
    rfl

theorem leaseReleases_orders {s : State} {o : TakenOrder} (hwf : s.xm.wf = true) (hrun : s.isRun = true)
    (htaken : orderTaken s o) (hkind : o.kind = 14) (haction : param8 o.params 0 = 1)
    (hlease : s.radio.lease = .onBoard false) :
    ∃ t, exec .leaseRelease s = .next t ∧ refusedOrder s.releaseLease t o .ok [0, 255, 0, 0] := by
  refine ⟨_, rfl, leaseRelease_ends hrun htaken hkind haction ?_ (State.releaseLease_wf s hwf)⟩
  rw [State.leaseReleaseOrder, if_neg (by simp [haction]), hlease]
  simp only [leaseResult_eq]

/-- Settles O15, by the action and the holder. -/
theorem leaseOrdersTakeAndRelease : Obligations.LeaseOrdersTakeAndRelease := by
  refine ⟨fun s o hwf hrun htaken hkind haction => leaseTakes_orders hwf hrun htaken hkind haction,
    fun s o hwf hrun htaken hkind haction => ⟨_, rfl, ?_⟩, fun s o hwf hrun htaken hkind haction => ?_⟩
  · have hact : s.leaseTakeOrder o.params = (s, .badIndex, leaseResult s.radio.lease) := by
      rw [State.leaseTakeOrder, if_pos (by omega)]
    rw [leaseResult_eq] at hact
    exact leaseTake_ends hrun htaken hkind (by omega) hact hwf
  · have hends := @leaseRelease_ends s o hrun htaken hkind haction
    refine ⟨fun hlease hlatch => ?_, fun hlease hlatch hvoices => ?_, fun hlease => ⟨_, rfl, hends ?_ hwf⟩,
      fun hlease => ⟨_, rfl, hends ?_ hwf⟩, fun sender cls heard hlease => ⟨_, rfl, hends ?_ hwf⟩⟩
    · obtain ⟨t, hexec, hdone, hsame, hframe⟩ := leaseReleases_orders hwf hrun htaken hkind haction hlease
      rw [releaseLease_unlatched hlatch, freeLease_eq] at hsame hframe
      exact ⟨t, hexec, hdone, hsame, hframe⟩
    · obtain ⟨t, hexec, hdone, hsame, hframe⟩ := leaseReleases_orders hwf hrun htaken hkind haction hlease
      rw [releaseLease_latched hlatch] at hsame hframe
      refine ⟨_, t, hexec, State.derive_afresh (leaseUnlatched s) hwf hvoices, hdone, hsame, hframe.trans ?_⟩
      have horders : ordersAfter (leaseUnlatched s).derive o = ordersAfter s o := by
        simp [ordersAfter, leaseUnlatched]
      rw [horders]
    · rw [State.leaseReleaseOrder, if_neg (by simp [haction]), leaseResult_eq, hlease]
    · rw [State.leaseReleaseOrder, if_neg (by simp [haction]), leaseResult_eq, hlease]
    · rw [State.leaseReleaseOrder, if_neg (by simp [haction]), leaseResult_eq, hlease]

end Sys2Proof.Requests
end

section
/-! PROOFS. What the trigger entries make of the function bits (R156), and what every act of the sound engine keeps: lawful
voices, memory but for segment bytes, and every block but sound, host port and fault count. -/

namespace Sys2Proof.Triggers

open Sys2Proof Sys2Proof.Machine Sys2Proof.Safety Sys2Proof.Notices

/-! ## What an act of the sound engine reaches -/

/-- An act of the sound engine: it raises notices, counts faults, and of lawful voices it keeps the law and writes segment
bytes alone. -/
def soundOnly (s t : State) : Prop :=
  t.xm.wf = true ∧ (voicesLawful s → voicesLawful t ∧ sameBut s.xm t.xm inSegments) ∧ noticesOnly s t
    ∧ t = { s with xm := t.xm, port := t.port, status := t.status, sound := t.sound }

theorem soundOnly_refl {s : State} (hwf : s.xm.wf = true) : soundOnly s s :=
  ⟨hwf, fun hvoices => ⟨hvoices, sameBut_refl _ _⟩, noticesOnly_refl s, rfl⟩

theorem soundOnly_trans {s t u : State} (h : soundOnly s t) (h' : soundOnly t u) : soundOnly s u := by
  obtain ⟨-, hkept, hnotices, hframe⟩ := h
  obtain ⟨hwf, hkept', hnotices', hframe'⟩ := h'
  refine ⟨hwf, fun hvoices => ?_, noticesOnly_trans hnotices hnotices', ?_⟩
  · obtain ⟨hvoices', hsame⟩ := hkept hvoices
    obtain ⟨hvoices'', hsame'⟩ := hkept' hvoices'
    exact ⟨hvoices'', sameBut_trans hsame hsame'⟩
  · conv_lhs => rw [hframe', hframe]

theorem soundOnly_trigger {s : State} (hwf : s.xm.wf = true) (clip : Nat) {use : ClipUse} (f : StartFields)
    (huse : use ≠ .none) : soundOnly s (s.trigger clip use f) :=
  ⟨s.trigger_wf clip use f hwf, fun hvoices => s.trigger_kept clip use f hwf hvoices huse,
    noticesOnly_trigger s clip use f, s.trigger_eq clip use f⟩

/-- A change of the voices alone. -/
theorem soundOnly_onSound {s : State} (hwf : s.xm.wf = true) (f : Sound → Sound)
    (hvoices : voicesLawful s → voicesLawful (s.onSound f)) : soundOnly s (s.onSound f) :=
  ⟨hwf, fun h => ⟨hvoices h, sameBut_refl _ _⟩, noticesOnly_refl _, rfl⟩

/-- The voices stay lawful where each of them does. -/
theorem voicesLawful_map {s : State} (hvoices : voicesLawful s) (f : Voice → Voice)
    (hf : ∀ v, voiceLawful v → voiceLawful (f v)) :
    voicesLawful (s.onSound fun u => { u with voices := u.voices.map f }) := by
  obtain ⟨hlength, hlawful⟩ := hvoices
  refine ⟨by simp [hlength], fun v hv => ?_⟩
  obtain ⟨w, hw, rfl⟩ := List.mem_map.1 hv
  exact hf w (hlawful w hw)

/-- A voice that a trigger entry has started may fade (R156): it is no STREAM voice. -/
theorem voiceLawful_fade16 {v : Voice} (h : voiceLawful v) (hstarter : startedByFunction v.starter)
    (hbusy : v.state ≠ .idle) : voiceLawful v.fade16 := by
  obtain ⟨hclip, hvalid, hwithin, hstarved, hkind⟩ := h.resolve_left hbusy
  have hsounds : v.sounds = true := by
    unfold Voice.sounds
    cases hstate : v.state with
    | playing | fading => rfl
    | idle => exact absurd hstate hbusy
    | starved => exact absurd (hstarved hstate) (hkind hstarter)
  exact .inr ⟨hclip, hvalid, fun _ => hwithin hsounds, fun c => VoiceState.noConfusion c, hkind⟩

theorem heldBy_some_iff {v : Voice} {k : Nat} :
    v.heldBy (some k) = true ↔ v.state ≠ .idle ∧ v.starter = .function k true := by
  unfold Voice.heldBy
  cases v.starter with
  | order | event | chuff | engine => simp
  | function j hold =>
    simp only [Option.all_some, Bool.and_eq_true, decide_eq_true_eq, Starter.function.injEq]
    constructor
    · rintro ⟨hbusy, hhold, rfl⟩
      exact ⟨hbusy, rfl, hhold⟩
    · rintro ⟨hbusy, rfl, hhold⟩
      exact ⟨hbusy, hhold, rfl⟩

/-! ## Starts on voices of which no law is known

The directory is read alike before and after the stop of a voice whatever its clip, since a segment byte lies at the end of
a directory entry; so a start is told without the law of the voices. -/

theorem onVoice_is (s : State) (k : Nat) (f : Voice → Voice) : s.onVoice k f = voiceIs s k (f (s.sound.voice k)) := by
  by_cases hk : k < s.sound.voices.length
  · exact s.onVoice_eq k f hk
  · have hmodify : s.sound.voices.modify k f = s.sound.voices := List.modify_eq_self (Nat.le_of_not_lt hk)
    have hset : s.sound.voices.set k (f (s.sound.voice k)) = s.sound.voices :=
      List.set_eq_of_length_le (Nat.le_of_not_lt hk)
    simp only [State.onVoice, State.onSound, voiceIs, hmodify, hset]

theorem stopVoice_is (s : State) (n : Nat) : s.stopVoice n = { s with
    xm := (s.stopVoice n).xm, port := (s.stopVoice n).port
    sound := { s.sound with voices := s.sound.voices.set n { s.sound.voice n with state := .idle } } } := by
  simp only [State.stopVoice]
  split
  · rw [onVoice_is]
    rfl
  · rw [onVoice_is]
    rfl

/-- A stop writes no byte but one of the last two of a directory entry. -/
theorem stopVoice_reads {s : State} (hwf : s.xm.wf = true) (n : Nat) {a : Nat} (ha : a < 65536) (hentry : a % 16 < 14) :
    (s.stopVoice n).xm.read a = s.xm.read a := by
  simp only [State.stopVoice]
  split
  · have haddr : ∀ second, segmentAddr (s.sound.voice n).clip second % 65536 ≠ a := by
      intro second
      cases second <;> simp only [segmentAddr, clipBase, boolNat] <;> simp <;> omega
    simp only [State.onVoice, State.onSound_xm, State.leaveSegment, State.raise_frame, State.onXm_xm]
    rw [Memory.read_write _ _ _ hwf, Nat.mod_eq_of_lt ha, if_neg (haddr _)]
  · rfl

theorem loadClip_stopVoice {s : State} (hwf : s.xm.wf = true) (n : Nat) {x : Nat} (hx : x ≤ 63) :
    loadClip (s.stopVoice n).xm x = loadClip s.xm x := by
  have hread : ∀ k, k < 14 → (s.stopVoice n).xm.read (clipBase x + k) = s.xm.read (clipBase x + k) := fun k hk =>
    stopVoice_reads hwf n (by simp only [clipBase]; omega) (by simp only [clipBase]; omega)
  have h8 : ∀ k, k < 13 → field8 (s.stopVoice n).xm (clipBase x) k = field8 s.xm (clipBase x) k := fun k hk => by
    simp only [field8, hread k (by omega)]
  have h16 : ∀ k, k < 13 → field16 (s.stopVoice n).xm (clipBase x) k = field16 s.xm (clipBase x) k := fun k hk => by
    simp only [field16, Memory.read16, hread k (by omega), Nat.add_assoc, hread (k + 1) (by omega)]
  simp only [loadClip]
  rw [h8 0 (by decide), h8 1 (by decide), h16 2 (by decide), h16 4 (by decide), h16 6 (by decide), h16 8 (by decide),
    h16 0x0A (by decide), h8 0x0C (by decide)]

/-- A start by the engine, chuff or trigger rules (R139, R141). -/
theorem startOrFault_is_given {s : State} (hwf : s.xm.wf = true) (n clip : Nat) {use : ClipUse} (f : StartFields)
    (huse : use ≠ .none) : voiceGiven s (s.startOrFault n clip use f) n clip use fun e =>
      freshVoice clip e (f.volume.getD e.volume) (f.pitch.getD (clampPitch e.basePitch)) (f.repeats.left e.kind)
        f.priority f.starter (s.sound.startCount + 1) := by
  intro freed hfreed
  have hstop : s.stopVoice n = freed := (stopVoice_is s n).trans hfreed.symm
  have hallows : ∀ e : ClipEntry, use.allows e.kind = decide (if use = .engine then e.kind = 1 else e.kind ≤ 1) := by
    intro e
    cases use with
    | none => exact absurd rfl huse
    | engine | chuff | start | stop | horn | function => rfl
  refine ⟨fun hnone => by rw [State.startOrFault, if_pos hnone, hstop], fun hclip e he => ?_⟩
  have hload : loadClip freed.xm clip = e := by
    rw [he, ← hstop]
    exact loadClip_stopVoice hwf n hclip
  rw [State.startOrFault, if_neg (Nat.not_lt.2 hclip)]
  simp only [State.startVoice, hstop, hload, validFor, hclip, decide_true, Bool.true_and, hallows]
  by_cases hvalid : e.valid = true ∧ (if use = .engine then e.kind = 1 else e.kind ≤ 1)
  · have hkind : e.kind ≠ 2 := by
      obtain ⟨-, hkind⟩ := hvalid
      split at hkind <;> omega
    have hgoes : (e.valid && decide (if use = .engine then e.kind = 1 else e.kind ≤ 1)) = true := by
      rw [Bool.and_eq_true, decide_eq_true_eq]
      exact hvalid
    rw [if_pos hvalid, if_pos hgoes, if_neg hkind]
    simp only [if_true, State.voiceStarts]
    rw [onVoice_is]
    subst hfreed
    simp [voiceIs, State.onSound, startedVoice, freshVoice]
  · have hfails : ¬(e.valid && decide (if use = .engine then e.kind = 1 else e.kind ≤ 1)) = true := by
      rw [Bool.and_eq_true, decide_eq_true_eq]
      exact hvalid
    rw [if_neg hvalid, if_neg hfails]
    simp only [Bool.false_eq_true, if_false, State.clipFault, State.recordFault]
    subst hfreed
    rfl

/-- The fields of a clip that the part starts by itself at a priority (R155, R156). -/
def ownFields (priority : Nat) (starter : Starter) (endless : Bool) : StartFields where
  volume := none
  pitch := none
  repeats := if endless then .endless else .once
  priority := priority
  starter := starter

/-- A clip that the part starts by itself (R155, R156, R160). -/
theorem trigger_is_played {s : State} (hwf : s.xm.wf = true) (clip : Nat) {use : ClipUse} (priority : Nat)
    (starter : Starter) (endless : Bool) (huse : use ≠ .none) :
    clipPlays s (s.trigger clip use (ownFields priority starter endless)) clip use priority starter endless := by
  refine ⟨fun hno => ?_, fun hclip hrun n hplays => ?_⟩
  · rw [State.trigger]
    split
    · next hgoes =>
      obtain ⟨hrun, hclip⟩ := hgoes
      rcases hno with hnone | hquiet | hbusy
      · omega
      · rw [hrun] at hquiet
        cases hquiet
      · rw [show (ownFields priority starter endless).priority = priority from rfl,
          s.sound.allocate_none priority hbusy]
    · rfl
  · have hgiven := startOrFault_is_given hwf n clip (ownFields priority starter endless) huse
    rw [State.trigger, if_pos ⟨hrun, hclip⟩, show (ownFields priority starter endless).priority = priority from rfl,
      s.sound.allocate_plays priority n hplays]
    have hvoice : (fun e : ClipEntry => freshVoice clip e ((ownFields priority starter endless).volume.getD e.volume)
          ((ownFields priority starter endless).pitch.getD (clampPitch e.basePitch))
          ((ownFields priority starter endless).repeats.left e.kind) priority starter (s.sound.startCount + 1))
        = fun e => freshVoice clip e e.volume (max 0x40 (min 0x400 e.basePitch))
          (if endless then none else some (if e.kind = 1 then 1 else 0)) priority starter
          (s.sound.startCount + 1) := by
      funext e
      cases endless <;> rfl
    exact hvoice ▸ hgiven

/-! ## The trigger entries at a change of the function bits -/

theorem functionTrigger_acts {s : State} (hwf : s.xm.wf = true) (before after : Reg) (k : Nat) (e : Trigger) :
    triggerActs s (s.functionTrigger before after k e) before after k e := by
  unfold State.functionTrigger functionBit
  refine ⟨fun hsame => ?_, fun hbefore hafter => ?_, fun hbefore hafter => ?_⟩
  · rw [hsame]
    cases after.getLsbD e.function <;> rfl
  · rw [hbefore, hafter]
    simp only [← heldBy_some_iff]
    rfl
  · rw [hbefore, hafter]
    exact trigger_is_played hwf e.clip 2 (.function k e.hold) e.hold (by decide)

theorem soundOnly_functionTrigger {s : State} (hwf : s.xm.wf = true) (before after : Reg) (k : Nat) (e : Trigger) :
    soundOnly s (s.functionTrigger before after k e) := by
  unfold State.functionTrigger
  split
  · exact soundOnly_trigger hwf _ _ (by decide)
  · split
    · refine soundOnly_onSound hwf _ fun hvoices => voicesLawful_map hvoices _ fun v hv => ?_
      split
      · next hheld =>
        obtain ⟨hbusy, hstarter⟩ := heldBy_some_iff.1 hheld
        exact voiceLawful_fade16 hv (by rw [hstarter]; trivial) hbusy
      · exact hv
    · exact soundOnly_refl hwf
  · exact soundOnly_refl hwf

/-- The entries told of a change to the function bits that stand. -/
def tellEntry (before : Reg) (s : State) (k : Nat) (e : Trigger) : State :=
  s.functionTrigger before s.radio.request.functions k e

theorem triggersFrom_act {s : State} (hwf : s.xm.wf = true) (before : Reg) {after : Reg}
    (hafter : s.radio.request.functions = after) (k : Nat) (entries : List Trigger) :
    triggersAct before after k entries s (triggersFrom (tellEntry before) k entries s)
      ∧ soundOnly s (triggersFrom (tellEntry before) k entries s) := by
  induction entries generalizing s k with
  | nil => exact ⟨rfl, soundOnly_refl hwf⟩
  | cons e rest ih =>
    have hacts := functionTrigger_acts hwf before after k e
    have hone := soundOnly_functionTrigger hwf before after k e
    have htell : s.functionTrigger before after k e = tellEntry before s k e := by
      rw [← hafter]
      rfl
    rw [htell] at hacts hone
    obtain ⟨hwf', -, -, hframe⟩ := id hone
    have hafter' : (tellEntry before s k e).radio.request.functions = after := by
      rw [hframe]
      exact hafter
    obtain ⟨hrest, hsound⟩ := ih hwf' hafter' (k + 1)
    exact ⟨⟨_, hacts, hrest⟩, soundOnly_trans hone hsound⟩

/-- The sound engine told of a change of the function bits. -/
theorem soundFunctions_act {s : State} (hwf : s.xm.wf = true) (before : Reg) :
    triggersAct before s.radio.request.functions 0 s.soundSet.triggers s (s.soundFunctions before)
      ∧ soundOnly s (s.soundFunctions before) :=
  triggersFrom_act hwf before rfl 0 s.soundSet.triggers

/-- With no bit changed the trigger entries do nothing. -/
theorem soundFunctions_same (s : State) : s.soundFunctions s.radio.request.functions = s := by
  have hone : ∀ k e, tellEntry s.radio.request.functions s k e = s := by
    intro k e
    unfold tellEntry State.functionTrigger
    cases functionBit s.radio.request.functions e.function <;> rfl
  have hall : ∀ entries k, triggersFrom (tellEntry s.radio.request.functions) k entries s = s := by
    intro entries
    induction entries with
    | nil => exact fun _ => rfl
    | cons e rest ih =>
      intro k
      rw [triggersFrom, hone]
      exact ih (k + 1)
  exact hall _ 0

/-- The readers of the function bits told of a change from `before` (R156, R178). -/
theorem tellFunctions_told {s : State} (hwf : s.xm.wf = true) (before : Reg) :
    functionsTold before s (s.tellFunctions before) := by
  obtain ⟨hact, -, -, -, hframe⟩ := soundFunctions_act hwf before
  obtain ⟨htold, hheater, -⟩ := (s.soundFunctions before).heaterArrival_told
  have hfunctions : (s.soundFunctions before).radio.request.functions = s.radio.request.functions := by rw [hframe]
  rw [hfunctions] at htold
  exact ⟨_, hact, htold, hheater⟩

end Sys2Proof.Triggers
end

section
/-! PROOFS. The FUNCTIONS order (R126): the bits its mask names, and the readers of the function bits told of the change. -/

namespace Sys2Proof.Functions

open Sys2Proof Sys2Proof.Machine Sys2Proof.Safety Sys2Proof.Notices Sys2Proof.Triggers

/-- The function bits after a FUNCTIONS order. -/
def maskedBits (before : Reg) (ps : List Byte) : Reg :=
  (before &&& ~~~BitVec.ofNat 32 (param32 ps 0)) ||| (BitVec.ofNat 32 (param32 ps 4) &&& BitVec.ofNat 32 (param32 ps 0))

theorem functionsOrder_eq (s : State) (ps : List Byte) : s.functionsOrder ps =
    (s.setFunctions (maskedBits s.radio.request.functions ps), .ok,
      bytes32 (maskedBits s.radio.request.functions ps).toNat) := rfl

theorem getLsbD_maskedBits (before : Reg) (ps : List Byte) {i : Nat} (hi : i < 32) :
    (maskedBits before ps).getLsbD i =
      if (param32 ps 0).testBit i then (param32 ps 4).testBit i else before.getLsbD i := by
  simp only [maskedBits, BitVec.getLsbD_or, BitVec.getLsbD_and, BitVec.getLsbD_not, BitVec.getLsbD_ofNat, hi,
    decide_true, Bool.true_and]
  cases (param32 ps 0).testBit i <;> simp

theorem maskedBits_zero (before : Reg) {ps : List Byte} (h : param32 ps 0 = 0) : maskedBits before ps = before := by
  rw [maskedBits, h, show BitVec.ofNat 32 0 = 0#32 from rfl, BitVec.not_zero, BitVec.and_allOnes, BitVec.and_zero,
    BitVec.or_zero]

/-- The function bits have been replaced, before any reader is told. -/
def bitsReplaced (s : State) (after : Reg) : State :=
  { s with radio := { s.radio with request := { s.radio.request with functions := after } } }

theorem setFunctions_eq (s : State) (after : Reg) :
    s.setFunctions after = (bitsReplaced s after).tellFunctions s.radio.request.functions := rfl

/-- With the heater at work only where it is enabled, a reader told of nothing changes nothing. -/
theorem heaterArrival_same {s : State} (h : s.lamps.heater.working = true → heaterEnabled s = true) :
    s.heaterArrival = s := by
  have hheater : s.lamps.heater.unlessEnabled (heaterEnabled s) = s.lamps.heater := by
    unfold Heater.unlessEnabled
    cases hworking : s.lamps.heater.working with
    | false => rfl
    | true => rw [h hworking]; rfl
  have hstage : s.onHeater (fun h => h.unlessEnabled (heaterEnabled s)) = s := by
    show { s with lamps := { s.lamps with heater := s.lamps.heater.unlessEnabled (heaterEnabled s) } } = s
    rw [hheater]
  rw [State.heaterArrival, hstage, State.fanFollows]
  split <;> rfl

theorem tellFunctions_same {s : State} (h : s.lamps.heater.working = true → heaterEnabled s = true) :
    s.tellFunctions s.radio.request.functions = s := by
  rw [State.tellFunctions, soundFunctions_same, heaterArrival_same h]

/-- The readers told of new function bits: the trigger entries, then the heater and the fan, as the statements say it
of the state before. -/
theorem setFunctions_told {s : State} (hwf : s.xm.wf = true) (after : Reg) :
    ∃ v, v = (bitsReplaced s after).soundFunctions s.radio.request.functions
      ∧ triggersAct s.radio.request.functions after 0 s.soundSet.triggers (bitsReplaced s after) v
      ∧ soundOnly (bitsReplaced s after) v
      ∧ heaterTold s (s.setFunctions after) after
      ∧ s.setFunctions after = { v with lamps := { s.lamps with
          heater := (s.setFunctions after).lamps.heater, fan := (s.setFunctions after).lamps.fan } } := by
  obtain ⟨hact, hsound⟩ := soundFunctions_act (s := bitsReplaced s after) hwf s.radio.request.functions
  obtain ⟨v, hv⟩ : ∃ v, v = (bitsReplaced s after).soundFunctions s.radio.request.functions := ⟨_, rfl⟩
  obtain ⟨htold, hheater, -⟩ := v.heaterArrival_told
  have harrival : s.setFunctions after = v.heaterArrival := by rw [hv]; rfl
  rw [← hv] at hact hsound
  rw [harrival]
  obtain ⟨-, -, ⟨⟨bits, hport⟩, -⟩, hframe⟩ := id hsound
  generalize v.heaterArrival = t at htold hheater
  rw [hframe] at htold
  refine ⟨v, hv, hact, hsound, ?_, ?_⟩
  · rw [hport] at htold
    exact htold
  · rw [hheater, hframe]
    rfl

/-- Settles O13. -/
theorem functionsOrderSetsTheMaskedBits : Obligations.FunctionsOrderSetsTheMaskedBits := by
  intro s o hwf hrun htaken hkind hvoices
  obtain ⟨after, hafter⟩ : ∃ after, after = maskedBits s.radio.request.functions o.params := ⟨_, rfl⟩
  obtain ⟨v, -, hacts, ⟨hvwf, hkept, -, hvframe⟩, htold, hframe⟩ := setFunctions_told hwf after
  obtain ⟨-, hsegments⟩ := hkept hvoices
  have hact : s.functionsOrder o.params = (s.setFunctions after, .ok, bytes32 after.toNat) := by
    rw [functionsOrder_eq, hafter]
  generalize ht : s.setFunctions after = t at hact htold hframe
  have hxm : t.xm = v.xm := by rw [hframe]
  obtain ⟨hdone, hsame, hdoneframe⟩ : refusedOrder t (functions s) o _ _ :=
    runOrder_ends hrun htaken (by omega) (by omega) (by simp [orderKind, hkind]) hact (hxm ▸ hvwf)
  refine ⟨functions s, rfl, ?_⟩
  generalize functions s = done at hdone hsame hdoneframe
  have hradio : done.radio = (bitsReplaced s after).radio := by rw [hdoneframe, hframe, hvframe]
  have hlamps : done.lamps = t.lamps := by rw [hdoneframe]
  have hbits : done.radio.request.functions = after := by rw [hradio]; rfl
  rw [hxm] at hsame
  rw [hbits]
  refine ⟨fun i hi => hafter ▸ getLsbD_maskedBits _ _ hi, hdone,
    sameBut_trans (sameBut_weaken hsegments fun _ => .inr) (sameBut_weaken hsame fun _ => .inl), ?_, ?_, ?_, ?_⟩
  · rw [hdoneframe, hframe, hvframe]
    rfl
  · unfold heaterTold
    rw [hlamps]
    exact htold
  · refine ⟨v, ?_, by rw [hdoneframe, hframe], by rw [hdoneframe, hframe], by rw [hdoneframe, hframe], hsame⟩
    rw [hradio]
    exact hacts
  · intro hmask hworking
    have hsameBits : after = s.radio.request.functions := by rw [hafter, maskedBits_zero _ hmask]
    have hts : t = s := by
      rw [← ht, hsameBits]
      exact tellFunctions_same hworking
    rw [← hsameBits]
    rw [← hxm, hts] at hsame
    rw [hts] at hdoneframe
    exact ⟨hdone, hsame, hdoneframe⟩

end Sys2Proof.Functions
end

section
/-! PROOFS. Emergency stops (R77, R79, R128): the derivation under the latch sounds nothing, so the stop can be told block
by block; then the station stop's end, the end of a balance run, the STOP order and the STOP frame. -/

namespace Sys2Proof.EmergencyStops

open Sys2Proof Sys2Proof.Machine Sys2Proof.Safety Sys2Proof.Notices Sys2Proof.LoggedFrames
  Sys2Proof.FrameEnds

/-! ## Derivations that sound nothing -/

/-- A derivation to a state other than RUNNING and STOPPED makes no report (R74, R134, R155). -/
theorem reportTraction_silent {s : State} (hrunning : s.traction.state ≠ .running) (hstopped : s.traction.state ≠ .stopped)
    (before : TractionState) : s.reportTraction before = s := by
  unfold State.reportTraction
  split <;> first | rfl | contradiction

/-- The state derived and its command handed, with no report made. -/
def derivedSilently (s t : State) : Prop :=
  bridgesTaken s.clock s.bridges t.bridges ∧ t.bridges.held = commandOf s (stateOf s)
    ∧ t = { s with
        traction := { s.traction with
          state := stateOf s, lowest := min s.traction.lowest t.bridges.drivenDuty }
        bridges := { s.bridges with held := t.bridges.held, a := t.bridges.a, b := t.bridges.b } }

theorem derive_silent {s : State} (hrunning : stateOf s ≠ .running) (hstopped : stateOf s ≠ .stopped) :
    derivedSilently s s.derive := by
  have hreport : (s.onTraction fun t => { t with state := stateOf s }).reportTraction s.traction.state
      = s.onTraction fun t => { t with state := stateOf s } := reportTraction_silent hrunning hstopped _
  have hderive : s.derive = (s.onTraction fun t => { t with state := stateOf s }).handCommand (commandOf s (stateOf s)) := by
    rw [State.derive]
    simp only [derivedState_eq, hreport]
    rw [commandFor_eq]
    rfl
  have htaken := s.bridges.hand_taken s.clock (commandOf s (stateOf s))
  rw [hderive, State.handCommand_eq]
  rw [bridgesTaken, BridgeUnit.hand_held] at htaken
  exact ⟨htaken, rfl, rfl⟩

/-- The state derived under the latch: a balance run first, else ESTOP or what comes before it (R73). -/
theorem stateOf_latched {s : State} (hrun : s.isRun = true) (hlatch : s.traction.latch = true) :
    stateOf s = if s.balance.run ≠ none then .balance
      else if s.bridges.allLatched = true then .faulted else if 4 ≤ s.supply.shed then .held else .estop := by
  simp [stateOf, hrun, hlatch]

theorem derive_latched {s : State} (hrun : s.isRun = true) (hlatch : s.traction.latch = true) :
    derivedSilently s s.derive := by
  have hstate := stateOf_latched hrun hlatch
  refine derive_silent ?_ ?_ <;>
  · rw [hstate]
    repeat' split
    all_goals decide

/-! ## The station stop (R134) -/

/-- A BEACON record reaches memory, the pending bits and the log's own place alone. -/
theorem logBeacon_eq (s : State) (reason : Reason) (f : Frame) : s.logBeacon reason f = { s with
    xm := (s.logBeacon reason f).xm, lastGranted := .radioWriter
    port := { s.port with notice := (s.logBeacon reason f).port.notice }
    radio := { s.radio with
      logIndex := (s.logBeacon reason f).radio.logIndex, logSeq := (s.logBeacon reason f).radio.logSeq
      overflow := (s.logBeacon reason f).radio.overflow } } := by
  have hoffer := s.offer_eq .beacon reason f
  unfold State.logBeacon
  generalize s.offer .beacon reason f = t at hoffer
  conv_lhs => rw [hoffer]
  rfl

/-- The state in which a station stop is over, before its record. -/
def stationOver (s : State) : State := { s with radio := { s.radio with station := .none } }

theorem cancelStation_none {s : State} (h : s.radio.station = .none) : s.cancelStation = s := by
  rw [State.cancelStation, h]

theorem cancelStation_some {s : State} (h : s.radio.station ≠ .none) :
    ∃ f, s.cancelStation = (stationOver s).logBeacon .stationCancelled f := by
  rw [State.cancelStation]
  cases hstation : s.radio.station with
  | none => exact absurd hstation h
  | braking f => exact ⟨f, rfl⟩
  | dwell f ends => exact ⟨f, rfl⟩

/-- The end of a station stop reaches the log, its place, the notices and the station stop alone. -/
theorem cancelStation_eq (s : State) : s.cancelStation = { s with
    xm := s.cancelStation.xm, lastGranted := s.cancelStation.lastGranted
    port := { s.port with notice := s.cancelStation.port.notice }
    radio := { s.radio with
      station := .none, logIndex := s.cancelStation.radio.logIndex, logSeq := s.cancelStation.radio.logSeq
      overflow := s.cancelStation.radio.overflow } } := by
  by_cases h : s.radio.station = .none
  · rw [cancelStation_none h, ← h]
  · obtain ⟨f, hf⟩ := cancelStation_some h
    have hlog := logBeacon_eq (stationOver s) .stationCancelled f
    rw [← hf] at hlog
    have hgranted : s.cancelStation.lastGranted = .radioWriter := by rw [hlog]
    rw [hgranted]
    exact hlog

/-! ## The stop -/

/-- The traction controller at rest under the latch, before the derivation (R77). -/
def stopBegun (s : State) : State :=
  { s with traction := { s.traction with c := 0, i := 0, u := 0, prev := 0, latch := true } }

theorem emergencyStop_eq (s : State) :
    s.emergencyStop = (stopBegun s).derive.cancelStation.endRun .aborted := rfl

/-- A bridge that takes a command is LATCHED after it exactly where it was before. -/
theorem latched_taken {cfg : BridgeConfig} {now : Nat} {before handed : Command} {b b' : Bridge}
    (h : commandTaken cfg now before handed b b') : b'.state = .latched ↔ b.state = .latched := by
  obtain ⟨hsame, htakes⟩ := h
  by_cases hkept : handed = before ∨ b.state = .latched
  · rw [hsame hkept]
  · obtain ⟨hnew, hfree⟩ := not_or.1 hkept
    have htakes := htakes hnew hfree
    refine ⟨fun hlatched => ?_, fun hlatched => absurd hlatched hfree⟩
    cases handed with
    | drive p =>
      obtain ⟨hstays, hdrives⟩ := htakes
      by_cases hdrive : b.state = .drive
      · rw [hstays hdrive] at hlatched
        exact hlatched
      · obtain ⟨-, -, hb⟩ := hdrives hdrive _ rfl
        rw [hb] at hlatched
        cases hlatched
    | off | brake | coast =>
      obtain ⟨-, hb⟩ := htakes
      rw [hb] at hlatched
      cases hlatched

theorem allLatched_taken {now : Nat} {u u' : BridgeUnit} (hcfg : u'.cfg = u.cfg) (h : bridgesTaken now u u') :
    u'.allLatched = u.allLatched := by
  obtain ⟨ha, hparallel, hsingle⟩ := h
  unfold BridgeUnit.allLatched BridgeUnit.configured
  rw [hcfg]
  cases hmode : u.cfg.mode with
  | single => simp [latched_taken ha]
  | parallel => simp [latched_taken ha, latched_taken (hparallel hmode)]

/-- What an emergency stop leaves of traction controller and bridges, told from the last derivation, in which no balance
run exists any more. -/
theorem stopped_of_derived {s before u t : State} (hderived : derivedSilently before u)
    (hrun : before.isRun = true) (hbalance : before.balance.run = none)
    (htraction : before.traction = { s.traction with
      c := 0, i := 0, u := 0, prev := 0, latch := true, state := before.traction.state
      lowest := before.traction.lowest })
    (hlatched : before.bridges.allLatched = s.bridges.allLatched) (hshed : before.supply.shed = s.supply.shed)
    (htraction' : t.traction = u.traction) (hbridges : t.bridges.held = u.bridges.held) (hover : t.balance.run = none)
    (hstation : t.radio.station = .none) : stopped s t := by
  obtain ⟨-, hheld, hframe⟩ := hderived
  have hlatch : before.traction.latch = true := by rw [htraction]
  have hstate := stateOf_latched hrun hlatch
  simp only [hbalance, ne_eq, not_true_eq_false, if_false, hlatched, hshed] at hstate
  have hu : u.traction.state = stateOf before := by rw [hframe]
  rw [stopped, htraction', hbridges, hheld, hu]
  rw [show u.traction.c = before.traction.c by rw [hframe], show u.traction.i = before.traction.i by rw [hframe],
    show u.traction.u = before.traction.u by rw [hframe], show u.traction.prev = before.traction.prev by rw [hframe],
    show u.traction.latch = before.traction.latch by rw [hframe],
    show u.traction.pending = before.traction.pending by rw [hframe],
    show u.traction.direction = before.traction.direction by rw [hframe], htraction]
  refine ⟨rfl, rfl, rfl, rfl, rfl, hover, hstation, rfl, rfl, fun hall => ?_, fun hall hshed => ?_, fun hall hshed => ?_⟩
  · rw [hstate, if_pos hall]
    exact ⟨rfl, rfl⟩
  · rw [hstate, hall, if_pos hshed]
    exact ⟨rfl, rfl⟩
  · rw [hstate, hall, if_neg (Nat.not_le.2 hshed)]
    exact ⟨rfl, rfl⟩

/-! ## With no balance run -/

/-- The moment of the stop with its derivation, the station stop not yet ended. -/
theorem stopBegun_derived {s : State} (hrun : s.isRun = true) : derivedSilently (stopBegun s) (stopBegun s).derive :=
  derive_latched hrun rfl

/-- Traction controller and bridges after the derivation of a stop. -/
theorem stopBegun_derived_eq {s : State} (hrun : s.isRun = true) : (stopBegun s).derive = { s with
    traction := { s.traction with
      c := 0, i := 0, u := 0, prev := 0, latch := true, state := (stopBegun s).derive.traction.state
      lowest := min s.traction.lowest (stopBegun s).derive.bridges.drivenDuty }
    bridges := { s.bridges with
      held := (stopBegun s).derive.bridges.held, a := (stopBegun s).derive.bridges.a
      b := (stopBegun s).derive.bridges.b } } := by
  obtain ⟨-, -, hframe⟩ := stopBegun_derived hrun
  generalize (stopBegun s).derive = t at hframe
  have hstate : t.traction.state = stateOf (stopBegun s) := by rw [hframe]
  rw [hstate]
  exact hframe

/-- The stop with the station stop ended, a balance run not yet. -/
def stopCancelled (s : State) : State := (stopBegun s).derive.cancelStation

theorem stopCancelled_eq {s : State} (hrun : s.isRun = true) : stopCancelled s = { s with
    xm := (stopCancelled s).xm, lastGranted := (stopCancelled s).lastGranted
    port := { s.port with notice := (stopCancelled s).port.notice }
    traction := { s.traction with
      c := 0, i := 0, u := 0, prev := 0, latch := true, state := (stopCancelled s).traction.state
      lowest := min s.traction.lowest (stopCancelled s).bridges.drivenDuty }
    bridges := { s.bridges with
      held := (stopCancelled s).bridges.held, a := (stopCancelled s).bridges.a, b := (stopCancelled s).bridges.b }
    radio := { s.radio with
      station := .none, logIndex := (stopCancelled s).radio.logIndex, logSeq := (stopCancelled s).radio.logSeq
      overflow := (stopCancelled s).radio.overflow } } := by
  have hcancel := cancelStation_eq (stopBegun s).derive
  have hderive := stopBegun_derived_eq hrun
  rw [show (stopBegun s).derive.cancelStation = stopCancelled s from rfl] at hcancel
  generalize (stopBegun s).derive = v at hcancel hderive
  have htraction : (stopCancelled s).traction = v.traction := by rw [hcancel]
  have hbridges : (stopCancelled s).bridges = v.bridges := by rw [hcancel]
  rw [htraction, hbridges]
  generalize stopCancelled s = w at hcancel
  refine hcancel.trans ?_
  conv_lhs => rw [hderive]

theorem stopCancelled_taken {s : State} (hrun : s.isRun = true) :
    bridgesTaken s.clock s.bridges (stopCancelled s).bridges := by
  obtain ⟨htaken, -⟩ := stopBegun_derived hrun
  have hbridges : (stopCancelled s).bridges = (stopBegun s).derive.bridges := by
    rw [stopCancelled, cancelStation_eq]
  rw [hbridges]
  exact htaken

theorem stopCancelled_isRun {s : State} (hrun : s.isRun = true) : (stopCancelled s).isRun = true := by
  rw [stopCancelled_eq hrun]
  exact hrun

theorem emergencyStop_idle {s : State} (hrun : s.isRun = true) (hbalance : s.balance.run = none) :
    s.emergencyStop = stopCancelled s := by
  have hnone : (stopCancelled s).balance.run = none := by
    rw [stopCancelled_eq hrun]
    exact hbalance
  rw [emergencyStop_eq, State.endRun, ← stopCancelled, hnone]

/-! ## With a balance run -/

/-- The state before the derivation that ends the balance run `r` (R108). -/
def runOver (s : State) (r : BalanceRun) : State :=
  { s with
    xm := (s.completeSlot r.slot .aborted r.written (runResult r 0)).xm
    lastGranted := .orderEngine
    orders := { s.orders with held := s.orders.held.filter fun k => decide (k ≠ r.slot) }
    port := withNotice s.port [.order, .control]
    traction := { s.traction with c := 0, i := 0, u := 0 }
    balance := { run := none }
    radio := { s.radio with
      lease := .none, failsafe := false, request := { s.radio.request with throttle := 0 } } }

theorem emergencyStop_running {s : State} (hrun : s.isRun = true) {r : BalanceRun} (hbalance : s.balance.run = some r) :
    s.emergencyStop = (runOver (stopCancelled s) r).derive := by
  have hsome : (stopCancelled s).balance.run = some r := by
    rw [stopCancelled_eq hrun]
    exact hbalance
  rw [emergencyStop_eq, State.endRun, ← stopCancelled, hsome]
  exact State.closeRun_eq _ r .aborted 0

/-- What the end of a run leaves alone. -/
theorem runOver_kept (s : State) (r : BalanceRun) : (runOver s r).isRun = s.isRun
    ∧ (runOver s r).traction = { s.traction with c := 0, i := 0, u := 0 } ∧ (runOver s r).bridges = s.bridges
    ∧ (runOver s r).supply = s.supply ∧ (runOver s r).balance.run = none
    ∧ (runOver s r).radio = { s.radio with
        lease := .none, failsafe := false, request := { s.radio.request with throttle := 0 } } := by
  simp [State.isRun, runOver, withNotice]

theorem runOver_derived {s : State} (hrun : s.isRun = true) (hlatch : s.traction.latch = true) (r : BalanceRun) :
    derivedSilently (runOver s r) (runOver s r).derive := by
  obtain ⟨hisRun, htraction, -⟩ := runOver_kept s r
  exact derive_latched (hisRun.trans hrun) (by rw [htraction]; exact hlatch)

/-! ## Both -/

/-- An emergency stop in RUN, whatever it ends (R77). -/
theorem emergencyStop_leaves {s : State} (hrun : s.isRun = true) : stopped s s.emergencyStop := by
  have hcancelled := stopCancelled_eq hrun
  have hlatched := allLatched_taken (by rw [hcancelled]) (stopCancelled_taken hrun)
  cases hbalance : s.balance.run with
  | none =>
    obtain ⟨htaken, -⟩ := stopBegun_derived hrun
    rw [emergencyStop_idle hrun hbalance]
    refine stopped_of_derived (stopBegun_derived hrun) hrun hbalance rfl rfl rfl ?_ ?_ ?_ ?_
    · rw [stopCancelled, cancelStation_eq]
    · rw [stopCancelled, cancelStation_eq]
    · rw [hcancelled]
      exact hbalance
    · rw [hcancelled]
  | some r =>
    rw [emergencyStop_running hrun hbalance]
    generalize stopCancelled s = w at hcancelled hlatched
    have hisRun : w.isRun = true := by
      rw [hcancelled]
      exact hrun
    have hlatch : w.traction.latch = true := by rw [hcancelled]
    have hderived := runOver_derived hisRun hlatch r
    obtain ⟨hisRun', htraction, hbridges, hsupply, hover, hradio⟩ := runOver_kept w r
    obtain ⟨-, -, hframe⟩ := id hderived
    generalize runOver w r = x at *
    refine stopped_of_derived hderived (hisRun'.trans hisRun) hover ?_ (by rw [hbridges, hlatched])
      (by rw [hsupply, hcancelled]) rfl rfl ?_ ?_
    · rw [htraction, hcancelled]
    · rw [hframe]
      exact hover
    · rw [hframe]
      show x.radio.station = .none
      rw [hradio, hcancelled]

/-- The receiver's side is left to the end of the handling. -/
theorem emergencyStop_receiver {s : State} (hrun : s.isRun = true) :
    s.emergencyStop.radio.waiting = s.radio.waiting ∧ s.emergencyStop.radio.repeats = s.radio.repeats
      ∧ s.emergencyStop.clock = s.clock := by
  have hcancelled := stopCancelled_eq hrun
  refine ⟨?_, ?_, by simp⟩ <;>
  · cases hbalance : s.balance.run with
    | none => rw [emergencyStop_idle hrun hbalance, hcancelled]
    | some r =>
      rw [emergencyStop_running hrun hbalance]
      generalize stopCancelled s = w at hcancelled
      obtain ⟨-, -, hframe⟩ := runOver_derived (s := w) (by rw [hcancelled]; exact hrun) (by rw [hcancelled]) r
      obtain ⟨-, -, -, -, -, hradio⟩ := runOver_kept w r
      rw [hframe]
      simp only [hradio]
      rw [hcancelled]

/-- A stop stays told where traction controller, bridges, balance run and station stop stay. -/
theorem stopped_of_same {s t t' : State} (h : stopped s t) (htraction : t'.traction = t.traction)
    (hbridges : t'.bridges = t.bridges) (hbalance : t'.balance = t.balance)
    (hstation : t'.radio.station = t.radio.station) : stopped s t' := by
  rw [stopped, htraction, hbridges, hbalance, hstation]
  exact h

/-- The station stop ended, as it is told of the state before the stop. -/
theorem stopCancelled_recorded {s : State} (hwf : s.xm.wf = true) (hrun : s.isRun = true)
    (hindex : s.radio.logIndex < 64) {g : Frame} (hg : s.radio.station = .braking g ∨ ∃ ends, s.radio.station = .dwell g ends) :
    recordOffered s (stopCancelled s) .beacon .stationCancelled g [.beacon] ∧ recordOnly s (stopCancelled s)
      ∧ (stopCancelled s).lastGranted = .radioWriter := by
  have hderive := stopBegun_derived_eq hrun
  rw [stopCancelled]
  generalize (stopBegun s).derive = v at hderive
  have hxm : v.xm = s.xm := by rw [hderive]
  have hradio : v.radio = s.radio := by rw [hderive]
  have hport : v.port = s.port := by rw [hderive]
  have hclock : v.clock = s.clock := by rw [hderive]
  obtain ⟨-, hcancelled⟩ := v.cancelStation_cancelled (by rw [hxm]; exact hwf) (by rw [hradio]; exact hindex)
  obtain ⟨hoffered, honly, hframe⟩ := hcancelled g (by rw [hradio]; exact hg)
  rw [recordOffered, hxm, hradio, hport, hclock] at hoffered
  rw [recordOnly, hxm, hradio] at honly
  exact ⟨hoffered, honly, by rw [hframe]⟩

/-- With no station stop the stop leaves memory, log and notices. -/
theorem stopCancelled_none {s : State} (hrun : s.isRun = true) (h : s.radio.station = .none) :
    (stopCancelled s).xm = s.xm ∧ (stopCancelled s).port = s.port ∧ (stopCancelled s).radio = s.radio := by
  have hderive := stopBegun_derived_eq hrun
  rw [stopCancelled]
  generalize (stopBegun s).derive = v at hderive
  have hradio : v.radio = s.radio := by rw [hderive]
  rw [cancelStation_none (hradio ▸ h)]
  exact ⟨by rw [hderive], by rw [hderive], hradio⟩

theorem station_cases (x : Station) :
    x = .none ∨ ∃ g, x = .braking g ∨ ∃ ends, x = .dwell g ends := by
  cases x with
  | none => exact .inl rfl
  | braking g => exact .inr ⟨g, .inl rfl⟩
  | dwell g ends => exact .inr ⟨g, .inr ⟨ends, rfl⟩⟩

/-- The write index after a stop: where it was, or one further. -/
theorem stopCancelled_index {s : State} (hwf : s.xm.wf = true) (hrun : s.isRun = true) (hindex : s.radio.logIndex < 64) :
    (stopCancelled s).radio.logIndex = s.radio.logIndex
      ∨ (stopCancelled s).radio.logIndex = (s.radio.logIndex + 1) % 64 := by
  rcases station_cases s.radio.station with hnone | ⟨g, hg⟩
  · rw [(stopCancelled_none hrun hnone).2.2]
    exact .inl rfl
  · obtain ⟨hoffered, -⟩ := stopCancelled_recorded hwf hrun hindex hg
    exact recordOffered_index hoffered

/-- The end of a balance run leaves the write index. -/
theorem emergencyStop_index {s : State} (hrun : s.isRun = true) :
    s.emergencyStop.radio.logIndex = (stopCancelled s).radio.logIndex := by
  cases hbalance : s.balance.run with
  | none => rw [emergencyStop_idle hrun hbalance]
  | some r =>
    rw [emergencyStop_running hrun hbalance]
    have hcancelled := stopCancelled_eq hrun
    obtain ⟨-, -, hframe⟩ := runOver_derived (s := stopCancelled s) (stopCancelled_isRun hrun) (by rw [hcancelled]) r
    obtain ⟨-, -, -, -, -, hradio⟩ := runOver_kept (stopCancelled s) r
    rw [hframe]
    simp only [hradio]

/-! ## The STOP order (R79) -/

theorem stopOrder_ends {s : State} {o : TakenOrder} (hwf : s.xm.wf = true) (hrun : s.isRun = true)
    (htaken : orderTaken s o) (hkind : o.kind = 3) : refusedOrder s.emergencyStop (stopOrder s) o .ok [] :=
  runOrder_ends hrun htaken (by omega) (by omega) (by simp [orderKind, hkind]) rfl (s.emergencyStop_wf hwf)

theorem stopOrder_idle {s : State} {o : TakenOrder} (hwf : s.xm.wf = true) (hrun : s.isRun = true)
    (htaken : orderTaken s o) (hkind : o.kind = 3) (hbalance : s.balance.run = none) :
    ∃ t, exec .stopOrder s = .next t ∧ stopped s t ∧ bridgesTaken s.clock s.bridges t.bridges
      ∧ slotDone t.xm o.slot .ok 0 []
      ∧ (s.radio.station = .none → sameBut s.xm t.xm (inSlot o.slot)
        ∧ t.port = withNotice s.port [.order] ∧ t.radio = s.radio)
      ∧ (s.radio.logIndex < 64 →
        ∀ g, (s.radio.station = .braking g ∨ ∃ ends, s.radio.station = .dwell g ends) →
        ∃ u : State, u.clock = s.clock
          ∧ recordOffered s u .beacon .stationCancelled g [.beacon] ∧ recordOnly s u
          ∧ sameBut u.xm t.xm (inSlot o.slot) ∧ t.port = withNotice u.port [.order]
          ∧ t.radio = { s.radio with
              station := .none, logIndex := u.radio.logIndex, logSeq := u.radio.logSeq
              overflow := u.radio.overflow })
      ∧ t = { s with
          xm := t.xm, lastGranted := .orderEngine, orders := ordersAfter s o, port := t.port
          traction := { s.traction with
            c := 0, i := 0, u := 0, prev := 0, latch := true, state := t.traction.state
            lowest := min s.traction.lowest t.bridges.drivenDuty }
          bridges := { s.bridges with held := t.bridges.held, a := t.bridges.a, b := t.bridges.b }
          radio := t.radio } := by
  obtain ⟨hdone, hsame, hframe⟩ := stopOrder_ends hwf hrun htaken hkind
  have hstopped := emergencyStop_leaves hrun
  rw [emergencyStop_idle hrun hbalance] at hsame hframe hstopped
  have hcancelled := stopCancelled_eq hrun
  have htaken := stopCancelled_taken hrun
  have hnone := stopCancelled_none hrun (s := s)
  have hrecorded := @stopCancelled_recorded s hwf hrun
  refine ⟨_, rfl, ?_⟩
  generalize stopCancelled s = w at hsame hframe hstopped hcancelled htaken hnone hrecorded
  generalize stopOrder s = t at hdone hsame hframe
  have htraction : t.traction = w.traction := by rw [hframe]
  have hbridges : t.bridges = w.bridges := by rw [hframe]
  have hradio : t.radio = w.radio := by rw [hframe]
  have hport : t.port = withNotice w.port [.order] := by rw [hframe]
  refine ⟨stopped_of_same hstopped htraction hbridges (by rw [hframe]) (by rw [hradio]), hbridges ▸ htaken, hdone,
    fun hstation => ?_, fun hindex g hg => ⟨w, ?_, ?_, ?_, hsame, hport, ?_⟩, ?_⟩
  · obtain ⟨hxm, hport', hradio'⟩ := hnone hstation
    exact ⟨hxm ▸ hsame, hport' ▸ hport, hradio.trans hradio'⟩
  · rw [hcancelled]
  · exact (hrecorded hindex hg).1
  · exact (hrecorded hindex hg).2.1
  · rw [hradio]
    conv_lhs => rw [hcancelled]
  · rw [htraction, hbridges, hradio, hport]
    refine hframe.trans ?_
    conv_rhs => rw [congrArg State.radio hcancelled, congrArg State.port hcancelled]
    conv_lhs => rw [hcancelled]
    rfl

theorem emergencyStop_runEnded {s : State} {r : BalanceRun} (hwf : s.xm.wf = true) (hrun : s.isRun = true)
    (hvoices : voicesLawful s) (hbalance : s.balance.run = some r) (hslot : r.slot < 32) :
    runEnded s.emergencyStop r .aborted := by
  have hcancelled := stopCancelled_eq hrun
  have hsome : (stopCancelled s).balance.run = some r := by
    rw [hcancelled]
    exact hbalance
  rw [emergencyStop_eq, State.endRun, ← stopCancelled, hsome]
  refine closeRun_ended .aborted ?_ ?_ hslot
  · rw [stopCancelled]
    exact State.cancelStation_wf _ (State.derive_wf _ hwf)
  · rw [hcancelled]
    exact hvoices

theorem runSlot_of_some {s : State} {r : BalanceRun} (hbalance : s.balance.run = some r) (hslot : r.slot < 32) :
    runSlot s := by
  intro r' hr'
  rw [hbalance] at hr'
  cases hr'
  exact hslot

theorem stopOrder_running {s : State} {o : TakenOrder} {r : BalanceRun} (hwf : s.xm.wf = true) (hrun : s.isRun = true)
    (htaken : orderTaken s o) (hkind : o.kind = 3) (hbalance : s.balance.run = some r) (hslot : r.slot < 32)
    (hne : r.slot ≠ o.slot) :
    ∃ t, exec .stopOrder s = .next t ∧ stopped s t
      ∧ slotDone t.xm o.slot .ok 0 []
      ∧ (voicesLawful s → s.radio.logIndex < 64 → runEnded t r .aborted
        ∧ sameBut s.xm t.xm (fun a => inSlot o.slot a ∨ inRunEnd s a ∨ inRecord s.radio.logIndex a)
        ∧ ∃ u : State, emergencyStopped s u ∧ sameBut u.xm t.xm (inSlot o.slot)
          ∧ t = { u with
              xm := t.xm, lastGranted := .orderEngine, orders := ordersAfter u o
              port := withNotice u.port [.order] }) := by
  obtain ⟨hdone, hsame, hframe⟩ := stopOrder_ends hwf hrun htaken hkind
  have hstopped := emergencyStop_leaves hrun
  have hended := @emergencyStop_runEnded s r hwf hrun
  have hlaw := fun hvoices => s.emergencyStop_stopped hwf hvoices (runSlot_of_some hbalance hslot)
  refine ⟨_, rfl, ?_⟩
  generalize s.emergencyStop = e at hsame hframe hstopped hended hlaw
  generalize stopOrder s = t at hdone hsame hframe
  refine ⟨stopped_of_same hstopped (by rw [hframe]) (by rw [hframe]) (by rw [hframe]) (by rw [hframe]), hdone,
    fun hvoices hindex => ?_⟩
  obtain ⟨hstop, -, hsame'⟩ := hlaw hvoices hindex
  refine ⟨?_, ?_, e, hstop, hsame, hframe⟩
  · refine runEnded_of_same (hended hvoices hbalance hslot) hslot (by rw [hframe]) hsame
      (fun a => inSlot_other hne.symm) (by rw [hframe]) (by rw [hframe]) ⟨⟨[.order], by rw [hframe]⟩, by rw [hframe]⟩
  · exact sameBut_trans (sameBut_weaken hsame' fun _ => .inr) (sameBut_weaken hsame fun _ => .inl)

/-! ## The STOP frame (R128) -/

theorem stopFrame_eq {s : State} {f : Frame} (hhand : s.radio.handling = some f) (hkind : f.kind = 3)
    (hpayload : f.payload = []) :
    stopFrame s = loggedFrom (heardFrom s f).emergencyStop .frame (.outcome .ok) f :=
  handleFrame_eq hhand (by simp [ofKind, hkind]) (by simp [wellFormedPayload, hkind, hpayload])

theorem stopFrame_malformed {s : State} {f : Frame} (hhand : s.radio.handling = some f) (hkind : f.kind = 3)
    (hpayload : f.payload ≠ []) : stopFrame s = loggedOnly s .frame .malformed f :=
  handleFrame_malformed hhand (by simp [ofKind, hkind]) (by simp [wellFormedPayload, hkind, hpayload])

/-- What a STOP frame leaves, whatever it ends. -/
theorem stopFrame_leaves {s : State} {f : Frame} (hrun : s.isRun = true) :
    ∀ e t, e = (heardFrom s f).emergencyStop → t = loggedFrom e .frame (.outcome .ok) f →
      stopped s t ∧ frameEnded s t ∧ t.lastGranted = .radioWriter := by
  rintro e t he rfl
  have hstopped : stopped s e := he ▸ emergencyStop_leaves (s := heardFrom s f) hrun
  obtain ⟨hwaiting, hrepeats, hclock⟩ := emergencyStop_receiver (s := heardFrom s f) hrun
  obtain ⟨hwaiting', hrepeats', -⟩ := heardFrom_receiver s f
  rw [← he] at hwaiting hrepeats hclock
  obtain ⟨hended, -, hframe⟩ := loggedFrom_ends e .frame (.outcome .ok) f
  generalize loggedFrom e .frame (.outcome .ok) f = t at hended hframe
  exact ⟨stopped_of_same hstopped (by rw [hframe]) (by rw [hframe]) (by rw [hframe]) (by rw [hframe]; rfl),
    frameEnded_of_receiver_eq (hwaiting.trans hwaiting') (hrepeats.trans hrepeats') hclock hended, by rw [hframe]⟩

/-- The STOP frame beside its records, where it ends no balance run. -/
theorem stopFrame_idle {s : State} {f : Frame} (hrun : s.isRun = true) :
    ∀ e t, e = stopCancelled (heardFrom s f) → t = loggedFrom e .frame (.outcome .ok) f →
      t.radio.request = s.radio.request ∧ t.radio.lease = (heard s.radio f s.clock).lease
        ∧ t.radio.failsafe = (heard s.radio f s.clock).failsafe ∧ bridgesTaken s.clock s.bridges t.bridges
        ∧ t = { s with
            xm := t.xm, lastGranted := .radioWriter, port := { s.port with notice := t.port.notice }
            traction := { s.traction with
              c := 0, i := 0, u := 0, prev := 0, latch := true, state := t.traction.state
              lowest := min s.traction.lowest t.bridges.drivenDuty }
            bridges := { s.bridges with held := t.bridges.held, a := t.bridges.a, b := t.bridges.b }
            radio := besideFrames { heard s.radio f s.clock with station := .none } t.radio } := by
  rintro e t he rfl
  have hcancelled := stopCancelled_eq (s := heardFrom s f) hrun
  have htaken := stopCancelled_taken (s := heardFrom s f) hrun
  rw [← he] at hcancelled htaken
  obtain ⟨-, -, hframe⟩ := loggedFrom_ends e .frame (.outcome .ok) f
  generalize loggedFrom e .frame (.outcome .ok) f = t at hframe
  have hradio : t.radio = besideFrames e.radio t.radio := congrArg State.radio hframe
  have htraction : t.traction = e.traction := by rw [hframe]
  have hbridges : t.bridges = e.bridges := by rw [hframe]
  have hrequest : (heard s.radio f s.clock).request = s.radio.request := by rw [heard_eq]
  refine ⟨?_, ?_, ?_, hbridges ▸ htaken, ?_⟩
  · rw [hradio, hcancelled]
    exact hrequest
  · rw [hradio, hcancelled]
    rfl
  · rw [hradio, hcancelled]
    rfl
  · rw [htraction, hbridges]
    refine hframe.trans ?_
    generalize t.radio = r
    conv_lhs => rw [hcancelled]
    rfl

/-- The records of a STOP frame, where it ends no balance run (R128; log 14). -/
theorem stopFrame_records {s : State} {f : Frame} (hwf : s.xm.wf = true) (hrun : s.isRun = true)
    (hindex : s.radio.logIndex < 64) :
    ∀ e t, e = stopCancelled (heardFrom s f) → t = loggedFrom e .frame (.outcome .ok) f →
      (s.radio.station = .none → recordOffered s t .frame (.outcome .ok) f [] ∧ recordOnly s t)
      ∧ ∀ g, (s.radio.station = .braking g ∨ ∃ ends, s.radio.station = .dwell g ends) →
        ∃ u : State, u.clock = s.clock
          ∧ recordOffered s u .beacon .stationCancelled g [.beacon] ∧ recordOnly s u
          ∧ recordOffered u t .frame (.outcome .ok) f [] ∧ recordOnly u t := by
  rintro e t he rfl
  obtain ⟨-, -, hindex', hseq', hoverflow'⟩ := heardFrom_receiver s f
  have hstation' : (heardFrom s f).radio.station = s.radio.station := by rw [heardFrom, heard_eq]
  have hcancelled := stopCancelled_eq (s := heardFrom s f) hrun
  have hnone := stopCancelled_none (s := heardFrom s f) hrun
  have hrecorded := @stopCancelled_recorded (heardFrom s f) hwf hrun (by rw [hindex']; exact hindex)
  have hewf : e.xm.wf = true := by
    rw [he, stopCancelled]
    exact State.cancelStation_wf _ (State.derive_wf _ hwf)
  have heindex : e.radio.logIndex < 64 := by
    rw [he]
    rcases stopCancelled_index (s := heardFrom s f) hwf hrun (by rw [hindex']; exact hindex) with h | h <;> omega
  have hoffered := loggedFrom_recorded e .frame (.outcome .ok) f hewf
  have honly := loggedFrom_only e .frame (.outcome .ok) f hewf heindex
  rw [← he] at hcancelled hnone hrecorded
  generalize loggedFrom e .frame (.outcome .ok) f = t at hoffered honly
  refine ⟨fun hstation => ?_, fun g hg => ⟨e, ?_, ?_, ?_, hoffered, honly⟩⟩
  · obtain ⟨hxm, hport, hradio⟩ := hnone (hstation'.trans hstation)
    refine ⟨recordOffered_congr hxm hport (by rw [hcancelled]; rfl) ?_ hoffered, recordOnly_congr hxm ?_ honly⟩
    · rw [hradio]
      exact ⟨hindex', hseq', hoverflow'⟩
    · rw [hradio]
      exact hindex'
  · rw [hcancelled]
    rfl
  · exact recordOffered_congr (s := s) (e := heardFrom s f) rfl rfl rfl ⟨hindex', hseq', hoverflow'⟩
      (hrecorded (hstation' ▸ hg)).1
  · exact recordOnly_congr (s := s) (e := heardFrom s f) rfl hindex' (hrecorded (hstation' ▸ hg)).2.1

/-- The STOP frame, where it ends a balance run as well. -/
theorem stopFrame_run {s : State} {f : Frame} (hwf : s.xm.wf = true) (hrun : s.isRun = true)
    (hindex : s.radio.logIndex < 64) (hvoices : voicesLawful s) (hslots : runSlot s) :
    ∀ e t, e = (heardFrom s f).emergencyStop → t = loggedFrom e .frame (.outcome .ok) f →
      (∀ r : BalanceRun, s.balance.run = some r → runEnded t r .aborted)
      ∧ sameBut s.xm t.xm (fun a => inRunEnd s a ∨ ∃ k, k < 2 ∧ inRecord ((s.radio.logIndex + k) % 64) a)
      ∧ emergencyStopped { s with radio := heard s.radio f s.clock } e
      ∧ recordOffered e t .frame (.outcome .ok) f [] ∧ recordOnly e t
      ∧ t = { e with
          xm := t.xm, lastGranted := .radioWriter, port := { e.port with notice := t.port.notice }
          radio := besideFrames e.radio t.radio } := by
  rintro e t he rfl
  obtain ⟨-, -, hindex', -, -⟩ := heardFrom_receiver s f
  obtain ⟨hstopped, -, hsame⟩ :=
    (heardFrom s f).emergencyStop_stopped hwf hvoices hslots (by rw [hindex']; exact hindex)
  have hended := fun r => @emergencyStop_runEnded (heardFrom s f) r hwf hrun hvoices
  have hplace := stopCancelled_index (s := heardFrom s f) hwf hrun (by rw [hindex']; exact hindex)
  rw [← emergencyStop_index (s := heardFrom s f) hrun] at hplace
  have hewf := State.emergencyStop_wf (heardFrom s f) hwf
  rw [hindex'] at hsame hplace
  rw [← he] at hstopped hsame hended hplace hewf
  have heindex : e.radio.logIndex < 64 := by rcases hplace with h | h <;> omega
  have hoffered := loggedFrom_recorded e .frame (.outcome .ok) f hewf
  have honly := loggedFrom_only e .frame (.outcome .ok) f hewf heindex
  obtain ⟨-, hnotices, hframe⟩ := loggedFrom_ends e .frame (.outcome .ok) f
  generalize loggedFrom e .frame (.outcome .ok) f = t at hoffered honly hnotices hframe
  refine ⟨fun r hr => ?_, ?_, hstopped, hoffered, honly, hframe⟩
  · have hslot := hslots r hr
    exact runEnded_of_same (hended r hr hslot) hslot (by rw [hframe]) (recordOnly_same honly)
      (fun a => inSlot_record hslot) (by rw [hframe]; rfl) (by rw [hframe]; rfl) hnotices
  · refine sameBut_trans (sameBut_weaken hsame ?_) (sameBut_weaken (recordOnly_same honly) ?_)
    · rintro a (ha | ha)
      · exact .inl ha
      · exact .inr ⟨0, by decide, by rw [Nat.add_zero, Nat.mod_eq_of_lt hindex]; exact ha⟩
    · rintro a ha
      rcases hplace with h | h
      · exact .inr ⟨0, by decide, by rw [Nat.add_zero, Nat.mod_eq_of_lt hindex, ← h]; exact ha⟩
      · exact .inr ⟨1, by decide, by rw [← h]; exact ha⟩

/-- Settles O14: the stop by order and by frame, each with and without a balance run, and the frames that are no stop. -/
theorem emergencyStopByOrderAndByFrame : Obligations.EmergencyStopByOrderAndByFrame := by
  refine ⟨fun s o hwf hrun htaken hkind hbalance => stopOrder_idle hwf hrun htaken hkind hbalance,
    fun s f hwf hrun hhand hkind hpayload => ?_, ?_,
    fun s o r hwf hrun htaken hkind hbalance hslot hne => stopOrder_running hwf hrun htaken hkind hbalance hslot hne⟩
  · obtain ⟨hstopped, hended, hgranted⟩ := stopFrame_leaves (f := f) hrun _ _ rfl rfl
    have hidle : s.balance.run = none → (heardFrom s f).emergencyStop = stopCancelled (heardFrom s f) :=
      emergencyStop_idle (s := heardFrom s f) hrun
    have hbeside := stopFrame_idle (f := f) hrun _ _ rfl rfl
    have hrecords := fun hindex => stopFrame_records (f := f) hwf hrun hindex _ _ rfl rfl
    have hall := fun hindex hvoices hslots => stopFrame_run (f := f) hwf hrun hindex hvoices hslots _ _ rfl rfl
    refine ⟨_, rfl, ?_⟩
    rw [stopFrame_eq hhand hkind hpayload]
    refine ⟨hstopped, hended, hgranted, fun hbalance => ?_, fun hindex hbalance hnone => ?_,
      fun hindex hbalance g hg => ?_, fun r hr hslot hindex hvoices => ?_, fun hslots hindex hvoices => ?_⟩
    · rw [hidle hbalance]
      obtain ⟨hrequest, hlease, hfailsafe, htaken, -⟩ := hbeside
      exact ⟨hrequest, hlease, hfailsafe, htaken⟩
    · rw [hidle hbalance]
      obtain ⟨hoffered, honly⟩ := (hrecords hindex).1 hnone
      obtain ⟨-, -, -, -, hframe⟩ := hbeside
      have hstation : { heard s.radio f s.clock with station := .none } = heard s.radio f s.clock := by
        rw [heard_eq, ← hnone]
      rw [hstation] at hframe
      exact ⟨hoffered, honly, hframe⟩
    · rw [hidle hbalance]
      obtain ⟨u, hclock, hoffered, honly, hoffered', honly'⟩ := (hrecords hindex).2 g hg
      obtain ⟨-, -, -, -, hframe⟩ := hbeside
      exact ⟨u, hclock, hoffered, honly, hoffered', honly', hframe⟩
    · exact (hall hindex hvoices (runSlot_of_some hr hslot)).1 r hr
    · obtain ⟨-, hsame, hstop, hoffered, honly, hframe⟩ := hall hindex hvoices hslots
      exact ⟨hsame, _, hstop, hoffered, honly, hframe⟩
  · rintro s f ⟨hwf, hindex, hhand, hkind⟩ hpayload
    refine ⟨_, rfl, ?_⟩
    rw [stopFrame_malformed hhand hkind hpayload]
    exact loggedOnly_frameLogged s .frame .malformed f hwf hindex

end Sys2Proof.EmergencyStops
end

section
/-! PROOFS. Frames on the request state and the control lease (R122, R124): THROTTLE, FUNC and RELEASE. -/

namespace Sys2Proof.ControlFrames

open Sys2Proof Sys2Proof.Machine Sys2Proof.Safety Sys2Proof.Notices Sys2Proof.LoggedFrames Sys2Proof.FrameEnds
  Sys2Proof.Triggers Sys2Proof.Functions

/-! ## Requests that a frame applies -/

theorem heldBy_radio (sender cls last : Nat) : (Lease.radio sender cls last).heldBy sender cls = true := by
  simp [Lease.heldBy]

theorem heardFrom_of_holder {s : State} {f : Frame} (h : s.radio.lease.heldBy f.sender f.cls = true) :
    heardFrom s f = { s with radio := { s.radio with
      lease := .radio f.sender f.cls s.clock, failsafe := false } } := by
  simp [heardFrom, heard, h]

theorem heardFrom_of_other {s : State} {f : Frame} (h : s.radio.lease.heldBy f.sender f.cls = false) :
    heardFrom s f = s := by
  simp [heardFrom, heard, h]

/-- The sender of `f` is the RADIO holder, with CONTROL raised when it was not (R122, R123). -/
def senderHolds (s : State) (f : Frame) : State :=
  { s with
    port := withNotice s.port (if s.radio.lease.heldBy f.sender f.cls then [] else [.control])
    radio := { s.radio with lease := .radio f.sender f.cls s.clock, failsafe := false } }

/-- The throttle and the direction of a THROTTLE frame are stored (R121, R122). -/
def senderDrives (s : State) (f : Frame) : State :=
  { senderHolds s f with radio := { (senderHolds s f).radio with
      request := {
        throttle := param8 f.payload 0
        direction := if (param8 f.payload 1 = 1) = (s.radio.consist.reversed = true) then .forward else .reverse
        functions := s.radio.request.functions } } }

theorem frameDirection_eq (r : Radio) (f : Frame) : frameDirection r f =
    if (param8 f.payload 1 = 1) = (r.consist.reversed = true) then .forward else .reverse := by
  unfold frameDirection directionOf
  by_cases hone : param8 f.payload 1 = 1 <;> cases r.consist.reversed <;> simp [hone, Direction.flip]

/-- The request applied to the state in which the sender holds. -/
theorem applyRequest_sender (s : State) (f : Frame) :
    (senderHolds s f).applyRequest (param8 f.payload 0) (frameDirection s.radio f)
      = if param8 f.payload 0 = 0 ∧ s.traction.latch = true then
          ({ senderDrives s f with traction := { s.traction with latch := false } } : State).derive
        else senderDrives s f := by
  have hstored : (senderHolds s f).onRequest (fun q =>
      { q with throttle := param8 f.payload 0, direction := frameDirection s.radio f }) = senderDrives s f := by
    rw [frameDirection_eq]
    rfl
  have hlatch : (senderDrives s f).traction.latch = s.traction.latch := rfl
  rw [State.applyRequest, hstored]
  simp only [State.releaseLatch, hlatch]
  by_cases hzero : param8 f.payload 0 = 0
  · cases hlatched : s.traction.latch with
    | true => simp [hzero]; rfl
    | false => simp [hzero]
  · simp [hzero]

theorem leaseTakes_iff {l : Lease} {cls : Nat} :
    leaseTakes l cls = true ↔ l = .none ∨ ∃ sender holder last, l = .radio sender holder last ∧ cls < holder := by
  cases l with
  | none => simp [leaseTakes]
  | onBoard mark => simp [leaseTakes]
  | radio sender holder last => simp [leaseTakes]

theorem throttleAct_applies {s : State} {f : Frame} (hfree : ¬(f.target = s.radio.cfg.own ∧ s.radio.consist.number ≠ 0))
    (hlease : s.radio.lease.heldBy f.sender f.cls = true ∨ leaseTakes s.radio.lease f.cls = true) :
    throttleAct (heardFrom s f) f =
      (senderHolds s f).applyRequest (param8 f.payload 0) (frameDirection s.radio f) := by
  by_cases hheld : s.radio.lease.heldBy f.sender f.cls = true
  · rw [heardFrom_of_holder hheld, throttleAct]
    simp only [hfree, if_false, heldBy_radio, if_true, senderHolds, hheld]
    rfl
  · have hother : s.radio.lease.heldBy f.sender f.cls = false := by simpa using hheld
    rw [heardFrom_of_other hother, throttleAct]
    simp only [hfree, if_false, hother, Bool.false_eq_true, hlease.resolve_left hheld, if_true, senderHolds]
    rfl

/-- A derivation leaves, of the radio command unit, all but the station stop. -/
theorem derive_radio (s : State) :
    s.derive.radio = { s.radio with station := s.derive.radio.station } ∧ s.derive.clock = s.clock :=
  ⟨congrArg State.radio (derive_eq s), by simp⟩

/-- The THROTTLE frame of a holder, and of a sender that becomes the holder. -/
theorem throttleFrame_drives {s : State} {f : Frame} (hwf : s.xm.wf = true) :
    ∀ e t, e = (senderHolds s f).applyRequest (param8 f.payload 0) (frameDirection s.radio f) → t = e.frameDone →
      t.radio.lease = .radio f.sender f.cls s.clock ∧ t.radio.failsafe = false
        ∧ t.radio.request = (senderDrives s f).radio.request ∧ frameEnded s t
        ∧ (param8 f.payload 0 = 0 → s.traction.latch = true → voicesLawful s →
          derivedAfresh { senderDrives s f with traction := { s.traction with latch := false } } e
            ∧ t = { e with radio := besideFrames e.radio t.radio }
            ∧ t.radio.logIndex = s.radio.logIndex ∧ t.radio.logSeq = s.radio.logSeq
            ∧ t.radio.overflow = s.radio.overflow)
        ∧ (param8 f.payload 0 ≠ 0 ∨ s.traction.latch = false → t = { senderDrives s f with
            radio := { besideFrames s.radio t.radio with
              lease := t.radio.lease, failsafe := false, request := t.radio.request
              logIndex := s.radio.logIndex, logSeq := s.radio.logSeq, overflow := s.radio.overflow } }) := by
  rintro e t he rfl
  rw [applyRequest_sender] at he
  obtain ⟨x, hx⟩ : ∃ x : Station, e.radio = { (senderDrives s f).radio with station := x } := by
    rw [he]
    split
    · exact ⟨_, (derive_radio _).1⟩
    · exact ⟨(senderDrives s f).radio.station, rfl⟩
  have hclock : e.clock = s.clock := by
    rw [he]
    split
    · exact (derive_radio _).2
    · rfl
  obtain ⟨hended, -, -⟩ := frameDone_ends e
  obtain ⟨hframe, hindex, hseq, hoverflow⟩ := frameDone_beside e
  generalize e.frameDone = t at hended hframe hindex hseq hoverflow
  have hradio : t.radio = besideFrames { (senderDrives s f).radio with station := x } t.radio := by
    rw [← hx]
    exact congrArg State.radio hframe
  refine ⟨by rw [hradio]; rfl, by rw [hradio]; rfl, by rw [hradio]; rfl,
    frameEnded_of_receiver_eq (by rw [hx]; rfl) (by rw [hx]; rfl) hclock hended, fun hzero hlatch hvoices => ?_,
    fun hkept => ?_⟩
  · rw [if_pos ⟨hzero, hlatch⟩] at he
    refine ⟨he ▸ State.derive_afresh _ hwf hvoices, hframe, ?_⟩
    rw [hindex, hseq, hoverflow, hx]
    exact ⟨rfl, rfl, rfl⟩
  · rw [if_neg (by rintro ⟨hzero, hlatch⟩; simp [hzero, hlatch] at hkept)] at he
    rw [he] at hframe hindex hseq hoverflow
    have hlease : t.radio.lease = (senderDrives s f).radio.lease := by rw [hradio]; rfl
    have hrequest : t.radio.request = (senderDrives s f).radio.request := by rw [hradio]; rfl
    refine hframe.trans ?_
    rw [hlease, hrequest]
    unfold besideFrames
    rw [hindex, hseq, hoverflow]
    rfl

/-- Settles O40, by the owner of the lease and the consist state. -/
theorem throttleFrameDrivesForTheHolder : Obligations.ThrottleFrameDrivesForTheHolder := by
  rintro s f ⟨hwf, hindex, hhand, hkind⟩
  have hmine : ofKind 1 f = true := by simp [ofKind, hkind]
  have hlogged : ∀ {reason}, throttleFrame s = loggedOnly s .frame reason f →
      ∃ t, exec .throttleFrame s = .next t ∧ frameLogged s t .frame reason f := fun heq =>
    ⟨_, rfl, heq ▸ loggedOnly_frameLogged s .frame _ f hwf hindex⟩
  refine ⟨fun hbad => hlogged (handleFrame_malformed hhand hmine ?_), fun hlength hvalue => ?_⟩
  · simp only [wellFormedPayload, hkind, Bool.and_eq_false_iff, decide_eq_false_iff_not]
    omega
  have hgood : wellFormedPayload f = true := by simp [wellFormedPayload, hkind, hlength, hvalue]
  have hcfg : (heardFrom s f).radio.cfg = s.radio.cfg ∧ (heardFrom s f).radio.consist = s.radio.consist := by
    rw [heardFrom, heard_eq]
    exact ⟨rfl, rfl⟩
  refine ⟨fun hconsist => hlogged (handleFrame_logged hhand hmine hgood ?_), fun hfree => ⟨?_, fun hlease => ?_⟩⟩
  · rw [throttleAct]
    simp only [hcfg.1, hcfg.2]
    rw [if_pos hconsist]
  · rintro ⟨hother, hsome, hstronger⟩
    refine hlogged (handleFrame_logged hhand hmine hgood ?_)
    have hrefused : leaseTakes s.radio.lease f.cls = false := by
      rw [← Bool.not_eq_true, leaseTakes_iff]
      rintro (hnone | ⟨sender, holder, last, hradio, hweaker⟩)
      · exact hsome hnone
      · have := hstronger sender holder last hradio
        omega
    rw [heardFrom_of_other hother, throttleAct]
    simp only [hfree, if_false, hother, Bool.false_eq_true, hrefused]
  · have happlies : throttleFrame s = ((senderHolds s f).applyRequest (param8 f.payload 0)
        (frameDirection s.radio f)).frameDone := by
      rw [← throttleAct_applies hfree (hlease.imp id leaseTakes_iff.2)]
      exact handleFrame_eq hhand hmine hgood
    obtain ⟨hsender, hfailsafe, hrequest, hended, hreleases, hstores⟩ := throttleFrame_drives hwf _ _ rfl happlies
    refine ⟨_, rfl, hsender, hfailsafe, hrequest, hended, fun hzero hlatch hvoices => ?_, fun hkept => ?_⟩
    · obtain ⟨hderived, hplace⟩ := hreleases hzero hlatch hvoices
      rw [hsender, hrequest]
      exact ⟨_, hderived, hplace⟩
    · rw [hrequest]
      have h := hstores hkept
      rw [hrequest] at h
      exact h

/-! ## The sound engine does not look at the radio command unit

A FUNC frame's bits stand while the receiver's side changes still, so the trigger entries are told of a state that differs
from theirs in the radio command unit. -/

theorem stopVoice_onRadio (s : State) (f : Radio → Radio) (n : Nat) :
    (s.onRadio f).stopVoice n = (s.stopVoice n).onRadio f := by
  unfold State.stopVoice
  simp only
  by_cases hheld : ((s.sound.voice n).sounds && decide ((s.sound.voice n).entry.kind = 2)) = true
  · have hheld' : (((s.onRadio f).sound.voice n).sounds && decide (((s.onRadio f).sound.voice n).entry.kind = 2))
        = true := hheld
    rw [if_pos hheld, if_pos hheld']
    rfl
  · have hheld' : ¬(((s.onRadio f).sound.voice n).sounds && decide (((s.onRadio f).sound.voice n).entry.kind = 2))
        = true := hheld
    rw [if_neg hheld, if_neg hheld']
    rfl

theorem startOrFault_onRadio (s : State) (f : Radio → Radio) (n clip : Nat) (use : ClipUse) (g : StartFields) :
    (s.onRadio f).startOrFault n clip use g = (s.startOrFault n clip use g).onRadio f := by
  unfold State.startOrFault
  split
  · exact stopVoice_onRadio s f n
  · have hfull : segmentFull ((s.stopVoice n).onRadio f) clip false = segmentFull (s.stopVoice n) clip false := rfl
    simp only [State.startVoice, stopVoice_onRadio, State.onRadio_xm, hfull]
    split
    · split
      · cases segmentFull (s.stopVoice n) clip false <;> rfl
      · rfl
    · rfl

theorem trigger_onRadio (s : State) (f : Radio → Radio) (clip : Nat) (use : ClipUse) (g : StartFields) :
    (s.onRadio f).trigger clip use g = (s.trigger clip use g).onRadio f := by
  have hrun : (s.onRadio f).isRun = s.isRun := rfl
  unfold State.trigger
  rw [hrun, State.onRadio_sound]
  split
  · cases s.sound.allocate g.priority with
    | none => rfl
    | some n => exact startOrFault_onRadio s f n clip use g
  · rfl

theorem functionTrigger_onRadio (s : State) (f : Radio → Radio) (before after : Reg) (k : Nat) (e : Trigger) :
    (s.onRadio f).functionTrigger before after k e = (s.functionTrigger before after k e).onRadio f := by
  unfold State.functionTrigger
  split
  · exact trigger_onRadio ..
  · split <;> rfl
  · rfl

theorem triggersFrom_onRadio (before : Reg) (f : Radio → Radio) (entries : List Trigger) (k : Nat) (s : State)
    (hf : (f s.radio).request.functions = s.radio.request.functions) :
    triggersFrom (tellEntry before) k entries (s.onRadio f) = (triggersFrom (tellEntry before) k entries s).onRadio f := by
  induction entries generalizing k s with
  | nil => rfl
  | cons e rest ih =>
    have hone : tellEntry before (s.onRadio f) k e = (tellEntry before s k e).onRadio f := by
      unfold tellEntry
      rw [functionTrigger_onRadio, State.onRadio_radio, hf]
    have hradio : (tellEntry before s k e).radio = s.radio := by simp [tellEntry]
    rw [triggersFrom, triggersFrom, hone]
    exact ih (k + 1) _ (by rw [hradio]; exact hf)

/-! ## FUNC (R124) -/

theorem getLsbD_withGroup (functions : Reg) {g bits i : Nat} (hbits : bits < 256) (hi : i < 32) :
    (withGroup functions g bits).getLsbD i = if i / 8 = g then bits.testBit (i % 8) else functions.getLsbD i := by
  have hmask : ∀ k, (255 : Nat).testBit k = decide (k < 8) := Nat.testBit_two_pow_sub_one 8
  simp only [withGroup, BitVec.getLsbD_or, BitVec.getLsbD_and, BitVec.getLsbD_not, BitVec.getLsbD_shiftLeft,
    BitVec.getLsbD_ofNat, hi, decide_true, Bool.true_and, hmask]
  split
  · next hgroup =>
    have hplace : i - 8 * g = i % 8 := by omega
    have hrest : i % 8 < 32 := by omega
    have height : i % 8 < 8 := by omega
    have hlow : ¬i < 8 * g := by omega
    simp [hplace, hrest, height, hlow]
  · next hgroup =>
    by_cases hlow : i < 8 * g
    · simp [hlow]
    · have hhigh : 8 ≤ i - 8 * g := by omega
      have hzero : bits.testBit (i - 8 * g) = false :=
        Nat.testBit_lt_two_pow (Nat.lt_of_lt_of_le hbits (Nat.pow_le_pow_right (n := 2) (by decide) hhigh))
      have hout : ¬i - 8 * g < 8 := by omega
      simp [hzero, hout]

theorem param8_lt (ps : List Byte) (k : Nat) : param8 ps k < 256 := BitVec.isLt _

theorem funcApplies_iff {l : Lease} {f : Frame} :
    funcApplies l f = true ↔ l.heldBy f.sender f.cls = true ∨ l = .none ∨ f.cls ≤ 1 := by
  simp [funcApplies, or_assoc]

/-- Hearing its sender does not change whether a FUNC frame is applied. -/
theorem funcApplies_heard (s : State) (f : Frame) :
    funcApplies (heardFrom s f).radio.lease f = funcApplies s.radio.lease f := by
  cases hheld : s.radio.lease.heldBy f.sender f.cls with
  | true => simp [heardFrom_of_holder hheld, funcApplies, heldBy_radio, hheld]
  | false => rw [heardFrom_of_other hheld]

theorem funcFrame_applied {s : State} {f : Frame} (hwf : s.xm.wf = true) :
    ∀ after e t, after = withGroup s.radio.request.functions (param8 f.payload 0) (param8 f.payload 1) →
      e = (heardFrom s f).setFunctions after → t = e.frameDone → frameEnded s t
        ∧ (∀ i, i < 32 → t.radio.request.functions.getLsbD i =
            if i / 8 = param8 f.payload 0 then (param8 f.payload 1).testBit (i % 8)
            else s.radio.request.functions.getLsbD i)
        ∧ (voicesLawful s → sameBut s.xm t.xm inSegments)
        ∧ t = { s with
            xm := t.xm, port := { s.port with notice := t.port.notice }
            status := { s.status with faultCount := t.status.faultCount }, sound := t.sound
            lamps := { s.lamps with heater := t.lamps.heater, fan := t.lamps.fan }
            radio := { besideFrames (heard s.radio f s.clock) t.radio with
              request := { s.radio.request with functions := t.radio.request.functions }
              logIndex := s.radio.logIndex, logSeq := s.radio.logSeq
              overflow := s.radio.overflow } }
        ∧ heaterTold s t t.radio.request.functions
        ∧ ∃ v : State, triggersAct s.radio.request.functions t.radio.request.functions 0 s.soundSet.triggers
            { s with radio := t.radio } v
          ∧ t.sound = v.sound ∧ t.status = v.status ∧ t.port = v.port ∧ t.xm = v.xm := by
  rintro after e t hafter he rfl
  have hbefore : (heardFrom s f).radio.request = s.radio.request := by
    rw [heardFrom, heard_eq]
  obtain ⟨hwaiting, hrepeats, hplace⟩ := heardFrom_receiver s f
  obtain ⟨v, hv, -, ⟨-, hkept, hnotices, hvframe⟩, htold, heframe⟩ := setFunctions_told (s := heardFrom s f) hwf after
  rw [hbefore] at hv
  rw [← he] at htold heframe
  obtain ⟨hended, -, -⟩ := frameDone_ends e
  obtain ⟨hframe, hindex, hseq, hoverflow⟩ := frameDone_beside e
  generalize e.frameDone = t at hended hframe hindex hseq hoverflow
  have hradio : e.radio = (bitsReplaced (heardFrom s f) after).radio := by rw [heframe, hvframe]
  have hbits : t.radio.request.functions = after := by
    rw [hframe]
    simp only [besideFrames, hradio]
    rfl
  refine ⟨?_, ?_, ?_, ?_, ?_, ?_⟩
  · refine frameEnded_of_receiver_eq ?_ ?_ ?_ hended
    · rw [hradio]
      exact hwaiting
    · rw [hradio]
      exact hrepeats
    · rw [heframe, hvframe]
      rfl
  · intro i hi
    rw [hbits, hafter]
    exact getLsbD_withGroup _ (param8_lt _ _) hi
  · intro hvoices
    have hxm : t.xm = v.xm := by rw [hframe, heframe]
    rw [hxm]
    exact (hkept hvoices).2
  · have hport : t.port = v.port := by rw [hframe, heframe]
    have hstatus : t.status = v.status := by rw [hframe, heframe]
    have hxm : t.xm = v.xm := by rw [hframe, heframe]
    have hsound : t.sound = v.sound := by rw [hframe, heframe]
    have hlamps : t.lamps = e.lamps := by rw [hframe]
    have hvport : v.port = { s.port with notice := v.port.notice } := noticesOnly_port hnotices
    have hvstatus : v.status = { s.status with faultCount := v.status.faultCount } := hnotices.2
    obtain ⟨hplace, hplace', hplace''⟩ := hplace
    rw [hport, hstatus, hxm, hsound, hlamps, hbits, ← hvport, ← hvstatus]
    refine hframe.trans ?_
    rw [hradio, heframe, hvframe]
    unfold besideFrames
    rw [hindex, hseq, hoverflow, hradio]
    rw [← hplace, ← hplace', ← hplace'', ← hbefore]
    rfl
  · rw [hbits]
    unfold heaterTold
    rw [hframe]
    exact htold
  · obtain ⟨hact, -⟩ := soundFunctions_act (s := (bitsReplaced (heardFrom s f) after).onRadio fun _ => t.radio) hwf
      s.radio.request.functions
    have hsame : ((bitsReplaced (heardFrom s f) after).onRadio fun _ => t.radio).soundFunctions s.radio.request.functions
        = v.onRadio fun _ => t.radio := by
      rw [hv]
      exact triggersFrom_onRadio _ _ _ _ _ hbits
    rw [hsame] at hact
    exact ⟨_, hact, by rw [hframe, heframe]; rfl, by rw [hframe, heframe]; rfl, by rw [hframe, heframe]; rfl,
      by rw [hframe, heframe]; rfl⟩

/-! ## RELEASE (R124) -/

/-- The lease freed by the holder's frame, before the latch is looked at. -/
def holderReleases (s : State) : State :=
  { s with
    port := withNotice s.port [.control]
    radio := { s.radio with
      lease := .none, failsafe := false, request := { s.radio.request with throttle := 0 } } }

theorem releaseAct_holder {s : State} {f : Frame} (hheld : s.radio.lease.heldBy f.sender f.cls = true) :
    releaseAct (heardFrom s f) f = if s.traction.latch = true then
        ({ holderReleases s with traction := { s.traction with latch := false } } : State).derive
      else holderReleases s := by
  rw [heardFrom_of_holder hheld, releaseAct]
  simp only [heldBy_radio, if_true]
  rfl

theorem releaseAct_other {s : State} {f : Frame} (hother : s.radio.lease.heldBy f.sender f.cls = false) :
    releaseAct (heardFrom s f) f = s := by
  rw [heardFrom_of_other hother, releaseAct, hother]
  rfl

theorem releaseFrame_frees {s : State} (hwf : s.xm.wf = true) :
    ∀ e t, e = (if s.traction.latch = true then
        ({ holderReleases s with traction := { s.traction with latch := false } } : State).derive
      else holderReleases s) → t = e.frameDone →
      t.radio.lease = .none ∧ t.radio.failsafe = false
        ∧ t.radio.request = { s.radio.request with throttle := 0 } ∧ frameEnded s t
        ∧ (s.traction.latch = true → voicesLawful s →
          derivedAfresh { holderReleases s with traction := { s.traction with latch := false } } e
            ∧ t = { e with radio := besideFrames e.radio t.radio }
            ∧ t.radio.logIndex = s.radio.logIndex ∧ t.radio.logSeq = s.radio.logSeq
            ∧ t.radio.overflow = s.radio.overflow)
        ∧ (s.traction.latch = false → t = { holderReleases s with
            radio := { besideFrames s.radio t.radio with
              lease := .none, failsafe := false, request := t.radio.request
              logIndex := s.radio.logIndex, logSeq := s.radio.logSeq, overflow := s.radio.overflow } }) := by
  rintro e t he rfl
  obtain ⟨x, hx⟩ : ∃ x : Station, e.radio = { (holderReleases s).radio with station := x } := by
    rw [he]
    split
    · exact ⟨_, (derive_radio _).1⟩
    · exact ⟨(holderReleases s).radio.station, rfl⟩
  have hclock : e.clock = s.clock := by
    rw [he]
    split
    · exact (derive_radio _).2
    · rfl
  obtain ⟨hended, -, -⟩ := frameDone_ends e
  obtain ⟨hframe, hindex, hseq, hoverflow⟩ := frameDone_beside e
  generalize e.frameDone = t at hended hframe hindex hseq hoverflow
  have hradio : t.radio = besideFrames { (holderReleases s).radio with station := x } t.radio := by
    rw [← hx]
    exact congrArg State.radio hframe
  have hrequest : t.radio.request = { s.radio.request with throttle := 0 } := by rw [hradio]; rfl
  refine ⟨by rw [hradio]; rfl, by rw [hradio]; rfl, hrequest,
    frameEnded_of_receiver_eq (by rw [hx]; rfl) (by rw [hx]; rfl) hclock hended, fun hlatch hvoices => ?_,
    fun hlatch => ?_⟩
  · rw [if_pos hlatch] at he
    refine ⟨he ▸ State.derive_afresh _ hwf hvoices, hframe, ?_⟩
    rw [hindex, hseq, hoverflow, hx]
    exact ⟨rfl, rfl, rfl⟩
  · rw [if_neg (by simp [hlatch])] at he
    rw [he] at hframe hindex hseq hoverflow
    refine hframe.trans ?_
    rw [hrequest]
    unfold besideFrames
    rw [hindex, hseq, hoverflow]
    rfl

/-- Settles O41, by the frame's payload and the lease. -/
theorem funcAndReleaseFrames : Obligations.FuncAndReleaseFrames := by
  constructor
  · rintro s f ⟨hwf, hindex, hhand, hkind⟩
    have hmine : ofKind 2 f = true := by simp [ofKind, hkind]
    have hlogged : ∀ {reason}, funcFrame s = loggedOnly s .frame reason f →
        ∃ t, exec .funcFrame s = .next t ∧ frameLogged s t .frame reason f := fun heq =>
      ⟨_, rfl, heq ▸ loggedOnly_frameLogged s .frame _ f hwf hindex⟩
    refine ⟨fun hbad => hlogged (handleFrame_malformed hhand hmine ?_), fun hlength hvalue => ?_⟩
    · simp only [wellFormedPayload, hkind, Bool.and_eq_false_iff, decide_eq_false_iff_not]
      omega
    have hgood : wellFormedPayload f = true := by simp [wellFormedPayload, hkind, hlength, hvalue]
    refine ⟨fun hother hsome hcls => hlogged (handleFrame_logged hhand hmine hgood ?_), fun hallowed => ?_⟩
    · have hrefused : funcApplies s.radio.lease f = false := by
        simp [funcApplies, hother, hsome, hcls]
      rw [funcAct, funcApplies_heard, hrefused]
      rfl
    · have hact : funcAct (heardFrom s f) f = (heardFrom s f).setFunctions
          (withGroup s.radio.request.functions (param8 f.payload 0) (param8 f.payload 1)) := by
        have hbefore : (heardFrom s f).radio.request = s.radio.request := by rw [heardFrom, heard_eq]
        rw [funcAct, funcApplies_heard, funcApplies_iff.2 hallowed, hbefore]
        rfl
      refine ⟨_, rfl, ?_⟩
      exact funcFrame_applied hwf _ _ _ rfl rfl (by rw [← hact]; exact handleFrame_eq hhand hmine hgood)
  · rintro s f ⟨hwf, hindex, hhand, hkind⟩
    have hmine : ofKind 7 f = true := by simp [ofKind, hkind]
    refine ⟨fun hpayload => ⟨_, rfl, ?_⟩, fun hpayload hother => ⟨_, rfl, ?_⟩, fun hpayload hheld => ⟨_, rfl, ?_⟩⟩
    · rw [releaseFrame, handleFrame_malformed hhand hmine (by simp [wellFormedPayload, hkind, hpayload])]
      exact loggedOnly_frameLogged s .frame _ f hwf hindex
    · rw [releaseFrame, handleFrame_eq hhand hmine (by simp [wellFormedPayload, hkind, hpayload]), releaseAct_other hother]
      obtain ⟨hframe, -, hseq, -⟩ := frameDone_beside s
      exact ⟨(frameDone_ends s).1, hframe, hseq⟩
    · rw [releaseFrame, handleFrame_eq hhand hmine (by simp [wellFormedPayload, hkind, hpayload]), releaseAct_holder hheld]
      obtain ⟨hlease, hfailsafe, hrequest, hended, hlatched, hstores⟩ := releaseFrame_frees hwf _ _ rfl rfl
      refine ⟨hlease, hfailsafe, hrequest, hended, fun hlatch hvoices => ?_, hstores⟩
      rw [hrequest]
      obtain ⟨hderived, hplace⟩ := hlatched hlatch hvoices
      exact ⟨_, hderived, hplace⟩

end Sys2Proof.ControlFrames
end

section
/-! PROOFS. SET and CONSIST frames, and frames of the kinds without a row of their own (R120, R129, R131). -/

namespace Sys2Proof.SetFrames

open Sys2Proof Sys2Proof.Machine Sys2Proof.Safety Sys2Proof.LoggedFrames Sys2Proof.FrameEnds
  Sys2Proof.ControlFrames

/-- Hearing its sender does not change whether the sender holds the lease. -/
theorem heldBy_heardFrom (s : State) (f : Frame) :
    (heardFrom s f).radio.lease.heldBy f.sender f.cls = s.radio.lease.heldBy f.sender f.cls := by
  cases hheld : s.radio.lease.heldBy f.sender f.cls with
  | true => simp [heardFrom_of_holder hheld, heldBy_radio]
  | false => simp [heardFrom, heard, hheld]

/-- A step that leaves a record of the frame alone. -/
theorem logged_of_eq {s t : State} {f : Frame} {k : Nat} {kind : RecordKind} {reason : Reason}
    (hhand : frameInHand s f k) (h : t = loggedOnly s kind reason f) : frameLogged s t kind reason f := by
  obtain ⟨hwf, hindex, -, -⟩ := hhand
  exact h ▸ loggedOnly_frameLogged s kind reason f hwf hindex

/-! ## PASS and unknown kinds (R120) -/

theorem passFrame_tooLong {s : State} {f : Frame} (hhand : frameInHand s f 9) (hlong : 16 < f.payload.length) :
    frameLogged s (passFrame s) .frame .malformed f := by
  obtain ⟨-, -, hsome, hkind⟩ := id hhand
  refine logged_of_eq hhand (handleFrame_malformed hsome (by simp [hkind]) ?_)
  simpa [wellFormedPayload, hkind] using hlong

theorem passFrame_unknown {s : State} {f : Frame} {k : Nat} (hhand : frameInHand s f k) (hk : k = 0 ∨ 9 < k) :
    frameLogged s (passFrame s) .frame (.outcome .unknownKind) f := by
  obtain ⟨-, -, hsome, hkind⟩ := id hhand
  have hgood : wellFormedPayload f = true := by
    obtain rfl | ⟨n, rfl⟩ : k = 0 ∨ ∃ n, k = n + 10 := hk.imp_right fun h => ⟨k - 10, by omega⟩
    · simp [wellFormedPayload, hkind]
    · simp [wellFormedPayload, hkind]
  refine logged_of_eq hhand (handleFrame_logged hsome ?_ hgood ?_)
  · simp only [hkind, Bool.or_eq_true, decide_eq_true_eq]
    omega
  · rw [passAct, if_neg (by omega)]

/-! ## SET (R129) -/

/-- The action that a SET frame asks for. -/
def frameAction (f : Frame) (kind : SetActionKind) : SetAction where
  kind := kind
  index := param8 f.payload 1
  level := f.cls
  source := .frame f
  load := none

/-- The kind of a SET action, as the statement tells it of codes 0 to 2. -/
theorem actionKind_eq {code : Nat} (h : code ≤ 2) : actionKind code =
    some (if code = 0 then .switch else if code = 1 then .invoke else .returnSet) := by
  rcases code with _ | _ | _ | n
  · rfl
  · rfl
  · rfl
  · omega

theorem actionKind_none {code : Nat} (h : 2 < code) : actionKind code = none := by
  rcases code with _ | _ | _ | n
  · omega
  · omega
  · omega
  · rfl

/-- A SET frame that is let through to the set manager. -/
def setAllowed (s : State) (f : Frame) : Prop :=
  s.balance.run = none ∧ (f.cls ≠ 2 ∨ s.radio.lease.heldBy f.sender f.cls = true)

theorem setAct_allowed {s : State} {f : Frame} (h : setAllowed s f) : setAct (heardFrom s f) f =
    (heardFrom s f).requestAction (param8 f.payload 0) (param8 f.payload 1) f.cls (.frame f) := by
  obtain ⟨hrun, hholds⟩ := h
  have hfree : (heardFrom s f).balance.run = none := hrun
  rw [setAct, hfree, heldBy_heardFrom]
  simp only [Option.isSome_none, Bool.false_eq_true, if_false]
  rw [if_neg]
  rintro ⟨hcls, hother⟩
  rcases hholds with hne | hheld
  · exact hne hcls
  · simp [hheld] at hother

theorem setAct_action {s : State} {f : Frame} (h : setAllowed s f) (hcode : param8 f.payload 0 ≤ 2) :
    setAct (heardFrom s f) f = (heardFrom s f).actionArrives (frameAction f
      (if param8 f.payload 0 = 0 then .switch else if param8 f.payload 0 = 1 then .invoke else .returnSet)) := by
  rw [setAct_allowed h, State.requestAction, actionKind_eq hcode]
  rfl

/-- Whether and what an action of code 0 to 2 loads (R38, R41). -/
theorem loadIndex_frameAction (m : SetManager) (f : Frame) {code : Nat} (hcode : code ≤ 2) :
    loadIndex m (frameAction f (if code = 0 then .switch else if code = 1 then .invoke else .returnSet)) =
      if code = 2 then (if m.chain.length ≤ 1 then none else some m.belowIndex)
      else if param8 f.payload 1 ≤ 7 then some (param8 f.payload 1) else none := by
  rcases code with _ | _ | _ | n
  · rfl
  · rfl
  · rfl
  · omega

theorem queueIs_self {s : State} {q : List SetAction} (h : s.sets.queue = q) : s.queueIs q = s := by
  rw [State.queueIs, State.onSets, ← h]

/-- An action that finds none in flight and loads nothing comes to its refusal alone. -/
theorem actionArrives_refused {s : State} {a : SetAction} {f : Frame} (hempty : s.sets.queue = [])
    (hnone : loadIndex s.sets a = none) (hsource : a.source = .frame f) :
    s.actionArrives a = s.logFrame (.outcome (if s.balance.run.isSome then .busy
      else if a.kind = .returnSet then .chainEmpty else .badIndex)) f := by
  rw [State.actionArrives, if_pos hempty, State.takeWaiting, hnone]
  simp only [State.takeWaiting]
  rw [s.conclude_unloaded a hnone, State.reportAction, hsource]
  exact queueIs_self (by simpa using hempty)

/-- An action that is taken up or waits changes the queue alone. -/
theorem actionArrives_waits {s : State} {a : SetAction} {load : Option TableLoad} (hnew : a.load = none)
    (hbusy : s.sets.queue ≠ [] → load = none)
    (hfree : s.sets.queue = [] → ∃ x, loadIndex s.sets a = some x ∧ load = some (TableLoad.ofSet x)) :
    s.actionArrives a = s.queueIs (s.sets.queue ++ [{ a with load := load }]) := by
  by_cases hempty : s.sets.queue = []
  · obtain ⟨x, hx, rfl⟩ := hfree hempty
    rw [State.actionArrives, if_pos hempty, State.takeWaiting, hx, hempty]
    rfl
  · rw [State.actionArrives, if_neg hempty, hbusy hempty, ← hnew]

/-- A SET frame whose action waits or is taken up. -/
theorem setFrame_waits {s : State} {f : Frame} (q : List SetAction) (t : State)
    (ht : t = ((heardFrom s f).queueIs q).frameDone) : frameEnded s t
      ∧ t = { s with
          sets := { s.sets with queue := q }
          radio := { besideFrames (heard s.radio f s.clock) t.radio with
            logIndex := s.radio.logIndex, logSeq := s.radio.logSeq, overflow := s.radio.overflow } } := by
  subst ht
  obtain ⟨hwaiting, hrepeats, hindex, hseq, hoverflow⟩ := heardFrom_receiver s f
  obtain ⟨hended, -, -⟩ := frameDone_ends ((heardFrom s f).queueIs q)
  obtain ⟨hframe, hindex', hseq', hoverflow'⟩ := frameDone_beside ((heardFrom s f).queueIs q)
  generalize ((heardFrom s f).queueIs q).frameDone = t at hended hframe hindex' hseq' hoverflow'
  refine ⟨frameEnded_of_receiver_eq hwaiting hrepeats rfl hended, ?_⟩
  refine hframe.trans ?_
  unfold besideFrames
  rw [hindex', hseq', hoverflow', ← hindex, ← hseq, ← hoverflow]
  rfl

/-- R129, of a SET frame with its two bytes. -/
theorem setFrame_settles {s : State} {f : Frame} (hhand : frameInHand s f 4) (hlength : f.payload.length = 2) :
    (s.balance.run ≠ none → frameLogged s (setFrame s) .frame (.outcome .busy) f)
      ∧ (s.balance.run = none → f.cls = 2 → s.radio.lease.heldBy f.sender f.cls = false →
        frameLogged s (setFrame s) .frame (.outcome .notHolder) f)
      ∧ (setAllowed s f → 2 < param8 f.payload 0 → frameLogged s (setFrame s) .frame (.outcome .badIndex) f)
      ∧ (setAllowed s f → param8 f.payload 0 ≤ 2 → setFrame s = ((heardFrom s f).actionArrives (frameAction f
          (if param8 f.payload 0 = 0 then .switch else if param8 f.payload 0 = 1 then .invoke
            else .returnSet))).frameDone) := by
  obtain ⟨-, -, hsome, hkind⟩ := id hhand
  have hmine : ofKind 4 f = true := by simp [ofKind, hkind]
  have hgood : wellFormedPayload f = true := by simp [wellFormedPayload, hkind, hlength]
  have hlogged : ∀ {outcome}, setAct (heardFrom s f) f = (heardFrom s f).logFrame (.outcome outcome) f →
      frameLogged s (setFrame s) .frame (.outcome outcome) f := fun hact =>
    logged_of_eq hhand (handleFrame_logged hsome hmine hgood hact)
  refine ⟨fun hrun => hlogged ?_, fun hrun hcls hother => hlogged ?_, fun hallowed hcode => hlogged ?_,
    fun hallowed hcode => ?_⟩
  · have hbusy : (heardFrom s f).balance.run.isSome = true := Option.isSome_iff_ne_none.2 hrun
    rw [setAct, if_pos hbusy]
  · have hfree : (heardFrom s f).balance.run = none := hrun
    rw [setAct, hfree, if_neg (by simp), if_pos ⟨hcls, (heldBy_heardFrom s f).trans hother⟩]
  · rw [setAct_allowed hallowed, State.requestAction, actionKind_none hcode]
    rfl
  · rw [setFrame, handleFrame_eq hsome hmine hgood, setAct_action hallowed hcode]

/-- R129: the action of a SET frame waits behind one in flight, or has its load begun. -/
theorem setFrame_arrives {s : State} {f : Frame} (hhand : frameInHand s f 4) (hlength : f.payload.length = 2)
    (hallowed : setAllowed s f) (hcode : param8 f.payload 0 ≤ 2)
    (hcase : s.sets.queue ≠ [] ∨ (param8 f.payload 0 ≤ 1 ∧ param8 f.payload 1 ≤ 7)
      ∨ (param8 f.payload 0 = 2 ∧ 2 ≤ s.sets.chain.length)) :
    ∀ t, t = setFrame s → frameEnded s t ∧ t = { s with
      sets := { s.sets with queue := s.sets.queue ++ [{
        kind := if param8 f.payload 0 = 0 then .switch
          else if param8 f.payload 0 = 1 then .invoke else .returnSet
        index := param8 f.payload 1, level := f.cls, source := .frame f
        load := if s.sets.queue ≠ [] then none else some (TableLoad.ofSet
          (if param8 f.payload 0 = 2 then s.sets.belowIndex else param8 f.payload 1)) }] }
      radio := { besideFrames (heard s.radio f s.clock) t.radio with
        logIndex := s.radio.logIndex, logSeq := s.radio.logSeq, overflow := s.radio.overflow } } := by
  intro t ht
  obtain ⟨-, -, -, harrives⟩ := setFrame_settles hhand hlength
  refine setFrame_waits _ t (ht.trans ?_)
  rw [harrives hallowed hcode, actionArrives_waits (load := if s.sets.queue ≠ [] then none else
    some (TableLoad.ofSet (if param8 f.payload 0 = 2 then s.sets.belowIndex else param8 f.payload 1))) rfl]
  · rfl
  · exact fun hbusy => if_pos hbusy
  · intro hempty
    refine ⟨_, ?_, if_neg (not_not.2 hempty)⟩
    have hload := loadIndex_frameAction s.sets f hcode
    rcases hcase with hbusy | ⟨hone, hindex⟩ | ⟨htwo, hlong⟩
    · exact absurd hempty hbusy
    · have hne : param8 f.payload 0 ≠ 2 := by omega
      rw [if_neg hne, if_pos hindex] at hload
      rw [if_neg hne]
      exact hload
    · have hlong' : ¬s.sets.chain.length ≤ 1 := by omega
      rw [if_pos htwo, if_neg hlong'] at hload
      rw [if_pos htwo]
      exact hload

/-- R129, R38 and R41: the action of a SET frame that loads nothing ends at once. -/
theorem setFrame_refused {s : State} {f : Frame} (hhand : frameInHand s f 4) (hlength : f.payload.length = 2)
    (hallowed : setAllowed s f) (hcode : param8 f.payload 0 ≤ 2) (hempty : s.sets.queue = [])
    (hcase : param8 f.payload 0 ≤ 1 ∧ 7 < param8 f.payload 1 ∨ param8 f.payload 0 = 2 ∧ s.sets.chain.length < 2) :
    frameLogged s (setFrame s) .frame
      (.outcome (if param8 f.payload 0 = 2 then .chainEmpty else .badIndex)) f := by
  obtain ⟨-, -, -, harrives⟩ := setFrame_settles hhand hlength
  have hnone : loadIndex (heardFrom s f).sets (frameAction f (if param8 f.payload 0 = 0 then .switch
      else if param8 f.payload 0 = 1 then .invoke else .returnSet)) = none := by
    rw [loadIndex_frameAction _ f hcode]
    rcases hcase with ⟨hone, hindex⟩ | ⟨htwo, hshort⟩
    · rw [if_neg (by omega), if_neg (by omega)]
    · exact (if_pos htwo).trans (if_pos (Nat.le_of_lt_succ hshort))
  refine logged_of_eq hhand ?_
  rw [harrives hallowed hcode, actionArrives_refused (s := heardFrom s f) (f := f) hempty hnone rfl]
  have hfree : (heardFrom s f).balance.run = none := hallowed.1
  have houtcome : (if (heardFrom s f).balance.run.isSome = true then OutcomeCode.busy
      else if (frameAction f (if param8 f.payload 0 = 0 then .switch else if param8 f.payload 0 = 1 then .invoke
        else .returnSet)).kind = .returnSet then .chainEmpty else .badIndex)
      = if param8 f.payload 0 = 2 then .chainEmpty else .badIndex := by
    rw [hfree]
    simp only [frameAction, Option.isSome_none, Bool.false_eq_true, if_false]
    split
    · next hzero => simp [hzero]
    · split
      · next hone => simp [hone]
      · next hzero hone => simp [show param8 f.payload 0 = 2 by omega]
  rw [houtcome, loggedOnly, hearHolder_eq]
  rfl

/-! ## CONSIST (R131) -/

/-- The role a JOIN gives, as the statement tells it of codes 0 to 2. -/
theorem roleOf_eq (n : Nat) (h : n ≤ 2) :
    roleOf n = if n = 0 then .lead else if n = 1 then .mid else .trail := by
  rcases n with _ | _ | _ | n
  · rfl
  · rfl
  · rfl
  · omega

theorem consistAllowed_heard (s : State) (f : Frame) :
    consistAllowed (heardFrom s f).radio f = true ↔ f.cls ≤ 1 ∧ f.target = s.radio.cfg.own := by
  have hcfg : (heardFrom s f).radio.cfg = s.radio.cfg := by rw [heardFrom, heard_eq]
  simp [consistAllowed, hcfg]

/-- A CONSIST frame that is let through sets the consist state and makes its record. -/
theorem consist_logged {s : State} {f : Frame} {mine : Frame → Bool} {act : State → Frame → State} {reason : Reason}
    (hhand : frameInHand s f 6) (hmine : mine f = true) (hgood : wellFormedPayload f = true)
    (hact : act (heardFrom s f) f
      = ((heardFrom s f).onRadio fun r => { r with consist := consistOf f }).offer .consist reason f) :
    frameLogged { s with radio := { s.radio with consist := consistOf f } } (s.handleFrame mine act) .consist reason f := by
  obtain ⟨hwf, hindex, hsome, -⟩ := hhand
  have hheard : heard { s.radio with consist := consistOf f } f s.clock
      = { heard s.radio f s.clock with consist := consistOf f } := by
    unfold heard
    simp only
    split <;> rfl
  have heq : s.handleFrame mine act
      = loggedOnly { s with radio := { s.radio with consist := consistOf f } } .consist reason f := by
    rw [handleFrame_eq hsome hmine hgood, hact, loggedOnly, hearHolder_eq]
    simp only [hheard]
    rfl
  rw [heq]
  exact loggedOnly_frameLogged _ _ _ _ hwf hindex

/-- The payload of a JOIN with values in range. -/
def joins (p : List Byte) : Bool :=
  decide (p.length = 4) && decide (param8 p 0 = 0) && decide (1 ≤ param8 p 1) && decide (param8 p 1 ≤ 127)
    && decide (param8 p 2 ≤ 2) && decide (param8 p 3 ≤ 1)

theorem joinAct_denied {s : State} {f : Frame} (h : ¬(f.cls ≤ 1 ∧ f.target = s.radio.cfg.own)) :
    joinAct (heardFrom s f) f = (heardFrom s f).logFrame (.outcome .denied) f := by
  rw [joinAct, if_neg (mt (consistAllowed_heard s f).1 h)]

theorem leaveAct_denied {s : State} {f : Frame} (h : ¬(f.cls ≤ 1 ∧ f.target = s.radio.cfg.own)) :
    leaveAct (heardFrom s f) f = (heardFrom s f).logFrame (.outcome .denied) f := by
  rw [leaveAct, if_neg (mt (consistAllowed_heard s f).1 h)]

theorem consistJoin_settles {s : State} {f : Frame} (hhand : frameInHand s f 6) :
    (param8 f.payload 0 ≠ 1 → joins f.payload = false → frameLogged s (consistJoin s) .frame .malformed f)
      ∧ (joins f.payload = true → ¬(f.cls ≤ 1 ∧ f.target = s.radio.cfg.own) →
        frameLogged s (consistJoin s) .frame (.outcome .denied) f)
      ∧ (joins f.payload = true → f.cls ≤ 1 → f.target = s.radio.cfg.own →
        frameLogged { s with radio := { s.radio with consist := {
            number := param8 f.payload 1
            role := if param8 f.payload 2 = 0 then .lead else if param8 f.payload 2 = 1 then .mid else .trail
            reversed := decide (param8 f.payload 3 = 1) } } } (consistJoin s) .consist .joined f) := by
  obtain ⟨-, -, hsome, hkind⟩ := id hhand
  have hmine : param8 f.payload 0 ≠ 1 → (ofKind 6 f && !isLeave f) = true := by
    intro hjoin
    simp [ofKind, isLeave, hkind, hjoin]
  have hjoined : joins f.payload = true → wellFormedPayload f = true ∧ param8 f.payload 0 = 0
      ∧ param8 f.payload 2 ≤ 2 := by
    intro h
    simp only [joins, Bool.and_eq_true, decide_eq_true_eq] at h
    obtain ⟨⟨⟨⟨⟨hlength, hop⟩, hlow⟩, hhigh⟩, hrole⟩, hdir⟩ := h
    exact ⟨by simp [wellFormedPayload, hkind, hlength, hop, hlow, hhigh, hrole, hdir], hop, hrole⟩
  refine ⟨fun hop hbad => ?_, fun hjoin hdenied => ?_, fun hjoin hcls hown => ?_⟩
  · refine logged_of_eq hhand (handleFrame_malformed hsome (hmine hop) ?_)
    simp only [wellFormedPayload, hkind, decide_eq_false hop, Bool.false_or]
    rw [← hbad, joins]
    simp only [Bool.and_assoc]
  · obtain ⟨hgood, hop, -⟩ := hjoined hjoin
    exact logged_of_eq hhand
      (handleFrame_logged hsome (hmine (by omega)) hgood (joinAct_denied hdenied))
  · obtain ⟨hgood, hop, hrole⟩ := hjoined hjoin
    have hconsist : consistOf f = {
        number := param8 f.payload 1
        role := if param8 f.payload 2 = 0 then .lead else if param8 f.payload 2 = 1 then .mid else .trail
        reversed := decide (param8 f.payload 3 = 1) } := by
      rw [consistOf, if_pos hop, roleOf_eq _ hrole]
    rw [← hconsist]
    refine consist_logged hhand (hmine (by omega)) hgood ?_
    rw [joinAct, if_pos ((consistAllowed_heard s f).2 ⟨hcls, hown⟩)]

theorem consistLeave_settles {s : State} {f : Frame} (hhand : frameInHand s f 6) (hop : param8 f.payload 0 = 1) :
    (f.payload.length ≠ 4 → frameLogged s (consistLeave s) .frame .malformed f)
      ∧ (f.payload.length = 4 → ¬(f.cls ≤ 1 ∧ f.target = s.radio.cfg.own) →
        frameLogged s (consistLeave s) .frame (.outcome .denied) f)
      ∧ (f.payload.length = 4 → f.cls ≤ 1 → f.target = s.radio.cfg.own →
        frameLogged { s with radio := { s.radio with
            consist := { number := 0, role := .lead, reversed := false } } } (consistLeave s) .consist .left f) := by
  obtain ⟨-, -, hsome, hkind⟩ := id hhand
  have hmine : isLeave f = true := by simp [ofKind, isLeave, hkind, hop]
  have hgood : wellFormedPayload f = decide (f.payload.length = 4) := by simp [wellFormedPayload, hkind, hop]
  refine ⟨fun hlength => ?_, fun hlength hdenied => ?_, fun hlength hcls hown => ?_⟩
  · exact logged_of_eq hhand (handleFrame_malformed hsome hmine (by rw [hgood]; exact decide_eq_false hlength))
  · exact logged_of_eq hhand (handleFrame_logged hsome hmine (by rw [hgood]; exact decide_eq_true hlength)
      (leaveAct_denied hdenied))
  · have hconsist : consistOf f = { number := 0, role := .lead, reversed := false } := by
      rw [consistOf, if_neg (by omega)]
    rw [← hconsist]
    refine consist_logged hhand hmine (by rw [hgood]; exact decide_eq_true hlength) ?_
    rw [leaveAct, if_pos ((consistAllowed_heard s f).2 ⟨hcls, hown⟩)]

/-- Settles O43, by the kind of the frame and then its payload. -/
theorem setConsistAndUnknownFrames : Obligations.SetConsistAndUnknownFrames := by
  refine ⟨fun s f hhand hlong => ⟨_, rfl, passFrame_tooLong hhand hlong⟩,
    fun s f k hhand hk => ⟨_, rfl, passFrame_unknown hhand hk⟩, fun s f hhand => ⟨fun hlength => ⟨_, rfl, ?_⟩,
      fun hlength => ?_⟩, ?_⟩
  · obtain ⟨-, -, hsome, hkind⟩ := id hhand
    exact logged_of_eq hhand (handleFrame_malformed hsome (by simp [ofKind, hkind])
      (by simp [wellFormedPayload, hkind, hlength]))
  · obtain ⟨hbusy, hother, hcode, -⟩ := setFrame_settles hhand hlength
    refine ⟨fun hrun => ⟨_, rfl, hbusy hrun⟩, fun hrun => ⟨fun hcls hheld => ⟨_, rfl, hother hrun hcls hheld⟩,
      fun hholds => ?_⟩⟩
    have hallowed : setAllowed s f := ⟨hrun, hholds⟩
    refine ⟨fun hhigh => ⟨_, rfl, hcode hallowed hhigh⟩, fun hlow => ⟨fun hcase => ⟨_, rfl,
      setFrame_arrives hhand hlength hallowed hlow hcase _ rfl⟩, fun hempty =>
        ⟨fun hone hindex => ⟨_, rfl, ?_⟩, fun htwo hshort => ⟨_, rfl, ?_⟩⟩⟩⟩
    · have h := setFrame_refused hhand hlength hallowed hlow hempty (.inl ⟨hone, hindex⟩)
      rwa [if_neg (by omega)] at h
    · have h := setFrame_refused hhand hlength hallowed hlow hempty (.inr ⟨htwo, hshort⟩)
      rwa [if_pos htwo] at h
  · rintro s f hhand p rfl j hj
    have hj' : j = joins f.payload := hj
    subst hj'
    obtain ⟨hmalformed, hdenied, hjoined⟩ := consistJoin_settles hhand
    exact ⟨fun hop hbad => ⟨_, rfl, hmalformed hop hbad⟩, fun hgood hnot => ⟨_, rfl, hdenied hgood hnot⟩,
      fun hgood hcls hown => ⟨_, rfl, hjoined hgood hcls hown⟩,
      fun hop hlength => ⟨_, rfl, (consistLeave_settles hhand hop).1 hlength⟩,
      fun hop hlength hnot => ⟨_, rfl, (consistLeave_settles hhand hop).2.1 hlength hnot⟩,
      fun hop hlength hcls hown => ⟨_, rfl, (consistLeave_settles hhand hop).2.2 hlength hcls hown⟩⟩

end Sys2Proof.SetFrames
end

section
/-! PROOFS. SERVICE_WRITE frames, from their checks to the last byte written (R130). -/

namespace Sys2Proof.ServiceWrites

open Sys2Proof Sys2Proof.Machine Sys2Proof.Safety Sys2Proof.LoggedFrames Sys2Proof.FrameEnds Sys2Proof.SetFrames

/-! ## Cells -/

theorem writeCells_cons (m : Memory) (c : Host.Cell) (cells : List Host.Cell) :
    writeCells m (c :: cells) = writeCells (m.write c.1 c.2) cells := rfl

theorem read_writeCells_other {m : Memory} {cells : List Host.Cell} (hwf : m.wf = true)
    (hcells : ∀ c ∈ cells, c.1 < 65536) {a : Nat} (ha : a < 65536) (hout : ∀ c ∈ cells, c.1 ≠ a) :
    (writeCells m cells).read a = m.read a := by
  induction cells generalizing m with
  | nil => rfl
  | cons c cells ih =>
    obtain ⟨hc, hrest⟩ := List.forall_mem_cons.1 hcells
    obtain ⟨hne, hout⟩ := List.forall_mem_cons.1 hout
    rw [writeCells_cons, ih (Memory.wf_write _ _ hwf) hrest hout]
    exact Memory.read_write_other _ hwf (by rw [Nat.mod_eq_of_lt hc, Nat.mod_eq_of_lt ha]; exact hne)

/-- Cells at different addresses all read as written. -/
theorem read_writeCells {m : Memory} {cells : List Host.Cell} (hwf : m.wf = true)
    (hcells : ∀ c ∈ cells, c.1 < 65536) (hnodup : (cells.map Prod.fst).Nodup) :
    ∀ c ∈ cells, (writeCells m cells).read c.1 = c.2 := by
  induction cells generalizing m with
  | nil => intro c hc; cases hc
  | cons d cells ih =>
    obtain ⟨hd, hrest⟩ := List.forall_mem_cons.1 hcells
    obtain ⟨hnew, hnodup⟩ := List.nodup_cons.1 hnodup
    intro c hc
    rw [writeCells_cons]
    rcases List.mem_cons.1 hc with rfl | hc
    · rw [read_writeCells_other (Memory.wf_write _ _ hwf) hrest hd fun e he heq =>
        hnew (heq ▸ List.mem_map_of_mem (f := Prod.fst) he)]
      exact Memory.read_write_same _ _ hwf
    · exact ih (Memory.wf_write _ _ hwf) hrest hnodup c hc

/-! ## The command SERVICE_WRITE -/

theorem serviceWrite_hand {s : State} {f : Frame} (hhand : frameInHand s f 8) (hfree : s.radio.service = none) :
    serviceWrite s = match serviceRefusal s.radio.cfg f with
      | some reason => loggedOnly s .frame reason f
      | none => { s with radio := { heard s.radio f s.clock with service := some (serviceCells f) } } := by
  obtain ⟨-, -, hsome, hkind⟩ := hhand
  have hcfg : (s.hearHolder f).radio.cfg = s.radio.cfg := by
    rw [hearHolder_eq, heard_eq]
  rw [serviceWrite, hsome]
  simp only [hkind, hfree, and_self, if_true, hcfg]
  cases serviceRefusal s.radio.cfg f with
  | some reason => rfl
  | none => simp only [hearHolder_eq, State.onRadio]

theorem inWindow_eq (c : RadioConfig) (f : Frame) (hsize : 1 ≤ param8 f.payload 2) : inWindow c f
    = (decide (c.windowStart ≤ c.windowEnd) && decide (c.windowStart ≤ param16 f.payload 0)
      && decide (param16 f.payload 0 + param8 f.payload 2 - 1 ≤ c.windowEnd)) := by
  have hlast : param16 f.payload 0 + param8 f.payload 2 ≤ c.windowEnd + 1
      ↔ param16 f.payload 0 + param8 f.payload 2 - 1 ≤ c.windowEnd := by omega
  simp only [inWindow, hlast]

/-- The checks of R130, of a frame whose size is right or not and whose range lies in the window or not. -/
theorem serviceRefusal_eq {c : RadioConfig} {f : Frame} (hkind : f.kind = 8) {fits inside : Bool}
    (hfits : fits = (decide (f.payload.length = 3 + param8 f.payload 2) && decide (1 ≤ param8 f.payload 2)
      && decide (param8 f.payload 2 ≤ 16)))
    (hinside : inside = (decide (c.windowStart ≤ c.windowEnd) && decide (c.windowStart ≤ param16 f.payload 0)
      && decide (param16 f.payload 0 + param8 f.payload 2 - 1 ≤ c.windowEnd))) :
    serviceRefusal c f = if fits = false then some .malformed else if f.cls ≠ 0 then some (.outcome .denied)
      else if inside = false then some .outOfWindow else none := by
  have hwell : wellFormedPayload f = fits := by simp [wellFormedPayload, hkind, hfits]
  rw [serviceRefusal, hwell]
  cases fits with
  | false => rfl
  | true =>
    have hsize : 1 ≤ param8 f.payload 2 := by simp at hfits; omega
    rw [inWindow_eq c f hsize, ← hinside]
    cases inside <;> rfl

/-! ## Its end -/

/-- The state in which a service write has written its last byte (R130). -/
def cellsWritten (s : State) (cells : List Host.Cell) : State := { s with xm := writeCells s.xm cells }

theorem serviceWriteDone_hand {s : State} {f : Frame} {cells : List Host.Cell} (hsome : s.radio.handling = some f)
    (hcells : s.radio.service = some cells) : serviceWriteDone s
      = loggedFrom { cellsWritten s cells with radio := { s.radio with service := none } } .written .written f := by
  rw [serviceWriteDone, hsome, hcells]
  rfl

theorem serviceWriteDone_settles {s : State} {f : Frame} {cells : List Host.Cell} (hwf : s.xm.wf = true)
    (hindex : s.radio.logIndex < 64) :
    ∀ t, t = loggedFrom { cellsWritten s cells with radio := { s.radio with service := none } } .written .written f →
      recordOffered (cellsWritten s cells) t .written .written f [] ∧ recordOnly (cellsWritten s cells) t
        ∧ frameEnded s t ∧ t = { s with
          xm := t.xm, lastGranted := .radioWriter, port := { s.port with notice := t.port.notice }
          radio := { besideFrames s.radio t.radio with service := none } } := by
  intro t ht
  have hwf' : (writeCells s.xm cells).wf = true := Memory.wf_writeCells cells hwf
  have hrecorded := loggedFrom_recorded { cellsWritten s cells with radio := { s.radio with service := none } }
    .written .written f hwf'
  have honly := loggedFrom_only { cellsWritten s cells with radio := { s.radio with service := none } }
    .written .written f hwf' hindex
  obtain ⟨hended, -, hframe⟩ := loggedFrom_ends { cellsWritten s cells with radio := { s.radio with service := none } }
    .written .written f
  rw [← ht] at hrecorded honly hended hframe
  exact ⟨recordOffered_congr rfl rfl rfl ⟨rfl, rfl, rfl⟩ hrecorded, recordOnly_congr rfl rfl honly,
    frameEnded_of_receiver_eq (u := { cellsWritten s cells with radio := { s.radio with service := none } })
      rfl rfl rfl hended, hframe⟩

/-- Settles O44, by the first failing check of R130, and by the end of the write. -/
theorem serviceWritesStayInTheWindow : Obligations.ServiceWritesStayInTheWindow := by
  refine ⟨?_, ?_⟩
  · rintro s f hhand hfree p rfl fits hfits inside hinside
    have hwrite := serviceWrite_hand hhand hfree
    obtain ⟨-, -, -, hkind⟩ := id hhand
    rw [serviceRefusal_eq hkind hfits hinside] at hwrite
    refine ⟨fun hbad => ⟨_, rfl, logged_of_eq hhand ?_⟩, fun hgood hcls => ⟨_, rfl, logged_of_eq hhand ?_⟩,
      fun hgood hcls hout => ⟨_, rfl, logged_of_eq hhand ?_⟩, fun hgood hcls hin => congrArg Host.Outcome.next ?_⟩
    · simpa [hbad] using hwrite
    · simpa [hgood, hcls] using hwrite
    · simpa [hgood, hcls, hout] using hwrite
    · simpa [hgood, hcls, hin, serviceCells] using hwrite
  · rintro s f cells hcells ⟨hwf, hindex, hsome, -⟩ hnodup hbound
    refine ⟨cellsWritten s cells, _, congrArg Host.Outcome.next (serviceWriteDone_hand hsome hcells), rfl,
      read_writeCells hwf hbound hnodup, fun a ha hout => ?_, serviceWriteDone_settles hwf hindex _ rfl⟩
    exact read_writeCells_other hwf hbound ha fun c hc heq => hout ⟨c, hc, heq⟩

end Sys2Proof.ServiceWrites
end

section
/-! PROOFS. BEACON frames (R133, R134): the zone record, the station stop and the horn in turn, each told with the record
it makes. -/

namespace Sys2Proof.Beacons

open Sys2Proof Sys2Proof.Machine Sys2Proof.Safety Sys2Proof.Notices Sys2Proof.LoggedFrames Sys2Proof.FrameEnds
  Sys2Proof.Triggers Sys2Proof.SetFrames Sys2Proof.EmergencyStops

/-! ## BEACON records -/

theorem logBeacon_recorded {s : State} (hwf : s.xm.wf = true) (reason : Reason) (f : Frame) :
    recordOffered s (s.logBeacon reason f) .beacon reason f [.beacon] := by
  obtain ⟨hseq, hcase⟩ := s.offer_recorded .beacon reason f hwf
  have hport : (s.logBeacon reason f).port = withNotice (s.offer .beacon reason f).port [.beacon] := rfl
  refine ⟨hseq, ?_⟩
  rw [hport]
  split at hcase
  · next hfull =>
    obtain ⟨hindex, hoverflow, hnotices⟩ := hcase
    rw [if_pos hfull]
    exact ⟨hindex, hoverflow, by rw [hnotices, withNotice_flatten, List.append_nil]⟩
  · next hfull =>
    obtain ⟨hbytes, hindex, hoverflow, hnotices⟩ := hcase
    rw [if_neg hfull]
    exact ⟨hbytes, hindex, hoverflow, by rw [hnotices, withNotice_flatten]; rfl⟩

theorem logBeacon_only {s : State} (hwf : s.xm.wf = true) (hindex : s.radio.logIndex < 64) (reason : Reason)
    (f : Frame) : recordOnly s (s.logBeacon reason f) :=
  s.offer_only .beacon reason f hwf hindex

/-- A record is the same of `t` as of `s`: memory, notices, clock and the log's place agree. -/
def logsAlike (s t : State) : Prop :=
  t.xm = s.xm ∧ t.port = s.port ∧ t.clock = s.clock ∧ t.radio.logIndex = s.radio.logIndex
    ∧ t.radio.logSeq = s.radio.logSeq ∧ t.radio.overflow = s.radio.overflow

/-- `s` with what records have made of memory, notices and the log's place in `t`. -/
def recorded (s t : State) : State :=
  { s with
    xm := t.xm, port := t.port
    radio := { s.radio with
      logIndex := t.radio.logIndex, logSeq := t.radio.logSeq, overflow := t.radio.overflow } }

theorem logsAlike_recorded {s t : State} (hclock : t.clock = s.clock) : logsAlike (recorded s t) t :=
  ⟨rfl, rfl, hclock, rfl, rfl, rfl⟩

theorem recorded_alike {s t : State} (h : logsAlike s t) : recorded s t = s := by
  obtain ⟨hxm, hport, -, hindex, hseq, hoverflow⟩ := h
  rw [recorded, hxm, hport, hindex, hseq, hoverflow]

/-- A part of a beacon's work that makes a record when it is done, told of any state from which the record is the same. -/
theorem recordedIf_logBeacon {s e e' : State} (h : logsAlike s e) (h' : logsAlike s e') (hwf : s.xm.wf = true) (hindex : s.radio.logIndex < 64)
    (made : Bool) (reason : Reason) (f : Frame) {t : State}
    (ht : t = if made = true then e.logBeacon reason f else e') :
    recordedIf made s (recorded s t) .beacon reason f [.beacon] := by
  obtain ⟨hxm, hport, hclock, hlog⟩ := id h
  cases made with
  | false => exact (congrArg (recorded s) ht).trans (recorded_alike h')
  | true =>
    subst ht
    have hoffered := recordOffered_congr hxm hport hclock hlog
      (logBeacon_recorded (s := e) (by rw [hxm]; exact hwf) reason f)
    have honly := recordOnly_congr hxm hlog.1
      (logBeacon_only (s := e) (by rw [hxm]; exact hwf) (by rw [hlog.1]; exact hindex) reason f)
    exact ⟨hoffered, honly, rfl⟩

/-- The place in the log stays in the log, and memory in form. -/
theorem recordedIf_log {s u : State} {made : Bool} {kind : RecordKind} {reason : Reason} {f : Frame}
    {bits : List NoticeBit} (h : recordedIf made s u kind reason f bits) (hindex : s.radio.logIndex < 64) :
    u.radio.logIndex < 64 ∧ sameBut s.xm u.xm fun a => 0x1800 ≤ a ∧ a < 0x2000 := by
  cases made with
  | false => exact ⟨by rw [show u = s from h]; exact hindex, by rw [show u = s from h]; exact sameBut_refl _ _⟩
  | true =>
    obtain ⟨hoffered, honly, -⟩ := h
    refine ⟨?_, sameBut_weaken honly fun a ⟨_, hlow, hhigh⟩ => ?_⟩
    · rcases recordOffered_index hoffered with heq | heq <;> omega
    · omega

/-! ## Sound beside the other blocks -/

/-- The blocks that a start of a clip reaches are those of `s`, the others those of `e`. -/
def soundOf (s e : State) : State := { e with xm := s.xm, port := s.port, status := s.status, sound := s.sound }

theorem stopVoice_soundOf (s e : State) (n : Nat) : (soundOf s e).stopVoice n = soundOf (s.stopVoice n) e := by
  unfold State.stopVoice
  simp only
  by_cases hheld : ((s.sound.voice n).sounds && decide ((s.sound.voice n).entry.kind = 2)) = true
  · have hheld' : (((soundOf s e).sound.voice n).sounds && decide (((soundOf s e).sound.voice n).entry.kind = 2))
        = true := hheld
    rw [if_pos hheld, if_pos hheld']
    rfl
  · have hheld' : ¬(((soundOf s e).sound.voice n).sounds && decide (((soundOf s e).sound.voice n).entry.kind = 2))
        = true := hheld
    rw [if_neg hheld, if_neg hheld']
    rfl

theorem startOrFault_soundOf (s e : State) (n clip : Nat) (use : ClipUse) (g : StartFields) :
    (soundOf s e).startOrFault n clip use g = soundOf (s.startOrFault n clip use g) e := by
  unfold State.startOrFault
  split
  · exact stopVoice_soundOf s e n
  · have hfull : segmentFull (soundOf (s.stopVoice n) e) clip false = segmentFull (s.stopVoice n) clip false := rfl
    have hxm : (soundOf (s.stopVoice n) e).xm = (s.stopVoice n).xm := rfl
    simp only [State.startVoice, stopVoice_soundOf, hxm, hfull]
    split
    · split
      · cases segmentFull (s.stopVoice n) clip false <;> rfl
      · rfl
    · rfl

/-- A clip that the part starts by itself, told beside the blocks it does not reach. -/
theorem trigger_soundOf (s e : State) (clip : Nat) (use : ClipUse) (g : StartFields) :
    (soundOf s e).trigger clip use g = soundOf (s.trigger clip use g) e := by
  have hrun : (soundOf s e).isRun = s.isRun := rfl
  have hsound : (soundOf s e).sound = s.sound := rfl
  unfold State.trigger
  rw [hrun, hsound]
  split
  · cases s.sound.allocate g.priority with
    | none => rfl
    | some n => exact startOrFault_soundOf s e n clip use g
  · rfl

/-! ## The parts of a beacon's work (R133) -/

/-- The change of the zone record that a beacon brings (R133, 1). -/
def zoneChanges (s : State) (f : Frame) : Bool :=
  if beaconFlag f 2 then s.radio.zone.present && decide (s.radio.zone.zone = param8 f.payload 0)
  else decide (param16 f.payload 3 ≠ 0xFFFF
    ∧ s.radio.zone ≠ { present := true, zone := param8 f.payload 0, cap := param16 f.payload 3 })

/-- The zone record as a beacon leaves it, before the record of it. -/
def zoneMade (s : State) (f : Frame) : State :=
  if beaconFlag f 2 then s.emptyZone
  else { s with radio := { s.radio with
    zone := { present := true, zone := param8 f.payload 0, cap := param16 f.payload 3 } } }

theorem beaconZone_eq (s : State) (f : Frame) : s.beaconZone f = if zoneChanges s f = true then
    (zoneMade s f).logBeacon (if beaconFlag f 2 then .zoneClear else .zoneIn) f else s := by
  unfold State.beaconZone zoneChanges zoneMade
  by_cases hclear : beaconFlag f 2 = true
  · simp only [if_pos hclear, Bool.and_eq_true, decide_eq_true_eq]
  · simp only [if_neg hclear, decide_eq_true_eq]
    by_cases hnone : param16 f.payload 3 = 0xFFFF
    · rw [if_pos hnone, if_neg (fun h => h.1 hnone)]
    · rw [if_neg hnone]
      by_cases hsame : s.radio.zone = { present := true, zone := param8 f.payload 0, cap := param16 f.payload 3 }
      · rw [if_pos hsame, if_neg (fun h => h.2 hsame)]
      · rw [if_neg hsame, if_pos ⟨hnone, hsame⟩]
        rfl

/-- A change of the zone record reaches it and the free values alone (log 8). -/
theorem zoneMade_eq (s : State) (f : Frame) : zoneMade s f = { s with
    free := (zoneMade s f).free, radio := { s.radio with zone := (zoneMade s f).radio.zone } } := by
  unfold zoneMade
  split
  · exact s.emptyZone_emptied.2
  · rfl

theorem zoneMade_clears {s : State} {f : Frame} (hclear : beaconFlag f 2 = true) (hchanges : zoneChanges s f = true) :
    (zoneMade s f).radio.zone.present = false ∧ (zoneMade s f).radio.zone.zone = 0 := by
  rw [zoneChanges, if_pos hclear, Bool.and_eq_true] at hchanges
  rw [zoneMade, if_pos hclear, State.emptyZone, if_pos hchanges.1]
  exact ⟨rfl, rfl⟩

/-- A station stop begins (R133, 2). -/
def stationBegins (s : State) (f : Frame) : Bool :=
  beaconFlag f 0 && decide (s.radio.station = .none) && !s.radio.passage.station

/-- The station stop as a beacon begins it, before the record of it (R134). -/
def stationMade (s : State) (f : Frame) : State :=
  { s with radio := { s.radio with
    station := if s.traction.state = .stopped then .dwell f (s.clock + dwellTime f) else .braking f
    passage := { s.radio.passage with station := true } } }

/-- The station stop's part, where the beacon's flag asks for it. -/
def withStation (s : State) (f : Frame) : State := if beaconFlag f 0 then s.beaconStation f else s

theorem beaconStation_eq (s : State) (f : Frame) : withStation s f
    = if stationBegins s f = true then (stationMade s f).logBeacon .stationStart f else s := by
  unfold withStation State.beaconStation stationBegins
  cases beaconFlag f 0 with
  | false => rfl
  | true =>
    simp only [Bool.true_and, Bool.and_eq_true, decide_eq_true_eq, Bool.not_eq_true', if_true]
    split <;> rfl

/-- The horn is to sound (R133, 3). -/
def hornSounds (s : State) (f : Frame) : Bool := beaconFlag f 1 && !s.radio.passage.horn

/-- The horn's mark set in the passage record. -/
def hornMade (s : State) : State :=
  { s with radio := { s.radio with passage := { s.radio.passage with horn := true } } }

/-- The horn's part, where the beacon's flag asks for it. -/
def withHorn (s : State) (f : Frame) : State := if beaconFlag f 1 then s.beaconHorn else s

theorem beaconHorn_eq (s : State) (f : Frame) : withHorn s f
    = if hornSounds s f = true then (hornMade s).playHorn else s := by
  unfold withHorn State.beaconHorn hornSounds
  cases beaconFlag f 1 with
  | false => rfl
  | true =>
    cases s.radio.passage.horn with
    | false => rfl
    | true => rfl

/-- The passage record as it meets a beacon, its sender heard. -/
def met (s : State) (f : Frame) : State :=
  { s with radio := { heard s.radio f s.clock with passage := s.radio.passage.meet (param8 f.payload 0) } }

theorem beaconAct_eq {s : State} {f : Frame} : beaconAct (heardFrom s f) f =
    if filterMatches (heardFrom s f) f = true then
      withHorn (withStation ((met s f).beaconZone f) f) f
    else heardFrom s f := by
  have hpassage : (heardFrom s f).radio.passage = s.radio.passage := by rw [heardFrom, heard_eq]
  have hmet : (heardFrom s f).onRadio (fun r => { r with passage := r.passage.meet (param8 f.payload 0) }) = met s f := by
    rw [State.onRadio, hpassage]
    rfl
  rw [beaconAct, hmet]
  rfl

/-- What a beacon reaches beside the receiver's side, `made` saying whether it made a record. -/
def beaconOnly (made : Bool) (s t : State) : Prop :=
  t = { s with
    free := t.free, xm := t.xm, lastGranted := if made = true then .radioWriter else s.lastGranted
    port := { s.port with notice := t.port.notice }
    status := { s.status with faultCount := t.status.faultCount }, sound := t.sound
    radio := { s.radio with
      zone := t.radio.zone, station := t.radio.station, passage := t.radio.passage
      logIndex := t.radio.logIndex, logSeq := t.radio.logSeq, overflow := t.radio.overflow } }

theorem beaconOnly_trans {made made' : Bool} {s t u : State} (h : beaconOnly made s t) (h' : beaconOnly made' t u) :
    beaconOnly (made || made') s u := by
  unfold beaconOnly at h h' ⊢
  have hgranted : u.lastGranted = if (made || made') = true then .radioWriter else s.lastGranted := by
    rw [h']
    cases made' with
    | true => simp
    | false =>
      simp only [Bool.or_false]
      rw [h]
      rfl
  rw [← hgranted]
  have hgranted' : u.lastGranted = if made' = true then .radioWriter else t.lastGranted := by
    conv_lhs => rw [h']
  rw [← hgranted'] at h'
  refine h'.trans ?_
  conv_lhs => rw [h]

theorem beaconOnly_refl (s : State) : beaconOnly false s s := rfl

/-- The zone record's part: the record of it, and what becomes of the zone record. -/
theorem zonePart (s : State) (f : Frame) : ∀ z, z = s.beaconZone f →
    z.radio.station = s.radio.station ∧ z.radio.passage = s.radio.passage ∧ z.clock = s.clock
      ∧ z.sound = s.sound ∧ z.status = s.status ∧ beaconOnly (zoneChanges s f) s z
      ∧ (zoneChanges s f = false → z = s) ∧ (zoneChanges s f = true →
        z.radio.zone = (zoneMade s f).radio.zone ∧ z.free = (zoneMade s f).free) := by
  intro z hz
  rw [beaconZone_eq] at hz
  cases hchanges : zoneChanges s f with
  | false =>
    rw [hchanges, if_neg (by decide)] at hz
    subst hz
    exact ⟨rfl, rfl, rfl, rfl, rfl, beaconOnly_refl _, fun _ => rfl, fun h => by cases h⟩
  | true =>
    rw [hchanges, if_pos rfl] at hz
    have hmade := zoneMade_eq s f
    generalize zoneMade s f = y at hz hmade
    have hlog := logBeacon_eq y (if beaconFlag f 2 = true then .zoneClear else .zoneIn) f
    rw [← hz] at hlog
    have hradio : y.radio = { s.radio with zone := y.radio.zone } := by rw [hmade]
    have hstation : z.radio.station = s.radio.station := by rw [hlog, hradio]
    have hpassage : z.radio.passage = s.radio.passage := by rw [hlog, hradio]
    have hsound : z.sound = s.sound := by rw [hlog, hmade]
    have hstatus : z.status = s.status := by rw [hlog, hmade]
    have hzone : z.radio.zone = y.radio.zone := by rw [hlog]
    have hfree : z.free = y.free := by rw [hlog]
    refine ⟨hstation, hpassage, by rw [hlog, hmade], hsound, hstatus, ?_, fun h => (by cases h), fun _ => ⟨hzone, hfree⟩⟩
    unfold beaconOnly
    rw [hzone, hfree, hstation, hpassage, hsound, hstatus]
    refine hlog.trans ?_
    conv_lhs => rw [hmade]
    rfl

/-- The station stop's part: the record of it, and what becomes of the station stop and its mark. -/
theorem stationPart (s : State) (f : Frame) :
    ∀ t, t = withStation s f →
      t.radio.zone = s.radio.zone ∧ t.free = s.free ∧ t.clock = s.clock ∧ t.sound = s.sound ∧ t.status = s.status
        ∧ beaconOnly (stationBegins s f) s t
        ∧ t.radio.station = (if stationBegins s f = false then s.radio.station
          else if s.traction.state = .stopped then .dwell f (s.clock + dwellTime f) else .braking f)
        ∧ t.radio.passage = { s.radio.passage with station := s.radio.passage.station || stationBegins s f } := by
  intro t ht
  rw [beaconStation_eq] at ht
  cases hbegins : stationBegins s f with
  | false =>
    rw [hbegins, if_neg (by decide)] at ht
    subst ht
    exact ⟨rfl, rfl, rfl, rfl, rfl, beaconOnly_refl _, rfl, by rw [Bool.or_false]⟩
  | true =>
    rw [hbegins, if_pos rfl] at ht
    have hlog := logBeacon_eq (stationMade s f) .stationStart f
    rw [← ht] at hlog
    have hstation : t.radio.station = (stationMade s f).radio.station := by rw [hlog]
    have hpassage : t.radio.passage = (stationMade s f).radio.passage := by rw [hlog]
    have hzone : t.radio.zone = s.radio.zone := by rw [hlog]; rfl
    have hfree : t.free = s.free := by rw [hlog]; rfl
    have hsound : t.sound = s.sound := by rw [hlog]; rfl
    have hstatus : t.status = s.status := by rw [hlog]; rfl
    refine ⟨hzone, hfree, by rw [hlog]; rfl, hsound, hstatus, ?_, hstation, ?_⟩
    · unfold beaconOnly
      rw [hstation, hpassage, hzone, hfree, hsound, hstatus]
      exact hlog
    · rw [hpassage, Bool.or_true]
      rfl

/-- The horn's part: the clip, on the memory and the notices that the records have left. -/
theorem hornPart {s : State} (hwf : s.xm.wf = true) (f : Frame) :
    ∀ t, t = withHorn s f →
      t.radio = { s.radio with passage := { s.radio.passage with horn := s.radio.passage.horn || hornSounds s f } }
        ∧ t.free = s.free ∧ t.clock = s.clock ∧ beaconOnly false s t
        ∧ (hornSounds s f = false → t.sound = s.sound ∧ t.status = s.status ∧ t.xm = s.xm ∧ t.port = s.port)
        ∧ (hornSounds s f = true → ∀ v : State, v.sound = s.sound → v.status = s.status → v.xm = s.xm →
          v.port = s.port → v.sets = s.sets → ∃ w, clipPlays v w v.soundSet.hornClip .horn 3 .event false
            ∧ t.sound = w.sound ∧ t.status = w.status ∧ t.xm = w.xm ∧ t.port = w.port)
        ∧ (voicesLawful s → sameBut s.xm t.xm inSegments) := by
  intro t ht
  rw [beaconHorn_eq] at ht
  cases hsounds : hornSounds s f with
  | false =>
    rw [hsounds, if_neg (by decide)] at ht
    subst ht
    exact ⟨by rw [Bool.or_false], rfl, rfl, beaconOnly_refl _, fun _ => ⟨rfl, rfl, rfl, rfl⟩, fun h => (by cases h),
      fun _ => sameBut_refl _ _⟩
  | true =>
    rw [hsounds, if_pos rfl] at ht
    obtain ⟨-, hkept, hnotices, hframe⟩ := soundOnly_trigger (s := hornMade s) hwf s.soundSet.hornClip (use := .horn)
      (eventFields 3) (by decide)
    have hplay : t = (hornMade s).trigger s.soundSet.hornClip .horn (eventFields 3) := ht
    rw [← hplay] at hkept hnotices hframe
    refine ⟨?_, by rw [hframe]; rfl, by rw [hframe]; rfl, ?_, fun h => (by cases h), fun _ v hsound hstatus hxm hport hsets => ?_,
      fun hvoices => (hkept hvoices).2⟩
    · rw [Bool.or_true, hframe]
      rfl
    · have hradio : t.radio = (hornMade s).radio := by rw [hframe]
      have hport : t.port = { s.port with notice := t.port.notice } := noticesOnly_port hnotices
      have hstatus : t.status = { s.status with faultCount := t.status.faultCount } := hnotices.2
      have hfree : t.free = s.free := by rw [hframe]; rfl
      unfold beaconOnly
      rw [hradio, hfree, ← hport, ← hstatus]
      exact hframe
    · have hsame : soundOf v (hornMade s) = hornMade s := by
        rw [soundOf, hsound, hstatus, hxm, hport]
        rfl
      have hplayed := trigger_is_played (s := v) (by rw [hxm]; exact hwf) v.soundSet.hornClip (use := .horn) 3 .event
        false (by decide)
      have hclip : v.soundSet.hornClip = s.soundSet.hornClip := by
        unfold State.soundSet
        rw [hsets]
      have hon := trigger_soundOf v (hornMade s) s.soundSet.hornClip .horn (eventFields 3)
      rw [hsame, ← hplay, ← hclip] at hon
      exact ⟨_, hplayed, by rw [hon]; rfl, by rw [hon]; rfl, by rw [hon]; rfl, by rw [hon]; rfl⟩

/-! ## The whole beacon -/

/-- The direction that the filter sees (R133; log 37). -/
theorem filterMatches_seen {s : State} {f : Frame} {seen : Direction}
    (hseen : seen = (if s.radio.consist.reversed = true ∧ s.radio.consist.number ≠ 0
      then (match s.traction.direction with
        | .forward => Direction.reverse
        | .reverse => Direction.forward) else s.traction.direction)) :
    filterMatches (heardFrom s f) f = if param8 f.payload 2 = 1 then decide (seen = .forward)
      else if param8 f.payload 2 = 2 then decide (seen = .reverse) else true := by
  have hconsist : (heardFrom s f).radio.consist = s.radio.consist := by rw [heardFrom, heard_eq]
  have hactual : (if (s.radio.consist.reversed && decide (s.radio.consist.number ≠ 0)) = true
      then s.traction.direction.flip else s.traction.direction) = seen := by
    rw [hseen]
    simp only [Bool.and_eq_true, decide_eq_true_eq]
    rfl
  have hdirection : (heardFrom s f).traction.direction = s.traction.direction := rfl
  unfold filterMatches
  simp only [hconsist, hdirection, hactual]
  generalize param8 f.payload 2 = filter
  rcases filter with _ | _ | _ | filter <;> simp

theorem beaconFrame_hand {s : State} {f : Frame} (hhand : frameInHand s f 5) (hlength : f.payload.length = 6)
    (hzone : 1 ≤ param8 f.payload 0) (hfilter : param8 f.payload 2 ≤ 2) :
    beaconFrame s = (beaconAct (heardFrom s f) f).frameDone := by
  obtain ⟨-, -, hsome, hkind⟩ := hhand
  exact handleFrame_eq hsome (by simp [ofKind, hkind]) (by simp [wellFormedPayload, hkind, hlength, hzone, hfilter])

/-- The passage record's marks, of a beacon's zone (R133). -/
theorem meet_eq (p : Passage) (zone : Nat) : p.meet zone = {
    zone := zone, horn := decide (p.zone = zone) && p.horn, station := decide (p.zone = zone) && p.station } := by
  unfold Passage.meet
  by_cases h : p.zone = zone
  · rw [if_pos h, decide_eq_true h, ← h]
    rfl
  · rw [if_neg h, decide_eq_false h]
    rfl

/-- The passage record, the zone record and the station stop as the parts find them. -/
theorem met_radio (s : State) (f : Frame) : (met s f).radio.zone = s.radio.zone
    ∧ (met s f).radio.station = s.radio.station
    ∧ (met s f).radio.passage = s.radio.passage.meet (param8 f.payload 0) ∧ logsAlike s (met s f) := by
  have hradio : (met s f).radio = { heard s.radio f s.clock with
    passage := s.radio.passage.meet (param8 f.payload 0) } := rfl
  refine ⟨by rw [hradio, heard_eq], by rw [hradio, heard_eq], rfl, rfl, rfl, rfl, ?_, ?_, ?_⟩ <;> simp [hradio]

/-- A beacon that the direction filter lets through: its parts, one after the other (R133). -/
theorem beaconAct_matched {s : State} {f : Frame} (hwf : s.xm.wf = true) (hindex : s.radio.logIndex < 64)
    {changed begins sounds : Bool} (hchanged : zoneChanges (met s f) f = changed)
    (hbegins : stationBegins (met s f) f = begins) (hsounds : hornSounds (met s f) f = sounds) :
    ∀ e, e = withHorn (withStation ((met s f).beaconZone f) f) f →
      (changed = false → e.radio.zone = s.radio.zone ∧ e.free = s.free)
      ∧ (changed = true → e.radio.zone = (zoneMade (met s f) f).radio.zone ∧ e.free = (zoneMade (met s f) f).free)
      ∧ e.radio.station = (if begins = false then s.radio.station
          else if s.traction.state = .stopped then .dwell f (s.clock + dwellTime f) else .braking f)
      ∧ e.radio.passage = {
          zone := param8 f.payload 0, horn := (met s f).radio.passage.horn || sounds
          station := (met s f).radio.passage.station || begins }
      ∧ (∃ u v : State,
          recordedIf changed s u .beacon (if beaconFlag f 2 then .zoneClear else .zoneIn) f [.beacon]
          ∧ recordedIf begins u v .beacon .stationStart f [.beacon]
          ∧ e.radio.logIndex = v.radio.logIndex ∧ e.radio.logSeq = v.radio.logSeq
          ∧ e.radio.overflow = v.radio.overflow
          ∧ (sounds = false → e.sound = s.sound ∧ e.status = s.status ∧ e.xm = v.xm ∧ e.port = v.port)
          ∧ (sounds = true → ∃ w, clipPlays v w s.soundSet.hornClip .horn 3 .event false
              ∧ e.sound = w.sound ∧ e.status = w.status ∧ e.xm = w.xm ∧ e.port = w.port))
      ∧ (voicesLawful s → sameBut s.xm e.xm fun a => (0x1800 ≤ a ∧ a < 0x2000) ∨ inSegments a)
      ∧ e.clock = s.clock ∧ beaconOnly (changed || begins) (met s f) e := by
  intro e he
  obtain ⟨hzone, hstation, hpassage, halike⟩ := met_radio s f
  have hmade : logsAlike s (zoneMade (met s f) f) := by
    rw [zoneMade_eq]
    exact halike
  obtain ⟨hzstation, hzpassage, hzclock, hzsound, hzstatus, hzonly, hzsame, hzchanged⟩ := zonePart (met s f) f _ rfl
  have hzrecord := recordedIf_logBeacon hmade halike hwf hindex _ _ f (beaconZone_eq (met s f) f)
  rw [hchanged] at hzonly hzsame hzchanged hzrecord
  have hzwf : ((met s f).beaconZone f).xm.wf = true := State.beaconZone_wf _ f hwf
  have hztraction : ((met s f).beaconZone f).traction = s.traction := by rw [hzonly]; rfl
  have hzsets : ((met s f).beaconZone f).sets = s.sets := by rw [hzonly]; rfl
  generalize (met s f).beaconZone f = z at *
  obtain ⟨huindex, husame⟩ := recordedIf_log hzrecord hindex
  have hubegins : stationBegins z f = begins := by
    rw [← hbegins, stationBegins, stationBegins, hzstation, hzpassage]
  obtain ⟨hyzone, hyfree, hyclock, hysound, hystatus, hyonly, hystation, hypassage⟩ := stationPart z f _ rfl
  have hualike : logsAlike (recorded s z) z := logsAlike_recorded hzclock
  have hyrecord := recordedIf_logBeacon (s := recorded s z) (e := stationMade z f) hualike hualike hzwf huindex _ _ f
    (beaconStation_eq z f)
  rw [hubegins] at hyonly hystation hypassage hyrecord
  have hywf : (withStation z f).xm.wf = true := by
    unfold withStation
    split
    · exact State.beaconStation_wf z f hzwf
    · exact hzwf
  generalize withStation z f = y at *
  obtain ⟨hvindex, hvsame⟩ := recordedIf_log hyrecord huindex
  have hvsounds : hornSounds y f = sounds := by
    rw [← hsounds, hornSounds, hornSounds, hypassage, hzpassage]
  obtain ⟨hradio, hfree, hclock, honly, hsilent, hplays, hsame⟩ := hornPart hywf f e he
  rw [hvsounds] at hradio hsilent hplays
  have hsound : y.sound = s.sound := hysound.trans hzsound
  have hstatus : y.status = s.status := hystatus.trans hzstatus
  refine ⟨fun hno => ?_, fun hyes => ?_, ?_, ?_, ⟨recorded s z, recorded (recorded s z) y, hzrecord, hyrecord, ?_, ?_, ?_,
    fun hno => ?_, fun hyes => ?_⟩, fun hvoices => ?_, ?_, ?_⟩
  · rw [hradio, hfree, hyzone, hyfree, hzsame hno, hzone]
    exact ⟨rfl, rfl⟩
  · rw [hradio, hfree, hyzone, hyfree]
    exact hzchanged hyes
  · rw [hradio, hystation, hzstation, hztraction, hzclock, hstation]
    rfl
  · rw [hradio, hypassage, hzpassage, hpassage, meet_eq]
  · rw [hradio]; rfl
  · rw [hradio]; rfl
  · rw [hradio]; rfl
  · obtain ⟨hsound', hstatus', hxm', hport'⟩ := hsilent hno
    exact ⟨hsound'.trans hsound, hstatus'.trans hstatus, hxm', hport'⟩
  · exact hplays hyes (recorded (recorded s z) y) hsound.symm hstatus.symm rfl rfl (by
      have hysets : y.sets = z.sets := by rw [hyonly]
      rw [hysets, hzsets]
      rfl)
  · have hyvoices : voicesLawful y := by
      unfold voicesLawful
      rw [hsound]
      exact hvoices
    refine sameBut_trans (sameBut_weaken (sameBut_trans husame hvsame) fun a => .inl) ?_
    exact sameBut_weaken (hsame hyvoices) fun a => .inr
  · rw [hclock, hyclock, hzclock]
    rfl
  · have hall := beaconOnly_trans (beaconOnly_trans hzonly hyonly) honly
    rwa [Bool.or_false] at hall

/-- Settles O45, by the direction filter and then by the parts of a beacon in turn. -/
theorem beaconFramesActByTheirFlags : Obligations.BeaconFramesActByTheirFlags := by
  rintro s f hhand p rfl seen hseen
  obtain ⟨hwf, hindex, hsome, hkind⟩ := id hhand
  have hmatches := filterMatches_seen (f := f) hseen
  refine ⟨fun hbad => ⟨_, rfl, logged_of_eq hhand (handleFrame_malformed hsome (by simp [ofKind, hkind]) ?_)⟩,
    fun hlength hzone => ⟨fun hother => ⟨_, rfl, ?_⟩, fun hmatch => ?_⟩⟩
  · simp only [wellFormedPayload, hkind, Bool.and_eq_false_iff, decide_eq_false_iff_not]
    omega
  · have hno : filterMatches (heardFrom s f) f = false := by
      rw [hmatches]
      rcases hother with ⟨hone, hseen⟩ | ⟨htwo, hseen⟩
      · simp [hone, hseen]
      · simp [htwo, hseen]
    have hframe : beaconFrame s = (heardFrom s f).frameDone := by
      rw [beaconFrame_hand hhand hlength hzone (by omega), beaconAct_eq, hno]
      rfl
    rw [hframe]
    obtain ⟨hwaiting, hrepeats, hindex', hseq', hoverflow'⟩ := heardFrom_receiver s f
    obtain ⟨hended, -, -⟩ := frameDone_ends (heardFrom s f)
    obtain ⟨hbeside, hindex, hseq, hoverflow⟩ := frameDone_beside (heardFrom s f)
    generalize (heardFrom s f).frameDone = t at *
    refine ⟨frameEnded_of_receiver_eq hwaiting hrepeats rfl hended, ?_⟩
    rw [hindex'] at hindex
    rw [hseq'] at hseq
    rw [hoverflow'] at hoverflow
    refine hbeside.trans ?_
    unfold besideFrames
    rw [hindex, hseq, hoverflow]
    rfl
  · have hyes : filterMatches (heardFrom s f) f = true := by
      rw [hmatches]
      rcases hmatch with hzero | ⟨hone, hseen⟩ | ⟨htwo, hseen⟩
      · simp [hzero]
      · simp [hone, hseen]
      · simp [htwo, hseen]
    rintro served rfl sounded rfl changed hchanged begins hbegins
    have hframe := beaconFrame_hand hhand hlength hzone (by omega)
    rw [beaconAct_eq, hyes] at hframe
    obtain ⟨hzone, hstation, hpassage, -⟩ := met_radio s f
    have hchanges : zoneChanges (met s f) f = changed := by
      rw [hchanged, zoneChanges, hzone]
      rfl
    have hstarts : stationBegins (met s f) f = begins := by
      rw [hbegins, stationBegins, hstation, hpassage, meet_eq]
      rfl
    obtain ⟨hkept, hmade, hstation', hpassage', ⟨u, v, hu, hv, hindex', hseq', hoverflow', hsilent, hplays⟩, hsame, hclock, honly⟩ :=
      beaconAct_matched hwf hindex hchanges hstarts rfl _ rfl
    rw [if_pos rfl] at hframe
    rw [hpassage, meet_eq] at hpassage'
    have hsounds : hornSounds (met s f) f
        = ((param8 f.payload 1).testBit 1 && !(decide (s.radio.passage.zone = param8 f.payload 0) && s.radio.passage.horn)) := by
      rw [hornSounds, hpassage, meet_eq]
      rfl
    have hdwell : dwellTime f = 1024000 * (1000 * max 1 (param8 f.payload 5)) := Nat.mul_comm _ _
    rw [hsounds] at hpassage' hsilent hplays
    rw [hdwell] at hstation'
    generalize withHorn (withStation ((met s f).beaconZone f) f) f = e at *
    obtain ⟨hended, -, -⟩ := frameDone_ends e
    obtain ⟨hbeside, hindex, hseq, hoverflow⟩ := frameDone_beside e
    rw [← hframe] at hended hbeside hindex hseq hoverflow
    refine ⟨_, rfl, ?_⟩
    generalize beaconFrame s = t at *
    have hradio : t.radio = besideFrames e.radio t.radio := by
      conv_lhs => rw [hbeside]
    have hxm : t.xm = e.xm := by rw [hbeside]
    have hport : t.port = e.port := by rw [hbeside]
    have hstatus : t.status = e.status := by rw [hbeside]
    have hsound : t.sound = e.sound := by rw [hbeside]
    have hfree : t.free = e.free := by rw [hbeside]
    have hzone' : t.radio.zone = e.radio.zone := by rw [hradio]; rfl
    have hstation'' : t.radio.station = e.radio.station := by rw [hradio]; rfl
    have hpassage'' : t.radio.passage = e.radio.passage := by rw [hradio]; rfl
    rw [hxm, hstatus, hsound, hport, hfree, hzone', hstation'', hpassage'', hindex, hseq, hoverflow]
    refine ⟨frameEnded_of_receiver_eq ?_ ?_ hclock hended, hkept, fun hyes hclear => ?_, fun hyes hfills => ?_, hstation', ?_,
      ⟨u, v, hu, hv, hindex', hseq', hoverflow', fun hno => ?_, fun hflag hnew _ => ?_⟩, hsame, ?_⟩
    · rw [honly]
      exact (heardFrom_receiver s f).1
    · rw [honly]
      exact (heardFrom_receiver s f).2.1
    · rw [(hmade hyes).1]
      exact zoneMade_clears hclear (hchanges.trans hyes)
    · obtain ⟨hzone, hfree⟩ := hmade hyes
      have hfill : ¬beaconFlag f 2 = true := by simp [beaconFlag, hfills]
      rw [zoneMade, if_neg hfill] at hzone hfree
      exact ⟨hzone, hfree⟩
    · rw [hpassage']
      cases (decide (s.radio.passage.zone = param8 f.payload 0) && s.radio.passage.horn) <;> simp
    · refine hsilent ?_
      rcases hno with hflag | hold
      · rw [hflag, Bool.false_and]
      · rw [hold, Bool.not_true, Bool.and_false]
    · exact hplays (by rw [hflag, hnew]; rfl)
    · refine hbeside.trans ?_
      conv_lhs => rw [honly]
      unfold besideFrames
      rw [hindex, hseq, hoverflow]
      rfl

end Sys2Proof.Beacons
end

section
/-! PROOFS. The receiver and its repeat table (R115 to R119), and the timers of the radio command unit (R119, R123, R134). -/

namespace Sys2Proof.Receiving

open Sys2Proof Sys2Proof.Machine Sys2Proof.Safety Sys2Proof.Notices Sys2Proof.EmergencyStops Sys2Proof.Beacons
  Sys2Proof.Requests

/-! ## The format of a frame (R117) -/

theorem crcBit_eq (r : Half) (b : Bool) : crcBit r b = checkBit r b := by
  unfold crcBit checkBit
  cases b <;> cases r.getLsbD 15 <;> rfl

theorem crcByte_eq (r : Half) (b : Byte) : crcByte r b = (bitsOf b).foldl checkBit r := by
  have hbit : (fun acc k => crcBit acc (b.getLsbD k)) = fun acc k => checkBit acc (b.getLsbD k) := by
    funext acc k
    exact crcBit_eq acc _
  rw [crcByte, hbit, bitsOf, List.foldl_map]

theorem crc_eq (bytes : List Byte) : crc bytes = checkValue bytes := by
  have hbyte : crcByte = fun r b => (bitsOf b).foldl checkBit r := by
    funext r b
    exact crcByte_eq r b
  rw [crc, checkValue, List.foldl_flatMap, hbyte]

theorem parseFrame_read (bytes : List Byte) : frameRead bytes (parseFrame bytes) (carriedCrc bytes) := by
  intro x hx
  have hbyte : ∀ k, param8 bytes k = x k := fun k => (hx k).symm
  refine ⟨?_, fun hlong => ?_⟩
  · simp only [parseFrame, param16, hbyte, List.drop_take, Nat.sub_sub]
  · have hlast : bytes.length - 2 + 1 = bytes.length - 1 := by omega
    simp only [carriedCrc, param16, hbyte, hlast]

/-! ## The repeat table (R119) -/

/-- With no sender twice, the entry of a sender is the one that stands for it. -/
theorem repeatEntry_of_mem {table : List RepeatEntry} (hnodup : (table.map RepeatEntry.sender).Nodup) {e : RepeatEntry}
    (he : e ∈ table) : repeatEntry table e.sender = some e := by
  unfold repeatEntry
  cases hfind : table.find? fun x => decide (x.sender = e.sender) with
  | none => exact absurd rfl (of_decide_eq_false (Bool.eq_false_iff.2 (List.find?_eq_none.1 hfind e he)))
  | some x =>
    have hsender : x.sender = e.sender := by simpa using List.find?_some hfind
    rw [List.inj_on_of_nodup_map hnodup (List.mem_of_find?_eq_some hfind) he hsender]

theorem isRepeat_iff {table : List RepeatEntry} (f : Frame) (hnodup : (table.map RepeatEntry.sender).Nodup) :
    isRepeat table f = true ↔ ∃ e ∈ table, e.sender = f.sender ∧ e.seq = f.seq ∧ e.stale = false := by
  simp only [isRepeat, Option.any_eq_true, Bool.and_eq_true, decide_eq_true_eq, Bool.not_eq_true']
  constructor
  · rintro ⟨e, hentry, hseq, hfresh⟩
    unfold repeatEntry at hentry
    exact ⟨e, List.mem_of_find?_eq_some hentry, by simpa using List.find?_some hentry, hseq, hfresh⟩
  · rintro ⟨e, he, hsender, hseq, hfresh⟩
    exact ⟨e, hsender ▸ repeatEntry_of_mem hnodup he, hseq, hfresh⟩

/-! ## Bytes (R115, R116) -/

/-- The receiver in a new state. -/
theorem receive_eq (s : State) (r : Receiver) : s.receive r = { s with radio := { s.radio with
    receiver := r, gap := if r = .hunt then none else some (s.clock + 5 * 1024000) } } := rfl

/-- The byte that gives a frame's length. -/
theorem takeByte_length {s : State} (hstate : s.radio.receiver = .length) (byte : Byte) : s.takeByte byte =
    if 9 ≤ byte.toNat ∧ byte.toNat ≤ 28 then s.receive (.body byte.toNat []) else s.receive .hunt := by
  unfold State.takeByte
  rw [hstate]

/-- The byte that completes a frame. -/
theorem takeByte_last {s : State} {len : Nat} {bytes : List Byte} (hbody : s.radio.receiver = .body len bytes)
    (byte : Byte) (hlast : bytes.length + 1 = len) :
    s.takeByte byte = (s.receive .hunt).frameComplete (bytes ++ [byte]) := by
  unfold State.takeByte
  rw [hbody]
  exact if_pos (by simp [hlast])

/-- Settles O38, by the format of a frame, the repeat table, and the state of the receiver. -/
theorem receiverTakesBytesAndChecksFrames : Obligations.ReceiverTakesBytesAndChecksFrames := by
  refine ⟨fun bytes => ⟨crc_eq bytes, parseFrame_read bytes⟩, fun table f hnodup => isRepeat_iff f hnodup,
    fun s byte stop => ⟨fun hquiet => ?_, fun hrun hbad => ?_, fun hrun hgood hstate => ?_, fun hrun hgood hstate => ?_,
      fun len bytes hstate hrun hgood => ⟨fun hmore => ?_, fun hlast hbusy => ?_, fun hlast hfree whole hwhole => ?_⟩⟩,
    fun s due hdue => ?_⟩
  · exact congrArg Host.Outcome.next (by rw [rxdByte, hquiet]; rfl)
  · exact congrArg Host.Outcome.next (by rw [rxdByte, hrun, hbad]; rfl)
  · refine congrArg Host.Outcome.next ?_
    rw [rxdByte, hrun, hgood]
    simp only [if_true]
    rw [State.takeByte, hstate]
    rfl
  · refine congrArg Host.Outcome.next ?_
    rw [rxdByte, hrun, hgood]
    simp only [if_true]
    rw [takeByte_length hstate]
    split <;> rfl
  · refine congrArg Host.Outcome.next ?_
    rw [rxdByte, hrun, hgood]
    simp only [if_true]
    rw [State.takeByte, hstate]
    exact if_neg (by simp; omega)
  · refine congrArg Host.Outcome.next ?_
    rw [rxdByte, hrun, hgood]
    simp only [if_true]
    rw [takeByte_last hstate byte hlast, State.frameComplete]
    exact if_neg hbusy
  · refine congrArg Host.Outcome.next ?_
    subst hwhole
    rw [rxdByte, hrun, hgood]
    simp only [if_true]
    rw [takeByte_last hstate byte hlast, State.frameComplete]
    have hnone : (s.receive .hunt).radio.handling = none := hfree
    have haccepted : frameAccepted (s.receive .hunt).radio (bytes ++ [byte]) = frameAccepted s.radio (bytes ++ [byte]) := rfl
    rw [if_pos hnone, State.checkFrame_eq, haccepted]
    split <;> rfl
  · refine congrArg Host.Outcome.next ?_
    rw [gapTimerExpiry, hdue]
    rfl

/-! ## The timers -/

/-- The entries of a table once the one of a sender is stale. -/
theorem staleEntry_eq {table : List RepeatEntry} (hnodup : (table.map RepeatEntry.sender).Nodup) {e : RepeatEntry}
    (he : e ∈ table) : table.map (staleEntry e.sender)
      = table.map fun x => if x = e then { e with stale := true, window := none } else x := by
  refine List.map_congr_left fun x hx => ?_
  unfold staleEntry
  by_cases hsender : x.sender = e.sender
  · have heq := List.inj_on_of_nodup_map hnodup hx he hsender
    rw [if_pos hsender, if_pos heq, heq]
  · rw [if_neg hsender, if_neg fun heq => hsender (by rw [heq])]

/-- Settles O39, timer by timer. -/
theorem radioTimersExpire : Obligations.RadioTimersExpire := by
  refine ⟨?_, fun s sender cls last hlease => ⟨fun hclear => ?_, fun hlatch => ?_, fun hlatch hwf hvoices => ⟨_, rfl, ?_⟩⟩,
    fun s f ends hstation hwf hindex => ⟨_, rfl, ?_⟩⟩
  · rintro s sender e due ⟨-, hnodup⟩ he hsender hwindow
    refine congrArg Host.Outcome.next ?_
    have hentry : (repeatEntry s.radio.repeats sender.toNat).bind RepeatEntry.window = some due := by
      rw [← hsender, repeatEntry_of_mem hnodup he]
      exact hwindow
    rw [repeatWindowExpiry, hentry, ← hsender, ← staleEntry_eq hnodup he]
    rfl
  · refine congrArg Host.Outcome.next ?_
    rw [failsafeExpiry, hlease]
    simp only [hclear, Bool.false_eq_true, if_false, ms, Nat.mul_comm]
    rfl
  · refine congrArg Host.Outcome.next ?_
    rw [lapseExpiry, hlease]
    simp only [ms, Nat.mul_comm _ 1024000]
    exact releaseLease_unlatched hlatch
  · rw [lapseExpiry, hlease]
    simp only [ms, Nat.mul_comm _ 1024000]
    have hreached : (s.reach (last + 1024000 * s.radio.cfg.leaseMs)).traction.latch = true := hlatch
    rw [releaseLease_latched hreached]
    exact State.derive_afresh _ hwf hvoices
  · have hexpiry : dwellTimerExpiry s
        = ({ s with clock := max s.clock ends, radio := { s.radio with station := .none } } : State).logBeacon
          .stationEnd f := by
      rw [dwellTimerExpiry, hstation]
      rfl
    have hrecorded := logBeacon_recorded
      (s := { s with clock := max s.clock ends, radio := { s.radio with station := .none } }) hwf .stationEnd f
    have honly := logBeacon_only
      (s := { s with clock := max s.clock ends, radio := { s.radio with station := .none } }) hwf hindex .stationEnd f
    have hframe := logBeacon_eq { s with clock := max s.clock ends, radio := { s.radio with station := .none } }
      .stationEnd f
    rw [← hexpiry] at hrecorded honly hframe
    have hclock : (dwellTimerExpiry s).clock = max s.clock ends := by rw [hframe]
    rw [hclock]
    exact ⟨hrecorded, honly, hframe⟩

end Sys2Proof.Receiving
end

section
/-! PROOFS. What a load makes of the bytes of a table (R4): clip entries, lamp entries, drive sets and the anchor block,
field by field with their clamps, and a load of which no word has been read yet. -/

namespace Sys2Proof.Loads

open Sys2Proof Sys2Proof.Machine Sys2Proof.Safety

/-! ## Codes -/

theorem byte_eq_iff (b : Byte) {k : Nat} (hk : k < 256) : b = BitVec.ofNat 8 k ↔ b.toNat = k :=
  ⟨fun h => by rw [h, BitVec.toNat_ofNat, Nat.mod_eq_of_lt hk],
    fun h => BitVec.eq_of_toNat_eq (by rw [h, BitVec.toNat_ofNat, Nat.mod_eq_of_lt hk])⟩

section Codes

variable {α : Type} (x : Nat) (a b c d e f : α)

theorem code2_eq : (match x with | 1 => a | 2 => b | _ => c) = if x = 1 then a else if x = 2 then b else c := by
  rcases x with _ | _ | _ | x <;> simp

theorem code3_eq : (match x with | 1 => a | 2 => b | 3 => c | _ => d)
    = if x = 1 then a else if x = 2 then b else if x = 3 then c else d := by
  rcases x with _ | _ | _ | _ | x <;> simp

theorem code5_eq : (match x with | 1 => a | 2 => b | 3 => c | 4 => d | 5 => e | _ => f)
    = if x = 1 then a else if x = 2 then b else if x = 3 then c else if x = 4 then d else if x = 5 then e else f := by
  rcases x with _ | _ | _ | _ | _ | _ | x <;> simp

end Codes

/-! ## Clip entries (R138, R139) -/

theorem loadClip_read (m : Memory) (x : Nat) : clipRead m x (loadClip m x) (loadClip m x).valid := by
  rintro b rfl size hsize
  obtain rfl : size = (loadClip m x).size := hsize
  refine ⟨rfl, ?_⟩
  simp only [ClipEntry.valid, Bool.and_eq_true, Bool.or_eq_true, decide_eq_true_eq, and_assoc, ne_eq, imp_iff_not_or]

/-! ## Lamp entries (R161) -/

theorem loadLamp_read (m : Memory) (n : Nat) : lampRead m n (loadLamp m n) (lampClamped m n) := by
  rintro b rfl f hf
  obtain rfl : f = field8 m (0x1200 + 32 * n) := funext hf
  refine ⟨rfl, rfl, rfl, code2_eq _ _ _ _, rfl, code5_eq _ _ _ _ _ _ _, rfl, rfl, rfl, rfl, rfl, rfl,
    code3_eq _ _ _ _ _, code2_eq _ _ _ _, ?_⟩
  simp only [lampClamped, Bool.or_eq_true, decide_eq_true_eq, or_assoc]
  rfl

/-! ## Drive sets (R27 to R31) -/

theorem loadTractionSet_read (m : Memory) (b : Nat) : loadTractionSet m b = {
    curve := [field16 m b 0x02, field16 m b 0x04, field16 m b 0x06, field16 m b 0x08, field16 m b 0x0A,
      field16 m b 0x0C, field16 m b 0x0E, field16 m b 0x10]
    maxRate := field16 m b 0x12, accel := field16 m b 0x14, decel := field16 m b 0x16, kp := field8 m b 0x18
    ki := field8 m b 0x19, dutyCap := min 1023 (field16 m b 0x1A), gain := field16 m b 0x1C
    stopMode := if field8 m b 0x1E = 1 then .coast else .brake
    freewheel := if field8 m b 0x1F = 1 then .fast else .slow
    lock := if field8 m b 0x20 = 1 then .forwardOnly else if field8 m b 0x20 = 2 then .reverseOnly else .both
    entryThrottle := if field8 m b 0x21 = 255 then none else some (field8 m b 0x21) } := by
  have hlock : (loadTractionSet m b).lock = if field8 m b 0x20 = 1 then .forwardOnly
      else if field8 m b 0x20 = 2 then .reverseOnly else .both := code2_eq _ _ _ _
  rw [← hlock]
  rfl

/-- Whether a value lies outside its clamp. -/
theorem clampNat_ne {lo hi n : Nat} (h : lo ≤ hi) : n ≠ clampNat lo hi n ↔ n < lo ∨ hi < n := by
  unfold clampNat
  omega

theorem driveSetClamped_iff (m : Memory) (b : Nat) : driveSetClamped m b = true ↔
    2 < field8 m b 1 ∨ 1023 < field16 m b 0x1A ∨ 1 < field8 m b 0x1E ∨ 1 < field8 m b 0x1F ∨ 2 < field8 m b 0x20
      ∨ field8 m b 0x23 ≠ chuffCount m b ∨ 4095 < field16 m b 0x26 ∨ 8 < field8 m b 0x2C ∨ 1023 < field16 m b 0x38
      ∨ field8 m b 0x3C ≠ triggerCount m b ∨ (∃ k, k < triggerCount m b ∧ 1 < field8 m b (0x3F + 3 * k))
      ∨ 1023 < field16 m b 0x5A ∨ 1023 < field16 m b 0x5C ∨ 1023 < field16 m b 0x5E ∨ 1023 < field16 m b 0x60
      ∨ 1023 < field16 m b 0x62 ∨ 1023 < field16 m b 0x64 ∨ field8 m b 0x66 < 10 ∨ 200 < field8 m b 0x66
      ∨ 30 < field8 m b 0x67 := by
  have hchuffs : field8 m b 0x23 ≠ chuffCount m b ↔ field8 m b 0x23 = 0 ∨ 4 < field8 m b 0x23 := by
    rw [chuffCount, clampNat_ne (by decide)]
    omega
  have htriggers : field8 m b 0x3C ≠ triggerCount m b ↔ 8 < field8 m b 0x3C := by
    unfold triggerCount
    omega
  rw [hchuffs, htriggers]
  simp only [driveSetClamped, Bool.or_eq_true, decide_eq_true_eq, List.any_eq_true, List.mem_range, List.any_cons,
    List.any_nil, or_assoc, Bool.false_eq_true, or_false]

theorem loadDriveSet_read (m : Memory) (b : Nat) : driveSetRead m b (loadDriveSet m b) (driveSetClamped m b) := by
  rintro f hf g hg chuffs rfl triggers rfl
  obtain rfl : f = field8 m b := funext hf
  obtain rfl : g = field16 m b := funext hg
  exact ⟨rfl, rfl, loadTractionSet_read m b, rfl, rfl, driveSetClamped_iff m b⟩

/-! ## The anchor block (R46, R85, R185) -/

theorem readByte_code2 {α : Type} (b : Byte) (x y z : α) : (match b.toNat with | 1 => x | 2 => y | _ => z)
    = if b = 1 then x else if b = 2 then y else z := by
  rw [code2_eq]
  simp only [← byte_eq_iff b (k := 1) (by decide), ← byte_eq_iff b (k := 2) (by decide)]
  rfl

theorem readByte_code3 {α : Type} (b : Byte) (w x y z : α) :
    (match b.toNat with | 1 => w | 2 => x | 3 => y | _ => z)
      = if b = 1 then w else if b = 2 then x else if b = 3 then y else z := by
  rw [code3_eq]
  simp only [← byte_eq_iff b (k := 1) (by decide), ← byte_eq_iff b (k := 2) (by decide),
    ← byte_eq_iff b (k := 3) (by decide)]
  rfl

theorem loadMotionConfig_read (m : Memory) : motionRead m (loadMotionConfig m) :=
  ⟨readByte_code2 _ _ _ _, rfl, rfl⟩

theorem loadBridgeConfig_read (m : Memory) : bridgeRead m (loadBridgeConfig m) := by
  refine ⟨?_, readByte_code3 _ _ _ _ _, rfl, rfl, readByte_code3 _ _ _ _ _, readByte_code3 _ _ _ _ _, ?_⟩
  · exact if_congr (byte_eq_iff _ (k := 1) (by decide)).symm rfl rfl
  · exact if_congr (byte_eq_iff _ (k := 0) (by decide)).symm rfl rfl

theorem loadSupplyConfig_read (m : Memory) : supplyRead m (loadSupplyConfig m) :=
  ⟨rfl, rfl, rfl, rfl, rfl, rfl, rfl⟩

/-! ## Loads of which nothing is read yet (R4) -/

/-- An order whose load has not begun reads its words from memory as it stands. -/
theorem orderImage_of_word {s : State} {o : TakenOrder} (hnone : o.load = none) {w a : Nat} (hw : w ∈ orderWords o)
    (ha : a = w ∨ a = w + 1) : (orderImage s o).read a = s.xm.read a := by
  have hload : o.loading = { base := 0, todo := orderWords o, image := [] } := by
    rw [TakenOrder.loading, hnone]
    rfl
  rw [orderImage, hload, TableLoad.read_readAll _ _ _ (by rfl), if_pos ⟨w, hw, ha.imp (by rintro rfl; rfl) (by rintro rfl; rfl)⟩]

theorem mem_wordsFrom {base n w : Nat} : w ∈ wordsFrom base n ↔ ∃ k, k < n ∧ base + 2 * k = w := by
  simp [wordsFrom]

end Sys2Proof.Loads
end

section
/-! PROOFS. LOAD_RADIO (R113, R114, R123): the copy of the radio block, and the failsafe and lapse points that it moves
into the past. -/

namespace Sys2Proof.RadioBlock

open Sys2Proof Sys2Proof.Machine Sys2Proof.Safety Sys2Proof.Notices Sys2Proof.Requests Sys2Proof.ControlFrames
  Sys2Proof.Loads

/-! ## The copy -/

/-- R113. -/
theorem loadRadioConfig_read (m : Memory) : radioRead m (loadRadioConfig m) (loadConsist m) := by
  refine ⟨rfl, rfl, readByte_code2 _ _ _ _, ?_, rfl, ?_, rfl, rfl⟩
  · exact decide_eq_decide.2 (byte_eq_iff _ (k := 1) (by decide)).symm
  · exact congrArg (fun n => max _ (n * 1000)) (if_congr (byte_eq_iff _ (k := 0) (by decide)).symm rfl rfl)

/-- Whether a load answers ADJUSTED (R114). -/
theorem radioAdjusted_iff (m : Memory) : radioAdjusted m = true ↔
    (wordAt m 0x1380 = 0 ∨ 9999 < wordAt m 0x1380) ∨ 127 < (m.read 0x1382).toNat ∨ 2 < (m.read 0x1383).toNat
      ∨ 1 < (m.read 0x1384).toNat ∨ (loadRadioConfig m).failsafeMs ≠ wordAt m 0x1386
      ∨ (loadRadioConfig m).leaseMs ≠ (m.read 0x1388).toNat * 1000 := by
  unfold radioAdjusted
  simp only [Bool.or_eq_true, decide_eq_true_eq, or_assoc]
  rfl

/-- A load of which no word has been read yet gives the block as it stands (R4). -/
theorem orderImage_fresh {s : State} {o : TakenOrder} (hkind : o.kind = 7) (hnone : o.load = none) {a : Nat}
    (hlow : 0x1380 ≤ a) (hhigh : a < 0x138E) : (orderImage s o).read a = s.xm.read a := by
  have hwords : orderWords o = wordsFrom 0x1380 7 := by
    rw [orderWords, if_neg (by omega), if_pos hkind]
    rfl
  refine orderImage_of_word hnone (w := 0x1380 + 2 * ((a - 0x1380) / 2)) ?_ (by omega)
  rw [hwords]
  exact mem_wordsFrom.2 ⟨(a - 0x1380) / 2, by omega, rfl⟩

/-! ## Points in the past (R123) -/

/-- The failsafe flag at its point (R123). -/
def flagged (s : State) (due : Nat) : State :=
  { s with radio := { s.radio with failsafe := s.radio.failsafe || decide (due ≤ s.clock) } }

theorem overduePoints_radio {s : State} {sender cls heard : Nat} (hlease : s.radio.lease = .radio sender cls heard) :
    s.overduePoints = if heard + 1024000 * s.radio.cfg.leaseMs ≤ s.clock
      then (flagged s (heard + 1024000 * s.radio.cfg.failsafeMs)).releaseLease
      else flagged s (heard + 1024000 * s.radio.cfg.failsafeMs) := by
  have hflag : (if heard + 1024000 * s.radio.cfg.failsafeMs ≤ s.clock
      then s.onRadio (fun r => { r with failsafe := true }) else s)
      = flagged s (heard + 1024000 * s.radio.cfg.failsafeMs) := by
    unfold flagged
    by_cases hpast : heard + 1024000 * s.radio.cfg.failsafeMs ≤ s.clock
    · rw [if_pos hpast, decide_eq_true hpast, Bool.or_true]
      rfl
    · rw [if_neg hpast, decide_eq_false hpast, Bool.or_false]
  rw [State.overduePoints, hlease]
  simp only [ms, Nat.mul_comm _ 1024000, hflag]
  rfl

/-- The radio block copied, before the points of the lease are looked at. -/
def blockLoaded (s : State) (image : Memory) : State :=
  { s with radio := { s.radio with cfg := loadRadioConfig image, consist := loadConsist image } }

theorem loadRadio_free {s : State} (image : Memory) (hlease : s.radio.lease.isRadio = false) :
    s.loadRadio image = blockLoaded s image := by
  have hsame : (blockLoaded s image).radio.lease = s.radio.lease := rfl
  change (blockLoaded s image).overduePoints = _
  rw [State.overduePoints, hsame]
  cases hl : s.radio.lease with
  | none => rfl
  | onBoard mark => rfl
  | radio sender cls heard => rw [hl] at hlease; cases hlease

theorem loadRadio_held {s : State} {sender cls heard : Nat} (image : Memory)
    (hlease : s.radio.lease = .radio sender cls heard)
    (hholds : s.clock < heard + 1024000 * (loadRadioConfig image).leaseMs) :
    s.loadRadio image = { blockLoaded s image with radio := { (blockLoaded s image).radio with
      failsafe := s.radio.failsafe
        || decide (heard + 1024000 * (loadRadioConfig image).failsafeMs ≤ s.clock) } } := by
  have hsame : (blockLoaded s image).radio.lease = .radio sender cls heard := hlease
  exact (overduePoints_radio hsame).trans (if_neg (Nat.not_le.2 hholds))

/-- The lease lapsed: freed, and the latch cleared where it was set (R78). -/
theorem loadRadio_lapsed {s : State} {sender cls heard : Nat} (image : Memory)
    (hlease : s.radio.lease = .radio sender cls heard)
    (hpast : heard + 1024000 * (loadRadioConfig image).leaseMs ≤ s.clock) :
    s.loadRadio image = if s.traction.latch = true then (leaseUnlatched (blockLoaded s image)).derive
      else { blockLoaded s image with
        port := withNotice s.port [.control]
        radio := { (blockLoaded s image).radio with
          lease := .none, failsafe := false, request := { s.radio.request with throttle := 0 } } } := by
  have hsame : (blockLoaded s image).radio.lease = .radio sender cls heard := hlease
  refine ((overduePoints_radio hsame).trans (if_pos hpast)).trans ?_
  generalize heard + 1024000 * (blockLoaded s image).radio.cfg.failsafeMs = due
  have hlatch : (flagged (blockLoaded s image) due).traction.latch = s.traction.latch := rfl
  cases h : s.traction.latch with
  | true => rw [releaseLease_latched (hlatch.trans h)]; rfl
  | false => rw [releaseLease_unlatched (hlatch.trans h)]; rfl

/-- Whatever becomes of the lease, the copy is in force (R113). -/
theorem loadRadio_copies (s : State) (image : Memory) : (s.loadRadio image).radio.cfg = loadRadioConfig image
    ∧ (s.loadRadio image).radio.consist = loadConsist image ∧ (s.loadRadio image).orders = s.orders := by
  refine ⟨?_, ?_, by simp⟩ <;>
  · cases hlease : s.radio.lease with
    | none => rw [loadRadio_free image (by rw [hlease]; rfl)]; rfl
    | onBoard mark => rw [loadRadio_free image (by rw [hlease]; rfl)]; rfl
    | radio sender cls heard =>
      by_cases hpast : heard + 1024000 * (loadRadioConfig image).leaseMs ≤ s.clock
      · rw [loadRadio_lapsed image hlease hpast]
        split
        · rw [(derive_radio _).1]
          rfl
        · rfl
      · rw [loadRadio_held image hlease (Nat.not_le.1 hpast)]
        rfl

/-- Settles O23, by the lease and the point that has been reached. -/
theorem loadRadioCopiesTheRadioBlock : Obligations.LoadRadioCopiesTheRadioBlock := by
  rintro s o image hwf hrun htaken hkind hvoices rfl
  refine ⟨fun hnone a => orderImage_fresh hkind hnone, ?_⟩
  have hloaded : (s.loadRadio (orderImage s o)).xm.wf = true := State.loadRadio_wf _ _ hwf
  have hends := runOrder_ends hrun htaken (by omega) (by omega) (mine := orderKind 7) (by simp [orderKind, hkind])
    (act := fun s o => s.loadRadioOrder (orderImage s o)) rfl hloaded
  refine ⟨_, rfl, ?_⟩
  rw [loadRadio]
  generalize s.runOrder (orderKind 7) (fun s o => s.loadRadioOrder (orderImage s o)) = t at *
  generalize orderImage s o = image at *
  obtain ⟨hcfg, hconsist, horders⟩ := loadRadio_copies s image
  obtain ⟨hdone, hsame, hframe⟩ := hends
  have hradio : t.radio = (s.loadRadio image).radio := by rw [hframe]
  have horders' : ordersAfter (s.loadRadio image) o = ordersAfter s o := by rw [ordersAfter, horders]; rfl
  rw [horders'] at hframe
  have houtcome : (if radioAdjusted image then OutcomeCode.adjusted else .ok) = _ := if_congr (radioAdjusted_iff image) rfl rfl
  rw [houtcome] at hdone
  rw [hradio, hcfg, hconsist]
  refine ⟨loadRadioConfig_read image, ?_, fun hfree => ?_, fun sender cls heard hlease =>
    ⟨fun hholds => ?_, fun hpast hlatch => ?_, fun hpast hlatch => ?_⟩⟩
  · have hreversed : ∀ b : Bool, loByte (boolNat b) = if b = true then 1 else 0 := by decide
    rw [radioResult, hcfg, hconsist, hreversed] at hdone
    exact hdone
  · rw [loadRadio_free image hfree] at hsame hframe
    exact ⟨hsame, hframe⟩
  · rw [loadRadio_held image hlease hholds] at hsame hframe
    exact ⟨hsame, hframe⟩
  · rw [loadRadio_lapsed image hlease hpast, if_neg (by simp [hlatch])] at hsame hframe
    exact ⟨hsame, hframe⟩
  · rw [loadRadio_lapsed image hlease hpast, if_pos hlatch] at hsame hframe
    exact ⟨_, State.derive_afresh _ hwf hvoices, hsame, hframe⟩

end Sys2Proof.RadioBlock
end

section
/-! PROOFS. LOAD_LAMPS (R162): the copies that the mask names, and the masks of its result. -/

namespace Sys2Proof.LampLoads

open Sys2Proof Sys2Proof.Machine Sys2Proof.Safety Sys2Proof.Notices Sys2Proof.Loads

/-! ## Masks -/

theorem maskOf_lt (f : Nat → Bool) (n : Nat) : maskOf f n < 2 ^ n := by
  induction n with
  | zero => exact Nat.one_pos
  | succ n ih =>
    rw [maskOf, Nat.pow_succ]
    split <;> omega

theorem testBit_maskOf (f : Nat → Bool) (n i : Nat) : (maskOf f n).testBit i = (decide (i < n) && f i) := by
  induction n with
  | zero => simp [maskOf]
  | succ n ih =>
    have hlow := maskOf_lt f n
    have hadd : maskOf f (n + 1) = 2 ^ n * (f n).toNat + maskOf f n := by
      rw [maskOf, Nat.add_comm]
      cases f n <;> simp
    rw [hadd, Nat.testBit_two_pow_mul_add _ hlow]
    by_cases hi : i < n
    · simp [hi, ih, Nat.lt_succ_of_lt hi]
    · by_cases heq : i = n
      · subst heq
        cases f i <;> simp
      · have hhigh : i - n ≠ 0 := by omega
        have hout : ¬i < n + 1 := by omega
        have hbit : (f n).toNat.testBit (i - n) = false := by
          obtain ⟨k, hk⟩ := Nat.exists_eq_succ_of_ne_zero hhigh
          rw [hk]
          cases f n <;> simp [Nat.testBit_succ]
        simp [hi, hout, hbit]

/-! ## Copies -/

/-- A lamp entry is made of its 16 bytes. -/
theorem loadLamp_congr {m m' : Memory} {n : Nat}
    (h : ∀ k, k < 16 → m.read (0x1200 + 32 * n + k) = m'.read (0x1200 + 32 * n + k)) :
    loadLamp m n = loadLamp m' n ∧ lampClamped m n = lampClamped m' n := by
  have hfield : ∀ k, k < 16 → field8 m (0x1200 + 32 * n) k = field8 m' (0x1200 + 32 * n) k := fun k hk => by
    rw [field8, field8, h k hk]
  have hword : field16 m (0x1200 + 32 * n) 0x0A = field16 m' (0x1200 + 32 * n) 0x0A := by
    have hhigh : m.read (0x1200 + 32 * n + 0x0A + 1) = m'.read (0x1200 + 32 * n + 0x0A + 1) := h 0x0B (by decide)
    rw [field16, field16, Memory.read16, Memory.read16, h 0x0A (by decide), hhigh]
  simp only [loadLamp, lampClamped]
  rw [hfield 0 (by decide), hfield 1 (by decide), hfield 2 (by decide), hfield 3 (by decide), hfield 4 (by decide),
    hfield 5 (by decide), hfield 6 (by decide), hfield 7 (by decide), hfield 8 (by decide), hfield 9 (by decide), hword,
    hfield 0x0C (by decide), hfield 0x0D (by decide), hfield 0x0E (by decide)]
  exact ⟨rfl, rfl⟩

theorem loadLamp_fresh {s : State} {o : TakenOrder} (hkind : o.kind = 6) (hnone : o.load = none) {n : Nat} (hn : n < 10)
    (hbit : (param16 o.params 0).testBit n = true) : loadLamp (orderImage s o) n = loadLamp s.xm n
      ∧ lampClamped (orderImage s o) n = lampClamped s.xm n := by
  refine loadLamp_congr fun k hk => orderImage_of_word hnone (w := 0x1200 + 32 * n + 2 * (k / 2)) ?_ (by omega)
  rw [orderWords, if_pos hkind]
  exact List.mem_flatMap.2 ⟨n, List.mem_filter.2 ⟨List.mem_range.2 hn, hbit⟩, mem_wordsFrom.2 ⟨k / 2, by omega, rfl⟩⟩

/-- A lamp that takes the copy of its entry (R162). -/
theorem reload_eq (l : Lamp) (c : LampCopy) : l.reload c = { l with
    copy := c, phase := 0, flare := c.level / 4, openTimer := none, overEpisode := false, openEpisode := false
    shown := if c.enabled then l.shown else 0, output := c.enabled && l.output
    onTime := if c.enabled then l.onTime else 0 } := by
  unfold Lamp.reload Lamp.startCopy
  cases c.enabled <;> rfl

/-- The lamps after LOAD_LAMPS. -/
def lampsLoaded (s : State) (o : TakenOrder) : State :=
  s.onEachLamp fun n l =>
    if (param16 o.params 0).testBit n then l.reload (loadLamp (orderImage s o) n) else l

/-- Settles O22, lamp by lamp. -/
theorem loadLampsCopiesTheNamedEntries : Obligations.LoadLampsCopiesTheNamedEntries := by
  rintro s o image hwf hrun htaken hkind rfl
  refine ⟨fun hnone n => loadLamp_fresh hkind hnone, loadLamp_read, ?_⟩
  have hends := runOrder_ends hrun htaken (by omega) (by omega) (mine := orderKind 6) (by simp [orderKind, hkind])
    (act := State.loadLampsOrder) (t := lampsLoaded s o) rfl hwf
  refine ⟨_, rfl, ?_⟩
  rw [loadLamps]
  generalize s.runOrder (orderKind 6) State.loadLampsOrder = t at *
  obtain ⟨hdone, hsame, hframe⟩ := hends
  have hlamps : t.lamps.lamps = (lampsLoaded s o).lamps.lamps := by rw [hframe]
  refine ⟨?_, fun n l hl => ?_, ⟨_, _, testBit_maskOf _ 10, fun i => ?_, hdone⟩, hsame, ?_⟩
  · rw [hlamps]
    exact length_mapFrom _ _ _
  · rw [hlamps]
    have hget := getElem?_mapFrom (fun n l => if (param16 o.params 0).testBit n then
      Lamp.reload l (loadLamp (orderImage s o) n) else l) 0 n s.lamps.lamps
    rw [hl, Option.map_some, Nat.zero_add, reload_eq] at hget
    exact hget
  · rw [testBit_maskOf, Bool.and_assoc]
  · rw [hlamps]
    exact hframe

end Sys2Proof.LampLoads
end

section
/-! PROOFS. PLAY (R139 to R143, R157): the voice it takes, the segment that a STREAM entry takes, and its refusals. -/

namespace Sys2Proof.Playing

open Sys2Proof Sys2Proof.Machine Sys2Proof.Safety Sys2Proof.Notices Sys2Proof.Triggers Sys2Proof.Loads

/-! ## The stop of one voice (R159) -/

theorem inSecond_iff (v : Voice) : v.inSecond = true ↔ v.entry.length / 2 * 256 ≤ v.position := by
  rw [Voice.inSecond, ClipEntry.half, decide_eq_true_eq]

/-- What the stop of a voice writes: nothing, or the byte of the segment that it holds. -/
theorem stopVoice_writes (s : State) (n : Nat) : ∀ v, v = s.sound.voice n →
    (v.sounds = false ∨ v.entry.kind ≠ 2 → (s.stopVoice n).xm = s.xm ∧ (s.stopVoice n).port = s.port)
      ∧ (v.sounds = true → v.entry.kind = 2 →
        (s.stopVoice n).xm = s.xm.write
            (0x140E + 16 * v.clip + (if v.position < v.entry.length / 2 * 256 then 0 else 1)) 0
          ∧ (s.stopVoice n).port = withNotice s.port [.stream]) := by
  rintro v rfl
  unfold State.stopVoice
  refine ⟨fun hsilent => ?_, fun hsounds hkind => ?_⟩
  · have hno : ¬((s.sound.voice n).sounds && decide ((s.sound.voice n).entry.kind = 2)) = true := by
      rcases hsilent with h | h <;> simp [h]
    simp only
    rw [if_neg hno]
    exact ⟨rfl, rfl⟩
  · have hyes : ((s.sound.voice n).sounds && decide ((s.sound.voice n).entry.kind = 2)) = true := by
      simp [hsounds, hkind]
    have haddr : segmentAddr (s.sound.voice n).clip (s.sound.voice n).inSecond
        = 0x140E + 16 * (s.sound.voice n).clip
          + (if (s.sound.voice n).position < (s.sound.voice n).entry.length / 2 * 256 then 0 else 1) := by
      by_cases hhalf : (s.sound.voice n).position < (s.sound.voice n).entry.length / 2 * 256
      · have hfirst : (s.sound.voice n).inSecond = false := by
          rw [Bool.eq_false_iff]
          exact mt (inSecond_iff _).1 (by omega)
        rw [hfirst, if_pos hhalf]
        simp only [segmentAddr, clipBase, boolNat]
        simp
        omega
      · rw [(inSecond_iff _).2 (by omega), if_neg hhalf]
        simp only [segmentAddr, clipBase, boolNat]
        simp
        omega
    simp only
    rw [if_pos hyes, ← haddr]
    exact ⟨rfl, rfl⟩

/-! ## Starts by order -/

theorem voiceStarts_eq (s : State) (n clip : Nat) (e : ClipEntry) (f : StartFields) (last : Bool) :
    s.voiceStarts n clip e f last = { s with sound := { s.sound with
      voices := s.sound.voices.set n (startedVoice clip e f (s.sound.startCount + 1) last)
      startCount := s.sound.startCount + 1 } } := by
  rw [State.voiceStarts, onVoice_is]
  rfl

/-- Where a STREAM entry's segment A stands. -/
theorem segmentAddr_first (clip : Nat) : segmentAddr clip false = 0x140E + 16 * clip := by
  simp only [segmentAddr, clipBase, boolNat]
  simp
  omega

/-- The state in which a PLAY has started its voice (R141, R157). -/
def played (s : State) (n clip : Nat) (e : ClipEntry) (f : StartFields) (segment : Byte) : State :=
  (if e.kind = 2 then (s.stopVoice n).playSegment clip false else s.stopVoice n).voiceStarts n clip e f
    (decide (e.kind = 2 ∧ segment = 2))

theorem kind_le_of_valid {e : ClipEntry} (h : e.valid = true) : e.kind ≤ 2 := by
  simp only [ClipEntry.valid, Bool.and_eq_true, decide_eq_true_eq] at h
  obtain ⟨⟨⟨-, hkind⟩, -⟩, -⟩ := h
  exact hkind

/-- A PLAY's start is made exactly where its entry is valid and a STREAM entry has its segment A to take. -/
theorem startVoice_order {s : State} (hwf : s.xm.wf = true) {n clip : Nat} (hclip : clip ≤ 63) (f : StartFields)
    {e : ClipEntry} (he : e = loadClip s.xm clip) {segment : Byte}
    (hsegment : segment = (s.stopVoice n).xm.read (0x140E + 16 * clip)) :
    (e.valid = true → (e.kind = 2 → segment = 1 ∨ segment = 2) →
      s.startVoice n clip .none f = (played s n clip e f segment, true))
    ∧ (e.valid = false ∨ e.kind = 2 ∧ segment ≠ 1 ∧ segment ≠ 2 →
      s.startVoice n clip .none f = (s.stopVoice n, false)) := by
  have hload : loadClip (s.stopVoice n).xm clip = e := by rw [he, loadClip_stopVoice hwf n hclip]
  have hfull : segmentFull (s.stopVoice n) clip false
      = if segment = 1 then some false else if segment = 2 then some true else none := by
    rw [segmentFull, segmentAddr_first, ← hsegment]
  simp only [State.startVoice, hload]
  refine ⟨fun hvalid htakes => ?_, fun hno => ?_⟩
  · have hgoes : validFor .none clip e = true := by
      simp [validFor, hclip, hvalid, ClipUse.allows, kind_le_of_valid hvalid]
    rw [if_pos hgoes]
    by_cases hkind : e.kind = 2
    · rw [if_pos hkind, played, if_pos hkind]
      rcases htakes hkind with hone | htwo
      · rw [hfull, if_pos hone, hone, decide_eq_false (by simp)]
      · rw [hfull, if_neg (by rw [htwo]; decide), if_pos htwo, htwo, decide_eq_true ⟨hkind, rfl⟩]
    · rw [if_neg hkind, played, if_neg hkind, decide_eq_false (by simp [hkind])]
  · cases hvalid : e.valid with
    | false => rw [if_neg (by simp [validFor, hvalid])]
    | true =>
      obtain ⟨hkind, hone, htwo⟩ := hno.resolve_left (by simp [hvalid])
      rw [if_pos (by simp [validFor, hclip, hvalid, ClipUse.allows, hkind]), if_pos hkind, hfull, if_neg hone,
        if_neg htwo]

/-- The voice of a PLAY that finds one (R142, R143). -/
theorem playVoice_plays {s : State} {code priority n : Nat} (h : playsOn s.sound code priority n) :
    playVoice s code priority = some n ∧ ¬(code ≠ 255 ∧ (code < 2 ∨ 7 < code)) := by
  obtain ⟨hlow, hhigh, hcase⟩ := id h
  unfold playVoice
  by_cases hauto : code = 255
  · subst hauto
    exact ⟨(if_pos rfl).trans (s.sound.allocate_plays priority n h), fun hno => hno.1 rfl⟩
  · have hcode : code = n := by
      rcases hcase with heq | ⟨heq, -⟩ | ⟨heq, -⟩
      · exact heq
      · exact absurd heq hauto
      · exact absurd heq hauto
    exact ⟨by rw [if_neg hauto, hcode], by omega⟩

/-- Whether a PLAY answers ADJUSTED (R143). -/
theorem playClamped_iff (ps : List Byte) (pitch : Nat) : playClamped ps pitch = true ↔
    3 < param8 ps 5 ∨ (param16 ps 6 ≠ 0 ∧ (param16 ps 6 < 0x40 ∨ 0x400 < param16 ps 6))
      ∨ (param16 ps 6 = 0 ∧ (pitch < 0x40 ∨ 0x400 < pitch)) := by
  have hclamp : ∀ x, clampPitch x ≠ x ↔ x < 0x40 ∨ 0x400 < x := fun x =>
    ne_comm.trans (clampNat_ne (by decide))
  unfold playClamped
  rw [Bool.or_eq_true, decide_eq_true_eq]
  split
  · next hzero => simp [hzero, hclamp]
  · next hsome => simp [hsome, hclamp]

/-- A PLAY that finds a voice. -/
theorem playClip_plays {s u : State} {ps : List Byte} {n : Nat} {starts : Bool} (hclip : param8 ps 0 ≤ 63)
    (hplays : playsOn s.sound (param8 ps 1) (min 3 (param8 ps 5)) n)
    (hstart : s.startVoice n (param8 ps 0) .none (playFields ps) = (u, starts)) :
    s.playClip ps = if starts then
      (u, if playClamped ps (u.sound.voice n).entry.basePitch then .adjusted else .ok,
        [loByte n, 0] ++ bytes32 (u.sound.voice n).stamp.toNat)
      else (u, .badClip, []) := by
  obtain ⟨hvoice, hcode⟩ := playVoice_plays hplays
  rw [State.playClip, if_neg (Nat.not_lt.2 hclip), if_neg hcode, hvoice]
  simp only [hstart]
  cases starts with
  | false => simp
  | true => simp

/-- The voice that a PLAY starts (R141, R143). -/
theorem startedVoice_order (clip : Nat) (e : ClipEntry) (ps : List Byte) (hkind : e.kind ≤ 2) (stamp : Reg) (last : Bool) :
    startedVoice clip e (playFields ps) stamp last = {
      state := .playing, clip := clip, entry := e, position := 0
      step := max 0x40 (min 0x400 (if param16 ps 6 = 0 then e.basePitch else param16 ps 6))
      volume := if param16 ps 2 ≤ 255 then param16 ps 2 else e.volume
      envelope := 255, fadeStep := 0
      repeats := if e.kind = 2 then some 0 else if e.kind = 1 ∧ param8 ps 4 = 0 then none else some (param8 ps 4)
      priority := min 3 (param8 ps 5), starter := .order, stamp := stamp, lastSegment := last } := by
  have hstep : (playFields ps).pitch.getD (clampPitch e.basePitch)
      = max 0x40 (min 0x400 (if param16 ps 6 = 0 then e.basePitch else param16 ps 6)) := by
    unfold playFields
    by_cases hzero : param16 ps 6 = 0
    · simp only [if_pos hzero]
      rfl
    · simp only [if_neg hzero]
      rfl
  have hvolume : (playFields ps).volume.getD e.volume
      = if param16 ps 2 ≤ 255 then param16 ps 2 else e.volume := by
    unfold playFields
    by_cases hown : param16 ps 2 ≤ 255
    · simp only [if_pos hown]
      rfl
    · simp only [if_neg hown]
      rfl
  have hrepeats : (playFields ps).repeats.left e.kind
      = if e.kind = 2 then some 0 else if e.kind = 1 ∧ param8 ps 4 = 0 then none else some (param8 ps 4) := by
    have hcases : e.kind = 0 ∨ e.kind = 1 ∨ e.kind = 2 := by omega
    rcases hcases with h | h | h <;> simp [playFields, RepeatSetting.left, h]
  rw [startedVoice, hstep, hvolume, hrepeats]
  rfl

/-- A byte of the segments outside a slot. -/
theorem segment_not_inSlot {n clip : Nat} (hn : n < 32) : ¬inSlot n (0x140E + 16 * clip) := by
  simp only [inSlot, slotBase]
  omega

/-- What a PLAY leaves that has started its voice. -/
theorem played_eq {s : State} (hvoices : voicesLawful s) {n clip : Nat} (hn : n ≤ 7) (hclip : clip ≤ 63)
    (hwf : s.xm.wf = true) (e : ClipEntry) (f : StartFields) (segment : Byte) :
    ∀ u, u = played s n clip e f segment →
      u = { s with
        xm := u.xm, port := (s.stopVoice n).port
        sound := { s.sound with
          voices := s.sound.voices.set n (startedVoice clip e f (s.sound.startCount + 1)
            (decide (e.kind = 2 ∧ segment = 2)))
          startCount := s.sound.startCount + 1 } }
      ∧ u.sound.voice n = startedVoice clip e f (s.sound.startCount + 1) (decide (e.kind = 2 ∧ segment = 2))
      ∧ u.xm.wf = true ∧ (e.kind = 2 → u.xm.read (0x140E + 16 * clip) = 3)
      ∧ sameBut (s.stopVoice n).xm u.xm (fun a => e.kind = 2 ∧ a = 0x140E + 16 * clip)
      ∧ sameBut s.xm u.xm inSegments := by
  intro u hu
  have hwf' : (s.stopVoice n).xm.wf = true := s.stopVoice_wf n hwf
  have hxm : u.xm = if e.kind = 2 then (s.stopVoice n).xm.write (0x140E + 16 * clip) 3 else (s.stopVoice n).xm := by
    rw [hu, played, voiceStarts_eq, ← segmentAddr_first]
    split <;> rfl
  have hsound : u.sound = { s.sound with
      voices := s.sound.voices.set n (startedVoice clip e f (s.sound.startCount + 1) (decide (e.kind = 2 ∧ segment = 2)))
      startCount := s.sound.startCount + 1 } := by
    have hstopped : (if e.kind = 2 then (s.stopVoice n).playSegment clip false else s.stopVoice n).sound
        = { s.sound with voices := s.sound.voices.set n { s.sound.voice n with state := .idle } } := by
      rw [stopVoice_is]
      split <;> rfl
    rw [hu, played, voiceStarts_eq, hstopped]
    simp only [List.set_set]
  have hsame : sameBut (s.stopVoice n).xm u.xm (fun a => e.kind = 2 ∧ a = 0x140E + 16 * clip) := by
    intro a ha hout
    rw [hxm]
    split
    · next hkind =>
      refine Memory.read_write_other _ hwf' ?_
      rw [Nat.mod_eq_of_lt ha, Nat.mod_eq_of_lt (by omega)]
      exact fun heq => hout ⟨hkind, heq.symm⟩
    · rfl
  refine ⟨?_, ?_, ?_, fun hkind => ?_, hsame, ?_⟩
  · rw [← hsound, hu, played]
    split
    · rw [voiceStarts_eq, stopVoice_is]
      rfl
    · rw [voiceStarts_eq, stopVoice_is]
  · have hlength : n < s.sound.voices.length := by rw [hvoices.1]; omega
    rw [hsound, Sound.voice, List.getD_eq_getElem?_getD, List.getElem?_set_self hlength]
    rfl
  · rw [hxm]
    split
    · exact Memory.wf_write _ _ hwf'
    · exact hwf'
  · rw [hxm, if_pos hkind]
    exact Memory.read_write_same _ _ hwf'
  · refine sameBut_trans (s.stopVoice_same n hvoices (by omega) hwf) (sameBut_weaken hsame ?_)
    rintro a ⟨-, rfl⟩
    simp only [inSegments]
    omega

/-- R143 of a PLAY that finds a voice. -/
theorem play_settles {s : State} {o : TakenOrder} {n clip : Nat} {e : ClipEntry} {segment : Byte} (hwf : s.xm.wf = true)
    (hrun : s.isRun = true) (htaken : orderTaken s o) (hkind : o.kind = 8) (hvoices : voicesLawful s)
    (hclip : clip = param8 o.params 0) (hindex : clip ≤ 63)
    (hplays : playsOn s.sound (param8 o.params 1) (min 3 (param8 o.params 5)) n) (he : e = loadClip s.xm clip)
    (hsegment : segment = (s.stopVoice n).xm.read (0x140E + 16 * clip)) :
    (e.valid = true → (e.kind = 2 → segment = 1 ∨ segment = 2) →
      refusedOrder (played s n clip e (playFields o.params) segment) (play s) o
        (if playClamped o.params e.basePitch then .adjusted else .ok)
        ([BitVec.ofNat 8 n, 0] ++ bytes32 (s.sound.startCount + 1).toNat))
    ∧ (e.valid = false ∨ e.kind = 2 ∧ segment ≠ 1 ∧ segment ≠ 2 →
      refusedOrder (s.stopVoice n) (play s) o .badClip []) := by
  obtain ⟨-, hhigh, -⟩ := id hplays
  obtain ⟨hgoes, hfails⟩ := startVoice_order hwf hindex (playFields o.params) he hsegment
  refine ⟨fun hvalid htakes => ?_, fun hno => ?_⟩
  · obtain ⟨-, hvoice, hwf', -, -, -⟩ := played_eq hvoices hhigh hindex hwf e (playFields o.params) segment _ rfl
    have hact := playClip_plays (hclip ▸ hindex) hplays (hclip ▸ hgoes hvalid htakes)
    refine runOrder_ends (mine := orderKind 8) hrun htaken (by omega) (by omega) (by simp [orderKind, hkind]) ?_ hwf'
    rw [hact, if_pos rfl, ← hclip, hvoice]
    rfl
  · have hact := playClip_plays (hclip ▸ hindex) hplays (hclip ▸ hfails hno)
    exact runOrder_ends (mine := orderKind 8) hrun htaken (by omega) (by omega) (by simp [orderKind, hkind]) hact
      (s.stopVoice_wf n hwf)

/-- A PLAY that is refused before any voice is touched. -/
theorem play_refused {s : State} {o : TakenOrder} (hwf : s.xm.wf = true) (hrun : s.isRun = true)
    (htaken : orderTaken s o) (hkind : o.kind = 8) {outcome : OutcomeCode}
    (hact : s.playClip o.params = (s, outcome, [])) : refusedOrder s (play s) o outcome [] :=
  runOrder_ends (mine := orderKind 8) hrun htaken (by omega) (by omega) (by simp [orderKind, hkind]) hact hwf

/-- Settles O24, by the entry, the segment it takes, and the checks before the start. -/
theorem playStartsAVoiceOrIsRefused : Obligations.PlayStartsAVoiceOrIsRefused := by
  refine ⟨loadClip_read, ?_, fun s n v hwf hvoices hv => stopVoice_writes s n v ?_,
    fun s o hwf hrun htaken hkind => ⟨fun hbad => ⟨_, rfl, play_refused hwf hrun htaken hkind ?_⟩,
      fun hclip hauto hnone => ⟨_, rfl, play_refused hwf hrun htaken hkind ?_⟩⟩⟩
  · rintro s o n clip kind e segment hwf hrun htaken hkind hvoices hclip hindex hplays he rfl hsegment
    obtain ⟨-, hhigh, -⟩ := id hplays
    have hslot := slot_lt_of_taken htaken
    obtain ⟨hgoes, hfails⟩ := play_settles hwf hrun htaken hkind hvoices hclip hindex hplays he hsegment
    refine ⟨fun hvalid htakes => ⟨_, rfl, ?_⟩, fun hno => ⟨_, rfl, ?_⟩⟩
    · obtain ⟨hdone, hsame, hframe⟩ := hgoes hvalid htakes
      obtain ⟨huframe, -, -, hsegmentTaken, hfreed, hsegments⟩ :=
        played_eq hvoices hhigh hindex hwf e (playFields o.params) segment _ rfl
      rw [startedVoice_order clip e o.params (kind_le_of_valid hvalid)] at huframe
      have hadjusted : (if playClamped o.params e.basePitch = true then OutcomeCode.adjusted else .ok) = _ :=
        if_congr (playClamped_iff o.params e.basePitch) rfl rfl
      rw [hadjusted] at hdone
      generalize played s n clip e (playFields o.params) segment = u at *
      generalize play s = t at *
      have hvoices' : t.sound.voices = u.sound.voices := by rw [hframe]
      have huvoices : u.sound.voices = _ := congrArg (fun u : State => u.sound.voices) huframe
      refine ⟨hvoices'.trans huvoices, fun hstream => ?_, hdone, ?_, ?_, ?_⟩
      · rw [hsame _ (by omega) (segment_not_inSlot hslot)]
        exact hsegmentTaken hstream
      · exact sameBut_trans (sameBut_weaken hsegments fun a => .inr) (sameBut_weaken hsame fun a => .inl)
      · exact sameBut_trans (sameBut_weaken hfreed fun a => .inr) (sameBut_weaken hsame fun a => .inl)
      · have horders : ordersAfter u o = ordersAfter s o := by rw [huframe]; rfl
        have hport : u.port = (s.stopVoice n).port := by rw [huframe]
        rw [hvoices', huvoices, ← horders, ← hport]
        refine hframe.trans ?_
        generalize ordersAfter u o = orders
        generalize withNotice u.port [.order] = port
        conv_lhs => rw [huframe]
    · obtain ⟨hdone, hsame, hframe⟩ := hfails hno
      have hfreed := stopVoice_is s n
      have hsegments := s.stopVoice_same n hvoices (by omega) hwf
      generalize s.stopVoice n = u at *
      generalize play s = t at *
      have hvoices' : t.sound.voices = u.sound.voices := by rw [hframe]
      have huvoices : u.sound.voices = _ := congrArg (fun u : State => u.sound.voices) hfreed
      refine ⟨hvoices'.trans huvoices, hdone, ?_, hsame, ?_⟩
      · exact sameBut_trans (sameBut_weaken hsegments fun a => .inr) (sameBut_weaken hsame fun a => .inl)
      · have horders : ordersAfter u o = ordersAfter s o := by rw [hfreed]; rfl
        rw [hvoices', huvoices, ← horders]
        refine hframe.trans ?_
        generalize ordersAfter u o = orders
        generalize withNotice u.port [.order] = port
        conv_lhs => rw [hfreed]
  · rw [Sound.voice, List.getD_eq_getElem?_getD, hv]
    rfl
  · simp only [State.playClip]
    by_cases hclip : 63 < param8 o.params 0
    · rw [if_pos hclip]
    · rw [if_neg hclip, if_pos (by omega)]
  · simp only [State.playClip]
    rw [if_neg (Nat.not_lt.2 hclip), if_neg (fun h => h.1 hauto), playVoice, if_pos hauto, s.sound.allocate_none _ hnone]

end Sys2Proof.Playing
end

section
/-! PROOFS. HUSH (R144, R159): what becomes of each named voice, and the segments given back. -/

namespace Sys2Proof.Hushing

open Sys2Proof Sys2Proof.Machine Sys2Proof.Safety Sys2Proof.Notices Sys2Proof.Triggers Sys2Proof.LampLoads

/-- A voice that HUSH names (R144). -/
def hushed (fade : Nat) (v : Voice) : Voice :=
  match v.state with
  | .idle => v
  | .starved => { v with state := .idle }
  | .playing | .fading => if fade = 0 then { v with state := .idle } else { v with state := .fading, fadeStep := fade }

theorem set_voice_self (u : Sound) (n : Nat) : u.voices.set n (u.voice n) = u.voices := by
  by_cases hn : n < u.voices.length
  · have hget : u.voice n = u.voices[n] := by
      rw [Sound.voice, List.getD_eq_getElem?_getD, List.getElem?_eq_getElem hn]
      rfl
    rw [hget, List.set_getElem_self]
  · exact List.set_eq_of_length_le (Nat.le_of_not_lt hn)

theorem hushVoice_is (s : State) (fade n : Nat) : s.hushVoice fade n = { s with
    xm := (s.hushVoice fade n).xm, port := (s.hushVoice fade n).port
    sound := { s.sound with voices := s.sound.voices.set n (hushed fade (s.sound.voice n)) } } := by
  unfold State.hushVoice hushed
  cases (s.sound.voice n).state with
  | idle =>
    simp only [set_voice_self]
  | starved => exact stopVoice_is s n
  | playing | fading =>
    simp only
    split
    · exact stopVoice_is s n
    · rw [onVoice_is]
      rfl

/-- The voices of a list, hushed one after another. -/
theorem hushVoices_are (fade : Nat) (l : List Nat) (hnodup : l.Nodup) (s : State) :
    ∀ t, t = l.foldl (fun s n => s.hushVoice fade n) s →
      t.sound.voices.length = s.sound.voices.length
      ∧ (∀ k v, s.sound.voices[k]? = some v → t.sound.voices[k]? = some (if k ∈ l then hushed fade v else v))
      ∧ t = { s with xm := t.xm, port := t.port, sound := { s.sound with voices := t.sound.voices } } := by
  induction l generalizing s with
  | nil =>
    rintro t rfl
    exact ⟨rfl, fun k v hv => by simpa using hv, rfl⟩
  | cons n l ih =>
    intro t ht
    obtain ⟨hnew, hnodup⟩ := List.nodup_cons.1 hnodup
    obtain ⟨hlength, hvoices, hframe⟩ := ih hnodup (s.hushVoice fade n) t ht
    have hone := hushVoice_is s fade n
    generalize s.hushVoice fade n = u at *
    have huvoices : u.sound.voices = s.sound.voices.set n (hushed fade (s.sound.voice n)) := by rw [hone]
    refine ⟨by rw [hlength, huvoices, List.length_set], fun k v hv => ?_, ?_⟩
    · by_cases heq : k = n
      · subst heq
        have hlt : k < s.sound.voices.length := (List.getElem?_eq_some_iff.1 hv).1
        have hvoice : s.sound.voice k = v := by
          rw [Sound.voice, List.getD_eq_getElem?_getD, hv]
          rfl
        rw [hvoices k (hushed fade v) (by rw [huvoices, List.getElem?_set_self hlt, hvoice]), if_neg hnew,
          if_pos (by simp)]
      · rw [hvoices k v (by rw [huvoices, List.getElem?_set_ne (Ne.symm heq), hv])]
        simp [heq]
    · refine hframe.trans ?_
      conv_lhs => rw [hone]

/-- The voices that a HUSH code names (R144). -/
theorem hushNamed_iff {code k : Nat} (hk : k < 8) : k ∈ hushNamed code ↔ code = 255 ∨ code = k := by
  unfold hushNamed
  by_cases hall : code = 255
  · rw [if_pos hall]
    simp only [hall, allVoices, true_or, iff_true, List.mem_cons, List.not_mem_nil]
    omega
  · rw [if_neg hall]
    simp [hall, eq_comm]

theorem hushNamed_lt {code : Nat} (hcode : code ≤ 7 ∨ code = 255) :
    (hushNamed code).Nodup ∧ ∀ n ∈ hushNamed code, n < 8 := by
  unfold hushNamed
  by_cases hall : code = 255
  · rw [if_pos hall]
    decide
  · rw [if_neg hall]
    simp
    omega

/-- A byte that the stop of lawful voices empties is a segment byte. -/
theorem segmentsReleased_same {s : State} (hvoices : voicesLawful s) {ended : List Voice}
    (hended : ∀ v ∈ ended, ∃ k, k < 8 ∧ v = s.sound.voice k) {m m' : Memory}
    (h : segmentsReleased ended m m' fun _ => False) : sameBut m m' inSegments := by
  intro a ha hout
  rw [h a ha (fun h => h), if_neg]
  rw [List.any_eq_true]
  rintro ⟨v, hv, hholds⟩
  obtain ⟨k, hk, rfl⟩ := hended v hv
  simp only [holdsSegment, Bool.and_eq_true, decide_eq_true_eq] at hholds
  obtain ⟨⟨hsounds, -⟩, rfl⟩ := hholds
  obtain ⟨hclip, -, -⟩ := voiceLawful_sounds (lawful_voice hvoices hk) hsounds
  exact hout (inSegments_byte hclip _)

/-- The voices that stop at once under a HUSH, as the statement lists them. -/
theorem hushEnded_eq {s : State} (hvoices : voicesLawful s) (fade code : Nat) :
    (if fade = 0 then (hushNamed code).map s.sound.voice else [])
      = if fade ≠ 0 then [] else if code = 255 then s.sound.voices else [s.sound.voice code] := by
  by_cases hfade : fade = 0
  · rw [if_pos hfade, if_neg (not_not.2 hfade), hushNamed]
    by_cases hall : code = 255
    · rw [if_pos hall, if_pos hall]
      obtain ⟨v0, v1, v2, v3, v4, v5, v6, v7, hlist⟩ := eight_voices hvoices.1
      unfold Sound.voice
      rw [hlist]
      rfl
    · rw [if_neg hall, if_neg hall]
      rfl
  · rw [if_neg hfade, if_pos hfade]

/-- Settles O25, voice by voice. -/
theorem hushActsOnEachNamedVoice : Obligations.HushActsOnEachNamedVoice := by
  rintro s o hwf hrun htaken hkind hvoices
  have hslot := slot_lt_of_taken htaken
  refine ⟨fun hcode => ⟨_, rfl, ?_⟩, fun hhigh hsome => ⟨_, rfl, ?_⟩⟩
  · obtain ⟨hnodup, hlt⟩ := hushNamed_lt hcode
    have hact : s.hushVoices o.params = ((hushNamed (param8 o.params 0)).foldl (fun s n => s.hushVoice (param8 o.params 1) n) s,
        .ok, [loByte (maskOf (fun n => decide ((s.sound.voice n).state ≠ .idle)) 8)]) := by
      simp only [State.hushVoices]
      rw [if_neg (by omega)]
    obtain ⟨hlength, hare, huframe⟩ := hushVoices_are (param8 o.params 1) _ hnodup s _ rfl
    obtain ⟨hreleased, huport⟩ := s.hushVoices_released (param8 o.params 1) _ hlt hnodup hwf hvoices
    have huwf : ((hushNamed (param8 o.params 0)).foldl (fun s n => s.hushVoice (param8 o.params 1) n) s).xm.wf = true := by
      have hall := State.hushVoices_wf s o.params hwf
      rwa [hact] at hall
    have hends := runOrder_ends (mine := orderKind 9) (act := fun s o => s.hushVoices o.params) hrun htaken (by omega)
      (by omega) (by simp [orderKind, hkind]) hact huwf
    have hended : ∀ v ∈ (if param8 o.params 1 = 0 then (hushNamed (param8 o.params 0)).map s.sound.voice else []),
        ∃ k, k < 8 ∧ v = s.sound.voice k := by
      intro v hv
      split at hv
      · obtain ⟨k, hk, rfl⟩ := List.mem_map.1 hv
        exact ⟨k, hlt k hk, rfl⟩
      · cases hv
    have hsegments := segmentsReleased_same hvoices hended hreleased
    rw [hushEnded_eq hvoices] at hreleased huport
    rw [hush]
    generalize s.runOrder (orderKind 9) (fun s o => s.hushVoices o.params) = t at *
    generalize (hushNamed (param8 o.params 0)).foldl (fun s n => s.hushVoice (param8 o.params 1) n) s = u at *
    obtain ⟨hdone, hsame, hframe⟩ := hends
    have hvoices' : t.sound.voices = u.sound.voices := by rw [hframe]
    refine ⟨?_, fun k v hv => ?_, ⟨_, testBit_maskOf _ 8, hdone⟩, ?_, ?_⟩
    · rw [hvoices', hlength]
      exact hvoices.1
    · have hk : k < 8 := by
        have hlt := (List.getElem?_eq_some_iff.1 hv).1
        rwa [hvoices.1] at hlt
      rw [hvoices', hare k v hv]
      refine congrArg some (if_congr (hushNamed_iff hk) ?_ rfl)
      unfold hushed
      cases v.state <;> rfl
    · exact sameBut_trans (sameBut_weaken hsegments fun a => .inr) (sameBut_weaken hsame fun a => .inl)
    · rintro ended rfl
      refine ⟨fun a ha hout => ?_, ?_⟩
      · rw [hsame a ha hout]
        exact hreleased a ha fun h => h
      · have horders : ordersAfter u o = ordersAfter s o := by rw [huframe]; rfl
        rw [hvoices', ← withNotice_flatten, ← huport, ← horders]
        refine hframe.trans ?_
        generalize ordersAfter u o = orders
        generalize withNotice u.port [.order] = port
        conv_lhs => rw [huframe]
  · refine runOrder_ends (mine := orderKind 9) (act := fun s o => s.hushVoices o.params) hrun htaken (by omega)
      (by omega) (by simp [orderKind, hkind]) ?_ hwf
    simp only [State.hushVoices]
    rw [if_pos ⟨hhigh, hsome⟩]

end Sys2Proof.Hushing
end

section
/-! PROOFS. The BALANCE order (R103 to R105), the hold and the resumption of a run, and the end of the hold time (R109). -/

namespace Sys2Proof.BalanceRuns

open Sys2Proof Sys2Proof.Machine Sys2Proof.Safety Sys2Proof.Notices Sys2Proof.EmergencyStops Sys2Proof.Loads

/-! ## The run record (R103) -/

theorem directionOf_eq (x : Nat) : directionOf x = if x = 1 then .reverse else .forward := by
  unfold directionOf
  split <;> rfl

theorem testDutyClamped_iff (cap raw : Nat) : testDutyClamped cap raw = true ↔
    raw < 64 ∨ 1023 < raw ∨ cap < max 64 (min 1023 raw) := by
  have hrange : clampNat 64 1023 raw ≠ raw ↔ raw < 64 ∨ 1023 < raw := ne_comm.trans (clampNat_ne (by decide))
  rw [testDutyClamped, Bool.or_eq_true, decide_eq_true_eq, decide_eq_true_eq, hrange, or_assoc]
  rfl

/-- Whether a clamp changed a value of the order (R103). -/
theorem newRun_adjusted_iff (ps : List Byte) (slot cap : Nat) : (newRun ps slot cap).adjusted = true ↔
    param8 ps 0 < 1 ∨ 4 < param8 ps 0
      ∨ (∃ k, k < max 1 (min 4 (param8 ps 0)) ∧ (param16 ps (2 + 2 * k) < 64 ∨ 1023 < param16 ps (2 + 2 * k)
        ∨ cap < max 64 (min 1023 (param16 ps (2 + 2 * k)))))
      ∨ param8 ps 10 < 1 ∨ 20 < param8 ps 10 ∨ 1 < param8 ps 1 := by
  have hsteps : clampNat 1 4 (param8 ps 0) ≠ param8 ps 0 ↔ param8 ps 0 < 1 ∨ 4 < param8 ps 0 :=
    ne_comm.trans (clampNat_ne (by decide))
  have hhold : clampNat 1 20 (param8 ps 10) ≠ param8 ps 10 ↔ param8 ps 10 < 1 ∨ 20 < param8 ps 10 :=
    ne_comm.trans (clampNat_ne (by decide))
  simp only [newRun, postedDuties, Bool.or_eq_true, decide_eq_true_eq, hsteps, hhold, List.any_map, List.any_eq_true,
    List.mem_range, Function.comp, testDutyClamped_iff, or_assoc]
  rfl

theorem newRun_duties (ps : List Byte) (slot cap : Nat) : (newRun ps slot cap).duties
    = (List.range (newRun ps slot cap).steps).map fun k => min cap (max 64 (min 1023 (param16 ps (2 + 2 * k)))) := by
  simp only [newRun, postedDuties, List.map_map]
  rfl

/-! ## The checks (R104) -/

theorem isRadio_false_iff (l : Lease) : l.isRadio = false ↔ l = .none ∨ ∃ mark, l = .onBoard mark := by
  cases l <;> simp [Lease.isRadio]

theorem forbids_iff (l : DirectionLock) (x : Nat) : l.forbids (directionOf x) = true ↔
    l = .forwardOnly ∧ x = 1 ∨ l = .reverseOnly ∧ x ≠ 1 := by
  rw [directionOf_eq]
  by_cases hone : x = 1
  · cases l <;> simp [DirectionLock.forbids, hone]
  · cases l <;> simp [DirectionLock.forbids, hone]

theorem balance_refused {s : State} {o : TakenOrder} {outcome : OutcomeCode} (hwf : s.xm.wf = true) (hrun : s.isRun = true)
    (htaken : orderTaken s o) (hkind : o.kind = 10)
    (hrefused : balanceRefusal s (directionOf (param8 o.params 1)) = some outcome) :
    refusedOrder s (balance s) o outcome [] := by
  have hmine : orderKind 10 o = true := by simp [orderKind, hkind]
  have hdirection : (newRun o.params o.slot s.tractionSet.dutyCap).direction = directionOf (param8 o.params 1) := rfl
  rw [balance, orderInHand_taken htaken hmine]
  simp only [orderRefusal_run hrun (k := o.kind) (by omega) (by omega), hdirection, hrefused]
  exact completeOrder_ends s o outcome [] hwf (slot_lt_of_taken htaken)

theorem balance_begins {s : State} {o : TakenOrder} (hrun : s.isRun = true) (htaken : orderTaken s o)
    (hkind : o.kind = 10) (hgoes : balanceRefusal s (directionOf (param8 o.params 1)) = none) :
    balance s = (s.beginRun (newRun o.params o.slot s.tractionSet.dutyCap)).dropOrder := by
  have hmine : orderKind 10 o = true := by simp [orderKind, hkind]
  have hdirection : (newRun o.params o.slot s.tractionSet.dutyCap).direction = directionOf (param8 o.params 1) := rfl
  rw [balance, orderInHand_taken htaken hmine]
  simp only [orderRefusal_run hrun (k := o.kind) (by omega) (by omega), hdirection, hgoes]

/-! ## The run begins (R105) -/

/-- The run made and the lease marked, before the derivation. -/
def runMarked (s : State) (r : BalanceRun) : State :=
  { s with
    port := withNotice s.port (if s.radio.lease = .none then [.control] else [])
    balance := { run := some r }, radio := { s.radio with lease := .onBoard true } }

theorem beginRun_eq (s : State) (r : BalanceRun) : s.beginRun r = (runMarked s r).derive := by
  have hmark : (s.onBalance fun b => { b with run := some r }).markLease = runMarked s r := by
    unfold State.markLease runMarked
    by_cases hnone : s.radio.lease = .none
    · have hnone' : (s.onBalance fun b => { b with run := some r }).radio.lease = .none := hnone
      simp only [if_pos hnone']
      rw [if_pos hnone]
      rfl
    · have hsome : ¬(s.onBalance fun b => { b with run := some r }).radio.lease = .none := hnone
      simp only [if_neg hsome]
      rw [if_neg hnone]
      rfl
  rw [State.beginRun, hmark]
  rfl

/-- A run that does not drive holds the stop mode (R75, R82). -/
theorem runMarked_derived {s : State} {r : BalanceRun} (hrun : s.isRun = true) (hrest : r.driving = false) :
    stateOf (runMarked s r) = .balance ∧ commandOf (runMarked s r) .balance = stopOf s := by
  have hrun' : (runMarked s r).isRun = true := hrun
  have hsome : (runMarked s r).balance.run ≠ none := Option.some_ne_none r
  refine ⟨by rw [stateOf, if_neg (by simp [hrun']), if_pos hsome], ?_⟩
  have hset : stopOf (runMarked s r) = stopOf s := rfl
  simp [commandOf, runMarked, hrest, ← hset]

theorem beginRun_begins {s : State} {r : BalanceRun} (hrun : s.isRun = true) (hrest : r.driving = false) :
    ∀ t, t = (s.beginRun r).dropOrder → t.balance.run = some r ∧ t.traction.state = .balance
      ∧ t.bridges.held = stopOf s ∧ bridgesTaken s.clock s.bridges t.bridges
      ∧ t = { s with
          orders := { s.orders with sweep := s.orders.sweep.map fun w => { w with current := none } }
          port := withNotice s.port (if s.radio.lease = .none then [.control] else [])
          traction := { s.traction with
            state := .balance, lowest := min s.traction.lowest t.bridges.drivenDuty }
          bridges := { s.bridges with held := t.bridges.held, a := t.bridges.a, b := t.bridges.b }
          balance := { run := some r }, radio := { s.radio with lease := .onBoard true } } := by
  obtain ⟨hstate, hcommand⟩ := runMarked_derived hrun hrest
  obtain ⟨htaken, hheld, hframe⟩ := derive_silent (s := runMarked s r) (by rw [hstate]; decide) (by rw [hstate]; decide)
  rw [hstate, hcommand] at hheld
  rw [hstate] at hframe
  rw [beginRun_eq]
  rintro t ht
  generalize (runMarked s r).derive = u at *
  have hbridges : t.bridges = u.bridges := by rw [ht]; rfl
  have htraction : t.traction = u.traction := by rw [ht]; rfl
  have hbalance : t.balance = u.balance := by rw [ht]; rfl
  refine ⟨?_, ?_, ?_, ?_, ?_⟩
  · rw [hbalance, hframe]
    rfl
  · rw [htraction, hframe]
  · rw [hbridges]
    exact hheld
  · rw [hbridges]
    exact htaken
  · rw [hbridges]
    refine ht.trans ?_
    conv_lhs => rw [hframe]
    rfl

/-- Settles O26, by the first failing check of R104. -/
theorem balanceOrderCreatesTheRunOrIsRefused : Obligations.BalanceOrderCreatesTheRunOrIsRefused := by
  refine ⟨?_, fun s o hwf hrun htaken hkind => ?_⟩
  · rintro s o hrun htaken hkind hnone hsensor hlease hstate hforward hreverse
    have hfree : ¬s.tractionSet.lock.forbids (directionOf (param8 o.params 1)) = true := by
      rw [forbids_iff]
      exact not_or.2 ⟨hforward, hreverse⟩
    have hgoes : balanceRefusal s (directionOf (param8 o.params 1)) = none := by
      rw [balanceRefusal, hnone, hsensor, (isRadio_false_iff _).2 hlease, hstate, if_neg (by simp), if_neg (by simp),
        if_neg (by simp), if_neg (by simp), if_neg hfree]
    obtain ⟨hsome, hbalance, hheld, htaken', hframe⟩ := beginRun_begins
      (r := newRun o.params o.slot s.tractionSet.dutyCap) hrun rfl _ rfl
    refine ⟨_, newRun o.params o.slot s.tractionSet.dutyCap,
      congrArg Host.Outcome.next (balance_begins hrun htaken hkind hgoes), hsome, rfl, rfl, rfl,
      newRun_duties _ _ _, rfl, directionOf_eq _, rfl, rfl, rfl, rfl, rfl, rfl, rfl, newRun_adjusted_iff _ _ _,
      hbalance, hheld, htaken', hframe⟩
  · have hrefused := fun outcome => balance_refused (outcome := outcome) hwf hrun htaken hkind
    refine ⟨fun hsome => ⟨_, rfl, hrefused _ ?_⟩, fun hnone hsensor => ⟨_, rfl, hrefused _ ?_⟩,
      fun hnone hsensor hradio => ⟨_, rfl, hrefused _ ?_⟩, fun hnone hsensor hlease hstate => ⟨_, rfl, hrefused _ ?_⟩,
      fun hnone hsensor hlease hstate hlock => ⟨_, rfl, hrefused _ ?_⟩⟩
    · rw [balanceRefusal, if_pos (Option.isSome_iff_ne_none.2 hsome)]
    · rw [balanceRefusal, hnone, if_neg (by simp), if_pos hsensor]
    · obtain ⟨sender, cls, heard, hlease⟩ := hradio
      rw [balanceRefusal, hnone, hsensor, hlease, if_neg (by simp), if_neg (by simp)]
      rfl
    · rw [balanceRefusal, hnone, hsensor, (isRadio_false_iff _).2 hlease, if_neg (by simp), if_neg (by simp),
        if_neg (by simp), if_pos hstate]
    · rw [balanceRefusal, hnone, hsensor, (isRadio_false_iff _).2 hlease, hstate, if_neg (by simp), if_neg (by simp),
        if_neg (by simp), if_neg (by simp), if_pos ((forbids_iff _ _).2 hlock)]

/-! ## Hold and resume (R109) -/

/-- The run's slot state written, and nothing else of memory. -/
theorem slotState_written {s : State} (hwf : s.xm.wf = true) {n m : Nat} (hn : n < 32) (hne : n ≠ m)
    (v : Byte) : ∀ x, x = s.xm.write (slotBase n) v → x.wf = true ∧ x.read (slotBase n) = v
      ∧ sameBut s.xm x (fun a => a = slotBase n) ∧ ¬inSlot m (slotBase n) := by
  rintro x rfl
  refine ⟨Memory.wf_write _ _ hwf, Memory.read_write_same _ _ hwf, fun a ha hout => ?_, ?_⟩
  · refine Memory.read_write_other _ hwf ?_
    simp only [slotBase] at hout ⊢
    omega
  · simp only [inSlot, slotBase]
    omega

/-- A run that is held: its record, its slot state, and the stop mode handed. -/
def runHeld (s : State) (r : BalanceRun) : State :=
  ({ s with
    xm := s.xm.write (slotBase r.slot) 4, lastGranted := .orderEngine, traction := { s.traction with u := 0 }
    balance := { run := some { r with
      held := true, driving := false, period := 0, sum := 0, count := 0
      heldTimer := some (s.clock + 60000 * 1024000) } } } : State).handCommand (stopCommand s.tractionSet)

theorem holdRun_held {s : State} {r : BalanceRun} (hsome : s.balance.run = some r) (hfree : r.held = false) :
    s.holdRun = (runHeld s r, .ok) := by
  rw [State.holdRun, hsome]
  simp only [hfree, Bool.false_eq_true, if_false, State.onRun, State.onBalance, hsome]
  rfl

/-- A run that is resumed. -/
def runResumed (s : State) (r : BalanceRun) : State :=
  { s with
    xm := s.xm.write (slotBase r.slot) 2, lastGranted := .orderEngine
    balance := { run := some { r with held := false, heldTimer := none } } }

theorem resumeRun_resumed {s : State} {r : BalanceRun} (hsome : s.balance.run = some r) (hheld : r.held = true) :
    s.resumeRun = (runResumed s r, .ok) := by
  rw [State.resumeRun, hsome]
  simp only [hheld, if_true, State.onRun, State.onBalance, hsome]
  rfl

/-- A HOLD_BALANCE or RESUME_BALANCE that changes nothing. -/
theorem runOrder_noRun {s : State} {o : TakenOrder} {k : Nat} {act : State → State × OutcomeCode} (hwf : s.xm.wf = true)
    (hrun : s.isRun = true) (htaken : orderTaken s o) (hlow : 1 ≤ k) (hhigh : k ≤ 14) (hkind : o.kind = k)
    (hact : act s = (s, .noRun)) :
    refusedOrder s (s.runOrder (orderKind k) fun s _ => ((act s).1, (act s).2, [])) o .noRun [] :=
  runOrder_ends (mine := orderKind k) (act := fun s _ => ((act s).1, (act s).2, [])) hrun htaken (by omega) (by omega)
    (by simp [orderKind, hkind]) (by rw [hact]) hwf

theorem holdBalance_holds {s : State} {o : TakenOrder} {r : BalanceRun} (hwf : s.xm.wf = true) (hrun : s.isRun = true)
    (htaken : orderTaken s o) (hsome : s.balance.run = some r) (hslot : r.slot < 32) (hne : r.slot ≠ o.slot)
    (hkind : o.kind = 11) (hfree : r.held = false) : ∀ t, t = holdBalance s →
      slotDone t.xm o.slot .ok 0 [] ∧ t.xm.read (slotBase r.slot) = 4
        ∧ sameBut s.xm t.xm (fun a => inSlot o.slot a ∨ a = slotBase r.slot)
        ∧ t.bridges.held = stopCommand s.tractionSet ∧ bridgesTaken s.clock s.bridges t.bridges
        ∧ t = { s with
            xm := t.xm, lastGranted := .orderEngine, orders := ordersAfter s o
            port := withNotice s.port [.order]
            traction := { s.traction with u := 0, lowest := min s.traction.lowest t.bridges.drivenDuty }
            bridges := { s.bridges with held := t.bridges.held, a := t.bridges.a, b := t.bridges.b }
            balance := { run := some { r with
              held := true, driving := false, period := 0, sum := 0, count := 0
              heldTimer := some (s.clock + 60000 * 1024000) } } } := by
  intro t ht
  have hoslot := slot_lt_of_taken htaken
  obtain ⟨hwf', hread, hsame, hout⟩ := slotState_written hwf hslot hne 4 _ rfl
  have hact := holdRun_held hsome hfree
  have hhand := State.handCommand_eq
    { s with
      xm := s.xm.write (slotBase r.slot) 4, lastGranted := .orderEngine, traction := { s.traction with u := 0 }
      balance := { run := some { r with
        held := true, driving := false, period := 0, sum := 0, count := 0
        heldTimer := some (s.clock + 60000 * 1024000) } } } (stopCommand s.tractionSet)
  have hbridges := s.bridges.hand_taken s.clock (stopCommand s.tractionSet)
  rw [show State.handCommand _ _ = runHeld s r from rfl] at hhand
  have huxm : (runHeld s r).xm = s.xm.write (slotBase r.slot) 4 := by rw [hhand]
  obtain ⟨hdone, hsame', hframe⟩ := runOrder_ends (mine := orderKind 11)
    (act := fun s _ => (s.holdRun.1, s.holdRun.2, [])) hrun htaken (by omega) (by omega) (by simp [orderKind, hkind])
    (t := runHeld s r) (by rw [hact]) (by rw [huxm]; exact hwf')
  rw [show s.runOrder (orderKind 11) (fun s _ => (s.holdRun.1, s.holdRun.2, [])) = t from ht.symm] at hdone hsame' hframe
  have htbridges : t.bridges = { s.bridges with
      held := stopCommand s.tractionSet, a := (s.bridges.hand s.clock (stopCommand s.tractionSet)).a
      b := (s.bridges.hand s.clock (stopCommand s.tractionSet)).b } := by rw [hframe, hhand]
  rw [huxm] at hsame'
  refine ⟨hdone, ?_, ?_, by rw [htbridges], ?_, ?_⟩
  · rw [hsame' _ (by simp only [slotBase]; omega) hout]
    exact hread
  · exact sameBut_trans (sameBut_weaken hsame fun a => .inr) (sameBut_weaken hsame' fun a => .inl)
  · rw [htbridges]
    rw [bridgesTaken, BridgeUnit.hand_held] at hbridges
    exact hbridges
  · have horders : ordersAfter (runHeld s r) o = ordersAfter s o := by rw [hhand]; rfl
    have hport : (runHeld s r).port = s.port := by rw [hhand]
    rw [horders, hport] at hframe
    rw [htbridges]
    refine hframe.trans ?_
    conv_lhs => rw [hhand]

theorem resumeBalance_resumes {s : State} {o : TakenOrder} {r : BalanceRun} (hwf : s.xm.wf = true) (hrun : s.isRun = true)
    (htaken : orderTaken s o) (hsome : s.balance.run = some r) (hslot : r.slot < 32) (hne : r.slot ≠ o.slot)
    (hkind : o.kind = 12) (hheld : r.held = true) : ∀ t, t = resumeBalance s →
      slotDone t.xm o.slot .ok 0 [] ∧ t.xm.read (slotBase r.slot) = 2
        ∧ sameBut s.xm t.xm (fun a => inSlot o.slot a ∨ a = slotBase r.slot)
        ∧ t = { s with
            xm := t.xm, lastGranted := .orderEngine, orders := ordersAfter s o
            port := withNotice s.port [.order]
            balance := { run := some { r with held := false, heldTimer := none } } } := by
  intro t ht
  have hoslot := slot_lt_of_taken htaken
  obtain ⟨hwf', hread, hsame, hout⟩ := slotState_written hwf hslot hne 2 _ rfl
  have hact := resumeRun_resumed hsome hheld
  obtain ⟨hdone, hsame', hframe⟩ := runOrder_ends (mine := orderKind 12)
    (act := fun s _ => (s.resumeRun.1, s.resumeRun.2, [])) hrun htaken (by omega) (by omega) (by simp [orderKind, hkind])
    (t := runResumed s r) (by rw [hact]) hwf'
  rw [show s.runOrder (orderKind 12) (fun s _ => (s.resumeRun.1, s.resumeRun.2, [])) = t from ht.symm] at hdone hsame' hframe
  refine ⟨hdone, ?_, ?_, hframe⟩
  · rw [hsame' _ (by simp only [slotBase]; omega) hout]
    exact hread
  · exact sameBut_trans (sameBut_weaken hsame fun a => .inr) (sameBut_weaken hsame' fun a => .inl)

/-- Settles O27, by the state of the run; the hold's expiry is an end of R108. -/
theorem balanceRunsAreHeldAndResumed : Obligations.BalanceRunsAreHeldAndResumed := by
  refine ⟨fun s o r hwf hrun htaken hsome hslot hne => ⟨fun hkind hfree => ⟨_, rfl,
      holdBalance_holds hwf hrun htaken hsome hslot hne hkind hfree _ rfl⟩, fun hkind hheld => ⟨_, rfl,
      resumeBalance_resumes hwf hrun htaken hsome hslot hne hkind hheld _ rfl⟩, fun hkind hheld => ⟨_, rfl,
      runOrder_noRun hwf hrun htaken (by decide) (by decide) hkind ?_⟩, fun hkind hfree => ⟨_, rfl,
      runOrder_noRun hwf hrun htaken (by decide) (by decide) hkind ?_⟩⟩,
    fun s o hwf hrun htaken hnone => ⟨fun hkind => ⟨_, rfl,
      runOrder_noRun hwf hrun htaken (by decide) (by decide) hkind ?_⟩, fun hkind => ⟨_, rfl,
      runOrder_noRun hwf hrun htaken (by decide) (by decide) hkind ?_⟩⟩,
    fun s r due hwf hsome hdue hslot hvoices => ⟨_, rfl, ?_⟩⟩
  · rw [State.holdRun, hsome]
    simp only [hheld, if_true]
  · rw [State.resumeRun, hsome]
    simp only [hfree, Bool.false_eq_true, if_false]
  · rw [State.holdRun, hnone]
  · rw [State.resumeRun, hnone]
  · have hexpiry : balanceHeldTimerExpiry s = (s.reach due).closeRun r .aborted 0 := by
      have hreached : (s.reach due).balance.run = some r := hsome
      rw [balanceHeldTimerExpiry, hsome]
      simp only [hdue]
      rw [State.endRun, hreached]
    rw [hexpiry]
    exact ⟨closeRun_ended (s := s.reach due) .aborted hwf hvoices hslot,
      ((s.reach due).closeRun_closes r .aborted 0 hwf hvoices hslot).1⟩

end Sys2Proof.BalanceRuns
end

section
/-! PROOFS. CLEAR_FAULTS (R98, R99, R173, R179, R182): the bridges one after the other, then lamps, heater and fan, and the
masks of the result. -/

namespace Sys2Proof.FaultClears

open Sys2Proof Sys2Proof.Machine Sys2Proof.Safety Sys2Proof.Notices Sys2Proof.EmergencyStops Sys2Proof.LampLoads

/-! ## Derivations and the bridges -/

/-- The bridges take the command of a derivation, whatever is known of the voices (R75, R87). -/
theorem derive_taken (s : State) : bridgesTaken s.clock s.bridges s.derive.bridges := by
  have hreport := reportOnly_reportTraction (s.onTraction fun t => { t with state := derivedState s }) s.traction.state
  obtain ⟨c, hderive⟩ : ∃ c, s.derive = ((s.onTraction fun t => { t with state := derivedState s }).reportTraction
      s.traction.state).handCommand c := ⟨_, rfl⟩
  generalize (s.onTraction fun t => { t with state := derivedState s }).reportTraction s.traction.state = u
    at hreport hderive
  have hbridges : u.bridges = s.bridges := by
    rw [hreport]
    rfl
  have hclock : u.clock = s.clock := by
    rw [hreport]
    rfl
  have htaken := u.bridges.hand_taken u.clock c
  rw [hbridges, hclock] at htaken
  rw [hderive, State.handCommand_eq, hbridges, hclock]
  rw [bridgesTaken, BridgeUnit.hand_held] at htaken
  exact htaken

theorem derive_cfg (s : State) : s.derive.bridges.cfg = s.bridges.cfg := by rw [derive_eq]

theorem derive_latched_iff (s : State) (id : BridgeId) :
    (s.derive.bridges.get id).state = .latched ↔ (s.bridges.get id).state = .latched := by
  obtain ⟨ha, hparallel, hsingle⟩ := derive_taken s
  cases id with
  | a => exact latched_taken ha
  | b =>
    cases hmode : s.bridges.cfg.mode with
    | parallel => exact latched_taken (hparallel hmode)
    | single =>
      have hsame : s.derive.bridges.get .b = s.bridges.get .b := hsingle hmode
      rw [hsame]

/-! ## One bridge -/

/-- A bridge released, before its departure is reported (R99). -/
def released (s : State) (id : BridgeId) : State :=
  { s with bridges := s.bridges.set id ((s.bridges.get id).release s.clock s.bridges.held) }

theorem clearBridge_eq (s : State) (id : BridgeId) : s.clearBridge id =
    if (s.bridges.get id).state = .latched then (released s id).tractionLatchReport else released s id := rfl

theorem get_set (u : BridgeUnit) (id j : BridgeId) (b : Bridge) : (u.set id b).get j = if j = id then b else u.get j := by
  cases id <;> cases j <;> rfl

theorem release_not_latched (b : Bridge) (now : Nat) (c : Command) : (b.release now c).state ≠ .latched := by
  rw [Bridge.release_eq]
  split
  · show stateNamed c ≠ .latched
    cases c <;> simp [stateNamed]
  · next hfree => exact hfree

theorem released_latched_iff (s : State) (id j : BridgeId) :
    ((released s id).bridges.get j).state = .latched ↔ (s.bridges.get j).state = .latched ∧ j ≠ id := by
  have hget : (released s id).bridges.get j = if j = id then (s.bridges.get id).release s.clock s.bridges.held
      else s.bridges.get j := get_set _ _ _ _
  rw [hget]
  by_cases hj : j = id
  · simp [hj, release_not_latched]
  · simp [hj]

theorem clearBridge_latched_iff (s : State) (id j : BridgeId) :
    ((s.clearBridge id).bridges.get j).state = .latched ↔ (s.bridges.get j).state = .latched ∧ j ≠ id := by
  rw [clearBridge_eq, ← released_latched_iff]
  split
  · rw [State.tractionLatchReport, derive_latched_iff]
    split <;> exact Iff.rfl
  · exact Iff.rfl

/-- What the clear of a bridge reaches. -/
def clearReach (s t : State) : Prop :=
  t = { s with
    xm := t.xm, port := t.port, status := t.status, sound := t.sound, traction := t.traction
    bridges := { s.bridges with held := t.bridges.held, a := t.bridges.a, b := t.bridges.b }
    radio := { s.radio with station := t.radio.station } }

theorem clearReach_trans {s t u : State} (h : clearReach s t) (h' : clearReach t u) : clearReach s u := by
  unfold clearReach at h h' ⊢
  refine h'.trans ?_
  conv_lhs => rw [h]

theorem clearReach_released (s : State) (id : BridgeId) : clearReach s (released s id) := by
  cases id <;> rfl

theorem clearReach_derive (s : State) : clearReach s s.derive := by
  have hframe := derive_eq s
  unfold clearReach
  generalize s.derive = t at hframe
  have htraction : t.traction = { s.traction with state := t.traction.state, lowest := t.traction.lowest } := by
    conv_lhs => rw [hframe]
  rw [htraction]
  exact hframe

theorem clearReach_clearBridge (s : State) (id : BridgeId) : clearReach s (s.clearBridge id) := by
  rw [clearBridge_eq]
  split
  · refine clearReach_trans (clearReach_released s id) ?_
    rw [State.tractionLatchReport]
    split
    · have hzeroed : clearReach (released s id) ((released s id).onTraction Traction.zeroed) := rfl
      exact clearReach_trans hzeroed (clearReach_derive _)
    · exact clearReach_derive _
  · exact clearReach_released s id

/-- The clear of a bridge keeps the law of the voices, and writes segment bytes alone. -/
theorem clearBridge_kept {s : State} (id : BridgeId) (hwf : s.xm.wf = true) (hvoices : voicesLawful s) :
    voicesLawful (s.clearBridge id) ∧ sameBut s.xm (s.clearBridge id).xm inSegments := by
  rw [clearBridge_eq]
  split
  · rw [State.tractionLatchReport]
    split
    · exact State.derive_kept ((released s id).onTraction Traction.zeroed) hwf hvoices
    · exact State.derive_kept (released s id) hwf hvoices
  · exact ⟨hvoices, sameBut_refl _ _⟩

/-- Bridge B of a SINGLE part stays OFF. -/
theorem clearBridge_single {s : State} (hsingle : s.bridges.cfg.mode = .single → s.bridges.b.state = .off) :
    (s.clearBridge .a).bridges.cfg.mode = .single → (s.clearBridge .a).bridges.b.state = .off := by
  have hframe := clearReach_clearBridge s .a
  have hcfg : (s.clearBridge .a).bridges.cfg = s.bridges.cfg := by rw [hframe]
  rw [hcfg]
  intro hmode
  have hderived : ∀ u : State, u.bridges.cfg = s.bridges.cfg → u.bridges.b = s.bridges.b →
      u.derive.bridges.b.state = .off := by
    intro u hcfg hb
    obtain ⟨-, -, hsame⟩ := derive_taken u
    rw [hsame (by rw [hcfg]; exact hmode), hb]
    exact hsingle hmode
  rw [clearBridge_eq]
  split
  · rw [State.tractionLatchReport]
    split
    · exact hderived _ rfl rfl
    · exact hderived _ rfl rfl
  · exact hsingle hmode

/-! ## The whole mask (R98) -/

/-- Both bridges, as the mask names them (log 42). -/
def bridgesCleared (s : State) (mask : BitVec 32) : State :=
  (fun u : State => if mask.getLsbD 1 then u.clearBridge .b else u) (if mask.getLsbD 0 then s.clearBridge .a else s)

/-- The lamps, the heater and the fan once the mask has acted on them. -/
def lampsCleared (s : State) (mask : BitVec 32) : LampUnit :=
  let heater := if mask.getLsbD 12 then s.lamps.heater.clear else s.lamps.heater
  { s.lamps with
    lamps := mapFrom (fun n l => if mask.getLsbD (n + 2) then l.clear else l) 0 s.lamps.lamps
    heater := heater
    fan := if mask.getLsbD 13 = true ∧ s.lamps.fan.state = .latched then
        (if heater.state = .regulate then { s.lamps.fan with state := .run, fast := decide (s.traction.c ≠ 0) }
        else { s.lamps.fan with state := .off })
      else s.lamps.fan }

/-- The lamp and smoke unit cleared, the bridges being done. -/
theorem clearLamps_eq (v : State) (mask : BitVec 32) :
    (fun w : State => if mask.getLsbD 13 then w.clearFan else w)
        (if mask.getLsbD 12 then (v.clearLamps mask).onHeater Heater.clear else v.clearLamps mask)
      = { v with lamps := lampsCleared v mask } := by
  have hheater : (if mask.getLsbD 12 then (v.clearLamps mask).onHeater Heater.clear else v.clearLamps mask)
      = { v with lamps := { v.lamps with
          lamps := mapFrom (fun n l => if mask.getLsbD (n + 2) then l.clear else l) 0 v.lamps.lamps
          heater := if mask.getLsbD 12 then v.lamps.heater.clear else v.lamps.heater } } := by
    cases mask.getLsbD 12 <;> rfl
  rw [hheater]
  unfold lampsCleared
  generalize (if mask.getLsbD 12 = true then v.lamps.heater.clear else v.lamps.heater) = heater
  cases mask.getLsbD 13 with
  | false => rfl
  | true =>
    simp only [if_true, State.clearFan, true_and]
    by_cases hlatched : v.lamps.fan.state = .latched
    · simp only [if_pos hlatched]
      split <;> rfl
    · simp only [if_neg hlatched]

theorem clearMask_eq (s : State) (mask : BitVec 32) :
    s.clearMask mask = { bridgesCleared s mask with lamps := lampsCleared (bridgesCleared s mask) mask } := by
  rw [← clearLamps_eq]
  rfl

theorem clearReach_bridges (s : State) (mask : BitVec 32) : clearReach s (bridgesCleared s mask) := by
  unfold bridgesCleared
  simp only
  have hfirst : clearReach s (if mask.getLsbD 0 = true then s.clearBridge .a else s) := by
    split
    · exact clearReach_clearBridge s .a
    · rfl
  split
  · exact clearReach_trans hfirst (clearReach_clearBridge _ .b)
  · exact hfirst

theorem bridgesCleared_latched_iff (s : State) (mask : BitVec 32) :
    ((bridgesCleared s mask).bridges.a.state = .latched ↔ s.bridges.a.state = .latched ∧ mask.getLsbD 0 = false)
      ∧ ((bridgesCleared s mask).bridges.b.state = .latched ↔ s.bridges.b.state = .latched ∧ mask.getLsbD 1 = false) := by
  have hclear : ∀ (u : State) (id : BridgeId), ((u.clearBridge id).bridges.a.state = .latched
      ↔ u.bridges.a.state = .latched ∧ BridgeId.a ≠ id)
      ∧ ((u.clearBridge id).bridges.b.state = .latched ↔ u.bridges.b.state = .latched ∧ BridgeId.b ≠ id) :=
    fun u id => ⟨clearBridge_latched_iff u id .a, clearBridge_latched_iff u id .b⟩
  unfold bridgesCleared
  cases mask.getLsbD 0 <;> cases mask.getLsbD 1 <;> simp [hclear]

theorem bridgesCleared_wf {s : State} (mask : BitVec 32) (hwf : s.xm.wf = true) : (bridgesCleared s mask).xm.wf = true := by
  unfold bridgesCleared
  cases mask.getLsbD 0 <;> cases mask.getLsbD 1 <;> simp [hwf]

/-- With neither bridge LATCHED nothing but their short-run counts changes. -/
theorem bridgesCleared_unlatched {s : State} (mask : BitVec 32) (ha : s.bridges.a.state ≠ .latched)
    (hb : s.bridges.b.state ≠ .latched) : ∃ bridges, bridgesCleared s mask = { s with bridges := bridges } := by
  have hclear : ∀ (u : State) (id : BridgeId), (u.bridges.get id).state ≠ .latched → u.clearBridge id = released u id :=
    fun u id h => (clearBridge_eq u id).trans (if_neg h)
  unfold bridgesCleared
  cases mask.getLsbD 0 with
  | false =>
    cases mask.getLsbD 1 with
    | false => exact ⟨_, rfl⟩
    | true => exact ⟨_, hclear s .b hb⟩
  | true =>
    have hfirst := hclear s .a ha
    cases mask.getLsbD 1 with
    | false => exact ⟨_, hfirst⟩
    | true =>
      simp only [if_true, hfirst]
      exact ⟨_, hclear (released s .a) .b hb⟩

/-- Bridge A is cleared and then bridge B, each as R99 tells. -/
theorem bridgesCleared_cleared {s : State} (mask : BitVec 32) (hwf : s.xm.wf = true) (hvoices : voicesLawful s)
    (hsingle : s.bridges.cfg.mode = .single → s.bridges.b.state = .off) :
    ∃ u : State, (if mask.getLsbD 0 then bridgeCleared s u .a else u = s)
      ∧ (if mask.getLsbD 1 then bridgeCleared u (bridgesCleared s mask) .b else bridgesCleared s mask = u)
      ∧ sameBut s.xm (bridgesCleared s mask).xm inSegments := by
  unfold bridgesCleared
  refine ⟨if mask.getLsbD 0 then s.clearBridge .a else s, ?_, ?_, ?_⟩
  · cases mask.getLsbD 0 with
    | false => rfl
    | true => exact s.clearBridge_cleared .a hwf hvoices hsingle
  · cases mask.getLsbD 1 with
    | false => rfl
    | true =>
      cases mask.getLsbD 0 with
      | false => exact s.clearBridge_cleared .b hwf hvoices hsingle
      | true =>
        exact State.clearBridge_cleared _ .b (s.clearBridge_wf .a hwf) (clearBridge_kept .a hwf hvoices).1
          (clearBridge_single hsingle)
  · obtain ⟨hvoices', hsame⟩ : voicesLawful (if mask.getLsbD 0 then s.clearBridge .a else s)
        ∧ sameBut s.xm (if mask.getLsbD 0 then s.clearBridge .a else s).xm inSegments := by
      split
      · exact clearBridge_kept .a hwf hvoices
      · exact ⟨hvoices, sameBut_refl _ _⟩
    have hwf' : (if mask.getLsbD 0 then s.clearBridge .a else s).xm.wf = true := by
      split
      · exact s.clearBridge_wf .a hwf
      · exact hwf
    simp only
    generalize (if mask.getLsbD 0 = true then s.clearBridge .a else s) = u at *
    split
    · exact sameBut_trans hsame (clearBridge_kept .b hwf' hvoices').2
    · exact hsame

/-! ## The order -/

theorem getLsbD_mask (mask k : Nat) (hmask : mask < 2 ^ 32) : (BitVec.ofNat 32 mask).getLsbD k = mask.testBit k := by
  rw [BitVec.getLsbD_ofNat]
  by_cases hk : k < 32
  · simp [hk]
  · rw [Nat.testBit_lt_two_pow (Nat.lt_of_lt_of_le hmask (Nat.pow_le_pow_right (by decide) (Nat.le_of_not_lt hk)))]
    simp

theorem param32_lt (ps : List Byte) (k : Nat) : param32 ps k < 2 ^ 32 := by
  have h8 : ∀ k, param8 ps k < 256 := fun k => BitVec.isLt _
  have h0 := h8 k
  have h1 := h8 (k + 1)
  have h2 := h8 (k + 2)
  have h3 := h8 (k + 2 + 1)
  simp only [param32, param16]
  omega

/-- CLEAR_FAULTS passes the common checks in QUIET as in RUN (R19). -/
theorem clearFaults_ends {s : State} {o : TakenOrder} (hwf : s.xm.wf = true) (htaken : orderTaken s o)
    (hkind : o.kind = 13) : ∀ w, w = s.clearMask (BitVec.ofNat 32 (param32 o.params 0)) →
      refusedOrder w (clearFaults s) o (if param32 o.params 0 < 16384 then .ok else .adjusted)
        (bytes16 (clearedMask s w) ++ bytes16 (latchedMask w)) := by
  rintro w rfl
  have hmine : orderKind 13 o = true := by simp [orderKind, hkind]
  have hpasses : orderRefusal s o.kind = none := by simp [orderRefusal, hkind]
  have hwf' : (s.clearMask (BitVec.ofNat 32 (param32 o.params 0))).xm.wf = true := by
    rw [clearMask_eq]
    exact bridgesCleared_wf _ hwf
  rw [clearFaults, State.runOrder, orderInHand_taken htaken hmine]
  simp only [hpasses]
  exact completeOrder_ends _ o _ _ hwf' (slot_lt_of_taken htaken)

/-- The indications of R98 show bridges, lamps, heater and fan alone. -/
theorem latchedBit_congr {s t : State} (hbridges : t.bridges = s.bridges) (hlamps : t.lamps = s.lamps) (k : Nat) :
    latchedBit t k = latchedBit s k := by
  simp only [latchedBit, hbridges, hlamps]

/-- Settles O28, bit by bit of the mask. -/
theorem clearFaultsActsOnTheNamedFaults : Obligations.ClearFaultsActsOnTheNamedFaults := by
  rintro s o mask hwf htaken hkind rfl
  have hbit : ∀ k, (BitVec.ofNat 32 (param32 o.params 0)).getLsbD k = (param32 o.params 0).testBit k :=
    fun k => getLsbD_mask _ k (param32_lt _ _)
  obtain ⟨hdone, hsame, hframe⟩ := clearFaults_ends hwf htaken hkind _ rfl
  refine ⟨_, rfl, ?_⟩
  generalize clearFaults s = t at *
  rw [clearMask_eq] at hdone hsame hframe
  obtain ⟨hlatchedA, hlatchedB⟩ := bridgesCleared_latched_iff s (BitVec.ofNat 32 (param32 o.params 0))
  have hreach := clearReach_bridges s (BitVec.ofNat 32 (param32 o.params 0))
  have hcleared := bridgesCleared_cleared (s := s) (BitVec.ofNat 32 (param32 o.params 0)) hwf
  have hunlatched := bridgesCleared_unlatched (s := s) (BitVec.ofNat 32 (param32 o.params 0))
  rw [hbit] at hlatchedA hlatchedB
  simp only [hbit] at hcleared
  generalize hv : bridgesCleared s (BitVec.ofNat 32 (param32 o.params 0)) = v at *
  have hvlamps : v.lamps = s.lamps := by rw [hreach]
  have hbridges : t.bridges = v.bridges := by rw [hframe]
  have htraction : t.traction = v.traction := by rw [hframe]
  have hlamps : t.lamps = lampsCleared v (BitVec.ofNat 32 (param32 o.params 0)) := by rw [hframe]
  have horders : ∀ lamps, ordersAfter { v with lamps := lamps } o = ordersAfter s o := by
    intro lamps
    simp only [ordersAfter]
    rw [hreach]
  rw [horders] at hframe
  refine ⟨?_, ?_, fun n l hl => ?_, ?_, ?_, ?_, fun ha hb => ?_, fun hvoices hsingle => ?_, ?_, ?_, ?_, ?_, ?_, ?_, ?_⟩
  · rw [hbridges]
    exact hlatchedA
  · rw [hbridges]
    exact hlatchedB
  · rw [hlamps, lampsCleared]
    simp only [getElem?_mapFrom, hvlamps, hl, Option.map_some, Nat.zero_add, hbit]
    rfl
  · rw [hlamps, lampsCleared]
    simp only [hvlamps, hbit]
    unfold Heater.clear
    cases (param32 o.params 0).testBit 12 <;> cases s.lamps.heater.latched <;> rfl
  · have hregulate : (if (param32 o.params 0).testBit 12 = true then s.lamps.heater.clear else s.lamps.heater).state
        = .regulate ↔ s.lamps.heater.state = .regulate := by
      cases (param32 o.params 0).testBit 12 with
      | false => exact Iff.rfl
      | true =>
        simp only [if_true, Heater.clear]
        split
        · cases s.lamps.heater.state <;> simp
        · exact Iff.rfl
    rw [hlamps, lampsCleared]
    simp only [hvlamps, hbit, hregulate, ← htraction, and_comm]
  · refine ⟨_, _, fun k => ?_, fun k => ?_, hdone⟩
    · rw [clearedMask, testBit_maskOf, Bool.and_assoc]
      rw [latchedBit_congr (s := t) (t := { v with lamps := lampsCleared v (BitVec.ofNat 32 (param32 o.params 0)) }) hbridges.symm hlamps.symm]
    · rw [latchedMask, testBit_maskOf]
      rw [latchedBit_congr (s := t) (t := { v with lamps := lampsCleared v (BitVec.ofNat 32 (param32 o.params 0)) }) hbridges.symm hlamps.symm]
  · obtain ⟨bridges, hsv⟩ := hunlatched ha hb
    rw [hsv] at hsame hframe
    exact ⟨hsame, by rw [hframe], by rw [hframe], by rw [hframe], by rw [hframe]⟩
  · obtain ⟨u, hu, hv', hsegments⟩ := hcleared hvoices hsingle
    refine ⟨u, v, hu, hv', hsame, ?_, ?_⟩
    · exact sameBut_trans (sameBut_weaken hsegments fun a => .inr) (sameBut_weaken hsame fun a => .inl)
    · have hrest : { v.lamps with lamps := t.lamps.lamps, heater := t.lamps.heater, fan := t.lamps.fan } = t.lamps := by
        rw [hlamps]
        rfl
      rw [hrest, hlamps]
      exact hframe
  · rw [hframe]
  · rw [hframe, hreach]
  · rw [hframe, hreach]
  · rw [hframe, hreach]
  · rw [hframe, hreach]
  · rw [hframe, hreach]
  · rw [hframe, hreach]

end Sys2Proof.FaultClears
end

section
/-! PROOFS. Edges and the stall expiry of the motion unit (R48 to R50, R53, R56). -/

namespace Sys2Proof.AxleEdges
open Sys2Proof.Machine

/-- R48, by the configured edge. -/
theorem selects_iff (c : MotionConfig) (rising : Bool) : c.selects rising = true ↔
    c.magnets ≠ 0 ∧ (c.edge = .both ∨ c.edge = .rise ∧ rising = true ∨ c.edge = .fall ∧ rising = false) := by
  cases he : c.edge <;> simp [MotionConfig.selects, he]

theorem axleEdge_unselected {s : State} {rising : Bool} (hno : s.motion.cfg.selects rising = false)
    (time : BitVec 32) : axleEdge rising time s = s := by
  simp [axleEdge, hno]

theorem bounce_of_close {mo : Motion} {time e : BitVec 32} (hlast : mo.lastEdge = some e)
    (hclose : (time - e).toNat < 100) : mo.bounce time = true := by
  simp only [Motion.bounce, hlast]
  exact decide_eq_true hclose

theorem bounce_of_far {mo : Motion} {time : BitVec 32} (hfar : ∀ e, mo.lastEdge = some e → 100 ≤ (time - e).toNat) :
    mo.bounce time = false := by
  unfold Motion.bounce
  split
  · next e he => simpa using hfar e he
  · rfl

/-- A stall expiry that is not yet due does not come before the edge (log 29). -/
theorem stallBefore_of_le {s : State} {now : Nat} (hdue : ∀ due, s.motion.stall = some due → now ≤ due) :
    s.stallBefore now = s := by
  unfold State.stallBefore
  split
  · next d hd => exact if_neg (Nat.not_lt.2 (hdue d hd))
  · rfl

/-- A selected edge is bounce or accepted (R49, R50). -/
theorem axleEdge_selected {s : State} {rising : Bool} {time : BitVec 32} (hselects : s.motion.cfg.selects rising = true)
    (hdue : ∀ due, s.motion.stall = some due → captureMoment s time ≤ due) :
    axleEdge rising time s = if s.motion.bounce time then s
      else (s.reach (captureMoment s time)).onMotion fun mo => mo.acceptEdge time (captureMoment s time) := by
  simp only [axleEdge, if_pos hselects, stallBefore_of_le hdue]

/-- The ring and the rate that the period before an edge leaves (R50). -/
theorem takePeriod_eq (mo : Motion) (time : BitVec 32) :
    mo.takePeriod time = { mo with ring := (mo.takePeriod time).ring, m := (mo.takePeriod time).m }
      ∧ (∀ e, mo.lastEdge = some e →
          (mo.takePeriod time).ring = pushPeriod mo.ring mo.cfg.magnets (time - e).toNat
          ∧ (mo.takePeriod time).m = ringRate (mo.takePeriod time).ring)
      ∧ (mo.lastEdge = none → (mo.takePeriod time).ring = mo.ring ∧ (mo.takePeriod time).m = mo.m) := by
  by_cases hnone : mo.lastEdge = none
  · have hsame : mo.takePeriod time = mo := by simp only [Motion.takePeriod, hnone]
    rw [hsame]
    exact ⟨rfl, fun e he => (nomatch hnone.symm.trans he), fun _ => ⟨rfl, rfl⟩⟩
  · obtain ⟨e, he⟩ := Option.ne_none_iff_exists'.1 hnone
    simp [Motion.takePeriod, he]

/-- What an edge leaves of the sensor state (R56). -/
theorem recoverEdge_eq (mo : Motion) :
    mo.recoverEdge = { mo with
      sensor := mo.recoverEdge.sensor, recovery := mo.recoverEdge.recovery, mark := mo.recoverEdge.mark }
      ∧ (mo.sensor = .lost → if mo.recovery + 1 < 2 * mo.cfg.magnets then
            mo.recoverEdge.sensor = .lost ∧ mo.recoverEdge.recovery = mo.recovery + 1 ∧ mo.recoverEdge.mark = mo.mark
          else mo.recoverEdge.sensor = .ok ∧ mo.recoverEdge.recovery = 0 ∧ mo.recoverEdge.mark = true)
      ∧ (mo.sensor ≠ .lost → mo.recoverEdge = mo) := by
  by_cases hlost : mo.sensor = .lost
  · by_cases hmore : mo.recovery + 1 < 2 * mo.cfg.magnets
    · have hcounts : mo.recoverEdge = { mo with recovery := mo.recovery + 1 } := by
        rw [Motion.recoverEdge, if_pos hlost, if_neg (Nat.not_le.2 hmore)]
      simp [hcounts, hlost, hmore]
    · have hreturns : mo.recoverEdge = { mo with sensor := .ok, recovery := 0, mark := true } := by
        rw [Motion.recoverEdge, if_pos hlost, if_pos (Nat.not_lt.1 hmore)]
      simp [hreturns, hlost, hmore]
  · have hsame : mo.recoverEdge = mo := by rw [Motion.recoverEdge, if_neg hlost]
    simp [hsame, hlost]

theorem ringRate_pushPeriod (ring : List Nat) (magnets period : Nat) : ringRate (pushPeriod ring magnets period)
    = min 65535 (16000000 * (pushPeriod ring magnets period).length / (pushPeriod ring magnets period).sum) := by
  simp [ringRate, pushPeriod]

/-- An accepted edge, field by field (R50, R56). -/
theorem acceptEdge_eq (mo : Motion) (time : BitVec 32) (now : Nat) (mo' : Motion) (h : mo' = mo.acceptEdge time now) :
    (∀ e, mo.lastEdge = some e →
        mo'.ring = (if mo.cfg.magnets ≤ mo.ring.length then mo.ring.drop 1 else mo.ring) ++ [(time - e).toNat]
        ∧ mo'.m = min 65535 (16000000 * mo'.ring.length / mo'.ring.sum))
      ∧ (mo.lastEdge = none → mo'.ring = mo.ring ∧ mo'.m = mo.m)
      ∧ (mo.sensor = .lost → if mo.recovery + 1 < 2 * mo.cfg.magnets then
            mo'.sensor = .lost ∧ mo'.recovery = mo.recovery + 1 ∧ mo'.mark = mo.mark
          else mo'.sensor = .ok ∧ mo'.recovery = 0 ∧ mo'.mark = true)
      ∧ (mo.sensor ≠ .lost → mo'.sensor = mo.sensor ∧ mo'.recovery = mo.recovery ∧ mo'.mark = mo.mark)
      ∧ mo' = { mo with
          lastEdge := some time, ring := mo'.ring, m := mo'.m
          p := if mo.p + 1 < mo.cfg.magnets then mo.p + 1 else 0
          sensor := mo'.sensor, loss := 0, recovery := mo'.recovery, stall := some (now + ms mo.cfg.window)
          mark := mo'.mark, edgeSinceStep := true } := by
  obtain ⟨hperiod, hsome, hnone⟩ := takePeriod_eq mo time
  obtain ⟨hrecover, hlost, hkept⟩ := recoverEdge_eq (mo.takePeriod time)
  have hp : (if mo.p + 1 ≥ mo.cfg.magnets then 0 else mo.p + 1) = if mo.p + 1 < mo.cfg.magnets then mo.p + 1 else 0 := by
    by_cases hlt : mo.p + 1 < mo.cfg.magnets
    · rw [if_neg (by omega), if_pos hlt]
    · rw [if_pos (by omega), if_neg hlt]
  subst h
  simp only [Motion.acceptEdge, hp]
  generalize (mo.takePeriod time).recoverEdge = recovered at *
  generalize mo.takePeriod time = taken at *
  have hring : recovered.ring = taken.ring := by rw [hrecover]
  have hm : recovered.m = taken.m := by rw [hrecover]
  have hsensor : taken.sensor = mo.sensor := by rw [hperiod]
  have hrecovery : taken.recovery = mo.recovery := by rw [hperiod]
  have hmark : taken.mark = mo.mark := by rw [hperiod]
  have hcfg : taken.cfg = mo.cfg := by rw [hperiod]
  rw [hsensor, hrecovery, hmark, hcfg] at hlost
  rw [hsensor] at hkept
  refine ⟨fun e he => ?_, fun hno => ?_, hlost, fun hok => ?_, ?_⟩
  · obtain ⟨hpush, hrate⟩ := hsome e he
    rw [hring, hm, hrate, hpush]
    exact ⟨rfl, ringRate_pushPeriod _ _ _⟩
  · rw [hring, hm]
    exact hnone hno
  · rw [hkept hok]
    exact ⟨hsensor, hrecovery, hmark⟩
  · rw [hrecover, hperiod]

/-- Settles O29: an edge by R48 and R49, and the stall expiry. -/
theorem axleEdgesAreTakenOrIgnored : Obligations.AxleEdgesAreTakenOrIgnored := by
  refine ⟨fun s rising time hno => ?_, fun s rising time hmagnets hedge hdue => ?_, fun s due hdue => ?_⟩
  · have hunselected : s.motion.cfg.selects rising = false := by
      rw [Bool.eq_false_iff, Ne, selects_iff]
      rintro ⟨hmagnets, hboth | ⟨hrise, hrising⟩ | ⟨hfall, hrising⟩⟩ <;> simp_all
    exact congrArg Host.Outcome.next (axleEdge_unselected hunselected time)
  · have hact := axleEdge_selected (time := time) ((selects_iff _ _).2 ⟨hmagnets, hedge⟩) hdue
    refine ⟨fun e he hclose => ?_, fun hfar => ?_⟩
    · rw [if_pos (bounce_of_close he hclose)] at hact
      exact congrArg Host.Outcome.next hact
    · rw [bounce_of_far hfar] at hact
      refine ⟨_, congrArg Host.Outcome.next hact, ?_⟩
      obtain ⟨hsome, hnone, hlost, hkept, hrest⟩ :=
        acceptEdge_eq s.motion time (captureMoment s time) _ rfl
      refine ⟨hsome, hnone, hlost, hkept, ?_⟩
      have hms : 1024000 * s.motion.cfg.window = ms s.motion.cfg.window := Nat.mul_comm _ _
      rw [hms]
      exact congrArg (fun mo => { s with clock := max s.clock (captureMoment s time), motion := mo }) hrest
  · simp only [exec, execStallTimerExpiry, stallTimerExpiry, hdue]
    rfl

end Sys2Proof.AxleEdges
end

section
/-! PROOFS. PWM periods and the end of an on-phase (R88, R89, R93, R95). -/

namespace Sys2Proof.PwmPeriods
open Sys2Proof.Machine Sys2Proof.Safety

/-! ## What a period and the end of an on-phase make of a bridge -/

/-- The end of an on-phase: the off-phase, and nothing of the on-phase left. -/
theorem endOnPhase_eq (b : Bridge) (now : Nat) : b.endOnPhase now = { b with
    gates := (b.endOnPhase now).gates, asked := offPhaseGates b.params.freewheel
    offAt := (b.endOnPhase now).offAt, phase := .offPhase, onEnd := none, conduct := none
    blanking := none, chopArmed := false } := rfl

theorem endOnPhase_within (b : Bridge) (now : Nat) :
    gatesWithin (b.endOnPhase now).gates (b.endOnPhase now).asked :=
  Bridge.ask_within _ _ _

/-- What conducts from the moment an on-phase begins changes the conduction and the blanking alone. -/
theorem noteConduct_eq (b : Bridge) (cfg : BridgeConfig) (now : Nat) : b.noteConduct cfg now = { b with
    conduct := (b.noteConduct cfg now).conduct, blanking := (b.noteConduct cfg now).blanking } := by
  unfold Bridge.noteConduct
  split <;> rfl

/-- The gates that a period asks for at first. -/
def periodAsks (p : DriveParams) : Gates := if p.duty = 0 then offPhaseGates p.freewheel else driveGates p.direction

theorem beginPeriod_within (b : Bridge) (cfg : BridgeConfig) (now : Nat) (p : DriveParams) :
    gatesWithin (b.beginPeriod cfg now p).gates (b.beginPeriod cfg now p).asked := by
  unfold Bridge.beginPeriod
  simp only
  split
  · exact endOnPhase_within _ _
  · rw [noteConduct_eq]
    exact Bridge.ask_within _ _ _

theorem beginPeriod_eq (b : Bridge) (cfg : BridgeConfig) (now : Nat) (p : DriveParams) :
    b.beginPeriod cfg now p = { b with
      gates := (b.beginPeriod cfg now p).gates, asked := periodAsks p, offAt := (b.beginPeriod cfg now p).offAt
      phase := if p.duty = 0 then .offPhase else .onPhase
      params := p, periodStart := now
      onEnd := if p.duty = 0 then none else some (now + p.duty * 50)
      conduct := (b.beginPeriod cfg now p).conduct, blanking := (b.beginPeriod cfg now p).blanking
      chopArmed := false, detected := false } := by
  unfold Bridge.beginPeriod periodAsks
  by_cases hzero : p.duty = 0
  · simp only [hzero, if_true]
    rfl
  · simp only [hzero, if_false]
    generalize hasks : Bridge.ask _ now (driveGates p.direction) = x
    have hx : x = { b with
        gates := x.gates, asked := driveGates p.direction, offAt := x.offAt, phase := .onPhase, params := p
        periodStart := now, onEnd := some (now + p.duty * 50), conduct := none, blanking := none, chopArmed := false
        detected := false } := by
      rw [← hasks]
      rfl
    have hgates : (x.noteConduct cfg now).gates = x.gates := by rw [noteConduct_eq]
    have hoff : (x.noteConduct cfg now).offAt = x.offAt := by rw [noteConduct_eq]
    rw [hgates, hoff]
    refine (noteConduct_eq x cfg now).trans ?_
    generalize (x.noteConduct cfg now).conduct = conduct, (x.noteConduct cfg now).blanking = blanking
    generalize x.gates = gates, x.offAt = offAt at hx
    rw [hx]

theorem nextPeriod_driven {b : Bridge} (cfg : BridgeConfig) (now : Nat) (p : DriveParams) (hstate : b.state = .drive) :
    b.nextPeriod cfg now (.drive p)
      = ({ b with shortRun := if b.detected then b.shortRun else 0 }).beginPeriod cfg now p :=
  if_pos hstate

theorem nextPeriod_idle {b : Bridge} (cfg : BridgeConfig) (now : Nat) (c : Command) (hstate : b.state ≠ .drive) :
    b.nextPeriod cfg now c = b := by
  unfold Bridge.nextPeriod
  split
  · exact if_neg hstate
  · rfl

theorem nextPeriod_rest (b : Bridge) (cfg : BridgeConfig) (now : Nat) {c : Command}
    (hrest : c = .off ∨ c = .brake ∨ c = .coast) : b.nextPeriod cfg now c = b := by
  rcases hrest with rfl | rfl | rfl <;> rfl

/-! ## The two commands -/

theorem pwmPeriod_eq (s : State) : pwmPeriod s = { s with
    clock := max s.clock s.timers.pwm
    timers := { s.timers with pwm := max s.clock s.timers.pwm + us 50 }
    bridges := { s.bridges with
      a := s.bridges.a.nextPeriod s.bridges.cfg (max s.clock s.timers.pwm) s.bridges.held
      b := s.bridges.b.nextPeriod s.bridges.cfg (max s.clock s.timers.pwm) s.bridges.held } } := rfl

theorem pwmPeriod_get (s : State) (id : BridgeId) : (pwmPeriod s).bridges.get id
    = (s.bridges.get id).nextPeriod s.bridges.cfg (max s.clock s.timers.pwm) s.bridges.held := by
  cases id <;> rfl

theorem set_get (u : BridgeUnit) (id : BridgeId) (b : Bridge) : (u.set id b).get id = b := by cases id <;> rfl

theorem onPhaseEnd_eq {s : State} {id : BridgeId} {e : Nat} (h : (s.bridges.get id).onEnd = some e) :
    onPhaseEnd id s = { s with
      clock := max s.clock e, bridges := s.bridges.set id ((s.bridges.get id).endOnPhase (max s.clock e)) } := by
  unfold onPhaseEnd
  rw [h]
  rfl

/-- Settles O35, by what a period makes of each bridge. -/
theorem pwmPeriodsDivideIntoPhases : Obligations.PwmPeriodsDivideIntoPhases := by
  unfold Obligations.PwmPeriodsDivideIntoPhases
  refine ⟨fun s p hheld => ⟨_, rfl, ?stays, ?begins, rfl⟩, fun s hheld => ?rest, fun s id e hend => ⟨_, rfl, ?ends, ?frame⟩⟩
  case stays =>
    intro id hstate
    rw [pwmPeriod_get]
    exact nextPeriod_idle _ _ _ hstate
  case begins =>
    rintro id hstate b rfl
    rw [pwmPeriod_get, hheld, nextPeriod_driven _ _ _ hstate]
    refine ⟨beginPeriod_within _ _ _ _, ?_, ?_⟩
    · rw [beginPeriod_eq]
      simp only [periodAsks]
      cases p.freewheel <;> cases p.direction <;> rfl
    · conv_lhs => rw [beginPeriod_eq]
      rw [show ((pwmPeriod s).clock) = max s.clock s.timers.pwm from rfl]
      congr 1
      rw [beginPeriod_eq]
  case rest =>
    have hstays : pwmPeriod s = { s with
        clock := max s.clock s.timers.pwm
        timers := { s.timers with pwm := max s.clock s.timers.pwm + 50 * 1024 } } := by
      have hrest : s.bridges.held = .off ∨ s.bridges.held = .brake ∨ s.bridges.held = .coast := hheld
      rw [pwmPeriod_eq, nextPeriod_rest _ _ _ hrest, nextPeriod_rest _ _ _ hrest]
      rfl
    exact congrArg Host.Outcome.next hstays
  case ends =>
    rintro b rfl
    rw [onPhaseEnd_eq hend]
    simp only [set_get]
    refine ⟨endOnPhase_within _ _, ?_, ?_⟩
    · rw [endOnPhase_eq]
      cases (s.bridges.get id).params.freewheel <;> rfl
    · exact endOnPhase_eq _ _
  case frame =>
    rw [onPhaseEnd_eq hend]
    simp only [set_get]

end Sys2Proof.PwmPeriods
end

section
/-! PROOFS. Dead time on both legs, blanking and chopping (R89 to R91). -/

namespace Sys2Proof.DeadTime
open Sys2Proof.Machine Sys2Proof.Safety Sys2Proof.PwmPeriods

/-! ## A leg whose gate waits -/

theorem waits_until {b : Bridge} {leg : Leg} {off : Nat} (h : legWaits b leg off) :
    b.waitingUntil leg = some (off + 512) := by
  obtain ⟨hgates, hwaits⟩ := h
  cases leg <;> simp only [legGates, legOffTimes, Prod.mk.injEq] at hgates hwaits <;>
    rcases hwaits with ⟨hask, hoff⟩ | ⟨⟨hhigh, hask⟩, hoff⟩ <;> simp_all [Bridge.waitingUntil, deadTime]

/-- The waiting gate of a leg turns on once the dead time is over. -/
theorem waiting_turns_on {high low askHigh askLow : Bool} {highOff lowOff : Option Nat} {off now : Nat}
    (hgates : high = false ∧ low = false) (hover : off + 512 ≤ now)
    (hwaits : askHigh = true ∧ lowOff = some off ∨ (askHigh = false ∧ askLow = true) ∧ highOff = some off) :
    highNext now high low askHigh askLow lowOff = askHigh ∧ lowNext now high low askHigh askLow highOff = !askHigh := by
  obtain ⟨rfl, rfl⟩ := hgates
  rcases hwaits with ⟨rfl, rfl⟩ | ⟨⟨rfl, rfl⟩, rfl⟩ <;>
    simp [highNext, lowNext, offTime, deadTimeOver, deadTime, hover]

theorem ask_leg {b : Bridge} {leg : Leg} {off now : Nat} (h : legWaits b leg off) (hover : off + 512 ≤ now) :
    legGates (b.ask now b.asked).gates leg = ((legGates b.asked leg).1, !(legGates b.asked leg).1) := by
  obtain ⟨hgates, hwaits⟩ := h
  cases leg <;> simp only [legGates, legOffTimes, Prod.mk.injEq] at hgates hwaits ⊢ <;>
    exact waiting_turns_on hgates hover hwaits

/-- Gates that stay asked for do not turn off. -/
theorem ask_offAt {b : Bridge} (now : Nat) (h : gatesWithin b.gates b.asked) : (b.ask now b.asked).offAt = b.offAt := by
  have hstays : ∀ (on asked : Bool) (off : Option Nat), (on = true → asked = true) → offTime now on asked off = off := by
    intro on asked off hasked
    cases on
    · rfl
    · simp [offTime, hasked rfl]
  obtain ⟨hhigh1, hlow1, hhigh2, hlow2⟩ := h
  simp only [Bridge.ask, hstays _ _ _ hhigh1, hstays _ _ _ hlow1, hstays _ _ _ hhigh2, hstays _ _ _ hlow2]

/-! ## The conduction (R90, R91) -/

theorem noteConduct_gates (b : Bridge) (cfg : BridgeConfig) (now : Nat) : (b.noteConduct cfg now).gates = b.gates := by
  rw [noteConduct_eq]

theorem chopThreshold_map (cfg : BridgeConfig) (due : Nat) :
    (cfg.chopThreshold.map fun _ => due) = if cfg.chopLevel = 0 then none else some due := by
  unfold BridgeConfig.chopThreshold
  split <;> rfl

/-- The driven high side that turns on in an on-phase begins the conduction and the blanking. -/
theorem noteConduct_begins {b : Bridge} (cfg : BridgeConfig) (now : Nat) (hphase : b.phase = .onPhase)
    (hnone : b.conduct = none) (hdriven : b.conducting = true) :
    (b.noteConduct cfg now).conduct = some now
      ∧ (b.noteConduct cfg now).blanking = if cfg.chopLevel = 0 then none else some (now + 2048) := by
  rw [Bridge.noteConduct, if_pos ⟨hphase, hnone, hdriven⟩]
  exact ⟨rfl, chopThreshold_map cfg _⟩

theorem noteConduct_stays {b : Bridge} (cfg : BridgeConfig) (now : Nat)
    (h : b.phase ≠ .onPhase ∨ b.conduct ≠ none ∨ b.conducting = false) : b.noteConduct cfg now = b := by
  refine if_neg ?_
  rintro ⟨hphase, hnone, hdriven⟩
  rcases h with h | h | h
  · exact h hphase
  · exact h hnone
  · exact Bool.false_ne_true (h.symm.trans hdriven)

/-! ## The three commands -/

/-- A bridge once its waiting gate may turn on. -/
def turned (s : State) (id : BridgeId) (now : Nat) : Bridge :=
  ((s.bridges.get id).ask now (s.bridges.get id).asked).noteConduct s.bridges.cfg now

theorem deadTimeExpiry_ends {s : State} {id : BridgeId} {leg : Leg} {off e : Nat} (h : legWaits (s.bridges.get id) leg off)
    (hends : (s.bridges.get id).phaseEnd s.timers.pwm = some e) (hbefore : e ≤ off + 512) :
    deadTimeExpiry id leg s = s := by
  simp only [deadTimeExpiry, waits_until h, hends]
  exact if_neg (by simpa using hbefore)

theorem deadTimeExpiry_turns {s : State} {id : BridgeId} {leg : Leg} {off : Nat} (h : legWaits (s.bridges.get id) leg off)
    (hlasts : ∀ e, (s.bridges.get id).phaseEnd s.timers.pwm = some e → off + 512 < e) :
    deadTimeExpiry id leg s = { s with
      clock := max s.clock (off + 512), bridges := s.bridges.set id (turned s id (max s.clock (off + 512))) } := by
  simp only [deadTimeExpiry, waits_until h]
  refine (if_pos ?_).trans rfl
  rw [Option.all_eq_true]
  exact fun e he => decide_eq_true (hlasts e he)

theorem turned_eq (s : State) (id : BridgeId) (now : Nat) : turned s id now = { s.bridges.get id with
    gates := (turned s id now).gates, offAt := (turned s id now).offAt
    conduct := (turned s id now).conduct, blanking := (turned s id now).blanking } := by
  unfold turned
  generalize hasked : (s.bridges.get id).ask now (s.bridges.get id).asked = x
  have hx : x = { s.bridges.get id with gates := x.gates, offAt := x.offAt } := by
    rw [← hasked]
    rfl
  have hgates := noteConduct_gates x s.bridges.cfg now
  have hoff : (x.noteConduct s.bridges.cfg now).offAt = x.offAt := by rw [noteConduct_eq]
  rw [hgates, hoff]
  refine (noteConduct_eq x s.bridges.cfg now).trans ?_
  generalize (x.noteConduct s.bridges.cfg now).conduct = conduct, (x.noteConduct s.bridges.cfg now).blanking = blanking
  generalize x.gates = gates, x.offAt = offAt at hx
  rw [hx]

theorem turned_gates (s : State) (id : BridgeId) (now : Nat) :
    (turned s id now).gates = ((s.bridges.get id).ask now (s.bridges.get id).asked).gates :=
  noteConduct_gates _ _ _

theorem turned_offAt (s : State) (id : BridgeId) (now : Nat) :
    (turned s id now).offAt = ((s.bridges.get id).ask now (s.bridges.get id).asked).offAt := by
  unfold turned
  rw [noteConduct_eq]

theorem turned_begins (s : State) (id : BridgeId) (now : Nat) (hphase : (s.bridges.get id).phase = .onPhase)
    (hnone : (s.bridges.get id).conduct = none)
    (hdriven : ((s.bridges.get id).ask now (s.bridges.get id).asked).conducting = true) :
    (turned s id now).conduct = some now
      ∧ (turned s id now).blanking = if s.bridges.cfg.chopLevel = 0 then none else some (now + 2048) :=
  noteConduct_begins _ _ hphase hnone hdriven

theorem turned_stays (s : State) (id : BridgeId) (now : Nat)
    (h : (s.bridges.get id).phase ≠ .onPhase ∨ (s.bridges.get id).conduct ≠ none
      ∨ ((s.bridges.get id).ask now (s.bridges.get id).asked).conducting = false) :
    turned s id now = (s.bridges.get id).ask now (s.bridges.get id).asked :=
  noteConduct_stays _ _ h

theorem blankingEnd_eq {s : State} {id : BridgeId} {due e : Nat} (hdue : (s.bridges.get id).blanking = some due)
    (hend : (s.bridges.get id).onEnd = some e) : blankingEnd id s = if due ≤ e then
      { s with
        clock := max s.clock due
        bridges := s.bridges.set id { s.bridges.get id with blanking := none, chopArmed := true } }
      else s := by
  simp only [blankingEnd, hdue, hend, Option.all_some, decide_eq_true_eq]
  rfl

theorem chop_stays {s : State} {id : BridgeId} {millivolts : Nat}
    (h : s.bridges.cfg.chopLevel = 0 ∨ (s.bridges.get id).chopArmed = false
      ∨ senseCode millivolts < senseThreshold s.bridges.cfg.chopLevel s.bridges.cfg.gain) : chop id millivolts s = s := by
  simp only [chop, BridgeConfig.chopThreshold]
  split
  · next threshold hthreshold =>
    split at hthreshold
    · exact absurd hthreshold (by simp)
    · next hon =>
      cases hthreshold
      refine if_neg ?_
      rintro ⟨harmed, hreached⟩
      rcases h with h | h | h
      · exact hon h
      · exact Bool.false_ne_true (h.symm.trans harmed)
      · exact absurd hreached (Nat.not_le_of_lt h)
  · rfl

theorem chop_ends {s : State} {id : BridgeId} {millivolts : Nat} (hon : s.bridges.cfg.chopLevel ≠ 0)
    (harmed : (s.bridges.get id).chopArmed = true)
    (hreached : senseThreshold s.bridges.cfg.chopLevel s.bridges.cfg.gain ≤ senseCode millivolts) :
    chop id millivolts s = { s with
      bridges := s.bridges.set id (({ s.bridges.get id with chopRunning := true }).endOnPhase s.clock) } := by
  simp only [chop, BridgeConfig.chopThreshold, if_neg hon]
  exact if_pos ⟨harmed, hreached⟩

/-- Settles O36, by what the waiting gate's dead time, the blanking's end and a chop make of the bridge. -/
theorem deadTimeBlankingAndChop : Obligations.DeadTimeBlankingAndChop := by
  unfold Obligations.DeadTimeBlankingAndChop
  refine ⟨?dead, ?blank, ?chop⟩
  case dead =>
    rintro s id leg off b rfl hwaits ends rfl
    refine ⟨fun ⟨e, hends, hbefore⟩ => congrArg Host.Outcome.next (deadTimeExpiry_ends hwaits hends hbefore), fun hlasts => ?_⟩
    have hover : off + 512 ≤ max s.clock (off + 512) := Nat.le_max_right _ _
    refine ⟨_, congrArg Host.Outcome.next (deadTimeExpiry_turns hwaits hlasts), ?_, ?_, ?_, ?_, ?_⟩
    · simp only [set_get, turned_gates]
      exact ask_leg hwaits hover
    · rintro driven rfl
      simp only [set_get, turned_gates]
      refine ⟨fun hphase hnone hdriven => turned_begins s id _ hphase hnone hdriven, fun hstays => ?_⟩
      rw [turned_stays s id _ hstays]
      exact ⟨rfl, rfl⟩
    · intro hwithin
      simp only [set_get, turned_gates, turned_offAt]
      exact ⟨ask_offAt _ hwithin, Bridge.ask_within _ _ _⟩
    · simp only [set_get]
      exact turned_eq _ _ _
    · simp only [set_get]
  case blank =>
    rintro s id due e b rfl hdue hend
    exact congrArg Host.Outcome.next (blankingEnd_eq hdue hend)
  case chop =>
    rintro s id millivolts b rfl
    refine ⟨fun hstays => congrArg Host.Outcome.next (chop_stays hstays), fun hon harmed hreached => ?_⟩
    refine ⟨_, congrArg Host.Outcome.next (chop_ends hon harmed hreached), ?_, ?_, ?_, ?_⟩
    · simp only [set_get]
      rw [endOnPhase_eq]
      cases (s.bridges.get id).params.freewheel <;> rfl
    · simp only [set_get]
      exact endOnPhase_within _ _
    · simp only [set_get]
      exact endOnPhase_eq _ _
    · simp only [set_get]

end Sys2Proof.DeadTime
end

section
/-! PROOFS. The laws that a block of the part keeps by itself, whatever the others hold: of the bridges (R87, R89, R94), the
actual direction (R67), the repeat table (R119), the supply (R191), the fan (R181) and the voices (R140). Here is what each
change of a block asks of its law. -/

namespace Sys2Proof.BlockLaws
open Sys2Proof.Machine Sys2Proof.Safety

/-- The laws of single blocks; the actual direction's says that it is a given one, and the host port's that run state, start
and reset are given ones. -/
inductive Law where
  | bridges
  | direction (d : Direction)
  | repeats
  | supply
  | fan
  | voices
  | port (state : RunState) (start : Option StartJob) (reset : Option ResetJob)
  | lease
  | noRun

def Law.holds : Law → State → Prop
  | .bridges, s => bridgesLawful s
  | .direction d, s => s.traction.direction = d
  | .repeats, s => repeatsLawful s
  | .supply, s => supplyLawful s
  | .fan, s => fanLawful s
  | .voices, s => voicesLawful s
  | .port state start reset, s => s.port.run = state ∧ s.port.start = start ∧ s.port.reset = reset
  | .lease, s => s.balance.run ≠ none ↔ s.radio.lease = .onBoard true
  | .noRun, s => s.balance.run = none

/-- The laws that a regulation step keeps: all but the actual direction's. -/
def Law.steady : Law → Prop
  | .direction _ => False
  | .bridges | .repeats | .supply | .fan | .voices | .port _ _ _ | .lease | .noRun => True

/-- The laws that a start, a teardown and a reset's writes keep: all but the host port's. -/
def Law.portless : Law → Prop
  | .port _ _ _ => False
  | .bridges | .direction _ | .repeats | .supply | .fan | .voices | .lease | .noRun => True

/-! ## Time -/

theorem deadOver_mono {off : Option Nat} {now later : Nat} (hle : now ≤ later) (h : deadOver off now) :
    deadOver off later :=
  fun t ht => Nat.le_trans (h t ht) hle

theorem bridgeLawful_mono {b : Bridge} {now later : Nat} (hle : now ≤ later) (h : bridgeLawful b now) :
    bridgeLawful b later := by
  obtain ⟨hsafe, hwithin, hrest, h1, h2, h3, h4⟩ := h
  exact ⟨hsafe, hwithin, hrest, fun hg => deadOver_mono hle (h1 hg), fun hg => deadOver_mono hle (h2 hg),
    fun hg => deadOver_mono hle (h3 hg), fun hg => deadOver_mono hle (h4 hg)⟩

/-- Time passes under every law. -/
@[simp] theorem reach_lawful {l : Law} {s : State} (due : Nat) (h : l.holds s) : l.holds (s.reach due) := by
  have hle : s.clock ≤ max s.clock due := Nat.le_max_left _ _
  cases l with
  | bridges => exact ⟨bridgeLawful_mono hle h.1, bridgeLawful_mono hle h.2⟩
  | fan => exact ⟨h.1, Nat.le_trans h.2.1 hle, h.2.2⟩
  | direction _ | repeats | supply | voices | port _ _ _ | lease | noRun => exact h

theorem atClock_lawful {l : Law} {s : State} {now : Nat} (hle : s.clock ≤ now) (h : l.holds s) :
    l.holds (s.atClock now) := by
  have hreach : s.reach now = s.atClock now := by rw [State.reach, Nat.max_eq_right hle]
  exact hreach ▸ reach_lawful now h

/-! ## Blocks of which no law speaks, and fields of the others -/

section
variable {l : Law} {s : State}

@[simp] theorem onXm_lawful (f : Memory → Memory) : l.holds (s.onXm f) ↔ l.holds s := by cases l <;> exact Iff.rfl
@[simp] theorem onPort_lawful {f : Port → Port}
    (hf : ∀ p, (f p).run = p.run ∧ (f p).start = p.start ∧ (f p).reset = p.reset) : l.holds (s.onPort f) ↔ l.holds s := by
  cases l with
  | port _ _ _ => simp only [Law.holds, State.onPort, hf]
  | bridges | direction _ | repeats | supply | fan | voices | lease | noRun => exact Iff.rfl

theorem onPort_portless {f : Port → Port} (hl : l.portless) : l.holds (s.onPort f) ↔ l.holds s := by
  cases l with
  | port _ _ _ => exact hl.elim
  | bridges | direction _ | repeats | supply | fan | voices | lease | noRun => exact Iff.rfl
@[simp] theorem onOrders_lawful (f : OrderEngine → OrderEngine) : l.holds (s.onOrders f) ↔ l.holds s := by cases l <;> exact Iff.rfl
@[simp] theorem onStatus_lawful (f : StatusWriter → StatusWriter) : l.holds (s.onStatus f) ↔ l.holds s := by cases l <;> exact Iff.rfl
@[simp] theorem onTimers_lawful (f : Timers → Timers) : l.holds (s.onTimers f) ↔ l.holds s := by cases l <;> exact Iff.rfl
@[simp] theorem onSets_lawful (f : SetManager → SetManager) : l.holds (s.onSets f) ↔ l.holds s := by cases l <;> exact Iff.rfl
@[simp] theorem onMotion_lawful (f : Motion → Motion) : l.holds (s.onMotion f) ↔ l.holds s := by cases l <;> exact Iff.rfl
@[simp] theorem onBalance_lawful {f : Balance → Balance} (hf : ∀ b, (f b).run = none ↔ b.run = none) :
    l.holds (s.onBalance f) ↔ l.holds s := by
  cases l with
  | lease => simp only [Law.holds, State.onBalance, ne_eq, hf]
  | noRun => exact hf _
  | bridges | direction _ | repeats | supply | fan | voices | port _ _ _ => exact Iff.rfl
@[simp] theorem onHeater_lawful (f : Heater → Heater) : l.holds (s.onHeater f) ↔ l.holds s := by cases l <;> exact Iff.rfl
@[simp] theorem onRequest_lawful (f : Request → Request) : l.holds (s.onRequest f) ↔ l.holds s := by cases l <;> exact Iff.rfl
@[simp] theorem granted_lawful (r : Requester) : l.holds (s.granted r) ↔ l.holds s := by cases l <;> exact Iff.rfl
@[simp] theorem drawn_lawful (n : Nat) : l.holds (s.drawn n) ↔ l.holds s := by cases l <;> exact Iff.rfl
@[simp] theorem onLamp_lawful (n : Nat) (f : Lamp → Lamp) : l.holds (s.onLamp n f) ↔ l.holds s := by
  cases l <;> exact Iff.rfl
@[simp] theorem onEachLamp_lawful (f : Nat → Lamp → Lamp) : l.holds (s.onEachLamp f) ↔ l.holds s := by
  cases l <;> exact Iff.rfl
@[simp] theorem queue_lawful (q : List Instr) : l.holds { s with pending := q } ↔ l.holds s := by
  cases l <;> exact Iff.rfl

theorem onTraction_steady {f : Traction → Traction} (hsteady : l.steady) (h : l.holds s) : l.holds (s.onTraction f) := by
  cases l with
  | direction _ => exact hsteady.elim
  | bridges | repeats | supply | fan | voices | port _ _ _ | lease | noRun => exact h

@[simp] theorem onTraction_lawful {f : Traction → Traction} (hf : ∀ t, (f t).direction = t.direction) :
    l.holds (s.onTraction f) ↔ l.holds s := by
  cases l with
  | direction _ => exact ⟨(hf _).symm.trans, (hf _).trans⟩
  | bridges | repeats | supply | fan | voices | port _ _ _ | lease | noRun => exact Iff.rfl

@[simp] theorem onRadio_lawful {f : Radio → Radio} (hf : ∀ r, (f r).repeats = r.repeats ∧ (f r).lease = r.lease) :
    l.holds (s.onRadio f) ↔ l.holds s := by
  cases l with
  | repeats => simp only [Law.holds, repeatsLawful, State.onRadio, hf]
  | lease => simp only [Law.holds, State.onRadio, hf]
  | bridges | direction _ | supply | fan | voices | port _ _ _ | noRun => exact Iff.rfl

/-- A change of the lease, which the law of the balance mark alone speaks of. -/
theorem onRadio_lease {f : Radio → Radio} (hf : ∀ r, (f r).repeats = r.repeats)
    (hlease : l = .lease → (f s.radio).lease ≠ .onBoard true ∧ s.radio.lease ≠ .onBoard true) (h : l.holds s) :
    l.holds (s.onRadio f) := by
  cases l with
  | repeats => simpa only [Law.holds, repeatsLawful, State.onRadio, hf] using h
  | lease =>
    obtain ⟨hnew, hold⟩ := hlease rfl
    exact iff_of_false (fun hrun => hold (h.1 hrun)) hnew
  | bridges | direction _ | supply | fan | voices | port _ _ _ | noRun => exact h

theorem onRadio_repeats {f : Radio → Radio} (hlease : ∀ r, (f r).lease = r.lease)
    (hf : repeatsLawful s → repeatsLawful (s.onRadio f)) (h : l.holds s) : l.holds (s.onRadio f) := by
  cases l with
  | repeats => exact hf h
  | lease => simpa only [Law.holds, State.onRadio, hlease] using h
  | bridges | direction _ | supply | fan | voices | port _ _ _ | noRun => exact h

@[simp] theorem onSupply_lawful {f : Supply → Supply} (hthermal : ∀ u, (f u).thermal = u.thermal)
    (hlevel : ∀ u, (f u).level = u.level) (hshed : ∀ u, (f u).shed = u.shed) :
    l.holds (s.onSupply f) ↔ l.holds s := by
  cases l with
  | supply => simp only [Law.holds, supplyLawful, State.onSupply, hthermal, hlevel, hshed]
  | bridges | direction _ | repeats | fan | voices | port _ _ _ | lease | noRun => exact Iff.rfl

theorem onSupply_supply {f : Supply → Supply} (hf : l = .supply → supplyLawful (s.onSupply f)) (h : l.holds s) :
    l.holds (s.onSupply f) := by
  cases l with
  | supply => exact hf rfl
  | bridges | direction _ | repeats | fan | voices | port _ _ _ | lease | noRun => exact h

@[simp] theorem onFan_lawful {f : Fan → Fan} (hleg : ∀ v, (f v).leg = v.leg)
    (hperiod : ∀ v, (f v).periodStart = v.periodStart) (hsince : ∀ v, (f v).since = v.since) :
    l.holds (s.onFan f) ↔ l.holds s := by
  cases l with
  | fan => simp only [Law.holds, fanLawful, State.onFan, State.onLamps, hleg, hperiod, hsince]
  | bridges | direction _ | repeats | supply | voices | port _ _ _ | lease | noRun => exact Iff.rfl

@[simp] theorem onLamps_lawful {f : LampUnit → LampUnit} (hf : ∀ u, (f u).fan = u.fan) :
    l.holds (s.onLamps f) ↔ l.holds s := by
  cases l with
  | fan => simp only [Law.holds, fanLawful, State.onLamps, hf]
  | bridges | direction _ | repeats | supply | voices | port _ _ _ | lease | noRun => exact Iff.rfl

@[simp] theorem onSound_lawful {f : Sound → Sound} (hf : ∀ u, (f u).voices = u.voices) :
    l.holds (s.onSound f) ↔ l.holds s := by
  cases l with
  | voices => simp only [Law.holds, voicesLawful, State.onSound, hf]
  | bridges | direction _ | repeats | supply | fan | port _ _ _ | lease | noRun => exact Iff.rfl

theorem onSound_voices {f : Sound → Sound} (hf : voicesLawful s → voicesLawful (s.onSound f)) (h : l.holds s) :
    l.holds (s.onSound f) := by
  cases l with
  | voices => exact hf h
  | bridges | direction _ | repeats | supply | fan | port _ _ _ | lease | noRun => exact h

theorem onBridges_lawful {f : BridgeUnit → BridgeUnit}
    (ha : bridgeLawful s.bridges.a s.clock → bridgeLawful (f s.bridges).a s.clock)
    (hb : bridgeLawful s.bridges.b s.clock → bridgeLawful (f s.bridges).b s.clock) (h : l.holds s) :
    l.holds (s.onBridges f) := by
  cases l with
  | bridges => exact ⟨ha h.1, hb h.2⟩
  | direction _ | repeats | supply | fan | voices | port _ _ _ | lease | noRun => exact h

/-- A change of one bridge. -/
theorem onBridge_lawful {id : BridgeId} {f : BridgeUnit → Bridge}
    (hf : bridgeLawful (s.bridges.get id) s.clock → bridgeLawful (f s.bridges) s.clock) (h : l.holds s) :
    l.holds (s.onBridges fun u => u.set id (f u)) := by
  cases id with
  | a => exact onBridges_lawful hf (fun h => h) h
  | b => exact onBridges_lawful (fun h => h) hf h

end

/-! ## The gates of a leg (R89) -/

/-- What R89 says of the two gates of one leg. -/
def legLawful (high low askHigh askLow : Bool) (highOff lowOff : Option Nat) (now : Nat) : Prop :=
  ¬(high = true ∧ low = true) ∧ (high = true → askHigh = true) ∧ (low = true → askLow = true)
    ∧ (high = true → deadOver lowOff now) ∧ (low = true → deadOver highOff now)

theorem deadTimeOver_iff (off : Option Nat) (now : Nat) : deadTimeOver off now = true ↔ deadOver off now := by
  cases off <;> simp [deadTimeOver, deadOver]

/-- A gate that was off keeps the time of its turn-off. -/
theorem offTime_off (now : Nat) (asked : Bool) (off : Option Nat) : offTime now false asked off = off := rfl

/-- The gates of a leg keep R89 when others are asked for: whichever is on afterwards was on, its partner then being
off, or came on after the dead time of its partner. -/
theorem legLawful_ask {high low oldHigh oldLow : Bool} {highOff lowOff : Option Nat} {now : Nat} (askHigh askLow : Bool)
    (h : legLawful high low oldHigh oldLow highOff lowOff now) :
    legLawful (highNext now high low askHigh askLow lowOff) (lowNext now high low askHigh askLow highOff) askHigh askLow
      (offTime now high askHigh highOff) (offTime now low askLow lowOff) now := by
  obtain ⟨hsafe, -, -, hhigh, hlow⟩ := h
  have hnotboth : ¬(highNext now high low askHigh askLow lowOff = true ∧ lowNext now high low askHigh askLow highOff = true) := by
    cases askHigh <;> simp [highNext, lowNext]
  refine ⟨hnotboth, fun hon => ?_, fun hon => ?_, fun hon => ?_, fun hon => ?_⟩
  · simp only [highNext, Bool.and_eq_true] at hon
    exact hon.1
  · simp only [lowNext, Bool.and_eq_true] at hon
    exact hon.1.1
  · cases high with
    | true =>
      have hoff : low = false := by simpa using hsafe
      rw [hoff, offTime_off]
      exact hhigh rfl
    | false =>
      simp only [highNext, Bool.false_or, Bool.and_eq_true] at hon
      exact (deadTimeOver_iff _ _).1 hon.2.2
  · cases low with
    | true =>
      have hoff : high = false := by simpa using hsafe
      rw [hoff, offTime_off]
      exact hlow rfl
    | false =>
      simp only [lowNext, Bool.false_or, Bool.and_eq_true] at hon
      exact (deadTimeOver_iff _ _).1 hon.2.2

/-! ## One bridge -/

/-- A bridge's gates keep R89: the law of a bridge but for what a rest pattern says. -/
def gatesLawful (b : Bridge) (now : Nat) : Prop := gatesSafe b.gates ∧ gatesWithin b.gates b.asked ∧ deadTimeLawful b now

theorem gatesLawful_iff (b : Bridge) (now : Nat) : gatesLawful b now ↔
    legLawful b.gates.high1 b.gates.low1 b.asked.high1 b.asked.low1 b.offAt.high1 b.offAt.low1 now
      ∧ legLawful b.gates.high2 b.gates.low2 b.asked.high2 b.asked.low2 b.offAt.high2 b.offAt.low2 now := by
  unfold gatesLawful gatesSafe gatesWithin deadTimeLawful legLawful
  tauto

theorem bridgeLawful_iff (b : Bridge) (now : Nat) : bridgeLawful b now ↔ gatesLawful b now ∧ restLawful b := by
  unfold bridgeLawful gatesLawful
  tauto

/-- Gates may be asked for at any moment. -/
theorem ask_gates {b : Bridge} {now : Nat} (asked : Gates) (h : gatesLawful b now) : gatesLawful (b.ask now asked) now := by
  rw [gatesLawful_iff] at h ⊢
  exact ⟨legLawful_ask _ _ h.1, legLawful_ask _ _ h.2⟩

theorem noteConduct_eq (b : Bridge) (cfg : BridgeConfig) (now : Nat) :
    b.noteConduct cfg now = { b with
      conduct := (b.noteConduct cfg now).conduct, blanking := (b.noteConduct cfg now).blanking } := by
  unfold Bridge.noteConduct
  split <;> rfl

theorem noteConduct_lawful {b : Bridge} {now : Nat} (cfg : BridgeConfig) (h : bridgeLawful b now) :
    bridgeLawful (b.noteConduct cfg now) now := by
  unfold Bridge.noteConduct
  split
  · next hphase =>
    obtain ⟨hsafe, hwithin, hrest, hdead⟩ := h
    refine ⟨hsafe, hwithin, fun hstate => ?_, hdead⟩
    obtain ⟨-, hidle, -⟩ := hrest hstate
    exact absurd (hphase.1.symm.trans hidle) (by decide)
  · exact h

/-- A bridge in DRIVE has no rest pattern to keep. -/
theorem bridgeLawful_of_drive {b : Bridge} {now : Nat} (hstate : b.state = .drive) (h : gatesLawful b now) :
    bridgeLawful b now :=
  (bridgeLawful_iff b now).2 ⟨h, fun hno => absurd hstate hno⟩

theorem endOnPhase_gates {b : Bridge} {now : Nat} (h : gatesLawful b now) : gatesLawful (b.endOnPhase now) now := by
  unfold Bridge.endOnPhase
  have hno : gatesLawful (b.noPhase .offPhase) now := h
  exact ask_gates _ hno

theorem beginPeriod_gates {b : Bridge} {now : Nat} (cfg : BridgeConfig) (p : DriveParams) (h : gatesLawful b now) :
    gatesLawful (b.beginPeriod cfg now p) now := by
  unfold Bridge.beginPeriod
  simp only
  split
  · have hfresh : gatesLawful { b with params := p, periodStart := now, detected := false } now := h
    exact endOnPhase_gates hfresh
  · rw [noteConduct_eq]
    exact ask_gates (b := { ({ b with params := p, periodStart := now, detected := false } : Bridge).noPhase .onPhase with
      onEnd := some (now + onPhase p.duty) }) _ h

theorem beginPeriod_state (b : Bridge) (cfg : BridgeConfig) (now : Nat) (p : DriveParams) :
    (b.beginPeriod cfg now p).state = b.state := by
  unfold Bridge.beginPeriod
  simp only
  split
  · rfl
  · rw [noteConduct_eq]
    rfl

theorem beginPeriod_lawful {b : Bridge} {now : Nat} (cfg : BridgeConfig) (p : DriveParams) (hstate : b.state = .drive)
    (h : gatesLawful b now) : bridgeLawful (b.beginPeriod cfg now p) now :=
  bridgeLawful_of_drive ((beginPeriod_state _ _ _ _).trans hstate) (beginPeriod_gates cfg p h)

/-- A bridge out of DRIVE takes the pattern of its new state (R87). -/
theorem rest_lawful {b : Bridge} {now : Nat} (state : BridgeState) {asked : Gates}
    (hasked : state ≠ .drive → asked = restPattern state) (h : gatesLawful b now) :
    bridgeLawful (b.rest now state asked) now := by
  refine (bridgeLawful_iff _ _).2 ⟨?_, fun hstate => ⟨hasked hstate, rfl, rfl, rfl, rfl⟩⟩
  exact ask_gates (b := { b.noPhase .idle with state := state, shortRun := 0, detected := false }) asked h

theorem take_lawful {b : Bridge} {now : Nat} (cfg : BridgeConfig) (c : Command) (h : bridgeLawful b now) :
    bridgeLawful (b.take cfg now c) now := by
  obtain ⟨hgates, -⟩ := (bridgeLawful_iff _ _).1 h
  unfold Bridge.take
  split
  · exact h
  · cases c with
    | off => exact rest_lawful .off (fun _ => rfl) hgates
    | coast => exact rest_lawful .coast (fun _ => rfl) hgates
    | brake => exact rest_lawful .brake (fun _ => rfl) hgates
    | drive p =>
      simp only
      split
      · exact h
      · exact beginPeriod_lawful (b := { b with state := .drive, shortRun := 0 }) cfg p rfl hgates

theorem latch_lawful {b : Bridge} {now : Nat} (h : bridgeLawful b now) : bridgeLawful (b.latch now) now :=
  rest_lawful .latched (fun _ => rfl) ((bridgeLawful_iff _ _).1 h).1

theorem release_lawful {b : Bridge} {now : Nat} (c : Command) (h : bridgeLawful b now) :
    bridgeLawful (b.release now c) now := by
  obtain ⟨hgates, -⟩ := (bridgeLawful_iff _ _).1 h
  unfold Bridge.release
  split
  · cases c with
    | off => exact rest_lawful .off (fun _ => rfl) hgates
    | coast => exact rest_lawful .coast (fun _ => rfl) hgates
    | brake => exact rest_lawful .brake (fun _ => rfl) hgates
    | drive _ => exact rest_lawful .drive (fun hno => absurd rfl hno) hgates
  · exact h

/-- An on-phase can end in DRIVE alone, and a bridge with one under way is in DRIVE. -/
theorem state_of_onEnd {b : Bridge} {now e : Nat} (h : bridgeLawful b now) (hend : b.onEnd = some e) :
    b.state = .drive := by
  obtain ⟨-, -, hrest, -⟩ := h
  by_contra hstate
  obtain ⟨-, -, hnone, -⟩ := hrest hstate
  exact absurd (hend.symm.trans hnone) (by simp)

theorem endOnPhase_lawful {b : Bridge} {now : Nat} (hstate : b.state = .drive) (h : bridgeLawful b now) :
    bridgeLawful (b.endOnPhase now) now :=
  bridgeLawful_of_drive hstate (endOnPhase_gates ((bridgeLawful_iff _ _).1 h).1)

theorem lowerDuty_lawful {b : Bridge} {now : Nat} (duty : Nat) (h : bridgeLawful b now) :
    bridgeLawful (b.lowerDuty now duty) now := by
  unfold Bridge.lowerDuty
  split
  · simp only
    split
    · next hdrive =>
      split
      · exact endOnPhase_lawful hdrive.1 h
      · exact bridgeLawful_of_drive hdrive.1 ((bridgeLawful_iff _ _).1 h).1
    · exact h
  · exact h

theorem nextPeriod_lawful {b : Bridge} {now : Nat} (cfg : BridgeConfig) (held : Command) (h : bridgeLawful b now) :
    bridgeLawful (b.nextPeriod cfg now held) now := by
  cases held with
  | off | coast | brake => exact h
  | drive p =>
    unfold Bridge.nextPeriod
    simp only
    split
    · next hdrive =>
      exact beginPeriod_lawful (b := { b with shortRun := if b.detected = true then b.shortRun else 0 }) cfg p hdrive
        ((bridgeLawful_iff _ _).1 h).1
    · exact h

theorem cutPeriod_lawful {b : Bridge} {now : Nat} (hstate : b.state = .drive) (h : bridgeLawful b now) :
    bridgeLawful (b.cutPeriod now) now := by
  obtain ⟨hgates, -⟩ := (bridgeLawful_iff _ _).1 h
  exact bridgeLawful_of_drive hstate (ask_gates (b := b.noPhase .cut) _ hgates)

/-- The gates asked for already are asked for again once a dead time is over. -/
theorem askAgain_lawful {b : Bridge} {now : Nat} (h : bridgeLawful b now) : bridgeLawful (b.ask now b.asked) now := by
  obtain ⟨hgates, hrest⟩ := (bridgeLawful_iff _ _).1 h
  exact (bridgeLawful_iff _ _).2 ⟨ask_gates _ hgates, hrest⟩

/-! ## The fan's half-bridge (R181) -/

theorem fanLegSafe_iff (g : FanLeg) (now : Nat) : fanLegSafe g now ↔
    legLawful g.high g.low true true g.highOff g.lowOff now := by
  unfold fanLegSafe legLawful
  tauto

theorem fanLegSafe_mono {g : FanLeg} {now later : Nat} (hle : now ≤ later) (h : fanLegSafe g now) : fanLegSafe g later :=
  ⟨h.1, fun hon => deadOver_mono hle (h.2.1 hon), fun hon => deadOver_mono hle (h.2.2 hon)⟩

theorem fanAsk_safe {g : FanLeg} {now : Nat} (askHigh : Bool) (h : fanLegSafe g now) : fanLegSafe (g.ask now askHigh) now := by
  rw [fanLegSafe_iff] at h
  obtain ⟨hsafe, -, -, hhigh, hlow⟩ := legLawful_ask askHigh (!askHigh) h
  exact ⟨hsafe, hhigh, hlow⟩

/-- The half-bridge keeps R181 up to every later moment of the period. -/
theorem legAt_safe {f : Fan} {now : Nat} (hle : f.since ≤ now) (h : fanLegSafe f.leg f.since) : fanLegSafe (f.legAt now) now := by
  unfold Fan.legAt
  split
  · exact fanAsk_safe _ (fanLegSafe_mono hle h)
  · next hpast =>
    split
    · next hin =>
      have hfirst : fanLegSafe (f.leg.ask (f.phaseEnd - 1) true) (f.phaseEnd - 1) :=
        fanAsk_safe _ (fanLegSafe_mono (by omega) h)
      have hsecond : fanLegSafe ((f.leg.ask (f.phaseEnd - 1) true).ask f.phaseEnd false) f.phaseEnd :=
        fanAsk_safe _ (fanLegSafe_mono (Nat.sub_le _ _) hfirst)
      exact fanAsk_safe _ (fanLegSafe_mono (Nat.le_of_not_lt hpast) hsecond)
    · exact fanAsk_safe _ (fanLegSafe_mono hle h)

/-- A duty reaches SMF at the present moment of a period that has begun. -/
theorem driveAt_lawful {s : State} {f : Fan → Fan} {start : Nat} (duty : Nat) (hstart : start ≤ s.clock)
    (hleg : (f s.lamps.fan).leg = (s.lamps.fan.driveAt s.clock start duty).leg)
    (hperiod : (f s.lamps.fan).periodStart = start) (hsince : (f s.lamps.fan).since = s.clock) (h : fanLawful s) :
    fanLawful (s.onFan f) := by
  obtain ⟨-, hle, hsafe⟩ := h
  refine ⟨?_, ?_, ?_⟩
  · show (f s.lamps.fan).periodStart ≤ (f s.lamps.fan).since
    rw [hperiod, hsince]
    exact hstart
  · show (f s.lamps.fan).since ≤ s.clock
    exact Nat.le_of_eq hsince
  · show fanLegSafe (f s.lamps.fan).leg (f s.lamps.fan).since
    rw [hleg, hsince]
    exact fanAsk_safe _ (legAt_safe hle hsafe)

theorem onFan_drives {l : Law} {s : State} {f : Fan → Fan} {start duty : Nat}
    (hstart : fanLawful s → start ≤ s.clock) (hleg : (f s.lamps.fan).leg = (s.lamps.fan.driveAt s.clock start duty).leg)
    (hperiod : (f s.lamps.fan).periodStart = start) (hsince : (f s.lamps.fan).since = s.clock) (h : l.holds s) :
    l.holds (s.onFan f) := by
  cases l with
  | fan => exact driveAt_lawful duty (hstart h) hleg hperiod hsince h
  | bridges | direction _ | repeats | supply | voices | port _ _ _ | lease | noRun => exact h

theorem periodStart_le {s : State} (h : fanLawful s) : s.lamps.fan.periodStart ≤ s.clock := Nat.le_trans h.1 h.2.1

end Sys2Proof.BlockLaws
end

section
/-! PROOFS. The shared operations keep the laws of single blocks, each by the laws of what it is made of. -/

namespace Sys2Proof.BlockLaws
open Sys2Proof.Machine Sys2Proof.Safety

variable {l : Law} {s : State}

/-! ## Notices, accesses and the slots -/

@[simp] theorem raise_lawful (b : NoticeBit) : l.holds (s.raise b) ↔ l.holds s := by
  simp [State.raise]

@[simp] theorem recordFault_lawful : l.holds s.recordFault ↔ l.holds s := by
  simp [State.recordFault]

@[simp] theorem spiWrite_lawful (n : Nat) : l.holds (s.spiWrite n) ↔ l.holds s := by
  simp [State.spiWrite]

@[simp] theorem registerWrite_lawful : l.holds s.registerWrite ↔ l.holds s := by
  simp [State.registerWrite]

@[simp] theorem reads_lawful (words : List Nat) : l.holds (s.reads words) ↔ l.holds s := by
  simp only [State.reads]
  repeat' split
  all_goals simp

@[simp] theorem hostAccesses_lawful (n : Nat) : l.holds (s.hostAccesses n) ↔ l.holds s := by
  simp only [State.hostAccesses]
  repeat' split
  all_goals simp

@[simp] theorem playSegment_lawful (clip : Nat) (second : Bool) : l.holds (s.playSegment clip second) ↔ l.holds s := by
  simp [State.playSegment]

@[simp] theorem leaveSegment_lawful (clip : Nat) (second : Bool) : l.holds (s.leaveSegment clip second) ↔ l.holds s := by
  simp [State.leaveSegment]

@[simp] theorem writeSlotState_lawful (n : Nat) (v : Byte) : l.holds (s.writeSlotState n v) ↔ l.holds s := by
  simp [State.writeSlotState]

@[simp] theorem writeStep_lawful (n step : Nat) : l.holds (s.writeStep n step) ↔ l.holds s := by
  simp [State.writeStep]

@[simp] theorem completeSlot_lawful (n : Nat) (outcome : OutcomeCode) (step : Nat) (result : List Byte) : l.holds (s.completeSlot n outcome step result) ↔ l.holds s := by
  simp [State.completeSlot]

@[simp] theorem offer_lawful (kind : RecordKind) (reason : Reason) (f : Frame) : l.holds (s.offer kind reason f) ↔ l.holds s := by
  simp only [State.offer]
  repeat' split
  all_goals simp

@[simp] theorem logFrame_lawful (reason : Reason) (f : Frame) : l.holds (s.logFrame reason f) ↔ l.holds s := by
  simp [State.logFrame]

@[simp] theorem logBeacon_lawful (reason : Reason) (f : Frame) : l.holds (s.logBeacon reason f) ↔ l.holds s := by
  simp [State.logBeacon]

@[simp] theorem stationStopped_lawful : l.holds s.stationStopped ↔ l.holds s := by
  simp only [State.stationStopped]
  repeat' split
  all_goals simp

@[simp] theorem cancelStation_lawful : l.holds s.cancelStation ↔ l.holds s := by
  simp only [State.cancelStation]
  repeat' split
  all_goals simp

/-! ## The motion unit -/

@[simp] theorem takeRate_lawful : l.holds s.takeRate ↔ l.holds s := by
  simp [State.takeRate]

@[simp] theorem lossDetection_lawful (applied : Nat) : l.holds (s.lossDetection applied) ↔ l.holds s := by
  simp only [State.lossDetection]
  repeat' split
  all_goals simp

@[simp] theorem stallTimerExpiry_lawful (h : l.holds s) : l.holds (stallTimerExpiry s) := by
  simp only [stallTimerExpiry]
  repeat' split
  all_goals simp [h]

@[simp] theorem stallBefore_lawful (now : Nat) (h : l.holds s) : l.holds (s.stallBefore now) := by
  simp only [State.stallBefore]
  repeat' split
  all_goals simp [h]

/-! ## The bridges -/

@[simp] theorem noteDuty_lawful : l.holds s.noteDuty ↔ l.holds s := by
  simp [State.noteDuty]

theorem hand_lawful {u : BridgeUnit} {now : Nat} (c : Command) :
    (bridgeLawful u.a now → bridgeLawful (u.hand now c).a now) ∧ (bridgeLawful u.b now → bridgeLawful (u.hand now c).b now) := by
  unfold BridgeUnit.hand
  split
  · exact ⟨fun h => h, fun h => h⟩
  · refine ⟨take_lawful _ _, fun h => ?_⟩
    simp only
    split
    · exact take_lawful _ _ h
    · exact h

@[simp] theorem handCommand_lawful (c : Command) (h : l.holds s) : l.holds (s.handCommand c) :=
  noteDuty_lawful.2 (onBridges_lawful (hand_lawful c).1 (hand_lawful c).2 h)

@[simp] theorem stateLowerDuty_lawful (duty : Nat) (h : l.holds s) : l.holds (s.lowerDuty duty) := by
  unfold State.lowerDuty
  split
  · exact noteDuty_lawful.2 (onBridges_lawful (lowerDuty_lawful duty) (lowerDuty_lawful duty) h)
  · exact h

/-! ## Lamps, heater and fan -/

@[simp] theorem recordLampFault_lawful (n : Nat) (k : LampFault) : l.holds (s.recordLampFault n k) ↔ l.holds s := by
  simp [State.recordLampFault]

@[simp] theorem overEpisode_lawful (n : Nat) : l.holds (s.overEpisode n) ↔ l.holds s := by
  simp only [State.overEpisode]
  repeat' split
  all_goals simp

@[simp] theorem overcurrentDetected_lawful (n : Nat) : l.holds (overcurrentDetected s n) ↔ l.holds s := by
  simp only [overcurrentDetected]
  repeat' split
  all_goals simp

@[simp] theorem openLoadDetected_lawful (n : Nat) : l.holds (openLoadDetected s n) ↔ l.holds s := by
  simp only [openLoadDetected]
  repeat' split
  all_goals simp

@[simp] theorem fanRuns_lawful : l.holds s.fanRuns ↔ l.holds s := by
  simp [State.fanRuns]

@[simp] theorem fanStart_lawful : l.holds s.fanStart ↔ l.holds s := by
  simp only [State.fanStart]
  repeat' split
  all_goals simp

@[simp] theorem fanPurge_lawful : l.holds s.fanPurge ↔ l.holds s := by
  simp only [State.fanPurge]
  repeat' split
  all_goals simp

@[simp] theorem fanChuff_lawful : l.holds s.fanChuff ↔ l.holds s := by
  simp only [State.fanChuff]
  repeat' split
  all_goals simp

@[simp] theorem fanDriveNow_lawful (h : l.holds s) : l.holds s.fanDriveNow :=
  onFan_drives periodStart_le rfl rfl rfl h

@[simp] theorem clearFan_lawful : l.holds s.clearFan ↔ l.holds s := by
  simp only [State.clearFan]
  repeat' split
  all_goals simp

@[simp] theorem fanFollows_lawful (before : HeaterState) : l.holds (s.fanFollows before) ↔ l.holds s := by
  simp only [State.fanFollows]
  repeat' split
  all_goals simp

@[simp] theorem sensorTest_lawful : l.holds s.sensorTest ↔ l.holds s := by
  simp only [State.sensorTest]
  repeat' split
  all_goals simp

@[simp] theorem dryTest_lawful : l.holds s.dryTest ↔ l.holds s := by
  simp only [State.dryTest]
  repeat' split
  all_goals simp

@[simp] theorem heaterArrival_lawful : l.holds s.heaterArrival ↔ l.holds s := by
  simp [State.heaterArrival]

@[simp] theorem heaterSetChange_lawful : l.holds s.heaterSetChange ↔ l.holds s := by
  simp [State.heaterSetChange]

@[simp] theorem chuffEvent_lawful : l.holds s.chuffEvent ↔ l.holds s := by
  simp [State.chuffEvent]

@[simp] theorem lampShedChange_lawful (before : Nat) (h : l.holds s) : l.holds (s.lampShedChange before) := by
  simp only [State.lampShedChange]
  repeat' split
  all_goals simp [h]

@[simp] theorem clearLamps_lawful (mask : BitVec 32) : l.holds (s.clearLamps mask) ↔ l.holds s := by
  simp [State.clearLamps]

/-! ## The voices -/

theorem modify_mem {α : Type} {f : α → α} {xs : List α} {n : Nat} {y : α} (h : y ∈ xs.modify n f) :
    y ∈ xs ∨ ∃ x, xs[n]? = some x ∧ y = f x := by
  obtain ⟨k, hk, rfl⟩ := List.getElem_of_mem h
  rw [List.length_modify] at hk
  rw [List.getElem_modify]
  split
  · next heq => exact .inr ⟨xs[k], by rw [heq, List.getElem?_eq_getElem hk], rfl⟩
  · exact .inl (List.getElem_mem hk)

/-- One voice changes, to a lawful one. -/
theorem onVoice_lawful {n : Nat} {f : Voice → Voice}
    (hf : voiceLawful (s.sound.voice n) → voiceLawful (f (s.sound.voice n))) (h : l.holds s) : l.holds (s.onVoice n f) := by
  refine onSound_voices (fun hv => ⟨?_, fun v hmem => ?_⟩) h
  · simp [State.onSound, hv.1]
  · rcases modify_mem hmem with hold | ⟨w, hw, rfl⟩
    · exact hv.2 v hold
    · have hvoice : s.sound.voice n = w := by simp [Sound.voice, List.getD_eq_getElem?_getD, hw]
      exact hvoice ▸ hf (hvoice ▸ hv.2 w (List.mem_of_getElem? hw))

/-- The other laws say nothing of the voices. -/
theorem onVoice_other {n : Nat} {f : Voice → Voice} (hl : l ≠ .voices) : l.holds (s.onVoice n f) ↔ l.holds s := by
  cases l with
  | voices => exact absurd rfl hl
  | bridges | direction _ | repeats | supply | fan | port _ _ _ | lease | noRun => exact Iff.rfl

theorem onVoices_lawful {f : Voice → Voice} (hf : ∀ v, voiceLawful v → voiceLawful (f v)) (h : l.holds s) :
    l.holds (s.onSound fun u => { u with voices := u.voices.map f }) :=
  onSound_voices (fun hv => Triggers.voicesLawful_map hv f hf) h

@[simp] theorem stopVoice_lawful (n : Nat) (h : l.holds s) : l.holds (s.stopVoice n) := by
  simp only [State.stopVoice]
  refine onVoice_lawful (fun _ => voiceLawful_idle rfl) ?_
  split
  all_goals simp [h]

@[simp] theorem voiceStarts_lawful {clip : Nat} {e : ClipEntry} {f : StartFields} {last : Bool} (n : Nat)
    (hclip : clip ≤ 63) (hvalid : e.valid = true) (hstarter : startedByFunction f.starter → e.kind ≠ 2)
    (h : l.holds s) : l.holds (s.voiceStarts n clip e f last) := by
  unfold State.voiceStarts
  refine onVoice_lawful (fun _ => ?_) (by simpa using h)
  refine .inr ⟨hclip, hvalid, fun _ => ?_, fun hno => VoiceState.noConfusion hno, hstarter⟩
  simp only [ClipEntry.valid, Bool.and_eq_true, decide_eq_true_eq] at hvalid
  obtain ⟨⟨⟨⟨⟨-, hlength, -⟩, -⟩, -⟩, -⟩, -⟩ := hvalid
  show 0 < e.ends
  simp only [ClipEntry.ends]
  omega

/-- A trigger's start, or PLAY's, whose starter is no trigger entry (R139). -/
@[simp] theorem startVoice_lawful (n clip : Nat) {use : ClipUse} {f : StartFields}
    (huse : startedByFunction f.starter → use ≠ .none) (h : l.holds s) : l.holds (s.startVoice n clip use f).1 := by
  have hstops : l.holds (s.stopVoice n) := stopVoice_lawful n h
  unfold State.startVoice
  generalize s.stopVoice n = u at hstops
  simp only
  split
  · next hvalid =>
    simp only [validFor, Bool.and_eq_true, decide_eq_true_eq] at hvalid
    obtain ⟨⟨hclip, hentry⟩, hallows⟩ := hvalid
    have hstarter : startedByFunction f.starter → (loadClip u.xm clip).kind ≠ 2 := by
      intro hfunction hstream
      rw [hstream] at hallows
      exact huse hfunction (by cases use <;> simp_all [ClipUse.allows])
    split
    · split
      · exact voiceStarts_lawful n hclip hentry hstarter ((playSegment_lawful clip false).2 hstops)
      · exact hstops
    · exact voiceStarts_lawful n hclip hentry hstarter hstops
  · exact hstops

@[simp] theorem clipFault_lawful (clip : Nat) (use : ClipUse) : l.holds (s.clipFault clip use) ↔ l.holds s := by
  simp [State.clipFault]

@[simp] theorem startOrFault_lawful (n clip : Nat) {use : ClipUse} {f : StartFields}
    (huse : startedByFunction f.starter → use ≠ .none) (h : l.holds s) : l.holds (s.startOrFault n clip use f) := by
  have hstarts := startVoice_lawful n clip huse h
  unfold State.startOrFault
  split
  · exact stopVoice_lawful n h
  · simp only
    split
    · exact hstarts
    · exact (clipFault_lawful clip use).2 hstarts

@[simp] theorem trigger_lawful (clip : Nat) {use : ClipUse} {f : StartFields}
    (huse : startedByFunction f.starter → use ≠ .none) (h : l.holds s) : l.holds (s.trigger clip use f) := by
  unfold State.trigger
  split
  · split
    · exact startOrFault_lawful _ _ huse h
    · exact h
  · exact h

@[simp] theorem playStartClip_lawful (h : l.holds s) : l.holds s.playStartClip := by
  simp [State.playStartClip, h]

@[simp] theorem playStopClip_lawful (h : l.holds s) : l.holds s.playStopClip := by
  simp [State.playStopClip, h]

@[simp] theorem playHorn_lawful (h : l.holds s) : l.holds s.playHorn := by
  simp [State.playHorn, h]

@[simp] theorem functionClip_lawful (k : Nat) (t : Trigger) (h : l.holds s) : l.holds (s.functionClip k t) := by
  simp [State.functionClip, h]

/-- Voices that trigger entries have started may fade. -/
theorem fades_lawful {p : Voice → Bool} {g : Voice → Voice}
    (hp : ∀ v, p v = true → startedByFunction v.starter ∧ v.state ≠ .idle) 
    (hg : ∀ v, voiceLawful v.fade16 → voiceLawful (g v)) (h : l.holds s) :
    l.holds (s.onSound fun u => { u with voices := u.voices.map fun v => if p v then g v else v }) := by
  refine onVoices_lawful (fun v hv => ?_) h
  split
  · next hfades =>
    obtain ⟨hstarter, hbusy⟩ := hp v hfades
    exact hg v (Triggers.voiceLawful_fade16 hv hstarter hbusy)
  · exact hv

theorem heldBy_starter {v : Voice} {k : Option Nat} (h : v.heldBy k = true) :
    startedByFunction v.starter ∧ v.state ≠ .idle := by
  unfold Voice.heldBy at h
  cases hs : v.starter <;> simp_all [startedByFunction]

@[simp] theorem functionTrigger_lawful (before after : Reg) (k : Nat) (t : Trigger) (h : l.holds s) :
    l.holds (s.functionTrigger before after k t) := by
  unfold State.functionTrigger
  split
  · simp [h]
  · split
    · exact fades_lawful (fun _ => heldBy_starter) (fun _ hv => hv) h
    · exact h
  · exact h

@[simp] theorem soundFunctions_lawful (before : Reg) (h : l.holds s) : l.holds (s.soundFunctions before) :=
  triggersFrom_inv l.holds (fun _ _ _ h => by simp [h]) _ _ _ h

@[simp] theorem startEngine_lawful (h : l.holds s) : l.holds s.startEngine :=
  startOrFault_lawful _ _ (fun hstarter => hstarter.elim) h

@[simp] theorem updateEngine_lawful (h : l.holds s) : l.holds s.updateEngine := by
  unfold State.updateEngine
  split
  · exact onVoice_lawful (fun hv => hv) h
  · exact h

@[simp] theorem chuff_lawful (h : l.holds s) : l.holds s.chuff := by
  simp only [State.chuff, chuffEvent_lawful]
  refine startOrFault_lawful _ _ (fun hstarter => hstarter.elim) ?_
  simp [h]

@[simp] theorem chuffCheck_lawful (h : l.holds s) : l.holds s.chuffCheck := by
  simp only [State.chuffCheck]
  repeat' split
  all_goals simp [h]

/-! ## Streams, fades and retries -/

theorem onVoice_const (s : State) (n : Nat) (f : Voice → Voice) :
    s.onVoice n f = s.onVoice n fun _ => f (s.sound.voice n) := by
  have hvoices : s.sound.voices.modify n f = s.sound.voices.modify n fun _ => f (s.sound.voice n) := by
    refine List.ext_getElem (by simp) fun k hk hk' => ?_
    rw [List.getElem_modify, List.getElem_modify]
    split
    · next heq =>
      subst heq
      rw [List.length_modify] at hk
      simp [Sound.voice, List.getD_eq_getElem?_getD, List.getElem?_eq_getElem hk]
    · rfl
  simp only [State.onVoice, State.onSound, hvoices]

/-- What a boundary leaves of the voice `v` that comes to it (R157). -/
def crossedTo (v : Voice) (entered boundary : Nat) (w : Voice) : Prop :=
  w.state = .idle ∨ w = v.starve boundary ∨ ∃ last, w = { v with position := entered, lastSegment := last }

theorem crossBoundary_sound (s : State) (n : Nat) (second : Bool) (entered boundary : Nat) :
    ∃ w, crossedTo (s.sound.voice n) entered boundary w
      ∧ (s.crossBoundary n second entered boundary).sound.voices = s.sound.voices.modify n fun _ => w := by
  have hset : ∀ (u : State) (f : Voice → Voice), u.sound.voices = s.sound.voices →
      (u.onVoice n f).sound.voices = s.sound.voices.modify n fun _ => f (s.sound.voice n) := by
    intro u f hu
    rw [onVoice_const]
    simp only [State.onVoice, State.onSound, Sound.voice, hu]
  unfold State.crossBoundary
  simp only
  split
  · exact ⟨_, .inl rfl, hset _ _ rfl⟩
  · split
    · exact ⟨_, .inr (.inr ⟨_, rfl⟩), hset _ _ rfl⟩
    · exact ⟨_, .inr (.inl rfl), hset _ _ rfl⟩

/-- A STREAM voice on its way over a boundary: all of its law but the position. -/
def streams (v : Voice) : Prop :=
  v.clip ≤ 63 ∧ v.entry.valid = true ∧ v.entry.kind = 2 ∧ ¬ startedByFunction v.starter

theorem starve_lawful {v : Voice} (boundary : Nat) (h : streams v) : voiceLawful (v.starve boundary) := by
  obtain ⟨hclip, hvalid, hkind, hstarter⟩ := h
  unfold Voice.starve
  split
  · exact voiceLawful_idle rfl
  · exact .inr ⟨hclip, hvalid, fun hs => by simp [Voice.sounds] at hs, fun _ => hkind, fun hno => absurd hno hstarter⟩

theorem stream_lawful {v : Voice} (h : streams v) (hposition : v.position < v.entry.ends) :
    voiceLawful v := by
  obtain ⟨hclip, hvalid, hkind, hstarter⟩ := h
  exact .inr ⟨hclip, hvalid, fun _ => hposition, fun _ => hkind, fun hno => absurd hno hstarter⟩

theorem half_pos {v : Voice} (h : streams v) : 0 < v.entry.half ∧ v.entry.half ≤ v.entry.ends := by
  obtain ⟨-, hvalid, hkind, -⟩ := h
  simp only [ClipEntry.valid, Bool.and_eq_true, Bool.or_eq_true, decide_eq_true_eq] at hvalid
  obtain ⟨⟨⟨⟨⟨-, hlength, -⟩, -⟩, -⟩, -⟩, hfour⟩ := hvalid
  have hmod := hfour.resolve_left (fun hno => hno hkind)
  simp only [ClipEntry.half, ClipEntry.ends]
  omega

/-- A voice between the two boundaries of a STREAM clip: silent and lawful, or on its way. -/
def walks (v : Voice) : Prop := (v.sounds = true → streams v) ∧ (v.sounds = false → voiceLawful v)

theorem crossed_walks {v w : Voice} {entered boundary : Nat} (hv : streams v) (h : crossedTo v entered boundary w) :
    walks w := by
  rcases h with hidle | rfl | ⟨last, rfl⟩
  · exact ⟨fun hs => by simp [Voice.sounds, hidle] at hs, fun _ => voiceLawful_idle hidle⟩
  · refine ⟨fun hs => ?_, fun _ => starve_lawful _ hv⟩
    unfold Voice.starve at hs
    split at hs <;> simp [Voice.sounds] at hs
  · refine ⟨fun _ => hv, fun hs => .inr ⟨hv.1, hv.2.1, fun hsounds => ?_, fun _ => hv.2.2.1, fun hno => absurd hno hv.2.2.2⟩⟩
    exact absurd (hs.symm.trans hsounds) (by decide)

/-- The voices with one of them set. -/
theorem voice_of_modify {s u : State} {n : Nat} {w : Voice} (hin : n < s.sound.voices.length)
    (hu : u.sound.voices = s.sound.voices.modify n fun _ => w) : u.sound.voice n = w := by
  simp [Sound.voice, List.getD_eq_getElem?_getD, hu, hin]

theorem modify_modify (xs : List Voice) (n : Nat) (v w : Voice) :
    (xs.modify n fun _ => v).modify n (fun _ => w) = xs.modify n fun _ => w :=
  List.ext_getElem (by simp) fun k _ _ => by
    simp only [List.getElem_modify]
    split <;> rfl

/-- The clip's end leaves a voice that has come so far lawful (R157). -/
theorem clipEnd_sound {s u : State} {n : Nat} {v : Voice} (hin : n < s.sound.voices.length) (hv : walks v)
    (hu : u.sound.voices = s.sound.voices.modify n fun _ => v) :
    ∃ w, voiceLawful w ∧ (if v.sounds && decide (v.entry.ends ≤ v.position)
      then u.crossBoundary n false ((v.position - v.entry.ends) % v.entry.half) v.entry.ends else u).sound.voices
        = s.sound.voices.modify n fun _ => w := by
  split
  · next hends =>
    simp only [Bool.and_eq_true, decide_eq_true_eq] at hends
    obtain ⟨w, hcross, hset⟩ := crossBoundary_sound u n false ((v.position - v.entry.ends) % v.entry.half) v.entry.ends
    rw [voice_of_modify hin hu] at hcross
    have hstreams := hv.1 hends.1
    refine ⟨w, ?_, by rw [hset, hu, modify_modify]⟩
    rcases hcross with hidle | rfl | ⟨last, rfl⟩
    · exact voiceLawful_idle hidle
    · exact starve_lawful _ hstreams
    · exact stream_lawful hstreams (Nat.lt_of_lt_of_le (Nat.mod_lt _ (half_pos hstreams).1) (half_pos hstreams).2)
  · next hends =>
    refine ⟨v, ?_, hu⟩
    cases hs : v.sounds with
    | false => exact hv.2 hs
    | true =>
      simp only [hs, Bool.true_and, decide_eq_true_eq, Nat.not_le] at hends
      exact stream_lawful (hv.1 hs) hends

/-- A walk over the boundaries changes one voice, to a lawful one. -/
theorem streamBoundaries_sound {s : State} {n : Nat} (second : Bool) (hin : n < s.sound.voices.length)
    (hv : streams (s.sound.voice n)) (hsounds : (s.sound.voice n).sounds = true) :
    ∃ w, voiceLawful w ∧ (s.streamBoundaries n second).sound.voices = s.sound.voices.modify n fun _ => w := by
  have hself : s.sound.voices = s.sound.voices.modify n fun _ => s.sound.voice n := by
    have hconst := onVoice_const s n id
    have hid : s.onVoice n id = s := by simp [State.onVoice, State.onSound]
    rw [hid] at hconst
    exact congrArg (fun u : State => u.sound.voices) hconst
  unfold State.streamBoundaries
  simp only
  split
  · obtain ⟨w, hcross, hset⟩ := crossBoundary_sound s n true (s.sound.voice n).position (s.sound.voice n).entry.half
    rw [voice_of_modify hin hset]
    exact clipEnd_sound hin (crossed_walks hv hcross) hset
  · exact clipEnd_sound hin ⟨fun _ => hv, fun hs => absurd (hs.symm.trans hsounds) (by decide)⟩ hself

/-- A move within the clip, of a voice that is no STREAM voice (R146, R147). -/
theorem loopOrShot_lawful {v : Voice} (h : voiceLawful v) (hsounds : v.sounds = true) (hkind : v.entry.kind ≠ 2)
    (position : Nat) : voiceLawful (if v.entry.kind = 1 then { v with position := position }.loopEnds
      else { v with position := position }.oneShotEnd) := by
  obtain ⟨hclip, hvalid, -, -, -⟩ := h.resolve_left (fun hidle => by simp [Voice.sounds, hidle] at hsounds)
  have hstarved : v.state ≠ .starved := fun hs => by simp [Voice.sounds, hs] at hsounds
  have hlaw : ∀ w : Voice, w.clip = v.clip → w.entry = v.entry → w.state = v.state → w.position < v.entry.ends →
      voiceLawful w := fun w hc he hs hp =>
    .inr ⟨hc ▸ hclip, he ▸ hvalid, fun _ => he ▸ hp, fun hno => absurd (hs ▸ hno) hstarved, fun _ => he ▸ hkind⟩
  simp only [ClipEntry.valid, Bool.and_eq_true, Bool.or_eq_true, decide_eq_true_eq] at hvalid
  obtain ⟨⟨⟨⟨⟨-, hlength, -⟩, -⟩, -⟩, hloop⟩, -⟩ := hvalid
  have hends : 0 < v.entry.ends := by
    unfold ClipEntry.ends
    omega
  split
  · next hone =>
    obtain ⟨hpositive, hregion, -⟩ := hloop.resolve_left fun hno => hno hone
    have hle : v.entry.loopEnd ≤ v.entry.ends := by
      simp only [ClipEntry.loopEnd, ClipEntry.ends]
      omega
    have hwrap : Voice.loopWrap { v with position := position } < v.entry.ends := by
      have hmod := Nat.mod_lt (position - v.entry.loopEnd) (show v.entry.loopLength * 256 > 0 by omega)
      simp only [Voice.loopWrap]
      simp only [ClipEntry.loopEnd] at hle hmod ⊢
      omega
    unfold Voice.loopEnds
    split
    · next hin => exact hlaw _ rfl rfl rfl (Nat.lt_of_lt_of_le hin hle)
    · split
      · exact hlaw _ rfl rfl rfl hwrap
      · exact hlaw _ rfl rfl rfl hwrap
      · split
        · exact voiceLawful_idle rfl
        · next hin => exact hlaw _ rfl rfl rfl (Nat.lt_of_not_le hin)
  · unfold Voice.oneShotEnd
    split
    · next hin => exact hlaw _ rfl rfl rfl hin
    · split
      · exact hlaw _ rfl rfl rfl (Nat.mod_lt _ hends)
      · exact voiceLawful_idle rfl
      · exact hlaw _ rfl rfl rfl (Nat.mod_lt _ hends)

theorem voicesLawful_modify {t : State} {n : Nat} {w : Voice} (hv : voicesLawful s) (hw : voiceLawful w)
    (ht : t.sound.voices = s.sound.voices.modify n fun _ => w) : voicesLawful t := by
  refine ⟨by rw [ht]; simpa using hv.1, fun v hmem => ?_⟩
  rw [ht] at hmem
  rcases modify_mem hmem with hold | ⟨x, -, rfl⟩
  · exact hv.2 v hold
  · exact hw

/-- A voice not in the list does not sound. -/
theorem voice_in {n : Nat} (h : (s.sound.voice n).state ≠ .idle) : n < s.sound.voices.length := by
  by_contra hout
  have hnone : s.sound.voices[n]? = none := List.getElem?_eq_none (Nat.le_of_not_lt hout)
  exact h (by simp [Sound.voice, List.getD_eq_getElem?_getD, hnone, Voice.idle])

theorem sounds_busy {v : Voice} (h : v.sounds = true) : v.state ≠ .idle := fun hidle => by simp [Voice.sounds, hidle] at h

theorem voice_lawful {n : Nat} (hv : voicesLawful s) (h : (s.sound.voice n).state ≠ .idle) :
    voiceLawful (s.sound.voice n) :=
  lawful_voice hv (hv.1 ▸ voice_in h)

theorem advanceVoice_voices {n : Nat} (hv : voicesLawful s) : voicesLawful (s.advanceVoice n) := by
  unfold State.advanceVoice
  simp only
  split
  · next hsounds =>
    have hin := voice_in (sounds_busy hsounds)
    have hlaw := voice_lawful hv (sounds_busy hsounds)
    obtain ⟨hclip, hvalid, -, -, hstarter⟩ := hlaw.resolve_left (sounds_busy hsounds)
    split
    · next hstream =>
      generalize hmoved : ({ s.sound.voice n with
        position := (s.sound.voice n).position + (s.sound.voice n).step * (s.sound.voice n).entry.size } : Voice) = moved
      have hset : (s.onVoice n fun _ => moved).sound.voices = s.sound.voices.modify n fun _ => moved := rfl
      have hvoice := voice_of_modify hin hset
      have hstreams : streams moved := by
        subst hmoved
        exact ⟨hclip, hvalid, hstream, fun hfunction => hstarter hfunction hstream⟩
      obtain ⟨w, hw, hall⟩ := streamBoundaries_sound (s := s.onVoice n fun _ => moved) (s.sound.voice n).inSecond
        (by rw [hset]; simpa using hin) (hvoice ▸ hstreams) (by rw [hvoice]; subst hmoved; exact hsounds)
      rw [hset, modify_modify] at hall
      exact voicesLawful_modify hv hw hall
    · next hstream => exact voicesLawful_modify hv (loopOrShot_lawful hlaw hsounds hstream _) rfl
  · exact hv

@[simp] theorem advanceVoice_lawful (n : Nat) (h : l.holds s) : l.holds (s.advanceVoice n) := by
  by_cases hl : l = .voices
  · subst hl
    exact advanceVoice_voices h
  · have hcross : ∀ (u : State) (second : Bool) (entered boundary : Nat), l.holds u →
        l.holds (u.crossBoundary n second entered boundary) := by
      intro u second entered boundary hu
      simp only [State.crossBoundary]
      repeat' split
      all_goals simp [hu, onVoice_other hl]
    simp only [State.advanceVoice, State.streamBoundaries]
    repeat' split
    all_goals simp [h, onVoice_other hl, hcross]

@[simp] theorem advanceVoices_lawful (h : l.holds s) : l.holds (allVoices.foldl State.advanceVoice s) :=
  foldl_inv l.holds (fun _ _ h => by simp [h]) allVoices s h

@[simp] theorem fadeVoice_lawful (n : Nat) (h : l.holds s) : l.holds (s.fadeVoice n) := by
  simp only [State.fadeVoice]
  split
  · split
    · exact stopVoice_lawful n (onVoice_lawful (fun hv => hv) h)
    · exact onVoice_lawful (fun hv => hv) h
  · exact h

@[simp] theorem fadeVoices_lawful (h : l.holds s) : l.holds (allVoices.foldl State.fadeVoice s) :=
  foldl_inv l.holds (fun _ _ h => by simp [h]) allVoices s h

/-- A STARVED voice plays on from the beginning of a segment (R158). -/
@[simp] theorem retryVoice_lawful (n : Nat) (h : l.holds s) : l.holds (s.retryVoice n) := by
  simp only [State.retryVoice]
  split
  · next hstarved =>
    split
    · refine onVoice_lawful (fun hv => ?_) ((playSegment_lawful _ _).2 h)
      change voiceLawful (s.sound.voice n) at hv
      obtain ⟨hclip, hvalid, -, hkind, hstarter⟩ := hv.resolve_left (by rw [hstarved]; decide)
      have hstreams : streams (s.sound.voice n) := ⟨hclip, hvalid, hkind hstarved, fun hfunction => hstarter hfunction (hkind hstarved)⟩
      obtain ⟨hhalf, hle⟩ := half_pos hstreams
      refine .inr ⟨hclip, hvalid, fun _ => ?_, fun hno => VoiceState.noConfusion hno, hstarter⟩
      have hstrict : (s.sound.voice n).entry.half < (s.sound.voice n).entry.ends := by
        simp only [ClipEntry.half, ClipEntry.ends] at hhalf hle ⊢
        omega
      show (if _ then _ else _) < (s.sound.voice n).entry.ends
      split
      · exact hstrict
      · exact Nat.lt_of_lt_of_le hhalf hle
    · exact h
  · exact h

@[simp] theorem retryVoices_lawful (h : l.holds s) : l.holds (allVoices.foldl State.retryVoice s) :=
  foldl_inv l.holds (fun _ _ h => by simp [h]) allVoices s h

/-! ## The sound engine's arrivals, PLAY and HUSH -/

@[simp] theorem holdTrigger_lawful (k : Nat) (t : Trigger) (h : l.holds s) : l.holds (s.holdTrigger k t) := by
  simp only [State.holdTrigger]
  repeat' split
  all_goals simp [h]

@[simp] theorem soundSetChange_lawful (h : l.holds s) : l.holds s.soundSetChange := by
  simp only [State.soundSetChange]
  refine triggersFrom_inv l.holds (fun _ _ _ h => by simp [h]) _ _ _ ?_
  refine fades_lawful (fun _ => heldBy_starter) (fun v hv => ?_) (by simp [h])
  rcases hv with hidle | ⟨hclip, hvalid, hwithin, hstarved, -⟩
  · exact voiceLawful_idle hidle
  · exact .inr ⟨hclip, hvalid, hwithin, hstarved, fun hno => hno.elim⟩

@[simp] theorem stopVoices_lawful (h : l.holds s) : l.holds (allVoices.foldl State.stopVoice s) :=
  foldl_inv l.holds (fun _ _ h => by simp [h]) allVoices s h

@[simp] theorem soundStop_lawful (h : l.holds s) : l.holds s.soundStop := by
  simp [State.soundStop, h]

@[simp] theorem playClip_lawful (ps : List Byte) (h : l.holds s) : l.holds (s.playClip ps).1 := by
  simp only [State.playClip]
  split
  · exact h
  split
  · exact h
  split
  · exact h
  rename_i n _
  have hstarts := startVoice_lawful (l := l) (s := s) (use := .none) (f := playFields ps) n (param8 ps 0) (fun hno => hno.elim) h
  split <;> rename_i heq <;> rw [heq] at hstarts <;> simpa using hstarts

@[simp] theorem hushVoice_lawful (fade n : Nat) (h : l.holds s) : l.holds (s.hushVoice fade n) := by
  unfold State.hushVoice
  have hfades : (s.sound.voice n).sounds = true → l.holds (s.onVoice n fun v => { v with state := .fading, fadeStep := fade }) := by
    intro hsounds
    refine onVoice_lawful (fun hv => ?_) h
    obtain ⟨hclip, hvalid, hwithin, -, hstarter⟩ := hv.resolve_left (sounds_busy hsounds)
    exact .inr ⟨hclip, hvalid, fun _ => hwithin hsounds, fun hno => VoiceState.noConfusion hno, hstarter⟩
  split
  · exact h
  · exact stopVoice_lawful n h
  all_goals
    next hstate =>
    split
    · exact stopVoice_lawful n h
    · exact hfades (by simp [Voice.sounds, hstate])

@[simp] theorem hushVoices_lawful (ps : List Byte) (h : l.holds s) : l.holds (s.hushVoices ps).1 := by
  simp only [State.hushVoices]
  split
  · exact h
  · exact foldl_inv l.holds (fun _ _ h => by simp [h]) _ _ h

/-! ## Derivations and the traction controller's answers -/

@[simp] theorem reportTraction_lawful (before : TractionState) (h : l.holds s) : l.holds (s.reportTraction before) := by
  simp only [State.reportTraction]
  repeat' split
  all_goals simp [h]

@[simp] theorem zeroed_direction (t : Traction) : t.zeroed.direction = t.direction := rfl
@[simp] theorem quietStep_direction (t : Traction) : t.quietStep.direction = t.direction := rfl

@[simp] theorem derive_lawful (h : l.holds s) : l.holds s.derive :=
  handCommand_lawful _ (reportTraction_lawful _ (by simpa using h))

@[simp] theorem releaseLatch_lawful (h : l.holds s) : l.holds s.releaseLatch := by
  simp only [State.releaseLatch]
  repeat' split
  all_goals simp [h]

@[simp] theorem tractionShedChange_lawful (before : Nat) (h : l.holds s) : l.holds (s.tractionShedChange before) := by
  simp only [State.tractionShedChange]
  repeat' split
  all_goals simp [h]

@[simp] theorem tractionLatchReport_lawful (h : l.holds s) : l.holds s.tractionLatchReport := by
  simp only [State.tractionLatchReport]
  split
  · exact derive_lawful ((onTraction_lawful zeroed_direction).2 h)
  · exact derive_lawful h

@[simp] theorem tractionRunBegins_lawful (h : l.holds s) : l.holds s.tractionRunBegins := by
  simp [State.tractionRunBegins, h]

@[simp] theorem tractionRunEnds_lawful (h : l.holds s) : l.holds s.tractionRunEnds := by
  simp [State.tractionRunEnds, h]

@[simp] theorem tractionSetChange_lawful (h : l.holds s) : l.holds s.tractionSetChange := by
  simp only [State.tractionSetChange]
  split
  · exact stateLowerDuty_lawful _ (by simpa using h)
  · exact h

@[simp] theorem tractionEnterRun_lawful (h : l.holds s) : l.holds s.tractionEnterRun := by
  simp [State.tractionEnterRun, h]

@[simp] theorem tractionTeardown_lawful (h : l.holds s) : l.holds s.tractionTeardown := by
  unfold State.tractionTeardown
  refine handCommand_lawful _ (onBridges_lawful (release_lawful _) (release_lawful _) (handCommand_lawful _ ?_))
  simp [h]

@[simp] theorem handStopMode_lawful (h : l.holds s) : l.holds s.handStopMode := by
  simp [State.handStopMode, h]

/-! ## Balance runs, the lease and the emergency stop -/

@[simp] theorem onRun_lawful (f : BalanceRun → BalanceRun) : l.holds (s.onRun f) ↔ l.holds s := by
  simp [State.onRun]

/-- The lease is freed where no balance run marks it (R105). -/
theorem freeLease_lawful (hother : l = .lease → s.radio.lease ≠ .onBoard true) (h : l.holds s) : l.holds s.freeLease := by
  simp only [State.freeLease, raise_lawful]
  exact onRadio_lease (fun _ => rfl) (fun hl => ⟨fun hno => Lease.noConfusion hno, hother hl⟩) h

theorem onBalance_some {r : BalanceRun} (hrun : s.balance.run ≠ none) :
    l.holds (s.onBalance fun b => { b with run := some r }) ↔ l.holds s := by
  cases l with
  | lease => simp [Law.holds, State.onBalance, hrun]
  | noRun => simp [Law.holds, State.onBalance, hrun]
  | bridges | direction _ | repeats | supply | fan | voices | port _ _ _ => exact Iff.rfl

/-- A run begins with its mark on the lease (R105). -/
theorem beginRun_lawful (r : BalanceRun) (hl : l ≠ .noRun) (h : l.holds s) : l.holds (s.beginRun r) := by
  refine derive_lawful ?_
  have hmarked : l.holds ((s.onBalance fun b => { b with run := some r }).onRadio fun v =>
      { v with lease := .onBoard true }) := by
    cases l with
    | lease => exact iff_of_true (by simp [State.onBalance, State.onRadio]) rfl
    | noRun => exact absurd rfl hl
    | bridges | direction _ | repeats | supply | fan | voices | port _ _ _ => exact h
  unfold State.markLease
  simp only
  split
  · exact (raise_lawful _).2 hmarked
  · exact hmarked

/-- A run ends with its mark (R108). -/
@[simp] theorem closeRun_lawful (r : BalanceRun) (outcome : OutcomeCode) (g : Nat) (h : l.holds s) :
    l.holds (s.closeRun r outcome g) := by
  have hfreed : l.holds (((s.onBalance fun b => { b with run := none }).completeSlot r.slot outcome r.written
      (runResult r g)).freeLease) := by
    cases l with
    | lease => exact iff_of_false (by simp [State.freeLease, State.onBalance]) (by simp [State.freeLease, State.raise, State.onPort, State.onRadio])
    | noRun => simp [Law.holds, State.freeLease, State.onBalance]
    | bridges | direction _ | repeats | supply | fan | voices | port _ _ _ =>
      refine freeLease_lawful (fun hno => Law.noConfusion hno) ?_
      exact (completeSlot_lawful _ _ _ _).2 h
  refine derive_lawful ((onTraction_lawful ?_).2 hfreed)
  exact fun _ => rfl

@[simp] theorem endRun_lawful (outcome : OutcomeCode) (h : l.holds s) : l.holds (s.endRun outcome) := by
  simp only [State.endRun]
  repeat' split
  all_goals simp [h]

@[simp] theorem finishRun_lawful (r : BalanceRun) (h : l.holds s) : l.holds (s.finishRun r) := by
  simp [State.finishRun, h]

theorem beginRunStep_lawful (r : BalanceRun) (hrun : s.balance.run ≠ none) : l.holds (s.beginRunStep r) ↔ l.holds s := by
  simp only [State.beginRunStep, writeStep_lawful]
  exact onBalance_some hrun

@[simp] theorem balanceStep_lawful (m : Nat) (h : l.holds s) : l.holds (s.balanceStep m) := by
  simp only [State.balanceStep]
  split
  · exact h
  · next r hr =>
    have hrun : s.balance.run ≠ none := by simp [hr]
    repeat' split
    all_goals simp [h, hrun, beginRunStep_lawful, onBalance_some]

@[simp] theorem holdRun_lawful (h : l.holds s) : l.holds (s.holdRun.1) := by
  simp only [State.holdRun]
  repeat' split
  all_goals simp [h]

@[simp] theorem resumeRun_lawful : l.holds (s.resumeRun.1) ↔ l.holds s := by
  simp only [State.resumeRun]
  repeat' split
  all_goals simp

@[simp] theorem emergencyStop_lawful (h : l.holds s) : l.holds s.emergencyStop := by
  simp only [State.emergencyStop]
  exact endRun_lawful _ (by simp [h])

@[simp] theorem tellFunctions_lawful (before : Reg) (h : l.holds s) : l.holds (s.tellFunctions before) := by
  simp [State.tellFunctions, h]

@[simp] theorem setFunctions_lawful (functions : Reg) (h : l.holds s) : l.holds (s.setFunctions functions) := by
  simp [State.setFunctions, h]

@[simp] theorem applyRequest_lawful (throttle : Nat) (direction : Direction) (h : l.holds s) :
    l.holds (s.applyRequest throttle direction) := by
  simp only [State.applyRequest]
  repeat' split
  all_goals simp [h]

theorem releaseLease_lawful (hother : l = .lease → s.radio.lease ≠ .onBoard true) (h : l.holds s) :
    l.holds s.releaseLease :=
  releaseLatch_lawful (freeLease_lawful hother h)

theorem heldBy_other {lease : Lease} {sender cls : Nat} (h : lease.heldBy sender cls = true) : lease ≠ .onBoard true := by
  rintro rfl
  exact absurd h (by simp [Lease.heldBy])

@[simp] theorem hearHolder_lawful (f : Frame) (h : l.holds s) : l.holds (s.hearHolder f) := by
  unfold State.hearHolder
  split
  · next hheld => exact onRadio_lease (fun _ => rfl) (fun _ => ⟨fun hno => Lease.noConfusion hno, heldBy_other hheld⟩) h
  · exact h

theorem takeLease_lawful (sender cls : Nat) (hother : l = .lease → s.radio.lease ≠ .onBoard true) (h : l.holds s) :
    l.holds (s.takeLease sender cls) :=
  (raise_lawful _).2 (onRadio_lease (fun _ => rfl) (fun hl => ⟨fun hno => Lease.noConfusion hno, hother hl⟩) h)

/-- The host takes a lease that no balance run marks. -/
theorem hostTakes_lawful (hother : l = .lease → s.radio.lease ≠ .onBoard true) (h : l.holds s) :
    l.holds (s.onRadio fun r => { r with lease := .onBoard false, failsafe := false }) :=
  onRadio_lease (fun _ => rfl) (fun hl => ⟨by simp, hother hl⟩) h

@[simp] theorem overduePoints_lawful (h : l.holds s) : l.holds s.overduePoints := by
  simp only [State.overduePoints]
  split
  · next hlease =>
    have hrelease : ∀ u : State, u.radio.lease = s.radio.lease → l.holds u → l.holds u.releaseLease :=
      fun u hu => releaseLease_lawful fun _ => by simp [hu, hlease]
    repeat' split
    · exact hrelease _ rfl (by simp [h])
    · simp [h]
    · exact hrelease s rfl h
    · exact h
  · exact h
  · exact h

@[simp] theorem loadRadio_lawful (m : Memory) (h : l.holds s) : l.holds (s.loadRadio m) := by
  simp [State.loadRadio, h]

@[simp] theorem hostLease_lawful (h : l.holds s) : l.holds s.hostLease := by
  unfold State.hostLease
  split
  · next hnone => exact (raise_lawful _).2 (hostTakes_lawful (fun _ => by simp [hnone]) h)
  · exact h

@[simp] theorem throttleOrder_lawful (ps : List Byte) (h : l.holds s) : l.holds ((s.throttleOrder ps).1) := by
  simp only [State.throttleOrder]
  repeat' split
  all_goals simp [h]

@[simp] theorem functionsOrder_lawful (ps : List Byte) (h : l.holds s) : l.holds ((s.functionsOrder ps).1) := by
  simp [State.functionsOrder, h]

@[simp] theorem leaseTakeOrder_lawful (ps : List Byte) (h : l.holds s) : l.holds (s.leaseTakeOrder ps).1 := by
  simp only [State.leaseTakeOrder]
  split
  · exact h
  · split
    · exact h
    · exact h
    · exact h
    all_goals
      next hlease => exact (raise_lawful _).2 (hostTakes_lawful (fun _ => by simp [hlease]) h)

@[simp] theorem leaseReleaseOrder_lawful (ps : List Byte) (h : l.holds s) : l.holds (s.leaseReleaseOrder ps).1 := by
  simp only [State.leaseReleaseOrder]
  split
  · exact h
  · split
    · exact h
    · next hlease => exact releaseLease_lawful (fun _ => by simp [hlease]) h
    · exact h
    · exact h

/-! ## Shorts, latches and their clearing -/

/-- A field of one bridge of which its law says nothing. -/
theorem onBridgeField_lawful {id : BridgeId} {f : Bridge → Bridge}
    (hf : ∀ b, (f b).state = b.state ∧ (f b).gates = b.gates ∧ (f b).asked = b.asked ∧ (f b).offAt = b.offAt
      ∧ (f b).phase = b.phase ∧ (f b).onEnd = b.onEnd ∧ (f b).blanking = b.blanking ∧ (f b).chopArmed = b.chopArmed)
    (h : l.holds s) : l.holds (s.onBridges fun u => u.set id (f (u.get id))) := by
  refine onBridge_lawful (f := fun u => f (u.get id)) (fun hb => ?_) h
  obtain ⟨hstate, hgates, hasked, hoff, hphase, hend, hblanking, harmed⟩ := hf (s.bridges.get id)
  simpa only [bridgeLawful, restLawful, deadTimeLawful, hstate, hgates, hasked, hoff, hphase, hend, hblanking, harmed] using hb

@[simp] theorem recordShort_lawful (id : BridgeId) (h : l.holds s) : l.holds (s.recordShort id) := by
  simp only [State.recordShort, recordFault_lawful]
  exact onBridgeField_lawful (f := fun b => { b with episodes := b.episodes + 1 }) (fun _ => by simp) h

theorem gang_lawful {u : BridgeUnit} {now : Nat} (id : BridgeId) :
    (bridgeLawful u.a now → bridgeLawful (u.gang id now).a now) ∧ (bridgeLawful u.b now → bridgeLawful (u.gang id now).b now) := by
  unfold BridgeUnit.gang
  split
  · cases id with
    | a => exact ⟨latch_lawful, fun h => h⟩
    | b => exact ⟨fun h => h, latch_lawful⟩
  · exact ⟨fun h => h, fun h => h⟩

@[simp] theorem latchBridge_lawful (id : BridgeId) (h : l.holds s) : l.holds (s.latchBridge id) := by
  have hlatched : l.holds (s.onBridges fun u =>
      (u.set id ((u.get id).latch s.clock)).gang (BridgeId.other id) s.clock) := by
    cases id with
    | a => exact onBridges_lawful (fun hb => (gang_lawful _).1 (latch_lawful hb)) (fun hb => (gang_lawful _).2 hb) h
    | b => exact onBridges_lawful (fun hb => (gang_lawful _).1 hb) (fun hb => (gang_lawful _).2 (latch_lawful hb)) h
  simp only [State.latchBridge]
  exact endRun_lawful _ (tractionLatchReport_lawful (recordShort_lawful _ hlatched))

/-- A detection comes in an on-phase, which is of DRIVE alone. -/
theorem cycleShort_lawful {id : BridgeId} (hstate : l = .bridges → (s.bridges.get id).state = .drive) (h : l.holds s) :
    l.holds (s.cycleShort id) := by
  have hcut : l.holds (s.onBridges fun u => u.set id
      { (u.get id).cutPeriod s.clock with shortRun := min 200 ((s.bridges.get id).shortRun + 1) }) := by
    cases l with
    | bridges =>
      refine onBridge_lawful (l := .bridges) (f := fun u =>
        { (u.get id).cutPeriod s.clock with shortRun := min 200 ((s.bridges.get id).shortRun + 1) }) (fun hb => ?_) h
      exact cutPeriod_lawful (hstate rfl) hb
    | direction _ | repeats | supply | fan | voices | port _ _ _ | lease | noRun => exact h
  simp only [State.cycleShort]
  generalize (s.onBridges _) = u at hcut ⊢
  repeat' split
  all_goals simp [hcut]

theorem reportShort_lawful (id : BridgeId) (h : l.holds s) : l.holds (s.reportShort id) := by
  have hcount : l.holds (s.onBridges fun u => u.set id
      { u.get id with shortRun := min 200 ((s.bridges.get id).shortRun + 1) }) :=
    onBridgeField_lawful (f := fun b => { b with shortRun := min 200 ((s.bridges.get id).shortRun + 1) }) (fun _ => by simp) h
  simp only [State.reportShort]
  split
  · exact recordShort_lawful _ hcount
  · exact hcount

@[simp] theorem clearBridge_lawful (id : BridgeId) (h : l.holds s) : l.holds (s.clearBridge id) := by
  have hreleased : l.holds (s.onBridges fun u => u.clearFault id s.clock) :=
    onBridge_lawful (f := fun u => (u.get id).release s.clock u.held) (release_lawful _) h
  simp only [State.clearBridge]
  split
  · exact tractionLatchReport_lawful hreleased
  · exact hreleased

@[simp] theorem clearMask_lawful (mask : BitVec 32) (h : l.holds s) : l.holds (s.clearMask mask) := by
  simp only [State.clearMask]
  repeat' split
  all_goals simp [h]

@[simp] theorem clearFaultsOrder_lawful (ps : List Byte) (h : l.holds s) : l.holds ((s.clearFaultsOrder ps).1) := by
  simp [State.clearFaultsOrder, h]

/-! ## Starts, teardowns and the radio's frames -/

@[simp] theorem loadAnchor_lawful (m : Memory) (h : l.holds s) : l.holds (s.loadAnchor m) := by
  simp only [State.loadAnchor]
  rw [onSupply_lawful]
  · exact onBridges_lawful (fun hb => hb) (fun hb => hb) (by simpa using h)
  all_goals exact fun _ => rfl

@[simp] theorem loadLampTable_lawful (m : Memory) : l.holds (s.loadLampTable m) ↔ l.holds s := by
  simp [State.loadLampTable]

@[simp] theorem emptyZone_lawful : l.holds s.emptyZone ↔ l.holds s := by
  simp only [State.emptyZone]
  repeat' split
  all_goals simp

@[simp] theorem soundEnterRun_lawful (h : l.holds s) : l.holds s.soundEnterRun := by
  simp [State.soundEnterRun, h]

/-- The entry to RUN, once the run state says so; no balance run waits for it. -/
theorem enterRun_lawful (j : StartJob) (hrun : l = .lease → s.balance.run = none)
    (h : l.holds (s.onPort fun p => { p with run := .run, start := none, startFault := .ok })) : l.holds (s.enterRun j) := by
  simp only [State.enterRun, raise_lawful]
  refine soundEnterRun_lawful (tractionEnterRun_lawful ?_)
  cases l with
  | repeats => exact ⟨Nat.zero_le _, List.nodup_nil⟩
  | lease => exact iff_of_false (by simp [State.onRadio, State.onSets, State.onPort, hrun rfl]) (fun hno => Lease.noConfusion hno)
  | bridges | direction _ | supply | fan | voices | port _ _ _ | noRun =>
    exact (emptyZone_lawful.2 ((onSets_lawful _).2 h))

theorem endRun_noRun (s : State) (outcome : OutcomeCode) : (s.endRun outcome).balance.run = none := by
  unfold State.endRun
  split
  · rw [State.closeRun_eq]
    simp
  · next hnone => exact hnone

/-- A teardown, once the run state says so. -/
theorem teardown_lawful (h : l.holds (s.onPort fun p => { p with run := .quiet, teardownPending := false })) :
    l.holds s.teardown := by
  simp only [State.teardown, raise_lawful, onSets_lawful]
  have hrun := endRun_noRun ((s.onPort fun p => { p with run := .quiet, teardownPending := false }).tractionTeardown) .aborted
  have hstops := soundStop_lawful (endRun_lawful .aborted (tractionTeardown_lawful h))
  have hbalance := State.soundStop_frame
    (((s.onPort fun p => { p with run := .quiet, teardownPending := false }).tractionTeardown).endRun .aborted)
  generalize State.endRun _ _ = v at hrun hstops hbalance
  have hnone : v.soundStop.balance.run = none := by simp [hrun]
  generalize State.soundStop _ = u at hstops hnone
  have hdrives : l.holds (u.onFan fun f => f.teardown u.clock) :=
    onFan_drives (duty := 0) periodStart_le rfl rfl rfl hstops
  have hlamps := (onLamps_lawful (f := fun unit =>
    { unit with lamps := unit.lamps.map Lamp.teardown, heater := unit.heater.teardown }) fun _ => rfl).2 hdrives
  have hunit : ((u.onFan fun f => f.teardown u.clock).onLamps fun unit =>
      { unit with lamps := unit.lamps.map Lamp.teardown, heater := unit.heater.teardown })
        = u.onLamps fun unit => unit.teardown u.clock := rfl
  rw [hunit] at hlamps
  cases l with
  | lease => exact iff_of_false (by simp [State.onRadio, State.onLamps, hnone]) (fun hno => Lease.noConfusion hno)
  | bridges | direction _ | repeats | supply | fan | voices | port _ _ _ | noRun => exact emptyZone_lawful.2 hlamps

@[simp] theorem requestTeardown_lawful (hl : l.portless) (h : l.holds s) : l.holds s.requestTeardown := by
  simp only [State.requestTeardown]
  repeat' split
  all_goals simp [h, teardown_lawful, onPort_portless hl]

@[simp] theorem tellSetChange_lawful (h : l.holds s) : l.holds s.tellSetChange := by
  simp only [State.tellSetChange, heaterSetChange_lawful]
  exact soundSetChange_lawful (tractionSetChange_lawful h)

@[simp] theorem changeSet_lawful (a : SetAction) (d : DriveSet) (clamped : Bool) :
    l.holds (s.changeSet a d clamped) ↔ l.holds s := by
  simp [State.changeSet]

@[simp] theorem applyAction_lawful (a : SetAction) (d : DriveSet) (clamped : Bool) (h : l.holds s) :
    l.holds (s.applyAction a d clamped) := by
  simp only [State.applyAction]
  repeat' split
  all_goals simp [h]

@[simp] theorem reportAction_lawful (a : SetAction) (outcome : OutcomeCode) : l.holds (s.reportAction a outcome) ↔ l.holds s := by
  simp only [State.reportAction]
  repeat' split
  all_goals simp

@[simp] theorem conclude_lawful (a : SetAction) (d : Option (DriveSet × Bool)) (h : l.holds s) :
    l.holds (s.conclude a d) := by
  simp only [State.conclude]
  repeat' split
  all_goals simp [h]

@[simp] theorem queueIs_lawful (q : List SetAction) : l.holds (s.queueIs q) ↔ l.holds s := by
  simp [State.queueIs]

@[simp] theorem takeWaiting_lawful (waiting : List SetAction) (h : l.holds s) : l.holds (State.takeWaiting waiting s) := by
  induction waiting generalizing s with
  | nil => simpa [State.takeWaiting] using h
  | cons a rest ih =>
    simp only [State.takeWaiting]
    split
    · simpa using h
    · exact ih (conclude_lawful _ _ h)

@[simp] theorem abandonAction_lawful (a : SetAction) : l.holds (s.abandonAction a) ↔ l.holds s := by
  simp only [State.abandonAction]
  repeat' split
  all_goals simp

@[simp] theorem abandonWaiting_lawful (waiting : List SetAction) (h : l.holds s) : l.holds (s.abandonWaiting waiting) := by
  simp only [State.abandonWaiting, queueIs_lawful]
  exact foldl_inv l.holds (fun _ _ h => by simp [h]) _ _ h

@[simp] theorem nextAction_lawful (hl : l.portless) (h : l.holds s) : l.holds s.nextAction := by
  simp only [State.nextAction]
  repeat' split
  all_goals simp [h, teardown_lawful, onPort_portless hl]

@[simp] theorem decideAction_lawful (a : SetAction) (hl : l.portless) (h : l.holds s) : l.holds (s.decideAction a) := by
  simp [State.decideAction, h, hl]

@[simp] theorem actionArrives_lawful (a : SetAction) (h : l.holds s) : l.holds (s.actionArrives a) := by
  simp only [State.actionArrives]
  repeat' split
  all_goals simp [h]

@[simp] theorem requestAction_lawful (code index level : Nat) (source : Requestor) (h : l.holds s) :
    l.holds (s.requestAction code index level source) := by
  simp only [State.requestAction]
  repeat' split
  all_goals simp [h]

@[simp] theorem decideHead_lawful (kind : SetActionKind) (hl : l.portless) (h : l.holds s) : l.holds (s.decideHead kind) := by
  simp only [State.decideHead]
  repeat' split
  all_goals simp [h, hl]

end Sys2Proof.BlockLaws
end

section
/-! PROOFS. Every command and the idle step keep the laws of single blocks, and the laws of the bridges (O57), of the actual
direction (O34), and of repeat table, supply, fan and voices (parts of O59) with them. -/

namespace Sys2Proof.BlockLaws
open Sys2Proof.Machine Sys2Proof.Safety

variable {l : Law} {s : State}

/-! ## Orders and sweeps -/

@[simp] theorem beginSweep_lawful : l.holds s.beginSweep ↔ l.holds s := by
  simp [State.beginSweep]

@[simp] theorem requestSweep_lawful (hl : l.portless) : l.holds s.requestSweep ↔ l.holds s := by
  simp only [State.requestSweep]
  repeat' split
  all_goals simp [onPort_portless hl]

@[simp] theorem onSweep_lawful (f : Sweep → Sweep) : l.holds (s.onSweep f) ↔ l.holds s := by
  simp [State.onSweep]

@[simp] theorem dropOrder_lawful : l.holds s.dropOrder ↔ l.holds s := by
  simp [State.dropOrder]

@[simp] theorem completeOrder_lawful (o : TakenOrder) (outcome : OutcomeCode) (result : List Byte) : l.holds (s.completeOrder o outcome result) ↔ l.holds s := by
  simp [State.completeOrder]

@[simp] theorem passSlot_lawful (n : Nat) (current : Option TakenOrder) : l.holds (s.passSlot n current) ↔ l.holds s := by
  simp [State.passSlot]

@[simp] theorem takeSlot_lawful (n : Nat) (bytes : List Byte) : l.holds (s.takeSlot n bytes) ↔ l.holds s := by
  simp only [State.takeSlot]
  repeat' split
  all_goals simp

@[simp] theorem sweepAccess_lawful (w : Sweep) : l.holds (s.sweepAccess w) ↔ l.holds s := by
  simp only [State.sweepAccess]
  repeat' split
  all_goals simp

theorem runOrder_lawful {mine : TakenOrder → Bool} {act : State → TakenOrder → OrderAnswer}
    (hact : ∀ o, l.holds s → l.holds (act s o).1) (h : l.holds s) : l.holds (s.runOrder mine act) := by
  unfold State.runOrder
  split
  · next o _ =>
    split
    · simpa using h
    · simpa using hact o h
  · exact h

theorem handOver_lawful {kind : Nat} {act : State → TakenOrder → State}
    (hact : ∀ o, ∀ u : State, l.holds u → l.holds (act u o)) (h : l.holds s) : l.holds (s.handOver kind act) := by
  unfold State.handOver
  split
  · next o _ =>
    split
    · simpa using h
    · exact hact o _ ((dropOrder_lawful).2 h)
  · exact h

@[simp] theorem requestRefresh_lawful (o : TakenOrder) (h : l.holds s) : l.holds (s.requestRefresh o) :=
  actionArrives_lawful _ h

/-! ## Frames (R118, R119) -/

/-- A sender heard stands first in the table of at most eight (R119). -/
theorem hearSender_lawful {table : List RepeatEntry} (f : Frame) (now : Nat)
    (h : (table.map RepeatEntry.sender).Nodup) :
    (hearSender table f now).length ≤ 8 ∧ ((hearSender table f now).map RepeatEntry.sender).Nodup := by
  unfold hearSender
  refine ⟨by simp, ?_⟩
  rw [List.map_take]
  refine List.Nodup.sublist (List.take_sublist _ _) ?_
  rw [List.map_cons, List.nodup_cons]
  refine ⟨fun hmem => ?_, List.Nodup.sublist (List.Sublist.map _ List.filter_sublist) h⟩
  obtain ⟨e, he, heq⟩ := List.mem_map.1 hmem
  simp only [List.mem_filter, decide_eq_true_eq] at he
  exact he.2 heq

@[simp] theorem checkFrame_lawful (bytes : List Byte) (h : l.holds s) : l.holds (s.checkFrame bytes) := by
  unfold State.checkFrame
  split
  · exact onRadio_repeats (fun _ => rfl) (fun hr => hearSender_lawful _ _ hr.2) h
  · exact h

@[simp] theorem checkWaiting_lawful (waiting : List (List Byte)) (h : l.holds s) :
    l.holds (State.checkWaiting waiting s) := by
  induction waiting generalizing s with
  | nil => simpa [State.checkWaiting] using h
  | cons bytes rest ih =>
    simp only [State.checkWaiting]
    split
    · simpa using checkFrame_lawful bytes h
    · exact ih (checkFrame_lawful bytes h)

@[simp] theorem frameDone_lawful (h : l.holds s) : l.holds s.frameDone := by
  simp [State.frameDone, h]

@[simp] theorem frameComplete_lawful (bytes : List Byte) (h : l.holds s) : l.holds (s.frameComplete bytes) := by
  simp only [State.frameComplete]
  repeat' split
  all_goals simp [h]

@[simp] theorem receive_lawful (r : Receiver) : l.holds (s.receive r) ↔ l.holds s := by
  simp [State.receive]

@[simp] theorem takeByte_lawful (b : Byte) (h : l.holds s) : l.holds (s.takeByte b) := by
  simp only [State.takeByte]
  repeat' split
  all_goals simp [h]

theorem handleFrame_lawful {mine : Frame → Bool} {act : State → Frame → State}
    (hact : ∀ f, ∀ u : State, l.holds u → l.holds (act u f)) (h : l.holds s) : l.holds (s.handleFrame mine act) := by
  unfold State.handleFrame State.actOn
  split
  · next f _ =>
    split
    · refine frameDone_lawful ?_
      have hheard : l.holds (s.hearHolder f) := hearHolder_lawful f h
      simp only
      split
      · exact hact f _ hheard
      · exact (logFrame_lawful _ _).2 hheard
    · exact h
  · exact h

@[simp] theorem beaconZone_lawful (f : Frame) : l.holds (s.beaconZone f) ↔ l.holds s := by
  simp only [State.beaconZone]
  repeat' split
  all_goals simp

@[simp] theorem beaconStation_lawful (f : Frame) : l.holds (s.beaconStation f) ↔ l.holds s := by
  simp only [State.beaconStation]
  repeat' split
  all_goals simp

@[simp] theorem beaconHorn_lawful (h : l.holds s) : l.holds s.beaconHorn := by
  simp only [State.beaconHorn]
  repeat' split
  all_goals simp [h]

theorem leaseTakes_other {lease : Lease} {cls : Nat} (h : leaseTakes lease cls = true) : lease ≠ .onBoard true := by
  rintro rfl
  exact absurd h (by simp [leaseTakes])

theorem throttleAct_lawful (f : Frame) (h : l.holds s) : l.holds (throttleAct s f) := by
  simp only [throttleAct]
  split
  · simp [h]
  · split
    · simp [h]
    · split
      · next htakes => exact applyRequest_lawful _ _ (takeLease_lawful _ _ (fun _ => leaseTakes_other htakes) h)
      · simp [h]

theorem releaseAct_lawful (f : Frame) (h : l.holds s) : l.holds (releaseAct s f) := by
  unfold releaseAct
  split
  · next hheld => exact releaseLease_lawful (fun _ => heldBy_other hheld) h
  · exact h

theorem funcAct_lawful (f : Frame) (h : l.holds s) : l.holds (funcAct s f) := by
  simp only [funcAct]
  repeat' split
  all_goals simp [h]

theorem stopAct_lawful (f : Frame) (h : l.holds s) : l.holds (stopAct s f) := by
  simp [stopAct, h]

theorem setAct_lawful (f : Frame) (h : l.holds s) : l.holds (setAct s f) := by
  simp only [setAct]
  repeat' split
  all_goals simp [h]

theorem passAct_lawful (f : Frame) (h : l.holds s) : l.holds (passAct s f) := by
  simp only [passAct]
  repeat' split
  all_goals simp [h]

theorem joinAct_lawful (f : Frame) (h : l.holds s) : l.holds (joinAct s f) := by
  simp only [joinAct]
  repeat' split
  all_goals simp [h]

theorem leaveAct_lawful (f : Frame) (h : l.holds s) : l.holds (leaveAct s f) := by
  simp only [leaveAct]
  repeat' split
  all_goals simp [h]

theorem beaconAct_lawful (f : Frame) (h : l.holds s) : l.holds (beaconAct s f) := by
  simp only [beaconAct]
  repeat' split
  all_goals simp [h]

/-! ## Status updates, resets and the rewrites of memory -/

@[simp] theorem writeGeneration_lawful : l.holds s.writeGeneration ↔ l.holds s := by
  simp [State.writeGeneration]

@[simp] theorem writeStatusWord_lawful (k : Nat) : l.holds (s.writeStatusWord k) ↔ l.holds s := by
  simp [State.writeStatusWord]

@[simp] theorem beginUpdate_lawful : l.holds s.beginUpdate ↔ l.holds s := by
  simp [State.beginUpdate]

@[simp] theorem endUpdate_lawful : l.holds s.endUpdate ↔ l.holds s := by
  simp [State.endUpdate]

@[simp] theorem writeStatusWords_lawful (k n : Nat) : l.holds (State.writeStatusWords k n s) ↔ l.holds s := by
  induction n generalizing s k with
  | zero => rfl
  | succ n ih => simp [State.writeStatusWords, ih]

@[simp] theorem finishUpdate_lawful (k : Nat) : l.holds (s.finishUpdate k) ↔ l.holds s := by
  simp only [State.finishUpdate]
  repeat' split
  all_goals simp

@[simp] theorem emptySegment_lawful (clip : Nat) (second : Bool) : l.holds (s.emptySegment clip second) ↔ l.holds s := by
  simp only [State.emptySegment]
  repeat' split
  all_goals simp

@[simp] theorem resetAccess_lawful (t : ResetTask) : l.holds ((s.resetAccess t).1) ↔ l.holds s := by
  simp only [State.resetAccess]
  repeat' split
  all_goals simp

@[simp] theorem resetTask_lawful (t : ResetTask) : l.holds (s.resetTask t) ↔ l.holds s := by
  simp only [State.resetTask]
  repeat' split
  all_goals simp

@[simp] theorem endReset_lawful (j : ResetJob) (hl : l.portless) : l.holds (s.endReset j) ↔ l.holds s := by
  simp only [State.endReset]
  split
  all_goals simp [onPort_portless hl]

/-- A bridge with its gates off keeps its law when its rest pattern stands. -/
theorem bridgeLawful_off {b : Bridge} {now : Nat} (hgates : b.gates = Gates.none) (hrest : restLawful b) :
    bridgeLawful b now := by
  simp only [bridgeLawful, gatesSafe, gatesWithin, deadTimeLawful, hgates]
  simp [Gates.none, hrest]

theorem reset_lawful (hl : l.steady) (hp : l.portless) : l.holds State.reset := by
  cases l with
  | bridges => exact ⟨bridgeLawful_off rfl fun _ => ⟨rfl, rfl, rfl, rfl, rfl⟩, bridgeLawful_off rfl fun _ => ⟨rfl, rfl, rfl, rfl, rfl⟩⟩
  | direction d => exact hl.elim
  | repeats => exact ⟨by decide, by decide⟩
  | supply => exact ⟨by decide, by decide, by decide⟩
  | fan => exact ⟨by decide, by decide, by decide, fun h => absurd h (by decide), fun h => absurd h (by decide)⟩
  | voices => exact ⟨by decide, fun v hv => .inl (by revert v; decide)⟩
  | port _ _ _ => exact hp.elim
  | lease => exact iff_of_false (by decide) (by decide)
  | noRun => rfl

theorem resetWith_lawful (tasks : List ResetTask) (hl : l.portless) (h : l.holds State.reset) :
    l.holds (s.resetWith tasks) := by
  cases l with
  | port _ _ _ => exact hl.elim
  | bridges | direction _ | repeats | supply | fan | voices | lease | noRun => exact h

theorem resetKeeping_lawful (cause : Byte) (hl : l.portless) (h : l.holds State.reset) :
    l.holds (s.resetKeeping cause) := by
  rw [State.resetKeeping, onRadio_lawful]
  · exact resetWith_lawful _ hl h
  · exact fun _ => ⟨rfl, rfl⟩

/-! ## The idle step -/

@[simp] theorem endStage_lawful (j : StartJob) (h : l.holds s) : l.holds ((s.endStage j).1) := by
  simp only [State.endStage]
  repeat' split
  all_goals simp [h]

@[simp] theorem startAccess_lawful (j : StartJob) (hl : l.portless) (h : l.holds s) : l.holds (s.startAccess j) := by
  simp only [State.startAccess]
  repeat' split
  all_goals simp [h, onPort_portless hl]

@[simp] theorem endLoads_lawful (n : Nat) (j : StartJob) (h : l.holds s) : l.holds (State.endLoads n s j).1 := by
  induction n generalizing s j with
  | zero => exact h
  | succ n ih =>
    simp only [State.endLoads]
    split
    · exact h
    · exact ih _ (endStage_lawful _ ((reads_lawful _).2 h))

@[simp] theorem resetGoesOn_lawful (todo : List ResetTask) (hl : l.portless) : l.holds (s.resetGoesOn todo) ↔ l.holds s := by
  simp only [State.resetGoesOn]
  repeat' split
  all_goals simp [onPort_portless hl]

@[simp] theorem grantReset_lawful (hl : l.portless) : l.holds s.grantReset ↔ l.holds s := by
  simp only [State.grantReset]
  repeat' split
  all_goals simp [hl]

@[simp] theorem grantLoad_lawful : l.holds s.grantLoad ↔ l.holds s := by
  simp [State.grantLoad]

@[simp] theorem grantOrderLoad_lawful : l.holds s.grantOrderLoad ↔ l.holds s := by
  simp [State.grantOrderLoad]

@[simp] theorem grantRefresh_lawful (h : l.holds s) : l.holds s.grantRefresh := by
  simp only [State.grantRefresh]
  repeat' split
  all_goals simp [h]

@[simp] theorem grantOrders_lawful (hl : l.portless) (h : l.holds s) : l.holds s.grantOrders := by
  simp only [State.grantOrders]
  repeat' split
  all_goals simp [h, hl]

@[simp] theorem updateWritten_lawful (hl : l.portless) : l.holds s.updateWritten ↔ l.holds s := by
  simp only [State.updateWritten]
  repeat' split
  all_goals simp [hl]

@[simp] theorem grantStatus_lawful (hl : l.portless) : l.holds s.grantStatus ↔ l.holds s := by
  simp only [State.grantStatus]
  repeat' split
  all_goals simp [hl]

@[simp] theorem grantRadio_lawful : l.holds s.grantRadio ↔ l.holds s := by
  simp only [State.grantRadio]
  repeat' split
  all_goals simp

@[simp] theorem grant_lawful (r : Requester) (hl : l.portless) (h : l.holds s) : l.holds (s.grant r) := by
  cases r <;> simp [State.grant, h, hl]

@[simp] theorem grants_lawful (n : Nat) (hl : l.portless) (h : l.holds s) : l.holds (State.grants n s) := by
  induction n generalizing s with
  | zero => exact h
  | succ n ih =>
    simp only [State.grants]
    split
    · exact ih ((grantReset_lawful hl).2 h)
    · split
      · exact ih (grant_lawful _ hl h)
      · exact h

theorem idle_lawful (hl : l.portless) (h : l.holds s) : l.holds (idle s) :=
  (drawn_lawful 1).2 (grants_lawful _ hl (atClock_lawful (Nat.le_succ _) h))

/-! ## The regulation step -/

@[simp] theorem stepInputs_lawful (h : l.holds s) : l.holds s.stepInputs := by
  have hchops : l.holds (s.onBridges fun u => { u with a := u.a.rotateChop, b := u.b.rotateChop }) :=
    onBridges_lawful (fun hb => hb) (fun hb => hb) h
  simp only [State.stepInputs]
  generalize (s.onBridges _) = u at hchops ⊢
  generalize (if u.isRun = true then u.traction.lowest else 0) = applied
  refine (onTraction_lawful ?_).2 ((takeRate_lawful).2 ?_)
  · exact fun _ => rfl
  · split
    · exact endRun_lawful _ ((lossDetection_lawful _).2 hchops)
    · exact (lossDetection_lawful _).2 hchops

theorem balanceControl_lawful (d : Direction) (hl : l.steady) (h : l.holds s) : l.holds (s.balanceControl d) := by
  have hworks := balanceStep_lawful s.motion.m (onTraction_steady (f := fun t =>
    { t with t := 0, c := 0, i := 0, zeroHold := 0, pending := false, direction := d }) hl h)
  simp only [State.balanceControl]
  split
  · exact onTraction_steady hl hworks
  · exact hworks

theorem control_lawful (hl : l.steady) (h : l.holds s) : l.holds s.control := by
  unfold State.control
  split
  · exact onTraction_steady hl h
  · split
    · exact balanceControl_lawful _ hl h
    · exact onTraction_steady hl h

@[simp] theorem stepEnds_lawful (h : l.holds s) : l.holds s.stepEnds := by
  simp only [State.stepEnds]
  refine (onTraction_lawful ?_).2 (derive_lawful ((onTraction_lawful ?_).2 h))
  all_goals exact fun _ => rfl

theorem regulationStep_lawful (hl : l.steady) (h : l.holds s) : l.holds (regulationStep s) := by
  simp only [regulationStep]
  exact stepEnds_lawful (control_lawful hl (stepInputs_lawful (by simp [h])))

/-! ## The supply (R188 to R191) -/

/-- The levels of R190 and R191 but for the shed level that is formed of them. -/
def levelsLawful (u : Supply) : Prop := u.thermal ∈ [0, 1, 2, 5] ∧ u.level ≤ 5

/-- The shed level is formed of the two levels, whatever it was. -/
theorem formShed_lawful (hlevels : l = .supply → levelsLawful s.supply) (h : l ≠ .supply → l.holds s) :
    l.holds s.formShed := by
  simp only [State.formShed]
  split
  · next hsame =>
    cases l with
    | supply => exact ⟨(hlevels rfl).1, (hlevels rfl).2, hsame.symm⟩
    | bridges | direction _ | repeats | fan | voices | port _ _ _ | lease | noRun => exact h (by simp)
  · have hnew : l.holds (s.onSupply fun u => { u with shed := max s.supply.level s.supply.thermal }) := by
      cases l with
      | supply => exact ⟨(hlevels rfl).1, (hlevels rfl).2, rfl⟩
      | bridges | direction _ | repeats | fan | voices | port _ _ _ | lease | noRun => exact h (by simp)
    generalize (s.onSupply _) = u at hnew ⊢
    rw [raise_lawful]
    refine lampShedChange_lawful _ ?_
    unfold State.balanceShedChange
    split
    · exact endRun_lawful _ (tractionShedChange_lawful _ hnew)
    · exact tractionShedChange_lawful _ hnew

theorem rideLevel_levels {u : Supply} (h : levelsLawful u) : levelsLawful u.rideLevel := by
  have hstore : storeLevel u.cfg u.vsto ≤ 4 := by
    unfold storeLevel
    repeat' split
    all_goals decide
  have htime : timeLevel u.cfg u.ride ≤ 4 := by
    unfold timeLevel
    split <;> decide
  unfold Supply.rideLevel
  split
  · exact ⟨h.1, Nat.le_refl _⟩
  · exact ⟨h.1, Nat.max_le.2 ⟨h.2, Nat.max_le.2 ⟨by omega, by omega⟩⟩⟩

theorem levelTests_levels {u : Supply} (h : levelsLawful u) : levelsLawful u.levelTests := by
  unfold Supply.levelTests
  repeat' split
  all_goals exact ⟨h.1, by simp [h.2]⟩

theorem enterNormal_levels {u : Supply} (h : levelsLawful u) : levelsLawful u.enterNormal := by
  refine ⟨h.1, ?_⟩
  show (if _ then 1 else 0) ≤ 5
  split <;> decide

theorem countRide_levels {u : Supply} (h : levelsLawful u) : levelsLawful u.countRide := by
  unfold Supply.countRide
  split <;> exact h

/-- A supply sample works the supply level within 0 to 5 (R186, R188, R189). -/
theorem work_levels {u : Supply} (h : levelsLawful u) : levelsLawful u.work := by
  unfold Supply.work
  split
  · simp only
    split
    · exact rideLevel_levels (u := { u with state := .ride, ride := 0, back := 0, lost := u.lostAfter }) h
    · exact levelTests_levels (u := { u with lost := u.lostAfter }) h
  · simp only
    split
    · exact enterNormal_levels (u := { u with back := u.backAfter }) h
    · exact rideLevel_levels (countRide_levels (u := { u with back := u.backAfter }) h)
  · simp only
    split
    · exact enterNormal_levels (u := { u with back := u.backAfter }) h
    · exact ⟨(countRide_levels (u := { u with back := u.backAfter }) h).1, Nat.le_refl _⟩

theorem thermalNext_mem (current : Nat) (t : Int) : thermalNext current t ∈ [0, 1, 2, 5] := by
  unfold thermalNext
  repeat' split
  all_goals decide

theorem supplyReport_supply (s : State) (before : SupplyState) : (s.supplyReport before).supply = s.supply := by
  simp

theorem supplySample_lawful (vtrk vsto : Nat) (h : l.holds s) : l.holds (supplySample vtrk vsto s) := by
  simp only [supplySample]
  refine formShed_lawful (fun hl => ?_) (fun hl => ?_)
  · subst hl
    have hlevels : levelsLawful s.supply := ⟨h.1, h.2.1⟩
    simp only [State.onSupply, supplyReport_supply, levelsLawful]
    exact work_levels (u := { s.supply with vtrk := voltage vtrk, vsto := voltage vsto }) hlevels
  · refine (onSupply_lawful ?_ ?_ ?_).2 ?_
    iterate 3 exact fun _ => rfl
    unfold State.supplyReport
    have hworks : l.holds (((s.reach s.timers.supply).onTimers fun t =>
        { t with supply := (s.reach s.timers.supply).clock + ms 1 }).onSupply fun u =>
          { u with vtrk := voltage vtrk, vsto := voltage vsto }.work) :=
      onSupply_supply (fun hno => absurd hno hl) (by simp [h])
    generalize (State.onSupply _ _) = u at hworks ⊢
    repeat' split
    all_goals simp [hworks]

theorem dieTemperatureExpiry_lawful (celsius : Int) (h : l.holds s) : l.holds (dieTemperatureExpiry celsius s) := by
  simp only [dieTemperatureExpiry]
  refine formShed_lawful (fun hl => ?_) (fun hl => onSupply_supply (fun hno => absurd hno hl) (by simp [h]))
  subst hl
  exact ⟨thermalNext_mem _ _, h.2.1⟩

/-! ## Commands -/

/-- A start enters RUN; the law of the balance mark asks that no run waits for it. -/
theorem startEnd_lawful (hl : l.portless) (hrun : l = .lease → s.port.start ≠ none → s.balance.run = none) (h : l.holds s) : l.holds (startEnd s) := by
  simp only [startEnd]
  split
  · next j hj =>
    have hloads := endLoads_lawful 4 j h
    have hnone : l = .lease → (State.endLoads 4 s j).1.balance.run = none :=
      fun hlease => endLoads_lawful (l := .noRun) 4 j (hrun hlease (by simp [hj]))
    have hentered := enterRun_lawful (State.endLoads 4 s j).2 hnone ((onPort_portless hl).2 hloads)
    split
    · split
      · exact teardown_lawful ((onPort_portless hl).2 hentered)
      · exact hentered
    · exact h
  · exact h

theorem startRefused_lawful (hl : l.portless) (h : l.holds s) : l.holds (startRefused s) := by
  simp only [startRefused]
  split
  · next j _ =>
    have hloads := endLoads_lawful 4 j h
    split
    · simpa [onPort_portless hl] using hloads
    · exact h
  · exact h

@[simp] theorem requestStop_lawful (hl : l.portless) (h : l.holds s) : l.holds s.requestStop := by
  simp only [State.requestStop]
  repeat' split
  all_goals simp [h, hl, onPort_portless hl]

@[simp] theorem requestStart_lawful (hl : l.portless) : l.holds s.requestStart ↔ l.holds s := by
  simp only [State.requestStart]
  repeat' split
  all_goals simp [onPort_portless hl]

theorem deadTimeExpiry_lawful (id : BridgeId) (leg : Leg) (h : l.holds s) : l.holds (deadTimeExpiry id leg s) := by
  simp only [deadTimeExpiry]
  split
  · next t _ =>
    split
    · exact onBridge_lawful (id := id) (f := fun u => ((s.bridges.get id).ask (s.reach t).clock (s.bridges.get id).asked).noteConduct
        u.cfg (s.reach t).clock) (fun hb => noteConduct_lawful _ (askAgain_lawful hb)) (reach_lawful t h)
    · exact h
  · exact h

theorem blankingEnd_lawful (id : BridgeId) (h : l.holds s) : l.holds (blankingEnd id s) := by
  simp only [blankingEnd]
  split
  · next d hd =>
    split
    · refine onBridge_lawful (f := fun _ => { s.bridges.get id with blanking := none, chopArmed := true })
        (fun hb => ?_) (reach_lawful d h)
      change bridgeLawful (s.bridges.get id) (s.reach d).clock at hb
      obtain ⟨hgates, hrest⟩ := (bridgeLawful_iff _ _).1 hb
      refine bridgeLawful_of_drive ?_ hgates
      by_contra hstate
      obtain ⟨-, -, -, hnone, -⟩ := hrest hstate
      exact absurd (hd.symm.trans hnone) (by simp)
    · exact h
  · exact h

theorem chop_lawful (id : BridgeId) (millivolts : Nat) (h : l.holds s) : l.holds (chop id millivolts s) := by
  simp only [chop]
  split
  · split
    · next harmed =>
      refine onBridge_lawful (f := fun _ => Bridge.endOnPhase { s.bridges.get id with chopRunning := true } s.clock)
        (fun hb => ?_) h
      refine endOnPhase_lawful (b := { s.bridges.get id with chopRunning := true }) ?_ hb
      by_contra hstate
      obtain ⟨-, -, -, -, hno⟩ := hb.2.2.1 hstate
      exact absurd (harmed.1.symm.trans hno) (by decide)
    · exact h
  · exact h

theorem onPhaseEnd_lawful (id : BridgeId) (h : l.holds s) : l.holds (onPhaseEnd id s) := by
  simp only [onPhaseEnd]
  split
  · next e he =>
    exact onBridge_lawful (f := fun u => (u.get id).endOnPhase (s.reach e).clock)
      (fun hb => endOnPhase_lawful (state_of_onEnd hb he) hb) (reach_lawful e h)
  · exact h

theorem pwmPeriod_lawful (h : l.holds s) : l.holds (pwmPeriod s) := by
  simp only [pwmPeriod]
  exact onBridges_lawful (nextPeriod_lawful _ _) (nextPeriod_lawful _ _) (by simp [h])

/-- A detection is made in an on-phase, so on a bridge in DRIVE (R92). -/
theorem shortDetection_lawful (id : BridgeId) (millivolts since : Nat) (h : l.holds s) :
    l.holds (shortDetection id millivolts since s) := by
  simp only [shortDetection]
  split
  · next hseen =>
    have hphase : (s.bridges.get id).phase = .onPhase := by
      simp only [Bridge.shortSeen, Bool.and_eq_true, decide_eq_true_eq] at hseen
      exact hseen.1.1.1
    have hdrive : l = .bridges → (s.bridges.get id).state = .drive := by
      rintro rfl
      have hb : bridgeLawful (s.bridges.get id) s.clock := by cases id; exacts [h.1, h.2]
      by_contra hstate
      obtain ⟨-, hidle, -⟩ := hb.2.2.1 hstate
      exact absurd (hphase.symm.trans hidle) (by decide)
    have hdetected := onBridgeField_lawful (id := id) (f := fun b => { b with detected := true }) (fun _ => by simp)
      (reach_lawful (s.bridges.cfg.shortMoment ((s.bridges.get id).conduct.getD 0) since) h)
    have hstate : l = .bridges → (((s.reach (s.bridges.cfg.shortMoment ((s.bridges.get id).conduct.getD 0) since)).onBridges
        fun u => u.set id { u.get id with detected := true }).bridges.get id).state = .drive := by
      intro hl
      cases id <;> exact hdrive hl
    split
    · exact latchBridge_lawful id hdetected
    · exact cycleShort_lawful hstate hdetected
    · exact reportShort_lawful id hdetected
    · exact hdetected
  · exact h

theorem fanPwmPeriod_lawful (h : l.holds s) : l.holds (fanPwmPeriod s) := by
  simp only [fanPwmPeriod]
  exact onFan_drives (fun _ => Nat.le_refl _) rfl rfl rfl (by simp [h])

theorem fanOvercurrent_lawful (milliamps since : Nat) (h : l.holds s) : l.holds (fanOvercurrent milliamps since s) := by
  simp only [fanOvercurrent]
  split
  · rw [recordFault_lawful]
    exact onFan_drives (duty := 0) periodStart_le rfl rfl rfl (reach_lawful _ h)
  · exact h

theorem repeatWindowExpiry_lawful (sender : BitVec 16) (h : l.holds s) : l.holds (repeatWindowExpiry sender s) := by
  simp only [repeatWindowExpiry]
  split
  · refine onRadio_repeats (fun _ => rfl) (fun hr => ?_) (reach_lawful _ h)
    have hsenders : (s.radio.repeats.map (staleEntry sender.toNat)).map RepeatEntry.sender
        = s.radio.repeats.map RepeatEntry.sender := by
      rw [List.map_map]
      refine List.map_congr_left fun e _ => ?_
      simp only [Function.comp, staleEntry]
      split <;> rfl
    refine ⟨?_, ?_⟩
    · show (s.radio.repeats.map (staleEntry sender.toNat)).length ≤ 8
      rw [List.length_map]
      exact hr.1
    · show ((s.radio.repeats.map (staleEntry sender.toNat)).map RepeatEntry.sender).Nodup
      rw [hsenders]
      exact hr.2
  · exact h

theorem heaterTimerExpiry_lawful (thermistor : BitVec 10) (h : l.holds s) : l.holds (heaterTimerExpiry thermistor s) := by
  have htimed : l.holds ((s.reach s.timers.heater).onTimers fun t =>
      { t with heater := (s.reach s.timers.heater).clock + ms 100 }) := by simp [h]
  simp only [heaterTimerExpiry]
  generalize (State.onTimers _ _) = u at htimed ⊢
  repeat' split
  all_goals simp [htimed]

theorem mixerFrame_lawful (h : l.holds s) : l.holds (mixerFrame s) := by
  have hchuffs : l.holds ((s.reach s.timers.mixer).onTimers fun t =>
      { t with mixer := (s.reach s.timers.mixer).clock + ms 4 }).chuffCheck := chuffCheck_lawful (by simp [h])
  have hmaster : ∀ u : State, l.holds u → l.holds (u.updateEngine.onSound fun v => { v with master := masterVolume u.updateEngine }) :=
    fun u hu => by simp [hu]
  simp only [mixerFrame]
  generalize State.chuffCheck _ = u at hchuffs ⊢
  split
  · have hworks := hmaster _ hchuffs
    split
    · exact hworks
    · exact retryVoices_lawful hworks
  · have hworks := hmaster _ (fadeVoices_lawful hchuffs)
    split
    · exact hworks
    · exact retryVoices_lawful hworks

theorem sampleTimerExpiry_lawful (h : l.holds s) : l.holds (sampleTimerExpiry s) := by
  simp only [sampleTimerExpiry]
  split
  · simp [h]
  · exact advanceVoices_lawful (by simp [h])

@[simp] theorem writeMemory_lawful (addr : BitVec 16) (data : List Byte) : l.holds (writeMemory addr data s) ↔ l.holds s := by
  simp [writeMemory]

@[simp] theorem readMemory_lawful (addr : BitVec 16) (count : Nat) : l.holds (readMemory addr count s) ↔ l.holds s := by
  simp [readMemory]

@[simp] theorem registerWriteOther_lawful (number : Byte) (value : Reg) : l.holds (registerWriteOther number value s) ↔ l.holds s := by
  simp [registerWriteOther]

@[simp] theorem noticeWrite_lawful (value : Reg) : l.holds (noticeWrite value s) ↔ l.holds s := by
  simp [noticeWrite]

@[simp] theorem noticeMaskWrite_lawful (value : Reg) : l.holds (noticeMaskWrite value s) ↔ l.holds s := by
  simp [noticeMaskWrite]

@[simp] theorem invalidCommand_lawful (command : Byte) (more : Nat) : l.holds (invalidCommand command more s) ↔ l.holds s := by
  simp [invalidCommand]

@[simp] theorem start_lawful (hl : l.portless) : l.holds (start s) ↔ l.holds s := by
  simp [start, hl]

@[simp] theorem sweepWrite_lawful (value : Reg) (hl : l.portless) : l.holds (sweepWrite value s) ↔ l.holds s := by
  simp [sweepWrite, hl]

@[simp] theorem teardownCommand_lawful (hl : l.portless) (h : l.holds s) : l.holds (teardown s) := by
  simp [teardown, h, hl]

@[simp] theorem resetTasks_lawful (tasks : List ResetTask) (h : l.holds s) : l.holds (tasks.foldl State.resetTask s) :=
  foldl_inv l.holds (fun _ _ h => by simpa using h) tasks s h

theorem resetRewritesEnd_lawful (hl : l.portless) (h : l.holds s) : l.holds (resetRewritesEnd s) := by
  simp only [resetRewritesEnd]
  split
  · simp [h, hl]
  · exact h

@[simp] theorem sweepTimerExpiry_lawful (hl : l.portless) (h : l.holds s) : l.holds (sweepTimerExpiry s) := by
  simp only [sweepTimerExpiry]
  repeat' split
  all_goals simp [h, hl]

@[simp] theorem sweepEnd_lawful : l.holds (sweepEnd s) ↔ l.holds s := by
  simp only [sweepEnd]
  repeat' split
  all_goals simp

@[simp] theorem slotTake_lawful : l.holds (slotTake s) ↔ l.holds s := by
  simp only [slotTake]
  repeat' split
  all_goals simp

@[simp] theorem statusTimerExpiry_lawful (h : l.holds s) : l.holds (statusTimerExpiry s) := by
  simp only [statusTimerExpiry]
  repeat' split
  all_goals simp [h]

@[simp] theorem statusUpdateEnd_lawful : l.holds (statusUpdateEnd s) ↔ l.holds s := by
  simp only [statusUpdateEnd]
  repeat' split
  all_goals simp

@[simp] theorem axleEdge_lawful (rising : Bool) (captureTime : BitVec 32) (h : l.holds s) :
    l.holds (axleEdge rising captureTime s) := by
  simp only [axleEdge]
  repeat' split
  all_goals simp [h]

theorem orders_lawful (h : l.holds s) : l.holds (throttleOrder s) ∧ l.holds (functions s) ∧ l.holds (stopOrder s)
    ∧ l.holds (loadLamps s) ∧ l.holds (loadRadio s) ∧ l.holds (play s) ∧ l.holds (hush s) ∧ l.holds (holdBalance s)
    ∧ l.holds (resumeBalance s) ∧ l.holds (clearFaults s) ∧ l.holds (leaseTake s) ∧ l.holds (leaseRelease s) := by
  refine ⟨?_, ?_, ?_, ?_, ?_, ?_, ?_, ?_, ?_, ?_, ?_, ?_⟩ <;> refine runOrder_lawful (fun o hs => ?_) h
  · exact throttleOrder_lawful _ hs
  · exact functionsOrder_lawful _ hs
  · exact emergencyStop_lawful hs
  · exact (onEachLamp_lawful _).2 hs
  · exact loadRadio_lawful _ hs
  · exact playClip_lawful _ hs
  · exact hushVoices_lawful _ hs
  · exact holdRun_lawful hs
  · exact (resumeRun_lawful).2 hs
  · exact clearFaultsOrder_lawful _ hs
  · exact leaseTakeOrder_lawful _ hs
  · exact leaseReleaseOrder_lawful _ hs

theorem balance_lawful (hl : l ≠ .noRun) (h : l.holds s) : l.holds (balance s) := by
  simp only [balance]
  repeat' split
  all_goals simp [h, beginRun_lawful _ hl]

theorem frames_lawful (h : l.holds s) : l.holds (throttleFrame s) ∧ l.holds (funcFrame s) ∧ l.holds (releaseFrame s)
    ∧ l.holds (stopFrame s) ∧ l.holds (setFrame s) ∧ l.holds (passFrame s) ∧ l.holds (consistJoin s)
    ∧ l.holds (consistLeave s) ∧ l.holds (beaconFrame s) := by
  refine ⟨?_, ?_, ?_, ?_, ?_, ?_, ?_, ?_, ?_⟩ <;> refine handleFrame_lawful (fun f u hu => ?_) h
  · exact throttleAct_lawful f hu
  · exact funcAct_lawful f hu
  · exact releaseAct_lawful f hu
  · exact stopAct_lawful f hu
  · exact setAct_lawful f hu
  · exact passAct_lawful f hu
  · exact joinAct_lawful f hu
  · exact leaveAct_lawful f hu
  · exact beaconAct_lawful f hu

@[simp] theorem serviceWrite_lawful (h : l.holds s) : l.holds (serviceWrite s) := by
  simp only [serviceWrite]
  repeat' split
  all_goals simp [h]

@[simp] theorem serviceWriteDone_lawful (h : l.holds s) : l.holds (serviceWriteDone s) := by
  simp only [serviceWriteDone]
  repeat' split
  all_goals simp [h]

@[simp] theorem rxdByte_lawful (byte : Byte) (stopBit : Bool) (h : l.holds s) : l.holds (rxdByte byte stopBit s) := by
  simp only [rxdByte]
  repeat' split
  all_goals simp [h]

@[simp] theorem gapTimerExpiry_lawful (h : l.holds s) : l.holds (gapTimerExpiry s) := by
  simp only [gapTimerExpiry]
  repeat' split
  all_goals simp [h]

@[simp] theorem failsafeExpiry_lawful (h : l.holds s) : l.holds (failsafeExpiry s) := by
  simp only [failsafeExpiry]
  repeat' split
  all_goals simp [h]

@[simp] theorem lapseExpiry_lawful (h : l.holds s) : l.holds (lapseExpiry s) := by
  unfold lapseExpiry
  split
  · next hlease => exact releaseLease_lawful (fun _ => by simp [State.reach, State.atClock, hlease]) (reach_lawful _ h)
  · exact h
  · exact h

@[simp] theorem dwellTimerExpiry_lawful (h : l.holds s) : l.holds (dwellTimerExpiry s) := by
  simp only [dwellTimerExpiry]
  repeat' split
  all_goals simp [h]

@[simp] theorem balanceHeldTimerExpiry_lawful (h : l.holds s) : l.holds (balanceHeldTimerExpiry s) := by
  simp only [balanceHeldTimerExpiry]
  repeat' split
  all_goals simp [h]

@[simp] theorem effectTimerExpiry_lawful (h : l.holds s) : l.holds (effectTimerExpiry s) := by
  simp [effectTimerExpiry, h]

@[simp] theorem lampPwmPeriod_lawful (n : Fin 10) (h : l.holds s) : l.holds (lampPwmPeriod n s) := by
  simp [lampPwmPeriod, h]

@[simp] theorem lampOnTimeEnd_lawful (n : Fin 10) (milliamps : Nat) (h : l.holds s) :
    l.holds (lampOnTimeEnd n milliamps s) := by
  simp only [lampOnTimeEnd]
  repeat' split
  all_goals simp [h]

@[simp] theorem lampOvercurrent_lawful (n : Fin 10) (milliamps since : Nat) (h : l.holds s) :
    l.holds (lampOvercurrent n milliamps since s) := by
  simp only [lampOvercurrent]
  repeat' split
  all_goals simp [h]

@[simp] theorem lampRetryExpiry_lawful (n : Fin 10) (h : l.holds s) : l.holds (lampRetryExpiry n s) := by
  simp only [lampRetryExpiry]
  repeat' split
  all_goals simp [h]

@[simp] theorem openLoadExpiry_lawful (n : Fin 10) (h : l.holds s) : l.holds (openLoadExpiry n s) := by
  simp only [openLoadExpiry]
  repeat' split
  all_goals simp [h]

@[simp] theorem puffTimerExpiry_lawful (h : l.holds s) : l.holds (puffTimerExpiry s) := by
  simp only [puffTimerExpiry]
  repeat' split
  all_goals simp [h]

@[simp] theorem purgeTimerExpiry_lawful (h : l.holds s) : l.holds (purgeTimerExpiry s) := by
  simp only [purgeTimerExpiry]
  repeat' split
  all_goals simp [h]

/-- The commands that leave the actual direction to be: all but the regulation step and the resets (R67). -/
def keepsDirection : Instr → Bool
  | .regulationStep | .powerReset | .brownoutReset | .softReset => false
  | _ => true

/-- The commands that leave run state, start and reset to be, whatever the state: all but starts and stops, resets and their
writes, the requests for a sweep and the decisions of set actions, which a teardown may follow. -/
def keepsPort : Instr → Bool
  | .start | .startEnd | .startRefused | .teardown | .powerReset | .brownoutReset | .softReset | .resetRewritesEnd
  | .sweepWrite _ | .sweepTimerExpiry | .refreshSet | .invoke | .switch | .returnSet => false
  | _ => true

/-- Every command keeps every law of a block; of the direction, those that leave it. -/
theorem exec_lawful {c : Instr} {t : State} (hp : l.portless ∨ keepsPort c = true)
    (hl : l.steady ∨ keepsDirection c = true) (hbegins : l = .noRun → c ≠ .balance)
    (hrun : l = .lease → s.port.start ≠ none → s.balance.run = none) (h : l.holds s)
    (hexec : exec c s = .next t) : l.holds t := by
  cases c
  case startEnd => cases hexec; exact startEnd_lawful (hp.resolve_right (by decide)) hrun h
  case startRefused => cases hexec; exact startRefused_lawful (hp.resolve_right (by decide)) h
  case regulationStep => cases hexec; exact regulationStep_lawful (hl.resolve_right (by decide)) h
  case powerReset =>
    cases hexec
    have hp := hp.resolve_right (by decide)
    exact resetWith_lawful _ hp (reset_lawful (hl.resolve_right (by decide)) hp)
  case brownoutReset =>
    cases hexec
    have hp := hp.resolve_right (by decide)
    exact resetKeeping_lawful _ hp (reset_lawful (hl.resolve_right (by decide)) hp)
  case softReset =>
    cases hexec
    have hp := hp.resolve_right (by decide)
    rw [softReset, onPort_portless hp]
    exact resetKeeping_lawful _ hp (reset_lawful (hl.resolve_right (by decide)) hp)
  case deadTimeExpiry => cases hexec; exact deadTimeExpiry_lawful _ _ h
  case blankingEnd => cases hexec; exact blankingEnd_lawful _ h
  case chop => cases hexec; exact chop_lawful _ _ h
  case onPhaseEnd => cases hexec; exact onPhaseEnd_lawful _ h
  case pwmPeriod => cases hexec; exact pwmPeriod_lawful h
  case shortDetection => cases hexec; exact shortDetection_lawful _ _ _ h
  case fanPwmPeriod => cases hexec; exact fanPwmPeriod_lawful h
  case fanOvercurrent => cases hexec; exact fanOvercurrent_lawful _ _ h
  case repeatWindowExpiry => cases hexec; exact repeatWindowExpiry_lawful _ h
  case heaterTimerExpiry => cases hexec; exact heaterTimerExpiry_lawful _ h
  case mixerFrame => cases hexec; exact mixerFrame_lawful h
  case sampleTimerExpiry => cases hexec; exact sampleTimerExpiry_lawful h
  case supplySample => cases hexec; exact supplySample_lawful _ _ h
  case dieTemperatureExpiry => cases hexec; exact dieTemperatureExpiry_lawful _ h
  case resetRewritesEnd => cases hexec; exact resetRewritesEnd_lawful (hp.resolve_right (by decide)) h
  case balance => cases hexec; exact balance_lawful (fun hl => hbegins hl rfl) h
  case setAction => cases hexec; exact handOver_lawful (fun o u hu => requestAction_lawful _ _ _ _ hu) h
  case refreshSet =>
    cases hexec
    exact decideHead_lawful _ (hp.resolve_right (by decide)) (handOver_lawful (fun o u hu => requestRefresh_lawful o hu) h)
  case invoke => cases hexec; exact decideHead_lawful _ (hp.resolve_right (by decide)) h
  case switch => cases hexec; exact decideHead_lawful _ (hp.resolve_right (by decide)) h
  case returnSet => cases hexec; exact decideHead_lawful _ (hp.resolve_right (by decide)) h
  case start =>
    cases hexec
    have hp : l.portless := hp.resolve_right (by decide)
    exact (start_lawful hp).2 h
  case teardown =>
    cases hexec
    have hp : l.portless := hp.resolve_right (by decide)
    exact teardownCommand_lawful hp h
  case sweepWrite =>
    cases hexec
    have hp : l.portless := hp.resolve_right Bool.false_ne_true
    exact (sweepWrite_lawful _ hp).2 h
  case sweepTimerExpiry =>
    cases hexec
    have hp : l.portless := hp.resolve_right (by decide)
    exact sweepTimerExpiry_lawful hp h
  all_goals
    have horders := orders_lawful h
    have hframes := frames_lawful h
    cases hexec
    simp [h, horders, hframes]

/-- A law of a block is kept by every step, once it is none of the direction, of the host port and of the balance
sequencer. -/
theorem step_lawful {t : State} (hl : l = .bridges ∨ l = .repeats ∨ l = .supply ∨ l = .fan ∨ l = .voices) (h : l.holds s)
    (hstep : step s = .next t) : l.holds t := by
  refine step_keeps l.holds (fun _ _ h => (queue_lawful _).2 h) (fun _ => ?_) (fun _ _ _ h hexec => ?_) s t h hstep
  · rcases hl with rfl | rfl | rfl | rfl | rfl <;> exact idle_lawful trivial
  · rcases hl with rfl | rfl | rfl | rfl | rfl <;>
      exact exec_lawful (.inl trivial) (.inl trivial) (fun hno => Law.noConfusion hno) (fun hno => Law.noConfusion hno) h hexec

/-- Settles O57: the law of the bridges is one of a single block. -/
theorem everyStepKeepsTheBridgeLaws : Obligations.EveryStepKeepsTheBridgeLaws :=
  fun _ _ h hstep => step_lawful (l := .bridges) (.inl rfl) h hstep

/-! ## The actual direction (R67, R82) -/

theorem derive_c (s : State) : s.derive.traction.c = s.traction.c := by
  have hframe := Notices.derive_eq s
  generalize s.derive = t at hframe
  rw [hframe]

theorem direction_kept {t : State} (h : ∀ l : Law, l.holds s → l.holds t) : t.traction.direction = s.traction.direction :=
  h (.direction s.traction.direction) rfl

theorem closeRun_c (s : State) (r : BalanceRun) (outcome : OutcomeCode) (g : Nat) :
    (s.closeRun r outcome g).traction.c = 0 := by
  rw [State.closeRun_eq, derive_c]

theorem balanceStep_c (m : Nat) (hc : s.traction.c = 0) : (s.balanceStep m).traction.c = 0 := by
  simp only [State.balanceStep]
  split
  · exact hc
  · split
    · exact hc
    · split
      · exact hc
      · split
        · exact hc
        · split
          · exact hc
          · exact closeRun_c _ _ _ _

theorem stepEnds_c (s : State) : s.stepEnds.traction.c = s.traction.c := derive_c _

theorem settle_direction {t : Traction} {requested : Direction} {sensor : Sensor} {m : Nat}
    (hflips : (t.settle requested sensor m).direction ≠ t.direction) : (t.settle requested sensor m).c = 0 := by
  unfold Traction.settle at hflips ⊢
  simp only at hflips ⊢
  split at hflips
  · next hmay =>
    rw [if_pos hmay]
    simp only [mayFlip, Bool.and_eq_true, decide_eq_true_eq] at hmay
    exact hmay.2.1
  · exact absurd rfl hflips

theorem driven_c (t : Traction) (state : TractionState) (d : TractionSet) (sensor : Sensor) (m : Nat) (chopped : Bool) :
    (t.driven state d sensor m chopped).c = t.c ∧ (t.driven state d sensor m chopped).direction = t.direction := by
  have hforms : (t.formDuty d sensor m chopped).c = t.c ∧ (t.formDuty d sensor m chopped).direction = t.direction := by
    unfold Traction.formDuty Traction.regulate Traction.seed
    repeat' split
    all_goals exact ⟨rfl, rfl⟩
  unfold Traction.driven
  split
  · exact ⟨rfl, rfl⟩
  · exact ⟨rfl, rfl⟩
  · exact hforms

theorem ramped_direction (t : Traction) (state : TractionState) (d : TractionSet) :
    (t.ramped state d).direction = t.direction := by
  cases state <;> rfl

/-- A regulation step turns the direction at rest alone. -/
theorem control_direction (hturns : s.control.traction.direction ≠ s.traction.direction) : s.control.traction.c = 0 := by
  unfold State.control at hturns ⊢
  split
  · next hquiet =>
    rw [if_pos hquiet] at hturns
    exact absurd rfl hturns
  · next hrun =>
    rw [if_neg hrun] at hturns
    split
    · next r hr =>
      have hc := balanceStep_c (s := s.onTraction fun t =>
        { t with t := 0, c := 0, i := 0, zeroHold := 0, pending := false, direction := r.direction }) s.motion.m rfl
      simp only [State.balanceControl]
      split
      · exact hc
      · exact hc
    · next hnone =>
      simp only [hnone] at hturns
      simp only [State.onTraction, controlStep, driven_c] at hturns ⊢
      exact settle_direction (by rwa [ramped_direction])

theorem turnsDirection {c : Instr} (h : keepsDirection c = false) :
    c = .regulationStep ∨ c = .powerReset ∨ c = .brownoutReset ∨ c = .softReset := by
  cases c <;> simp_all [keepsDirection]

/-- Settles O34: by the law of the direction at every other command, and at a regulation step by the flip condition. -/
theorem directionChangesOnlyAtRest : Obligations.DirectionChangesOnlyAtRest := by
  intro c s t hexec hturns
  by_cases hkeeps : keepsDirection c = true
  · exact absurd (exec_lawful (l := .direction s.traction.direction) (.inl trivial) (.inr hkeeps)
      (fun hno => Law.noConfusion hno) (fun hno => Law.noConfusion hno) rfl hexec) hturns
  · rcases turnsDirection (by simpa using hkeeps) with rfl | rfl | rfl | rfl
    · cases hexec
      refine .inl ⟨rfl, ?_⟩
      simp only [regulationStep] at hturns ⊢
      rw [direction_kept (fun _ => stepEnds_lawful)] at hturns
      rw [stepEnds_c]
      refine control_direction fun hsame => hturns (hsame.trans ?_)
      exact direction_kept (s := s) fun l h => stepInputs_lawful (by simp [h])
    all_goals
      cases hexec
      exact .inr ⟨by simp, rfl, rfl⟩

end Sys2Proof.BlockLaws
end

section
/-! PROOFS. Every step keeps the law of starts and resets (R8, R10, R13) and that of the lease (R105). -/

namespace Sys2Proof.StartLaws
open Sys2Proof.Machine Sys2Proof.Safety Sys2Proof.BlockLaws

/-! ## Starts and resets -/

/-- The law of starts and resets speaks of the run state, the start and the reset. -/
theorem startLawful_iff (s : State) : startLawful s ↔
    (s.port.run = .run → s.port.start = none) ∧ (s.port.reset ≠ none → s.port.run ≠ .run ∧ s.port.start = none) := by
  simp [startLawful, State.isRun]

theorem startLawful_of_port {t : State} {state : RunState} {start : Option StartJob} {reset : Option ResetJob}
    (ht : (Law.port state start reset).holds t)
    (hs : (state = .run → start = none) ∧ (reset ≠ none → state ≠ .run ∧ start = none)) : startLawful t := by
  obtain ⟨hrun, hstart, hreset⟩ := ht
  rw [startLawful_iff, hrun, hstart, hreset]
  exact hs

theorem port_self (s : State) : (Law.port s.port.run s.port.start s.port.reset).holds s := ⟨rfl, rfl, rfl⟩

theorem startLawful_kept {s t : State} (h : startLawful s)
    (hkept : ∀ l : Law, l.holds s → l.holds t) : startLawful t :=
  startLawful_of_port (hkept _ (port_self s)) ((startLawful_iff s).1 h)

/-- A teardown leaves a start and a reset to be. -/
theorem teardown_start {s : State} (h : startLawful s) : startLawful s.teardown := by
  have hport : (Law.port .quiet s.port.start s.port.reset).holds s.teardown := teardown_lawful ⟨rfl, rfl, rfl⟩
  refine startLawful_of_port hport ⟨fun hno => RunState.noConfusion hno, fun hreset => ?_⟩
  exact ⟨fun hno => RunState.noConfusion hno, (((startLawful_iff s).1 h).2 hreset).2⟩

theorem enterRun_start {s : State} (j : StartJob) (hreset : s.port.reset = none) : startLawful (s.enterRun j) := by
  have hport : (Law.port .run none none).holds (s.enterRun j) :=
    enterRun_lawful j (fun hno => Law.noConfusion hno) ⟨rfl, rfl, hreset⟩
  exact startLawful_of_port hport ⟨fun _ => rfl, fun hno => absurd rfl hno⟩

/-- Where a start is in flight the part is in QUIET and no reset writes. -/
theorem start_alone {s : State} {j : StartJob} (h : startLawful s) (hstart : s.port.start = some j) :
    s.port.run = .quiet ∧ s.port.reset = none := by
  obtain ⟨hrun, hreset⟩ := (startLawful_iff s).1 h
  constructor
  · cases hstate : s.port.run with
    | quiet => rfl
    | run => exact absurd (hstart.symm.trans (hrun hstate)) (by simp)
  · by_contra hno
    exact absurd (hstart.symm.trans (hreset hno).2) (by simp)

theorem startEnd_start {s : State} (h : startLawful s) : startLawful (startEnd s) := by
  simp only [startEnd]
  split
  · next j hj =>
    obtain ⟨hloaded, -, hnone⟩ := endLoads_lawful 4 j (port_self s)
    split
    · have hentered := enterRun_start (State.endLoads 4 s j).2 (hnone.trans (start_alone h hj).2)
      split
      · exact teardown_start hentered
      · exact hentered
    · exact h
  · exact h

theorem startRefused_start {s : State} (h : startLawful s) : startLawful (startRefused s) := by
  simp only [startRefused]
  split
  · next j hj =>
    obtain ⟨hloaded, -, hnone⟩ := endLoads_lawful 4 j (port_self s)
    split
    · have hport : (Law.port .quiet none none).holds (State.raise ((State.endLoads 4 s j).1.onPort fun p =>
          { p with start := none, startFault := (by assumption) }) .control) :=
        ⟨hloaded.trans (start_alone h hj).1, rfl, hnone.trans (start_alone h hj).2⟩
      exact startLawful_of_port hport ⟨fun _ => rfl, fun hno => absurd rfl hno⟩
    · exact h
  · exact h

theorem requestStart_start {s : State} (h : startLawful s) : startLawful s.requestStart := by
  unfold State.requestStart
  split
  · exact h
  · next hidle =>
    obtain ⟨hquiet, hnone⟩ := not_or.1 hidle
    have hquiet : s.port.run ≠ .run := by simpa [State.isRun] using hquiet
    have hnone : s.port.start = none := by simpa using hnone
    rw [startLawful_iff]
    split
    · exact ⟨fun hno => absurd hno hquiet, fun _ => ⟨hquiet, hnone⟩⟩
    · next hreset => exact ⟨fun hno => absurd hno hquiet, fun hno => absurd hreset hno⟩

theorem requestStop_start {s : State} (h : startLawful s) : startLawful s.requestStop := by
  unfold State.requestStop State.requestTeardown
  split
  · split
    · exact teardown_start h
    · exact h
  · next hquiet =>
    split
    · next j hj =>
      rw [startLawful_iff]
      exact ⟨fun hno => absurd (hquiet.symm.trans hno) (by decide), fun hno => absurd (start_alone h hj).2 hno⟩
    · exact h

theorem requestSweep_start {s : State} (h : startLawful s) : startLawful s.requestSweep := by
  unfold State.requestSweep
  split
  · next j hj =>
    obtain ⟨hrun, hreset⟩ := (startLawful_iff s).1 h
    rw [startLawful_iff]
    exact ⟨hrun, fun _ => hreset (by simp [hj])⟩
  · refine startLawful_kept h fun l hl => ?_
    split
    · exact (onOrders_lawful _).2 hl
    · exact beginSweep_lawful.2 hl

/-- What a reset leaves is QUIET with no start in flight (R13). -/
theorem resetWith_start (s : State) (tasks : List ResetTask) : startLawful (s.resetWith tasks) :=
  ⟨fun _ => rfl, fun _ => ⟨rfl, rfl⟩⟩

theorem endReset_start {s : State} (j : ResetJob) (h : s.port.run ≠ .run) : startLawful (s.endReset j) := by
  have hport : ∀ u : State, u.port.run ≠ .run ∧ u.port.reset = none → startLawful u.endUpdate := by
    rintro u ⟨hrun, hreset⟩
    refine startLawful_of_port (endUpdate_lawful.2 (port_self u)) ⟨fun hno => absurd hno hrun, fun hno => absurd hreset hno⟩
  unfold State.endReset
  refine hport _ ?_
  split
  · exact ⟨h, rfl⟩
  · exact ⟨h, rfl⟩

theorem reset_quiet {s : State} {j : ResetJob} (h : startLawful s) (hreset : s.port.reset = some j) : s.port.run ≠ .run :=
  (((startLawful_iff s).1 h).2 (by simp [hreset])).1

theorem resetRewritesEnd_start {s : State} (h : startLawful s) : startLawful (resetRewritesEnd s) := by
  simp only [resetRewritesEnd]
  split
  · next j hj =>
    obtain ⟨hrun, -⟩ := (finishUpdate_lawful _).2 (resetTasks_lawful j.todo (port_self s))
    exact endReset_start j (fun hno => reset_quiet h hj (hrun.symm.trans hno))
  · exact h

theorem nextAction_start {s : State} (h : startLawful s) : startLawful s.nextAction := by
  unfold State.nextAction
  simp only
  split
  · exact startLawful_kept (teardown_start h) fun l hl => abandonWaiting_lawful _ hl
  · exact startLawful_kept h fun l hl => takeWaiting_lawful _ hl

theorem decideHead_start {s : State} (kind : SetActionKind) (h : startLawful s) : startLawful (s.decideHead kind) := by
  unfold State.decideHead
  split
  · split
    · exact nextAction_start (startLawful_kept h fun l hl => conclude_lawful _ _ hl)
    · exact h
  · exact h

/-! ## The idle step -/

theorem startAccess_start {s : State} {j : StartJob} (hstart : s.port.start = some j) (h : startLawful s) :
    startLawful (s.startAccess j) := by
  obtain ⟨hquiet, hnone⟩ := start_alone h hstart
  have hset : ∀ (u : State) (k : StartJob), (Law.port .quiet (some j) none).holds u →
      startLawful (u.onPort fun p => { p with start := some k }) := by
    rintro u k ⟨hrun, -, hreset⟩
    rw [startLawful_iff]
    exact ⟨fun hno => absurd (hrun.symm.trans hno) (by decide), fun hno => absurd hreset hno⟩
  have hport : (Law.port .quiet (some j) none).holds s := ⟨hquiet, hstart, hnone⟩
  unfold State.startAccess
  split
  · exact hset _ _ (endStage_lawful _ hport)
  · simp only
    split
    · exact hset _ _ (endStage_lawful _ hport)
    · exact hset _ _ hport

theorem resetGoesOn_start {s : State} (todo : List ResetTask) (h : startLawful s) : startLawful (s.resetGoesOn todo) := by
  have hset : ∀ u : State, startLawful u → ∀ g : ResetJob → ResetJob,
      startLawful (u.onPort fun p => { p with reset := p.reset.map g }) := by
    intro u hu g
    obtain ⟨hrun, hreset⟩ := (startLawful_iff u).1 hu
    rw [startLawful_iff]
    exact ⟨hrun, fun hno => hreset fun hnone => hno (by simp [State.onPort, hnone])⟩
  unfold State.resetGoesOn
  split
  · exact hset _ (startLawful_kept h fun l hl => beginUpdate_lawful.2 hl) _
  · exact hset _ h _

theorem grantReset_start {s : State} (h : startLawful s) : startLawful s.grantReset := by
  unfold State.grantReset
  split
  · split
    · exact resetGoesOn_start _ (startLawful_kept h fun l hl => (resetAccess_lawful _).2 hl)
    · exact h
  · exact h

theorem updateWritten_start {s : State} (h : startLawful s) : startLawful s.updateWritten := by
  unfold State.updateWritten
  have hends : startLawful s.endUpdate := startLawful_kept h fun l hl => endUpdate_lawful.2 hl
  split
  · next j hj =>
    split
    · exact endReset_start j (reset_quiet h hj)
    · exact hends
  · exact hends

theorem grantStatus_start {s : State} (h : startLawful s) : startLawful s.grantStatus := by
  unfold State.grantStatus
  split
  · split
    · exact updateWritten_start (startLawful_kept h fun l hl => writeGeneration_lawful.2 hl)
    · refine startLawful_kept h fun l hl => ?_
      simp only [onStatus_lawful]
      split
      · exact writeGeneration_lawful.2 hl
      · exact (writeStatusWord_lawful _).2 hl
  · exact h

theorem grantOrders_start {s : State} (h : startLawful s) : startLawful s.grantOrders := by
  unfold State.grantOrders
  split
  · exact grantReset_start h
  · split
    · split
      · next j hj => exact startAccess_start hj h
      · exact h
    · refine startLawful_kept h fun l hl => ?_
      repeat' split
      all_goals simp [hl]

theorem grant_start {s : State} (r : Requester) (h : startLawful s) : startLawful (s.grant r) := by
  have hgranted : ∀ u : State, startLawful u → startLawful (u.granted r) :=
    fun u hu => startLawful_kept hu fun l hl => (granted_lawful r).2 hl
  cases r with
  | hostPort => exact hgranted s h
  | orderEngine => exact hgranted _ (grantOrders_start h)
  | statusWriter => exact hgranted _ (grantStatus_start h)
  | radioWriter => exact hgranted _ (startLawful_kept h fun l hl => grantRadio_lawful.2 hl)

theorem grants_start {s : State} (n : Nat) (h : startLawful s) : startLawful (State.grants n s) := by
  induction n generalizing s with
  | zero => exact h
  | succ n ih =>
    simp only [State.grants]
    split
    · exact ih (grantReset_start h)
    · split
      · exact ih (grant_start _ h)
      · exact h

theorem idle_start {s : State} (h : startLawful s) : startLawful (idle s) := by
  unfold idle
  refine startLawful_kept (grants_start _ ?_) fun l hl => (drawn_lawful 1).2 hl
  exact startLawful_kept h fun l hl => atClock_lawful (Nat.le_succ _) hl

/-! ## Every command -/

theorem exec_start {c : Instr} {s t : State} (h : startLawful s) (hexec : exec c s = .next t) : startLawful t := by
  by_cases hkeeps : keepsPort c = true
  · exact startLawful_of_port (exec_lawful (.inr hkeeps) (.inl trivial) (fun hno => Law.noConfusion hno)
      (fun hno => Law.noConfusion hno) (port_self s) hexec) ((startLawful_iff s).1 h)
  · have hwritten : startLawful s.registerWrite := startLawful_kept h fun l hl => registerWrite_lawful.2 hl
    cases c <;> try exact absurd rfl hkeeps
    case start => cases hexec; exact requestStart_start hwritten
    case startEnd => cases hexec; exact startEnd_start h
    case startRefused => cases hexec; exact startRefused_start h
    case teardown => cases hexec; exact requestStop_start hwritten
    case softReset => cases hexec; exact ⟨fun _ => rfl, fun _ => ⟨rfl, rfl⟩⟩
    case powerReset => cases hexec; exact resetWith_start s _
    case brownoutReset => cases hexec; exact resetWith_start s _
    case resetRewritesEnd => cases hexec; exact resetRewritesEnd_start h
    case sweepWrite => cases hexec; exact requestSweep_start hwritten
    case sweepTimerExpiry =>
      cases hexec
      simp only [sweepTimerExpiry]
      split
      · exact requestSweep_start (startLawful_kept h fun l hl => by simp [hl])
      · exact h
    case refreshSet =>
      cases hexec
      exact decideHead_start _ (startLawful_kept h fun l hl => handOver_lawful (fun o u hu => requestRefresh_lawful o hu) hl)
    case invoke => cases hexec; exact decideHead_start _ h
    case switch => cases hexec; exact decideHead_start _ h
    case returnSet => cases hexec; exact decideHead_start _ h

theorem step_start {s t : State} (h : startLawful s) (hstep : step s = .next t) : startLawful t :=
  step_keeps startLawful (fun _ _ h => h) (fun _ => idle_start) (fun _ _ _ h => exec_start h) s t h hstep

/-! ## The lease and the balance run (R105) -/

/-- The law of the lease is that of the balance mark, and of QUIET that no run exists. -/
theorem leaseLawful_iff (s : State) :
    leaseLawful s ↔ Law.lease.holds s ∧ (s.port.run = .quiet → Law.noRun.holds s) := by
  have hquiet : s.isRun = false ↔ s.port.run = .quiet := by
    unfold State.isRun
    cases s.port.run <;> simp
  simp only [leaseLawful, hquiet, Law.holds]

/-- In QUIET a BALANCE order is refused (R19). -/
theorem balance_quiet {s : State} (hquiet : s.port.run = .quiet) (hrun : s.balance.run = none) :
    (balance s).balance.run = none := by
  simp only [balance]
  split
  · next o ho =>
    have hrefused : orderRefusal s o.kind ≠ none := by
      have hkind : o.kind = 10 := by
        unfold orderInHand at ho
        split at ho
        · simpa [orderKind] using (Option.filter_eq_some_iff.1 ho).2
        · exact absurd ho (by simp)
      simp [orderRefusal, hkind, State.isRun, hquiet]
    split
    · simp [hrun]
    · next hnone => exact absurd hnone hrefused
  · exact hrun

theorem teardown_noRun (s : State) : s.teardown.balance.run = none := by
  have hends := endRun_noRun (s.onPort fun p => { p with run := .quiet, teardownPending := false }).tractionTeardown .aborted
  simp only [State.teardown]
  generalize State.endRun _ _ = u at hends
  simp [State.onRadio, State.onSets, State.onLamps, hends]

/-- A teardown and the resets are the one way to QUIET, and leave no run. -/
theorem nextAction_quiet (s : State) :
    s.nextAction.port.run = s.port.run ∨ s.nextAction.balance.run = none := by
  unfold State.nextAction
  simp only
  split
  · exact .inr (abandonWaiting_lawful (l := .noRun) _ (teardown_noRun s))
  · exact .inl (State.takeWaiting_run _ _)

theorem decideHead_quiet (s : State) (kind : SetActionKind) :
    (s.decideHead kind).port.run = s.port.run ∨ (s.decideHead kind).balance.run = none := by
  unfold State.decideHead
  split
  · split
    · next a _ _ _ =>
      rcases nextAction_quiet (s.conclude a (staged a s.xm)) with hrun | hnone
      · exact .inl (hrun.trans (State.conclude_run _ _ _))
      · exact .inr hnone
    · exact .inl rfl
  · exact .inl rfl

theorem requestStop_quiet (s : State) :
    s.requestStop.port.run = s.port.run ∨ s.requestStop.balance.run = none := by
  unfold State.requestStop State.requestTeardown
  split
  · split
    · exact .inr (teardown_noRun s)
    · exact .inl rfl
  · split
    · exact .inl rfl
    · exact .inl rfl

/-- From RUN with a run, a command leaves RUN or ends the run. -/
theorem exec_quiet {c : Instr} {s t : State} (hstate : s.port.run = .run) (hexec : exec c s = .next t)
    (hstart : startLawful s) : t.port.run = .run ∨ t.balance.run = none := by
  by_cases hkeeps : keepsPort c = true
  · obtain ⟨hrun, -⟩ := exec_lawful (l := .port s.port.run s.port.start s.port.reset) (.inr hkeeps) (.inl trivial)
      (fun hno => Law.noConfusion hno) (fun hno => Law.noConfusion hno) (port_self s) hexec
    exact .inl (hrun.trans hstate)
  · have hsame : ∀ u : State, u.port.run = s.port.run ∨ u.balance.run = none → u.port.run = .run ∨ u.balance.run = none :=
      fun u => Or.imp (fun h => h.trans hstate) id
    cases c <;> try exact absurd rfl hkeeps
    case start => cases hexec; exact hsame _ (.inl (start_run s))
    case startEnd =>
      have hnone : s.port.start = none := ((startLawful_iff s).1 hstart).1 hstate
      have hsame' : startEnd s = s := by simp only [startEnd, hnone]
      cases hexec
      rw [hsame']
      exact .inl hstate
    case startRefused => cases hexec; exact hsame _ (.inl (startRefused_run s))
    case teardown => cases hexec; exact hsame _ (requestStop_quiet s.registerWrite)
    case softReset => cases hexec; exact .inr rfl
    case powerReset => cases hexec; exact .inr rfl
    case brownoutReset => cases hexec; exact .inr rfl
    case resetRewritesEnd => cases hexec; exact hsame _ (.inl (resetRewritesEnd_run s))
    case sweepWrite value => cases hexec; exact hsame _ (.inl (sweepWrite_run s value))
    case sweepTimerExpiry => cases hexec; exact hsame _ (.inl (sweepTimerExpiry_run s))
    case refreshSet =>
      cases hexec
      refine hsame _ ((decideHead_quiet _ _).imp (fun hrun => hrun.trans ?_) id)
      exact (handOver_lawful (l := .port s.port.run s.port.start s.port.reset)
        (fun o u hu => requestRefresh_lawful o hu) (port_self s)).1
    case invoke => cases hexec; exact hsame _ (decideHead_quiet s _)
    case switch => cases hexec; exact hsame _ (decideHead_quiet s _)
    case returnSet => cases hexec; exact hsame _ (decideHead_quiet s _)

theorem exec_noRun {c : Instr} {s t : State} (hquiet : s.port.run = .quiet) (hrun : s.balance.run = none)
    (hexec : exec c s = .next t) : t.balance.run = none := by
  by_cases hbalance : c = .balance
  · subst hbalance
    cases hexec
    exact balance_quiet hquiet hrun
  · exact exec_lawful (l := .noRun) (.inl trivial) (.inl trivial) (fun _ => hbalance) (fun hno => Law.noConfusion hno)
      hrun hexec

theorem exec_lease {c : Instr} {s t : State} (hstart : startLawful s) (h : leaseLawful s) (hexec : exec c s = .next t) :
    leaseLawful t := by
  rw [leaseLawful_iff] at h ⊢
  obtain ⟨hmark, hnone⟩ := h
  refine ⟨exec_lawful (l := .lease) (.inl trivial) (.inl trivial) (fun hno => Law.noConfusion hno) (fun _ hj => ?_) hmark hexec,
    fun hquiet => ?_⟩
  · obtain ⟨j, hj⟩ := Option.ne_none_iff_exists'.1 hj
    exact hnone (start_alone hstart hj).1
  · cases hstate : s.port.run with
    | quiet => exact exec_noRun hstate (hnone hstate) hexec
    | run => exact (exec_quiet hstate hexec hstart).resolve_left fun hno => absurd (hquiet.symm.trans hno) (by decide)

theorem idle_lease {s : State} (h : leaseLawful s) : leaseLawful (idle s) := by
  rw [leaseLawful_iff] at h ⊢
  exact ⟨idle_lawful trivial h.1, fun hquiet => idle_lawful (l := .noRun) trivial (h.2 ((idle_run s).symm.trans hquiet))⟩

theorem step_lease {s t : State} (h : startLawful s ∧ leaseLawful s) (hstep : step s = .next t) :
    startLawful t ∧ leaseLawful t :=
  step_keeps (fun s => startLawful s ∧ leaseLawful s) (fun _ _ h => h) (fun _ h => ⟨idle_start h.1, idle_lease h.2⟩)
    (fun _ _ _ h hexec => ⟨exec_start h.1 hexec, exec_lease h.1 h.2 hexec⟩) s t h hstep

end Sys2Proof.StartLaws
end

section
/-! PROOFS. A law that the parts of a command keep is kept by the command: the wrappers of orders, frames, set actions and
idle accesses, said once for any law. -/

namespace Sys2Proof.Chains
open Sys2Proof.Machine Sys2Proof.Safety

variable {P : State → Prop} {s : State}

/-! ## Orders -/

theorem runOrder_keeps {mine : TakenOrder → Bool} {act : State → TakenOrder → OrderAnswer}
    (hends : ∀ u o outcome result, P u → P (State.completeOrder u o outcome result))
    (hact : ∀ o, orderRefusal s o.kind = none → P (act s o).1) (h : P s) : P (s.runOrder mine act) := by
  unfold State.runOrder
  split
  · split
    · exact hends _ _ _ _ h
    · next hready => exact hends _ _ _ _ (hact _ hready)
  · exact h

theorem handOver_keeps {kind : Nat} {act : State → TakenOrder → State}
    (hends : ∀ u o outcome result, P u → P (State.completeOrder u o outcome result))
    (hact : ∀ o, orderRefusal s o.kind = none → P (act s.dropOrder o)) (h : P s) : P (s.handOver kind act) := by
  unfold State.handOver
  split
  · split
    · exact hends _ _ _ _ h
    · next hready => exact hact _ hready
  · exact h

/-! ## Frames -/

theorem handleFrame_keeps {mine : Frame → Bool} {act : State → Frame → State}
    (hhear : ∀ f, P (s.hearHolder f)) (hlog : ∀ u r f, P u → P (State.logFrame u r f))
    (hdone : ∀ u, P u → P (State.frameDone u)) (hact : ∀ u f, P u → P (act u f)) (h : P s) :
    P (s.handleFrame mine act) := by
  unfold State.handleFrame State.actOn
  split
  · split
    · refine hdone _ ?_
      split
      · exact hact _ _ (hhear _)
      · exact hlog _ _ _ (hhear _)
    · exact h
  · exact h

/-! ## Set actions -/

theorem takeWaiting_keeps (hqueue : ∀ u q, P u → P (State.queueIs u q)) (hconclude : ∀ u a, P u → P (State.conclude u a none))
    (waiting : List SetAction) (h : P s) : P (State.takeWaiting waiting s) := by
  induction waiting generalizing s with
  | nil => exact hqueue _ _ h
  | cons a rest ih =>
    unfold State.takeWaiting
    split
    · exact hqueue _ _ h
    · exact ih (hconclude _ _ h)

theorem abandonWaiting_keeps (hqueue : ∀ u q, P u → P (State.queueIs u q)) (habandon : ∀ u a, P u → P (State.abandonAction u a))
    (waiting : List SetAction) (h : P s) : P (s.abandonWaiting waiting) := by
  unfold State.abandonWaiting
  refine hqueue _ _ ?_
  induction waiting generalizing s with
  | nil => exact h
  | cons a rest ih => exact ih (habandon _ _ h)

theorem nextAction_keeps (hqueue : ∀ u q, P u → P (State.queueIs u q)) (hconclude : ∀ u a, P u → P (State.conclude u a none))
    (habandon : ∀ u a, P u → P (State.abandonAction u a)) (hteardown : P s.teardown) (h : P s) : P s.nextAction := by
  unfold State.nextAction
  simp only
  split
  · exact abandonWaiting_keeps hqueue habandon _ hteardown
  · exact takeWaiting_keeps hqueue hconclude _ h

theorem actionArrives_keeps (hqueue : ∀ u q, P u → P (State.queueIs u q)) (hconclude : ∀ u a, P u → P (State.conclude u a none))
    (a : SetAction) (h : P s) : P (s.actionArrives a) := by
  unfold State.actionArrives
  split
  · exact takeWaiting_keeps hqueue hconclude _ h
  · exact hqueue _ _ h

theorem requestAction_keeps (hqueue : ∀ u q, P u → P (State.queueIs u q)) (hconclude : ∀ u a, P u → P (State.conclude u a none))
    (hreport : ∀ u a outcome, P u → P (State.reportAction u a outcome)) (code index level : Nat) (source : Requestor) (h : P s) :
    P (s.requestAction code index level source) := by
  unfold State.requestAction
  split
  · exact actionArrives_keeps hqueue hconclude _ h
  · exact hreport _ _ _ h

theorem decideHead_keeps (kind : SetActionKind) (hdecide : ∀ a rest, s.sets.queue = a :: rest → a.kind = kind → P (s.decideAction a))
    (h : P s) : P (s.decideHead kind) := by
  unfold State.decideHead
  split
  · next a rest hqueue =>
    split
    · next hkind => exact hdecide a rest hqueue hkind
    · exact h
  · exact h

/-! ## The idle step -/

theorem grants_keeps (hreset : ∀ u, P u → P (State.grantReset u)) (hgrant : ∀ u r, P u → P (State.grant u r)) (n : Nat)
    (h : P s) : P (State.grants n s) := by
  induction n generalizing s with
  | zero => exact h
  | succ n ih =>
    simp only [State.grants]
    split
    · exact ih (hreset _ h)
    · split
      · exact ih (hgrant _ _ h)
      · exact h

theorem grantOrders_keeps (hreset : P s.grantReset) (hstart : ∀ j, s.port.start = some j → P (s.startAccess j))
    (hload : P s.grantLoad) (horder : P s.grantOrderLoad) (hrefresh : P s.grantRefresh) (hsweep : ∀ w, P (s.sweepAccess w))
    (h : P s) : P s.grantOrders := by
  unfold State.grantOrders
  split
  · exact hreset
  · split
    · split
      · next j hj => exact hstart j hj
      · exact h
    · split
      · exact hload
      · split
        · exact horder
        · split
          · exact hrefresh
          · split
            · exact hsweep _
            · exact h

end Sys2Proof.Chains
end

section
/-! PROOFS. Every step keeps the law of the duty (R76): a derivation brings it about, whatever stood before, and nothing
but a derivation, a set change and the end of RUN works on what it speaks of. -/

namespace Sys2Proof.DutyLaw
open Sys2Proof.Machine Sys2Proof.Safety Sys2Proof.BlockLaws Sys2Proof.Chains

/-! ## What brings the law about -/

/-- A command other than DRIVE is held. -/
theorem duty_of_rest {s : State} (h : ∀ p, s.bridges.held ≠ .drive p) : dutyLawful s := fun p hp => absurd hp (h p)

theorem hand_held (u : BridgeUnit) (now : Nat) (c : Command) : (u.hand now c).held = c := by
  unfold BridgeUnit.hand
  split
  · next hsame => exact hsame.symm
  · rfl

theorem handCommand_held (s : State) (c : Command) : (s.handCommand c).bridges.held = c := hand_held _ _ _

theorem limitDuty_le (s : State) (duty : Nat) : limitDuty s duty ≤ duty ∧ limitDuty s duty ≤ s.tractionSet.dutyCap := by
  unfold limitDuty
  split
  · exact ⟨Nat.zero_le _, Nat.zero_le _⟩
  · exact ⟨Nat.min_le_right _ _, Nat.min_le_left _ _⟩

theorem limitDuty_zero {s : State} {duty : Nat} (h : 4 ≤ s.supply.shed ∨ s.traction.latch = true) : limitDuty s duty = 0 :=
  if_pos h

theorem stopCommand_rest (d : TractionSet) (p : DriveParams) : stopCommand d ≠ .drive p := by
  unfold stopCommand
  cases d.stopMode <;> simp

/-- What the command of a state says when it is DRIVE (R75, R76). -/
theorem commandFor_drive {s : State} {state : TractionState} {p : DriveParams} (h : commandFor s state = .drive p) :
    p.duty ≤ s.tractionSet.dutyCap ∧ (4 ≤ s.supply.shed ∨ s.traction.latch = true → p.duty = 0)
      ∧ state ≠ .faulted ∧ state ≠ .quiet ∧ (state = .balance ∧ s.balance.run ≠ none ∨ p.duty ≤ s.traction.u) := by
  have hdrive : ∀ duty direction, driveCommand s duty direction = .drive p → p.duty = limitDuty s duty := by
    rintro duty direction hd
    cases hd
    rfl
  have hzero : ∀ duty, p.duty = limitDuty s duty → (4 ≤ s.supply.shed ∨ s.traction.latch = true → p.duty = 0) :=
    fun duty hp hforced => hp.trans (limitDuty_zero hforced)
  cases state with
  | quiet | faulted | held | estop => exact Command.noConfusion h
  | stopped => exact absurd h (stopCommand_rest _ _)
  | reversing | running =>
    have hp := hdrive _ _ h
    have hle := limitDuty_le s s.traction.u
    exact ⟨hp ▸ hle.2, hzero _ hp, by decide, by decide, .inr (hp ▸ hle.1)⟩
  | balance =>
    simp only [commandFor, balanceCommand] at h
    split at h
    · next r hr =>
      split at h
      · next duty _ =>
        have hp := hdrive _ _ h
        exact ⟨hp ▸ (limitDuty_le s duty).2, hzero _ hp, by decide, by decide, .inl ⟨rfl, by simp [hr]⟩⟩
      · exact absurd h (stopCommand_rest _ _)
    · exact absurd h (stopCommand_rest _ _)

theorem derivedState_quiet {s : State} (h : derivedState s ≠ .quiet) : s.isRun = true := by
  by_contra hno
  exact h (by simp [derivedState, hno])

/-- A derivation brings the law about. -/
theorem derive_duty (s : State) : dutyLawful s.derive := by
  obtain ⟨u, hframe, htraction, hcache, hrun, hbalance, hsupply⟩ : ∃ u : State,
      s.derive = u.handCommand (commandFor u (derivedState s)) ∧ u.traction = { s.traction with state := derivedState s }
        ∧ u.sets = s.sets ∧ u.port.run = s.port.run ∧ u.balance = s.balance ∧ u.supply = s.supply := by
    refine ⟨(s.onTraction fun t => { t with state := derivedState s }).reportTraction s.traction.state, rfl, ?_⟩
    simp [State.onTraction]
  rw [hframe]
  intro p hp
  rw [handCommand_held] at hp
  obtain ⟨hcap, hforced, hfaulted, hquiet, hu⟩ := commandFor_drive hp
  have hstays : (u.handCommand (commandFor u (derivedState s))).traction.u = u.traction.u
      ∧ (u.handCommand (commandFor u (derivedState s))).traction.latch = u.traction.latch
      ∧ (u.handCommand (commandFor u (derivedState s))).traction.state = u.traction.state := ⟨rfl, rfl, rfl⟩
  refine ⟨?_, ?_, ?_, ?_⟩
  · have hs := derivedState_quiet hquiet
    simpa [State.isRun, hrun] using hs
  · exact hcap
  · intro hnone
    rcases hu with ⟨-, hno⟩ | hle
    · exact absurd hnone hno
    · exact hle
  · rintro (hshed | hlatch | hfault)
    · exact hforced (.inl hshed)
    · exact hforced (.inr hlatch)
    · rw [hstays.2.2, htraction] at hfault
      exact absurd hfault hfaulted

/-- The law speaks of few blocks. -/
theorem duty_same {s t : State} (hheld : t.bridges.held = s.bridges.held) (htraction : t.traction.u = s.traction.u
      ∧ t.traction.latch = s.traction.latch ∧ t.traction.state = s.traction.state)
    (hcache : t.sets.cache = s.sets.cache) (hbalance : t.balance.run = none → s.balance.run = none)
    (hshed : t.supply.shed = s.supply.shed)
    (hrun : t.port.run = s.port.run) (h : dutyLawful s) : dutyLawful t := by
  intro p hp
  rw [hheld] at hp
  obtain ⟨hstate, hcap, hu, hforced⟩ := h p hp
  obtain ⟨htu, hlatch, hfaulted⟩ := htraction
  refine ⟨by simpa [State.isRun, hrun] using hstate, ?_, ?_, ?_⟩
  · simpa only [State.tractionSet, hcache] using hcap
  · intro hnone
    rw [htu]
    exact hu (hbalance hnone)
  · rw [hshed, hlatch, hfaulted]
    exact hforced

/-- What leaves bridges, traction controller, set manager, balance sequencer, supply and run state to be keeps the law. -/
theorem duty_beside {s t : State} (h : t.bridges = s.bridges ∧ t.traction = s.traction ∧ t.sets = s.sets
      ∧ t.balance = s.balance ∧ t.supply = s.supply ∧ t.port.run = s.port.run) (hs : dutyLawful s) : dutyLawful t := by
  obtain ⟨hbridges, htraction, hsets, hbalance, hsupply, hrun⟩ := h
  exact duty_same (by rw [hbridges]) (by simp [htraction]) (by rw [hsets]) (fun hno => hbalance ▸ hno) (by rw [hsupply]) hrun hs

/-! ## Balance runs, the lease and the latch -/

theorem closeRun_duty (s : State) (r : BalanceRun) (outcome : OutcomeCode) (g : Nat) : dutyLawful (s.closeRun r outcome g) :=
  derive_duty _

theorem endRun_duty {s : State} (outcome : OutcomeCode) (h : dutyLawful s) : dutyLawful (s.endRun outcome) := by
  unfold State.endRun
  split
  · exact closeRun_duty _ _ _ _
  · exact h

theorem releaseLatch_duty {s : State} (h : dutyLawful s) : dutyLawful s.releaseLatch := by
  unfold State.releaseLatch
  split
  · exact derive_duty _
  · exact h

theorem applyRequest_duty {s : State} (throttle : Nat) (direction : Direction) (h : dutyLawful s) :
    dutyLawful (s.applyRequest throttle direction) := by
  have hset : dutyLawful (s.onRequest fun q => { q with throttle := throttle, direction := direction }) := h
  simp only [State.applyRequest]
  split
  · exact releaseLatch_duty hset
  · exact hset

theorem releaseLease_duty {s : State} (h : dutyLawful s) : dutyLawful s.releaseLease := by
  have hfreed : dutyLawful s.freeLease := h
  exact releaseLatch_duty hfreed

theorem loadRadio_duty {s : State} (m : Memory) (h : dutyLawful s) : dutyLawful (s.loadRadio m) := by
  have hcopied : dutyLawful (s.onRadio fun r => { r with cfg := loadRadioConfig m, consist := loadConsist m }) := h
  unfold State.loadRadio
  generalize (s.onRadio _) = u at hcopied
  simp only [State.overduePoints]
  repeat' split
  all_goals first
    | exact hcopied
    | exact releaseLease_duty (s := u.onRadio fun r => { r with failsafe := true }) hcopied

theorem throttleOrder_duty {s : State} (ps : List Byte) (h : dutyLawful s) : dutyLawful (s.throttleOrder ps).1 := by
  simp only [State.throttleOrder]
  split
  · exact h
  · split
    · exact h
    · exact applyRequest_duty _ _ (duty_beside (by unfold State.hostLease; split <;> simp [State.onRadio]) h)

theorem leaseReleaseOrder_duty {s : State} (ps : List Byte) (h : dutyLawful s) : dutyLawful (s.leaseReleaseOrder ps).1 := by
  simp only [State.leaseReleaseOrder]
  repeat' split
  all_goals first
    | exact h
    | exact releaseLease_duty h

theorem emergencyStop_duty (s : State) : dutyLawful s.emergencyStop := by
  simp only [State.emergencyStop]
  generalize hderived : State.derive _ = u
  have hu : dutyLawful u := hderived ▸ derive_duty _
  exact endRun_duty _ (duty_beside (s := u) (by simp) hu)

theorem handStopMode_duty (s : State) : dutyLawful s.handStopMode :=
  duty_of_rest fun p hp => stopCommand_rest _ p ((handCommand_held _ _).symm.trans hp)

theorem holdRun_duty {s : State} (h : dutyLawful s) : dutyLawful s.holdRun.1 := by
  unfold State.holdRun
  split
  · split
    · exact h
    · exact handStopMode_duty _
  · exact h

theorem resumeRun_duty {s : State} (h : dutyLawful s) : dutyLawful s.resumeRun.1 := by
  unfold State.resumeRun
  split
  · split
    · refine duty_same (s := s) rfl ⟨rfl, rfl, rfl⟩ rfl (fun hno => ?_) rfl rfl h
      simpa [State.writeSlotState, State.onRun, State.onXm, State.onBalance] using hno
    · exact h
  · exact h

/-! ## Faults, shed levels and the step -/

theorem tractionLatchReport_duty (s : State) : dutyLawful s.tractionLatchReport := derive_duty _

theorem latchBridge_duty (s : State) (id : BridgeId) : dutyLawful (s.latchBridge id) :=
  endRun_duty _ (tractionLatchReport_duty _)

theorem onBridge_duty {s : State} (id : BridgeId) (f : BridgeUnit → Bridge) (h : dutyLawful s) :
    dutyLawful (s.onBridges fun u => u.set id (f u)) :=
  duty_same (s := s) (by cases id <;> rfl) ⟨rfl, rfl, rfl⟩ rfl (fun hno => hno) rfl rfl h

theorem recordShort_duty {s : State} (id : BridgeId) (h : dutyLawful s) : dutyLawful (s.recordShort id) :=
  duty_same (s := s) (by cases id <;> simp [State.recordShort, State.recordFault, State.raise, State.onPort, State.onStatus, State.onBridges, BridgeUnit.set]) (by simp) (by simp) (by simp) (by simp) (by simp) h

theorem cycleShort_duty {s : State} (id : BridgeId) (h : dutyLawful s) : dutyLawful (s.cycleShort id) := by
  have hcut := onBridge_duty id (fun u =>
    { (u.get id).cutPeriod s.clock with shortRun := min 200 ((s.bridges.get id).shortRun + 1) }) h
  simp only [State.cycleShort]
  generalize (s.onBridges _) = u at hcut ⊢
  repeat' split
  all_goals first
    | exact latchBridge_duty _ _
    | exact recordShort_duty _ hcut
    | exact hcut

theorem reportShort_duty {s : State} (id : BridgeId) (h : dutyLawful s) : dutyLawful (s.reportShort id) := by
  have hcount := onBridge_duty id (fun u =>
    { u.get id with shortRun := min 200 ((s.bridges.get id).shortRun + 1) }) h
  simp only [State.reportShort]
  split
  · exact recordShort_duty _ hcount
  · exact hcount

theorem shortDetection_duty {s : State} (id : BridgeId) (millivolts since : Nat) (h : dutyLawful s) :
    dutyLawful (shortDetection id millivolts since s) := by
  have hdetected := onBridge_duty (s := s.reach (s.bridges.cfg.shortMoment ((s.bridges.get id).conduct.getD 0) since)) id
    (fun u => { u.get id with detected := true }) h
  simp only [shortDetection]
  generalize (State.onBridges _ _) = u at hdetected ⊢
  split
  · split
    · exact latchBridge_duty _ _
    · exact cycleShort_duty _ hdetected
    · exact reportShort_duty _ hdetected
    · exact hdetected
  · exact h

theorem clearBridge_duty {s : State} (id : BridgeId) (h : dutyLawful s) : dutyLawful (s.clearBridge id) := by
  simp only [State.clearBridge]
  split
  · exact tractionLatchReport_duty _
  · exact onBridge_duty id (fun u => (u.get id).release s.clock u.held) h

theorem clearMask_duty {s : State} (mask : BitVec 32) (h : dutyLawful s) : dutyLawful (s.clearMask mask) := by
  have hfirst : dutyLawful (if mask.getLsbD 0 then s.clearBridge .a else s) := by
    split
    · exact clearBridge_duty _ h
    · exact h
  simp only [State.clearMask]
  generalize (if mask.getLsbD 0 then s.clearBridge .a else s) = u at hfirst ⊢
  have hsecond : dutyLawful (if mask.getLsbD 1 then u.clearBridge .b else u) := by
    split
    · exact clearBridge_duty _ hfirst
    · exact hfirst
  generalize (if mask.getLsbD 1 then u.clearBridge .b else u) = v at hsecond ⊢
  refine duty_beside ?_ hsecond
  repeat' split
  all_goals simp

theorem tractionShedChange_duty (s : State) (before : Nat) : dutyLawful (s.tractionShedChange before) := by
  unfold State.tractionShedChange
  repeat' split
  all_goals exact derive_duty _

theorem formShed_duty {s : State} (h : dutyLawful s) : dutyLawful s.formShed := by
  simp only [State.formShed]
  split
  · exact h
  · refine duty_beside (s := State.balanceShedChange (State.tractionShedChange
      (s.onSupply fun u => { u with shed := max s.supply.level s.supply.thermal }) s.supply.shed) s.supply.shed) ?_ ?_
    · simp
    · unfold State.balanceShedChange
      split
      · exact endRun_duty _ (tractionShedChange_duty _ _)
      · exact tractionShedChange_duty _ _

theorem levelTests_shed (u : Supply) : u.levelTests.shed = u.shed := by
  unfold Supply.levelTests
  repeat' split
  all_goals rfl

theorem rideLevel_shed (u : Supply) : u.rideLevel.shed = u.shed := by
  unfold Supply.rideLevel
  split <;> rfl

theorem countRide_shed (u : Supply) : u.countRide.shed = u.shed := by
  unfold Supply.countRide
  split <;> rfl

theorem work_shed (u : Supply) : u.work.shed = u.shed := by
  unfold Supply.work
  split
  · dsimp only
    split
    · exact rideLevel_shed _
    · exact levelTests_shed _
  · dsimp only
    split
    · rfl
    · exact (rideLevel_shed _).trans (countRide_shed _)
  · dsimp only
    split
    · rfl
    · exact countRide_shed _

theorem supplySample_duty {s : State} (vtrk vsto : Nat) (h : dutyLawful s) : dutyLawful (supplySample vtrk vsto s) := by
  have hworks : dutyLawful (((s.reach s.timers.supply).onTimers fun t =>
      { t with supply := (s.reach s.timers.supply).clock + ms 1 }).onSupply fun u =>
        { u with vtrk := voltage vtrk, vsto := voltage vsto }.work) :=
    duty_same (s := s) rfl ⟨rfl, rfl, rfl⟩ rfl (fun hno => hno) (work_shed _) rfl h
  simp only [supplySample]
  generalize (State.onSupply _ fun u => Supply.work _) = u at hworks ⊢
  refine formShed_duty (duty_same (s := u.supplyReport s.supply.state) rfl ⟨rfl, rfl, rfl⟩ rfl (fun hno => hno) rfl rfl ?_)
  unfold State.supplyReport
  simp only
  split
  · exact hworks
  · have hraised : dutyLawful (u.raise .supply) := hworks
    split
    · exact endRun_duty _ hraised
    · exact hraised

theorem dieTemperatureExpiry_duty {s : State} (celsius : Int) (h : dutyLawful s) :
    dutyLawful (dieTemperatureExpiry celsius s) := by
  simp only [dieTemperatureExpiry]
  exact formShed_duty (duty_same (s := s) rfl ⟨rfl, rfl, rfl⟩ rfl (fun hno => hno) rfl rfl h)

theorem regulationStep_duty (s : State) : dutyLawful (regulationStep s) := by
  simp only [regulationStep, State.stepEnds]
  exact duty_same (s := State.derive _) rfl ⟨rfl, rfl, rfl⟩ rfl (fun hno => hno) rfl rfl (derive_duty _)

/-! ## Set changes -/

/-- An action is applied outside a balance run alone (R38, R40 to R42). -/
theorem actionRefusal_noRun {s : State} {a : SetAction} {d : Option (DriveSet × Bool)} (h : actionRefusal s a d = none) :
    s.balance.run = none := by
  cases hrun : s.balance.run with
  | none => rfl
  | some r => cases hkind : a.kind <;> simp [actionRefusal, placeRefusal, returnRefusal, refreshRefusal, hkind, hrun] at h

/-- The law at the new cache asks for a duty within u before the change, and within the new duty cap. -/
theorem tractionSetChange_duty {s : State}
    (h : ∀ p, s.bridges.held = .drive p → s.isRun = true ∧ p.duty ≤ s.traction.u
      ∧ (4 ≤ s.supply.shed ∨ s.traction.latch = true ∨ s.traction.state = .faulted → p.duty = 0)) :
    dutyLawful s.tractionSetChange := by
  simp only [State.tractionSetChange]
  split
  · next hlower =>
    cases hheld : s.bridges.held with
    | drive p =>
      obtain ⟨hrun, hu, hforced⟩ := h p hheld
      intro q hq
      simp only [State.lowerDuty, State.onTraction, hheld] at hq ⊢
      cases hq
      exact ⟨hrun, Nat.min_le_right _ _, fun _ => Nat.min_le_right _ _,
        fun hf => Nat.le_zero.1 ((Nat.min_le_left _ _).trans (hforced hf).le)⟩
    | off | coast | brake =>
      refine duty_of_rest fun p => ?_
      simp [State.lowerDuty, State.onTraction, hheld]
  · next hcap =>
    intro p hp
    obtain ⟨hrun, hu, hforced⟩ := h p hp
    exact ⟨hrun, hu.trans (Nat.le_of_not_lt hcap), fun _ => hu, hforced⟩

theorem tellFunctions_beside (s : State) (before : Reg) :
    (s.tellFunctions before).bridges = s.bridges ∧ (s.tellFunctions before).traction = s.traction
      ∧ (s.tellFunctions before).sets = s.sets ∧ (s.tellFunctions before).balance = s.balance
      ∧ (s.tellFunctions before).supply = s.supply ∧ (s.tellFunctions before).port.run = s.port.run := by
  simp

theorem applyAction_duty {s : State} (a : SetAction) (d : DriveSet) (clamped : Bool) (hno : s.balance.run = none)
    (h : dutyLawful s) : dutyLawful (s.applyAction a d clamped) := by
  have hchanged : ∀ p, (s.changeSet a d clamped).bridges.held = .drive p →
      (s.changeSet a d clamped).isRun = true ∧ p.duty ≤ (s.changeSet a d clamped).traction.u
        ∧ (4 ≤ (s.changeSet a d clamped).supply.shed ∨ (s.changeSet a d clamped).traction.latch = true
          ∨ (s.changeSet a d clamped).traction.state = .faulted → p.duty = 0) := by
    intro p hp
    obtain ⟨hrun, -, hu, hforced⟩ := h p hp
    exact ⟨hrun, hu hno, hforced⟩
  simp only [State.applyAction, State.tellSetChange]
  generalize s.changeSet a d clamped = u at hchanged ⊢
  have htold : dutyLawful (if u.radio.request.functions = s.radio.request.functions then u
      else u.tellFunctions s.radio.request.functions).tractionSetChange := by
    split
    · exact tractionSetChange_duty hchanged
    · obtain ⟨hbridges, htraction, -, -, hsupply, hrun⟩ := tellFunctions_beside u s.radio.request.functions
      refine tractionSetChange_duty fun p hp => ?_
      rw [hbridges] at hp
      simpa only [State.isRun, hrun, htraction, hsupply] using hchanged p hp
  generalize State.tractionSetChange _ = v at htold ⊢
  have hend : dutyLawful v.soundSetChange.heaterSetChange := duty_beside (s := v) (by simp) htold
  generalize State.heaterSetChange _ = w at hend ⊢
  split
  · exact hend
  · exact hend

theorem reportAction_duty {s : State} (a : SetAction) (outcome : OutcomeCode) (h : dutyLawful s) :
    dutyLawful (s.reportAction a outcome) :=
  duty_beside (s := s) (by simp) h

theorem conclude_duty {s : State} (a : SetAction) (d : Option (DriveSet × Bool)) (h : dutyLawful s) :
    dutyLawful (s.conclude a d) := by
  unfold State.conclude
  split
  · next hnone => exact reportAction_duty _ _ (applyAction_duty _ _ _ (actionRefusal_noRun hnone) h)
  · exact reportAction_duty _ _ h
  · exact h

theorem queueIs_duty {s : State} (q : List SetAction) (h : dutyLawful s) : dutyLawful (s.queueIs q) := h

theorem abandonAction_duty {s : State} (a : SetAction) (h : dutyLawful s) : dutyLawful (s.abandonAction a) :=
  duty_beside (s := s) (by simp) h

/-! ## The run state -/

/-- In QUIET a derivation hands OFF. -/
theorem derive_off {s : State} (hquiet : s.isRun = false) : s.derive.bridges.held = .off := by
  have hstate : derivedState s = .quiet := by simp [derivedState, hquiet]
  simp only [State.derive, hstate]
  exact handCommand_held _ _

theorem endRun_off {s : State} (outcome : OutcomeCode) (hquiet : s.isRun = false) (hoff : s.bridges.held = .off) :
    (s.endRun outcome).bridges.held = .off := by
  unfold State.endRun
  split
  · refine derive_off ?_
    simpa [State.isRun, State.onTraction, State.onBalance, State.freeLease, State.onRadio, State.raise, State.onPort,
      State.completeSlot] using hquiet
  · exact hoff

theorem tractionTeardown_held (s : State) : s.tractionTeardown.bridges.held = .off := handCommand_held _ _

theorem teardown_held (s : State) : s.teardown.bridges.held = .off := by
  have hoff := endRun_off (s := (s.onPort fun p => { p with run := .quiet, teardownPending := false }).tractionTeardown)
    .aborted rfl (tractionTeardown_held _)
  simp only [State.teardown]
  generalize State.endRun _ _ = u at hoff
  simpa [State.onLamps, State.onRadio, State.onSets] using hoff

theorem teardown_duty (s : State) : dutyLawful s.teardown :=
  duty_of_rest fun _ hp => Command.noConfusion ((teardown_held s).symm.trans hp)

theorem nextAction_duty {s : State} (h : dutyLawful s) : dutyLawful s.nextAction :=
  nextAction_keeps (P := dutyLawful) (fun _ => queueIs_duty) (fun _ a => conclude_duty a none) (fun _ => abandonAction_duty) (teardown_duty s) h

theorem decideHead_duty {s : State} (kind : SetActionKind) (h : dutyLawful s) : dutyLawful (s.decideHead kind) :=
  decideHead_keeps (P := dutyLawful) kind (fun _ _ _ _ => nextAction_duty (conclude_duty _ _ h)) h

theorem actionArrives_duty {s : State} (a : SetAction) (h : dutyLawful s) : dutyLawful (s.actionArrives a) :=
  actionArrives_keeps (P := dutyLawful) (fun _ => queueIs_duty) (fun _ a => conclude_duty a none) a h

theorem requestAction_duty {s : State} (code index level : Nat) (source : Requestor) (h : dutyLawful s) :
    dutyLawful (s.requestAction code index level source) :=
  requestAction_keeps (P := dutyLawful) (fun _ => queueIs_duty) (fun _ a => conclude_duty a none) (fun _ => reportAction_duty) code index level
    source h

theorem tractionEnterRun_rest (s : State) (p : DriveParams) : s.tractionEnterRun.bridges.held ≠ .drive p :=
  fun hp => stopCommand_rest _ p ((handCommand_held _ _).symm.trans hp)

theorem enterRun_duty (s : State) (j : StartJob) : dutyLawful (s.enterRun j) := by
  simp only [State.enterRun]
  generalize (State.onRadio _ fun r => r.enterRun _) = u
  refine duty_beside (s := u.tractionEnterRun) ?_ (duty_of_rest (tractionEnterRun_rest u))
  generalize u.tractionEnterRun = v
  simp [State.raise, State.onPort]

theorem endStage_duty {s : State} (j : StartJob) (h : dutyLawful s) : dutyLawful (s.endStage j).1 := by
  unfold State.endStage
  split
  · exact duty_same (s := s) rfl ⟨rfl, rfl, rfl⟩ rfl (fun hno => hno) rfl rfl h
  · exact loadRadio_duty _ h
  · exact duty_beside (s := s) (by simp) h
  · exact h
  · exact h

theorem endLoads_duty (n : Nat) {s : State} (j : StartJob) (h : dutyLawful s) : dutyLawful (State.endLoads n s j).1 := by
  induction n generalizing s j with
  | zero => exact h
  | succ n ih =>
    simp only [State.endLoads]
    split
    · exact h
    · exact ih _ (endStage_duty _ (duty_beside (s := s) (by simp) h))

theorem startEnd_duty {s : State} (h : dutyLawful s) : dutyLawful (startEnd s) := by
  simp only [startEnd]
  split
  · split
    · split
      · exact teardown_duty _
      · exact enterRun_duty _ _
    · exact h
  · exact h

theorem startRefused_duty {s : State} (h : dutyLawful s) : dutyLawful (startRefused s) := by
  simp only [startRefused]
  split
  · split
    · exact endLoads_duty 4 _ h
    · exact h
  · exact h

theorem requestStop_duty {s : State} (h : dutyLawful s) : dutyLawful s.requestStop := by
  unfold State.requestStop State.requestTeardown
  split
  · split
    · exact teardown_duty _
    · exact h
  · split
    · exact h
    · exact h

/-! ## The PWM timer and the phases -/

theorem pwmPeriod_duty {s : State} (h : dutyLawful s) : dutyLawful (pwmPeriod s) :=
  duty_same (s := s) rfl ⟨rfl, rfl, rfl⟩ rfl (fun hno => hno) rfl rfl h

/-- What works on one bridge at a moment leaves the command held to be. -/
theorem reachBridge_duty {s : State} (id : BridgeId) (moment : Nat) (f : BridgeUnit → Bridge) (h : dutyLawful s) :
    dutyLawful ((s.reach moment).onBridges fun u => u.set id (f u)) :=
  onBridge_duty id f (s := s.reach moment) h

theorem onPhaseEnd_duty {s : State} (id : BridgeId) (h : dutyLawful s) : dutyLawful (onPhaseEnd id s) := by
  unfold onPhaseEnd
  split
  · exact reachBridge_duty _ _ _ h
  · exact h

theorem deadTimeExpiry_duty {s : State} (id : BridgeId) (leg : Leg) (h : dutyLawful s) :
    dutyLawful (deadTimeExpiry id leg s) := by
  simp only [deadTimeExpiry]
  split
  · split
    · exact reachBridge_duty _ _ _ h
    · exact h
  · exact h

theorem blankingEnd_duty {s : State} (id : BridgeId) (h : dutyLawful s) : dutyLawful (blankingEnd id s) := by
  simp only [blankingEnd]
  split
  · split
    · exact reachBridge_duty _ _ _ h
    · exact h
  · exact h

theorem chop_duty {s : State} (id : BridgeId) (millivolts : Nat) (h : dutyLawful s) : dutyLawful (chop id millivolts s) := by
  simp only [chop]
  split
  · split
    · exact onBridge_duty _ _ h
    · exact h
  · exact h

/-! ## Orders and frames -/

theorem completeOrder_duty {s : State} (o : TakenOrder) (outcome : OutcomeCode) (result : List Byte) (h : dutyLawful s) :
    dutyLawful (s.completeOrder o outcome result) :=
  duty_beside (s := s) (by simp) h

theorem dropOrder_duty {s : State} (h : dutyLawful s) : dutyLawful s.dropOrder := h

theorem logFrame_duty {s : State} (r : Reason) (f : Frame) (h : dutyLawful s) : dutyLawful (s.logFrame r f) :=
  duty_beside (s := s) (by simp) h

theorem hearHolder_duty {s : State} (f : Frame) (h : dutyLawful s) : dutyLawful (s.hearHolder f) :=
  duty_beside (s := s) (by simp) h

theorem frameDone_duty {s : State} (h : dutyLawful s) : dutyLawful s.frameDone :=
  duty_beside (s := s) (by simp) h

theorem runOrder_duty {s : State} {mine : TakenOrder → Bool} {act : State → TakenOrder → OrderAnswer}
    (hact : ∀ o, dutyLawful (act s o).1) (h : dutyLawful s) : dutyLawful (s.runOrder mine act) :=
  runOrder_keeps (fun _ => completeOrder_duty) (fun o _ => hact o) h

theorem handleFrame_duty {s : State} {mine : Frame → Bool} {act : State → Frame → State}
    (hact : ∀ u f, dutyLawful u → dutyLawful (act u f)) (h : dutyLawful s) : dutyLawful (s.handleFrame mine act) :=
  handleFrame_keeps (fun f => hearHolder_duty f h) (fun _ => logFrame_duty) (fun _ => frameDone_duty) hact h

theorem throttleAct_duty (s : State) (f : Frame) (h : dutyLawful s) : dutyLawful (throttleAct s f) := by
  simp only [throttleAct]
  split
  · exact logFrame_duty _ _ h
  · split
    · exact applyRequest_duty _ _ h
    · split
      · exact applyRequest_duty _ _ (s := s.takeLease f.sender f.cls) h
      · exact logFrame_duty _ _ h

theorem releaseAct_duty (s : State) (f : Frame) (h : dutyLawful s) : dutyLawful (releaseAct s f) := by
  unfold releaseAct
  split
  · exact releaseLease_duty h
  · exact h

theorem setAct_duty (s : State) (f : Frame) (h : dutyLawful s) : dutyLawful (setAct s f) := by
  unfold setAct
  split
  · exact logFrame_duty _ _ h
  · split
    · exact logFrame_duty _ _ h
    · exact requestAction_duty _ _ _ _ h

theorem setAction_duty {s : State} (h : dutyLawful s) : dutyLawful (setAction s) :=
  handOver_keeps (fun _ => completeOrder_duty) (fun _ _ => requestAction_duty _ _ _ _ (dropOrder_duty h)) h

theorem refreshSet_duty {s : State} (h : dutyLawful s) : dutyLawful (refreshSet s) :=
  decideHead_duty _ (handOver_keeps (fun _ => completeOrder_duty) (fun _ _ => actionArrives_duty _ (dropOrder_duty h)) h)

theorem balance_duty {s : State} (h : dutyLawful s) : dutyLawful (balance s) := by
  simp only [balance]
  split
  · split
    · exact completeOrder_duty _ _ _ h
    · split
      · exact completeOrder_duty _ _ _ h
      · exact dropOrder_duty (derive_duty _)
  · exact h

theorem failsafeExpiry_duty {s : State} (h : dutyLawful s) : dutyLawful (failsafeExpiry s) :=
  duty_beside (s := s) (by simp) h

theorem lapseExpiry_duty {s : State} (h : dutyLawful s) : dutyLawful (lapseExpiry s) := by
  unfold lapseExpiry
  split
  · exact releaseLease_duty (s := s.reach _) h
  · exact h
  · exact h

theorem balanceHeldTimerExpiry_duty {s : State} (h : dutyLawful s) : dutyLawful (balanceHeldTimerExpiry s) := by
  unfold balanceHeldTimerExpiry
  repeat' split
  all_goals first
    | exact endRun_duty _ (s := s.reach _) h
    | exact h

/-! ## Resets -/

theorem reset_duty : dutyLawful State.reset := duty_of_rest fun _ hp => Command.noConfusion hp

theorem resetRewritesEnd_duty {s : State} (h : dutyLawful s) : dutyLawful (resetRewritesEnd s) :=
  duty_beside (s := s) (by simp) h

/-! ## Every step -/

theorem exec_duty {c : Instr} {s t : State} (h : dutyLawful s) (hexec : exec c s = .next t) : dutyLawful t := by
  cases c
  case throttleOrder => cases hexec; exact runOrder_duty (fun _ => throttleOrder_duty _ h) h
  case leaseRelease => cases hexec; exact runOrder_duty (fun _ => leaseReleaseOrder_duty _ h) h
  case stopOrder => cases hexec; exact runOrder_duty (fun _ => emergencyStop_duty _) h
  case loadRadio => cases hexec; exact runOrder_duty (fun _ => loadRadio_duty _ h) h
  case holdBalance => cases hexec; exact runOrder_duty (fun _ => holdRun_duty h) h
  case resumeBalance => cases hexec; exact runOrder_duty (fun _ => resumeRun_duty h) h
  case clearFaults => cases hexec; exact runOrder_duty (fun _ => clearMask_duty _ h) h
  case throttleFrame => cases hexec; exact handleFrame_duty throttleAct_duty h
  case releaseFrame => cases hexec; exact handleFrame_duty releaseAct_duty h
  case stopFrame => cases hexec; exact handleFrame_duty (fun u f _ => logFrame_duty _ _ (emergencyStop_duty u)) h
  case setFrame => cases hexec; exact handleFrame_duty setAct_duty h
  case setAction => cases hexec; exact setAction_duty h
  case refreshSet => cases hexec; exact refreshSet_duty h
  case invoke => cases hexec; exact decideHead_duty _ h
  case switch => cases hexec; exact decideHead_duty _ h
  case returnSet => cases hexec; exact decideHead_duty _ h
  case balance => cases hexec; exact balance_duty h
  case lapseExpiry => cases hexec; exact lapseExpiry_duty h
  case startEnd => cases hexec; exact startEnd_duty h
  case startRefused => cases hexec; exact startRefused_duty h
  case teardown => cases hexec; exact requestStop_duty (s := s.registerWrite) h
  case powerReset => cases hexec; exact reset_duty
  case brownoutReset => cases hexec; exact reset_duty
  case softReset => cases hexec; exact reset_duty
  case balanceHeldTimerExpiry => cases hexec; exact balanceHeldTimerExpiry_duty h
  case pwmPeriod => cases hexec; exact pwmPeriod_duty h
  case onPhaseEnd => cases hexec; exact onPhaseEnd_duty _ h
  case deadTimeExpiry => cases hexec; exact deadTimeExpiry_duty _ _ h
  case blankingEnd => cases hexec; exact blankingEnd_duty _ h
  case chop => cases hexec; exact chop_duty _ _ h
  case shortDetection => cases hexec; exact shortDetection_duty _ _ _ h
  case regulationStep => cases hexec; exact regulationStep_duty s
  case supplySample => cases hexec; exact supplySample_duty _ _ h
  case dieTemperatureExpiry => cases hexec; exact dieTemperatureExpiry_duty _ h
  all_goals
    cases hexec
    exact duty_beside (s := s) (by simp) h

theorem grantReset_duty {s : State} (h : dutyLawful s) : dutyLawful s.grantReset :=
  duty_beside (s := s) (by simp) h

theorem startAccess_duty {s : State} (j : StartJob) (h : dutyLawful s) : dutyLawful (s.startAccess j) := by
  unfold State.startAccess
  split
  · exact endStage_duty j h
  · simp only
    split
    · exact endStage_duty _ h
    · exact h

theorem grantRefresh_duty {s : State} (h : dutyLawful s) : dutyLawful s.grantRefresh := by
  unfold State.grantRefresh
  split
  · refine duty_same (s := State.requestRefresh s.dropOrder _) rfl ⟨rfl, rfl, rfl⟩ ?_ (fun hno => hno) rfl rfl
      (actionArrives_duty _ (dropOrder_duty h))
    unfold State.grantLoad
    simp only [State.onSets]
    split <;> rfl
  · exact h

theorem grant_duty {s : State} (r : Requester) (h : dutyLawful s) : dutyLawful (s.grant r) := by
  cases r with
  | hostPort => exact h
  | orderEngine =>
    refine grantOrders_keeps (P := dutyLawful) (grantReset_duty h) (fun j _ => startAccess_duty j h) ?_ h
      (grantRefresh_duty h) (fun w => duty_beside (s := s) (by simp) h) h
    refine duty_same (s := s) rfl ⟨rfl, rfl, rfl⟩ ?_ (fun hno => hno) rfl rfl h
    unfold State.grantLoad
    simp only [State.onSets]
    split <;> rfl
  | statusWriter => exact duty_beside (s := s) (by simp [State.grant]) h
  | radioWriter => exact duty_beside (s := s) (by simp [State.grant]) h

theorem idle_duty {s : State} (h : dutyLawful s) : dutyLawful (idle s) :=
  grants_keeps (P := dutyLawful) (fun _ => grantReset_duty) (fun _ r => grant_duty r) _ h

/-- Every step keeps the law of the duty. -/
theorem step_duty {s t : State} (h : dutyLawful s) (hstep : step s = .next t) : dutyLawful t :=
  step_keeps dutyLawful (fun _ _ h => h) (fun _ => idle_duty) (fun _ _ _ h => exec_duty h) s t h hstep

end Sys2Proof.DutyLaw
end

section
/-! PROOFS. Every step keeps the law of the heater (R174): the enable is formed again wherever what it reads changes, and the
stages of an expiry heat below the setpoint alone. -/

namespace Sys2Proof.HeaterLaw
open Sys2Proof.Machine Sys2Proof.Safety Sys2Proof.Chains

variable {s : State}

/-- The law speaks of the heater, the run state, the shed level and the cached set. -/
theorem heater_same {t : State} (hheater : t.lamps.heater = s.lamps.heater) (hrun : t.port.run = s.port.run)
    (hshed : t.supply.shed = s.supply.shed) (hcache : t.sets.cache = s.sets.cache) (h : heaterLawful s) : heaterLawful t := by
  intro hon
  rw [hheater] at hon
  simpa only [State.isRun, hrun, hshed, hheater, State.lampSet, hcache] using h hon

theorem heater_beside {t : State} (h : t.lamps.heater = s.lamps.heater ∧ t.port.run = s.port.run ∧ t.supply = s.supply
      ∧ t.sets = s.sets) (hs : heaterLawful s) : heaterLawful t :=
  heater_same h.1 h.2.1 (by rw [h.2.2.1]) (by rw [h.2.2.2]) hs

/-- An output that is off meets the law. -/
theorem heater_off (h : s.lamps.heater.output = false) : heaterLawful s :=
  fun hon => absurd (h.symm.trans hon) Bool.false_ne_true

/-- In QUIET the output is off. -/
theorem output_quiet (h : heaterLawful s) (hquiet : s.port.run = .quiet) : s.lamps.heater.output = false := by
  by_contra hon
  have hrun := (h (by simpa using hon)).1
  simp [State.isRun, hquiet] at hrun

/-! ## The fan leaves the heater to be -/

@[simp] theorem fanRuns_heater : s.fanRuns.lamps.heater = s.lamps.heater := rfl

@[simp] theorem fanStart_heater : s.fanStart.lamps.heater = s.lamps.heater := by
  unfold State.fanStart
  split <;> rfl

@[simp] theorem fanPurge_heater : s.fanPurge.lamps.heater = s.lamps.heater := by
  unfold State.fanPurge
  split <;> rfl

@[simp] theorem fanFollows_heater (before : HeaterState) : (s.fanFollows before).lamps.heater = s.lamps.heater := by
  unfold State.fanFollows
  repeat' split
  all_goals simp

@[simp] theorem fanChuff_heater : s.fanChuff.lamps.heater = s.lamps.heater := by
  unfold State.fanChuff
  split <;> rfl

@[simp] theorem clearFan_heater : s.clearFan.lamps.heater = s.lamps.heater := by
  unfold State.clearFan
  repeat' split
  all_goals rfl

theorem fanFollows_keeps (before : HeaterState) (h : heaterLawful s) : heaterLawful (s.fanFollows before) :=
  heater_beside (s := s) (by simp) h

/-! ## The enable, formed again -/

/-- What stands of the law while what the enable reads has changed: an output that is on works, below the dry limit. -/
def heats (s : State) : Prop :=
  s.lamps.heater.output = true → s.lamps.heater.working = true ∧ s.lamps.heater.lastT ≤ s.lampSet.dryLimit

theorem heats_of_lawful (h : heaterLawful s) : heats s := fun hon => ⟨(h hon).2.2.1, (h hon).2.2.2⟩

theorem heaterEnabled_run (h : heaterEnabled s = true) : s.isRun = true ∧ s.supply.shed = 0 := by
  simp only [heaterEnabled, Bool.and_eq_true, decide_eq_true_eq] at h
  obtain ⟨⟨⟨⟨hrun, -⟩, -⟩, hshed⟩, -⟩ := h
  exact ⟨hrun, hshed⟩

theorem unlessEnabled_on {h : Heater} {enabled : Bool} (hwarm : h.output = true → h.working = true)
    (hon : (h.unlessEnabled enabled).output = true) : h.unlessEnabled enabled = h ∧ h.output = true ∧ enabled = true := by
  unfold Heater.unlessEnabled at hon ⊢
  split at hon
  · exact absurd hon Bool.false_ne_true
  · next hstays =>
    rw [if_neg hstays]
    exact ⟨rfl, hon, by simpa [hwarm hon] using hstays⟩

theorem heaterArrival_lawful (h : heats s) : heaterLawful s.heaterArrival := by
  refine fanFollows_keeps _ fun hon => ?_
  obtain ⟨hsame, hon, henabled⟩ := unlessEnabled_on (h := s.lamps.heater) (fun hon => (h hon).1) hon
  obtain ⟨hrun, hshed⟩ := heaterEnabled_run henabled
  obtain ⟨hworks, hdry⟩ := h hon
  refine ⟨hrun, hshed, ?_, ?_⟩
  · exact (congrArg Heater.working hsame).trans hworks
  · exact (congrArg Heater.lastT hsame).trans_le hdry

/-! ## The stages of an expiry and of a set change (R177, R178) -/

theorem setpoint_le : setpoint s ≤ s.lampSet.dryLimit := by
  unfold setpoint
  omega

/-- The stages heat below the setpoint alone, in PREHEAT or REGULATE. -/
theorem work_heats {h : Heater} {point raised : Nat} (hwarm : h.output = true → h.working = true)
    (hon : (h.work point raised).output = true) : (h.work point raised).working = true ∧ h.working = true
      ∧ (h.work point raised).lastT ≤ point := by
  unfold Heater.work at hon ⊢
  split at hon
  · next hstate =>
    simp only [hstate]
    split at hon
    · exact absurd hon Bool.false_ne_true
    · next hbelow =>
      rw [if_neg hbelow]
      split at hon
      · exact absurd hon Bool.false_ne_true
      · next hgoes =>
        rw [if_neg hgoes]
        exact ⟨by simp [Heater.working], by simp [Heater.working, hstate], Nat.le_of_not_le hbelow⟩
  · next hstate =>
    simp only [hstate]
    have hworks : h.working = true := by simp [Heater.working, hstate]
    refine ⟨by simp [Heater.working], hworks, ?_⟩
    simp only at hon ⊢
    split at hon
    · omega
    · split at hon
      · exact absurd hon Bool.false_ne_true
      · omega
  · next hstate => exact absurd (hwarm hon) (by simp [Heater.working, hstate])
  · next hstate => exact absurd (hwarm hon) (by simp [Heater.working, hstate])

/-- An output that is on works, and what works is enabled: the state between the stages. -/
def ready (s : State) : Prop :=
  (s.lamps.heater.output = true → s.lamps.heater.working = true)
    ∧ (s.lamps.heater.working = true → s.isRun = true ∧ s.supply.shed = 0)

theorem ready_same {t : State} (hheater : t.lamps.heater = s.lamps.heater) (hrun : t.port.run = s.port.run)
    (hshed : t.supply.shed = s.supply.shed) (h : ready s) : ready t := by
  unfold ready State.isRun at h ⊢
  rwa [hheater, hrun, hshed]

theorem unlessEnabled_ready (hwarm : s.lamps.heater.output = true → s.lamps.heater.working = true) :
    ready (s.onHeater fun h => h.unlessEnabled (heaterEnabled s)) := by
  unfold ready
  simp only [State.onHeater, State.onLamps, Heater.unlessEnabled]
  split
  · exact ⟨fun hon => absurd hon Bool.false_ne_true, fun hworks => absurd hworks (by simp [Heater.working])⟩
  · next hstays =>
    exact ⟨hwarm, fun hworks => heaterEnabled_run (by simpa [hworks] using hstays)⟩

theorem dryTest_ready (h : ready s) : ready s.dryTest := by
  unfold State.dryTest
  split
  · exact ⟨fun hon => absurd hon Bool.false_ne_true, fun hworks => absurd hworks (by simp [Heater.working, State.onHeater,
      State.onLamps])⟩
  · exact h

theorem start_ready (h : ready s) : ready (s.onHeater fun h => h.start (heaterEnabled s)) := by
  unfold ready
  simp only [State.onHeater, State.onLamps, Heater.start]
  split
  · next hstarts =>
    have henabled : heaterEnabled s = true := (Bool.and_eq_true _ _ ▸ hstarts).2
    exact ⟨fun _ => rfl, fun _ => heaterEnabled_run henabled⟩
  · exact h

theorem work_lawful (raised : Nat) (h : ready s) : heaterLawful (s.onHeater fun h => h.work (setpoint s) raised) := by
  intro hon
  obtain ⟨hworks, hworked, hbelow⟩ := work_heats h.1 hon
  obtain ⟨hrun, hshed⟩ := h.2 hworked
  exact ⟨hrun, hshed, hworks, hbelow.trans setpoint_le⟩

theorem heaterSetChange_lawful (hwarm : s.lamps.heater.output = true → s.lamps.heater.working = true) :
    heaterLawful s.heaterSetChange :=
  fanFollows_keeps _ (work_lawful 0 (dryTest_ready (unlessEnabled_ready hwarm)))

/-- The sensor test switches off. -/
theorem sensorTest_warm (h : s.lamps.heater.output = true → s.lamps.heater.working = true) :
    s.sensorTest.lamps.heater.output = true → s.sensorTest.lamps.heater.working = true := by
  unfold State.sensorTest
  split
  · exact fun hon => absurd hon Bool.false_ne_true
  · exact h

theorem heaterTimerExpiry_lawful (thermistor : BitVec 10) (h : heaterLawful s) :
    heaterLawful (heaterTimerExpiry thermistor s) := by
  simp only [heaterTimerExpiry]
  have hwarm : ((((s.reach s.timers.heater).onTimers fun t =>
      { t with heater := (s.reach s.timers.heater).clock + ms 100 }).onHeater fun h =>
        { h with lastT := thermistor.toNat }).lamps.heater.output = true →
      (((s.reach s.timers.heater).onTimers fun t =>
      { t with heater := (s.reach s.timers.heater).clock + ms 100 }).onHeater fun h =>
        { h with lastT := thermistor.toNat }).lamps.heater.working = true) := fun hon => (h hon).2.2.1
  generalize State.onHeater (State.onTimers _ _) _ = u at hwarm ⊢
  have hready := start_ready (dryTest_ready (unlessEnabled_ready (sensorTest_warm hwarm)))
  generalize State.onHeater (State.dryTest _) _ = v at hready ⊢
  have hends : heaterLawful (if heatFails v = true then (v.onHeater fun h => h.work (setpoint v) 1).recordFault
      else v.onHeater fun h => h.work (setpoint v) 1) := by
    split
    · exact work_lawful 1 hready
    · exact work_lawful 1 hready
  generalize (if heatFails v = true then _ else _) = w at hends ⊢
  have hfollows := fanFollows_keeps s.lamps.heater.state hends
  split
  · exact heater_beside (s := w.fanFollows s.lamps.heater.state) ⟨rfl, rfl, rfl, rfl⟩ hfollows
  · exact hfollows

/-! ## Orders, faults and shed levels -/

theorem tellFunctions_lawful (before : Reg) (h : heats s) : heaterLawful (s.tellFunctions before) := by
  refine heaterArrival_lawful fun hon => ?_
  have hlamps : (s.soundFunctions before).lamps = s.lamps := by simp
  have hsets : (s.soundFunctions before).sets = s.sets := by simp
  rw [hlamps] at hon
  simpa only [hlamps, State.lampSet, hsets] using h hon

theorem setFunctions_lawful (functions : Reg) (h : heaterLawful s) : heaterLawful (s.setFunctions functions) :=
  tellFunctions_lawful _ (heats_of_lawful h)

theorem clear_lawful (h : heaterLawful s) : heaterLawful (s.onHeater Heater.clear) := by
  intro hon
  have hon' : s.lamps.heater.output = true := by
    revert hon
    simp only [State.onHeater, State.onLamps, Heater.clear]
    split <;> exact id
  obtain ⟨hrun, hshed, hworks, hdry⟩ := h hon'
  refine ⟨hrun, hshed, ?_, ?_⟩
  · simp only [State.onHeater, State.onLamps, Heater.clear]
    split
    · have hstate : s.lamps.heater.state ≠ .dry := fun hno => by simp [Heater.working, hno] at hworks
      simp only [if_neg hstate]
      exact hworks
    · exact hworks
  · simp only [State.onHeater, State.onLamps, Heater.clear]
    split
    · exact hdry
    · exact hdry

theorem clearMask_lawful (mask : BitVec 32) (h : heaterLawful s) : heaterLawful (s.clearMask mask) := by
  simp only [State.clearMask]
  have hfirst : heaterLawful (if mask.getLsbD 0 then s.clearBridge .a else s) := by
    split
    · exact heater_beside (s := s) (by simp) h
    · exact h
  generalize (if mask.getLsbD 0 then s.clearBridge .a else s) = u at hfirst ⊢
  have hsecond : heaterLawful (if mask.getLsbD 1 then u.clearBridge .b else u) := by
    split
    · exact heater_beside (s := u) (by simp) hfirst
    · exact hfirst
  generalize (if mask.getLsbD 1 then u.clearBridge .b else u) = v at hsecond ⊢
  have hlamps : heaterLawful (v.clearLamps mask) := hsecond
  generalize v.clearLamps mask = w at hlamps ⊢
  have hheater : heaterLawful (if mask.getLsbD 12 then w.onHeater Heater.clear else w) := by
    split
    · exact clear_lawful hlamps
    · exact hlamps
  generalize (if mask.getLsbD 12 then w.onHeater Heater.clear else w) = x at hheater ⊢
  split
  · exact heater_beside (s := x) (by simp) hheater
  · exact hheater

theorem fanDriveNow_lawful (h : heaterLawful s) : heaterLawful s.fanDriveNow := h

theorem lampShedChange_lawful (before : Nat) (h : heats s) : heaterLawful (s.lampShedChange before) := by
  simp only [State.lampShedChange]
  have hrise : heats (if before < s.supply.shed then s.onEachLamp fun _ l => l.shedRise s.supply.shed else s) := by
    split
    · exact h
    · exact h
  have harrives := heaterArrival_lawful hrise
  generalize State.heaterArrival _ = u at harrives ⊢
  split
  · exact harrives
  · exact fanDriveNow_lawful harrives

theorem heats_same {t : State} (hlamps : t.lamps.heater = s.lamps.heater) (hcache : t.sets.cache = s.sets.cache) (h : heats s) :
    heats t := by
  unfold heats State.lampSet at h ⊢
  rwa [hlamps, hcache]

theorem formShed_lawful (h : heaterLawful s) : heaterLawful s.formShed := by
  simp only [State.formShed]
  split
  · exact h
  · refine heater_same (s := State.lampShedChange _ s.supply.shed) rfl (by simp) rfl rfl (lampShedChange_lawful _ ?_)
    exact heats_same (s := s) (by simp) (by simp) (heats_of_lawful h)

theorem supplySample_lawful (vtrk vsto : Nat) (h : heaterLawful s) : heaterLawful (supplySample vtrk vsto s) := by
  have hworks : heaterLawful (((s.reach s.timers.supply).onTimers fun t =>
      { t with supply := (s.reach s.timers.supply).clock + ms 1 }).onSupply fun u =>
        { u with vtrk := voltage vtrk, vsto := voltage vsto }.work) :=
    heater_same (s := s) rfl rfl (DutyLaw.work_shed _) rfl h
  simp only [supplySample]
  generalize (State.onSupply _ fun u => Supply.work _) = u at hworks ⊢
  have hreport : heaterLawful (u.supplyReport s.supply.state) := heater_beside (s := u) (by simp) hworks
  exact formShed_lawful (heater_same (s := u.supplyReport s.supply.state) rfl rfl rfl rfl hreport)

theorem dieTemperatureExpiry_lawful (celsius : Int) (h : heaterLawful s) : heaterLawful (dieTemperatureExpiry celsius s) := by
  simp only [dieTemperatureExpiry]
  exact formShed_lawful (heater_same (s := s) rfl rfl rfl rfl h)

/-! ## Set actions and the run state -/

theorem applyAction_lawful (a : SetAction) (d : DriveSet) (clamped : Bool) (h : heaterLawful s) :
    heaterLawful (s.applyAction a d clamped) := by
  have hchanged : (s.changeSet a d clamped).lamps.heater.output = true →
      (s.changeSet a d clamped).lamps.heater.working = true := fun hon => (h hon).2.2.1
  simp only [State.applyAction, State.tellSetChange]
  generalize s.changeSet a d clamped = u at hchanged ⊢
  have htold : (if u.radio.request.functions = s.radio.request.functions then u
      else u.tellFunctions s.radio.request.functions).lamps.heater.output = true →
      (if u.radio.request.functions = s.radio.request.functions then u
        else u.tellFunctions s.radio.request.functions).lamps.heater.working = true := by
    split
    · exact hchanged
    · intro hon
      have hlamps : (u.soundFunctions s.radio.request.functions).lamps = u.lamps := by simp
      simp only [State.tellFunctions, State.heaterArrival, fanFollows_heater] at hon ⊢
      obtain ⟨hsame, hon, -⟩ := unlessEnabled_on (h := (u.soundFunctions s.radio.request.functions).lamps.heater)
        (by rw [hlamps]; exact hchanged) hon
      refine (congrArg Heater.working hsame).trans ?_
      rw [hlamps] at hon ⊢
      exact hchanged hon
  generalize (if u.radio.request.functions = s.radio.request.functions then u
      else u.tellFunctions s.radio.request.functions) = v at htold ⊢
  have hlamps : v.tractionSetChange.soundSetChange.lamps = v.lamps := by simp
  have hends := heaterSetChange_lawful (s := v.tractionSetChange.soundSetChange) (by rw [hlamps]; exact htold)
  generalize State.heaterSetChange _ = w at hends ⊢
  split
  · exact hends
  · exact hends

theorem reportAction_lawful (a : SetAction) (outcome : OutcomeCode) (h : heaterLawful s) :
    heaterLawful (s.reportAction a outcome) :=
  heater_beside (s := s) (by simp) h

theorem conclude_lawful (a : SetAction) (d : Option (DriveSet × Bool)) (h : heaterLawful s) :
    heaterLawful (s.conclude a d) := by
  unfold State.conclude
  split
  · exact reportAction_lawful _ _ (applyAction_lawful _ _ _ h)
  · exact reportAction_lawful _ _ h
  · exact h

theorem queueIs_lawful (q : List SetAction) (h : heaterLawful s) : heaterLawful (s.queueIs q) := h

theorem abandonAction_lawful (a : SetAction) (h : heaterLawful s) : heaterLawful (s.abandonAction a) :=
  heater_beside (s := s) (by simp) h

theorem teardown_lawful (s : State) : heaterLawful s.teardown := by
  refine heater_off ?_
  simp only [State.teardown]
  generalize State.soundStop _ = u
  simp [State.onLamps, State.onRadio, State.onSets, LampUnit.teardown, Heater.teardown]

theorem nextAction_lawful (h : heaterLawful s) : heaterLawful s.nextAction :=
  nextAction_keeps (P := heaterLawful) (fun _ => queueIs_lawful) (fun _ a => conclude_lawful a none)
    (fun _ => abandonAction_lawful) (teardown_lawful s) h

theorem decideHead_lawful (kind : SetActionKind) (h : heaterLawful s) : heaterLawful (s.decideHead kind) :=
  decideHead_keeps (P := heaterLawful) kind (fun _ _ _ _ => nextAction_lawful (conclude_lawful _ _ h)) h

theorem actionArrives_lawful (a : SetAction) (h : heaterLawful s) : heaterLawful (s.actionArrives a) :=
  actionArrives_keeps (P := heaterLawful) (fun _ => queueIs_lawful) (fun _ a => conclude_lawful a none) a h

theorem requestAction_lawful (code index level : Nat) (source : Requestor) (h : heaterLawful s) :
    heaterLawful (s.requestAction code index level source) :=
  requestAction_keeps (P := heaterLawful) (fun _ => queueIs_lawful) (fun _ a => conclude_lawful a none)
    (fun _ => reportAction_lawful) code index level source h

theorem endStage_heater (j : StartJob) : (s.endStage j).1.lamps.heater = s.lamps.heater := by
  unfold State.endStage
  split
  · rfl
  · simp
  · rfl
  · rfl
  · rfl

theorem endLoads_heater (n : Nat) (j : StartJob) : (State.endLoads n s j).1.lamps.heater = s.lamps.heater := by
  induction n generalizing s j with
  | zero => rfl
  | succ n ih =>
    simp only [State.endLoads]
    split
    · rfl
    · exact ((ih _).trans (endStage_heater _)).trans (by simp)

theorem enterRun_heater (j : StartJob) : (s.enterRun j).lamps.heater = s.lamps.heater := by
  simp only [State.enterRun]
  simp [State.onPort, State.onSets, State.onRadio]

/-- A start is in flight in QUIET alone, where the output is off. -/
theorem startEnd_lawful (hstart : startLawful s) (h : heaterLawful s) : heaterLawful (startEnd s) := by
  simp only [startEnd]
  split
  · next j hj =>
    have hoff := output_quiet h (StartLaws.start_alone hstart hj).1
    split
    · split
      · exact teardown_lawful _
      · refine heater_off ?_
        rw [enterRun_heater, endLoads_heater]
        exact hoff
    · exact h
  · exact h

theorem startRefused_lawful (hstart : startLawful s) (h : heaterLawful s) : heaterLawful (startRefused s) := by
  simp only [startRefused]
  split
  · next j hj =>
    have hoff := output_quiet h (StartLaws.start_alone hstart hj).1
    split
    · refine heater_off ?_
      simpa [State.onPort, endLoads_heater] using hoff
    · exact h
  · exact h

theorem requestStop_lawful (h : heaterLawful s) : heaterLawful s.requestStop := by
  unfold State.requestStop State.requestTeardown
  split
  · split
    · exact teardown_lawful _
    · exact h
  · split
    · exact h
    · exact h

/-! ## Orders and frames -/

theorem completeOrder_lawful (o : TakenOrder) (outcome : OutcomeCode) (result : List Byte) (h : heaterLawful s) :
    heaterLawful (s.completeOrder o outcome result) :=
  heater_beside (s := s) (by simp) h

theorem logFrame_lawful (r : Reason) (f : Frame) (h : heaterLawful s) : heaterLawful (s.logFrame r f) :=
  heater_beside (s := s) (by simp) h

theorem hearHolder_lawful (f : Frame) (h : heaterLawful s) : heaterLawful (s.hearHolder f) :=
  heater_beside (s := s) (by simp) h

theorem frameDone_lawful (h : heaterLawful s) : heaterLawful s.frameDone :=
  heater_beside (s := s) (by simp) h

theorem runOrder_lawful {mine : TakenOrder → Bool} {act : State → TakenOrder → OrderAnswer}
    (hact : ∀ o, heaterLawful (act s o).1) (h : heaterLawful s) : heaterLawful (s.runOrder mine act) :=
  runOrder_keeps (fun _ => completeOrder_lawful) (fun o _ => hact o) h

theorem handleFrame_lawful {mine : Frame → Bool} {act : State → Frame → State}
    (hact : ∀ u f, heaterLawful u → heaterLawful (act u f)) (h : heaterLawful s) : heaterLawful (s.handleFrame mine act) :=
  handleFrame_keeps (fun f => hearHolder_lawful f h) (fun _ => logFrame_lawful) (fun _ => frameDone_lawful) hact h

theorem funcAct_lawful (s : State) (f : Frame) (h : heaterLawful s) : heaterLawful (funcAct s f) := by
  unfold funcAct
  split
  · exact setFunctions_lawful _ h
  · exact logFrame_lawful _ _ h

theorem setAct_lawful (s : State) (f : Frame) (h : heaterLawful s) : heaterLawful (setAct s f) := by
  unfold setAct
  split
  · exact logFrame_lawful _ _ h
  · split
    · exact logFrame_lawful _ _ h
    · exact requestAction_lawful _ _ _ _ h

theorem setAction_lawful (h : heaterLawful s) : heaterLawful (setAction s) :=
  handOver_keeps (fun _ => completeOrder_lawful) (fun _ _ => requestAction_lawful _ _ _ _ h) h

theorem refreshSet_lawful (h : heaterLawful s) : heaterLawful (refreshSet s) :=
  decideHead_lawful _ (handOver_keeps (fun _ => completeOrder_lawful) (fun _ _ => actionArrives_lawful (s := s.dropOrder) _ h) h)

theorem loadLamps_lawful (h : heaterLawful s) : heaterLawful (loadLamps s) :=
  runOrder_lawful (fun _ => h) h

/-! ## Lamps, fan and mixer frames -/

@[simp] theorem onLamp_heater (n : Nat) (f : Lamp → Lamp) : (s.onLamp n f).lamps.heater = s.lamps.heater := rfl

@[simp] theorem onEachLamp_heater (f : Nat → Lamp → Lamp) : (s.onEachLamp f).lamps.heater = s.lamps.heater := rfl

@[simp] theorem recordLampFault_heater (n : Nat) (kind : LampFault) :
    (s.recordLampFault n kind).lamps.heater = s.lamps.heater := by
  simp [State.recordLampFault]

@[simp] theorem overEpisode_heater (n : Nat) : (s.overEpisode n).lamps.heater = s.lamps.heater := by
  simp only [State.overEpisode]
  split
  all_goals simp

@[simp] theorem overcurrentDetected_heater (n : Nat) : (overcurrentDetected s n).lamps.heater = s.lamps.heater := by
  unfold overcurrentDetected
  split
  all_goals simp

@[simp] theorem openLoadDetected_heater (n : Nat) : (openLoadDetected s n).lamps.heater = s.lamps.heater := by
  simp only [openLoadDetected]
  repeat' split
  all_goals simp

@[simp] theorem lampOvercurrent_heater (n : Fin 10) (milliamps since : Nat) :
    (lampOvercurrent n milliamps since s).lamps.heater = s.lamps.heater := by
  simp only [lampOvercurrent]
  split
  all_goals simp

@[simp] theorem openLoadExpiry_heater (n : Fin 10) : (openLoadExpiry n s).lamps.heater = s.lamps.heater := by
  unfold openLoadExpiry
  split
  all_goals simp

@[simp] theorem lampPwmPeriod_heater (n : Fin 10) : (lampPwmPeriod n s).lamps.heater = s.lamps.heater := rfl

@[simp] theorem effectTimerExpiry_heater : (effectTimerExpiry s).lamps.heater = s.lamps.heater := rfl

@[simp] theorem lampRetryExpiry_heater (n : Fin 10) : (lampRetryExpiry n s).lamps.heater = s.lamps.heater := by
  unfold lampRetryExpiry
  split <;> rfl

@[simp] theorem lampOnTimeEnd_heater (n : Fin 10) (milliamps : Nat) :
    (lampOnTimeEnd n milliamps s).lamps.heater = s.lamps.heater := by
  simp only [lampOnTimeEnd]
  split <;> rfl

@[simp] theorem puffTimerExpiry_heater : (puffTimerExpiry s).lamps.heater = s.lamps.heater := by
  unfold puffTimerExpiry
  split <;> rfl

@[simp] theorem purgeTimerExpiry_heater : (purgeTimerExpiry s).lamps.heater = s.lamps.heater := by
  unfold purgeTimerExpiry
  split <;> rfl

@[simp] theorem fanPwmPeriod_heater : (fanPwmPeriod s).lamps.heater = s.lamps.heater := rfl

@[simp] theorem fanOvercurrent_heater (milliamps since : Nat) :
    (fanOvercurrent milliamps since s).lamps.heater = s.lamps.heater := by
  simp only [fanOvercurrent]
  split <;> rfl

@[simp] theorem chuffCheck_heater : s.chuffCheck.lamps.heater = s.lamps.heater := by
  simp only [State.chuffCheck, State.chuff, State.chuffEvent]
  split
  all_goals simp

@[simp] theorem mixerFrame_heater : (mixerFrame s).lamps.heater = s.lamps.heater := by
  simp only [mixerFrame]
  repeat' split
  all_goals simp

/-! ## Every step -/

theorem exec_heater {c : Instr} {t : State} (hstart : startLawful s) (h : heaterLawful s) (hexec : exec c s = .next t) :
    heaterLawful t := by
  cases c
  case functions => cases hexec; exact runOrder_lawful (fun _ => setFunctions_lawful _ h) h
  case funcFrame => cases hexec; exact handleFrame_lawful funcAct_lawful h
  case setFrame => cases hexec; exact handleFrame_lawful setAct_lawful h
  case setAction => cases hexec; exact setAction_lawful h
  case refreshSet => cases hexec; exact refreshSet_lawful h
  case invoke => cases hexec; exact decideHead_lawful _ h
  case switch => cases hexec; exact decideHead_lawful _ h
  case returnSet => cases hexec; exact decideHead_lawful _ h
  case loadLamps => cases hexec; exact loadLamps_lawful h
  case clearFaults => cases hexec; exact runOrder_lawful (fun _ => clearMask_lawful _ h) h
  case heaterTimerExpiry => cases hexec; exact heaterTimerExpiry_lawful _ h
  case supplySample => cases hexec; exact supplySample_lawful _ _ h
  case dieTemperatureExpiry => cases hexec; exact dieTemperatureExpiry_lawful _ h
  case startEnd => cases hexec; exact startEnd_lawful hstart h
  case startRefused => cases hexec; exact startRefused_lawful hstart h
  case teardown => cases hexec; exact requestStop_lawful (s := s.registerWrite) h
  case powerReset => cases hexec; exact heater_off rfl
  case brownoutReset => cases hexec; exact heater_off rfl
  case softReset => cases hexec; exact heater_off rfl
  all_goals
    cases hexec
    exact heater_beside (s := s) (by simp) h

theorem endStage_lawful (j : StartJob) (h : heaterLawful s) : heaterLawful (s.endStage j).1 := by
  unfold State.endStage
  split
  · exact heater_same (s := s) rfl rfl rfl rfl h
  · exact heater_beside (s := s) (by simp) h
  · exact h
  · exact h
  · exact h

theorem startAccess_lawful (j : StartJob) (h : heaterLawful s) : heaterLawful (s.startAccess j) := by
  unfold State.startAccess
  split
  · exact endStage_lawful j h
  · simp only
    split
    · exact endStage_lawful _ h
    · exact h

theorem grantLoad_lawful (h : heaterLawful s) : heaterLawful s.grantLoad := by
  refine heater_same (s := s) rfl rfl rfl ?_ h
  unfold State.grantLoad
  simp only [State.onSets]
  split <;> rfl

theorem grantRefresh_lawful (h : heaterLawful s) : heaterLawful s.grantRefresh := by
  unfold State.grantRefresh
  split
  · exact grantLoad_lawful (actionArrives_lawful (s := s.dropOrder) _ h)
  · exact h

theorem grantReset_lawful (h : heaterLawful s) : heaterLawful s.grantReset :=
  heater_beside (s := s) (by simp) h

theorem grant_lawful (r : Requester) (h : heaterLawful s) : heaterLawful (s.grant r) := by
  cases r with
  | hostPort => exact h
  | orderEngine =>
    exact grantOrders_keeps (P := heaterLawful) (grantReset_lawful h) (fun j _ => startAccess_lawful j h) (grantLoad_lawful h) h
      (grantRefresh_lawful h) (fun w => heater_beside (s := s) (by simp) h) h
  | statusWriter => exact heater_beside (s := s) (by simp [State.grant]) h
  | radioWriter => exact heater_beside (s := s) (by simp [State.grant]) h

theorem idle_heater (h : heaterLawful s) : heaterLawful (idle s) :=
  grants_keeps (P := heaterLawful) (fun _ => grantReset_lawful) (fun _ r => grant_lawful r) _ h

/-- Every step keeps the laws of starts and of the heater. -/
theorem step_heater {t : State} (hstart : startLawful s) (h : heaterLawful s) (hstep : step s = .next t) :
    startLawful t ∧ heaterLawful t :=
  step_keeps (fun s => startLawful s ∧ heaterLawful s) (fun _ _ h => h)
    (fun _ h => ⟨StartLaws.idle_start h.1, idle_heater h.2⟩)
    (fun _ _ _ h hexec => ⟨StartLaws.exec_start h.1 hexec, exec_heater h.1 h.2 hexec⟩) s t ⟨hstart, h⟩ hstep

/-! ## The field laws -/

/-- Settles O59, from the step lemmas of duty, heater and lease and those of the laws of one block. -/
theorem everyStepKeepsTheFieldLaws : Obligations.EveryStepKeepsTheFieldLaws := by
  unfold Obligations.EveryStepKeepsTheFieldLaws
  refine ⟨fun _ _ => DutyLaw.step_duty, fun _ _ => step_heater, fun _ _ hstart h => StartLaws.step_lease ⟨hstart, h⟩,
    ?repeats, ?supply, ?fan, ?voices⟩
  case repeats => exact fun _ _ h => BlockLaws.step_lawful (l := .repeats) (by simp) h
  case supply => exact fun _ _ h => BlockLaws.step_lawful (l := .supply) (by simp) h
  case fan => exact fun _ _ h => BlockLaws.step_lawful (l := .fan) (by simp) h
  case voices => exact fun _ _ h => BlockLaws.step_lawful (l := .voices) (by simp) h

end Sys2Proof.HeaterLaw
end

section
/-! PROOFS. The state after a reset meets every law. -/

namespace Sys2Proof.ResetLaws
open Sys2Proof.Machine Sys2Proof.Safety Sys2Proof.BlockLaws

/-- What a reset leaves is QUIET with no set, no action that waits and no frame. -/
theorem reset_sets : setsLawful State.reset :=
  ⟨⟨fun _ => rfl, fun _ => ⟨rfl, rfl⟩⟩, ⟨rfl, rfl, rfl⟩, ⟨fun _ => rfl, fun _ ha => absurd ha List.not_mem_nil⟩,
    fun _ => ⟨rfl, rfl⟩, fun hno => absurd rfl hno⟩

theorem reset_quiet : quietLawful State.reset := by
  have hvoices : ∀ v ∈ State.reset.sound.voices, v.state = .idle := by decide
  have hlamps : ∀ l ∈ State.reset.lamps.lamps, l.shown = 0 ∧ l.output = false := by decide
  exact ⟨fun _ => rfl, fun _ => ⟨rfl, rfl, rfl, hvoices, hlamps, rfl, rfl, .inl rfl, rfl, rfl, rfl, rfl, rfl⟩⟩

/-- Settles O60. -/
theorem resetMeetsEveryLaw : Obligations.ResetMeetsEveryLaw := by
  unfold Obligations.ResetMeetsEveryLaw
  have hlease : leaseLawful State.reset := ⟨iff_of_false (by decide) (by decide), fun _ => rfl⟩
  have hpart : partLawful State.reset :=
    ⟨reset_sets, reset_lawful (l := .bridges) trivial trivial, hlease, reset_lawful (l := .voices) trivial trivial, reset_quiet⟩
  have hduty : dutyLawful State.reset := fun p hp => absurd hp (by simp [State.reset, BridgeUnit.atReset])
  have hheater : heaterLawful State.reset := fun hon => absurd hon (by decide)
  exact ⟨Memory.wf_reset, hpart, hduty, hheater, reset_lawful (l := .repeats) trivial trivial,
    reset_lawful (l := .supply) trivial trivial, reset_lawful (l := .fan) trivial trivial⟩

end Sys2Proof.ResetLaws
end

section
/-! PROOFS. Short detections under the four short modes (R92 to R97). -/

namespace Sys2Proof.Shorts
open Sys2Proof.Machine Sys2Proof.Safety Sys2Proof.Notices Sys2Proof.FaultClears Sys2Proof.PwmPeriods

/-! ## What a command handed leaves of a bridge -/

theorem taken_episodes {cfg : BridgeConfig} {now : Nat} {before handed : Command} {b b' : Bridge}
    (h : commandTaken cfg now before handed b b') : b'.episodes = b.episodes := by
  obtain ⟨hstays, htakes⟩ := h
  by_cases hsame : handed = before ∨ b.state = .latched
  · rw [hstays hsame]
  · obtain ⟨hnew, hfree⟩ := not_or.1 hsame
    have htakes := htakes hnew hfree
    have hrests : ∀ state, bridgeRests b b' state now → b'.episodes = b.episodes := by
      rintro state ⟨-, hb⟩
      rw [hb]
    cases handed with
    | drive p =>
      obtain ⟨hdriving, henters⟩ := htakes
      by_cases hdrive : b.state = .drive
      · rw [hdriving hdrive]
      · obtain ⟨-, -, hb⟩ := henters hdrive _ rfl
        rw [hb]
    | off | brake | coast => exact hrests _ htakes

/-- A command handed counts no short and leaves a latched bridge as it was. -/
def handedOn (u u' : BridgeUnit) : Prop :=
  u'.cfg = u.cfg ∧ ∀ id, (u'.get id).episodes = (u.get id).episodes
    ∧ ((u'.get id).state = .latched ↔ (u.get id).state = .latched)
    ∧ ((u.get id).state = .latched → u'.get id = u.get id)

theorem handedOn_refl (u : BridgeUnit) : handedOn u u := ⟨rfl, fun _ => ⟨rfl, Iff.rfl, fun _ => rfl⟩⟩

theorem handedOn_trans {u v w : BridgeUnit} (h : handedOn u v) (h' : handedOn v w) : handedOn u w := by
  obtain ⟨hcfg, hbridges⟩ := h
  obtain ⟨hcfg', hbridges'⟩ := h'
  refine ⟨hcfg'.trans hcfg, fun id => ?_⟩
  obtain ⟨hepisodes, hlatched, hstays⟩ := hbridges id
  obtain ⟨hepisodes', hlatched', hstays'⟩ := hbridges' id
  exact ⟨hepisodes'.trans hepisodes, hlatched'.trans hlatched,
    fun hl => (hstays' (hlatched.2 hl)).trans (hstays hl)⟩

theorem derive_handedOn (s : State) : handedOn s.bridges s.derive.bridges := by
  obtain ⟨ha, hparallel, hsingle⟩ := derive_taken s
  refine ⟨derive_cfg s, fun id => ⟨?_, derive_latched_iff s id, ?_⟩⟩
  · cases id with
    | a => exact taken_episodes ha
    | b =>
      cases hmode : s.bridges.cfg.mode with
      | parallel => exact taken_episodes (hparallel hmode)
      | single => exact congrArg Bridge.episodes (hsingle hmode)
  · intro hlatched
    cases id with
    | a => exact ha.1 (.inr hlatched)
    | b =>
      cases hmode : s.bridges.cfg.mode with
      | parallel => exact (hparallel hmode).1 (.inr hlatched)
      | single => exact hsingle hmode

/-- The end of a run before its derivation, in what the bridges and the traction controller see of it. -/
theorem closeRun_derives (s : State) (r : BalanceRun) (outcome : OutcomeCode) : ∃ u : State, s.closeRun r outcome 0 = u.derive
    ∧ u.port.run = s.port.run ∧ u.balance.run = none ∧ u.bridges = s.bridges
      ∧ u.traction = { s.traction with c := 0, i := 0, u := 0 } := by
  rw [State.closeRun_eq]
  generalize (s.completeSlot r.slot outcome r.written (runResult r 0)).xm = m
  exact ⟨_, rfl, rfl, rfl, rfl, rfl⟩

theorem endRun_handedOn (s : State) (outcome : OutcomeCode) : handedOn s.bridges (s.endRun outcome).bridges := by
  unfold State.endRun
  split
  · next r _ =>
    obtain ⟨u, hclose, -, -, hbridges, -⟩ := closeRun_derives s r outcome
    rw [hclose, ← hbridges]
    exact derive_handedOn u
  · exact handedOn_refl _

theorem allLatched_iff (u : BridgeUnit) : u.allLatched = true ↔
    (u.get .a).state = .latched ∧ (u.cfg.mode = .parallel → (u.get .b).state = .latched) := by
  unfold BridgeUnit.allLatched BridgeUnit.configured BridgeUnit.get
  cases u.cfg.mode <;> simp

theorem handedOn_allLatched {u u' : BridgeUnit} (h : handedOn u u') : u'.allLatched = true ↔ u.allLatched = true := by
  obtain ⟨hcfg, hbridges⟩ := h
  rw [allLatched_iff, allLatched_iff, hcfg, (hbridges .a).2.1, (hbridges .b).2.1]

/-! ## The bridges that latch -/

/-- The bridges once `id` has latched, the other with it under GANG, and the short is counted (R93, R94). -/
def latchedUnit (u : BridgeUnit) (id : BridgeId) (now : Nat) : BridgeUnit :=
  let g := (u.set id ((u.get id).latch now)).gang (BridgeId.other id) now
  g.set id { g.get id with episodes := (g.get id).episodes + 1 }

/-- Under GANG the other bridge, where it is configured and not LATCHED, latches with the first. -/
def gangs (u : BridgeUnit) (id : BridgeId) : Prop :=
  u.cfg.independence = .gang ∧ (BridgeId.other id = .a ∨ u.cfg.mode = .parallel)
    ∧ (u.get (BridgeId.other id)).state ≠ .latched

theorem configured_iff (u : BridgeUnit) (id : BridgeId) : u.configured id = true ↔ id = .a ∨ u.cfg.mode = .parallel := by
  cases id <;> simp [BridgeUnit.configured]

theorem gang_get (u : BridgeUnit) (id : BridgeId) (now : Nat) : (u.gang (BridgeId.other id) now).get id = u.get id := by
  unfold BridgeUnit.gang
  split
  · cases id <;> rfl
  · rfl

theorem latchedUnit_get (u : BridgeUnit) (id : BridgeId) (now : Nat) :
    (latchedUnit u id now).get id = { (u.get id).latch now with episodes := (u.get id).episodes + 1 } := by
  simp only [latchedUnit, set_get, gang_get]
  rfl

theorem latchedUnit_other (u : BridgeUnit) (id : BridgeId) (now : Nat) :
    (gangs u id → (latchedUnit u id now).get (BridgeId.other id) = (u.get (BridgeId.other id)).latch now)
    ∧ (¬gangs u id → (latchedUnit u id now).get (BridgeId.other id) = u.get (BridgeId.other id)) := by
  have hgangs : ∀ v : BridgeUnit, v.cfg = u.cfg → v.get (BridgeId.other id) = u.get (BridgeId.other id) →
      (gangs u id ↔ v.cfg.independence = .gang ∧ v.configured (BridgeId.other id) = true
        ∧ (v.get (BridgeId.other id)).state ≠ .latched) := by
    intro v hcfg hget
    rw [configured_iff, hcfg, hget]
    exact Iff.rfl
  have hset : (u.set id ((u.get id).latch now)).cfg = u.cfg
      ∧ (u.set id ((u.get id).latch now)).get (BridgeId.other id) = u.get (BridgeId.other id) := by
    cases id <;> exact ⟨rfl, rfl⟩
  have hother : ∀ (v : BridgeUnit) (b : Bridge), (v.set id b).get (BridgeId.other id) = v.get (BridgeId.other id) := by
    intro v b
    cases id <;> rfl
  simp only [latchedUnit, BridgeUnit.gang]
  constructor
  · intro h
    rw [if_pos ((hgangs _ hset.1 hset.2).1 h), hother, set_get, hset.2]
  · intro h
    rw [if_neg fun hno => h ((hgangs _ hset.1 hset.2).2 hno), hother, hset.2]

theorem latchedUnit_cfg (u : BridgeUnit) (id : BridgeId) (now : Nat) : (latchedUnit u id now).cfg = u.cfg := by
  have hset : ∀ (v : BridgeUnit) (j : BridgeId) (b : Bridge), (v.set j b).cfg = v.cfg := by
    intro v j b
    cases j <;> rfl
  unfold latchedUnit BridgeUnit.gang
  simp only [hset]
  split
  · rw [hset, hset]
  · rw [hset]

theorem latch_gates (b : Bridge) (now : Nat) : (b.latch now).gates = Gates.none := by
  simp [Bridge.latch, Bridge.rest, Bridge.ask, Gates.none, highNext, lowNext]

/-! ## A bridge latches, with all that follows -/

/-- The part once the bridges have latched and the short is recorded, before the report (R93, R94). -/
def shorted (s : State) (id : BridgeId) : State :=
  { s with
    port := withNotice s.port [.fault]
    status := { s.status with faultCount := s.status.faultCount + 1 }
    bridges := latchedUnit s.bridges id s.clock }

theorem latchBridge_eq (s : State) (id : BridgeId) :
    s.latchBridge id = (shorted s id).tractionLatchReport.endRun .failedFault := by
  have hrecord : ∀ g : BridgeUnit, (s.onBridges fun _ => g).recordShort id = { s with
      port := withNotice s.port [.fault]
      status := { s.status with faultCount := s.status.faultCount + 1 }
      bridges := g.set id { g.get id with episodes := (g.get id).episodes + 1 } } := fun _ => rfl
  have hbridges := hrecord ((s.bridges.set id ((s.bridges.get id).latch s.clock)).gang (BridgeId.other id) s.clock)
  simp only [State.latchBridge, shorted, latchedUnit]
  rw [← hbridges]
  rfl

theorem latchReport_handedOn (s : State) : handedOn s.bridges s.tractionLatchReport.bridges := by
  unfold State.tractionLatchReport
  split
  · exact derive_handedOn _
  · exact derive_handedOn _

theorem latchBridge_handedOn (s : State) (id : BridgeId) :
    handedOn (latchedUnit s.bridges id s.clock) (s.latchBridge id).bridges :=
  handedOn_trans (latchReport_handedOn (shorted s id)) (endRun_handedOn _ _)

theorem latchBridge_get (s : State) (id : BridgeId) : (s.latchBridge id).bridges.get id
    = { (s.bridges.get id).latch s.clock with episodes := (s.bridges.get id).episodes + 1 } := by
  obtain ⟨-, hbridges⟩ := latchBridge_handedOn s id
  rw [(hbridges id).2.2 (by rw [latchedUnit_get]; rfl), latchedUnit_get]

theorem latchBridge_other (s : State) (id : BridgeId) :
    (((s.latchBridge id).bridges.get (BridgeId.other id)).state = .latched ↔
      (s.bridges.get (BridgeId.other id)).state = .latched
        ∨ s.bridges.cfg.independence = .gang ∧ (BridgeId.other id = .a ∨ s.bridges.cfg.mode = .parallel))
    ∧ ((s.latchBridge id).bridges.get (BridgeId.other id)).episodes = (s.bridges.get (BridgeId.other id)).episodes := by
  obtain ⟨-, hbridges⟩ := latchBridge_handedOn s id
  obtain ⟨hepisodes, hlatched, -⟩ := hbridges (BridgeId.other id)
  rw [hlatched, hepisodes]
  obtain ⟨hgang, halone⟩ := latchedUnit_other s.bridges id s.clock
  by_cases hgangs : gangs s.bridges id
  · rw [hgang hgangs]
    exact ⟨iff_of_true rfl (.inr ⟨hgangs.1, hgangs.2.1⟩), rfl⟩
  · rw [halone hgangs]
    refine ⟨⟨.inl, fun hl => hl.elim (fun h => h) fun hno => ?_⟩, rfl⟩
    by_contra hfree
    exact hgangs ⟨hno.1, hno.2, hfree⟩

theorem noticesOnly_latchReport (s : State) : noticesOnly s s.tractionLatchReport := by
  unfold State.tractionLatchReport
  split
  · exact noticesOnly_derive (s.onTraction Traction.zeroed)
  · exact noticesOnly_derive s

theorem latchBridge_notice (s : State) (id : BridgeId) : (s.latchBridge id).port.notice.getLsbD 3 = true := by
  have hraised : (shorted s id).port.notice.getLsbD 3 = true := raised_of_mem (b := .fault) (List.mem_singleton.2 rfl)
  exact noticesOnly_keeps (noticesOnly_trans (noticesOnly_latchReport _) (noticesOnly_endRun _ _)) hraised

theorem latchBridge_noRun (s : State) (id : BridgeId) : (s.latchBridge id).balance.run = none :=
  BlockLaws.endRun_noRun _ _

theorem latchReport_balance (s : State) : s.tractionLatchReport.balance = s.balance := by simp

theorem latchBridge_ends {s : State} (id : BridgeId) {r : BalanceRun} (hrun : s.balance.run = some r) (hslot : r.slot < 32)
    (hwf : s.xm.wf = true) (hvoices : voicesLawful s) : runEnded (s.latchBridge id) r .failedFault := by
  have hkept : voicesLawful (shorted s id).tractionLatchReport ∧ (shorted s id).tractionLatchReport.xm.wf = true := by
    unfold State.tractionLatchReport
    split
    · exact ⟨(State.derive_kept ((shorted s id).onTraction Traction.zeroed) hwf hvoices).1, State.derive_wf _ hwf⟩
    · exact ⟨(State.derive_kept (shorted s id) hwf hvoices).1, State.derive_wf _ hwf⟩
  have hbalance := latchReport_balance (shorted s id)
  rw [latchBridge_eq]
  generalize (shorted s id).tractionLatchReport = u at hkept hbalance
  have hends : u.endRun .failedFault = u.closeRun r .failedFault 0 := by
    unfold State.endRun
    rw [show u.balance.run = some r from (congrArg Balance.run hbalance).trans hrun]
  rw [hends]
  exact closeRun_ended _ hkept.2 hkept.1 hslot

/-! ## With every configured bridge LATCHED the part is FAULTED (R97) -/

theorem derive_state (s : State) : s.derive.traction.state = derivedState s := by
  simp only [State.derive]
  have hkeeps : ∀ (u : State) (c : Command), (u.handCommand c).traction.state = u.traction.state := fun _ _ => rfl
  rw [hkeeps]
  simp [State.onTraction]

/-- FAULTED under COAST, at rest. -/
def faultedAtRest (t : State) : Prop :=
  t.traction.state = .faulted ∧ t.bridges.held = .coast ∧ t.traction.c = 0 ∧ t.traction.i = 0 ∧ t.traction.u = 0
    ∧ t.traction.prev = 0

theorem derive_faulted {s : State} (hrun : s.isRun = true) (hnone : s.balance.run = none) (hall : s.bridges.allLatched = true)
    (hrest : s.traction.c = 0 ∧ s.traction.i = 0 ∧ s.traction.u = 0 ∧ s.traction.prev = 0) : faultedAtRest s.derive := by
  have hstate : derivedState s = .faulted := by simp [derivedState, hrun, hnone, hall]
  have hheld : s.derive.bridges.held = .coast := by
    simp only [State.derive, hstate]
    exact DutyLaw.handCommand_held _ _
  have hframe := derive_eq s
  refine ⟨(derive_state s).trans hstate, hheld, ?_⟩
  generalize s.derive = t at hframe
  rw [hframe]
  exact hrest

/-- The end of a run in a part with every configured bridge LATCHED. -/
theorem endRun_faulted {s : State} (outcome : OutcomeCode) (hrun : s.isRun = true) (hall : s.bridges.allLatched = true)
    (hprev : s.traction.prev = 0) (hnone : s.balance.run = none → faultedAtRest s) : faultedAtRest (s.endRun outcome) := by
  unfold State.endRun
  split
  · next r _ =>
    obtain ⟨u, hclose, hstate, hover, hbridges, htraction⟩ := closeRun_derives s r outcome
    rw [hclose]
    refine derive_faulted ?_ hover (by rw [hbridges]; exact hall) ?_
    · unfold State.isRun
      rwa [hstate]
    · rw [htraction]
      exact ⟨rfl, rfl, rfl, hprev⟩
  · next hno => exact hnone hno

theorem latchBridge_faulted {s : State} (id : BridgeId) (hrun : s.isRun = true)
    (hall : (s.latchBridge id).bridges.allLatched = true) : faultedAtRest (s.latchBridge id) := by
  have hshorted : (shorted s id).bridges.allLatched = true := (handedOn_allLatched (latchBridge_handedOn s id)).1 hall
  have hreport : (shorted s id).tractionLatchReport = ((shorted s id).onTraction Traction.zeroed).derive := by
    unfold State.tractionLatchReport
    rw [if_pos hshorted]
  have hlatched : (shorted s id).tractionLatchReport.bridges.allLatched = true :=
    (handedOn_allLatched (latchReport_handedOn _)).2 hshorted
  rw [latchBridge_eq]
  refine endRun_faulted _ ?_ hlatched ?_ fun hnone => ?_
  · unfold State.isRun at hrun ⊢
    rwa [State.tractionLatchReport_run]
  · rw [hreport, derive_eq]
    rfl
  · rw [hreport]
    have hnone : (shorted s id).balance.run = none := (congrArg Balance.run (latchReport_balance _)).symm.trans hnone
    exact derive_faulted hrun hnone hshorted ⟨rfl, rfl, rfl, rfl⟩

/-! ## The bridge that a detection finds -/

/-- What a short leaves of the bridges is told of the bridge before the detection as well, where that makes no difference to
the latching. -/
theorem bridgeShorted_of {s s' t : State} {id : BridgeId} {b : Bridge} {now : Nat}
    (hs' : s' = { s with clock := now, bridges := s.bridges.set id b })
    (hlatch : ∀ b', bridgeLatches { b with episodes := b.episodes + 1 } b' now →
      bridgeLatches { s.bridges.get id with episodes := (s.bridges.get id).episodes + 1 } b' now)
    (h : bridgeShorted s' t id) : bridgeShorted { s with clock := now } t id := by
  subst hs'
  have hother : (s.bridges.set id b).get (BridgeId.other id) = s.bridges.get (BridgeId.other id) := by
    cases id <;> rfl
  have hcfg : (s.bridges.set id b).cfg = s.bridges.cfg := by cases id <;> rfl
  have hheld : (s.bridges.set id b).held = s.bridges.held := by cases id <;> rfl
  obtain ⟨u, v, hfirst, hgang, halone, hu, hderived, hclosed⟩ := h
  simp only [set_get, hother, hcfg, hheld] at hfirst hgang halone hu
  exact ⟨u, v, hlatch _ hfirst, hgang, halone, hu, hderived, hclosed⟩

/-- A bridge whose gates a cut has turned off latches as it would have before. -/
theorem latches_cut {b b' : Bridge} {now : Nat} (n : Nat) (k : Byte)
    (h : bridgeLatches { b.cutPeriod now with shortRun := n, episodes := k } b' now) :
    bridgeLatches { b with episodes := k } b' now := by
  obtain ⟨hlegs, hb⟩ := h
  refine ⟨fun leg => ?_, hb⟩
  obtain ⟨hhigh, hlow, hoff⟩ := hlegs leg
  refine ⟨hhigh, ⟨fun hon => absurd (hlow.1 hon).1 (by decide), fun hon => absurd hon.1 (by decide)⟩, hoff.trans ?_⟩
  have hcut : ∀ (on : Bool) (off : Option Nat),
      offTime now on false off = if on = true then some now else off := fun on off => by cases on <;> rfl
  cases leg
  · simp [legGates, legOffTimes, Bridge.cutPeriod, Bridge.ask, Bridge.noPhase, Gates.none, highNext, lowNext, hcut]
    exact ite_congr rfl (fun _ => rfl) (fun _ => rfl)
  · simp [legGates, legOffTimes, Bridge.cutPeriod, Bridge.ask, Bridge.noPhase, Gates.none, highNext, lowNext, hcut]
    exact ite_congr rfl (fun _ => rfl) (fun _ => rfl)

/-! ## The command -/

/-- The bridge has a detection noted at `now`. -/
def noted (s : State) (id : BridgeId) (now : Nat) : State :=
  { s with clock := now, bridges := s.bridges.set id { s.bridges.get id with detected := true } }

theorem lastsUntil_iff {b : Bridge} {cfg : BridgeConfig} {start millivolts moment e : Nat} (hend : b.onEnd = some e) :
    b.lastsUntil cfg start millivolts moment = true ↔ moment ≤ e
      ∧ (decide (cfg.chopLevel ≠ 0) && decide (senseThreshold cfg.chopLevel cfg.gain ≤ senseCode millivolts)
          && decide (start + 2048 < moment)) = false := by
  unfold Bridge.lastsUntil BridgeConfig.chopThreshold
  simp only [hend, Option.all_some, Bool.and_eq_true, decide_eq_true_eq, Bool.and_eq_false_iff, decide_eq_false_iff_not]
  have hus : us 2 = 2048 := rfl
  split
  · next hzero => simp [hzero]
  · next hon =>
    simp only [Option.all_some, Bool.or_eq_true, decide_eq_true_eq, hus]
    omega

theorem shortSeen_iff {s : State} {id : BridgeId} {millivolts since start e : Nat}
    (hconduct : (s.bridges.get id).conduct = some start) (hend : (s.bridges.get id).onEnd = some e) :
    (s.bridges.get id).shortSeen s.bridges.cfg millivolts since = true ↔
      (s.bridges.get id).phase = .onPhase ∧ (s.bridges.get id).detected = false
        ∧ senseThreshold s.bridges.cfg.shortLevel s.bridges.cfg.gain ≤ senseCode millivolts
        ∧ start + since + 1024 * s.bridges.cfg.deglitch ≤ e
        ∧ (decide (s.bridges.cfg.chopLevel ≠ 0)
            && decide (senseThreshold s.bridges.cfg.chopLevel s.bridges.cfg.gain ≤ senseCode millivolts)
            && decide (start + 2048 < start + since + 1024 * s.bridges.cfg.deglitch)) = false := by
  have hmoment : s.bridges.cfg.shortMoment start since = start + since + 1024 * s.bridges.cfg.deglitch := by
    unfold BridgeConfig.shortMoment us
    rw [Nat.mul_comm]
  have hthreshold : s.bridges.cfg.shortThreshold = senseThreshold s.bridges.cfg.shortLevel s.bridges.cfg.gain := rfl
  unfold Bridge.shortSeen
  rw [hthreshold]
  simp only [hconduct, Option.any_some, Bool.and_eq_true, lastsUntil_iff hend, hmoment, decide_eq_true_eq, Bool.not_eq_true',
    and_assoc]

theorem shortDetection_unseen {s : State} {id : BridgeId} {millivolts since : Nat}
    (h : ¬(s.bridges.get id).shortSeen s.bridges.cfg millivolts since = true) : shortDetection id millivolts since s = s :=
  if_neg h

/-- What a short mode makes of a detection. -/
def actsOn (s : State) (id : BridgeId) : State :=
  match s.bridges.cfg.shortMode with
  | .latch => s.latchBridge id
  | .cycle => s.cycleShort id
  | .report => s.reportShort id
  | .ignore => s

theorem shortDetection_seen {s : State} {id : BridgeId} {millivolts since start : Nat}
    (hconduct : (s.bridges.get id).conduct = some start)
    (h : (s.bridges.get id).shortSeen s.bridges.cfg millivolts since = true) : shortDetection id millivolts since s
      = actsOn (noted s id (max s.clock (start + since + 1024 * s.bridges.cfg.deglitch))) id := by
  have hmoment : s.bridges.cfg.shortMoment start since = start + since + 1024 * s.bridges.cfg.deglitch := by
    unfold BridgeConfig.shortMoment us
    rw [Nat.mul_comm]
  simp only [shortDetection, if_pos h, hconduct, Option.getD_some, hmoment]
  rfl

/-! ## A detection that latches -/

/-- What holds of the part once bridge `id`, which was `b`, has latched upon a detection. -/
def latches (s t : State) (id : BridgeId) (b : Bridge) : Prop :=
  (t.bridges.get id).state = .latched ∧ (t.bridges.get id).gates = Gates.none
    ∧ (t.bridges.get id).shortRun = 0 ∧ (t.bridges.get id).chopFlag = false
    ∧ (t.bridges.get id).chopRunning = b.chopRunning
    ∧ ((t.bridges.get (BridgeId.other id)).state = .latched ↔
        (s.bridges.get (BridgeId.other id)).state = .latched
        ∨ (s.bridges.cfg.independence = .gang ∧ ((BridgeId.other id) = .a ∨ s.bridges.cfg.mode = .parallel)))
    ∧ (t.bridges.get (BridgeId.other id)).episodes = (s.bridges.get (BridgeId.other id)).episodes
    ∧ t.port.notice.getLsbD 3 = true ∧ t.balance.run = none
    ∧ (∀ r : BalanceRun, s.balance.run = some r → r.slot < 32 → s.xm.wf = true → voicesLawful s → runEnded t r .failedFault)
    ∧ (t.bridges.allLatched = true → t.traction.state = .faulted ∧ t.bridges.held = .coast ∧ t.traction.c = 0
          ∧ t.traction.i = 0 ∧ t.traction.u = 0 ∧ t.traction.prev = 0)
    ∧ (s.xm.wf = true → voicesLawful s → runSlot s →
        bridgeShorted { s with clock := t.clock } t id ∧ sameBut s.xm t.xm (inRunEnd s))

theorem latchBridge_clock (s : State) (id : BridgeId) : (s.latchBridge id).clock = s.clock := by simp

theorem latchBridge_latches {s s' : State} {id : BridgeId} {b : Bridge} {now : Nat} (hrun : s.isRun = true)
    (hs' : s' = { s with clock := now, bridges := s.bridges.set id b })
    (hchops : b.chopRunning = (s.bridges.get id).chopRunning)
    (hlatch : ∀ b', bridgeLatches { b with episodes := b.episodes + 1 } b' now →
      bridgeLatches { s.bridges.get id with episodes := (s.bridges.get id).episodes + 1 } b' now) :
    latches s (s'.latchBridge id) id (s.bridges.get id) := by
  have hother : s'.bridges.get (BridgeId.other id) = s.bridges.get (BridgeId.other id) := by
    rw [hs']
    cases id <;> rfl
  have hcfg : s'.bridges.cfg = s.bridges.cfg := by
    rw [hs']
    cases id <;> rfl
  have hget : s'.bridges.get id = b := by rw [hs', set_get]
  have hclock : (s'.latchBridge id).clock = now := (latchBridge_clock _ _).trans (by rw [hs'])
  obtain ⟨hlatched, hepisodes⟩ := latchBridge_other s' id
  rw [hother, hcfg] at hlatched
  rw [hother] at hepisodes
  have hend : ∀ r, s.balance.run = some r → r.slot < 32 → s.xm.wf = true → voicesLawful s →
      runEnded (s'.latchBridge id) r .failedFault := by
    intro r hr hslot hwf hvoices
    exact latchBridge_ends id (by rw [hs']; exact hr) hslot (by rw [hs']; exact hwf) (by rw [hs']; exact hvoices)
  have hfaulted : (s'.latchBridge id).bridges.allLatched = true → faultedAtRest (s'.latchBridge id) := by
    subst hs'
    exact latchBridge_faulted id hrun
  have hshorted : s.xm.wf = true → voicesLawful s → runSlot s →
      bridgeShorted { s with clock := now } (s'.latchBridge id) id ∧ sameBut s.xm (s'.latchBridge id).xm (inRunEnd s) := by
    intro hwf hvoices hslot
    have hfollows := State.latchBridge_shorted s' id (by rw [hs']; exact hwf) (by rw [hs']; exact hvoices)
      (by rw [hs']; exact hslot)
    have hxm : s'.xm = s.xm := by rw [hs']
    have hreach : inRunEnd s' = inRunEnd s := by rw [hs']; rfl
    rw [hxm, hreach] at hfollows
    exact ⟨bridgeShorted_of hs' hlatch hfollows.1, hfollows.2⟩
  have hbridge := latchBridge_get s' id
  rw [hget] at hbridge
  refine ⟨by rw [hbridge]; rfl, by rw [hbridge]; exact latch_gates _ _, by rw [hbridge]; rfl, by rw [hbridge]; rfl,
    by rw [hbridge]; exact hchops, hlatched, hepisodes, latchBridge_notice _ _, latchBridge_noRun _ _, hend, hfaulted, ?_⟩
  rw [hclock]
  exact hshorted

/-! ## A detection that does not -/

/-- What holds of the part where a detection does not latch: the notice and the fault count of a first of a run, and the
bridge. -/
def onlyNotes (s t : State) (id : BridgeId) (first : Prop) [Decidable first] : Prop :=
  t = { s with
    clock := t.clock
    port := withNotice s.port (if first then [.fault] else [])
    status := { s.status with faultCount := if first then s.status.faultCount + 1 else s.status.faultCount }
    bridges := s.bridges.set id (t.bridges.get id) }

theorem set_set (u : BridgeUnit) (id : BridgeId) (b b' : Bridge) : (u.set id b).set id b' = u.set id b' := by
  cases id <;> rfl

/-- A short recorded of a bridge, for the first of a run (R93). -/
theorem recordFirst_eq {s : State} {id : BridgeId} {now : Nat} (b : Bridge) (first : Prop) [Decidable first] :
    (if first then State.recordShort { s with clock := now, bridges := s.bridges.set id b } id
      else { s with clock := now, bridges := s.bridges.set id b })
    = { s with
      clock := now
      port := withNotice s.port (if first then [.fault] else [])
      status := { s.status with faultCount := if first then s.status.faultCount + 1 else s.status.faultCount }
      bridges := s.bridges.set id { b with episodes := if first then b.episodes + 1 else b.episodes } } := by
  by_cases hfirst : first
  · simp only [if_pos hfirst]
    have hrecord : ∀ v : State, v.recordShort id = { v with
        port := withNotice v.port [.fault]
        status := { v.status with faultCount := v.status.faultCount + 1 }
        bridges := v.bridges.set id { v.bridges.get id with episodes := (v.bridges.get id).episodes + 1 } } := fun _ => rfl
    rw [hrecord]
    simp only [set_get, set_set]
  · simp only [if_neg hfirst]
    rfl

/-- The part after a detection that does not latch, the bridge then being `b`. -/
def notes (s : State) (id : BridgeId) (now : Nat) (b : Bridge) (first : Prop) [Decidable first] : State :=
  { s with
    clock := now
    port := withNotice s.port (if first then [.fault] else [])
    status := { s.status with faultCount := if first then s.status.faultCount + 1 else s.status.faultCount }
    bridges := s.bridges.set id b }

theorem noted_get (s : State) (id : BridgeId) (now : Nat) :
    (noted s id now).bridges.get id = { s.bridges.get id with detected := true } := set_get _ _ _

theorem noted_set (s : State) (id : BridgeId) (now : Nat) (b : Bridge) :
    ((noted s id now).onBridges fun u => u.set id b) = { s with clock := now, bridges := s.bridges.set id b } := by
  simp only [noted, State.onBridges, set_set]

/-- The bridge under CYCLE (R95). -/
def cycled (b : Bridge) (now : Nat) : Bridge :=
  { ({ b with detected := true }).cutPeriod now with shortRun := min 200 (b.shortRun + 1) }

theorem cycled_eq (b : Bridge) (now : Nat) (h : b.shortRun < 199) : cycled b now = { b with
    asked := Gates.none, gates := Gates.none, offAt := (cycled b now).offAt, phase := .cut, onEnd := none, conduct := none
    blanking := none, chopArmed := false, detected := true, shortRun := b.shortRun + 1 } := by
  have hgates : (cycled b now).gates = Gates.none := by
    simp [cycled, Bridge.cutPeriod, Bridge.ask, Gates.none, highNext, lowNext]
  have hrun : min 200 (b.shortRun + 1) = b.shortRun + 1 := by omega
  have heq : cycled b now = { b with
      asked := Gates.none, gates := (cycled b now).gates, offAt := (cycled b now).offAt, phase := .cut, onEnd := none
      conduct := none, blanking := none, chopArmed := false, detected := true, shortRun := min 200 (b.shortRun + 1) } := rfl
  rw [hgates, hrun] at heq
  exact heq

theorem first_iff (n : Nat) : (n + 1 = 1) = (n = 0) := by simp

theorem cycleShort_eq (v : State) (id : BridgeId) : v.cycleShort id =
    if 200 ≤ (v.bridges.get id).shortRun + 1 then
      (if (v.bridges.get id).shortRun + 1 = 1 then
        State.recordShort { v with bridges := v.bridges.set id { (v.bridges.get id).cutPeriod v.clock with
          shortRun := min 200 ((v.bridges.get id).shortRun + 1) } } id
      else { v with bridges := v.bridges.set id { (v.bridges.get id).cutPeriod v.clock with
          shortRun := min 200 ((v.bridges.get id).shortRun + 1) } }).latchBridge id
    else
      (if (v.bridges.get id).shortRun + 1 = 1 then
        State.recordShort { v with bridges := v.bridges.set id { (v.bridges.get id).cutPeriod v.clock with
          shortRun := min 200 ((v.bridges.get id).shortRun + 1) } } id
      else { v with bridges := v.bridges.set id { (v.bridges.get id).cutPeriod v.clock with
          shortRun := min 200 ((v.bridges.get id).shortRun + 1) } }) := rfl

theorem reportShort_eq (v : State) (id : BridgeId) : v.reportShort id =
    if (v.bridges.get id).shortRun + 1 = 1 then
      State.recordShort { v with bridges := v.bridges.set id { v.bridges.get id with
        shortRun := min 200 ((v.bridges.get id).shortRun + 1) } } id
    else { v with bridges := v.bridges.set id { v.bridges.get id with
        shortRun := min 200 ((v.bridges.get id).shortRun + 1) } } := rfl

theorem noted_bridge (s : State) (id : BridgeId) (now : Nat) (b : Bridge) :
    { noted s id now with bridges := (noted s id now).bridges.set id b }
      = { s with clock := now, bridges := s.bridges.set id b } := by
  simp only [noted, set_set]

theorem cycleShort_latches {s : State} {id : BridgeId} (now : Nat) (h : 199 ≤ (s.bridges.get id).shortRun) :
    (noted s id now).cycleShort id
      = State.latchBridge { s with clock := now, bridges := s.bridges.set id (cycled (s.bridges.get id) now) } id := by
  rw [cycleShort_eq, noted_bridge, noted_get, if_pos (by simp only; omega), if_neg (by simp only; omega)]
  rfl

theorem cycleShort_notes {s : State} {id : BridgeId} (now : Nat) (h : (s.bridges.get id).shortRun < 199) :
    (noted s id now).cycleShort id = notes s id now { cycled (s.bridges.get id) now with
      episodes := if (s.bridges.get id).shortRun = 0 then (s.bridges.get id).episodes + 1 else (s.bridges.get id).episodes }
      ((s.bridges.get id).shortRun = 0) := by
  rw [cycleShort_eq, noted_bridge, noted_get, if_neg (by simp only; omega), recordFirst_eq]
  simp only [first_iff]
  rfl

theorem reportShort_notes (s : State) (id : BridgeId) (now : Nat) :
    (noted s id now).reportShort id = notes s id now { s.bridges.get id with
      detected := true, shortRun := min 200 ((s.bridges.get id).shortRun + 1)
      episodes := if (s.bridges.get id).shortRun = 0 then (s.bridges.get id).episodes + 1 else (s.bridges.get id).episodes }
      ((s.bridges.get id).shortRun = 0) := by
  rw [reportShort_eq, noted_bridge, noted_get, recordFirst_eq]
  simp only [first_iff]
  rfl

/-- What each short mode makes of a detection at `now`, with `b` the bridge before it (R93 to R96). -/
def modeActs (s t : State) (id : BridgeId) (b : Bridge) : Prop :=
  (s.bridges.cfg.shortMode = .latch ∨ s.bridges.cfg.shortMode = .cycle ∧ 199 ≤ b.shortRun → latches s t id b)
  ∧ (s.bridges.cfg.shortMode = .latch → (t.bridges.get id).episodes = b.episodes + 1)
  ∧ (s.bridges.cfg.shortMode = .cycle → b.shortRun < 199 →
    (t.bridges.get id).asked = Gates.none ∧ (t.bridges.get id).gates = Gates.none
    ∧ t.bridges.get id = { b with
        asked := Gates.none, gates := Gates.none, offAt := (t.bridges.get id).offAt, phase := .cut
        onEnd := none, conduct := none, blanking := none, chopArmed := false, detected := true
        shortRun := b.shortRun + 1
        episodes := if b.shortRun = 0 then b.episodes + 1 else b.episodes })
  ∧ (s.bridges.cfg.shortMode = .report →
    t.bridges.get id = { b with
      detected := true, shortRun := min 200 (b.shortRun + 1)
      episodes := if b.shortRun = 0 then b.episodes + 1 else b.episodes })
  ∧ (s.bridges.cfg.shortMode = .ignore → t.bridges.get id = { b with detected := true })
  ∧ (s.bridges.cfg.shortMode ≠ .latch → ¬(s.bridges.cfg.shortMode = .cycle ∧ 199 ≤ b.shortRun) →
    onlyNotes s t id (s.bridges.cfg.shortMode ≠ .ignore ∧ b.shortRun = 0))

theorem notes_onlyNotes {s : State} {id : BridgeId} {now : Nat} {b : Bridge} {first first' : Prop} [Decidable first]
    [Decidable first'] (h : first' ↔ first) : onlyNotes s (notes s id now b first) id first' := by
  have hget : (notes s id now b first).bridges.get id = b := set_get _ _ _
  unfold onlyNotes
  rw [hget]
  by_cases hfirst : first
  · simp only [notes, if_pos hfirst, if_pos (h.2 hfirst)]
  · simp only [notes, if_neg hfirst, if_neg fun hno => hfirst (h.1 hno)]

theorem modeActs_latch {s : State} {id : BridgeId} (now : Nat) (hrun : s.isRun = true) (hmode : s.bridges.cfg.shortMode = .latch) :
    modeActs s ((noted s id now).latchBridge id) id (s.bridges.get id) := by
  unfold modeActs
  simp only [hmode]
  refine ⟨fun _ => latchBridge_latches hrun rfl rfl fun _ h => h, fun _ => ?_, by simp, by simp, by simp, by simp⟩
  rw [latchBridge_get, noted_get]

theorem modeActs_cycle {s : State} {id : BridgeId} (now : Nat) (hrun : s.isRun = true) (hmode : s.bridges.cfg.shortMode = .cycle) :
    modeActs s ((noted s id now).cycleShort id) id (s.bridges.get id) := by
  unfold modeActs
  simp only [hmode]
  by_cases hlast : 199 ≤ (s.bridges.get id).shortRun
  · rw [cycleShort_latches now hlast]
    refine ⟨fun _ => latchBridge_latches hrun rfl rfl fun b' h => ?_, by simp, fun _ hno => absurd hlast (Nat.not_le_of_lt hno),
      by simp, by simp, fun _ hno => absurd ⟨trivial, hlast⟩ hno⟩
    exact latches_cut (b := { s.bridges.get id with detected := true }) _ _ h
  · have hbelow := Nat.lt_of_not_le hlast
    rw [cycleShort_notes now hbelow]
    refine ⟨fun hno => hno.elim (by simp) fun hno => absurd hno.2 hlast, by simp, fun _ _ => ?_, by simp, by simp,
      fun _ _ => notes_onlyNotes (by simp)⟩
    have hget : ∀ (b : Bridge) (first : Prop) [Decidable first], (notes s id now b first).bridges.get id = b :=
      fun _ _ _ => set_get _ _ _
    rw [hget, cycled_eq _ _ hbelow]
    exact ⟨rfl, rfl, rfl⟩

theorem modeActs_report {s : State} {id : BridgeId} (now : Nat) (hmode : s.bridges.cfg.shortMode = .report) :
    modeActs s ((noted s id now).reportShort id) id (s.bridges.get id) := by
  unfold modeActs
  simp only [hmode]
  rw [reportShort_notes]
  refine ⟨by simp, by simp, by simp, fun _ => set_get _ _ _, by simp, fun _ _ => notes_onlyNotes (by simp)⟩

theorem modeActs_ignore {s : State} {id : BridgeId} (now : Nat) (hmode : s.bridges.cfg.shortMode = .ignore) :
    modeActs s (noted s id now) id (s.bridges.get id) := by
  unfold modeActs
  simp only [hmode]
  refine ⟨by simp, by simp, by simp, by simp, fun _ => noted_get _ _ _, fun _ _ => ?_⟩
  exact notes_onlyNotes (b := { s.bridges.get id with detected := true }) (first := False) (by simp)

theorem actsOn_modeActs {s : State} {id : BridgeId} (now : Nat) (hrun : s.isRun = true) :
    modeActs s (actsOn (noted s id now) id) id (s.bridges.get id) := by
  have hcfg : (noted s id now).bridges.cfg = s.bridges.cfg := by cases id <;> rfl
  unfold actsOn
  rw [hcfg]
  cases hmode : s.bridges.cfg.shortMode with
  | latch => exact modeActs_latch now hrun hmode
  | cycle => exact modeActs_cycle now hrun hmode
  | report => exact modeActs_report now hmode
  | ignore => exact modeActs_ignore now hmode

theorem actsOn_clock (s : State) (id : BridgeId) : (actsOn s id).clock = s.clock := by
  unfold actsOn
  split
  all_goals simp

/-- Settles O37, by what each short mode makes of a detection. -/
theorem shortDetectionsActUnderTheShortMode : Obligations.ShortDetectionsActUnderTheShortMode := by
  unfold Obligations.ShortDetectionsActUnderTheShortMode
  rintro s id millivolts since start e moment b hrun rfl hconduct hend rfl chops rfl
  have hseen := shortSeen_iff (millivolts := millivolts) (since := since) hconduct hend
  constructor
  · intro hmissed
    refine congrArg Host.Outcome.next (shortDetection_unseen fun hno => ?_)
    obtain ⟨hphase, hdetected, hreached, hlasts, hchops⟩ := hseen.1 hno
    rcases hmissed with h | h | h | h | h
    · exact h hphase
    · exact Bool.false_ne_true (hdetected.symm.trans h)
    · exact absurd hreached (Nat.not_le_of_lt h)
    · exact absurd hlasts (Nat.not_le_of_lt h)
    · exact Bool.false_ne_true (hchops.symm.trans h)
  · intro hphase hdetected hreached hlasts hchops
    have hdetection := shortDetection_seen hconduct (hseen.2 ⟨hphase, hdetected, hreached, hlasts, hchops⟩)
    obtain ⟨hlatches, hepisodes, hcycle, hreport, hignore, hnotes⟩ :=
      actsOn_modeActs (id := id) (max s.clock (start + since + 1024 * s.bridges.cfg.deglitch)) hrun
    exact ⟨_, congrArg Host.Outcome.next hdetection, actsOn_clock _ _, hlatches, hepisodes, hcycle, hreport, hignore, hnotes⟩

end Sys2Proof.Shorts
end

section
/-! PROOFS. The inputs of a regulation step (R52, R54, R58, R59, R91): the chop flags, the loss detection and the rate. -/

namespace Sys2Proof.RegulationInputs
open Sys2Proof.Machine Sys2Proof.Safety Sys2Proof.Notices

/-- The part at the moment of a step, its timer set anew. -/
def began (s : State) : State :=
  { s with
    clock := max s.clock s.timers.regulation
    timers := { s.timers with regulation := max s.clock s.timers.regulation + 8 * 1024000 } }

theorem regulationStep_eq (s : State) : regulationStep s = (began s).stepInputs.control.stepEnds := rfl

/-! ## The loss of the sensor (R54) -/

/-- The duty that the loss detection counts as applied. -/
def applied (s : State) : Nat := if s.isRun then s.traction.lowest else 0

/-- The loss count has come to its end at this step. -/
def lossFound (s : State) : Prop := s.motion.sensor = .ok ∧ 250 ≤ s.motion.lossAfter (applied s)

/-- The motion unit after a step that does not find the loss. -/
def calmMotion (s : State) : Motion :=
  { s.motion with
    edgeSinceStep := false
    loss := if s.motion.sensor = .ok then s.motion.lossAfter (applied s) else s.motion.loss
    m := s.motion.decayed (captureClock s) }

/-- The motion unit after a step that finds the loss (R54, R58, R59). -/
def lostMotion (s : State) : Motion :=
  { s.motion with
    edgeSinceStep := false, sensor := .lost, loss := 0, recovery := 0, mark := true
    phi := s.motion.edgeAngle (captureClock s) * 4000 * s.motion.cfg.magnets
    m := s.motion.decayed (captureClock s) }

theorem lossDetection_calm {s : State} (h : ¬lossFound s) : s.lossDetection (applied s)
    = { s with motion := { calmMotion s with m := s.motion.m } } := by
  simp only [State.lossDetection]
  split
  · next hok =>
    rw [if_neg fun hn => h ⟨hok, hn⟩]
    simp only [calmMotion, if_pos hok, State.onMotion]
  · next hno =>
    simp only [calmMotion, if_neg hno, State.onMotion]

theorem lossDetection_lost {s : State} (h : lossFound s) : s.lossDetection (applied s)
    = { s with
      port := withNotice s.port [.fault]
      status := { s.status with faultCount := s.status.faultCount + 1 }
      motion := { lostMotion s with m := s.motion.m } } := by
  simp only [State.lossDetection, if_pos h.1]
  rw [if_pos h.2]
  rfl

/-! ## The inputs -/

/-- The chop flags taken (R91). -/
def turned (s : State) : State := { s with bridges := chopsTurned s.bridges }

/-- The part at a step that does not find the loss, before it takes the rate. -/
def calmed (s : State) : State :=
  { s with motion := { calmMotion s with m := s.motion.m }, bridges := chopsTurned s.bridges }

theorem stepInputs_calm {s : State} (h : ¬lossFound s) : s.stepInputs = { s with
    bridges := chopsTurned s.bridges, motion := calmMotion s
    traction := { s.traction with lastM := (calmMotion s).m } } := by
  have hloss : State.lossDetection (turned s) (applied (turned s)) = calmed s := lossDetection_calm (s := turned s) h
  have hkeeps : ¬((turned s).motion.sensor = .ok ∧ (calmed s).motion.sensor = .lost) := by
    rintro ⟨hok, hlost⟩
    have hok : s.motion.sensor = .ok := hok
    exact absurd (hok.symm.trans hlost) (by decide)
  simp only [State.stepInputs]
  rw [show (s.onBridges fun u => { u with a := u.a.rotateChop, b := u.b.rotateChop }) = turned s from rfl]
  rw [show (if (turned s).isRun = true then (turned s).traction.lowest else 0) = applied (turned s) from rfl, hloss]
  rw [if_neg hkeeps]
  rfl

/-- The part at the moment the loss is found, before what ends with it. -/
def faulted (s : State) : State :=
  { s with
    port := withNotice s.port [.fault]
    status := { s.status with faultCount := s.status.faultCount + 1 }
    motion := { lostMotion s with m := s.motion.m }, bridges := chopsTurned s.bridges }

/-- The rate is taken (R52). -/
def rated (s : State) (m : Nat) : State :=
  { s with motion := { s.motion with m := m }, traction := { s.traction with lastM := m } }

theorem stepInputs_lost {s : State} (h : lossFound s) :
    s.stepInputs = rated ((faulted s).endRun .failedSensor) (s.motion.decayed (captureClock s)) := by
  have hloss : State.lossDetection (turned s) (applied (turned s)) = faulted s := lossDetection_lost (s := turned s) h
  have hmotion : ((faulted s).endRun .failedSensor).motion = (faulted s).motion := by simp
  have hclock : captureClock ((faulted s).endRun .failedSensor) = captureClock s := by
    unfold captureClock
    simp [faulted]
  simp only [State.stepInputs]
  rw [show (s.onBridges fun u => { u with a := u.a.rotateChop, b := u.b.rotateChop }) = turned s from rfl]
  rw [show (if (turned s).isRun = true then (turned s).traction.lowest else 0) = applied (turned s) from rfl, hloss]
  rw [if_pos (⟨h.1, rfl⟩ : (turned s).motion.sensor = .ok ∧ (faulted s).motion.sensor = .lost)]
  generalize (faulted s).endRun .failedSensor = u at hmotion hclock
  have hm : u.motion.decayed (captureClock u) = s.motion.decayed (captureClock s) := by
    rw [hmotion, hclock]
    rfl
  simp only [State.takeRate, State.onMotion, State.onTraction, rated, hm]

theorem stepInputs_motion (s : State) : (lossFound s → s.stepInputs.motion = lostMotion s)
    ∧ (¬lossFound s → s.stepInputs.motion = calmMotion s) := by
  refine ⟨fun h => ?_, fun h => by rw [stepInputs_calm h]⟩
  rw [stepInputs_lost h]
  have hmotion : ((faulted s).endRun .failedSensor).motion = (faulted s).motion := by simp
  simp only [rated, hmotion]
  rfl

end Sys2Proof.RegulationInputs
end

section
/-! PROOFS. The end of a regulation step (R60, R72, R75, R76) and the regulation step in QUIET, with the decay of the rate and
the loss of the sensor in any state (R52, R54, R84). -/

namespace Sys2Proof.StepEnds
open Sys2Proof.Machine Sys2Proof.Safety Sys2Proof.Notices Sys2Proof.FaultClears Sys2Proof.RegulationInputs

/-! ## What a derivation hands, whatever is known of the voices -/

/-- The command of a state reads the traction controller but for its state, the cached set, the shed level and the run. -/
theorem commandFor_congr {s u : State} {state : TractionState} (htraction : u.traction = { s.traction with state := state })
    (hsets : u.sets = s.sets) (hsupply : u.supply = s.supply) (hbalance : u.balance = s.balance) (x : TractionState) :
    commandFor u x = commandFor s x := by
  have hset : u.tractionSet = s.tractionSet := by simp only [State.tractionSet, hsets]
  have hdrive : ∀ duty direction, driveCommand u duty direction = driveCommand s duty direction := by
    intro duty direction
    simp only [driveCommand, limitDuty, hset, hsupply, htraction]
  have hbalanced : balanceCommand u = balanceCommand s := by
    simp only [balanceCommand, hbalance, hset, hdrive]
  cases x with
  | quiet | faulted | held | estop => rfl
  | stopped => simp only [commandFor, hset]
  | reversing | running => simp only [commandFor, hdrive, htraction]
  | balance => exact hbalanced

theorem derive_held (s : State) : s.derive.bridges.held = commandFor s (derivedState s) := by
  simp only [State.derive]
  rw [DutyLaw.handCommand_held]
  exact commandFor_congr (state := derivedState s) (by simp) (by simp) (by simp) (by simp) _

theorem reportTraction_station (s : State) (before : TractionState) : (s.reportTraction before).radio.station
    = stationThen s.radio.station s.clock before s.traction.state := by
  have hsame : ∀ u : State, u.radio = s.radio → s.traction.state ≠ .stopped ∨ before = .stopped →
      u.radio.station = stationThen s.radio.station s.clock before s.traction.state := by
    intro u hu h
    rw [stationThen_same _ _ _ _ h, hu]
  have henters : ∀ u : State, u.radio = s.radio → u.clock = s.clock → s.traction.state = .stopped → before ≠ .stopped →
      u.stationStopped.radio.station = stationThen s.radio.station s.clock before s.traction.state := by
    intro u hu hclock hstate hbefore
    rw [State.stationStopped_eq u before hbefore, hu, hclock, hstate]
  unfold State.reportTraction
  split
  · next hstate => exact hsame _ (by simp) (.inr rfl)
  · next hstate => exact henters _ (by simp) (by simp) hstate (by decide)
  · next hstate => exact henters _ (by simp) (by simp) hstate (by decide)
  · next hstate => exact hsame _ rfl (.inr rfl)
  · next hbefore hstate => exact henters _ rfl rfl hstate hbefore
  · exact hsame _ rfl (.inl (by assumption))

theorem derive_station (s : State) : s.derive.radio.station
    = stationThen s.radio.station s.clock s.traction.state (derivedState s) := by
  have hreport := reportTraction_station (s.onTraction fun t => { t with state := derivedState s }) s.traction.state
  simp only [State.derive]
  have hkeeps : ∀ (u : State) (c : Command), (u.handCommand c).radio = u.radio := fun _ _ => rfl
  rw [hkeeps]
  exact hreport

/-! ## The end of a step -/

/-- The part before the derivation of a step (R60, R72). -/
def ending (s : State) : State :=
  { s with traction := { s.traction with lastSensor := s.motion.sensor, prev := s.traction.u } }

theorem stepEnds_eq (s : State) : s.stepEnds = { (ending s).derive with
    traction := { (ending s).derive.traction with lowest := (ending s).derive.bridges.drivenDuty } } := rfl

theorem stepEnds_traction (s : State) : s.stepEnds.traction = { s.traction with
    lastSensor := s.motion.sensor, prev := s.traction.u, state := derivedState (ending s)
    lowest := s.stepEnds.bridges.drivenDuty } := by
  have hframe := derive_eq (ending s)
  have hstate := Shorts.derive_state (ending s)
  rw [stepEnds_eq]
  generalize (ending s).derive = t at hframe hstate
  rw [← hstate]
  have htraction : t.traction = { (ending s).traction with state := t.traction.state, lowest := t.traction.lowest } := by
    rw [hframe]
  rw [htraction]
  rfl

/-- A step ends (R75, R76), the traction state and the lowest duty being those of `u` until then. -/
theorem stepEnds_ended {u s : State} (hs : ending s = { u with
      motion := s.motion
      traction := { (ending s).traction with state := u.traction.state, lowest := u.traction.lowest } })
    (hwf : s.xm.wf = true) (hvoices : voicesLawful s) : stepEnded u s.stepEnds := by
  have hderived : derivedAfresh (ending s) (ending s).derive := State.derive_afresh (ending s) hwf hvoices
  have hframe := derive_eq (ending s)
  refine ⟨(ending s).derive, ?_, rfl⟩
  have hsame : { u with
      motion := s.stepEnds.motion
      traction := { s.stepEnds.traction with state := u.traction.state, lowest := u.traction.lowest } } = ending s := by
    have hmotion : s.stepEnds.motion = s.motion := by simp
    rw [hmotion, stepEnds_traction]
    exact hs.symm
  rw [hsame]
  exact hderived

/-! ## The motion unit at a step (R52, R54) -/

theorem control_motion (s : State) : s.control.motion = s.motion := by simp

theorem step_motion (s : State) : (regulationStep s).motion = (began s).stepInputs.motion := by
  rw [regulationStep_eq]
  simp

theorem step_clock (s : State) : (regulationStep s).clock = max s.clock s.timers.regulation := by
  rw [regulationStep_eq]
  simp [began]

theorem noticesOnly_balanceStep (s : State) (m : Nat) : noticesOnly s (s.balanceStep m) := by
  simp only [State.balanceStep]
  split
  · exact noticesOnly_refl _
  · split
    · exact noticesOnly_refl _
    · split
      · exact ⟨⟨[], rfl⟩, rfl⟩
      · split
        · exact ⟨⟨[], rfl⟩, rfl⟩
        · split
          · exact ⟨⟨[], rfl⟩, rfl⟩
          · exact noticesOnly_closeRun ..

theorem noticesOnly_control (s : State) : noticesOnly s s.control := by
  unfold State.control
  split
  · exact ⟨⟨[], rfl⟩, rfl⟩
  · split
    · next r _ =>
      have hstep := noticesOnly_trans (s := s) ⟨⟨[], rfl⟩, rfl⟩ (noticesOnly_balanceStep (s.onTraction fun t =>
        { t with t := 0, c := 0, i := 0, zeroHold := 0, pending := false, direction := r.direction }) s.motion.m)
      simp only [State.balanceControl]
      have hmotion : ∀ f, (s.onTraction f).motion.m = s.motion.m := fun _ => rfl
      rw [hmotion]
      generalize State.balanceStep _ s.motion.m = v at hstep
      split
      · exact noticesOnly_trans hstep (noticesOnly_of_eq rfl rfl)
      · exact hstep
    · exact ⟨⟨[], rfl⟩, rfl⟩

theorem noticesOnly_stepEnds (s : State) : noticesOnly s s.stepEnds := by
  rw [stepEnds_eq]
  exact noticesOnly_trans (noticesOnly_trans ⟨⟨[], rfl⟩, rfl⟩ (noticesOnly_derive (ending s))) ⟨⟨[], rfl⟩, rfl⟩

/-- The step that finds the loss records a fault (R54). -/
theorem lost_notice {s : State} (h : lossFound (began s)) : (regulationStep s).port.notice.getLsbD 3 = true := by
  have hraised : (faulted (began s)).port.notice.getLsbD 3 = true := raised_of_mem (b := .fault) (List.mem_singleton.2 rfl)
  have hends := noticesOnly_keeps (noticesOnly_endRun (faulted (began s)) .failedSensor) hraised
  rw [regulationStep_eq, stepInputs_lost h]
  generalize (faulted (began s)).endRun .failedSensor = v at hends
  exact noticesOnly_keeps (noticesOnly_trans (noticesOnly_control _) (noticesOnly_stepEnds _))
    (s := rated v _) hends

/-! ## QUIET (R84) -/

/-- The traction controller in QUIET, before the derivation. -/
def quieted (s : State) : State :=
  { began s with
    bridges := chopsTurned s.bridges, motion := calmMotion (began s)
    traction := { s.traction with
      t := 0, c := 0, i := 0, u := 0, pending := false, zeroHold := min 64 (s.traction.zeroHold + 1)
      lastM := (calmMotion (began s)).m } }

theorem quiet_noLoss {s : State} (hquiet : s.isRun = false) : ¬lossFound (began s) := by
  rintro ⟨-, hcount⟩
  have hnone : applied (began s) = 0 := by
    have hrun : (began s).isRun = false := hquiet
    simp [applied, hrun]
  rw [hnone] at hcount
  simp [Motion.lossAfter] at hcount

theorem regulationStep_quiet {s : State} (hquiet : s.isRun = false) : regulationStep s = (quieted s).stepEnds := by
  have hcontrol : (began s).stepInputs.control = quieted s := by
    rw [stepInputs_calm (quiet_noLoss hquiet)]
    have hstill : ∀ v : State, v.isRun = false → v.control = v.onTraction Traction.quietStep := by
      intro v hv
      simp [State.control, hv]
    exact hstill _ hquiet
  rw [regulationStep_eq, hcontrol]

theorem derivedState_of_quiet {s : State} (hquiet : s.isRun = false) : derivedState s = .quiet := by
  simp [derivedState, hquiet]

/-- The bridges at the end of a step take its command (R87). -/
theorem stepEnds_taken (s : State) : bridgesTaken s.clock s.bridges s.stepEnds.bridges := derive_taken (ending s)

theorem stepEnds_held (s : State) : s.stepEnds.bridges.held = commandFor (ending s) (derivedState (ending s)) :=
  derive_held (ending s)

theorem stepEnds_bridges (s : State) : s.stepEnds.bridges = { s.bridges with
    held := s.stepEnds.bridges.held, a := s.stepEnds.bridges.a, b := s.stepEnds.bridges.b } := by
  have hframe := derive_eq (ending s)
  rw [stepEnds_eq]
  generalize (ending s).derive = t at hframe
  rw [hframe]
  rfl

theorem drivenDuty_off {u : BridgeUnit} (h : u.held = .off) : u.drivenDuty = 0 := by
  simp [BridgeUnit.drivenDuty, h]

theorem decayed_eq {mo : Motion} {now edge : BitVec 32} (hedge : mo.lastEdge = some edge) :
    mo.decayed now = if mo.ring = [] ∨ mo.cfg.window * 1000 ≤ (now - edge).toNat then 0
      else if mo.ring.getLastD 0 < (now - edge).toNat then
        min (min 65535 (16000000 * mo.ring.length / mo.ring.sum)) (16000000 / (now - edge).toNat)
      else min 65535 (16000000 * mo.ring.length / mo.ring.sum) := by
  by_cases hring : mo.ring = []
  · simp [Motion.decayed, hring]
  · simp [Motion.decayed, Motion.elapsed, Motion.lastPeriod, ringRate, hring, hedge]

theorem decayed_empty {mo : Motion} (now : BitVec 32) (hring : mo.ring = []) : mo.decayed now = 0 := if_pos hring

/-- Settles O32: the motion unit by the inputs of the step, the rest by the step in QUIET. -/
theorem regulationStepDecaysTheRateAndFindsTheLoss : Obligations.RegulationStepDecaysTheRateAndFindsTheLoss := by
  unfold Obligations.RegulationStepDecaysTheRateAndFindsTheLoss
  intro s
  have hmotion := step_motion s
  obtain ⟨hlost, hcalm⟩ := stepInputs_motion (began s)
  have hm : (regulationStep s).motion.m = s.motion.decayed (captureClock (began s)) := by
    by_cases h : lossFound (began s)
    · rw [hmotion, hlost h]
      rfl
    · rw [hmotion, hcalm h]
      rfl
  refine ⟨_, rfl, ?quiet, ?edge, ?empty, ?stays, ?loss⟩
  case quiet =>
    intro hquiet
    have hstate : derivedState (ending (quieted s)) = .quiet := derivedState_of_quiet hquiet
    have htraction := stepEnds_traction (quieted s)
    have hheld : (quieted s).stepEnds.bridges.held = .off := by
      rw [stepEnds_held, hstate]
      rfl
    have hlast : (quieted s).stepEnds.motion = (quieted s).motion := by simp
    have hclock : (quieted s).stepEnds.clock = (quieted s).clock := by simp
    have htaken := stepEnds_taken (quieted s)
    have hbridges := stepEnds_bridges (quieted s)
    rw [hstate] at htraction
    rw [regulationStep_quiet hquiet, hlast, hclock, htraction]
    refine ⟨rfl, rfl, rfl, rfl, rfl, rfl, rfl, rfl, rfl, hheld, htaken, ?_, drivenDuty_off hheld⟩
    conv_lhs => rw [hbridges]
    rw [hheld]
    rfl
  case edge =>
    rintro edge hedge e rfl
    rw [hm, step_clock]
    exact decayed_eq hedge
  case empty =>
    intro hring
    rw [hm]
    exact decayed_empty _ hring
  case stays =>
    intro hno
    rw [hmotion, hcalm fun h => hno h.1]
    exact ⟨rfl, if_neg hno, rfl, rfl⟩
  case loss =>
    rintro hok applied rfl n rfl
    constructor
    · intro hbelow
      rw [hmotion, hcalm fun h => absurd hbelow (Nat.not_lt_of_le h.2)]
      exact ⟨hok, if_pos hok, rfl, rfl⟩
    · intro hreached
      have hfound : lossFound (began s) := ⟨hok, hreached⟩
      refine ⟨?_, ?_, ?_, ?_, lost_notice hfound, fun hring => ?_⟩
      all_goals rw [hmotion, hlost hfound]
      · rfl
      · rfl
      · rfl
      · rfl
      · have hangle : (began s).motion.edgeAngle (captureClock (began s)) = s.motion.p * 256 / s.motion.cfg.magnets :=
          if_pos hring
        simp only [lostMotion, hangle]
        rfl

end Sys2Proof.StepEnds
end

section
/-! PROOFS. A regulation step in RUN outside BALANCE (R65 to R75, R80, R81): ramp, direction and duty, and the command that
goes with the state. -/

namespace Sys2Proof.RegulationSteps
open Sys2Proof.Machine Sys2Proof.Safety Sys2Proof.Notices Sys2Proof.RegulationInputs Sys2Proof.StepEnds

/-! ## The stages, each by what it changes -/

theorem settle_eq (t : Traction) (requested : Direction) (sensor : Sensor) (m : Nat) :
    t.settle requested sensor m = { t with
      zeroHold := zeroHoldAfter t.zeroHold t.c
      direction := if t.pending && mayFlip sensor t.c (zeroHoldAfter t.zeroHold t.c) m then requested else t.direction
      pending := t.pending && !mayFlip sensor t.c (zeroHoldAfter t.zeroHold t.c) m } := by
  simp only [Traction.settle]
  generalize mayFlip sensor t.c (zeroHoldAfter t.zeroHold t.c) m = flips
  cases hpending : t.pending <;> cases flips <;> simp

theorem ramped_eq (t : Traction) (state : TractionState) (d : TractionSet) :
    t.ramped state d = { t with c := (t.ramped state d).c } := by
  cases state <;> rfl

theorem formDuty_eq (t : Traction) (d : TractionSet) (sensor : Sensor) (m : Nat) (chopped : Bool) :
    t.formDuty d sensor m chopped = { t with
      i := (t.formDuty d sensor m chopped).i, u := (t.formDuty d sensor m chopped).u } := by
  unfold Traction.formDuty Traction.regulate Traction.seed
  repeat' split
  all_goals rfl

theorem driven_eq (t : Traction) (state : TractionState) (d : TractionSet) (sensor : Sensor) (m : Nat) (chopped : Bool) :
    t.driven state d sensor m chopped = { t with
      i := (t.driven state d sensor m chopped).i, u := (t.driven state d sensor m chopped).u } := by
  unfold Traction.driven
  split
  · rfl
  · rfl
  · exact formDuty_eq _ _ _ _ _

/-- Neither HELD nor FAULTED is in force. -/
def moves (state : TractionState) : Prop := state ≠ .held ∧ state ≠ .faulted

theorem ramped_moves {t : Traction} {state : TractionState} (d : TractionSet) (h : moves state) :
    (t.ramped state d).c = ramp d t.t t.c := by
  obtain ⟨hheld, hfaulted⟩ := h
  unfold Traction.ramped
  split
  · exact absurd rfl hheld
  · exact absurd rfl hfaulted
  · rfl

theorem driven_moves {t : Traction} {state : TractionState} (d : TractionSet) (sensor : Sensor) (m : Nat) (chopped : Bool)
    (h : moves state) : t.driven state d sensor m chopped = t.formDuty d sensor m chopped := by
  obtain ⟨hheld, hfaulted⟩ := h
  unfold Traction.driven
  split
  · exact absurd rfl hheld
  · exact absurd rfl hfaulted
  · rfl

/-- The ramp as R65 says it. -/
theorem ramp_eq (d : TractionSet) (t c : Nat) : ramp d t c
    = if c < t then (if d.accel = 0 then t else min t (c + d.accel))
      else if d.decel = 0 then t else max t (c - d.decel) := by
  unfold ramp
  split
  · rfl
  · next hbelow =>
    split
    · rfl
    · next habove =>
      have hsame : c = t := by omega
      split <;> omega

/-! ## The duty (R68 to R72) -/

theorem clampInt_toNat (hi : Nat) (n : Int) : ((clampInt 0 hi n).toNat : Int) = max 0 (min (hi : Int) n) := by
  unfold clampInt
  omega

theorem formDuty_open {t : Traction} {d : TractionSet} {sensor : Sensor} (m : Nat) (chopped : Bool) (h : sensor ≠ .ok) :
    t.formDuty d sensor m chopped = { t with i := 0, u := min d.dutyCap (t.c * d.gain / 65536) } := by
  cases sensor with
  | ok => exact absurd rfl h
  | none => rfl
  | lost => rfl

theorem formDuty_rest {t : Traction} (d : TractionSet) (m : Nat) (chopped : Bool) (h : t.c = 0) :
    t.formDuty d .ok m chopped = { t with i := 0, u := 0 } := by
  simp only [Traction.formDuty, if_pos h]

theorem formDuty_closed {t : Traction} (d : TractionSet) (m : Nat) (chopped : Bool) (h : 0 < t.c) :
    t.formDuty d .ok m chopped = t.seed.regulate d m chopped := by
  simp only [Traction.formDuty, if_neg (Nat.pos_iff_ne_zero.1 h)]

theorem formDuty_cap (t : Traction) (d : TractionSet) (sensor : Sensor) (m : Nat) (chopped : Bool) :
    (t.formDuty d sensor m chopped).u ≤ d.dutyCap := by
  cases sensor with
  | none => exact Nat.min_le_left _ _
  | lost => exact Nat.min_le_left _ _
  | ok =>
    by_cases hc : t.c = 0
    · rw [formDuty_rest _ _ _ hc]
      exact Nat.zero_le _
    · rw [formDuty_closed _ _ _ (Nat.pos_of_ne_zero hc)]
      have hle : ∀ n, (clampInt 0 d.dutyCap n).toNat ≤ d.dutyCap := fun n => by
        unfold clampInt
        omega
      exact hle _

/-- The integrator as a step finds it (R72). -/
def seeded (t : Traction) : Nat := if t.lastSensor = .ok then t.i else t.prev * 1024

theorem seed_eq (t : Traction) : t.seed = { t with i := seeded t } := by
  unfold Traction.seed seeded
  split <;> rfl

theorem integratorSkips_iff (e : Int) (prev cap : Nat) (chopped : Bool) : integratorSkips e prev cap chopped = true ↔
    (0 < e ∧ (prev = 1023 ∨ cap ≤ prev ∨ chopped = true)) ∨ (e < 0 ∧ prev = 0) := by
  simp only [integratorSkips, Bool.or_eq_true, Bool.and_eq_true, decide_eq_true_eq]
  tauto

/-- The integrator in the closed loop (R69). -/
theorem formDuty_integrates {t : Traction} (d : TractionSet) (m : Nat) (chopped : Bool) (h : 0 < t.c) :
    (t.formDuty d .ok m chopped).i =
      if (0 < (t.c : Int) - m ∧ (t.prev = 1023 ∨ d.dutyCap ≤ t.prev ∨ chopped = true)) ∨ ((t.c : Int) - m < 0 ∧ t.prev = 0)
      then seeded t
      else (max 0 (min 1047552 ((seeded t : Int) + d.ki * ((t.c : Int) - m)))).toNat := by
  rw [formDuty_closed _ _ _ h, seed_eq]
  simp only [Traction.regulate, integratorSkips_iff]
  split
  · rfl
  · unfold integrate clampInt
    omega

/-- The duty in the closed loop (R68, R70). -/
theorem formDuty_regulates {t : Traction} (d : TractionSet) (m : Nat) (chopped : Bool) (h : 0 < t.c) :
    ((t.formDuty d .ok m chopped).u : Int) = max 0 (min (d.dutyCap : Int)
      (((d.kp : Int) * ((t.c : Int) - m)).tdiv 64 + ((t.formDuty d .ok m chopped).i / 1024 : Nat))) := by
  rw [formDuty_closed _ _ _ h, seed_eq]
  exact clampInt_toNat _ _

/-! ## The step of the controller -/

/-- The direction is changed at this step, c having become `c` (R67). -/
def flips (s : State) (c : Nat) : Bool :=
  decide (s.radio.request.direction ≠ s.traction.direction)
    && mayFlip s.motion.sensor c (zeroHoldAfter s.traction.zeroHold c) s.motion.m

/-- The controller after the ramp (R62 to R65). -/
def rampedStep (s : State) : Traction :=
  ({ s.traction with
      pending := decide (s.radio.request.direction ≠ s.traction.direction)
      t := target s (decide (s.radio.request.direction ≠ s.traction.direction)) } : Traction).ramped (derivedState s)
    s.tractionSet

/-- The controller between the ramp and the duty (R67). -/
def settled (s : State) : Traction :=
  (rampedStep s).settle s.radio.request.direction s.motion.sensor s.motion.m

theorem controlStep_settled (s : State) (chopped : Bool) : controlStep s chopped
    = (settled s).driven (derivedState s) s.tractionSet s.motion.sensor s.motion.m chopped := rfl

theorem rampedStep_eq (s : State) : rampedStep s = { s.traction with
    pending := decide (s.radio.request.direction ≠ s.traction.direction)
    t := target s (decide (s.radio.request.direction ≠ s.traction.direction)), c := (rampedStep s).c } :=
  ramped_eq _ _ _

theorem settled_eq (s : State) : settled s = { s.traction with
    t := target s (decide (s.radio.request.direction ≠ s.traction.direction)), c := (rampedStep s).c
    zeroHold := zeroHoldAfter s.traction.zeroHold (rampedStep s).c
    direction := if flips s (rampedStep s).c then s.radio.request.direction else s.traction.direction
    pending := decide (s.radio.request.direction ≠ s.traction.direction) && !flips s (rampedStep s).c } := by
  have hramped := rampedStep_eq s
  unfold settled
  generalize rampedStep s = r at hramped
  generalize r.c = c at hramped
  subst hramped
  rw [settle_eq]
  have hturn : ∀ a b : Bool, (a && !(a && b)) = (a && !b) := by decide
  simp only [flips, hturn]
  rfl

theorem controlStep_c (s : State) (chopped : Bool) : (controlStep s chopped).c = (rampedStep s).c := by
  rw [controlStep_settled, driven_eq, settled_eq]

/-- What a step makes of the traction controller, its duty apart (R62 to R67). -/
theorem controlStep_eq (s : State) (chopped : Bool) : controlStep s chopped = { s.traction with
    t := (controlStep s chopped).t, c := (controlStep s chopped).c
    i := (controlStep s chopped).i, u := (controlStep s chopped).u
    zeroHold := zeroHoldAfter s.traction.zeroHold (controlStep s chopped).c
    direction := if flips s (controlStep s chopped).c then s.radio.request.direction else s.traction.direction
    pending := decide (s.radio.request.direction ≠ s.traction.direction) && !flips s (controlStep s chopped).c } := by
  simp only [controlStep_c]
  conv_lhs => rw [controlStep_settled, driven_eq, settled_eq]
  rw [TractionTarget.controlStep_t, controlStep_settled, settled_eq]

theorem settled_kept (s : State) : (settled s).i = s.traction.i ∧ (settled s).prev = s.traction.prev
    ∧ (settled s).lastSensor = s.traction.lastSensor := by
  rw [settled_eq]
  exact ⟨rfl, rfl, rfl⟩

/-- In HELD and FAULTED no duty is formed (R80, R81). -/
theorem controlStep_still {s : State} (chopped : Bool) (h : derivedState s = .held ∨ derivedState s = .faulted) :
    (controlStep s chopped).c = (if derivedState s = .held then s.traction.c else 0)
      ∧ (controlStep s chopped).i = 0 ∧ (controlStep s chopped).u = 0 := by
  rw [controlStep_c, controlStep_settled]
  simp only [rampedStep]
  rcases h with hst | hst
  · rw [hst]
    exact ⟨rfl, rfl, rfl⟩
  · rw [hst]
    exact ⟨rfl, rfl, rfl⟩

theorem controlStep_ramps {s : State} (chopped : Bool) (h : moves (derivedState s)) :
    (controlStep s chopped).c = ramp s.tractionSet (controlStep s chopped).t s.traction.c := by
  rw [controlStep_c, TractionTarget.controlStep_t]
  simp only [rampedStep]
  rw [ramped_moves _ h]

theorem controlStep_forms {s : State} (chopped : Bool) (h : moves (derivedState s)) :
    controlStep s chopped = (settled s).formDuty s.tractionSet s.motion.sensor s.motion.m chopped := by
  rw [controlStep_settled, driven_moves _ _ _ _ h]

/-! ## The inputs of a step without a run -/

/-- The fault that the loss of the sensor records (R54). -/
def lossNoted (s : State) : State :=
  if s.motion.sensor = .ok ∧ (began s).stepInputs.motion.sensor ≠ .ok then { s with
    port := withNotice s.port [.fault]
    status := { s.status with faultCount := s.status.faultCount + 1 } } else s

/-- The part after the inputs of a step without a run, `u` having the fault of a loss. -/
def entered (s u : State) (motion : Motion) : State :=
  { began u with
    bridges := chopsTurned s.bridges, motion := motion
    traction := { s.traction with lastM := motion.m } }

theorem stepInputs_noRun {s : State} (hrun : s.balance.run = none) : (began s).stepInputs
    = entered s (lossNoted s) (began s).stepInputs.motion := by
  obtain ⟨hlost, hcalm⟩ := stepInputs_motion (began s)
  by_cases h : lossFound (began s)
  · have hok : s.motion.sensor = .ok := h.1
    have hnoted : lossNoted s = { s with
        port := withNotice s.port [.fault]
        status := { s.status with faultCount := s.status.faultCount + 1 } } := by
      refine if_pos ⟨hok, ?_⟩
      rw [hlost h]
      simp [lostMotion]
    rw [hnoted, hlost h, stepInputs_lost h, TractionTarget.endRun_of_no_run (s := faulted (began s)) hrun]
    rfl
  · have hnoted : lossNoted s = s := by
      refine if_neg fun hn => hn.2 ?_
      rw [hcalm h]
      exact hn.1
    rw [hnoted, hcalm h, stepInputs_calm h]
    rfl

theorem lossNoted_eq (s : State) : lossNoted s = { s with
    port := { s.port with notice := (lossNoted s).port.notice }
    status := { s.status with faultCount := (lossNoted s).status.faultCount } } := by
  unfold lossNoted
  split <;> rfl

/-- The part before the end of a step, its controller being `c`. -/
def steered (s u : State) (motion : Motion) (c : Traction) : State := { entered s u motion with traction := c }

/-- The controller of a step without a run. -/
def stepController (s : State) : Traction :=
  controlStep (entered s (lossNoted s) (began s).stepInputs.motion)
    ((chopsTurned s.bridges).a.chopFlag || (chopsTurned s.bridges).b.chopFlag)

theorem regulationStep_noRun {s : State} (hgo : s.isRun = true) (hrun : s.balance.run = none) : regulationStep s
    = (steered s (lossNoted s) (began s).stepInputs.motion (stepController s)).stepEnds := by
  have hnoted := lossNoted_eq s
  have hinputs := stepInputs_noRun hrun
  rw [regulationStep_eq, hinputs]
  have hgo' : (entered s (lossNoted s) (began s).stepInputs.motion).isRun = true := by
    rw [hnoted]
    exact hgo
  have hrun' : (entered s (lossNoted s) (began s).stepInputs.motion).balance.run = none := by
    rw [hnoted]
    exact hrun
  rw [TractionTarget.control_of_no_run hgo' hrun']
  rfl

/-! ## The states of a step -/

/-- The state of a part in RUN outside BALANCE (R73). -/
def runningState (s : State) (latch pending : Bool) (c m : Nat) : TractionState :=
  if s.bridges.allLatched = true then .faulted
  else if 4 ≤ s.supply.shed then .held
  else if latch = true then .estop
  else if pending = true then .reversing
  else if 0 < c ∨ 0 < m then .running
  else .stopped

theorem allLatched_turned (u : BridgeUnit) : (chopsTurned u).allLatched = u.allLatched := rfl

theorem derivedState_running {z s : State} (hgo : z.isRun = true) (hrun : z.balance.run = none)
    (hlatched : z.bridges.allLatched = s.bridges.allLatched) (hshed : z.supply.shed = s.supply.shed) :
    derivedState z = runningState s z.traction.latch z.traction.pending z.traction.c z.traction.lastM := by
  unfold derivedState runningState
  rw [hgo, hrun, hlatched, hshed]
  simp only [Bool.not_true, Bool.false_eq_true, if_false, Option.isSome_none]

theorem runningState_moves {s : State} (latch pending : Bool) (c m : Nat) (hall : s.bridges.allLatched = false)
    (hshed : s.supply.shed < 4) : runningState s latch pending c m = (if latch = true then .estop
      else if pending = true then .reversing else if 0 < c ∨ 0 < m then .running else .stopped) := by
  unfold runningState
  rw [hall, if_neg (by decide), if_neg (Nat.not_le_of_lt hshed)]

theorem runningState_held {s : State} (latch pending : Bool) (c m : Nat) (hall : s.bridges.allLatched = false)
    (hshed : 4 ≤ s.supply.shed) : runningState s latch pending c m = .held := by
  unfold runningState
  rw [hall, if_neg (by decide), if_pos hshed]

theorem runningState_faulted {s : State} (latch pending : Bool) (c m : Nat) (hall : s.bridges.allLatched = true) :
    runningState s latch pending c m = .faulted := if_pos hall

theorem moves_running {s : State} (latch pending : Bool) (c m : Nat) (hall : s.bridges.allLatched = false)
    (hshed : s.supply.shed < 4) : moves (runningState s latch pending c m) := by
  rw [runningState_moves _ _ _ _ hall hshed]
  unfold moves
  split
  · decide
  · split
    · decide
    · split <;> decide

theorem entered_state {s : State} (hgo : s.isRun = true) (hrun : s.balance.run = none) (motion : Motion) :
    derivedState (entered s (lossNoted s) motion)
      = runningState s s.traction.latch s.traction.pending s.traction.c motion.m := by
  rw [lossNoted_eq]
  exact derivedState_running hgo hrun (allLatched_turned _) rfl

theorem steered_state {s : State} (hgo : s.isRun = true) (hrun : s.balance.run = none) (motion : Motion) (c : Traction) :
    derivedState (ending (steered s (lossNoted s) motion c)) = runningState s c.latch c.pending c.c c.lastM := by
  rw [lossNoted_eq]
  exact derivedState_running hgo hrun (allLatched_turned _) rfl

theorem entered_tractionSet {s : State} {d : DriveSet} (hcache : s.sets.cache = some d) (motion : Motion) :
    (entered s (lossNoted s) motion).tractionSet = d.traction := by
  rw [lossNoted_eq]
  exact TractionTarget.tractionSet_of_cache hcache

/-! ## What the step makes of the controller -/

theorem entered_fields (s : State) (motion : Motion) : (entered s (lossNoted s) motion).radio = s.radio
    ∧ (entered s (lossNoted s) motion).traction = { s.traction with lastM := motion.m }
    ∧ (entered s (lossNoted s) motion).motion = motion := by
  rw [lossNoted_eq]
  exact ⟨rfl, rfl, rfl⟩

/-- The direction is changed at a step (R67). -/
theorem flips_iff (s : State) (motion : Motion) (c : Nat) : flips (entered s (lossNoted s) motion) c = true ↔
    s.radio.request.direction ≠ s.traction.direction ∧ c = 0
      ∧ (motion.sensor = .ok ∧ motion.m = 0
        ∨ motion.sensor ≠ .ok ∧ 64 ≤ (if c = 0 then min 64 (s.traction.zeroHold + 1) else 0)) := by
  obtain ⟨hradio, htraction, hmotion⟩ := entered_fields s motion
  rw [flips, hradio, htraction, hmotion]
  simp only [mayFlip, zeroHoldAfter, Bool.and_eq_true, decide_eq_true_eq]
  cases motion.sensor <;> simp

theorem stepController_eq (s : State) : stepController s = { s.traction with
    lastM := (began s).stepInputs.motion.m
    t := (stepController s).t, c := (stepController s).c, i := (stepController s).i, u := (stepController s).u
    zeroHold := if (stepController s).c = 0 then min 64 (s.traction.zeroHold + 1) else 0
    direction := (stepController s).direction, pending := (stepController s).pending } := by
  obtain ⟨-, htraction, -⟩ := entered_fields s (began s).stepInputs.motion
  have hstep := controlStep_eq (entered s (lossNoted s) (began s).stepInputs.motion)
    ((chopsTurned s.bridges).a.chopFlag || (chopsTurned s.bridges).b.chopFlag)
  rw [htraction] at hstep
  have hdirection := congrArg Traction.direction hstep
  have hpending := congrArg Traction.pending hstep
  unfold stepController
  generalize controlStep _ _ = c at hstep hdirection hpending
  rw [hdirection, hpending]
  exact hstep

theorem stepController_turns (s : State) :
    if s.radio.request.direction ≠ s.traction.direction ∧ (stepController s).c = 0
        ∧ ((began s).stepInputs.motion.sensor = .ok ∧ (began s).stepInputs.motion.m = 0
          ∨ (began s).stepInputs.motion.sensor ≠ .ok ∧ 64 ≤ (stepController s).zeroHold) then
      (stepController s).direction = s.radio.request.direction ∧ (stepController s).pending = false
    else (stepController s).direction = s.traction.direction
      ∧ ((stepController s).pending = true ↔ s.radio.request.direction ≠ s.traction.direction) := by
  obtain ⟨hradio, htraction, hmotion⟩ := entered_fields s (began s).stepInputs.motion
  have hzero := congrArg Traction.zeroHold (stepController_eq s)
  have hiff := flips_iff s (began s).stepInputs.motion (stepController s).c
  have hstep := controlStep_eq (entered s (lossNoted s) (began s).stepInputs.motion)
    ((chopsTurned s.bridges).a.chopFlag || (chopsTurned s.bridges).b.chopFlag)
  have hdirection : (stepController s).direction
      = if flips (entered s (lossNoted s) (began s).stepInputs.motion) (stepController s).c = true
        then s.radio.request.direction else s.traction.direction := by
    have h := congrArg Traction.direction hstep
    rw [hradio, htraction] at h
    exact h
  have hpending : (stepController s).pending = (decide (s.radio.request.direction ≠ s.traction.direction)
      && !flips (entered s (lossNoted s) (began s).stepInputs.motion) (stepController s).c) := by
    have h := congrArg Traction.pending hstep
    rw [hradio, htraction] at h
    exact h
  change (stepController s).zeroHold = _ at hzero
  generalize flips (entered s (lossNoted s) (began s).stepInputs.motion) (stepController s).c = turn
    at hiff hdirection hpending
  rw [hzero, hdirection, hpending]
  cases turn with
  | true =>
    rw [if_pos (hiff.1 rfl)]
    exact ⟨rfl, by simp⟩
  | false =>
    rw [if_neg fun h => absurd (hiff.2 h) (by decide)]
    exact ⟨rfl, by simp⟩

theorem stepController_still {s : State} (hgo : s.isRun = true) (hrun : s.balance.run = none)
    (h : s.bridges.allLatched = true ∨ 4 ≤ s.supply.shed) :
    (stepController s).c = (if s.bridges.allLatched = true then 0 else s.traction.c)
      ∧ (stepController s).i = 0 ∧ (stepController s).u = 0 := by
  obtain ⟨-, htraction, -⟩ := entered_fields s (began s).stepInputs.motion
  have hstate := entered_state hgo hrun (began s).stepInputs.motion
  by_cases hall : s.bridges.allLatched = true
  · rw [runningState_faulted _ _ _ _ hall] at hstate
    have hstill := controlStep_still ((chopsTurned s.bridges).a.chopFlag || (chopsTurned s.bridges).b.chopFlag)
      (.inr hstate)
    rw [hstate] at hstill
    rw [if_pos hall]
    exact hstill
  · have hshed : 4 ≤ s.supply.shed := h.resolve_left hall
    rw [runningState_held _ _ _ _ (Bool.eq_false_iff.2 hall) hshed] at hstate
    have hstill := controlStep_still ((chopsTurned s.bridges).a.chopFlag || (chopsTurned s.bridges).b.chopFlag)
      (.inl hstate)
    rw [hstate, htraction] at hstill
    rw [if_neg hall]
    exact hstill

/-- Whether a bridge in service was chopped in the period that ended (R69, R91). -/
theorem turned_chopped (u : BridgeUnit) : ((chopsTurned u).a.chopFlag || (chopsTurned u).b.chopFlag) = true ↔
    (u.a.chopRunning = true ∧ u.a.state ≠ .latched) ∨ (u.b.chopRunning = true ∧ u.b.state ≠ .latched) := by
  simp [chopsTurned]

/-- The ramp and the duty of a step with a bridge in service and a shed level below 4 (R65, R68 to R72). -/
theorem stepController_moves {s : State} {d : DriveSet} (hgo : s.isRun = true) (hrun : s.balance.run = none)
    (hcache : s.sets.cache = some d) (hall : s.bridges.allLatched = false) (hshed : s.supply.shed < 4) :
    (stepController s).c = ramp d.traction (stepController s).t s.traction.c
    ∧ ∃ z : Traction, z.c = (stepController s).c ∧ z.i = s.traction.i ∧ z.prev = s.traction.prev
      ∧ z.lastSensor = s.traction.lastSensor
      ∧ stepController s = z.formDuty d.traction (began s).stepInputs.motion.sensor (began s).stepInputs.motion.m
          ((chopsTurned s.bridges).a.chopFlag || (chopsTurned s.bridges).b.chopFlag) := by
  obtain ⟨-, htraction, hmotion⟩ := entered_fields s (began s).stepInputs.motion
  have hset := entered_tractionSet hcache (began s).stepInputs.motion
  have hmoves : moves (derivedState (entered s (lossNoted s) (began s).stepInputs.motion)) := by
    rw [entered_state hgo hrun]
    exact moves_running _ _ _ _ hall hshed
  have hramps := controlStep_ramps ((chopsTurned s.bridges).a.chopFlag || (chopsTurned s.bridges).b.chopFlag) hmoves
  have hforms := controlStep_forms ((chopsTurned s.bridges).a.chopFlag || (chopsTurned s.bridges).b.chopFlag) hmoves
  obtain ⟨hi, hprev, hlast⟩ := settled_kept (entered s (lossNoted s) (began s).stepInputs.motion)
  have hc : (settled (entered s (lossNoted s) (began s).stepInputs.motion)).c = (stepController s).c := by
    rw [settled_eq]
    exact (controlStep_c _ _).symm
  rw [htraction] at hi hprev hlast hramps
  rw [hset] at hramps hforms
  rw [hmotion] at hforms
  exact ⟨hramps, _, hc, hi, hprev, hlast, hforms⟩

/-! ## What sounds at a step (R155) -/

/-- The part `o` with memory, port, status and sound of `s`, which is all that a clip reads and writes beside the run
state. -/
def soundedAs (s o : State) : State := { o with xm := s.xm, port := s.port, status := s.status, sound := s.sound }

/-- Two parts that sound alike. -/
def alike (s t : State) : Prop := t.sound = s.sound ∧ t.xm = s.xm ∧ t.port = s.port ∧ t.status = s.status

theorem stopVoice_soundedAs (s o : State) (n : Nat) : (soundedAs s o).stopVoice n = soundedAs (s.stopVoice n) o := by
  have hsame : ((soundedAs s o).sound.voice n) = s.sound.voice n := rfl
  simp only [State.stopVoice, hsame]
  generalize ((s.sound.voice n).sounds && decide ((s.sound.voice n).entry.kind = 2)) = holds
  cases holds <;> rfl

theorem startVoice_soundedAs (s o : State) (n clip : Nat) (use : ClipUse) (f : StartFields) :
    (soundedAs s o).startVoice n clip use f = (soundedAs (s.startVoice n clip use f).1 o, (s.startVoice n clip use f).2) := by
  simp only [State.startVoice, stopVoice_soundedAs]
  generalize s.stopVoice n = v
  have hxm : (soundedAs v o).xm = v.xm := rfl
  rw [hxm]
  split
  · split
    · have hfull : segmentFull (soundedAs v o) clip false = segmentFull v clip false := rfl
      rw [hfull]
      cases segmentFull v clip false <;> rfl
    · rfl
  · rfl

theorem startOrFault_soundedAs (s o : State) (n clip : Nat) (use : ClipUse) (f : StartFields) :
    (soundedAs s o).startOrFault n clip use f = soundedAs (s.startOrFault n clip use f) o := by
  unfold State.startOrFault
  split
  · exact stopVoice_soundedAs s o n
  · rw [startVoice_soundedAs]
    generalize s.startVoice n clip use f = made
    obtain ⟨v, done⟩ := made
    cases done <;> rfl

theorem trigger_soundedAs (s o : State) (clip : Nat) (use : ClipUse) (f : StartFields) :
    (soundedAs s o).trigger clip use f = soundedAs (s.trigger clip use f) o := by
  have hrun : (soundedAs s o).isRun = s.isRun := rfl
  have hsound : (soundedAs s o).sound = s.sound := rfl
  unfold State.trigger
  rw [hrun, hsound]
  split
  · cases s.sound.allocate f.priority with
    | none => rfl
    | some n => exact startOrFault_soundedAs s o n clip use f
  · rfl

theorem alike_stationStopped (s : State) : alike s s.stationStopped := by
  unfold State.stationStopped
  split <;> exact ⟨rfl, rfl, rfl, rfl⟩

theorem alike_trans {s t u : State} (h : alike s t) (h' : alike t u) : alike s u := by
  obtain ⟨h1, h2, h3, h4⟩ := h
  obtain ⟨k1, k2, k3, k4⟩ := h'
  exact ⟨k1.trans h1, k2.trans h2, k3.trans h3, k4.trans h4⟩

theorem alike_symm {s t : State} (h : alike s t) : alike t s := by
  obtain ⟨h1, h2, h3, h4⟩ := h
  exact ⟨h1.symm, h2.symm, h3.symm, h4.symm⟩

theorem alike_soundedAs (s o : State) : alike s (soundedAs s o) := ⟨rfl, rfl, rfl, rfl⟩

/-- The report of a state sounds by what a clip reads, the cached set and the two states alone. -/
theorem reportTraction_alike {s o : State} (hset : o.soundSet = s.soundSet) (hstate : o.traction.state = s.traction.state)
    (before : TractionState) : alike (s.reportTraction before) ((soundedAs s o).reportTraction before) := by
  have hstart : alike s.playStartClip (soundedAs s o).playStartClip := by
    have hplays : (soundedAs s o).playStartClip = soundedAs s.playStartClip o := by
      simp only [State.playStartClip]
      rw [trigger_soundedAs, show (soundedAs s o).soundSet = o.soundSet from rfl, hset]
    rw [hplays]
    exact alike_soundedAs _ _
  have hstop : alike s.playStopClip (soundedAs s o).playStopClip := by
    have hplays : (soundedAs s o).playStopClip = soundedAs s.playStopClip o := by
      simp only [State.playStopClip]
      rw [trigger_soundedAs, show (soundedAs s o).soundSet = o.soundSet from rfl, hset]
    rw [hplays]
    exact alike_soundedAs _ _
  have hstands : ∀ {v w : State}, alike v w → alike v.stationStopped w.stationStopped := fun h =>
    alike_trans (alike_symm (alike_stationStopped _)) (alike_trans h (alike_stationStopped _))
  have hsame : (soundedAs s o).traction.state = s.traction.state := hstate
  unfold State.reportTraction
  rw [hsame]
  generalize s.traction.state = after
  cases before <;> cases after <;>
    first | exact hstart | exact hstands hstop | exact hstands (alike_soundedAs s o) | exact alike_soundedAs s o

/-- A part whose clips are those of `u` sounds, at its derivation, as `u` does (R155). -/
theorem derive_sounds {u y : State} (hwf : u.xm.wf = true) (hvoices : voicesLawful u) (hy : y = soundedAs u y)
    (hset : y.soundSet = u.soundSet) (hbefore : y.traction.state = u.traction.state) :
    ∃ v : State, clipsOfChange u v u.traction.state (derivedState y) ∧ alike v y.derive := by
  obtain ⟨v, hclips, hreport⟩ := u.reportTraction_clips (derivedState y) hwf hvoices
  refine ⟨v, hclips, ?_⟩
  have hderived : alike ((y.onTraction fun t => { t with state := derivedState y }).reportTraction y.traction.state) y.derive :=
    ⟨rfl, rfl, rfl, rfl⟩
  have hreported := reportTraction_alike (s := u.onTraction fun t => { t with state := derivedState y })
    (o := y.onTraction fun t => { t with state := derivedState y }) hset rfl u.traction.state
  have hsounds : (y.onTraction fun t => { t with state := derivedState y })
      = soundedAs (u.onTraction fun t => { t with state := derivedState y })
        (y.onTraction fun t => { t with state := derivedState y }) := by
    generalize derivedState y = x
    rw [hy]
    rfl
  rw [← hsounds, hreport, ← hbefore] at hreported
  have hv : alike v { u with
      xm := v.xm, port := v.port, status := v.status, sound := v.sound
      traction := { u.traction with state := derivedState y }
      radio := { u.radio with station := stationThen u.radio.station u.clock y.traction.state (derivedState y) } } :=
    ⟨rfl, rfl, rfl, rfl⟩
  exact alike_trans (alike_trans hv hreported) hderived

/-! ## The whole step -/

/-- The part before the derivation of a step without a run. -/
def stepEnding (s : State) : State :=
  ending (steered s (lossNoted s) (began s).stepInputs.motion (stepController s))

theorem step_ends {s : State} (hgo : s.isRun = true) (hrun : s.balance.run = none) : regulationStep s
    = { (stepEnding s).derive with
      traction := { (stepEnding s).derive.traction with lowest := (stepEnding s).derive.bridges.drivenDuty } } :=
  regulationStep_noRun hgo hrun

theorem stepEnding_eq (s : State) : stepEnding s = { began s with
    port := { s.port with notice := (lossNoted s).port.notice }
    status := { s.status with faultCount := (lossNoted s).status.faultCount }
    bridges := chopsTurned s.bridges, motion := (began s).stepInputs.motion
    traction := { stepController s with
      lastSensor := (began s).stepInputs.motion.sensor, prev := (stepController s).u } } := by
  have hnoted := lossNoted_eq s
  unfold stepEnding
  generalize lossNoted s = n at hnoted
  generalize stepController s = c
  generalize (began s).stepInputs.motion = m
  conv_lhs => rw [hnoted]
  rfl

theorem stepEnding_sounds (s : State) : stepEnding s = soundedAs (lossNoted s) (stepEnding s) := rfl

/-- The motion unit after the inputs of a step. -/
theorem inputs_motion_eq (s : State) : (began s).stepInputs.motion = { s.motion with
    m := (began s).stepInputs.motion.m, sensor := (began s).stepInputs.motion.sensor
    loss := (began s).stepInputs.motion.loss, recovery := (began s).stepInputs.motion.recovery
    phi := (began s).stepInputs.motion.phi, mark := (began s).stepInputs.motion.mark, edgeSinceStep := false } := by
  obtain ⟨hlost, hcalm⟩ := stepInputs_motion (began s)
  by_cases h : lossFound (began s)
  · rw [hlost h]
    rfl
  · rw [hcalm h]
    rfl

/-- The controller after a step. -/
theorem step_traction {s : State} (hgo : s.isRun = true) (hrun : s.balance.run = none) : (regulationStep s).traction
    = { stepController s with
      lastSensor := (began s).stepInputs.motion.sensor, prev := (stepController s).u
      state := runningState s s.traction.latch (stepController s).pending (stepController s).c
        (began s).stepInputs.motion.m
      lowest := (regulationStep s).bridges.drivenDuty } := by
  have hstate := steered_state hgo hrun (began s).stepInputs.motion (stepController s)
  have hlatch : (stepController s).latch = s.traction.latch := by rw [stepController_eq]
  have hm : (stepController s).lastM = (began s).stepInputs.motion.m := by rw [stepController_eq]
  rw [hlatch, hm] at hstate
  rw [← hstate]
  have htraction := stepEnds_traction (steered s (lossNoted s) (began s).stepInputs.motion (stepController s))
  rw [← regulationStep_noRun hgo hrun] at htraction
  exact htraction

theorem step_noticesOnly (s : State) (hgo : s.isRun = true) (hrun : s.balance.run = none) :
    (regulationStep s).port = { s.port with notice := (regulationStep s).port.notice }
    ∧ (regulationStep s).status = { s.status with faultCount := (regulationStep s).status.faultCount } := by
  have hderived := noticesOnly_derive (stepEnding s)
  have hport := noticesOnly_port hderived
  obtain ⟨-, hstatus⟩ := hderived
  have hending := stepEnding_eq s
  rw [step_ends hgo hrun]
  change (stepEnding s).derive.port = { s.port with notice := (stepEnding s).derive.port.notice }
    ∧ (stepEnding s).derive.status = { s.status with faultCount := (stepEnding s).derive.status.faultCount }
  generalize (stepEnding s).derive = t at hport hstatus
  rw [hport, hstatus, hending]
  exact ⟨rfl, rfl⟩

/-- What a step without a run reaches. -/
theorem step_frame {s : State} (hgo : s.isRun = true) (hrun : s.balance.run = none) : regulationStep s = { s with
    clock := max s.clock s.timers.regulation
    xm := (regulationStep s).xm
    port := { s.port with notice := (regulationStep s).port.notice }
    status := { s.status with faultCount := (regulationStep s).status.faultCount }
    timers := { s.timers with regulation := (regulationStep s).clock + 8 * 1024000 }
    motion := { s.motion with
      m := (regulationStep s).motion.m, sensor := (regulationStep s).motion.sensor, loss := (regulationStep s).motion.loss
      recovery := (regulationStep s).motion.recovery, phi := (regulationStep s).motion.phi
      mark := (regulationStep s).motion.mark
      edgeSinceStep := false }
    traction := { (regulationStep s).traction with latch := s.traction.latch }
    bridges := { s.bridges with
      held := (regulationStep s).bridges.held, a := (regulationStep s).bridges.a, b := (regulationStep s).bridges.b }
    radio := { s.radio with station := (regulationStep s).radio.station }
    sound := (regulationStep s).sound } := by
  obtain ⟨hport, hstatus⟩ := step_noticesOnly s hgo hrun
  have hclock := step_clock s
  have hmotion : (regulationStep s).motion = { s.motion with
      m := (regulationStep s).motion.m, sensor := (regulationStep s).motion.sensor, loss := (regulationStep s).motion.loss
      recovery := (regulationStep s).motion.recovery, phi := (regulationStep s).motion.phi
      mark := (regulationStep s).motion.mark, edgeSinceStep := false } := by
    rw [step_motion]
    exact inputs_motion_eq s
  have htraction : (regulationStep s).traction = { (regulationStep s).traction with latch := s.traction.latch } := by
    rw [step_traction hgo hrun, stepController_eq]
  rw [← hport, ← hstatus, ← hmotion, ← htraction, hclock]
  have hends := step_ends hgo hrun
  have hderived := derive_eq (stepEnding s)
  have hending := stepEnding_eq s
  generalize regulationStep s = t at hends
  generalize (stepEnding s).derive = z at hends hderived
  generalize stepEnding s = y at hderived hending
  generalize lossNoted s = n at hending
  generalize stepController s = c at hending
  generalize (began s).stepInputs.motion = m at hending
  subst hends
  conv_lhs => rw [hderived, hending]
  conv_rhs => rw [hderived, hending]
  rfl

/-- The command that a step hands goes with the state it derives (R75). -/
theorem step_held {s : State} (hgo : s.isRun = true) (hrun : s.balance.run = none) : (regulationStep s).bridges.held
    = commandFor (stepEnding s) (regulationStep s).traction.state := by
  have hheld := derive_held (stepEnding s)
  have hstate := Shorts.derive_state (stepEnding s)
  rw [step_ends hgo hrun]
  exact hheld.trans (by rw [← hstate])

theorem step_station {s : State} (hgo : s.isRun = true) (hrun : s.balance.run = none) : (regulationStep s).radio.station
    = stationThen s.radio.station (regulationStep s).clock s.traction.state (regulationStep s).traction.state := by
  have hstation := derive_station (stepEnding s)
  have hstate := Shorts.derive_state (stepEnding s)
  have hbefore : (stepEnding s).traction.state = s.traction.state := by
    rw [stepEnding_eq, stepController_eq]
  have hradio : (stepEnding s).radio = s.radio := by rw [stepEnding_eq]; rfl
  have hclock : (stepEnding s).clock = max s.clock s.timers.regulation := by rw [stepEnding_eq]; rfl
  rw [← hstate, hbefore, hradio, hclock] at hstation
  rw [step_clock]
  rw [step_ends hgo hrun]
  exact hstation

theorem step_taken {s : State} (hgo : s.isRun = true) (hrun : s.balance.run = none) :
    bridgesTaken (regulationStep s).clock (chopsTurned s.bridges) (regulationStep s).bridges := by
  have htaken := FaultClears.derive_taken (stepEnding s)
  have hclock : (stepEnding s).clock = max s.clock s.timers.regulation := by rw [stepEnding_eq]; rfl
  have hbridges : (stepEnding s).bridges = chopsTurned s.bridges := by rw [stepEnding_eq]
  rw [hclock, hbridges] at htaken
  rw [step_clock, step_ends hgo hrun]
  exact htaken

theorem step_sounds {s : State} (hgo : s.isRun = true) (hrun : s.balance.run = none) (hwf : s.xm.wf = true)
    (hvoices : voicesLawful s) : sameBut s.xm (regulationStep s).xm inSegments
      ∧ ∃ v : State, clipsOfChange (lossNoted s) v s.traction.state (regulationStep s).traction.state
        ∧ alike v (regulationStep s) := by
  have hbefore : (stepEnding s).traction.state = s.traction.state := by
    rw [stepEnding_eq, stepController_eq]
  have hxm : (stepEnding s).xm = s.xm := by rw [stepEnding_eq]; rfl
  have hsound : (stepEnding s).sound = s.sound := by rw [stepEnding_eq]; rfl
  have hsets : (stepEnding s).sets = s.sets := by rw [stepEnding_eq]; rfl
  obtain ⟨-, hsame⟩ := State.derive_kept (stepEnding s) (by rw [hxm]; exact hwf)
    (by rw [voicesLawful, hsound]; exact hvoices)
  rw [hxm] at hsame
  have hnoted : (lossNoted s).xm = s.xm ∧ (lossNoted s).sound = s.sound ∧ (lossNoted s).sets = s.sets
      ∧ (lossNoted s).traction.state = s.traction.state := by
    rw [lossNoted_eq]
    exact ⟨rfl, rfl, rfl, rfl⟩
  obtain ⟨hnxm, hnsound, hnsets, hnstate⟩ := hnoted
  obtain ⟨v, hclips, hv⟩ := derive_sounds (u := lossNoted s) (y := stepEnding s) (by rw [hnxm]; exact hwf)
    (by rw [voicesLawful, hnsound]; exact hvoices) (stepEnding_sounds s)
    (by rw [State.soundSet, State.soundSet, hsets, hnsets]) (by rw [hbefore, hnstate])
  rw [hnstate, ← Shorts.derive_state] at hclips
  rw [step_ends hgo hrun]
  exact ⟨hsame, v, hclips, hv⟩

theorem lossNoted_step (s : State) : lossNoted s = if s.motion.sensor = .ok ∧ (regulationStep s).motion.sensor ≠ .ok
    then { s with
      port := withNotice s.port [.fault]
      status := { s.status with faultCount := s.status.faultCount + 1 } } else s := by
  rw [step_motion]
  rfl

/-- DRIVE at a duty within the cap, while R76 forces none. -/
theorem driveCommand_free {y : State} {duty : Nat} (direction : Direction) (hshed : y.supply.shed < 4)
    (hlatch : y.traction.latch = false) (hcap : duty ≤ y.tractionSet.dutyCap) : driveCommand y duty direction
      = .drive { duty := duty, direction := direction, freewheel := y.tractionSet.freewheel } := by
  have hlimit : limitDuty y duty = duty := by
    rw [limitDuty, if_neg, Nat.min_eq_right hcap]
    rintro (h | h)
    · exact absurd h (Nat.not_le_of_lt hshed)
    · rw [hlatch] at h
      cases h
  rw [driveCommand, hlimit]

/-- What the derivation of a step reads. -/
theorem stepEnding_reads {s : State} {d : DriveSet} (hcache : s.sets.cache = some d) :
    (stepEnding s).tractionSet = d.traction ∧ (stepEnding s).supply = s.supply
      ∧ (stepEnding s).traction.latch = s.traction.latch ∧ (stepEnding s).traction.u = (stepController s).u
      ∧ (stepEnding s).traction.direction = (stepController s).direction := by
  have hlatch : (stepController s).latch = s.traction.latch := by rw [stepController_eq]
  rw [stepEnding_eq]
  exact ⟨TractionTarget.tractionSet_of_cache hcache, rfl, hlatch, rfl, rfl⟩

/-- The duty of a step with a bridge in service and a shed level below 4, case by case (R68 to R72). -/
theorem stepController_duty {s : State} {d : DriveSet} (hgo : s.isRun = true) (hrun : s.balance.run = none)
    (hcache : s.sets.cache = some d) (hall : s.bridges.allLatched = false) (hshed : s.supply.shed < 4) :
    ((stepController s).c = 0 ∨ (began s).stepInputs.motion.sensor ≠ .ok → (stepController s).i = 0)
    ∧ ((stepController s).c = 0 → (stepController s).u = 0)
    ∧ ((began s).stepInputs.motion.sensor ≠ .ok →
        (stepController s).u = min d.traction.dutyCap ((stepController s).c * d.traction.gain / 65536))
    ∧ (stepController s).u ≤ d.traction.dutyCap := by
  obtain ⟨-, z, hzc, -, -, -, hforms⟩ := stepController_moves hgo hrun hcache hall hshed
  rw [← hzc, hforms]
  generalize (began s).stepInputs.motion.sensor = sensor
  generalize (began s).stepInputs.motion.m = m
  generalize ((chopsTurned s.bridges).a.chopFlag || (chopsTurned s.bridges).b.chopFlag) = chopped
  have hopen : sensor ≠ .ok → (z.formDuty d.traction sensor m chopped).i = 0
      ∧ (z.formDuty d.traction sensor m chopped).u = min d.traction.dutyCap (z.c * d.traction.gain / 65536) := by
    intro hno
    rw [formDuty_open _ _ hno]
    exact ⟨rfl, rfl⟩
  have hrest : z.c = 0 → (z.formDuty d.traction sensor m chopped).i = 0
      ∧ (z.formDuty d.traction sensor m chopped).u = 0 := by
    intro hstill
    by_cases hok : sensor = .ok
    · rw [hok, formDuty_rest _ _ _ hstill]
      exact ⟨rfl, rfl⟩
    · obtain ⟨hno, hduty⟩ := hopen hok
      exact ⟨hno, by rw [hduty, hstill]; simp⟩
  exact ⟨fun h => h.elim (fun h => (hrest h).1) (fun h => (hopen h).1), fun h => (hrest h).2, fun h => (hopen h).2,
    formDuty_cap _ _ _ _ _⟩

/-- The closed loop of a step (R68 to R70, R72). -/
theorem stepController_closed {s : State} {d : DriveSet} (hgo : s.isRun = true) (hrun : s.balance.run = none)
    (hcache : s.sets.cache = some d) (hall : s.bridges.allLatched = false) (hshed : s.supply.shed < 4)
    (hc : 0 < (stepController s).c) (hok : (began s).stepInputs.motion.sensor = .ok) (e : Int)
    (he : e = ((stepController s).c : Int) - (began s).stepInputs.motion.m) (i : Nat)
    (hi : i = if s.traction.lastSensor = .ok then s.traction.i else s.traction.prev * 1024) :
    (stepController s).i =
      (if (0 < e ∧ (s.traction.prev = 1023 ∨ d.traction.dutyCap ≤ s.traction.prev
            ∨ (s.bridges.a.chopRunning = true ∧ s.bridges.a.state ≠ .latched)
            ∨ (s.bridges.b.chopRunning = true ∧ s.bridges.b.state ≠ .latched)))
          ∨ (e < 0 ∧ s.traction.prev = 0) then i
        else (max 0 (min 1047552 ((i : Int) + d.traction.ki * e))).toNat)
    ∧ ((stepController s).u : Int) = max 0 (min (d.traction.dutyCap : Int)
        (((d.traction.kp : Int) * e).tdiv 64 + ((stepController s).i / 1024 : Nat))) := by
  obtain ⟨-, z, hzc, hzi, hzprev, hzlast, hforms⟩ := stepController_moves hgo hrun hcache hall hshed
  rw [← hzc] at hc he
  rw [← hzi, ← hzprev, ← hzlast] at hi
  have hseeded : i = seeded z := hi
  have hintegrates := formDuty_integrates d.traction (began s).stepInputs.motion.m
    ((chopsTurned s.bridges).a.chopFlag || (chopsTurned s.bridges).b.chopFlag) hc
  have hregulates := formDuty_regulates d.traction (began s).stepInputs.motion.m
    ((chopsTurned s.bridges).a.chopFlag || (chopsTurned s.bridges).b.chopFlag) hc
  rw [hok] at hforms
  rw [← hforms, ← he, ← hseeded, hzprev] at hintegrates
  rw [← hforms, ← he] at hregulates
  refine ⟨hintegrates.trans (ite_congr ?_ (fun _ => rfl) (fun _ => rfl)), hregulates⟩
  rw [turned_chopped]

/-- The command of a step with a bridge in service and a shed level below 4 (R75). -/
theorem step_commands {s : State} {d : DriveSet} (hgo : s.isRun = true) (hrun : s.balance.run = none)
    (hcache : s.sets.cache = some d) (hall : s.bridges.allLatched = false) (hshed : s.supply.shed < 4)
    (hstate : (regulationStep s).traction.state = if s.traction.latch = true then .estop
      else if (stepController s).pending = true then .reversing
      else if 0 < (stepController s).c ∨ 0 < (began s).stepInputs.motion.m then .running else .stopped) :
    (s.traction.latch = false → (stepController s).pending = true ∨ 0 < (stepController s).c
        ∨ 0 < (began s).stepInputs.motion.m →
      (regulationStep s).bridges.held = .drive {
        duty := (stepController s).u, direction := (stepController s).direction, freewheel := d.traction.freewheel })
    ∧ (s.traction.latch = true → (regulationStep s).bridges.held = .brake)
    ∧ ((regulationStep s).traction.state = .stopped → (regulationStep s).bridges.held = stopCommand d.traction) := by
  obtain ⟨hset, hsupply, hlatch, hduty, hturn⟩ := stepEnding_reads hcache
  obtain ⟨-, -, -, hcap⟩ := stepController_duty hgo hrun hcache hall hshed
  have hheld := step_held hgo hrun
  refine ⟨fun hno hmoving => ?_, fun hyes => ?_, fun hstopped => ?_⟩
  · have hdrive := driveCommand_free (y := stepEnding s) (duty := (stepController s).u) (stepController s).direction
      (by rw [hsupply]; exact hshed) (by rw [hlatch]; exact hno) (by rw [hset]; exact hcap)
    rw [hset] at hdrive
    rw [hheld, hstate, hno, if_neg (by decide)]
    split
    · rw [← hdrive, ← hduty, ← hturn]
      rfl
    · next hp =>
      rw [if_pos (hmoving.resolve_left hp), ← hdrive, ← hduty, ← hturn]
      rfl
  · rw [hheld, hstate, if_pos hyes]
    rfl
  · rw [hheld, hstopped, ← hset]
    rfl

/-- Settles O31: the stages of the controller, and the derivation at the end of the step. -/
theorem regulationStepRampsAndRegulates : Obligations.RegulationStepRampsAndRegulates := by
  unfold Obligations.RegulationStepRampsAndRegulates
  intro s d hgo hrun hcache
  have htraction := step_traction hgo hrun
  have hmotion := step_motion s
  have hheld := step_held hgo hrun
  have ht : (regulationStep s).traction.t = (stepController s).t := by rw [htraction]
  have hc : (regulationStep s).traction.c = (stepController s).c := by rw [htraction]
  have hi : (regulationStep s).traction.i = (stepController s).i := by rw [htraction]
  have hu : (regulationStep s).traction.u = (stepController s).u := by rw [htraction]
  have hdirection : (regulationStep s).traction.direction = (stepController s).direction := by rw [htraction]
  have hpending : (regulationStep s).traction.pending = (stepController s).pending := by rw [htraction]
  have hzero : (regulationStep s).traction.zeroHold = (stepController s).zeroHold := by rw [htraction]
  have hstate : (regulationStep s).traction.state = runningState s s.traction.latch (stepController s).pending
      (stepController s).c (regulationStep s).motion.m := by rw [htraction, hmotion]
  refine ⟨_, rfl, ?moves, ?held, ?faulted, ?zero, ?turns, by rw [htraction], by rw [htraction, hmotion],
    step_taken hgo hrun, by rw [htraction], step_station hgo hrun, ?sounds, step_frame hgo hrun⟩
  case moves =>
    intro hall hshed
    obtain ⟨hramp, -⟩ := stepController_moves hgo hrun hcache hall hshed
    obtain ⟨hrest, hstill, hopen, -⟩ := stepController_duty hgo hrun hcache hall hshed
    rw [runningState_moves _ _ _ _ hall hshed, hmotion] at hstate
    obtain ⟨hdrive, hbrake, hstop⟩ := step_commands hgo hrun hcache hall hshed hstate
    rw [hc, ht, hi, hu, hpending, hdirection, hmotion]
    exact ⟨hramp.trans (ramp_eq _ _ _), hrest, hstill, hopen,
      fun hpos hok e he i hi => stepController_closed hgo hrun hcache hall hshed hpos hok e he i hi,
      hstate, hdrive, hbrake, hstop⟩
  case held =>
    intro hall hshed
    obtain ⟨hsc, hsi, hsu⟩ := stepController_still hgo hrun (.inr hshed)
    rw [runningState_held _ _ _ _ hall hshed] at hstate
    rw [hheld, hstate, hc, hi, hu, hsc, hall]
    exact ⟨rfl, hsi, hsu, rfl, rfl⟩
  case faulted =>
    intro hall
    obtain ⟨hsc, hsi, hsu⟩ := stepController_still hgo hrun (.inl hall)
    rw [runningState_faulted _ _ _ _ hall] at hstate
    rw [hheld, hstate, hc, hi, hu, hsc, hall]
    exact ⟨rfl, hsi, hsu, rfl, rfl⟩
  case zero =>
    rw [hzero, hc]
    exact congrArg Traction.zeroHold (stepController_eq s)
  case turns =>
    rw [hc, hzero, hdirection, hpending, hmotion]
    exact stepController_turns s
  case sounds =>
    intro hwf hvoices
    obtain ⟨hsame, v, hclips, h1, h2, h3, h4⟩ := step_sounds hgo hrun hwf hvoices
    refine ⟨hsame, fun u hu => ⟨v, ?_, h1, h2, h3, h4⟩⟩
    rw [hu, ← lossNoted_step]
    exact hclips

end Sys2Proof.RegulationSteps
end

section
/-! PROOFS. A regulation step during a balance run (R82, R106, R107, R110). -/

namespace Sys2Proof.BalanceSteps
open Sys2Proof.Machine Sys2Proof.Safety Sys2Proof.Notices Sys2Proof.EmergencyStops Sys2Proof.RegulationInputs
open Sys2Proof.StepEnds Sys2Proof.RegulationSteps

/-! ## The loss of the sensor -/

theorem lossFound_iff {s : State} (hgo : s.isRun = true) : lossFound (began s) ↔ (decide (s.motion.sensor = .ok)
    && decide (256 ≤ s.traction.lowest)
    && decide (250 ≤ if s.motion.edgeSinceStep then s.motion.loss else s.motion.loss + 1)) = true := by
  have happlied : applied (began s) = s.traction.lowest := if_pos hgo
  simp only [lossFound, happlied, Motion.lossAfter, Bool.and_eq_true, decide_eq_true_eq]
  change s.motion.sensor = .ok ∧ 250 ≤ (if s.traction.lowest < 256 then 0
    else if s.motion.edgeSinceStep = true then s.motion.loss else s.motion.loss + 1) ↔ _
  by_cases hlow : s.traction.lowest < 256
  · simp [hlow, Nat.not_le_of_lt hlow]
  · simp [hlow, Nat.le_of_not_lt hlow]

/-! ## A step that the run goes on at -/

/-- The part before the sequencer works. -/
def atRest (s : State) (direction : Direction) : State :=
  { began s with
    bridges := chopsTurned s.bridges, motion := calmMotion (began s)
    traction := { s.traction with
      t := 0, c := 0, i := 0, zeroHold := 0, pending := false, direction := direction
      lastM := (calmMotion (began s)).m } }

theorem regulationStep_balance {s : State} {r : BalanceRun} (hgo : s.isRun = true) (hrun : s.balance.run = some r)
    (hcalm : ¬lossFound (began s)) : regulationStep s =
      (let v := (atRest s r.direction).balanceStep (calmMotion (began s)).m
        if v.balance.run.isSome then v.onTraction fun t => { t with u := (balanceCommand v).duty } else v).stepEnds := by
  have hcontrol : ∀ u : State, u.isRun = true → u.balance.run = some r → u.control = u.balanceControl r.direction := by
    intro u hu hsome
    simp [State.control, hu, hsome]
  rw [regulationStep_eq, stepInputs_calm hcalm]
  exact congrArg State.stepEnds (hcontrol _ hgo hrun)

/-- A run that is there still after the sequencer's work, which has made `r` of it and may have written `m`. -/
def working (s : State) (direction : Direction) (m : Memory) (granted : Requester) (r : BalanceRun) : State :=
  { atRest s direction with xm := m, lastGranted := granted, balance := { run := some r } }

/-- The duty that the sequencer directs is taken up. -/
def directed (v : State) : State := v.onTraction fun t => { t with u := (balanceCommand v).duty }

theorem step_working {s : State} {r r' : BalanceRun} {m : Memory} {granted : Requester} (hgo : s.isRun = true)
    (hrun : s.balance.run = some r) (hcalm : ¬lossFound (began s))
    (hworks : (atRest s r.direction).balanceStep (calmMotion (began s)).m = working s r.direction m granted r') :
    regulationStep s = (directed (working s r.direction m granted r')).stepEnds := by
  rw [regulationStep_balance hgo hrun hcalm, hworks]
  rfl

/-- The command of a run that goes on reads the duties, the cap and the limits of R76 alone. -/
theorem working_command (s : State) (direction : Direction) (m : Memory) (granted : Requester) (r : BalanceRun) (u : State)
    (hu : u = working s direction m granted r ∨ u = ending (directed (working s direction m granted r))) :
    balanceCommand u = if r.driving = true ∧ r.held = false then .drive {
        duty := if 4 ≤ s.supply.shed ∨ s.traction.latch = true then 0
          else min s.tractionSet.dutyCap (r.duties.getD (r.step - 1) 0)
        direction := r.direction, freewheel := s.tractionSet.freewheel }
      else stopCommand s.tractionSet := by
  have hread : ∀ w : State, w.balance.run = some r → w.tractionSet = s.tractionSet → w.supply = s.supply →
      w.traction.latch = s.traction.latch → balanceCommand w = if r.driving = true ∧ r.held = false then .drive {
        duty := if 4 ≤ s.supply.shed ∨ s.traction.latch = true then 0
          else min s.tractionSet.dutyCap (r.duties.getD (r.step - 1) 0)
        direction := r.direction, freewheel := s.tractionSet.freewheel }
      else stopCommand s.tractionSet := by
    intro w hrun hset hsupply hlatch
    simp only [balanceCommand, hrun, BalanceRun.testDuty, driveCommand, limitDuty, hset, hsupply, hlatch]
    cases r.driving <;> cases r.held <;> rfl
  rcases hu with rfl | rfl
  · exact hread _ rfl rfl rfl rfl
  · exact hread _ rfl rfl rfl rfl

/-- A step that leaves a run there is silent, and derives BALANCE (R73, R82). -/
theorem working_derived {s : State} {direction : Direction} {m : Memory} {granted : Requester} {r : BalanceRun}
    (hgo : s.isRun = true) : stateOf (ending (directed (working s direction m granted r))) = .balance
      ∧ derivedSilently (ending (directed (working s direction m granted r)))
        (ending (directed (working s direction m granted r))).derive := by
  have hgo' : (ending (directed (working s direction m granted r))).isRun = true := hgo
  have hsome : (ending (directed (working s direction m granted r))).balance.run ≠ none := Option.some_ne_none r
  have hstate : stateOf (ending (directed (working s direction m granted r))) = .balance := by
    rw [stateOf, if_neg (by simp [hgo']), if_pos hsome]
  exact ⟨hstate, derive_silent (by rw [hstate]; decide) (by rw [hstate]; decide)⟩

/-- The step of a run that goes on, whole (R82, R106). -/
theorem working_ends {s : State} {direction : Direction} {m : Memory} {granted : Requester} {r : BalanceRun}
    (hgo : s.isRun = true) {command : Command} (hcommand : command = if r.driving = true ∧ r.held = false then .drive {
        duty := if 4 ≤ s.supply.shed ∨ s.traction.latch = true then 0
          else min s.tractionSet.dutyCap (r.duties.getD (r.step - 1) 0)
        direction := r.direction, freewheel := s.tractionSet.freewheel }
      else stopCommand s.tractionSet) {t : State} (ht : t = (directed (working s direction m granted r)).stepEnds) :
    t.bridges.held = command
    ∧ t = { atRest s direction with
      xm := m, lastGranted := granted, balance := { run := some r }
      traction := { s.traction with
        t := 0, c := 0, i := 0, u := command.duty, prev := command.duty, direction := direction, pending := false
        zeroHold := 0
        lastSensor := (calmMotion (began s)).sensor, state := .balance, lastM := (calmMotion (began s)).m
        lowest := t.bridges.drivenDuty }
      bridges := { s.bridges with held := t.bridges.held, a := t.bridges.a, b := t.bridges.b } } := by
  obtain ⟨hstate, -, hheld, hframe⟩ := working_derived (direction := direction) (m := m) (granted := granted) (r := r) hgo
  rw [hstate] at hheld hframe
  have hbefore := working_command s direction m granted r _ (.inl rfl)
  have hafter := working_command s direction m granted r _ (.inr rfl)
  rw [← hcommand] at hbefore hafter
  have hhands : t.bridges.held = command := by
    rw [ht, stepEnds_eq]
    refine hheld.trans ?_
    rw [← commandFor_eq]
    exact hafter
  refine ⟨hhands, ?_⟩
  have hu : (directed (working s direction m granted r)).traction.u = command.duty := congrArg Command.duty hbefore
  rw [stepEnds_eq] at ht
  generalize (ending (directed (working s direction m granted r))).derive = w at ht hframe
  have hbridges : t.bridges = w.bridges := by rw [ht]
  rw [hbridges]
  generalize w.bridges.drivenDuty = n at ht hframe ⊢
  rw [ht]
  conv_lhs => rw [hframe]
  rw [← hu]
  rfl

/-- A step during a run, as far as it is the same whatever the sequencer does (R82). -/
def steppedOn (s t : State) (direction : Direction) : Prop :=
  t.traction.t = 0 ∧ t.traction.c = 0 ∧ t.traction.i = 0 ∧ t.traction.zeroHold = 0
    ∧ t.traction.pending = false ∧ t.traction.direction = direction ∧ t.traction.latch = s.traction.latch
    ∧ (t.balance.run ≠ none → t.traction.state = .balance ∧ t.radio = s.radio ∧ t.port = s.port
        ∧ t.sound = s.sound ∧ t.orders = s.orders ∧ t.status = s.status
        ∧ stepEnded { s with
            clock := t.clock, timers := t.timers, xm := t.xm, lastGranted := t.lastGranted
            balance := t.balance, bridges := chopsTurned s.bridges } t)

/-- What a step during a run leaves of the rest, and its own timer. -/
def steppedBeside (s t : State) : Prop :=
  t.sets = s.sets ∧ t.supply = s.supply ∧ t.lamps = s.lamps ∧ t.clock = max s.clock s.timers.regulation
    ∧ t.timers = { s.timers with regulation := t.clock + 8 * 1024000 }

theorem working_step {s : State} {r r' : BalanceRun} {m : Memory} {granted : Requester} {command : Command}
    (hgo : s.isRun = true) (hrun : s.balance.run = some r) (hcalm : ¬lossFound (began s))
    (hvoices : voicesLawful s) (hm : m.wf = true)
    (hworks : (atRest s r.direction).balanceStep (calmMotion (began s)).m = working s r.direction m granted r')
    (hcommand : command = if r'.driving = true ∧ r'.held = false then .drive {
        duty := if 4 ≤ s.supply.shed ∨ s.traction.latch = true then 0
          else min s.tractionSet.dutyCap (r'.duties.getD (r'.step - 1) 0)
        direction := r'.direction, freewheel := s.tractionSet.freewheel }
      else stopCommand s.tractionSet) :
    steppedOn s (regulationStep s) r.direction ∧ steppedBeside s (regulationStep s)
      ∧ (regulationStep s).balance.run = some r' ∧ (regulationStep s).xm = m
      ∧ (regulationStep s).bridges.held = command ∧ (regulationStep s).traction.u = command.duty := by
  have hstep := step_working hgo hrun hcalm hworks
  obtain ⟨hheld, hframe⟩ := working_ends hgo hcommand hstep
  have hended : stepEnded { s with
      clock := max s.clock s.timers.regulation
      timers := { s.timers with regulation := max s.clock s.timers.regulation + 8 * 1024000 }
      xm := m, lastGranted := granted, balance := { run := some r' }, bridges := chopsTurned s.bridges }
      (directed (working s r.direction m granted r')).stepEnds := stepEnds_ended rfl hm hvoices
  rw [← hstep] at hended
  generalize regulationStep s = t at hheld hframe hended
  have htraction := congrArg State.traction hframe
  generalize t.bridges.drivenDuty = n at hframe htraction
  refine ⟨⟨by rw [htraction], by rw [htraction], by rw [htraction], by rw [htraction], by rw [htraction],
    by rw [htraction], by rw [htraction], fun _ => ⟨by rw [htraction], by rw [hframe]; rfl, by rw [hframe]; rfl,
      by rw [hframe]; rfl, by rw [hframe]; rfl, by rw [hframe]; rfl, ?_⟩⟩,
    ⟨by rw [hframe]; rfl, by rw [hframe]; rfl, by rw [hframe]; rfl, by rw [hframe]; rfl, by rw [hframe]; rfl⟩,
    by rw [hframe], by rw [hframe], hheld, by rw [htraction]⟩
  have hclock : t.clock = max s.clock s.timers.regulation := by rw [hframe]; rfl
  have htimers : t.timers = { s.timers with regulation := max s.clock s.timers.regulation + 8 * 1024000 } := by
    rw [hframe]; rfl
  have hxm : t.xm = m := by rw [hframe]
  have hgranted : t.lastGranted = granted := by rw [hframe]
  have hbalance : t.balance = { run := some r' } := by rw [hframe]
  rw [hclock, htimers, hxm, hgranted, hbalance]
  exact hended

/-! ## What the sequencer makes of the run (R106) -/

theorem atRest_working {s : State} {r : BalanceRun} (hrun : s.balance.run = some r) (direction : Direction) :
    atRest s direction = working s direction s.xm s.lastGranted r := by
  have hbalance : s.balance = { run := some r } := by rw [← hrun]
  unfold working
  rw [← hbalance]
  rfl

theorem balanceStep_held {v : State} {r : BalanceRun} (m : Nat) (hrun : v.balance.run = some r) (hheld : r.held = true) :
    v.balanceStep m = v := by
  simp [State.balanceStep, hrun, hheld]

theorem balanceStep_begins {v : State} {r : BalanceRun} (m : Nat) (hrun : v.balance.run = some r) (hheld : r.held = false)
    (hrest : r.driving = false) : v.balanceStep m = v.beginRunStep r := by
  simp [State.balanceStep, hrun, hheld, hrest]

/-- A step in progress, one period further (R106). -/
theorem balanceStep_drives {v : State} {r : BalanceRun} (m : Nat) (hrun : v.balance.run = some r) (hheld : r.held = false)
    (hdrives : r.driving = true) : v.balanceStep m =
      if (r.countPeriod m).period < (r.countPeriod m).periods then
        v.onBalance fun b => { b with run := some (r.countPeriod m) }
      else if (r.countPeriod m).completeStep.step < (r.countPeriod m).completeStep.steps then
        v.beginRunStep { (r.countPeriod m).completeStep with step := (r.countPeriod m).completeStep.step + 1 }
      else v.finishRun (r.countPeriod m).completeStep := by
  simp [State.balanceStep, hrun, hheld, hdrives]

theorem countPeriod_eq (r : BalanceRun) (m : Nat) : r.countPeriod m = { r with
    period := r.period + 1
    sum := if 125 * r.holdTime / 2 < r.period + 1 then r.sum + m else r.sum
    count := if 125 * r.holdTime / 2 < r.period + 1 then r.count + 1 else r.count } := by
  by_cases hmeasures : 125 * r.holdTime / 2 < r.period + 1
  · rw [if_pos hmeasures, if_pos hmeasures]
    exact if_pos hmeasures
  · rw [if_neg hmeasures, if_neg hmeasures]
    exact if_neg hmeasures

/-- A step that begins is written into the slot (R106). -/
theorem stepWritten {m : Memory} {slot : Nat} (v : Byte) (hwf : m.wf = true) (hslot : slot < 32) :
    (m.write (slotBase slot + 0x29) v).read (slotBase slot + 0x29) = v
    ∧ sameBut m (m.write (slotBase slot + 0x29) v) (fun a => a = slotBase slot + 0x29) := by
  refine ⟨Memory.read_write_same _ _ hwf, fun a ha hout => Memory.read_write_other _ hwf fun heq => hout ?_⟩
  simp only [slotBase] at heq ⊢
  omega

theorem beginRunStep_working {s : State} (direction : Direction) (r : BalanceRun) : (atRest s direction).beginRunStep r
    = working s direction (s.xm.write (slotBase r.slot + 0x29) (loByte r.step)) .orderEngine r.beginStep := rfl

/-! ## The end of a run at a step (R107, R108) -/

/-- What the end of a run reaches. -/
theorem closeRun_frame (s : State) (r : BalanceRun) (outcome : OutcomeCode) (g : Nat) : s.closeRun r outcome g = { s with
    xm := (s.closeRun r outcome g).xm, lastGranted := .orderEngine
    orders := { s.orders with held := s.orders.held.filter fun k => decide (k ≠ r.slot) }
    port := (s.closeRun r outcome g).port, status := (s.closeRun r outcome g).status
    traction := { s.traction with
      c := 0, i := 0, u := 0, state := (s.closeRun r outcome g).traction.state
      lowest := (s.closeRun r outcome g).traction.lowest }
    bridges := { s.bridges with
      held := (s.closeRun r outcome g).bridges.held, a := (s.closeRun r outcome g).bridges.a
      b := (s.closeRun r outcome g).bridges.b }
    balance := { run := none }
    radio := { s.radio with
      lease := .none, failsafe := false, request := { s.radio.request with throttle := 0 }
      station := (s.closeRun r outcome g).radio.station }
    sound := (s.closeRun r outcome g).sound } := by
  rw [State.closeRun_eq]
  generalize (s.completeSlot r.slot outcome r.written (runResult r g)).xm = m
  exact derive_eq _

/-- What the end of a step reaches. -/
theorem stepEnds_frame (s : State) : s.stepEnds = { s with
    xm := s.stepEnds.xm, port := s.stepEnds.port, status := s.stepEnds.status, sound := s.stepEnds.sound
    traction := s.stepEnds.traction
    bridges := { s.bridges with
      held := s.stepEnds.bridges.held, a := s.stepEnds.bridges.a, b := s.stepEnds.bridges.b }
    radio := { s.radio with station := s.stepEnds.radio.station } } := by
  have hframe := derive_eq (ending s)
  rw [stepEnds_eq]
  generalize (ending s).derive = t at hframe
  have htraction : t.traction = { (ending s).traction with state := t.traction.state, lowest := t.traction.lowest } := by
    rw [hframe]
  generalize t.bridges.drivenDuty = n
  rw [htraction]
  conv_lhs => rw [hframe]
  rfl

theorem stepEnds_same {s : State} (hwf : s.xm.wf = true) (hvoices : voicesLawful s) :
    sameBut s.xm s.stepEnds.xm inSegments := by
  obtain ⟨-, hsame⟩ := State.derive_kept (ending s) hwf hvoices
  exact hsame

/-- The end of a run stands after the end of the step (R107, R108). -/
theorem closed_ends {v : State} {r : BalanceRun} {outcome : OutcomeCode} {g : Nat} (hwf : v.xm.wf = true)
    (hvoices : voicesLawful v) (hslot : r.slot < 32) {t : State} (ht : t = (v.closeRun r outcome g).stepEnds) :
    (∃ w : State, runCloses v w r outcome g ∧ stepEnded w t)
    ∧ slotDone t.xm r.slot outcome r.written
        ((List.range 4).flatMap (fun k => bytes16 (r.rates.getD k 0)) ++ bytes16 g
          ++ (List.range 4).flatMap (fun k => bytes16 (r.duties.getD k 0))
          ++ [BitVec.ofNat 8 r.holdTime, BitVec.ofNat 8 r.rates.length])
    ∧ t.port.notice.getLsbD 0 = true ∧ t.port.notice.getLsbD 5 = true
    ∧ sameBut v.xm t.xm (fun a => inSlot r.slot a ∨ inSegments a) := by
  obtain ⟨hcloses, hvoices'⟩ := v.closeRun_closes r outcome g hwf hvoices hslot
  have hwf' : (v.closeRun r outcome g).xm.wf = true := State.closeRun_wf v r outcome g hwf
  have hended : stepEnded (v.closeRun r outcome g) (v.closeRun r outcome g).stepEnds := stepEnds_ended rfl hwf' hvoices'
  have hsame := stepEnds_same hwf' hvoices'
  have hraised : ∀ b ∈ [NoticeBit.order, .control], t.port.notice.getLsbD b.index = true := by
    intro b hb
    rw [ht]
    refine noticesOnly_keeps (noticesOnly_stepEnds _) ?_
    rw [State.closeRun_eq]
    exact noticesOnly_keeps (noticesOnly_derive _) (raised_of_mem hb)
  rw [← ht] at hended hsame
  obtain ⟨u, hdone, hslotOnly, hu, hderived, hsegments⟩ := hcloses
  have hall := sameBut_trans hsegments hsame
  exact ⟨⟨_, ⟨u, hdone, hslotOnly, hu, hderived, hsegments⟩, hended⟩,
    slotDone_of_same hdone hall hslot (fun a => inSlot_segments hslot),
    hraised .order (by simp), hraised .control (by simp),
    sameBut_trans (sameBut_weaken hslotOnly fun a ha => .inl ha) (sameBut_weaken hall fun a ha => .inr ha)⟩

theorem stepGains_eq (duties rates : List Nat) : (duties.zip rates).filterMap (fun p =>
    if p.2 = 0 then none else some (p.1 * 65536 / p.2)) = stepGains duties rates := rfl

/-- The outcome of a run with results (R107). -/
theorem resultOutcome_eq (r : BalanceRun) : resultOutcome r = if r.rates.all (fun x => decide (x = 0)) then .failedNoMotion
    else if r.adjusted = true ∨ 65535 < rawGain r.duties r.rates then .adjusted else .ok := by
  simp only [resultOutcome, Bool.or_eq_true, decide_eq_true_eq]

/-- The step at which the last step of a run is complete (R107). -/
theorem finishing_step {s : State} {r r' : BalanceRun} (hgo : s.isRun = true) (hrun : s.balance.run = some r)
    (hcalm : ¬lossFound (began s))
    (hfinishes : (atRest s r.direction).balanceStep (calmMotion (began s)).m = (atRest s r.direction).finishRun r') :
    regulationStep s = ((atRest s r.direction).closeRun r' (resultOutcome r')
      (min 65535 (rawGain r'.duties r'.rates))).stepEnds := by
  have hover : ((atRest s r.direction).finishRun r').balance.run = none := by
    rw [State.finishRun, closeRun_frame]
  rw [regulationStep_balance hgo hrun hcalm, hfinishes]
  simp only [hover]
  rfl

/-! ## The loss of the sensor ends the run (R54, R110) -/

/-- A controller at rest stays so under a throttle of 0 without the sensor (R64, R70, R80, R81). -/
theorem controlStep_atRest {y : State} (chopped : Bool) (hthrottle : y.radio.request.throttle = 0) (hc : y.traction.c = 0)
    (hsensor : y.motion.sensor ≠ .ok) : (controlStep y chopped).t = 0 ∧ (controlStep y chopped).c = 0
      ∧ (controlStep y chopped).i = 0 ∧ (controlStep y chopped).u = 0 := by
  have ht : (controlStep y chopped).t = 0 := by
    rw [TractionTarget.controlStep_t]
    exact if_pos (by simp [targetForced, hthrottle])
  by_cases hmoves : moves (derivedState y)
  · have hramp : (controlStep y chopped).c = 0 := by
      rw [controlStep_ramps chopped hmoves, ht, hc]
      simp [ramp]
    have hsettled : (settled y).c = 0 := by
      rw [settled_eq, ← hramp, controlStep_c]
    have hforms := controlStep_forms chopped hmoves
    rw [formDuty_open _ _ hsensor, hsettled] at hforms
    exact ⟨ht, hramp, by rw [hforms], by rw [hforms]; simp⟩
  · have hstill : derivedState y = .held ∨ derivedState y = .faulted := by
      unfold moves at hmoves
      by_contra hno
      exact hmoves ⟨fun h => hno (.inl h), fun h => hno (.inr h)⟩
    obtain ⟨hrest, hi, hu⟩ := controlStep_still chopped hstill
    rw [hc, ite_self] at hrest
    exact ⟨ht, hrest, hi, hu⟩

/-- The part once the loss has ended the run. -/
def runLost (s : State) (r : BalanceRun) : State := (faulted (began s)).closeRun r .failedSensor 0

/-- The controller of the step that has found the loss. -/
def lostController (s : State) (r : BalanceRun) : Traction :=
  controlStep (rated (runLost s r) (s.motion.decayed (captureClock (began s))))
    ((runLost s r).bridges.a.chopFlag || (runLost s r).bridges.b.chopFlag)

/-- The part before the end of the step that has found the loss. -/
def lostSteered (s : State) (r : BalanceRun) : State :=
  { rated (runLost s r) (s.motion.decayed (captureClock (began s))) with traction := lostController s r }

theorem runLost_frame (s : State) (r : BalanceRun) : runLost s r = { began s with
    xm := (runLost s r).xm, lastGranted := .orderEngine
    orders := { s.orders with held := s.orders.held.filter fun k => decide (k ≠ r.slot) }
    port := { s.port with notice := (runLost s r).port.notice }
    status := { s.status with faultCount := (runLost s r).status.faultCount }
    motion := { lostMotion (began s) with m := s.motion.m }
    traction := { s.traction with
      c := 0, i := 0, u := 0, state := (runLost s r).traction.state, lowest := (runLost s r).traction.lowest }
    bridges := { s.bridges with
      held := (runLost s r).bridges.held, a := (runLost s r).bridges.a, b := (runLost s r).bridges.b }
    balance := { run := none }
    radio := { s.radio with
      lease := .none, failsafe := false, request := { s.radio.request with throttle := 0 }
      station := (runLost s r).radio.station }
    sound := (runLost s r).sound } := by
  have hframe := closeRun_frame (faulted (began s)) r .failedSensor 0
  obtain ⟨⟨bits, hbits⟩, hstatus⟩ := noticesOnly_closeRun (faulted (began s)) r .failedSensor 0
  unfold runLost
  generalize (faulted (began s)).closeRun r .failedSensor 0 = w at hframe hbits hstatus
  have hport : w.port = { s.port with notice := w.port.notice } := by rw [hbits]; rfl
  have hcount : w.status = { s.status with faultCount := w.status.faultCount } := hstatus
  rw [← hport, ← hcount]
  exact hframe

theorem regulationStep_lost {s : State} {r : BalanceRun} (hgo : s.isRun = true) (hrun : s.balance.run = some r)
    (hlost : lossFound (began s)) : regulationStep s = (lostSteered s r).stepEnds := by
  have hend : (faulted (began s)).endRun .failedSensor = runLost s r := by
    have hrun' : (faulted (began s)).balance.run = some r := hrun
    simp only [State.endRun, hrun']
    rfl
  have hframe := runLost_frame s r
  have hgo' : (rated (runLost s r) (s.motion.decayed (captureClock (began s)))).isRun = true := by
    have hport : (runLost s r).port.run = s.port.run := by rw [hframe]
    have : (runLost s r).isRun = s.isRun := by rw [State.isRun, State.isRun, hport]
    exact this.trans hgo
  have hrun' : (rated (runLost s r) (s.motion.decayed (captureClock (began s)))).balance.run = none := by
    rw [hframe]
    rfl
  rw [regulationStep_eq, stepInputs_lost hlost, hend]
  exact congrArg State.stepEnds (TractionTarget.control_of_no_run hgo' hrun')

theorem lostController_eq (s : State) (r : BalanceRun) : (lostController s r).t = 0 ∧ (lostController s r).c = 0
    ∧ (lostController s r).i = 0 ∧ (lostController s r).u = 0 ∧ (lostController s r).latch = s.traction.latch
    ∧ (lostController s r).lastM = s.motion.decayed (captureClock (began s))
    ∧ (lostController s r).state = (runLost s r).traction.state
    ∧ (lostController s r).lowest = (runLost s r).traction.lowest := by
  have hframe := runLost_frame s r
  have hthrottle : (runLost s r).radio.request.throttle = 0 := by rw [hframe]
  have hc : (runLost s r).traction.c = 0 := by rw [hframe]
  have hlatch : (runLost s r).traction.latch = s.traction.latch := by rw [hframe]
  have hsensor : (runLost s r).motion.sensor ≠ .ok := by
    rw [hframe]
    simp [lostMotion]
  obtain ⟨h1, h2, h3, h4⟩ := controlStep_atRest (y := rated (runLost s r) (s.motion.decayed (captureClock (began s))))
    ((runLost s r).bridges.a.chopFlag || (runLost s r).bridges.b.chopFlag) hthrottle hc hsensor
  have hstep := controlStep_eq (rated (runLost s r) (s.motion.decayed (captureClock (began s))))
    ((runLost s r).bridges.a.chopFlag || (runLost s r).bridges.b.chopFlag)
  change lostController s r = _ at hstep
  refine ⟨h1, h2, h3, h4, ?_, ?_, ?_, ?_⟩
  · rw [hstep, ← hlatch]
    rfl
  · rw [hstep]
    rfl
  · rw [hstep]
    rfl
  · rw [hstep]
    rfl

/-- The state that a controller at rest derives once a run has ended. -/
theorem rated_state {s w : State} {c : Traction} (m : Nat) (hgo : s.isRun = true) (hport : w.port.run = s.port.run)
    (hrun : w.balance.run = none) (hall : w.bridges.allLatched = s.bridges.allLatched) (hsupply : w.supply = s.supply) :
    derivedState (ending { rated w m with traction := c }) = runningState s c.latch c.pending c.c c.lastM := by
  have hgo' : (ending { rated w m with traction := c }).isRun = true := by
    change decide (w.port.run = .run) = true
    rw [hport]
    exact hgo
  exact derivedState_running hgo' hrun hall (congrArg Supply.shed hsupply)

theorem lost_state {s : State} {r : BalanceRun} (hgo : s.isRun = true) :
    derivedState (ending (lostSteered s r)) = runningState s s.traction.latch (lostController s r).pending 0
      (s.motion.decayed (captureClock (began s))) := by
  have hframe := runLost_frame s r
  obtain ⟨-, hc, -, -, hlatch, hm, -, -⟩ := lostController_eq s r
  have hall : (runLost s r).bridges.allLatched = s.bridges.allLatched := by
    obtain ⟨u, hclose, -, -, hbridges, -⟩ := Shorts.closeRun_derives (faulted (began s)) r .failedSensor
    have hhanded := Shorts.handedOn_allLatched (Shorts.derive_handedOn u)
    rw [← hclose, hbridges] at hhanded
    exact Bool.eq_iff_iff.2 hhanded
  have hport : (runLost s r).port.run = s.port.run := by rw [hframe]
  have hrun : (runLost s r).balance.run = none := by rw [hframe]
  have hsupply : (runLost s r).supply = s.supply := by rw [hframe]; rfl
  rw [← hlatch, ← hm, ← hc]
  exact rated_state _ hgo hport hrun hall hsupply

/-- What the step that has found the loss reaches. -/
theorem lostSteered_frame (s : State) (r : BalanceRun) : (lostSteered s r).stepEnds = { s with
    clock := max s.clock s.timers.regulation, xm := (lostSteered s r).stepEnds.xm, lastGranted := .orderEngine
    port := { s.port with notice := (lostSteered s r).stepEnds.port.notice }
    orders := { s.orders with held := s.orders.held.filter fun k => decide (k ≠ r.slot) }
    status := { s.status with faultCount := (lostSteered s r).stepEnds.status.faultCount }
    timers := { s.timers with regulation := (lostSteered s r).stepEnds.clock + 8 * 1024000 }
    motion := (lostSteered s r).stepEnds.motion, traction := (lostSteered s r).stepEnds.traction
    balance := { run := none }
    bridges := { s.bridges with
      held := (lostSteered s r).stepEnds.bridges.held, a := (lostSteered s r).stepEnds.bridges.a
      b := (lostSteered s r).stepEnds.bridges.b }
    radio := { s.radio with
      lease := .none, failsafe := false, request := { s.radio.request with throttle := 0 }
      station := (lostSteered s r).stepEnds.radio.station }
    sound := (lostSteered s r).stepEnds.sound } := by
  have hends := stepEnds_frame (lostSteered s r)
  obtain ⟨⟨bits, hbits⟩, hstatus⟩ := noticesOnly_stepEnds (lostSteered s r)
  have hframe := runLost_frame s r
  have hsteered : lostSteered s r = { runLost s r with
      motion := (lostSteered s r).motion, traction := (lostSteered s r).traction } := rfl
  generalize (lostSteered s r).stepEnds = t at hends hbits hstatus
  generalize lostSteered s r = z at hends hbits hstatus hsteered
  generalize runLost s r = w at hframe hsteered
  have hport : t.port = { s.port with notice := t.port.notice } := by
    rw [hbits, hsteered, hframe]
    rfl
  have hcount : t.status = { s.status with faultCount := t.status.faultCount } := by
    rw [hstatus, hsteered, hframe]
  have hclock : t.clock = max s.clock s.timers.regulation := by
    rw [hends, hsteered, hframe]
    rfl
  have hmotion : t.motion = z.motion := by rw [hends]
  rw [← hport, ← hcount, hclock, hmotion]
  refine hends.trans ?_
  generalize z.motion = motion at hsteered ⊢
  generalize z.traction = traction at hsteered
  rw [hsteered, hframe]
  rfl

/-- The end of a step whose controller keeps the state and the lowest duty that the end of the run has left. -/
theorem rated_ends {w t : State} {c : Traction} {m : Nat} (ht : t = State.stepEnds { rated w m with traction := c })
    (hstate : c.state = w.traction.state) (hlowest : c.lowest = w.traction.lowest) (hwf : w.xm.wf = true)
    (hvoices : voicesLawful w) : stepEnded w t ∧ sameBut w.xm t.xm inSegments ∧ noticesOnly w t ∧ t.balance = w.balance
      ∧ t.radio.lease = w.radio.lease ∧ t.radio.request = w.radio.request := by
  have hframe := stepEnds_frame { rated w m with traction := c }
  have hended : stepEnded w (State.stepEnds { rated w m with traction := c }) := by
    refine stepEnds_ended ?_ hwf hvoices
    rw [← hstate, ← hlowest]
    rfl
  have hsame : sameBut w.xm (State.stepEnds { rated w m with traction := c }).xm inSegments := stepEnds_same hwf hvoices
  have hnotices : noticesOnly w (State.stepEnds { rated w m with traction := c }) := noticesOnly_stepEnds _
  rw [← ht] at hframe hended hsame hnotices
  exact ⟨hended, hsame, hnotices, by rw [hframe]; rfl, by rw [hframe]; rfl, by rw [hframe]; rfl⟩

theorem lost_ends {s : State} {r : BalanceRun} (hwf : s.xm.wf = true) (hgo : s.isRun = true)
    (hrun : s.balance.run = some r) (hslot : r.slot < 32) (hvoices : voicesLawful s) (hlost : lossFound (began s)) :
    runCloses (faulted (began s)) (runLost s r) r .failedSensor 0
    ∧ stepEnded (runLost s r) (regulationStep s) ∧ runEnded (regulationStep s) r .failedSensor
    ∧ sameBut s.xm (regulationStep s).xm (fun a => inSlot r.slot a ∨ inSegments a) := by
  have hwf0 : (faulted (began s)).xm.wf = true := hwf
  obtain ⟨hcloses, hvoices'⟩ := (faulted (began s)).closeRun_closes r .failedSensor 0 hwf0 hvoices hslot
  have hended : runEnded (runLost s r) r .failedSensor := closeRun_ended .failedSensor hwf0 hvoices hslot
  have hwf' : (runLost s r).xm.wf = true := State.closeRun_wf _ r .failedSensor 0 hwf0
  obtain ⟨-, -, -, -, -, -, hstate, hlowest⟩ := lostController_eq s r
  obtain ⟨hsteps, hsame, hnotices, hbalance, hlease, hrequest⟩ := rated_ends (regulationStep_lost hgo hrun hlost) hstate
    hlowest hwf' hvoices'
  refine ⟨hcloses, hsteps, runEnded_of_same hended hslot hbalance hsame (fun a => inSlot_segments hslot) hlease hrequest
    hnotices, ?_⟩
  obtain ⟨u, -, hslotOnly, -, -, hsegments⟩ := hcloses
  exact sameBut_trans (sameBut_weaken hslotOnly fun a ha => .inl ha)
    (sameBut_weaken (sameBut_trans hsegments hsame) fun a ha => .inr ha)

/-- The controller after the step that has found the loss. -/
theorem lost_traction {s : State} {r : BalanceRun} (hgo : s.isRun = true) {t : State} (ht : t = (lostSteered s r).stepEnds) :
    t.traction.t = 0 ∧ t.traction.c = 0 ∧ t.traction.i = 0 ∧ t.traction.u = 0 ∧ t.traction.prev = 0
    ∧ t.traction.latch = s.traction.latch
    ∧ t.traction.state = runningState s s.traction.latch t.traction.pending 0 t.motion.m
    ∧ t.bridges.held = commandFor (ending (lostSteered s r)) t.traction.state := by
  have htraction := stepEnds_traction (lostSteered s r)
  have hstate := lost_state (r := r) hgo
  have hheld := stepEnds_held (lostSteered s r)
  have hmotion : t.motion.m = s.motion.decayed (captureClock (began s)) := by
    rw [ht, stepEnds_frame]
    rfl
  obtain ⟨h1, h2, h3, h4, h5, -, -, -⟩ := lostController_eq s r
  rw [← ht] at htraction hheld
  have hpending : t.traction.pending = (lostController s r).pending := by
    rw [htraction]
    rfl
  have hst : t.traction.state = derivedState (ending (lostSteered s r)) := by rw [htraction]
  rw [← hst] at hstate hheld
  refine ⟨?_, ?_, ?_, ?_, ?_, ?_, ?_, hheld⟩
  · rw [htraction]; exact h1
  · rw [htraction]; exact h2
  · rw [htraction]; exact h3
  · rw [htraction]; exact h4
  · rw [htraction]; exact h4
  · rw [htraction]; exact h5
  · rw [hpending, hmotion]; exact hstate

/-- The state and the command after the step that has found the loss (R73, R75). -/
theorem lost_commands {s : State} {z t : State} {latch : Bool}
    (hstate : t.traction.state = runningState s latch t.traction.pending 0 t.motion.m)
    (hheld : t.bridges.held = commandFor z t.traction.state) :
    if s.bridges.allLatched = true then t.traction.state = .faulted ∧ t.bridges.held = .coast
    else if 4 ≤ s.supply.shed then t.traction.state = .held ∧ t.bridges.held = .coast
    else if latch = true then t.traction.state = .estop ∧ t.bridges.held = .brake
    else t.traction.state = (if t.traction.pending = true then .reversing
      else if 0 < t.motion.m then .running else .stopped) := by
  unfold runningState at hstate
  split
  · next h =>
    rw [if_pos h] at hstate
    rw [hheld, hstate]
    exact ⟨rfl, rfl⟩
  · next h =>
    rw [if_neg h] at hstate
    split
    · next h =>
      rw [if_pos h] at hstate
      rw [hheld, hstate]
      exact ⟨rfl, rfl⟩
    · next h =>
      rw [if_neg h] at hstate
      split
      · next h =>
        rw [if_pos h] at hstate
        rw [hheld, hstate]
        exact ⟨rfl, rfl⟩
      · next h =>
        rw [if_neg h] at hstate
        simpa using hstate

/-! ## The step that finishes a run -/

/-- What the finishing step leaves of the controller and the request side (R82, R108). -/
theorem finished_steps {s : State} {r r' : BalanceRun} {outcome : OutcomeCode} {g : Nat} {t : State}
    (ht : t = ((atRest s r.direction).closeRun r' outcome g).stepEnds) :
    steppedOn s t r.direction ∧ steppedBeside s t ∧ t.balance.run = none ∧ t.radio.lease = .none
      ∧ t.radio.request.throttle = 0 ∧ t.traction.u = 0 ∧ t.motion = calmMotion (began s) := by
  have hclose := closeRun_frame (atRest s r.direction) r' outcome g
  have htraction := stepEnds_traction ((atRest s r.direction).closeRun r' outcome g)
  have hends := stepEnds_frame ((atRest s r.direction).closeRun r' outcome g)
  rw [← ht] at htraction hends
  generalize (atRest s r.direction).closeRun r' outcome g = w at hclose htraction hends
  have hwt : w.traction = { (atRest s r.direction).traction with
      c := 0, i := 0, u := 0, state := w.traction.state, lowest := w.traction.lowest } := by rw [hclose]
  rw [hwt] at htraction
  have hbalance : t.balance.run = none := by rw [hends, hclose]
  have hclock : t.clock = max s.clock s.timers.regulation := by rw [hends, hclose]; rfl
  refine ⟨⟨?_, ?_, ?_, ?_, ?_, ?_, ?_, fun h => absurd hbalance h⟩, ⟨?_, ?_, ?_, hclock, ?_⟩, hbalance, ?_, ?_, ?_, ?_⟩
  · rw [htraction]; rfl
  · rw [htraction]
  · rw [htraction]
  · rw [htraction]; rfl
  · rw [htraction]; rfl
  · rw [htraction]; rfl
  · rw [htraction]; rfl
  · rw [hends, hclose]; rfl
  · rw [hends, hclose]; rfl
  · rw [hends, hclose]; rfl
  · rw [hclock, hends, hclose]; rfl
  · rw [hends, hclose]
  · rw [hends, hclose]
  · rw [htraction]
  · rw [hends, hclose]; rfl

/-! ## The steps of a run, case by case -/

/-- The command of a step that drives (R76, R106). -/
def drives (s : State) (r : BalanceRun) (k : Nat) : Command :=
  .drive {
    duty := if 4 ≤ s.supply.shed ∨ s.traction.latch = true then 0
      else min s.tractionSet.dutyCap (r.duties.getD (k - 1) 0)
    direction := r.direction, freewheel := s.tractionSet.freewheel }

section Cases

variable {s : State} {r : BalanceRun} (hwf : s.xm.wf = true) (hgo : s.isRun = true) (hrun : s.balance.run = some r)
  (hcalm : ¬lossFound (began s)) (hvoices : voicesLawful s)

include hwf hgo hrun hcalm hvoices

theorem held_step (hheld : r.held = true) : steppedOn s (regulationStep s) r.direction
    ∧ steppedBeside s (regulationStep s)
    ∧ (regulationStep s).balance.run = some r ∧ (regulationStep s).xm = s.xm
    ∧ (regulationStep s).bridges.held = stopCommand s.tractionSet ∧ (regulationStep s).traction.u = 0 := by
  have hworks := (balanceStep_held (v := atRest s r.direction) (calmMotion (began s)).m hrun hheld).trans
    (atRest_working hrun r.direction)
  have hstop : (stopCommand s.tractionSet).duty = 0 := by
    unfold stopCommand
    split <;> rfl
  have hstep := working_step (command := stopCommand s.tractionSet) hgo hrun hcalm hvoices hwf hworks
    (by rw [hheld, if_neg (by simp)])
  rw [hstop] at hstep
  exact hstep

/-- A step of a run that begins at `r'`, being written into the slot (R106). -/
theorem beginning_step {r' : BalanceRun} (hslot : r'.slot < 32) (hheld : r'.held = false)
    (hworks : (atRest s r.direction).balanceStep (calmMotion (began s)).m = (atRest s r.direction).beginRunStep r') :
    steppedOn s (regulationStep s) r.direction ∧ steppedBeside s (regulationStep s)
    ∧ (regulationStep s).balance.run = some r'.beginStep
    ∧ (regulationStep s).xm.read (slotBase r'.slot + 0x29) = BitVec.ofNat 8 r'.step
    ∧ sameBut s.xm (regulationStep s).xm (fun a => a = slotBase r'.slot + 0x29)
    ∧ (regulationStep s).bridges.held = drives s r' r'.step := by
  obtain ⟨hon, hbeside, hsome, hxm, hcommand, -⟩ := working_step (command := drives s r' r'.step) hgo hrun hcalm hvoices
    (Memory.wf_write _ _ hwf) (hworks.trans (beginRunStep_working r.direction r'))
    (by rw [if_pos ⟨rfl, hheld⟩]; rfl)
  obtain ⟨hread, hsame⟩ := stepWritten (loByte r'.step) hwf hslot
  rw [hxm]
  exact ⟨hon, hbeside, hsome, hread, hsame, hcommand⟩

/-- A period of a step that is not its last (R106). -/
theorem counting_step (hheld : r.held = false) (hdrives : r.driving = true) (hmore : r.period + 1 < 125 * r.holdTime) :
    steppedOn s (regulationStep s) r.direction ∧ steppedBeside s (regulationStep s)
    ∧ (regulationStep s).balance.run = some (r.countPeriod (calmMotion (began s)).m)
    ∧ (regulationStep s).xm = s.xm ∧ (regulationStep s).bridges.held = drives s r r.step := by
  have hbalance : s.balance = { run := some r } := by rw [← hrun]
  have hcounted := countPeriod_eq r (calmMotion (began s)).m
  have hperiods : (r.countPeriod (calmMotion (began s)).m).period < (r.countPeriod (calmMotion (began s)).m).periods := by
    rw [hcounted]
    exact hmore
  have hworks := balanceStep_drives (v := atRest s r.direction) (calmMotion (began s)).m hrun hheld hdrives
  rw [if_pos hperiods] at hworks
  have hcommand : drives s r r.step
      = if (r.countPeriod (calmMotion (began s)).m).driving = true ∧ (r.countPeriod (calmMotion (began s)).m).held = false
        then .drive {
          duty := if 4 ≤ s.supply.shed ∨ s.traction.latch = true then 0
            else min s.tractionSet.dutyCap ((r.countPeriod (calmMotion (began s)).m).duties.getD
              ((r.countPeriod (calmMotion (began s)).m).step - 1) 0)
          direction := (r.countPeriod (calmMotion (began s)).m).direction, freewheel := s.tractionSet.freewheel }
        else stopCommand s.tractionSet := by
    rw [hcounted, if_pos ⟨hdrives, hheld⟩]
    rfl
  obtain ⟨hon, hbeside, hsome, hxm, hcommand, -⟩ := working_step (m := s.xm) (granted := s.lastGranted) hgo hrun hcalm hvoices
    hwf hworks hcommand
  exact ⟨hon, hbeside, hsome, hxm, hcommand⟩

end Cases

/-- The last period of a step of a run (R106). -/
theorem completing_works {s : State} {r : BalanceRun} (hrun : s.balance.run = some r) (hheld : r.held = false) (hdrives : r.driving = true) (hlast : 125 * r.holdTime ≤ r.period + 1)
    {r' : BalanceRun} (hr' : r' = (r.countPeriod (calmMotion (began s)).m).completeStep) :
    (atRest s r.direction).balanceStep (calmMotion (began s)).m =
      if r.step < r.steps then (atRest s r.direction).beginRunStep { r' with step := r.step + 1 }
      else (atRest s r.direction).finishRun r' := by
  have hcounted := countPeriod_eq r (calmMotion (began s)).m
  have hworks := balanceStep_drives (v := atRest s r.direction) (calmMotion (began s)).m hrun hheld hdrives
  rw [if_neg, ← hr'] at hworks
  · have hstep : r'.step = r.step := by rw [hr', hcounted]; rfl
    have hsteps : r'.steps = r.steps := by rw [hr', hcounted]; rfl
    rw [hstep, hsteps] at hworks
    exact hworks
  · rw [hcounted]
    exact Nat.not_lt_of_le hlast

/-- The step that completes the last step of a run (R107). -/
theorem finishing {s : State} {r : BalanceRun} (hwf : s.xm.wf = true) (hgo : s.isRun = true)
    (hrun : s.balance.run = some r) (hcalm : ¬lossFound (began s)) (hvoices : voicesLawful s) (hslot : r.slot < 32)
    {r' : BalanceRun}
    (hworks : (atRest s r.direction).balanceStep (calmMotion (began s)).m = (atRest s r.direction).finishRun r')
    {rates : List Nat} (hr' : r'.slot = r.slot ∧ r'.duties = r.duties ∧ r'.holdTime = r.holdTime ∧ r'.written = r.written
      ∧ r'.adjusted = r.adjusted ∧ r'.rates = rates)
    (gains : List Nat) (hgains : gains = (r.duties.zip rates).filterMap (fun p =>
      if p.2 = 0 then none else some (p.1 * 65536 / p.2)))
    (g : Nat) (hg : g = (if gains = [] then 0 else gains.sum / gains.length))
    (outcome : OutcomeCode) (houtcome : outcome = (if rates.all (fun x => decide (x = 0)) then .failedNoMotion
      else if r.adjusted = true ∨ 65535 < g then .adjusted else .ok)) {t : State} (ht : t = regulationStep s) :
    t.balance.run = none ∧ t.radio.lease = .none ∧ t.radio.request.throttle = 0 ∧ t.traction.u = 0
    ∧ (∃ w : State, runCloses { s with
          clock := t.clock, timers := t.timers, motion := t.motion, bridges := chopsTurned s.bridges
          traction := { s.traction with
            t := 0, c := 0, i := 0, zeroHold := 0, pending := false, direction := r.direction
            lastM := t.motion.m } } w { r with rates := rates } outcome (min 65535 g)
        ∧ stepEnded w t)
    ∧ slotDone t.xm r.slot outcome r.written
        ((List.range 4).flatMap (fun k => bytes16 (rates.getD k 0)) ++ bytes16 (min 65535 g)
          ++ (List.range 4).flatMap (fun k => bytes16 (r.duties.getD k 0))
          ++ [BitVec.ofNat 8 r.holdTime, BitVec.ofNat 8 rates.length])
    ∧ t.port.notice.getLsbD 0 = true ∧ t.port.notice.getLsbD 5 = true
    ∧ sameBut s.xm t.xm (fun a => inSlot r.slot a ∨ inSegments a) := by
  obtain ⟨hs, hduties, hhold, hwritten, hadjusted, hrates⟩ := hr'
  have hgain : g = rawGain r'.duties r'.rates := by
    rw [hg, hgains, hduties, hrates]
    rfl
  have hresult : outcome = resultOutcome r' := by
    rw [resultOutcome_eq, houtcome, hgain, hrates, hadjusted]
  have hstep := finishing_step hgo hrun hcalm hworks
  rw [← hgain, ← hresult, ← ht] at hstep
  obtain ⟨⟨w, hcloses, hended⟩, hdone, horder, hcontrol, hsame⟩ := closed_ends (v := atRest s r.direction) (r := r') hwf
    hvoices (by rw [hs]; exact hslot) hstep
  obtain ⟨-, ⟨-, -, -, hclock, htimers⟩, hover, hlease, hthrottle, hu, hmotion⟩ := finished_steps hstep
  rw [hs, hwritten, hduties, hhold, hrates] at hdone
  rw [hs] at hsame
  refine ⟨hover, hlease, hthrottle, hu, ⟨w, ?_, hended⟩, hdone, horder, hcontrol, hsame⟩
  rw [htimers, hclock, hmotion]
  unfold runCloses at hcloses ⊢
  rw [hs, hwritten, hduties, hhold, hrates] at hcloses
  exact hcloses

/-- A step in progress goes on, gives way to the next or ends the run: in any case it leaves the same things at rest. -/
theorem driving_steps {s : State} {r : BalanceRun} (hwf : s.xm.wf = true) (hgo : s.isRun = true)
    (hrun : s.balance.run = some r) (hcalm : ¬lossFound (began s)) (hvoices : voicesLawful s) (hslot : r.slot < 32)
    (hheld : r.held = false) (hdrives : r.driving = true) :
    steppedOn s (regulationStep s) r.direction ∧ steppedBeside s (regulationStep s) := by
  have hcounted := countPeriod_eq r (calmMotion (began s)).m
  by_cases hmore : r.period + 1 < 125 * r.holdTime
  · obtain ⟨hon, hbeside, -⟩ := counting_step hwf hgo hrun hcalm hvoices hheld hdrives hmore
    exact ⟨hon, hbeside⟩
  · have hworks := completing_works hrun hheld hdrives (Nat.le_of_not_lt hmore) rfl
    rw [hcounted] at hworks
    split at hworks
    · obtain ⟨hon, hbeside, -⟩ := beginning_step hwf hgo hrun hcalm hvoices (by exact hslot) (by exact hheld) hworks
      exact ⟨hon, hbeside⟩
    · obtain ⟨hon, hbeside, -⟩ := finished_steps (finishing_step hgo hrun hcalm hworks)
      exact ⟨hon, hbeside⟩

/-- Settles O33: the loss of the sensor first, then the work of the sequencer case by case. -/
theorem balanceRunsWorkAtTheRegulationStep : Obligations.BalanceRunsWorkAtTheRegulationStep := by
  unfold Obligations.BalanceRunsWorkAtTheRegulationStep
  intro s r hwf hgo hrun hslot hvoices lost hlost
  have hiff := lossFound_iff hgo
  rw [← hlost] at hiff
  constructor
  · intro hfound
    have hfound := hiff.2 hfound
    obtain ⟨hcloses, hstepped, hended, hsame⟩ := lost_ends hwf hgo hrun hslot hvoices hfound
    have hstep := regulationStep_lost hgo hrun hfound
    obtain ⟨h1, h2, h3, h4, h5, h6, hstate, hheld⟩ := lost_traction hgo hstep
    have hframe := lostSteered_frame s r
    rw [← hstep] at hframe
    have hclock : (regulationStep s).clock = max s.clock s.timers.regulation := step_clock s
    have htimers : (regulationStep s).timers = { s.timers with regulation := (regulationStep s).clock + 8 * 1024000 } :=
      congrArg State.timers hframe
    have hsensor : (regulationStep s).motion.sensor = .lost := by
      rw [step_motion, (stepInputs_motion (began s)).1 hfound]
      rfl
    refine ⟨_, rfl, hended, hsensor, lost_notice hfound, h1, h2, h3, h4, h5, h6, lost_commands hstate hheld, hsame,
      ⟨faulted (began s), runLost s r, ?_, hcloses, hstepped⟩, hframe⟩
    rw [htimers, hclock]
    rfl
  · rintro hno drive rfl
    have hcalm : ¬lossFound (began s) := fun h => by
      rw [hiff.1 h] at hno
      cases hno
    have hm : (regulationStep s).motion.m = (calmMotion (began s)).m := by
      rw [step_motion, (stepInputs_motion (began s)).2 hcalm]
    by_cases hheld : r.held = true
    · obtain ⟨⟨h1, h2, h3, h4, h5, h6, h7, hon⟩, hbeside, hrest⟩ := held_step hwf hgo hrun hcalm hvoices hheld
      exact ⟨_, rfl, h1, h2, h3, h4, h5, h6, h7, hon, fun _ => hrest, fun h => absurd (hheld.symm.trans h) (by decide),
        fun h => absurd (hheld.symm.trans h) (by decide), hbeside⟩
    · have hheld : r.held = false := Bool.eq_false_iff.2 hheld
      by_cases hdrives : r.driving = true
      case neg =>
        have hdrives : r.driving = false := Bool.eq_false_iff.2 hdrives
        obtain ⟨⟨h1, h2, h3, h4, h5, h6, h7, hon⟩, hbeside, hrest⟩ := beginning_step hwf hgo hrun hcalm hvoices hslot hheld
          (balanceStep_begins _ hrun hheld hdrives)
        exact ⟨_, rfl, h1, h2, h3, h4, h5, h6, h7, hon, fun h => absurd (hheld.symm.trans h) (by decide),
          fun _ _ => hrest, fun _ h => absurd (hdrives.symm.trans h) (by decide), hbeside⟩
      case pos =>
        obtain ⟨⟨h1, h2, h3, h4, h5, h6, h7, hon⟩, hbeside⟩ := driving_steps hwf hgo hrun hcalm hvoices hslot hheld hdrives
        refine ⟨_, rfl, h1, h2, h3, h4, h5, h6, h7, hon, fun h => absurd (hheld.symm.trans h) (by decide),
          fun _ h => absurd (hdrives.symm.trans h) (by decide), ?_, hbeside⟩
        rintro - - j rfl sum hsum count hcount rates hrates
        rw [hm] at hsum
        have hcounted : r.countPeriod (calmMotion (began s)).m = { r with
            period := r.period + 1, sum := sum, count := count } := by
          rw [countPeriod_eq, hsum, hcount]
        refine ⟨fun hmore => ?_, fun hlast hmore => ?_, fun hlast hdone gains hgains g hg outcome houtcome => ?_⟩
        · obtain ⟨-, -, hsome, hxm, hcommand⟩ := counting_step hwf hgo hrun hcalm hvoices hheld hdrives hmore
          rw [hcounted] at hsome
          exact ⟨hsome, hxm, hcommand⟩
        · have hworks := completing_works hrun hheld hdrives hlast rfl
          rw [if_pos hmore, hcounted] at hworks
          obtain ⟨-, -, hsome, hwritten, hsame, hcommand⟩ := beginning_step hwf hgo hrun hcalm hvoices
            (r' := { r with period := r.period + 1, sum := sum, count := count, rates := rates, step := r.step + 1 })
            hslot hheld (by rw [hrates]; exact hworks)
          refine ⟨hsome.trans ?_, hwritten, hsame, hcommand⟩
          rw [hdrives]
          rfl
        · have hworks := completing_works hrun hheld hdrives hlast rfl
          rw [if_neg (Nat.not_lt_of_le hdone), hcounted] at hworks
          exact finishing hwf hgo hrun hcalm hvoices hslot (r' := { r with
            period := r.period + 1, sum := sum, count := count, rates := rates })
            (by rw [hrates]; exact hworks) ⟨rfl, rfl, rfl, rfl, rfl, rfl⟩ gains hgains g hg outcome houtcome rfl

end Sys2Proof.BalanceSteps
end

section
/-! PROOFS. The step of an idle part (log 2): the accesses it grants reach the status record, the bytes of the service write
and the places of the works in progress, and nothing else. -/

namespace Sys2Proof.IdleSteps
open Sys2Proof.Machine Sys2Proof.Safety

/-- The bytes that a granted access may write: those of the status record and of the service write. -/
def grantedByte (s : State) (a : Nat) : Prop :=
  (0x100 ≤ a ∧ a < 0x200) ∨ ∃ cells, s.radio.service = some cells ∧ ∃ c ∈ cells, c.1 % 65536 = a

/-- What granted accesses may have done by the time the part stands at `t`. -/
def granting (s t : State) : Prop :=
  t = { s with
    xm := t.xm, lastGranted := t.lastGranted
    orders := { s.orders with sweep := t.orders.sweep }
    status := { s.status with
      generation := t.status.generation, updating := t.status.updating, deferred := t.status.deferred }
    sets := { s.sets with queue := t.sets.queue }
    radio := { s.radio with service := t.radio.service } }
  ∧ (s.xm.wf = true → t.xm.wf = true ∧ sameBut s.xm t.xm (grantedByte s))
  ∧ ∀ cells, t.radio.service = some cells → ∃ before, s.radio.service = some before ∧ cells ⊆ before

theorem granting_refl (s : State) : granting s s :=
  ⟨rfl, fun hwf => ⟨hwf, sameBut_refl _ _⟩, fun cells h => ⟨cells, h, List.Subset.refl _⟩⟩

theorem granting_trans {s t u : State} (h : granting s t) (h' : granting t u) : granting s u := by
  obtain ⟨hframe, hmemory, hcells⟩ := h
  obtain ⟨hframe', hmemory', hcells'⟩ := h'
  refine ⟨?_, fun hwf => ?_, fun cells hservice => ?_⟩
  · conv_lhs => rw [hframe']
    conv_lhs => rw [hframe]
  · obtain ⟨hwf', hsame⟩ := hmemory hwf
    obtain ⟨hwf'', hsame'⟩ := hmemory' hwf'
    refine ⟨hwf'', sameBut_trans hsame (sameBut_weaken hsame' ?_)⟩
    rintro a (ha | ⟨cells, hservice, c, hc, hat⟩)
    · exact .inl ha
    · obtain ⟨before, hbefore, hsub⟩ := hcells cells hservice
      exact .inr ⟨before, hbefore, c, hsub hc, hat⟩
  · obtain ⟨middle, hmiddle, hsub⟩ := hcells' cells hservice
    obtain ⟨before, hbefore, hsub'⟩ := hcells middle hmiddle
    exact ⟨before, hbefore, List.Subset.trans hsub hsub'⟩

/-- An access that touches no memory and no service write. -/
theorem granting_beside {s t : State} (h : t = { s with
    lastGranted := t.lastGranted, orders := { s.orders with sweep := t.orders.sweep }
    status := { s.status with
      generation := t.status.generation, updating := t.status.updating, deferred := t.status.deferred }
    sets := { s.sets with queue := t.sets.queue } }) : granting s t := by
  have hxm : t.xm = s.xm := by rw [h]
  have hradio : t.radio = s.radio := by rw [h]
  refine ⟨?_, fun hwf => ?_, fun cells hservice => ?_⟩
  · rw [hxm, hradio]
    exact h
  · rw [hxm]
    exact ⟨hwf, sameBut_refl _ _⟩
  · rw [hradio] at hservice
    exact ⟨cells, hservice, List.Subset.refl _⟩

/-! ## The order engine -/

theorem grantLoad_granting (s : State) : granting s s.grantLoad := by
  have hqueue : ∃ q, s.grantLoad.sets = { s.sets with queue := q } := by
    simp only [State.grantLoad, State.onSets]
    split
    · exact ⟨_, rfl⟩
    · exact ⟨_, rfl⟩
  obtain ⟨q, hqueue⟩ := hqueue
  have hframe : s.grantLoad = { s with sets := s.grantLoad.sets } := rfl
  rw [hqueue] at hframe
  rw [hframe]
  exact granting_beside rfl

theorem dropOrder_granting (s : State) : granting s s.dropOrder := granting_beside rfl

/-- A REFRESH_SET order loads the set on top, and so takes up its load at once where no action is in flight. -/
theorem requestRefresh_granting {s : State} (o : TakenOrder) (hidle : s.sets.queue = []) :
    granting s (s.requestRefresh o) := by
  refine granting_beside ?_
  simp only [State.requestRefresh, State.actionArrives, if_pos hidle]
  rfl

theorem grantRefresh_granting {s : State} (hidle : s.sets.queue = []) : granting s s.grantRefresh := by
  unfold State.grantRefresh
  split
  · exact granting_trans (granting_trans (dropOrder_granting s) (requestRefresh_granting _ hidle)) (grantLoad_granting _)
  · exact granting_refl s

theorem sweepAccess_granting (s : State) (w : Sweep) : granting s (s.sweepAccess w) := by
  refine granting_beside ?_
  unfold State.sweepAccess
  repeat' split
  all_goals rfl

theorem grantOrders_granting {s : State} (hstart : s.port.start = none) (hreset : s.port.reset = none) :
    granting s s.grantOrders := by
  have hnoReset : resetWaits s = false := by simp [resetWaits, hreset]
  have hnoStart : startWaits s = false := by simp [startWaits, hstart]
  unfold State.grantOrders
  rw [hnoReset, hnoStart, if_neg Bool.false_ne_true, if_neg Bool.false_ne_true]
  split
  · exact grantLoad_granting s
  · split
    · exact granting_beside rfl
    · split
      · next hready =>
        have hidle : s.sets.queue = [] := by
          simp only [refreshReady, Bool.and_eq_true, decide_eq_true_eq] at hready
          exact hready.1
        exact grantRefresh_granting hidle
      · split
        · exact sweepAccess_granting s _
        · exact granting_refl s

/-! ## The status writer -/

/-- A word written into the status record. -/
theorem statusWord_granting {s t : State} {k : Nat} {word : List Byte} (hk : k < 128) (hlength : word.length = 2)
    (hxm : t.xm = s.xm.writeBytes (0x100 + 2 * k) word) (h : t = { s with
      xm := t.xm, lastGranted := t.lastGranted
      status := { s.status with
        generation := t.status.generation, updating := t.status.updating, deferred := t.status.deferred } }) :
    granting s t := by
  have hradio : t.radio = s.radio := by rw [h]
  have horders : t.orders = s.orders := by rw [h]
  have hsets : t.sets = s.sets := by rw [h]
  refine ⟨?_, fun hwf => ?_, fun cells hservice => ?_⟩
  · rw [hradio, horders, hsets]
    exact h
  · rw [hxm]
    refine ⟨Memory.wf_writeBytes _ _ hwf, fun a ha hout => Memory.read_writeBytes_other hwf fun j hj heq => hout (.inl ?_)⟩
    omega
  · rw [hradio] at hservice
    exact ⟨cells, hservice, List.Subset.refl _⟩

theorem writeGeneration_granting (s : State) : granting s s.writeGeneration :=
  statusWord_granting (k := 0) (by decide) rfl rfl rfl

theorem writeStatusWord_granting {s : State} {k : Nat} (hk : k < 128) : granting s (s.writeStatusWord k) :=
  statusWord_granting hk rfl rfl rfl

theorem grantStatus_granting {s : State} (hreset : s.port.reset = none) : granting s s.grantStatus := by
  have hends : ∀ u : State, u.port.reset = none → granting u u.updateWritten := by
    intro u hu
    unfold State.updateWritten
    rw [hu]
    exact granting_beside rfl
  have hcounts : ∀ (u : State) (k : Nat), granting u (u.onStatus fun w => { w with updating := some k }) :=
    fun u k => granting_beside rfl
  unfold State.grantStatus
  split
  · next k _ =>
    split
    · exact granting_trans (writeGeneration_granting s) (hends _ hreset)
    · next hk =>
      refine granting_trans ?_ (hcounts _ _)
      split
      · exact writeGeneration_granting s
      · exact writeStatusWord_granting (Nat.lt_of_not_le hk)
  · exact granting_refl s

/-! ## The radio writer -/

theorem writeCells_same {m : Memory} (cells : List Host.Cell) (hwf : m.wf = true) :
    sameBut m (writeCells m cells) (fun a => ∃ c ∈ cells, c.1 % 65536 = a) := by
  induction cells generalizing m with
  | nil => exact sameBut_refl _ _
  | cons c cells ih =>
    intro a ha hout
    have hc : ¬c.1 % 65536 = a := fun h => hout ⟨c, List.mem_cons_self, h⟩
    have hrest : ¬∃ d ∈ cells, d.1 % 65536 = a := fun ⟨d, hd, h⟩ => hout ⟨d, List.mem_cons_of_mem _ hd, h⟩
    refine (ih (Memory.wf_write c.1 c.2 hwf) a ha hrest).trans (Memory.read_write_other _ hwf ?_)
    rwa [Nat.mod_eq_of_lt ha]

theorem serviceWord_subset (cells : List Host.Cell) : (serviceWord cells).1 ⊆ cells ∧ (serviceWord cells).2 ⊆ cells := by
  unfold serviceWord
  split
  · simp
  · simp
  · split <;> simp

theorem grantRadio_granting (s : State) : granting s s.grantRadio := by
  unfold State.grantRadio
  split
  · next cells hservice =>
    obtain ⟨hnow, hlater⟩ := serviceWord_subset cells
    refine ⟨rfl, fun hwf => ?_, fun left hleft => ⟨cells, hservice, ?_⟩⟩
    · refine ⟨Memory.wf_writeCells _ hwf, sameBut_weaken (writeCells_same (serviceWord cells).1 hwf) ?_⟩
      rintro a ⟨c, hc, hat⟩
      exact .inr ⟨cells, hservice, c, hnow hc, hat⟩
    · obtain rfl : (serviceWord cells).2 = left := Option.some.inj hleft
      exact hlater
  · exact granting_refl s

/-! ## The rotation -/

theorem grant_granting {s : State} (r : Requester) (hstart : s.port.start = none) (hreset : s.port.reset = none) :
    granting s (s.grant r) := by
  have hgranted : ∀ u : State, granting u (u.granted r) := fun u => granting_beside rfl
  cases r with
  | hostPort => exact hgranted s
  | orderEngine => exact granting_trans (grantOrders_granting hstart hreset) (hgranted _)
  | statusWriter => exact granting_trans (grantStatus_granting hreset) (hgranted _)
  | radioWriter => exact granting_trans (grantRadio_granting s) (hgranted _)

theorem granting_port {s t : State} (h : granting s t) : t.port = s.port := by rw [h.1]

theorem grants_granting {s : State} (n : Nat) (hstart : s.port.start = none) (hreset : s.port.reset = none) :
    granting s (State.grants n s) := by
  induction n generalizing s with
  | zero => exact granting_refl s
  | succ n ih =>
    have hsilent : soundWaits s = false := by simp [soundWaits, hreset]
    rw [State.grants, hsilent, if_neg Bool.false_ne_true]
    split
    · next r _ =>
      have hgrant := grant_granting r hstart hreset
      have hport := granting_port hgrant
      exact granting_trans hgrant (ih (by rw [hport]; exact hstart) (by rw [hport]; exact hreset))
    · exact granting_refl s

/-- Settles O2, by the accesses that the rotation grants one after the other. -/
theorem idleStepOnlyGrantsAccesses : Obligations.IdleStepOnlyGrantsAccesses := by
  unfold Obligations.IdleStepOnlyGrantsAccesses
  intro s hwf hpending hstart hreset
  obtain ⟨hframe, hmemory, -⟩ := grants_granting (s := s.atClock (s.clock + 1)) (Config.idleGrants s.free) hstart hreset
  refine ⟨idle s, step_idle s hpending, (hmemory hwf).2, ?_⟩
  unfold idle
  generalize State.grants (Config.idleGrants s.free) (s.atClock (s.clock + 1)) = t at hframe
  conv_lhs => rw [hframe]
  rfl

end Sys2Proof.IdleSteps
end

section
/-! PROOFS. SET_ACTION orders: how an action reaches the set manager, and how one that loads nothing ends (R37, R43). -/

namespace Sys2Proof.SetOrders
open Sys2Proof.Machine Sys2Proof.Safety Sys2Proof.SetFrames Sys2Proof.Notices

/-- The action of a SET_ACTION order. -/
def orderAction (o : TakenOrder) (kind : SetActionKind) : SetAction where
  kind := kind
  index := param8 o.params 1
  level := 0
  source := .order o.slot
  load := none

theorem handOver_taken {s : State} {o : TakenOrder} {kind : Nat} (act : State → TakenOrder → State) (hrun : s.isRun = true)
    (htaken : orderTaken s o) (hkind : o.kind = kind) (hlow : 1 ≤ kind) (hhigh : kind ≤ 14) :
    s.handOver kind act = act s.dropOrder o := by
  have hmine : orderKind kind o = true := by simp [orderKind, hkind]
  simp only [State.handOver, orderInHand_taken htaken hmine]
  rw [orderRefusal_run hrun (by omega) (by omega)]

theorem setAction_taken {s : State} {o : TakenOrder} (hrun : s.isRun = true) (htaken : orderTaken s o) (hkind : o.kind = 4) :
    setAction s = s.dropOrder.requestAction (param8 o.params 0) (param8 o.params 1) 0 (.order o.slot) :=
  handOver_taken _ hrun htaken hkind (by decide) (by decide)

theorem setAction_arrives {s : State} {o : TakenOrder} {kind : SetActionKind} (hrun : s.isRun = true)
    (htaken : orderTaken s o) (hkind : o.kind = 4) (hcode : actionKind (param8 o.params 0) = some kind) :
    setAction s = s.dropOrder.actionArrives (orderAction o kind) := by
  rw [setAction_taken hrun htaken hkind]
  simp only [State.requestAction, hcode]
  rfl

/-- The report of an order's action is the end of the order, with the chain as its result (R43). -/
theorem reportAction_order {s : State} {o : TakenOrder} {a : SetAction} (outcome : OutcomeCode)
    (hsource : a.source = .order o.slot) :
    s.dropOrder.reportAction a outcome = s.completeOrder o outcome (chainResult s.sets) := by
  have hchain : chainResult s.dropOrder.sets = chainResult s.sets := rfl
  have hcommutes : ∀ result, s.dropOrder.completeSlot o.slot outcome 0 result = s.completeOrder o outcome result :=
    fun _ => rfl
  rw [State.reportAction, hsource]
  simp only [hchain, hcommutes]

/-- The action of an order that finds none in flight and loads nothing ends the order with the chain as its result. -/
theorem orderArrives_refused {s : State} {o : TakenOrder} {a : SetAction} (hwf : s.xm.wf = true) (htaken : orderTaken s o)
    (hempty : s.sets.queue = []) (hnone : loadIndex s.sets a = none) (hsource : a.source = .order o.slot) :
    refusedOrder s (s.dropOrder.actionArrives a) o (if s.balance.run.isSome then .busy
      else if a.kind = .returnSet then .chainEmpty else .badIndex) (chainResult s.sets) := by
  have hends : s.dropOrder.actionArrives a = s.completeOrder o (if s.balance.run.isSome then .busy
      else if a.kind = .returnSet then .chainEmpty else .badIndex) (chainResult s.sets) := by
    have hempty' : s.dropOrder.sets.queue = [] := hempty
    have hnone' : loadIndex s.dropOrder.sets a = none := hnone
    rw [State.actionArrives, if_pos hempty', State.takeWaiting, hnone']
    simp only [State.takeWaiting]
    rw [State.conclude_unloaded _ a hnone', reportAction_order _ hsource]
    exact queueIs_self (by simpa using hempty)
  rw [hends]
  exact completeOrder_ends s o _ _ hwf (slot_lt_of_taken htaken)

/-- Settles O16: a code above 2, an action behind others, one that loads, and one that loads nothing. -/
theorem setActionOrderReachesTheSetManager : Obligations.SetActionOrderReachesTheSetManager := by
  unfold Obligations.SetActionOrderReachesTheSetManager
  intro s o hwf hrun htaken hkind
  refine ⟨fun kind x hempty hcase => ?loads, fun kind hbusy hcase => ?waits, fun hcode => ?unknown, fun hempty => ⟨?_, ?_⟩⟩
  case loads =>
    have hload : actionKind (param8 o.params 0) = some kind
        ∧ loadIndex s.dropOrder.sets (orderAction o kind) = some x := by
      rcases hcase with ⟨hcode, rfl, rfl, hle⟩ | ⟨hcode, rfl, rfl, hle⟩ | ⟨hcode, rfl, hlong, rfl⟩
      · exact ⟨by rw [hcode]; rfl, if_pos hle⟩
      · exact ⟨by rw [hcode]; rfl, if_pos hle⟩
      · exact ⟨by rw [hcode]; rfl, if_neg (Nat.not_le_of_lt hlong)⟩
    obtain ⟨hcode, hload⟩ := hload
    refine congrArg Host.Outcome.next ((setAction_arrives hrun htaken hkind hcode).trans ?_)
    refine (actionArrives_waits (s := s.dropOrder) rfl (fun hno => absurd hempty hno) fun _ => ⟨x, hload, rfl⟩).trans ?_
    have hqueue : s.dropOrder.sets.queue = [] := hempty
    rw [hqueue]
    rfl
  case waits =>
    have hcode : actionKind (param8 o.params 0) = some kind := by
      rcases hcase with ⟨hcode, rfl⟩ | ⟨hcode, rfl⟩ | ⟨hcode, rfl⟩
      all_goals
        rw [hcode]
        rfl
    refine congrArg Host.Outcome.next ((setAction_arrives hrun htaken hkind hcode).trans ?_)
    exact actionArrives_waits (s := s.dropOrder) rfl (fun _ => rfl) fun hno => absurd hno hbusy
  case unknown =>
    refine ⟨_, rfl, ?_⟩
    rw [setAction_taken hrun htaken hkind, State.requestAction, actionKind_none hcode]
    simp only []
    rw [reportAction_order _ rfl]
    exact completeOrder_ends s o _ _ hwf (slot_lt_of_taken htaken)
  · intro hcode hindex
    refine ⟨_, rfl, ?_⟩
    have hone : param8 o.params 0 = 0 ∨ param8 o.params 0 = 1 := by omega
    have hrefused : ∀ kind, kind = .switch ∨ kind = .invoke → actionKind (param8 o.params 0) = some kind →
        refusedOrder s (setAction s) o (if s.balance.run.isSome then .busy else .badIndex) (chainResult s.sets) := by
      rintro kind hor hkind'
      rw [setAction_arrives hrun htaken hkind hkind']
      have hnone : loadIndex s.sets (orderAction o kind) = none := by
        rcases hor with rfl | rfl
        · exact if_neg (Nat.not_le_of_lt hindex)
        · exact if_neg (Nat.not_le_of_lt hindex)
      have hends := orderArrives_refused hwf htaken hempty hnone rfl
      rcases hor with rfl | rfl
      · exact hends
      · exact hends
    rcases hone with hcode | hcode
    · exact hrefused .switch (.inl rfl) (by rw [hcode]; rfl)
    · exact hrefused .invoke (.inr rfl) (by rw [hcode]; rfl)
  · intro hcode hshort
    refine ⟨_, rfl, ?_⟩
    rw [setAction_arrives (kind := .returnSet) hrun htaken hkind (by rw [hcode]; rfl)]
    exact orderArrives_refused (a := orderAction o .returnSet) hwf htaken hempty (if_pos hshort) rfl

end Sys2Proof.SetOrders
end

section
/-! PROOFS. The decision of the set action in flight (R37 to R43): which command takes it, and what a refusal leaves. -/

namespace Sys2Proof.Decisions
open Sys2Proof.Machine Sys2Proof.Safety Sys2Proof.Notices

/-- The command that decides an action of a kind; REFRESH_SET does so when no order of its own is in hand. -/
def decides (s : State) (kind : SetActionKind) (c : Instr) : Prop :=
  kind = .invoke ∧ c = .invoke ∨ kind = .switch ∧ c = .switch ∨ kind = .returnSet ∧ c = .returnSet
    ∨ kind = .refresh ∧ c = .refreshSet ∧ ∀ w o, s.orders.sweep = some w → w.current = some o → o.kind ≠ 5

theorem handOver_none {s : State} {kind : Nat} (act : State → TakenOrder → State)
    (hnone : ∀ w o, s.orders.sweep = some w → w.current = some o → o.kind ≠ kind) : s.handOver kind act = s := by
  have hhand : orderInHand s (orderKind kind) = none := by
    unfold orderInHand
    split
    · next w hw =>
      cases hcurrent : w.current with
      | none => rfl
      | some o => simp [orderKind, hnone w o hw hcurrent]
    · rfl
  simp only [State.handOver, hhand]

theorem decideHead_head {s : State} {a : SetAction} {rest : List SetAction} (hqueue : s.sets.queue = a :: rest) :
    s.decideHead a.kind = s.decideAction a := by
  simp [State.decideHead, hqueue]

/-- The command that decides the action in flight takes its decision. -/
theorem exec_decides {s : State} {a : SetAction} {rest : List SetAction} {c : Instr} (hqueue : s.sets.queue = a :: rest)
    (hcommand : decides s a.kind c) : exec c s = .next (s.decideAction a) := by
  have hhead := decideHead_head hqueue
  rcases hcommand with ⟨hkind, rfl⟩ | ⟨hkind, rfl⟩ | ⟨hkind, rfl⟩ | ⟨hkind, rfl, hnone⟩
  · rw [hkind] at hhead
    exact congrArg Host.Outcome.next hhead
  · rw [hkind] at hhead
    exact congrArg Host.Outcome.next hhead
  · rw [hkind] at hhead
    exact congrArg Host.Outcome.next hhead
  · rw [hkind] at hhead
    have hown : refreshSet s = s.decideHead .refresh := by
      rw [refreshSet, handOver_none _ hnone]
    exact congrArg Host.Outcome.next (hown.trans hhead)

/-! ## Refusals -/

/-- The first failing check of an action with a load (R38, R40 to R42). -/
theorem actionRefusal_some {s : State} {a : SetAction} {d : DriveSet} {clamped : Bool} {outcome : OutcomeCode}
    (h : s.balance.run ≠ none ∧ outcome = .busy
      ∨ s.balance.run = none ∧ (a.kind = .invoke ∨ a.kind = .switch)
        ∧ (d.authority < a.level ∧ outcome = .denied
          ∨ a.level ≤ d.authority ∧ d.valid = false ∧ outcome = .notValid
          ∨ a.level ≤ d.authority ∧ d.valid = true ∧ (∃ e ∈ s.sets.chain, e.index = a.index)
            ∧ outcome = .setBusy
          ∨ a.level ≤ d.authority ∧ d.valid = true ∧ (∀ e ∈ s.sets.chain, e.index ≠ a.index)
            ∧ a.kind = .invoke ∧ 4 ≤ s.sets.chain.length ∧ outcome = .chainFull)
      ∨ s.balance.run = none ∧ a.kind = .returnSet
        ∧ (s.sets.chain.length ≤ 1 ∧ outcome = .chainEmpty
          ∨ 2 ≤ s.sets.chain.length ∧ ∃ top, s.sets.cache = some top
            ∧ (top.authority < a.level ∧ outcome = .denied
              ∨ a.level ≤ top.authority ∧ d.valid = false ∧ outcome = .notValid))
      ∨ s.balance.run = none ∧ a.kind = .refresh ∧ d.valid = false ∧ outcome = .notValid) :
    actionRefusal s a (some (d, clamped)) = some outcome := by
  have hplace : ∀ full : Bool, s.balance.run = none →
      (d.authority < a.level ∧ outcome = .denied
        ∨ a.level ≤ d.authority ∧ d.valid = false ∧ outcome = .notValid
        ∨ a.level ≤ d.authority ∧ d.valid = true ∧ (∃ e ∈ s.sets.chain, e.index = a.index) ∧ outcome = .setBusy
        ∨ a.level ≤ d.authority ∧ d.valid = true ∧ (∀ e ∈ s.sets.chain, e.index ≠ a.index) ∧ full = true
          ∧ outcome = .chainFull) → placeRefusal s a (some (d, clamped)) full = some outcome := by
    rintro full hnone hcase
    have hbusy : s.sets.busy a.index = true ↔ ∃ e ∈ s.sets.chain, e.index = a.index := by simp [SetManager.busy]
    simp only [placeRefusal, hnone, Option.isSome_none, Bool.false_eq_true, if_false]
    rcases hcase with ⟨hlow, rfl⟩ | ⟨hhigh, hvalid, rfl⟩ | ⟨hhigh, hvalid, hin, rfl⟩ | ⟨hhigh, hvalid, hout, hfull, rfl⟩
    · rw [if_pos hlow]
    · simp [Nat.not_lt_of_le hhigh, hvalid]
    · simp [Nat.not_lt_of_le hhigh, hvalid, hbusy.2 hin]
    · have hfree : s.sets.busy a.index = false := Bool.eq_false_iff.2 fun hno => by
        obtain ⟨e, he, heq⟩ := hbusy.1 hno
        exact hout e he heq
      simp [Nat.not_lt_of_le hhigh, hvalid, hfree, hfull]
  rcases h with ⟨hrun, rfl⟩ | ⟨hnone, hkind, hcase⟩ | ⟨hnone, hkind, hcase⟩ | ⟨hnone, hkind, hvalid, rfl⟩
  · have hsome : s.balance.run.isSome = true := Option.isSome_iff_ne_none.2 hrun
    cases hkind : a.kind <;> simp [actionRefusal, hkind, placeRefusal, returnRefusal, refreshRefusal, hsome]
  · rcases hkind with hkind | hkind
    · simp only [actionRefusal, hkind]
      refine hplace _ hnone ?_
      rcases hcase with h | h | h | ⟨hhigh, hvalid, hout, -, hfull, rfl⟩
      · exact .inl h
      · exact .inr (.inl h)
      · exact .inr (.inr (.inl h))
      · exact .inr (.inr (.inr ⟨hhigh, hvalid, hout, decide_eq_true hfull, rfl⟩))
    · simp only [actionRefusal, hkind]
      refine hplace _ hnone ?_
      rcases hcase with h | h | h | ⟨-, -, -, hno, -⟩
      · exact .inl h
      · exact .inr (.inl h)
      · exact .inr (.inr (.inl h))
      · exact absurd (hkind.symm.trans hno) (by decide)
  · simp only [actionRefusal, hkind, returnRefusal, hnone, Option.isSome_none, Bool.false_eq_true, if_false]
    rcases hcase with ⟨hshort, rfl⟩ | ⟨hlong, top, htop, hcase⟩
    · rw [if_pos hshort]
    · have hauthority : topAuthority s = top.authority := by simp [topAuthority, htop]
      rw [if_neg (Nat.not_le_of_lt hlong), hauthority]
      rcases hcase with ⟨hlow, rfl⟩ | ⟨hhigh, hvalid, rfl⟩
      · rw [if_pos hlow]
      · simp [Nat.not_lt_of_le hhigh, hvalid]
  · simp [actionRefusal, hkind, refreshRefusal, hnone, hvalid]

theorem conclude_refused {s : State} {a : SetAction} {d : Option (DriveSet × Bool)} {outcome : OutcomeCode}
    (h : actionRefusal s a d = some outcome) : s.conclude a d = s.reportAction a outcome := by
  simp [State.conclude, h]

theorem reportAction_teardown (s : State) (a : SetAction) (outcome : OutcomeCode) :
    (s.reportAction a outcome).port.teardownPending = s.port.teardownPending := by
  unfold State.reportAction
  split
  · rfl
  · have hport := noticesOnly_port (noticesOnly_offer s .frame (.outcome outcome) (by assumption))
    rw [State.logFrame, hport]

/-- Settles O21: the refusal is reported, and the actions that wait are taken up. -/
theorem refusedSetActionChangesNothing : Obligations.RefusedSetActionChangesNothing := by
  unfold Obligations.RefusedSetActionChangesNothing
  rintro s a rest c d clamped hwf hno hqueue ⟨hindex, hslots, -⟩ hstaged hcommand outcome hcase
  have hrefused := conclude_refused (actionRefusal_some (clamped := clamped) hcase)
  have hdecides : s.decideAction a = State.takeWaiting rest (s.reportAction a outcome) := by
    have hport : (s.reportAction a outcome).port.teardownPending = false := (reportAction_teardown s a outcome).trans hno
    rw [State.decideAction, hstaged, hrefused, State.nextAction_waiting _ hport, State.reportAction_sets, hqueue]
    rfl
  have hslot : ∀ n, a.source = .order n → n < 32 := hslots a (by rw [hqueue]; exact List.mem_cons_self)
  refine ⟨s.reportAction a outcome, _, exec_decides hqueue hcommand, s.reportAction_refused a outcome hwf hindex hslot, ?_, ?_⟩
  · rw [hdecides]
    exact State.takeWaiting_taken rest _ (State.reportAction_wf _ _ _ hwf) (s.reportAction_logIndex a _ hindex)
      fun b hb => hslots b (by rw [hqueue]; exact List.mem_cons_of_mem _ hb)
  · rw [hdecides, State.takeWaiting_sets, State.reportAction_sets]

end Sys2Proof.Decisions
end

section
/-! PROOFS. The readers of the set cache at a change of it (R45): the duty falls to a lower cap (R83), the sound engine
starts afresh (R151, R154, R156), and heater and fan work by the new set (R178, R180). -/

namespace Sys2Proof.CacheReaders
open Sys2Proof Sys2Proof.Machine Sys2Proof.Safety Sys2Proof.Notices Sys2Proof.Triggers

/-! ## The duty cap (R83) -/

theorem lowerDuty_capped (b : Bridge) (now cap : Nat) : phaseCapped b (b.lowerDuty now cap) now cap := by
  unfold phaseCapped
  by_cases hlow : b.state = .drive ∧ ∃ e, b.onEnd = some e ∧ b.periodStart + cap * 50 < e
  · rw [if_pos hlow]
    obtain ⟨hstate, e, hend, hlate⟩ := hlow
    have hlowers : b.lowerDuty now cap = if b.periodStart + cap * 50 ≤ now then b.endOnPhase now
        else { b with onEnd := some (b.periodStart + cap * 50), params := { b.params with duty := cap } } := by
      unfold Bridge.lowerDuty
      rw [hend]
      exact if_pos ⟨hstate, hlate⟩
    by_cases hpast : b.periodStart + cap * 50 ≤ now
    · rw [if_pos hpast, hlowers, if_pos hpast]
      refine ⟨PwmPeriods.endOnPhase_within b now, ?_, PwmPeriods.endOnPhase_eq b now⟩
      rw [PwmPeriods.endOnPhase_eq]
      cases b.params.freewheel <;> rfl
    · rw [if_neg hpast, hlowers, if_neg hpast]
  · rw [if_neg hlow]
    unfold Bridge.lowerDuty
    cases hend : b.onEnd with
    | none => rfl
    | some e => exact if_neg fun hno => hlow ⟨hno.1, e, hend, hno.2⟩

theorem tractionSetChange_capped (s : State) : dutyCapped s s.tractionSetChange := by
  rintro cap rfl
  unfold State.tractionSetChange
  refine ⟨fun hle => if_neg (Nat.not_lt.2 hle), fun hlow hrest => ?_, fun hlow p hp => ?_⟩
  · simp only [if_pos hlow, State.lowerDuty, State.onTraction]
  · simp only [if_pos hlow, State.lowerDuty, State.onTraction, hp]
    exact ⟨lowerDuty_capped _ _ _, lowerDuty_capped _ _ _, rfl⟩

/-- Of the traction controller a set change lowers u and the lowest duty, of the bridges it changes the held command and
the bridges themselves. -/
theorem tractionSetChange_eq (s : State) : s.tractionSetChange = { s with
    traction := { s.traction with
      u := min s.traction.u s.tractionSet.dutyCap, lowest := s.tractionSetChange.traction.lowest }
    bridges := { s.bridges with
      held := s.tractionSetChange.bridges.held, a := s.tractionSetChange.bridges.a
      b := s.tractionSetChange.bridges.b } } := by
  unfold State.tractionSetChange
  simp only
  by_cases hlow : s.tractionSet.dutyCap < s.traction.u
  · rw [if_pos hlow, Nat.min_eq_right (Nat.le_of_lt hlow)]
    unfold State.lowerDuty
    simp only [State.onTraction]
    cases hheld : s.bridges.held <;> simp [State.onBridges, State.noteDuty, State.onTraction]
  · rw [if_neg hlow, Nat.min_eq_left (Nat.le_of_not_lt hlow)]

/-! ## The sound engine (R151, R154, R156) -/

theorem soundOnly_stopVoice {s : State} (hwf : s.xm.wf = true) {n : Nat} (hn : n < 8) : soundOnly s (s.stopVoice n) := by
  refine ⟨s.stopVoice_wf n hwf, fun hvoices => ⟨?_, s.stopVoice_same n hvoices hn hwf⟩, noticesOnly_stopVoice s n, ?_⟩
  · exact BlockLaws.stopVoice_lawful (l := .voices) n hvoices
  · have hsound : (s.stopVoice n).sound = { s.sound with
        voices := s.sound.voices.set n { s.sound.voice n with state := .idle } } := by rw [stopVoice_is]
    have hstatus : (s.stopVoice n).status = s.status := by simp
    rw [hsound, hstatus]
    exact stopVoice_is s n

theorem soundOnly_startOrFault {s : State} (hwf : s.xm.wf = true) {n : Nat} (hn : n < 8) (clip : Nat) {use : ClipUse}
    (f : StartFields) (huse : use ≠ .none) : soundOnly s (s.startOrFault n clip use f) := by
  refine ⟨s.startOrFault_wf n clip use f hwf, fun hvoices => s.startOrFault_kept n clip use f hwf hvoices hn huse,
    noticesOnly_startOrFault s n clip use f, ?_⟩
  have hframe := s.startOrFault_frame n clip use f
  generalize s.startOrFault n clip use f = t at hframe ⊢
  obtain ⟨hpending, hclock, hfree, hlast, horders, htimers, hsets, hmotion, htraction, hbridges, hbalance, hradio, hlamps,
    hsupply⟩ := hframe
  cases t
  simp_all

/-- A voice that a HOLD entry has started fades, no entry's any more (R156). -/
def holdFades (v : Voice) : Voice := if v.heldBy none then { v.fade16 with starter := .event } else v

theorem heldBy_none_iff {v : Voice} : v.heldBy none = true ↔ v.state ≠ .idle ∧ ∃ k, v.starter = .function k true := by
  unfold Voice.heldBy
  cases v.starter <;> simp

theorem holdFades_lawful {v : Voice} (h : voiceLawful v) : voiceLawful (holdFades v) := by
  unfold holdFades
  split
  · next hheld =>
    obtain ⟨hbusy, k, hstarter⟩ := heldBy_none_iff.1 hheld
    have hfades := voiceLawful_fade16 h (by rw [hstarter]; trivial) hbusy
    obtain ⟨hclip, hvalid, hwithin, hstarved, -⟩ := hfades.resolve_left fun hno => VoiceState.noConfusion hno
    exact .inr ⟨hclip, hvalid, hwithin, hstarved, fun hno => hno.elim⟩
  · exact h

/-- The sound engine once voice 0 has its new clip: voice 1 stops, the rotation begins again, and HOLD voices fade. -/
def holdsFaded (v : State) : State :=
  ((v.stopVoice 1).onSound fun u => { u with rotation := 0 }).onSound fun u => { u with voices := u.voices.map holdFades }

theorem soundSetChange_eq (s : State) :
    s.soundSetChange = triggersFrom State.holdTrigger 0 (holdsFaded s.startEngine).soundSet.triggers
      (holdsFaded s.startEngine) := rfl

theorem holdsFaded_eq (v : State) : holdsFaded v = { v with
    xm := (v.stopVoice 1).xm, port := (v.stopVoice 1).port
    sound := { v.sound with
      voices := (v.sound.voices.set 1 { v.sound.voice 1 with state := .idle }).map holdFades, rotation := 0 } } := by
  unfold holdsFaded
  have hstop := stopVoice_is v 1
  generalize v.stopVoice 1 = u at hstop ⊢
  generalize u.xm = xm, u.port = port at hstop ⊢
  rw [hstop]
  rfl

theorem soundOnly_holdsFaded {v : State} (hwf : v.xm.wf = true) : soundOnly v (holdsFaded v) := by
  have hstop := soundOnly_stopVoice hwf (n := 1) (by decide)
  refine soundOnly_trans hstop (soundOnly_trans ?_ (soundOnly_onSound ?_ _ ?_))
  · exact soundOnly_onSound hstop.1 _ id
  · exact hstop.1
  · exact fun hvoices => voicesLawful_map hvoices holdFades fun x hx => holdFades_lawful hx

/-- The HOLD entries of a new set start (R156), one after the other. -/
theorem holdsStart_from {s : State} (hwf : s.xm.wf = true) (k : Nat) (entries : List Trigger) :
    holdsStart k entries s (triggersFrom State.holdTrigger k entries s)
      ∧ soundOnly s (triggersFrom State.holdTrigger k entries s) := by
  induction entries generalizing s k with
  | nil => exact ⟨rfl, soundOnly_refl hwf⟩
  | cons e rest ih =>
    have hone : soundOnly s (s.holdTrigger k e) := by
      unfold State.holdTrigger
      split
      · exact soundOnly_trigger hwf _ _ (by decide)
      · exact soundOnly_refl hwf
    obtain ⟨hrest, hsound⟩ := ih hone.1 (k + 1)
    refine ⟨⟨_, ?_, hrest⟩, soundOnly_trans hone hsound⟩
    unfold State.holdTrigger
    by_cases hgoes : e.hold = true ∧ s.radio.request.functions.getLsbD e.function = true
    · rw [if_pos hgoes, if_pos (by rw [functionBit, hgoes.1, hgoes.2]; rfl)]
      have hplayed := trigger_is_played hwf e.clip 2 (.function k true) true (use := .function) (by decide)
      rw [State.functionClip, hgoes.1]
      exact hplayed
    · rw [if_neg hgoes, if_neg (by rw [Bool.and_eq_true]; exact hgoes)]

theorem engineStarts {s : State} (hwf : s.xm.wf = true) :
    voiceGiven s s.startEngine 0 s.soundSet.engineClip .engine (fun e =>
      freshVoice s.soundSet.engineClip e e.volume
        (max 0x40 (min 0x400 (s.soundSet.basePitch
          + (if s.motion.sensor = .ok then s.motion.m else s.traction.c) * s.soundSet.slope / 4096)))
        none 3 .engine (s.sound.startCount + 1)) := by
  have hgiven := startOrFault_is_given hwf 0 s.soundSet.engineClip (use := .engine)
    { volume := none, pitch := some (enginePitch s), repeats := .endless, priority := 3, starter := .engine } (by decide)
  have hpitch : enginePitch s = max 0x40 (min 0x400 (s.soundSet.basePitch
      + (if s.motion.sensor = .ok then s.motion.m else s.traction.c) * s.soundSet.slope / 4096)) := by
    unfold enginePitch engineRate
    cases s.motion.sensor <;> rfl
  rw [← hpitch]
  exact hgiven

theorem soundOnly_startEngine {s : State} (hwf : s.xm.wf = true) : soundOnly s s.startEngine :=
  soundOnly_startOrFault hwf (by decide) _ _ (by decide)

theorem soundSetChange_retold {s : State} (hwf : s.xm.wf = true) :
    soundRetold s s.soundSetChange ∧ soundOnly s s.soundSetChange := by
  have hengine := soundOnly_startEngine hwf
  have hfaded := soundOnly_trans hengine (soundOnly_holdsFaded hengine.1)
  obtain ⟨hstarts, hholds⟩ := holdsStart_from hfaded.1 0 (holdsFaded s.startEngine).soundSet.triggers
  have htriggers : (holdsFaded s.startEngine).soundSet.triggers = s.soundSet.triggers := by
    unfold State.soundSet
    rw [hfaded.2.2.2]
  rw [soundSetChange_eq]
  refine ⟨⟨s.startEngine, holdsFaded s.startEngine, engineStarts hwf, ?_, ?_⟩, soundOnly_trans hfaded hholds⟩
  · rw [holdsFaded_eq]
    congr 3
    dsimp only
    congr 2
    funext x
    unfold holdFades Voice.heldBy Voice.fade16
    cases x.starter with
    | order | event | chuff | engine => simp
    | function k hold => cases hold <;> by_cases hidle : x.state = .idle <;> simp [hidle]
  · rw [← htriggers]
    exact hstarts

/-! ## The heater and the fan (R178, R180) -/

/-- The fan follows the heater into and out of REGULATE (R180); `before` is the heater's state before. -/
theorem fanFollows_is (u : State) (before : HeaterState) :
    (u.fanFollows before).lamps.fan = (if before = .regulate ∧ u.lamps.heater.state ≠ .regulate
        ∧ (u.lamps.fan.state = .run ∨ u.lamps.fan.state = .puff) then
      (if u.lampSet.purgeTime = 0 then { u.lamps.fan with state := .off, puff := none }
      else { u.lamps.fan with
        state := .purge, puff := none, purge := some (u.clock + 1024000 * (1000 * u.lampSet.purgeTime)) })
    else if before ≠ .regulate ∧ u.lamps.heater.state = .regulate
        ∧ (u.lamps.fan.state = .off ∨ u.lamps.fan.state = .purge) then
      { u.lamps.fan with state := .run, purge := none, fast := decide (u.traction.c ≠ 0) }
    else u.lamps.fan)
    ∧ u.fanFollows before = { u with lamps := { u.lamps with fan := (u.fanFollows before).lamps.fan } } := by
  have hms : ∀ n, ms n = 1024000 * n := fun n => Nat.mul_comm _ _
  unfold State.fanFollows State.fanPurge State.fanStart State.fanRuns
  by_cases hbefore : before = .regulate <;> by_cases hafter : u.lamps.heater.state = .regulate <;>
    cases hfan : u.lamps.fan.state <;> simp [hbefore, hafter, hfan, hms, State.onFan, State.onLamps]

/-- The heater at a set change, up to the fan's part: the enable, the dry test, then PREHEAT or REGULATE without a
count (R178). -/
def heaterRetests (s : State) : State :=
  let s := s.onHeater fun h => h.unlessEnabled (heaterEnabled s)
  let s := s.dryTest
  s.onHeater fun h => h.work (setpoint s) 0

theorem heaterSetChange_eq (s : State) :
    s.heaterSetChange = (heaterRetests s).fanFollows s.lamps.heater.state := rfl

theorem recordFault_eq (t : State) : t.recordFault = { t with
    port := withNotice t.port [.fault], status := { t.status with faultCount := t.status.faultCount + 1 } } := rfl

theorem heaterRetests_is (s : State) {works dries : Bool}
    (hworks : works = (decide (s.lamps.heater.state = .preheat) || decide (s.lamps.heater.state = .regulate)))
    (hdries : dries = (works && heaterEnabled s && decide (s.lampSet.dryLimit < s.lamps.heater.lastT))) :
    heaterRetests s = { s with
      port := withNotice s.port (if dries then [.fault] else [])
      status := { s.status with faultCount := if dries then s.status.faultCount + 1 else s.status.faultCount }
      lamps := { s.lamps with heater := 
        if works = true ∧ heaterEnabled s = false then { s.lamps.heater with state := .off, output := false }
        else if dries = true then { s.lamps.heater with dry := true, state := .dry, output := false }
        else s.lamps.heater.work (setpoint s) 0 } } := by
  have hpoint : ∀ l, setpoint { s with lamps := l } = setpoint s := fun _ => rfl
  have hset : ∀ l, ({ s with lamps := l } : State).lampSet = s.lampSet := fun _ => rfl
  subst hworks
  unfold heaterRetests State.dryTest dryFault
  by_cases henabled : heaterEnabled s = true <;> by_cases hdry : s.lampSet.dryLimit < s.lamps.heater.lastT <;>
    cases hstate : s.lamps.heater.state <;>
    simp [hdries, henabled, hdry, hstate, hset, State.onHeater, State.onLamps, Heater.unlessEnabled, Heater.working, Heater.work, recordFault_eq, withNotice_nil]

/-- The heater at a set change: the enable, the dry test, then PREHEAT or REGULATE without a count. -/
theorem heaterSetChange_retold (s : State) : heaterRetold s s.heaterSetChange := by
  rintro h rfl fan rfl enabled henabled point hpoint works hworks dries hdries
  have henabled' : enabled = heaterEnabled s := henabled
  subst henabled'
  have hpoint' : point = setpoint s := hpoint
  subst hpoint'
  have hretests := heaterRetests_is s hworks hdries
  obtain ⟨hfan, hframe⟩ := fanFollows_is (heaterRetests s) s.lamps.heater.state
  rw [heaterSetChange_eq]
  generalize (heaterRetests s).fanFollows s.lamps.heater.state = t at hfan hframe ⊢
  have hheater : t.lamps.heater = (heaterRetests s).lamps.heater := by rw [hframe]
  rw [hheater]
  refine ⟨?_, ?_, ?_⟩
  · rw [hretests]
    simp only [Heater.work]
    cases s.lamps.heater.state <;> simp
  · rw [hfan, hretests]
    rfl
  · refine hframe.trans ?_
    generalize t.lamps.fan = fan
    rw [hretests]

end Sys2Proof.CacheReaders
end

section
/-! PROOFS. What the reports of the set actions decided write (R20, R37, R43, R135): the slot of each order and the record of
each frame. -/

namespace Sys2Proof.Reports
open Sys2Proof Sys2Proof.Machine Sys2Proof.Safety Sys2Proof.Notices

/-- What the reports of the actions of `queue` may write, the log's write index being `index`. -/
def reportsOf (index : Nat) (queue : List SetAction) (a : Nat) : Prop :=
  (∃ b ∈ queue, ∃ n, b.source = .order n ∧ inSlot n a)
    ∨ ∃ k, k < queue.countP (fun b => !Requestor.isOrder b.source) ∧ inRecord ((index + k) % 64) a

theorem inReports_eq (s : State) : inReports s = reportsOf s.radio.logIndex s.sets.queue := rfl

theorem reportsOf_order {index : Nat} {b : SetAction} {rest : List SetAction} {n a : Nat} (hsource : b.source = .order n)
    (h : inSlot n a ∨ reportsOf index rest a) : reportsOf index (b :: rest) a := by
  rcases h with hslot | ⟨c, hc, hin⟩ | ⟨k, hk, hin⟩
  · exact .inl ⟨b, List.mem_cons_self, n, hsource, hslot⟩
  · exact .inl ⟨c, List.mem_cons_of_mem _ hc, hin⟩
  · refine .inr ⟨k, ?_, hin⟩
    rw [List.countP_cons]
    omega

/-- A frame's record stands first, or, where it was dropped, the records of the rest. -/
theorem reportsOf_frame {index next : Nat} {b : SetAction} {rest : List SetAction} {f : Frame} {a : Nat}
    (hindex : index < 64) (hsource : b.source = .frame f) (hnext : next = index ∨ next = (index + 1) % 64)
    (h : inRecord index a ∨ reportsOf next rest a) : reportsOf index (b :: rest) a := by
  have hcount : (b :: rest).countP (fun b => !Requestor.isOrder b.source)
      = rest.countP (fun b => !Requestor.isOrder b.source) + 1 := by
    rw [List.countP_cons, if_pos (by rw [hsource]; rfl)]
  rcases h with hrecord | ⟨c, hc, hin⟩ | ⟨k, hk, hin⟩
  · exact .inr ⟨0, by omega, by rwa [Nat.add_zero, Nat.mod_eq_of_lt hindex]⟩
  · exact .inl ⟨c, List.mem_cons_of_mem _ hc, hin⟩
  · rcases hnext with rfl | rfl
    · exact .inr ⟨k, by omega, hin⟩
    · refine .inr ⟨k + 1, by omega, ?_⟩
      rwa [show (index + (k + 1)) % 64 = ((index + 1) % 64 + k) % 64 by omega]

theorem sameBut_trans_or {m m' m'' : Memory} {p q r : Nat → Prop} (h : sameBut m m' p) (h' : sameBut m' m'' q)
    (hor : ∀ a, p a ∨ q a → r a) : sameBut m m'' r :=
  sameBut_trans (sameBut_weaken h fun a ha => hor a (.inl ha)) (sameBut_weaken h' fun a ha => hor a (.inr ha))

/-- What reports reach: memory, notices, the slots held, the place in the log, and the queue. -/
def reportsOnly (s t : State) : Prop :=
  t = { s with
    xm := t.xm, lastGranted := t.lastGranted, port := { s.port with notice := t.port.notice }
    orders := { s.orders with held := t.orders.held }
    radio := { s.radio with
      logIndex := t.radio.logIndex, logSeq := t.radio.logSeq, overflow := t.radio.overflow }
    sets := { s.sets with queue := t.sets.queue } }

theorem reportsOnly_trans {s t u : State} (h : reportsOnly s t) (h' : reportsOnly t u) : reportsOnly s u := by
  unfold reportsOnly at *
  generalize u.xm = xm, u.lastGranted = last, u.port.notice = notice, u.orders.held = held, u.radio.logIndex = index,
    u.radio.logSeq = number, u.radio.overflow = overflow, u.sets.queue = queue at h' ⊢
  rw [h', h]

theorem reportsOnly_queueIs (s : State) (q : List SetAction) : reportsOnly s (s.queueIs q) := rfl

theorem reportAction_eq (s : State) (a : SetAction) (outcome : OutcomeCode) :
    reportsOnly s (s.reportAction a outcome) ∧ noticesOnly s (s.reportAction a outcome) := by
  unfold State.reportAction
  split
  · next n _ =>
    have hslot := s.completeSlot_eq n outcome 0 (chainResult s.sets)
    generalize s.completeSlot n outcome 0 (chainResult s.sets) = t at hslot ⊢
    generalize t.xm = xm at hslot
    rw [hslot]
    exact ⟨rfl, ⟨[.order], rfl⟩, rfl⟩
  · next f _ =>
    have hlogged := s.offer_eq .frame (.outcome outcome) f
    have hnotices := noticesOnly_offer s .frame (.outcome outcome) f
    rw [State.logFrame]
    generalize s.offer .frame (.outcome outcome) f = t at hlogged hnotices ⊢
    refine ⟨?_, hnotices⟩
    unfold reportsOnly
    generalize t.xm = xm, t.port.notice = notice, t.radio.logIndex = index, t.radio.logSeq = number,
      t.radio.overflow = overflow at hlogged ⊢
    rw [hlogged]

/-- The memory that one report writes, and the place in the log after it. -/
theorem reportAction_writes {s : State} (a : SetAction) (outcome : OutcomeCode) (hwf : s.xm.wf = true)
    (hindex : s.radio.logIndex < 64) (hslot : ∀ n, a.source = .order n → n < 32) :
    (∀ n, a.source = .order n → sameBut s.xm (s.reportAction a outcome).xm (inSlot n)
        ∧ (s.reportAction a outcome).radio.logIndex = s.radio.logIndex)
      ∧ ∀ f, a.source = .frame f → sameBut s.xm (s.reportAction a outcome).xm (inRecord s.radio.logIndex)
        ∧ ((s.reportAction a outcome).radio.logIndex = s.radio.logIndex
          ∨ (s.reportAction a outcome).radio.logIndex = (s.radio.logIndex + 1) % 64) := by
  have hrefused := s.reportAction_refused a outcome hwf hindex hslot
  generalize s.reportAction a outcome = t at hrefused ⊢
  unfold refusedAction at hrefused
  refine ⟨fun n hn => ?_, fun f hf => ?_⟩
  · rw [hn] at hrefused
    obtain ⟨-, hsame, hframe⟩ := hrefused
    refine ⟨hsame, ?_⟩
    rw [hframe]
  · rw [hf] at hrefused
    obtain ⟨hoffered, honly, -⟩ := hrefused
    refine ⟨FrameEnds.recordOnly_same honly, ?_⟩
    obtain ⟨-, hoffered⟩ := hoffered
    split at hoffered
    · exact .inl hoffered.1
    · exact .inr hoffered.2.1

/-- One report, then those of the rest. -/
theorem report_then {s t : State} {a : SetAction} {rest : List SetAction} (outcome : OutcomeCode) (hwf : s.xm.wf = true)
    (hindex : s.radio.logIndex < 64) (hslot : ∀ n, a.source = .order n → n < 32)
    (hrest : sameBut (s.reportAction a outcome).xm t.xm (reportsOf (s.reportAction a outcome).radio.logIndex rest)) :
    sameBut s.xm t.xm (reportsOf s.radio.logIndex (a :: rest)) := by
  obtain ⟨horder, hframe⟩ := reportAction_writes a outcome hwf hindex hslot
  cases hsource : a.source with
  | order n =>
    obtain ⟨hone, hplace⟩ := horder n hsource
    rw [hplace] at hrest
    exact sameBut_trans_or hone hrest fun b hb => reportsOf_order hsource hb
  | frame f =>
    obtain ⟨hone, hplace⟩ := hframe f hsource
    exact sameBut_trans_or hone hrest fun b hb => reportsOf_frame hindex hsource hplace hb

/-- The actions that wait are taken up (R37): what their reports write and reach. -/
theorem takeWaiting_reports (waiting : List SetAction) {s : State} (hwf : s.xm.wf = true)
    (hindex : s.radio.logIndex < 64) (hslots : ∀ a ∈ waiting, ∀ n, a.source = .order n → n < 32) :
    sameBut s.xm (State.takeWaiting waiting s).xm (reportsOf s.radio.logIndex waiting)
      ∧ reportsOnly s (State.takeWaiting waiting s) ∧ noticesOnly s (State.takeWaiting waiting s) := by
  induction waiting generalizing s with
  | nil => exact ⟨sameBut_refl _ _, rfl, noticesOnly_refl s⟩
  | cons a rest ih =>
    have hslot := hslots a List.mem_cons_self
    cases hloads : loadIndex s.sets a with
    | some x =>
      have htaken : State.takeWaiting (a :: rest) s = s.queueIs ({ a with load := some (TableLoad.ofSet x) } :: rest) := by
        simp only [State.takeWaiting, hloads]
      rw [htaken]
      exact ⟨sameBut_refl _ _, rfl, noticesOnly_refl s⟩
    | none =>
      have htaken : State.takeWaiting (a :: rest) s = State.takeWaiting rest (s.reportAction a
          (if s.balance.run.isSome then .busy else if a.kind = .returnSet then .chainEmpty else .badIndex)) := by
        simp only [State.takeWaiting, hloads]
        rw [s.conclude_unloaded a hloads]
      rw [htaken]
      generalize (if s.balance.run.isSome then OutcomeCode.busy
        else if a.kind = .returnSet then .chainEmpty else .badIndex) = outcome
      obtain ⟨hsame, honly, hnotices⟩ := ih (State.reportAction_wf _ _ _ hwf) (s.reportAction_logIndex a outcome hindex)
        fun b hb => hslots b (List.mem_cons_of_mem _ hb)
      obtain ⟨hone, hraised⟩ := reportAction_eq s a outcome
      exact ⟨report_then outcome hwf hindex hslot hsame, reportsOnly_trans hone honly,
        noticesOnly_trans hraised hnotices⟩

/-- What is taken up depends on the chain alone. -/
theorem takenUp_congr {m m' : SetManager} (hchain : m'.chain = m.chain) (waiting : List SetAction) :
    takenUp m' waiting = takenUp m waiting := by
  have hload : ∀ a, loadIndex m' a = loadIndex m a := by
    intro a
    simp only [loadIndex, SetManager.belowIndex, SetManager.topIndex, hchain]
  induction waiting with
  | nil => rfl
  | cons a rest ih => simp only [takenUp, hload, ih]

/-- The report of an order's action stays while the rest report, no two actions answering one slot. -/
theorem slotDone_reports {m m' : Memory} {n index : Nat} {outcome : OutcomeCode} {result : List Byte}
    {a : SetAction} {rest : List SetAction} (hdone : slotDone m n outcome 0 result)
    (hsame : sameBut m m' (reportsOf index rest)) (hsource : a.source = .order n) (hslot : n < 32)
    (hapart : ∀ b ∈ rest, ∀ n, a.source = .order n → b.source ≠ .order n) : slotDone m' n outcome 0 result := by
  refine slotDone_of_same hdone hsame hslot fun x hx => ?_
  rintro (⟨b, hb, k, hk, hin⟩ | ⟨k, -, hin⟩)
  · have hne : k ≠ n := fun heq => hapart b hb n hsource (heq ▸ hk)
    exact inSlot_other hne hx hin
  · exact inSlot_record hslot hx hin

end Sys2Proof.Reports
end

section
/-! PROOFS. INVOKE, SWITCH and RETURN that pass their checks (R38 to R41): the change of chain, cache and request state, the
readers told of it, and the reports (R43, R45). -/

namespace Sys2Proof.SetChanges
open Sys2Proof Sys2Proof.Machine Sys2Proof.Safety Sys2Proof.Notices Sys2Proof.Triggers Sys2Proof.CacheReaders
open Sys2Proof.Reports Sys2Proof.Decisions

/-! ## What the readers of a set change reach -/

/-- What the readers of the cache and of the function bits reach: sound and segment bytes, heater and fan, notices and
faults, u and the lowest duty, and of the bridges the held command and the bridges themselves. -/
def toldOnly (s t : State) : Prop :=
  t.xm.wf = true ∧ (voicesLawful s → voicesLawful t ∧ sameBut s.xm t.xm inSegments) ∧ noticesOnly s t
    ∧ t = { s with
        xm := t.xm, port := t.port, status := t.status, sound := t.sound
        traction := { s.traction with u := t.traction.u, lowest := t.traction.lowest }
        bridges := { s.bridges with held := t.bridges.held, a := t.bridges.a, b := t.bridges.b }
        lamps := { s.lamps with heater := t.lamps.heater, fan := t.lamps.fan } }

theorem toldOnly_trans {s t u : State} (h : toldOnly s t) (h' : toldOnly t u) : toldOnly s u := by
  obtain ⟨-, hkept, hnotices, hframe⟩ := h
  obtain ⟨hwf, hkept', hnotices', hframe'⟩ := h'
  refine ⟨hwf, fun hvoices => ?_, noticesOnly_trans hnotices hnotices', ?_⟩
  · obtain ⟨hvoices', hsame⟩ := hkept hvoices
    obtain ⟨hvoices'', hsame'⟩ := hkept' hvoices'
    exact ⟨hvoices'', sameBut_trans hsame hsame'⟩
  · generalize u.xm = xm, u.port = port, u.status = status, u.sound = sound, u.traction.u = duty,
      u.traction.lowest = lowest, u.bridges.held = held, u.bridges.a = a, u.bridges.b = b, u.lamps.heater = heater,
      u.lamps.fan = fan at hframe' ⊢
    rw [hframe', hframe]

theorem toldOnly_refl {s : State} (hwf : s.xm.wf = true) : toldOnly s s :=
  ⟨hwf, fun hvoices => ⟨hvoices, sameBut_refl _ _⟩, noticesOnly_refl s, rfl⟩

theorem toldOnly_sound {s t : State} (h : soundOnly s t) : toldOnly s t := by
  obtain ⟨hwf, hkept, hnotices, hframe⟩ := h
  refine ⟨hwf, hkept, hnotices, ?_⟩
  generalize t.xm = xm, t.port = port, t.status = status, t.sound = sound at hframe
  rw [hframe]

theorem toldOnly_traction {s : State} (hwf : s.xm.wf = true) : toldOnly s s.tractionSetChange := by
  have hframe := tractionSetChange_eq s
  generalize s.tractionSetChange = t at hframe ⊢
  generalize t.traction.lowest = lowest, t.bridges.held = held, t.bridges.a = a, t.bridges.b = b at hframe
  rw [hframe]
  exact ⟨hwf, fun hvoices => ⟨hvoices, sameBut_refl _ _⟩, ⟨⟨[], rfl⟩, rfl⟩, rfl⟩

theorem toldOnly_heater {s : State} (hwf : s.xm.wf = true) : toldOnly s s.heaterSetChange := by
  obtain ⟨bits, faults, heater, fan, hframe⟩ : ∃ bits faults heater fan, s.heaterSetChange = { s with
      port := withNotice s.port bits, status := { s.status with faultCount := faults }
      lamps := { s.lamps with heater := heater, fan := fan } } := by
    obtain ⟨-, -, hframe⟩ := heaterSetChange_retold s _ rfl _ rfl _ rfl _ rfl _ rfl _ rfl
    exact ⟨_, _, _, _, hframe⟩
  rw [hframe]
  exact ⟨hwf, fun hvoices => ⟨hvoices, sameBut_refl _ _⟩, ⟨⟨bits, rfl⟩, rfl⟩, rfl⟩

theorem toldOnly_functions {s : State} (hwf : s.xm.wf = true) (before : Reg) : toldOnly s (s.tellFunctions before) := by
  obtain ⟨-, hsound⟩ := soundFunctions_act hwf before
  obtain ⟨-, hheater, -⟩ := (s.soundFunctions before).heaterArrival_told
  refine toldOnly_trans (toldOnly_sound hsound) ?_
  show toldOnly _ (s.soundFunctions before).heaterArrival
  obtain ⟨hwf', -⟩ := hsound
  generalize s.soundFunctions before = u at hwf' hheater ⊢
  generalize u.heaterArrival = t at hheater ⊢
  generalize t.lamps.heater = heater, t.lamps.fan = fan at hheater
  rw [hheater]
  exact ⟨hwf', fun hvoices => ⟨hvoices, sameBut_refl _ _⟩, ⟨⟨[], rfl⟩, rfl⟩, rfl⟩

/-- The readers of the cache told of its change (R45). -/
theorem tellSetChange_told {s : State} (hwf : s.xm.wf = true) :
    cacheTold s s.tellSetChange ∧ toldOnly s s.tellSetChange
      ∧ s.tellSetChange.traction.u = min s.traction.u s.tractionSet.dutyCap := by
  have htraction := toldOnly_traction hwf
  obtain ⟨hretold, hsound⟩ := soundSetChange_retold htraction.1
  have hheater := toldOnly_heater hsound.1
  refine ⟨⟨_, _, tractionSetChange_capped s, hretold, heaterSetChange_retold _⟩,
    toldOnly_trans htraction (toldOnly_trans (toldOnly_sound hsound) hheater), ?_⟩
  have hkept : s.tellSetChange.traction = s.tractionSetChange.traction := by simp [State.tellSetChange]
  rw [hkept, tractionSetChange_eq]

/-! ## The action's own change -/

theorem changeSet_eq (s : State) (a : SetAction) (d : DriveSet) (clamped : Bool) : s.changeSet a d clamped = { s with
    sets := { s.sets with chain := chainAfter s a, cache := some d, clamped := clamped }
    radio := { s.radio with request := requestAfter s a d } } := rfl

/-- The readers of the function bits told, where the action has changed one (log 15). -/
def bitsTold (s : State) (before : Reg) : State :=
  if s.radio.request.functions = before then s else s.tellFunctions before

/-- The part once an action has changed the set and its readers have been told. -/
def retold (s : State) (a : SetAction) (d : DriveSet) (clamped : Bool) : State :=
  (bitsTold (s.changeSet a d clamped) s.radio.request.functions).tellSetChange

theorem applyAction_eq (s : State) (a : SetAction) (d : DriveSet) (clamped : Bool) : s.applyAction a d clamped
    = if a.kind = .refresh then retold s a d clamped else (retold s a d clamped).raise .control := rfl

theorem bitsTold_only {s : State} (hwf : s.xm.wf = true) (before : Reg) : toldOnly s (bitsTold s before) := by
  unfold bitsTold
  split
  · exact toldOnly_refl hwf
  · exact toldOnly_functions hwf before

theorem bitsTold_told {s : State} (hwf : s.xm.wf = true) (before : Reg) :
    (s.radio.request.functions = before → bitsTold s before = s)
      ∧ (s.radio.request.functions ≠ before → functionsTold before s (bitsTold s before)) := by
  refine ⟨fun hsame => if_pos hsame, fun hne => ?_⟩
  rw [bitsTold, if_neg hne]
  exact tellFunctions_told hwf before

/-- What an action that passed its checks leaves, but for its report: the change, and its readers told. -/
theorem retold_told {s : State} (hwf : s.xm.wf = true) (a : SetAction) (d : DriveSet) (clamped : Bool) :
    cacheTold (bitsTold (s.changeSet a d clamped) s.radio.request.functions) (retold s a d clamped)
      ∧ toldOnly (s.changeSet a d clamped) (retold s a d clamped)
      ∧ (retold s a d clamped).traction.u = min s.traction.u d.traction.dutyCap := by
  have hbits := bitsTold_only (s := s.changeSet a d clamped) hwf s.radio.request.functions
  obtain ⟨htold, honly, hduty⟩ := tellSetChange_told hbits.1
  refine ⟨htold, toldOnly_trans hbits honly, hduty.trans ?_⟩
  have hkept : (bitsTold (s.changeSet a d clamped) s.radio.request.functions).traction = s.traction
      ∧ (bitsTold (s.changeSet a d clamped) s.radio.request.functions).sets = (s.changeSet a d clamped).sets := by
    unfold bitsTold
    split
    · exact ⟨rfl, rfl⟩
    · simp [changeSet_eq]
  obtain ⟨htraction, hsets⟩ := hkept
  rw [htraction, State.tractionSet, hsets]
  rfl

/-! ## The reports -/

/-- The report of the action decided, and the actions that wait taken up (R37, R43). -/
def reported (y : State) (a : SetAction) (rest : List SetAction) (outcome : OutcomeCode) : State :=
  State.takeWaiting rest (y.reportAction a outcome)

theorem reported_sets (y : State) (a : SetAction) (rest : List SetAction) (outcome : OutcomeCode) :
    (reported y a rest outcome).sets = { y.sets with queue := takenUp y.sets rest } := by
  rw [reported, State.takeWaiting_sets, State.reportAction_sets]

theorem reported_only {y : State} {a : SetAction} {rest : List SetAction} (outcome : OutcomeCode)
    (hwf : y.xm.wf = true) (hindex : y.radio.logIndex < 64)
    (hslots : ∀ b ∈ a :: rest, ∀ n, b.source = .order n → n < 32) :
    sameBut y.xm (reported y a rest outcome).xm (reportsOf y.radio.logIndex (a :: rest))
      ∧ reportsOnly y (reported y a rest outcome) ∧ noticesOnly y (reported y a rest outcome) := by
  obtain ⟨hsame, honly, hnotices⟩ := takeWaiting_reports rest (State.reportAction_wf y a outcome hwf)
    (y.reportAction_logIndex a outcome hindex) fun b hb => hslots b (List.mem_cons_of_mem _ hb)
  obtain ⟨hone, hraised⟩ := reportAction_eq y a outcome
  exact ⟨report_then outcome hwf hindex (hslots a List.mem_cons_self) hsame, reportsOnly_trans hone honly,
    noticesOnly_trans hraised hnotices⟩

/-- The order of the action decided has its completion write. -/
theorem reported_done {y : State} {a : SetAction} {rest : List SetAction} {outcome : OutcomeCode}
    (hwf : y.xm.wf = true) (hindex : y.radio.logIndex < 64)
    (hslots : ∀ b ∈ a :: rest, ∀ n, b.source = .order n → n < 32)
    (hapart : ∀ b ∈ rest, ∀ n, a.source = .order n → b.source ≠ .order n) {n : Nat} (hsource : a.source = .order n) :
    slotDone (reported y a rest outcome).xm n outcome 0 (chainResult y.sets) := by
  have hslot := hslots a List.mem_cons_self
  obtain ⟨hsame, -, -⟩ := takeWaiting_reports rest (State.reportAction_wf y a outcome hwf)
    (y.reportAction_logIndex a outcome hindex) fun b hb => hslots b (List.mem_cons_of_mem _ hb)
  have hrefused := y.reportAction_refused a outcome hwf hindex hslot
  unfold refusedAction at hrefused
  rw [hsource] at hrefused
  exact slotDone_reports hrefused.1 hsame hsource (hslot n hsource) hapart

/-- The frame of the action decided has its record, where none waits behind it. -/
theorem reported_logged {s y : State} {a : SetAction} {outcome : OutcomeCode} (hwf : y.xm.wf = true)
    (hindex : y.radio.logIndex < 64) {f : Frame} (hsource : a.source = .frame f)
    (hradio : y.radio.logIndex = s.radio.logIndex ∧ y.radio.logSeq = s.radio.logSeq)
    (hread : y.xm.read 0x32 = s.xm.read 0x32) : actionLogged s (reported y a [] outcome) f outcome := by
  have hrefused := y.reportAction_refused a outcome hwf hindex fun n hn => by rw [hsource] at hn; cases hn
  unfold refusedAction at hrefused
  rw [hsource] at hrefused
  obtain ⟨⟨hseq, hoffered⟩, -, -⟩ := hrefused
  obtain ⟨hlog, hnumber⟩ := hradio
  have hkeeps : ∀ z : State, actionLogged s z f outcome → actionLogged s (z.queueIs []) f outcome := fun _ h => h
  rw [reported, State.takeWaiting]
  apply hkeeps
  generalize y.reportAction a outcome = z at hseq hoffered ⊢
  rw [hlog, hread] at hoffered
  rw [hnumber] at hseq
  refine ⟨hseq, fun hroom => ?_⟩
  rw [if_neg hroom] at hoffered
  obtain ⟨hbytes, hnext, -, hport⟩ := hoffered
  refine ⟨?_, ?_, ?_, hnext, ?_⟩
  · exact hbytes 6 (by decide)
  · exact hbytes 7 (by decide)
  · have hlow : z.xm.read (0x1800 + 32 * s.radio.logIndex + 10) = loByte f.sender := hbytes 10 (by decide)
    have hhigh : z.xm.read (0x1800 + 32 * s.radio.logIndex + 10 + 1) = hiByte f.sender := hbytes 11 (by decide)
    simp only [Memory.readBytes, hlow, hhigh, bytes16]
  · rw [hport]
    exact raised_of_mem (b := .radio) (by simp)

/-! ## A decision that passes its checks -/

/-- The outcome of an action that passed its checks (R43). -/
def passedCode (clamped : Bool) : OutcomeCode := if clamped then .adjusted else .ok

theorem applyAction_only {s : State} (hwf : s.xm.wf = true) (a : SetAction) (d : DriveSet) (clamped : Bool) :
    toldOnly (s.changeSet a d clamped) (s.applyAction a d clamped)
      ∧ noticesOnly (retold s a d clamped) (s.applyAction a d clamped)
      ∧ s.applyAction a d clamped = { retold s a d clamped with port := (s.applyAction a d clamped).port } := by
  obtain ⟨-, honly, -⟩ := retold_told hwf a d clamped
  rw [applyAction_eq]
  generalize retold s a d clamped = w at honly ⊢
  by_cases hkind : a.kind = .refresh
  · rw [if_pos hkind]
    exact ⟨honly, noticesOnly_refl _, rfl⟩
  · rw [if_neg hkind]
    refine ⟨toldOnly_trans honly ?_, noticesOnly_raise _ .control, rfl⟩
    exact ⟨honly.1, fun hvoices => ⟨hvoices, sameBut_refl _ _⟩, noticesOnly_raise _ .control, rfl⟩

theorem decideAction_passes {s : State} {a : SetAction} {rest : List SetAction} {d : DriveSet} {clamped : Bool}
    (hwf : s.xm.wf = true) (hpending : s.port.teardownPending = false) (hqueue : s.sets.queue = a :: rest)
    (hstaged : staged a s.xm = some (d, clamped)) (hpass : actionRefusal s a (some (d, clamped)) = none) :
    s.decideAction a = reported (s.applyAction a d clamped) a rest (passedCode clamped) := by
  obtain ⟨⟨-, -, hnotices, hframe⟩, -⟩ := applyAction_only hwf a d clamped
  have hconclude : s.conclude a (some (d, clamped))
      = (s.applyAction a d clamped).reportAction a (passedCode clamped) := by
    simp only [State.conclude, hpass, passedCode]
  have hport : (s.applyAction a d clamped).port.teardownPending = false := by
    rw [noticesOnly_port hnotices]
    exact hpending
  have hqueue' : (s.applyAction a d clamped).sets.queue = a :: rest := by
    rw [hframe]
    exact hqueue
  have hpending' := (reportAction_teardown (s.applyAction a d clamped) a (passedCode clamped)).trans hport
  rw [State.decideAction, hstaged, hconclude, State.nextAction_waiting _ hpending', State.reportAction_sets, hqueue']
  rfl

/-- What a set change and the reports after it reach. -/
theorem told_reported {s y t : State} (honly : toldOnly s y) (hreports : reportsOnly y t) :
    t = { s with
      xm := t.xm, lastGranted := t.lastGranted, port := { s.port with notice := t.port.notice }
      orders := { s.orders with held := t.orders.held }
      status := { s.status with faultCount := t.status.faultCount }
      sets := { s.sets with queue := t.sets.queue }
      traction := { s.traction with u := t.traction.u, lowest := t.traction.lowest }
      bridges := { s.bridges with held := t.bridges.held, a := t.bridges.a, b := t.bridges.b }
      radio := { s.radio with
        logIndex := t.radio.logIndex, logSeq := t.radio.logSeq, overflow := t.radio.overflow }
      sound := t.sound
      lamps := { s.lamps with heater := t.lamps.heater, fan := t.lamps.fan } } := by
  obtain ⟨-, -, hraised, hframe⟩ := honly
  have hport := noticesOnly_port hraised
  obtain ⟨-, hstatus⟩ := hraised
  unfold reportsOnly at hreports
  generalize hxm : t.xm = xm, t.lastGranted = last, t.port.notice = notice, t.orders.held = held, t.sets.queue = queue,
    t.radio.logIndex = index, t.radio.logSeq = number, t.radio.overflow = overflow at hreports ⊢
  generalize y.xm = xm', y.traction.u = u, y.traction.lowest = lowest, y.bridges.held = command, y.bridges.a = a,
    y.bridges.b = b, y.lamps.heater = heater, y.lamps.fan = fan, y.sound = sound at hframe
  rw [hport, hstatus] at hframe
  generalize y.port.notice = notice', y.status.faultCount = faults at hframe
  rw [hreports, hframe]

theorem changed_eq {s t : State} {a : SetAction} {d : DriveSet} {clamped : Bool} {q : List SetAction}
    (hsets : t.sets = { s.sets with chain := chainAfter s a, cache := some d, clamped := clamped, queue := q })
    (hrequest : t.radio.request = requestAfter s a d) :
    { s with
      sets := { t.sets with queue := s.sets.queue }
      radio := { s.radio with request := t.radio.request } } = s.changeSet a d clamped := by
  rw [hsets, hrequest]
  rfl

/-- What a set change and the reports after it leave (R43, R45). -/
theorem setChange_framed_by {s t : State} {a : SetAction} (d : DriveSet) (clamped : Bool) {q : List SetAction}
    {reports : Nat → Prop} (hwf : s.xm.wf = true) (hvoices : voicesLawful s)
    (hsets : t.sets = { (s.changeSet a d clamped).sets with queue := q })
    (hwrites : sameBut (s.applyAction a d clamped).xm t.xm reports) (hreports : reportsOnly (s.applyAction a d clamped) t)
    (hnotices : noticesOnly (s.applyAction a d clamped) t) : setChangeFrame s t d reports := by
  obtain ⟨hcache, htold, hduty⟩ := retold_told hwf a d clamped
  obtain ⟨honly, hraised, hsame⟩ := applyAction_only hwf a d clamped
  have hbits := bitsTold_told (s := s.changeSet a d clamped) hwf s.radio.request.functions
  have hkept := honly.2.1 hvoices
  have hframe := told_reported honly hreports
  generalize htraction : (retold s a d clamped).traction = controller at hduty
  generalize hw : retold s a d clamped = w at hcache hraised hsame htraction
  generalize bitsTold (s.changeSet a d clamped) s.radio.request.functions = v at hcache hbits
  generalize s.applyAction a d clamped = y at *
  have hset : t.sets = { s.sets with
      chain := chainAfter s a, cache := some d, clamped := clamped, queue := q } := by
    rw [hsets]
    rfl
  have hrequest : t.radio.request = requestAfter s a d := by rw [hframe]; rfl
  have hsweep : t.orders.sweep = s.orders.sweep := by rw [hframe]; rfl
  have hblocks : t.sound = y.sound ∧ t.lamps = y.lamps ∧ t.status = y.status ∧ t.traction = y.traction
      ∧ t.bridges = y.bridges := by
    rw [hreports]
    exact ⟨rfl, rfl, rfl, rfl, rfl⟩
  have hreaders : w.sound = y.sound ∧ w.lamps = y.lamps ∧ w.status = y.status ∧ w.traction = y.traction
      ∧ w.bridges = y.bridges ∧ w.xm = y.xm := by
    rw [hsame]
    exact ⟨rfl, rfl, rfl, rfl, rfl, rfl⟩
  obtain ⟨hsound, hlamps, hstatus, hcontroller, hbridges⟩ := hblocks
  obtain ⟨hsound', hlamps', hstatus', hcontroller', hbridges', hxm⟩ := hreaders
  have hduty' : t.traction.u = min s.traction.u d.traction.dutyCap := by
    rw [hcontroller, ← hcontroller', htraction, hduty]
  refine ⟨?_, ?_, ?_, v, w, ?_, hcache, hsound.trans hsound'.symm, hlamps.trans hlamps'.symm,
    hstatus.trans hstatus'.symm, hcontroller.trans hcontroller'.symm, hbridges.trans hbridges'.symm, ?_, ?_⟩
  · rw [← hduty', hframe]
    rfl
  · exact sameBut_trans (sameBut_weaken hkept.2 fun _ => .inr) (sameBut_weaken hwrites fun x hx => .inl hx)
  · have htraction' : t.traction = { s.traction with u := t.traction.u, lowest := t.traction.lowest } := by
      rw [hframe]
      rfl
    refine hframe.trans ?_
    rw [hset, hrequest, hsweep]
    generalize t.xm = xm, t.lastGranted = last, t.port.notice = notice, t.orders.held = held,
      t.status.faultCount = faults, t.bridges.held = command, t.bridges.a = bridge, t.bridges.b = bridge',
      t.radio.logIndex = index, t.radio.logSeq = number, t.radio.overflow = overflow, t.sound = sound,
      t.lamps.heater = heater, t.lamps.fan = fan
    conv_rhs => rw [htraction']
    rfl
  · rintro changed rfl
    rw [changed_eq hset hrequest, hrequest]
    exact hbits
  · rw [hxm]
    exact hwrites
  · exact fun k hk => noticesOnly_keeps hnotices (noticesOnly_keeps hraised hk)

/-- What a set change leaves, the actions that wait taken up after its report. -/
theorem setChange_framed {s : State} {a : SetAction} {rest : List SetAction} (d : DriveSet) (clamped : Bool)
    (outcome : OutcomeCode) (hwf : s.xm.wf = true) (hindex : s.radio.logIndex < 64) (hvoices : voicesLawful s)
    (hqueue : s.sets.queue = a :: rest) (hslots : ∀ b ∈ a :: rest, ∀ n, b.source = .order n → n < 32) :
    setChangeFrame s (reported (s.applyAction a d clamped) a rest outcome) d (inReports s) := by
  obtain ⟨honly, -, -⟩ := applyAction_only hwf a d clamped
  have hindex' : (s.applyAction a d clamped).radio.logIndex = s.radio.logIndex := by
    rw [honly.2.2.2]
    rfl
  have hsets := reported_sets (s.applyAction a d clamped) a rest outcome
  have hsets' : (s.applyAction a d clamped).sets = (s.changeSet a d clamped).sets := by rw [honly.2.2.2]
  obtain ⟨hwrites, hreports, hnotices⟩ := reported_only (rest := rest) outcome honly.1
    (by rw [hindex']; exact hindex) hslots
  rw [hsets'] at hsets
  rw [hindex', ← hqueue, ← inReports_eq] at hwrites
  exact setChange_framed_by d clamped hwf hvoices hsets hwrites hreports hnotices

/-- A set action of an order or of a frame that passes its checks (R37, R43). -/
theorem decideAction_changes {s : State} {a : SetAction} {rest : List SetAction} {d : DriveSet} {clamped : Bool}
    (hwf : s.xm.wf = true) (hpending : s.port.teardownPending = false) (hqueue : s.sets.queue = a :: rest)
    (hslots : queueSlots s) (hvoices : voicesLawful s) (hstaged : staged a s.xm = some (d, clamped))
    (hpass : actionRefusal s a (some (d, clamped)) = none) {t : State} (ht : t = s.decideAction a) :
    t.sets = { s.sets with
        chain := chainAfter s a, cache := some d, clamped := clamped, queue := takenUp t.sets rest }
      ∧ t.radio.request = requestAfter s a d
      ∧ (a.kind ≠ .refresh → t.port.notice.getLsbD 5 = true)
      ∧ (∀ n, a.source = .order n → slotDone t.xm n (passedCode clamped) 0 (chainResult t.sets))
      ∧ (∀ f, a.source = .frame f → rest = [] → actionLogged s t f (passedCode clamped))
      ∧ setChangeFrame s t d (inReports s) := by
  obtain ⟨hindex, hlow, hapart⟩ := hslots
  rw [hqueue] at hlow hapart
  have hframed := setChange_framed d clamped (passedCode clamped) hwf hindex hvoices hqueue hlow
  obtain ⟨honly, -, -⟩ := applyAction_only hwf a d clamped
  have hraised : a.kind ≠ .refresh → (s.applyAction a d clamped).port.notice.getLsbD 5 = true := fun hkind => by
    rw [applyAction_eq, if_neg hkind]
    exact raised_of_mem (p := (retold s a d clamped).port) (List.mem_singleton_self NoticeBit.control)
  have hindex' : (s.applyAction a d clamped).radio.logIndex < 64 := by
    rw [honly.2.2.2]
    exact hindex
  obtain ⟨-, hreports, hnotices⟩ := reported_only (rest := rest) (passedCode clamped) honly.1 hindex' hlow
  have hsets := reported_sets (s.applyAction a d clamped) a rest (passedCode clamped)
  have hdone := fun n => reported_done (outcome := passedCode clamped) (n := n) honly.1 hindex' hlow
    fun b hb => (List.pairwise_cons.1 hapart).1 b hb
  have hlogged := fun f (hsource : a.source = .frame f) => reported_logged (s := s) (outcome := passedCode clamped)
    honly.1 hindex' hsource (by rw [honly.2.2.2]; exact ⟨rfl, rfl⟩) ((honly.2.1 hvoices).2 0x32 (by decide) (by simp [inSegments]))
  rw [decideAction_passes hwf hpending hqueue hstaged hpass] at ht
  rw [← ht] at hframed hreports hnotices hsets hdone
  have hsets' : (s.applyAction a d clamped).sets = (s.changeSet a d clamped).sets := by rw [honly.2.2.2]
  rw [hsets'] at hsets hdone
  have hrequest : t.radio.request = requestAfter s a d := by
    rw [told_reported honly hreports]
    rfl
  refine ⟨?_, hrequest, fun hkind => noticesOnly_keeps hnotices (hraised hkind), fun n hn => ?_, ?_, hframed⟩
  · have htaken : takenUp t.sets rest = takenUp (s.changeSet a d clamped).sets rest :=
      takenUp_congr (by rw [hsets]) rest
    rw [htaken, hsets]
    rfl
  · have hresult : chainResult t.sets = chainResult (s.changeSet a d clamped).sets := by rw [hsets]; rfl
    rw [hresult]
    exact hdone n hn
  · rintro f hf rfl
    rw [ht]
    exact hlogged f hf

/-! ## INVOKE, SWITCH and RETURN -/

theorem mapLast_append (f : ChainEntry → ChainEntry) (below : List ChainEntry) (top : ChainEntry) :
    mapLast f (below ++ [top]) = below ++ [f top] := by
  induction below with
  | nil => rfl
  | cons e rest ih =>
    have hcons : mapLast f (e :: (rest ++ [top])) = e :: mapLast f (rest ++ [top]) := by
      cases rest <;> rfl
    rw [List.cons_append, hcons, ih, List.cons_append]

theorem placeRefusal_none {s : State} {a : SetAction} {d : DriveSet} {clamped full : Bool} (hrun : s.balance.run = none)
    (hlevel : a.level ≤ d.authority) (hvalid : d.valid = true) (hfree : ∀ e ∈ s.sets.chain, e.index ≠ a.index)
    (hroom : full = false) : placeRefusal s a (some (d, clamped)) full = none := by
  have hbusy : s.sets.busy a.index = false := by simpa [SetManager.busy] using hfree
  simp [placeRefusal, hrun, Nat.not_lt.2 hlevel, hvalid, hbusy, hroom]

/-- Settles O17: the checks pass, and the set stands on top. -/
theorem invokePlacesTheSetOnTop : Obligations.InvokePlacesTheSetOnTop := by
  unfold Obligations.InvokePlacesTheSetOnTop
  intro s a rest below top d clamped hwf hpending hqueue hkind hslots hvoices hstaged hrun hlevel hvalid hchain hfree hroom
  have hpass : actionRefusal s a (some (d, clamped)) = none := by
    simp only [actionRefusal, hkind]
    exact placeRefusal_none hrun hlevel hvalid hfree (decide_eq_false (Nat.not_le.2 hroom))
  obtain ⟨hsets, hrequest, hraised, hdone, hlogged, hframed⟩ :=
    decideAction_changes hwf hpending hqueue hslots hvoices hstaged hpass rfl
  have hnew : chainAfter s a = below ++ [{ top with resume := some s.radio.request }, { index := a.index, resume := none }] := by
    simp only [chainAfter, hkind, hchain, mapLast_append, List.append_assoc, List.cons_append, List.nil_append]
  have hthrottle : requestAfter s a d = { s.radio.request with
      throttle := d.traction.entryThrottle.getD s.radio.request.throttle } := by
    simp only [requestAfter, hkind]
    cases d.traction.entryThrottle <;> rfl
  refine ⟨_, exec_decides hqueue (.inl ⟨hkind, rfl⟩), ?_, by rw [hsets], by rw [hsets], ?_, hrequest.trans hthrottle,
    hraised (by rw [hkind]; decide), hdone, hlogged, hframed⟩
  · rw [hsets]
    exact hnew
  · exact congrArg SetManager.queue hsets

/-- Settles O18: the checks pass, and the set replaces that of the top entry. -/
theorem switchReplacesTheTopSet : Obligations.SwitchReplacesTheTopSet := by
  unfold Obligations.SwitchReplacesTheTopSet
  intro s a rest below top d clamped hwf hpending hqueue hkind hslots hvoices hstaged hrun hlevel hvalid hchain hfree
  have hpass : actionRefusal s a (some (d, clamped)) = none := by
    simp only [actionRefusal, hkind]
    exact placeRefusal_none hrun hlevel hvalid hfree rfl
  obtain ⟨hsets, hrequest, hraised, hdone, hlogged, hframed⟩ :=
    decideAction_changes hwf hpending hqueue hslots hvoices hstaged hpass rfl
  have hnew : chainAfter s a = below ++ [{ top with index := a.index }] := by
    simp only [chainAfter, hkind, hchain, mapLast_append]
  have hthrottle : requestAfter s a d = { s.radio.request with
      throttle := d.traction.entryThrottle.getD s.radio.request.throttle } := by
    simp only [requestAfter, hkind]
    cases d.traction.entryThrottle <;> rfl
  refine ⟨_, exec_decides hqueue (.inr (.inl ⟨hkind, rfl⟩)), ?_, by rw [hsets], by rw [hsets], ?_,
    hrequest.trans hthrottle, hraised (by rw [hkind]; decide), hdone, hlogged, hframed⟩
  · rw [hsets]
    exact hnew
  · exact congrArg SetManager.queue hsets

/-- Settles O19: the checks pass, and the entry below is resumed. -/
theorem returnResumesTheEntryBelow : Obligations.ReturnResumesTheEntryBelow := by
  unfold Obligations.ReturnResumesTheEntryBelow
  intro s a rest below next top q d cached clamped hwf hpending hqueue hkind hslots hvoices hstaged hrun hcache hlevel
    hvalid hchain hresume
  have hshape : s.sets.chain = (below ++ [next]) ++ [top] := by simpa using hchain
  have hlong : ¬s.sets.chain.length ≤ 1 := by
    rw [hchain]
    simp
  have hpass : actionRefusal s a (some (d, clamped)) = none := by
    simp [actionRefusal, hkind, returnRefusal, hrun, hlong, topAuthority, hcache, Nat.not_lt.2 hlevel, hvalid]
  obtain ⟨hsets, hrequest, hraised, hdone, hlogged, hframed⟩ :=
    decideAction_changes hwf hpending hqueue hslots hvoices hstaged hpass rfl
  have hnew : chainAfter s a = below ++ [{ next with resume := none }] := by
    simp only [chainAfter, hkind, hshape, List.dropLast_concat, mapLast_append]
  have hresumed : requestAfter s a d = q := by
    simp [requestAfter, hkind, SetManager.resumeBelow, hshape, hresume]
  refine ⟨_, exec_decides hqueue (.inr (.inr (.inl ⟨hkind, rfl⟩))), ?_, by rw [hsets], by rw [hsets], ?_,
    hrequest.trans hresumed, hraised (by rw [hkind]; decide), hdone, hlogged, hframed⟩
  · rw [hsets]
    exact hnew
  · exact congrArg SetManager.queue hsets

end Sys2Proof.SetChanges
end

section
/-! PROOFS. REFRESH_SET (R42): at its own load, at its turn, or refused. -/

namespace Sys2Proof.Refreshes
open Sys2Proof Sys2Proof.Machine Sys2Proof.Safety Sys2Proof.Notices Sys2Proof.CacheReaders
open Sys2Proof.Reports Sys2Proof.Decisions Sys2Proof.SetChanges Sys2Proof.SetOrders Sys2Proof.Loads Sys2Proof.RegulationSteps

/-! ## CONTROL stays as it was -/

/-- CONTROL is neither raised nor cleared. -/
def controlKept (s t : State) : Prop := t.port.notice.getLsbD 5 = s.port.notice.getLsbD 5

theorem controlKept_refl (s : State) : controlKept s s := rfl

theorem controlKept_trans {s t u : State} (h : controlKept s t) (h' : controlKept t u) : controlKept s u := h'.trans h

theorem controlKept_of_port {s t : State} (h : t.port = s.port) : controlKept s t := by rw [controlKept, h]

theorem controlKept_raise (s : State) {b : NoticeBit} (hb : b ≠ .control) : controlKept s (s.raise b) := by
  have hflag : b.flag.getLsbD 5 = false := by cases b <;> first | rfl | exact absurd rfl hb
  have hport : (s.raise b).port.notice = s.port.notice ||| b.flag := rfl
  rw [controlKept, hport, BitVec.getLsbD_or, hflag, Bool.or_false]

theorem controlKept_recordFault (s : State) : controlKept s s.recordFault :=
  controlKept_raise (s.onStatus _) (b := .fault) (by decide)

theorem controlKept_stopVoice (s : State) (n : Nat) : controlKept s (s.stopVoice n) := by
  unfold State.stopVoice
  simp only
  split
  · exact controlKept_raise _ (b := .stream) (by decide)
  · exact controlKept_refl s

theorem controlKept_startVoice (s : State) (n clip : Nat) (use : ClipUse) (f : StartFields) :
    controlKept s (s.startVoice n clip use f).1 := by
  refine controlKept_trans (controlKept_stopVoice s n) ?_
  unfold State.startVoice
  simp only
  repeat' split
  all_goals exact controlKept_refl _

theorem controlKept_startOrFault (s : State) (n clip : Nat) (use : ClipUse) (f : StartFields) :
    controlKept s (s.startOrFault n clip use f) := by
  unfold State.startOrFault
  split
  · exact controlKept_stopVoice s n
  · simp only
    split
    · exact controlKept_startVoice s n clip use f
    · exact controlKept_trans (controlKept_startVoice s n clip use f) (controlKept_recordFault _)

theorem controlKept_trigger (s : State) (clip : Nat) (use : ClipUse) (f : StartFields) :
    controlKept s (s.trigger clip use f) := by
  unfold State.trigger
  split
  · split
    · exact controlKept_startOrFault ..
    · exact controlKept_refl s
  · exact controlKept_refl s

theorem controlKept_holds (k : Nat) (entries : List Trigger) (s : State) :
    controlKept s (triggersFrom State.holdTrigger k entries s) := by
  induction entries generalizing s k with
  | nil => exact controlKept_refl s
  | cons e rest ih =>
    refine controlKept_trans ?_ (ih (k + 1) (s.holdTrigger k e))
    unfold State.holdTrigger
    split
    · exact controlKept_trigger ..
    · exact controlKept_refl s

theorem controlKept_soundSetChange (s : State) : controlKept s s.soundSetChange := by
  rw [soundSetChange_eq]
  refine controlKept_trans ?_ (controlKept_holds 0 _ (holdsFaded s.startEngine))
  have hengine : controlKept s s.startEngine := controlKept_startOrFault ..
  have hstop := controlKept_stopVoice s.startEngine 1
  have hfaded : controlKept (s.startEngine.stopVoice 1) (holdsFaded s.startEngine) := controlKept_of_port (by rw [holdsFaded_eq])
  exact controlKept_trans hengine (controlKept_trans hstop hfaded)

theorem controlKept_heaterSetChange (s : State) : controlKept s s.heaterSetChange := by
  obtain ⟨-, hframe⟩ := fanFollows_is (heaterRetests s) s.lamps.heater.state
  refine controlKept_trans (t := heaterRetests s) ?_ (controlKept_of_port ?_)
  · unfold heaterRetests State.dryTest
    simp only
    split
    · exact controlKept_recordFault _
    · exact controlKept_refl s
  · rw [heaterSetChange_eq, hframe]

theorem controlKept_tellSetChange (s : State) : controlKept s s.tellSetChange := by
  refine controlKept_trans (t := s.tractionSetChange) (controlKept_of_port (by simp)) ?_
  exact controlKept_trans (controlKept_soundSetChange _) (controlKept_heaterSetChange _)

theorem controlKept_reportAction (s : State) (a : SetAction) (outcome : OutcomeCode) :
    controlKept s (s.reportAction a outcome) := by
  unfold State.reportAction
  split
  · next n _ =>
    have hport : (s.completeSlot n outcome 0 (chainResult s.sets)).port = (s.raise .order).port := by
      rw [State.completeSlot_eq, State.raise_port]
    exact controlKept_trans (controlKept_raise s (b := .order) (by decide)) (controlKept_of_port hport)
  · unfold State.logFrame State.offer
    simp only
    repeat' split
    · exact controlKept_refl s
    · exact controlKept_raise (b := .logFull) _ (by decide)
    · exact controlKept_raise (b := .radio) _ (by decide)

theorem controlKept_takeWaiting (waiting : List SetAction) (s : State) : controlKept s (State.takeWaiting waiting s) := by
  induction waiting generalizing s with
  | nil => exact controlKept_refl s
  | cons a rest ih =>
    cases hloads : loadIndex s.sets a with
    | some x =>
      simp only [State.takeWaiting, hloads]
      exact controlKept_refl s
    | none =>
      simp only [State.takeWaiting, hloads]
      rw [s.conclude_unloaded a hloads]
      exact controlKept_trans (controlKept_reportAction _ _ _) (ih _)

/-! ## A fresh load of a set (R31) -/

/-- A drive set is made of its bytes 00H to 67H. -/
theorem loadDriveSet_congr {m m' : Memory} {b : Nat} (h : ∀ k, k < 0x68 → m.read (b + k) = m'.read (b + k)) :
    loadDriveSet m b = loadDriveSet m' b ∧ driveSetClamped m b = driveSetClamped m' b := by
  have hbyte : ∀ k, k < 0x68 → field8 m b k = field8 m' b k := fun k hk => by rw [field8, field8, h k hk]
  have hword : ∀ k, k < 0x67 → field16 m b k = field16 m' b k := fun k hk => by
    rw [field16, field16, Memory.read16, Memory.read16, h k (by omega), Nat.add_assoc, h (k + 1) (by omega)]
  have hchuffs : chuffCount m b = chuffCount m' b := by rw [chuffCount, chuffCount, hbyte _ (by decide)]
  have htriggers : triggerCount m b = triggerCount m' b := by rw [triggerCount, triggerCount, hbyte _ (by decide)]
  have hfew : triggerCount m' b ≤ 8 := Nat.min_le_left _ _
  have hclips : ∀ k ∈ List.range (chuffCount m' b), field8 m b (0x28 + k) = field8 m' b (0x28 + k) := fun k hk => by
    have hbelow := List.mem_range.1 hk
    have hmost : chuffCount m' b ≤ 4 := by
      unfold chuffCount clampNat
      omega
    exact hbyte _ (by omega)
  have hpoints : ∀ k ∈ List.range (min 8 (field8 m' b 0x2C)), field8 m b (0x2D + k) = field8 m' b (0x2D + k) := fun k hk => by
    have hbelow := List.mem_range.1 hk
    exact hbyte _ (by omega)
  have hentries : ∀ k, k < triggerCount m' b → field8 m b (0x3D + 3 * k) = field8 m' b (0x3D + 3 * k)
      ∧ field8 m b (0x3E + 3 * k) = field8 m' b (0x3E + 3 * k) ∧ field8 m b (0x3F + 3 * k) = field8 m' b (0x3F + 3 * k) :=
    fun k hk => ⟨hbyte _ (by omega), hbyte _ (by omega), hbyte _ (by omega)⟩
  have hcurve : ∀ k ∈ List.range 8, field16 m b (0x02 + 2 * k) = field16 m' b (0x02 + 2 * k) := fun k hk => by
    have hbelow := List.mem_range.1 hk
    exact hword _ (by omega)
  have htraction : loadTractionSet m b = loadTractionSet m' b := by
    simp (disch := decide) only [loadTractionSet, hbyte, hword, List.map_congr_left hcurve]
  have hsound : loadSoundSet m b = loadSoundSet m' b := by
    simp (disch := decide) only [loadSoundSet, hchuffs, htriggers, hbyte, hword, List.map_congr_left hclips,
      List.map_congr_left hpoints]
    congr 1
    refine List.map_congr_left fun k hk => ?_
    obtain ⟨hfunction, hclip, hhold⟩ := hentries k (List.mem_range.1 hk)
    rw [hfunction, hclip, hhold]
  have hlamp : loadLampSet m b = loadLampSet m' b := by
    simp (disch := decide) only [loadLampSet, hbyte, hword]
  refine ⟨?_, Bool.eq_iff_iff.2 ?_⟩
  · simp (disch := decide) only [loadDriveSet, hbyte, htraction, hsound, hlamp]
  · have hholds : (∃ k, k < triggerCount m' b ∧ 1 < field8 m b (0x3F + 3 * k))
        ↔ ∃ k, k < triggerCount m' b ∧ 1 < field8 m' b (0x3F + 3 * k) :=
      exists_congr fun k => and_congr_right fun hk => by rw [(hentries k hk).2.2]
    rw [driveSetClamped_iff, driveSetClamped_iff]
    simp (disch := decide) only [hchuffs, htriggers, hbyte, hword, hholds]

theorem staged_fresh (s : State) {a : SetAction} {x : Nat} (hload : a.load = some (TableLoad.ofSet x)) :
    staged a s.xm = some (loadDriveSet s.xm (0xA00 + 256 * x), driveSetClamped s.xm (0xA00 + 256 * x)) := by
  have hread : ∀ k, k < 0x68 →
      ((TableLoad.ofSet x).readAll s.xm).image.read (0xA00 + 256 * x + k) = s.xm.read (0xA00 + 256 * x + k) := by
    intro k hk
    rw [TableLoad.read_readAll _ _ _ rfl]
    refine if_pos ⟨0xA00 + 256 * x + 2 * (k / 2), mem_wordsFrom.2 ⟨k / 2, by omega, rfl⟩, ?_⟩
    rcases Nat.mod_two_eq_zero_or_one k with heven | hodd
    · exact .inl (by rw [show 2 * (k / 2) = k by omega])
    · exact .inr (by rw [show 0xA00 + 256 * x + 2 * (k / 2) + 1 = 0xA00 + 256 * x + k by omega])
  obtain ⟨hset, hclamped⟩ := loadDriveSet_congr hread
  have hstaged : staged a s.xm = some (loadDriveSet ((TableLoad.ofSet x).readAll s.xm).image (0xA00 + 256 * x),
      driveSetClamped ((TableLoad.ofSet x).readAll s.xm).image (0xA00 + 256 * x)) := by
    rw [staged, hload]
    rfl
  rw [hstaged, hset, hclamped]

/-! ## The order of its own -/

/-- The action of a REFRESH_SET order (R42). -/
def refreshAction (o : TakenOrder) (load : Option TableLoad) : SetAction where
  kind := .refresh
  index := 0
  level := 0
  source := .order o.slot
  load := load

/-- The part with the order engine's side and the queue given. -/
def handed (s : State) (orders : OrderEngine) (q : List SetAction) : State :=
  { s with orders := orders, sets := { s.sets with queue := q } }

theorem refreshSet_arrives {s : State} {o : TakenOrder} (hrun : s.isRun = true) (htaken : orderTaken s o)
    (hkind : o.kind = 5) : refreshSet s = (s.dropOrder.actionArrives (refreshAction o none)).decideHead .refresh := by
  rw [refreshSet, handOver_taken _ hrun htaken hkind (by decide) (by decide)]
  rfl

/-- Behind another action the order's action waits. -/
theorem refreshSet_waits {s : State} {o : TakenOrder} {b : SetAction} {rest : List SetAction} (hrun : s.isRun = true)
    (htaken : orderTaken s o) (hkind : o.kind = 5) (hqueue : s.sets.queue = b :: rest) (hother : b.kind ≠ .refresh) :
    refreshSet s = handed s s.dropOrder.orders (s.sets.queue ++ [refreshAction o none]) := by
  have hwaits : s.dropOrder.actionArrives (refreshAction o none)
      = handed s s.dropOrder.orders (s.sets.queue ++ [refreshAction o none]) := by
    have hqueue' : s.dropOrder.sets.queue = b :: rest := hqueue
    rw [State.actionArrives, if_neg (by rw [hqueue']; exact List.cons_ne_nil _ _)]
    rfl
  have hhead : (handed s s.dropOrder.orders (s.sets.queue ++ [refreshAction o none])).sets.queue
      = b :: (rest ++ [refreshAction o none]) := by
    rw [hqueue]
    rfl
  rw [refreshSet_arrives hrun htaken hkind, hwaits, State.decideHead, hhead]
  exact if_neg hother

/-- With none in flight the order's action begins its load and is decided at once. -/
theorem refreshSet_decides {s : State} {o : TakenOrder} {top : ChainEntry} (hrun : s.isRun = true)
    (htaken : orderTaken s o) (hkind : o.kind = 5) (hempty : s.sets.queue = [])
    (htop : s.sets.chain.getLast? = some top) : ∀ a, a = refreshAction o (some (TableLoad.ofSet top.index)) →
    refreshSet s = (handed s s.dropOrder.orders [a]).decideAction a := by
  rintro a rfl
  have hloads : loadIndex s.dropOrder.sets (refreshAction o none) = some top.index := by
    have hindex : s.dropOrder.sets.topIndex = top.index := by
      show (s.sets.chain.getLast?.map ChainEntry.index).getD 0 = top.index
      rw [htop]
      rfl
    exact congrArg some hindex
  have harrives : s.dropOrder.actionArrives (refreshAction o none)
      = handed s s.dropOrder.orders [refreshAction o (some (TableLoad.ofSet top.index))] := by
    have hempty' : s.dropOrder.sets.queue = [] := hempty
    rw [State.actionArrives, if_pos hempty', State.takeWaiting, hloads]
    rfl
  rw [refreshSet_arrives hrun htaken hkind, harrives]
  rfl

/-! ## The readers of the cache hear nothing of the order engine and of the queue -/

theorem tractionSetChange_handed (s : State) (orders : OrderEngine) (q : List SetAction) :
    (handed s orders q).tractionSetChange = handed s.tractionSetChange orders q := by
  have hset : (handed s orders q).tractionSet = s.tractionSet := rfl
  have hduty : (handed s orders q).traction.u = s.traction.u := rfl
  unfold State.tractionSetChange
  simp only [hset, hduty]
  split
  · unfold State.lowerDuty
    have hheld : ((handed s orders q).onTraction fun t => { t with u := s.tractionSet.dutyCap }).bridges.held
        = (s.onTraction fun t => { t with u := s.tractionSet.dutyCap }).bridges.held := rfl
    rw [hheld]
    cases (s.onTraction fun t => { t with u := s.tractionSet.dutyCap }).bridges.held <;> rfl
  · rfl

/-- An act of the sound engine on the part with another queue. -/
theorem soundedAs_handed {s t : State} (h : t = { s with xm := t.xm, port := t.port, status := t.status, sound := t.sound })
    (orders : OrderEngine) (q : List SetAction) : soundedAs t (handed s orders q) = handed t orders q := by
  generalize ht : t = u at h ⊢
  generalize u.xm = xm, u.port = port, u.status = status, u.sound = sound at h
  subst h
  rfl

theorem handed_soundedAs (s : State) (orders : OrderEngine) (q : List SetAction) :
    handed s orders q = soundedAs s (handed s orders q) := rfl

theorem stopVoice_handed {s : State} (hwf : s.xm.wf = true) (orders : OrderEngine) (q : List SetAction) {n : Nat}
    (hn : n < 8) : (handed s orders q).stopVoice n = handed (s.stopVoice n) orders q := by
  rw [handed_soundedAs, stopVoice_soundedAs]
  exact soundedAs_handed (soundOnly_stopVoice hwf hn).2.2.2 orders q

theorem startOrFault_handed {s : State} (hwf : s.xm.wf = true) (orders : OrderEngine) (q : List SetAction) {n : Nat}
    (hn : n < 8) (clip : Nat) {use : ClipUse} (f : StartFields) (huse : use ≠ .none) :
    (handed s orders q).startOrFault n clip use f = handed (s.startOrFault n clip use f) orders q := by
  rw [handed_soundedAs, startOrFault_soundedAs]
  exact soundedAs_handed (soundOnly_startOrFault hwf hn clip f huse).2.2.2 orders q

theorem trigger_handed (s : State) (orders : OrderEngine) (q : List SetAction) (clip : Nat) (use : ClipUse)
    (f : StartFields) : (handed s orders q).trigger clip use f = handed (s.trigger clip use f) orders q := by
  rw [handed_soundedAs, trigger_soundedAs]
  exact soundedAs_handed (s.trigger_eq clip use f) orders q

theorem holds_handed (k : Nat) (entries : List Trigger) (s : State) (orders : OrderEngine) (q : List SetAction) :
    triggersFrom State.holdTrigger k entries (handed s orders q)
      = handed (triggersFrom State.holdTrigger k entries s) orders q := by
  induction entries generalizing s k with
  | nil => rfl
  | cons e rest ih =>
    have hone : (handed s orders q).holdTrigger k e = handed (s.holdTrigger k e) orders q := by
      have hrequest : (handed s orders q).radio.request = s.radio.request := rfl
      unfold State.holdTrigger
      rw [hrequest]
      split
      · exact trigger_handed ..
      · rfl
    rw [triggersFrom, hone]
    exact ih (k + 1) _

theorem soundSetChange_handed {s : State} (hwf : s.xm.wf = true) (orders : OrderEngine) (q : List SetAction) :
    (handed s orders q).soundSetChange = handed s.soundSetChange orders q := by
  have hengine : (handed s orders q).startEngine = handed s.startEngine orders q :=
    startOrFault_handed hwf orders q (by decide) s.soundSet.engineClip
      { volume := none, pitch := some (enginePitch s), repeats := .endless, priority := 3, starter := .engine } (by decide)
  have hwf' := (soundOnly_startEngine hwf).1
  have hfaded : holdsFaded (handed s.startEngine orders q) = handed (holdsFaded s.startEngine) orders q := by
    unfold holdsFaded
    rw [stopVoice_handed hwf' orders q (by decide)]
    rfl
  have htriggers : (handed (holdsFaded s.startEngine) orders q).soundSet = (holdsFaded s.startEngine).soundSet := rfl
  rw [soundSetChange_eq, soundSetChange_eq, hengine, hfaded, htriggers, holds_handed]

theorem heaterRetests_handed (s : State) (orders : OrderEngine) (q : List SetAction) :
    heaterRetests (handed s orders q) = handed (heaterRetests s) orders q := by
  rw [heaterRetests_is s rfl rfl, heaterRetests_is (handed s orders q) rfl rfl]
  rfl

theorem fanFollows_handed (s : State) (orders : OrderEngine) (q : List SetAction) (before : HeaterState) :
    (handed s orders q).fanFollows before = handed (s.fanFollows before) orders q := by
  obtain ⟨hfan, hframe⟩ := fanFollows_is (handed s orders q) before
  obtain ⟨hfan', hframe'⟩ := fanFollows_is s before
  have hsame : ((handed s orders q).fanFollows before).lamps.fan = (s.fanFollows before).lamps.fan :=
    hfan.trans hfan'.symm
  rw [hframe, hframe', hsame]
  rfl

theorem tellSetChange_handed {s : State} (hwf : s.xm.wf = true) (orders : OrderEngine) (q : List SetAction) :
    (handed s orders q).tellSetChange = handed s.tellSetChange orders q := by
  have hheater : ∀ x : State, (handed x orders q).heaterSetChange = handed x.heaterSetChange orders q := fun x => by
    rw [heaterSetChange_eq, heaterSetChange_eq, heaterRetests_handed, fanFollows_handed]
    rfl
  rw [State.tellSetChange, State.tellSetChange, tractionSetChange_handed,
    soundSetChange_handed (toldOnly_traction hwf).1, hheater]

/-! ## The order's own load, decided at once (R42) -/

/-- The order's action with its load ended. -/
def loadedAction (o : TakenOrder) (top : ChainEntry) : SetAction := refreshAction o (some (TableLoad.ofSet top.index))

/-- The part with the order's action in flight. -/
def refreshing (s : State) (o : TakenOrder) (top : ChainEntry) : State :=
  handed s s.dropOrder.orders [loadedAction o top]

/-- The report of the order's action: the completion write, and the queue is empty. -/
def refreshed (y : State) (o : TakenOrder) (outcome : OutcomeCode) : State :=
  (y.completeSlot o.slot outcome 0 (chainResult y.sets)).queueIs []

theorem reported_refreshed (y : State) (o : TakenOrder) (top : ChainEntry) (outcome : OutcomeCode) :
    reported y (loadedAction o top) [] outcome = refreshed y o outcome := rfl

/-- A REFRESH_SET that fails a check ends its order (R42). -/
theorem refreshSet_refused {s : State} {o : TakenOrder} {top : ChainEntry} (outcome : OutcomeCode)
    (hwf : s.xm.wf = true) (hrun : s.isRun = true) (htaken : orderTaken s o) (hkind : o.kind = 5)
    (hpending : s.port.teardownPending = false) (hempty : s.sets.queue = [])
    (htop : s.sets.chain.getLast? = some top)
    (hfails : refreshRefusal s (some (loadDriveSet s.xm (0xA00 + 256 * top.index),
      driveSetClamped s.xm (0xA00 + 256 * top.index))) = some outcome) :
    ∃ t, exec .refreshSet s = .next t ∧ refusedOrder s t o outcome (chainResult s.sets) := by
  refine ⟨_, congrArg Host.Outcome.next (refreshSet_decides hrun htaken hkind hempty htop _ rfl), ?_⟩
  have hstaged := staged_fresh (refreshing s o top) (a := loadedAction o top) rfl
  have hrefused : (refreshing s o top).conclude (loadedAction o top) (staged (loadedAction o top) (refreshing s o top).xm)
      = (refreshing s o top).reportAction (loadedAction o top) outcome := by
    rw [hstaged]
    exact conclude_refused hfails
  have hpending' := (reportAction_teardown (refreshing s o top) (loadedAction o top) outcome).trans hpending
  have hends : (refreshing s o top).decideAction (loadedAction o top) = s.completeOrder o outcome (chainResult s.sets) := by
    have hqueue : (refreshing s o top).sets.queue.drop 1 = [] := rfl
    have hreport : (refreshing s o top).reportAction (loadedAction o top) outcome
        = (refreshing s o top).completeSlot o.slot outcome 0 (chainResult s.sets) := rfl
    have hcommutes : ∀ result, ((refreshing s o top).completeSlot o.slot outcome 0 result).queueIs []
        = (s.completeOrder o outcome result).queueIs [] := fun _ => rfl
    rw [State.decideAction, hrefused, State.nextAction_waiting _ hpending', State.reportAction_sets, hqueue,
      State.takeWaiting, hreport, hcommutes]
    exact SetFrames.queueIs_self (by simpa using hempty)
  show refusedOrder s ((refreshing s o top).decideAction (loadedAction o top)) o outcome (chainResult s.sets)
  rw [hends]
  exact completeOrder_ends s o outcome _ hwf (slot_lt_of_taken htaken)

theorem applyAction_refresh (s : State) {a : SetAction} (hkind : a.kind = .refresh) (d : DriveSet) (clamped : Bool) :
    s.applyAction a d clamped = (s.changeSet a d clamped).tellSetChange := by
  have hrequest : requestAfter s a d = s.radio.request := by simp only [requestAfter, hkind]
  have hbits : (s.changeSet a d clamped).radio.request.functions = s.radio.request.functions := by
    rw [changeSet_eq]
    exact congrArg Request.functions hrequest
  rw [applyAction_eq, if_pos hkind, retold, bitsTold, if_pos hbits]

/-- The change of the order's action, the order engine and the queue apart. -/
theorem applyAction_refreshing {s : State} (hwf : s.xm.wf = true) (o : TakenOrder) (top : ChainEntry) (d : DriveSet)
    (clamped : Bool) : (refreshing s o top).applyAction (loadedAction o top) d clamped
      = handed (s.applyAction (loadedAction o top) d clamped) s.dropOrder.orders [loadedAction o top] := by
  have hchange : (refreshing s o top).changeSet (loadedAction o top) d clamped
      = handed (s.changeSet (loadedAction o top) d clamped) s.dropOrder.orders [loadedAction o top] := rfl
  have hkind : (loadedAction o top).kind = .refresh := rfl
  rw [applyAction_refresh _ hkind, applyAction_refresh _ hkind, hchange]
  exact tellSetChange_handed (s := s.changeSet (loadedAction o top) d clamped) hwf _ _

/-- The sweep's order in hand is nothing to a set change. -/
theorem setChangeFrame_sweep {s t : State} {d : DriveSet} {reports : Nat → Prop} (h : setChangeFrame s t d reports)
    (sweep : Option Sweep) : setChangeFrame s { t with orders := { t.orders with sweep := sweep } } d reports := by
  obtain ⟨htraction, hsame, hframe, hreaders⟩ := h
  refine ⟨htraction, hsame, ?_, hreaders⟩
  generalize ht : t = u at hframe ⊢
  conv_lhs => rw [hframe]

theorem refreshRefusal_none {s : State} {d : DriveSet} {clamped : Bool} (hrun : s.balance.run = none)
    (hvalid : d.valid = true) : refreshRefusal s (some (d, clamped)) = none := by
  simp [refreshRefusal, hrun, hvalid]

theorem chainAfter_refresh (s : State) {a : SetAction} (hkind : a.kind = .refresh) : chainAfter s a = s.sets.chain := by
  simp only [chainAfter, hkind]

theorem requestAfter_refresh (s : State) {a : SetAction} (hkind : a.kind = .refresh) (d : DriveSet) :
    requestAfter s a d = s.radio.request := by
  simp only [requestAfter, hkind]

theorem controlKept_refresh (s : State) {a : SetAction} (hkind : a.kind = .refresh) (d : DriveSet) (clamped : Bool) :
    controlKept s (s.applyAction a d clamped) := by
  rw [applyAction_refresh s hkind]
  exact controlKept_tellSetChange (s.changeSet a d clamped)

/-- What the end of the order leaves on the part whose set has been reloaded. -/
theorem refreshed_reports {y : State} {o : TakenOrder} (outcome : OutcomeCode) (hwf : y.xm.wf = true) (hslot : o.slot < 32) :
    slotDone (refreshed y o outcome).xm o.slot outcome 0 (chainResult y.sets)
      ∧ sameBut y.xm (refreshed y o outcome).xm (inSlot o.slot) ∧ reportsOnly y (refreshed y o outcome)
      ∧ noticesOnly y (refreshed y o outcome) ∧ (refreshed y o outcome).sets = { y.sets with queue := [] }
      ∧ controlKept y (refreshed y o outcome) := by
  have hreport : y.reportAction (refreshAction o none) outcome = y.completeSlot o.slot outcome 0 (chainResult y.sets) := rfl
  obtain ⟨honly, hnotices⟩ := reportAction_eq y (refreshAction o none) outcome
  have hcontrol := controlKept_reportAction y (refreshAction o none) outcome
  have hdone := State.completeSlot_done y o.slot outcome 0 (chainResult y.sets) hwf hslot
  have hsame := State.completeSlot_same y o.slot outcome 0 (chainResult y.sets) hwf hslot
  have hsets := y.reportAction_sets (refreshAction o none) outcome
  rw [hreport] at honly hnotices hcontrol hsets
  unfold refreshed
  generalize y.completeSlot o.slot outcome 0 (chainResult y.sets) = z at *
  exact ⟨hdone, hsame, reportsOnly_trans honly (reportsOnly_queueIs z []), hnotices,
    by rw [← hsets]; rfl, hcontrol⟩

theorem refreshed_handed {y : State} {orders : OrderEngine} (horders : orders = { y.orders with sweep := orders.sweep })
    (q : List SetAction) (o : TakenOrder) (outcome : OutcomeCode) : refreshed (handed y orders q) o outcome
      = { refreshed y o outcome with
        orders := { (refreshed y o outcome).orders with sweep := orders.sweep } } := by
  have hchain : chainResult (handed y orders q).sets = chainResult y.sets := rfl
  unfold refreshed
  rw [hchain]
  generalize chainResult y.sets = result, orders.sweep = sweep at horders ⊢
  subst horders
  rfl

/-- REFRESH_SET at its own load, its checks passed (R42). -/
theorem refreshSet_reloads {s : State} {o : TakenOrder} {below : List ChainEntry} {top : ChainEntry} (hwf : s.xm.wf = true)
    (hrun : s.isRun = true) (htaken : orderTaken s o) (hkind : o.kind = 5) (hpending : s.port.teardownPending = false)
    (hvoices : voicesLawful s) (hempty : s.sets.queue = []) (hnone : s.balance.run = none)
    (hchain : s.sets.chain = below ++ [top]) {d : DriveSet} {clamped : Bool}
    (hd : d = loadDriveSet s.xm (0xA00 + 256 * top.index)) (hclamped : clamped = driveSetClamped s.xm (0xA00 + 256 * top.index))
    (hvalid : d.valid = true) :
    ∃ t, exec .refreshSet s = .next t
      ∧ t.sets = { s.sets with cache := some d, clamped := clamped }
      ∧ t.radio.request = s.radio.request
      ∧ t.port.notice.getLsbD 5 = s.port.notice.getLsbD 5
      ∧ slotDone t.xm o.slot (if clamped then .adjusted else .ok) 0 (chainResult s.sets)
      ∧ setChangeFrame s t d (inSlot o.slot) := by
  have htop : s.sets.chain.getLast? = some top := by rw [hchain, List.getLast?_concat]
  have hstaged : staged (loadedAction o top) (refreshing s o top).xm = some (d, clamped) := by
    rw [hd, hclamped]
    exact staged_fresh (refreshing s o top) rfl
  have hpass : actionRefusal (refreshing s o top) (loadedAction o top) (some (d, clamped)) = none :=
    refreshRefusal_none (clamped := clamped) hnone hvalid
  have hdecides := decideAction_passes (s := refreshing s o top) (rest := []) hwf hpending rfl hstaged hpass
  rw [reported_refreshed, applyAction_refreshing hwf] at hdecides
  obtain ⟨honly, -, -⟩ := applyAction_only hwf (loadedAction o top) d clamped
  have hcontrol := controlKept_refresh s (a := loadedAction o top) rfl d clamped
  obtain ⟨hdone, hsame, hreports, hnotices, hsets, hcontrol'⟩ :=
    refreshed_reports (o := o) (passedCode clamped) honly.1 (slot_lt_of_taken htaken)
  have hsets' : (s.applyAction (loadedAction o top) d clamped).sets = (s.changeSet (loadedAction o top) d clamped).sets := by
    rw [honly.2.2.2]
  rw [hsets'] at hsets hdone
  have hframed := setChange_framed_by d clamped hwf hvoices hsets hsame hreports hnotices
  have hrequest : (refreshed (s.applyAction (loadedAction o top) d clamped) o (passedCode clamped)).radio.request
      = s.radio.request := by
    rw [told_reported honly hreports]
    rfl
  have horders : s.dropOrder.orders = { (s.applyAction (loadedAction o top) d clamped).orders with
      sweep := s.dropOrder.orders.sweep } := by
    rw [honly.2.2.2]
    rfl
  have hown := (refreshSet_decides hrun htaken hkind hempty htop _ rfl).trans
    (hdecides.trans (refreshed_handed horders _ o (passedCode clamped)))
  generalize refreshed (s.applyAction (loadedAction o top) d clamped) o (passedCode clamped) = t at *
  have hresult : chainResult (s.changeSet (loadedAction o top) d clamped).sets = chainResult s.sets := rfl
  refine ⟨_, congrArg Host.Outcome.next hown, ?_, hrequest, hcontrol'.trans hcontrol, ?_, setChangeFrame_sweep hframed _⟩
  · refine hsets.trans ?_
    rw [← hempty]
    rfl
  · rw [← hresult]
    exact hdone

/-- Settles O20: the fields of a record, an order that waits, the decision at its turn, the refusals, and the order's own
load. -/
theorem refreshReloadsTheTopSet : Obligations.RefreshReloadsTheTopSet := by
  unfold Obligations.RefreshReloadsTheTopSet
  refine ⟨loadDriveSet_read, fun s o b rest hrun htaken hkind hqueue hother => ?waits,
    fun s a rest d clamped hwf hpending hqueue hkind hnone hslots hvoices hstaged hrun hvalid => ?turn,
    fun s o top hwf hrun htaken hkind hpending hempty htop _ => ⟨fun hbusy => ?busy, fun hfree hmark => ?invalid⟩,
    fun s o below top hwf hrun htaken hkind hpending hvoices hempty hnone hchain _ hmark => ?own⟩
  case waits => exact congrArg Host.Outcome.next (refreshSet_waits hrun htaken hkind hqueue hother)
  case turn =>
    have hpass : actionRefusal s a (some (d, clamped)) = none := by
      simp only [actionRefusal, hkind]
      exact refreshRefusal_none hrun hvalid
    obtain ⟨hsets, hrequest, -, hdone, -, hframed⟩ :=
      decideAction_changes hwf hpending hqueue hslots hvoices hstaged hpass rfl
    rw [chainAfter_refresh s hkind] at hsets
    have hchain : (s.decideAction a).sets.chain = s.sets.chain := by rw [hsets]
    have hresult : chainResult (s.decideAction a).sets = chainResult s.sets := by simp only [chainResult, hchain]
    rw [takenUp_congr hchain rest] at hsets
    rw [hresult] at hdone
    have hcontrol : controlKept s (s.decideAction a) := by
      rw [decideAction_passes hwf hpending hqueue hstaged hpass]
      exact controlKept_trans (controlKept_refresh s hkind d clamped)
        (controlKept_trans (controlKept_reportAction _ _ _) (controlKept_takeWaiting _ _))
    exact ⟨_, exec_decides hqueue (.inr (.inr (.inr ⟨hkind, rfl, hnone⟩))), hsets,
      hrequest.trans (requestAfter_refresh s hkind d), hcontrol, hdone, hframed⟩
  case busy =>
    refine refreshSet_refused .busy hwf hrun htaken hkind hpending hempty htop ?_
    simp [refreshRefusal, Option.isSome_iff_ne_none.2 hbusy]
  case invalid =>
    refine refreshSet_refused .notValid hwf hrun htaken hkind hpending hempty htop ?_
    have hvalid : (loadDriveSet s.xm (0xA00 + 256 * top.index)).valid = false :=
      decide_eq_false fun h => hmark ((byte_eq_iff _ (k := 0x5A) (by decide)).2 h)
    simp [refreshRefusal, hfree, hvalid]
  case own =>
    have hvalid : (loadDriveSet s.xm (0xA00 + 256 * top.index)).valid = true :=
      decide_eq_true ((byte_eq_iff _ (k := 0x5A) (by decide)).1 hmark)
    exact refreshSet_reloads hwf hrun htaken hkind hpending hvoices hempty hnone hchain rfl rfl hvalid

end Sys2Proof.Refreshes
end

section
/-! PROOFS. Lamp overcurrent, open load and retry (R170 to R172), by what each fault mode makes of one lamp. -/

namespace Sys2Proof.LampFaults
open Sys2Proof Sys2Proof.Machine Sys2Proof.Safety Sys2Proof.CacheReaders

/-! ## One lamp -/

/-- The part with lamp `n` given. -/
def lampIs (s : State) (n : Nat) (l : Lamp) : State :=
  { s with lamps := { s.lamps with lamps := s.lamps.lamps.set n l } }

theorem lamp_of_get {s : State} {n : Nat} {l : Lamp} (h : s.lamps.lamps[n]? = some l) : s.lamps.lamp n = l := by
  rw [LampUnit.lamp, List.getD_eq_getElem?_getD, h]
  rfl

theorem onLamp_eq {s : State} {n : Nat} {l : Lamp} (h : s.lamps.lamps[n]? = some l) (f : Lamp → Lamp) :
    s.onLamp n f = lampIs s n (f l) := by
  have hmodify : s.lamps.lamps.modify n f = s.lamps.lamps.set n (f l) := by
    obtain ⟨hn, rfl⟩ := List.getElem?_eq_some_iff.1 h
    exact List.modify_eq_set_getElem? f n s.lamps.lamps |>.trans (by rw [h]; rfl)
  simp only [State.onLamp, State.onLamps, lampIs, hmodify]

theorem get_lampIs {s : State} {n : Nat} {l : Lamp} (h : s.lamps.lamps[n]? = some l) (l' : Lamp) :
    (lampIs s n l').lamps.lamps[n]? = some l' := by
  obtain ⟨hn, -⟩ := List.getElem?_eq_some_iff.1 h
  simp [lampIs, hn]

theorem lampIs_lampIs (s : State) (n : Nat) (l l' : Lamp) : lampIs (lampIs s n l) n l' = lampIs s n l' := by
  simp only [lampIs, List.set_set]

theorem onLamp_lampIs {s : State} {n : Nat} {l : Lamp} (h : s.lamps.lamps[n]? = some l) (l' : Lamp) (f : Lamp → Lamp) :
    (lampIs s n l').onLamp n f = lampIs s n (f l') := by
  rw [onLamp_eq (get_lampIs h l'), lampIs_lampIs]

/-! ## One lamp and a fault -/

/-- The part with lamp `n` given, a fault recorded where `records`. -/
def lampFaults (s : State) (n : Nat) (l : Lamp) (records : Bool) : State :=
  { s with
    port := withNotice s.port (if records then [.fault] else [])
    status := { s.status with faultCount := if records then s.status.faultCount + 1 else s.status.faultCount }
    lamps := { s.lamps with lamps := s.lamps.lamps.set n l } }

theorem lampFaults_false (s : State) (n : Nat) (l : Lamp) : lampIs s n l = lampFaults s n l false := rfl

theorem recordLampFault_eq {s : State} {n : Nat} {l : Lamp} (h : s.lamps.lamps[n]? = some l) (l' : Lamp) (kind : LampFault) :
    (lampIs s n l').recordLampFault n kind
      = lampFaults s n { l' with episodes := l'.episodes + 1, lastKind := kind } true := by
  rw [State.recordLampFault, onLamp_lampIs h, recordFault_eq]
  rfl

/-! ## Overcurrent (R171) -/

/-- Whether an overcurrent of a lamp is recorded: under LATCH, and else the first of an episode. -/
def overRecords (l : Lamp) : Bool :=
  decide (l.copy.overMode = .latch) || (decide (l.copy.overMode ≠ .ignore) && !l.overEpisode)

/-- The lamp after a detected overcurrent at time `now`, by its mode. -/
def overFaulted (l : Lamp) (now : Nat) : Lamp :=
  { l with
    shown := if l.copy.overMode = .latch ∨ l.copy.overMode = .retry then 0 else l.shown
    output := !decide (l.copy.overMode = .latch ∨ l.copy.overMode = .retry)
    onTime := if l.copy.overMode = .latch ∨ l.copy.overMode = .retry then 0 else l.onTime
    latched := if l.copy.overMode = .latch then .overcurrent else .none
    retry := if l.copy.overMode = .retry then some (now + 100 * 1024000) else l.retry
    overEpisode := l.overEpisode || decide (l.copy.overMode = .retry ∨ l.copy.overMode = .report)
    lastKind := if overRecords l then .overcurrent else l.lastKind
    episodes := if overRecords l then l.episodes + 1 else l.episodes }

theorem overEpisode_eq {s : State} {n : Nat} {l : Lamp} (h : s.lamps.lamps[n]? = some l) (l' : Lamp) :
    (lampIs s n l').overEpisode n = lampFaults s n { l' with
      overEpisode := true, episodes := if l'.overEpisode then l'.episodes else l'.episodes + 1
      lastKind := if l'.overEpisode then l'.lastKind else .overcurrent } (!l'.overEpisode) := by
  rw [State.overEpisode, onLamp_lampIs h, lamp_of_get (get_lampIs h l'), recordLampFault_eq h]
  cases l'.overEpisode <;> rfl

theorem overcurrentDetected_eq {s : State} {n : Nat} {l l' : Lamp} (h : s.lamps.lamps[n]? = some l)
    (houtput : l'.output = true) (hfree : l'.latched = .none) :
    overcurrentDetected (lampIs s n l') n = lampFaults s n (overFaulted l' s.clock) (overRecords l') := by
  have hclock : (lampIs s n l').clock = s.clock := rfl
  have hms : ms 100 = 100 * 1024000 := rfl
  unfold overcurrentDetected
  rw [lamp_of_get (get_lampIs h l')]
  cases hmode : l'.copy.overMode with
  | latch =>
    simp only [onLamp_lampIs h, recordLampFault_eq h]
    simp [overFaulted, overRecords, hmode, Lamp.dark]
  | retry =>
    simp only [onLamp_lampIs h, overEpisode_eq h]
    cases hepisode : l'.overEpisode <;>
      simp [overFaulted, overRecords, hmode, hepisode, hclock, hms, hfree, Lamp.dark]
  | report =>
    simp only [overEpisode_eq h]
    cases l'
    subst houtput hfree
    cases hepisode : Lamp.overEpisode _ <;> simp_all [overFaulted, overRecords]
  | ignore =>
    rw [lampFaults_false]
    cases l'
    subst houtput hfree
    simp_all [overFaulted, overRecords]

/-! ## Open load (R172) -/

/-- Whether an open load of a tested lamp is recorded: under LATCH, and the first of an episode under REPORT. -/
def openRecords (l : Lamp) : Bool :=
  l.copy.enabled && decide (l.latched = .none)
    && (decide (l.copy.openMode = .latch) || (decide (l.copy.openMode = .report) && !l.openEpisode))

/-- Whether an open load latches the lamp. -/
def openLatches (l : Lamp) : Bool :=
  l.copy.enabled && decide (l.latched = .none) && decide (l.copy.openMode = .latch)

/-- The lamp after an open-load detection, by its mode. -/
def openFaulted (l : Lamp) : Lamp :=
  { l with
    shown := if openLatches l then 0 else l.shown, output := l.output && !openLatches l
    onTime := if openLatches l then 0 else l.onTime
    latched := if openLatches l then .openLoad else l.latched
    openEpisode := l.openEpisode || (l.copy.enabled && decide (l.latched = .none)
      && decide (l.copy.openMode = .report))
    lastKind := if openRecords l then .openLoad else l.lastKind
    episodes := if openRecords l then l.episodes + 1 else l.episodes }

theorem openLoadDetected_eq {s : State} {n : Nat} {l : Lamp} (h : s.lamps.lamps[n]? = some l) (l' : Lamp) :
    openLoadDetected (lampIs s n l') n = lampFaults s n (openFaulted l') (openRecords l') := by
  have htested : l'.tested = (l'.copy.enabled && decide (l'.latched = .none)) := rfl
  unfold openLoadDetected
  simp only [lamp_of_get (get_lampIs h l'), htested]
  by_cases hgoes : (l'.copy.enabled && decide (l'.latched = .none)) = true
  · rw [if_pos hgoes]
    cases hmode : l'.copy.openMode with
    | latch =>
      simp only [onLamp_lampIs h, recordLampFault_eq h]
      simp [openFaulted, openRecords, openLatches, hmode, hgoes, Lamp.dark]
    | report =>
      simp only [onLamp_lampIs h, recordLampFault_eq h]
      cases hepisode : l'.openEpisode <;>
        simp [openFaulted, openRecords, openLatches, hmode, hgoes, hepisode, lampFaults_false]
    | ignore => simp [openFaulted, openRecords, openLatches, hmode, lampFaults_false]
  · rw [if_neg hgoes]
    simp [openFaulted, openRecords, openLatches, Bool.eq_false_iff.2 hgoes, lampFaults_false]

/-! ## The three commands -/

theorem overcurrent_iff (l : Lamp) (milliamps since : Nat) : l.overcurrent milliamps since = true ↔
    l.copy.enabled = true ∧ l.latched = .none ∧ l.output = true ∧ l.seenPwm = false ∧ 600 ≤ milliamps
      ∧ since + 20 * 1024 ≤ 1024 * l.onTime := by
  have hcode : 600 ≤ currentCode milliamps ↔ 600 ≤ milliamps := by
    unfold currentCode
    omega
  have hcount : overcurrentAfter since ≤ us l.onTime ↔ since + 20 * 1024 ≤ 1024 * l.onTime := by
    simp only [overcurrentAfter, us]
    omega
  simp only [Lamp.overcurrent, Lamp.tested, Bool.and_eq_true, decide_eq_true_eq, Bool.not_eq_true', hcode, hcount,
    and_assoc]

/-- An overcurrent that is not detected changes nothing. -/
theorem lampOvercurrent_none {s : State} {n : Fin 10} {l : Lamp} {milliamps since : Nat}
    (h : s.lamps.lamps[n.val]? = some l) (hno : ¬l.overcurrent milliamps since = true) :
    lampOvercurrent n milliamps since s = s := by
  rw [lampOvercurrent, lamp_of_get h]
  exact if_neg hno

/-- A detected overcurrent acts at the end of its 20 us. -/
theorem lampOvercurrent_seen {s : State} {n : Fin 10} {l : Lamp} {milliamps since : Nat}
    (h : s.lamps.lamps[n.val]? = some l) (hseen : l.overcurrent milliamps since = true) :
    ∀ u, u = s.reach (l.pwmDue - 1024 * 1024 + since + 20 * 1024) → ∀ l', l' = { l with seenPwm := true, seenEffect := true } →
    lampOvercurrent n milliamps since s = lampFaults u n (overFaulted l' u.clock) (overRecords l') := by
  rintro u hu l' rfl
  obtain ⟨-, hfree, houtput, -, -, -⟩ := (overcurrent_iff l milliamps since).1 hseen
  have hmoment : l.periodStart + overcurrentAfter since = l.pwmDue - 1024 * 1024 + since + 20 * 1024 := by
    simp only [Lamp.periodStart, overcurrentAfter, us]
    omega
  have hget : u.lamps.lamps[n.val]? = some l := by
    rw [hu]
    exact h
  simp only [lampOvercurrent, lamp_of_get h, if_pos hseen, hmoment, ← hu]
  rw [onLamp_eq hget]
  exact overcurrentDetected_eq hget houtput hfree

theorem openLoadExpiry_eq {s : State} {n : Fin 10} {l : Lamp} {due : Nat} (h : s.lamps.lamps[n.val]? = some l)
    (hdue : l.openTimer = some due) : ∀ l', l' = { l with openTimer := none } →
    openLoadExpiry n s = lampFaults (s.reach due) n (openFaulted l') (openRecords l') := by
  rintro l' rfl
  have hget : (s.reach due).lamps.lamps[n.val]? = some l := h
  simp only [openLoadExpiry, lamp_of_get h, hdue]
  rw [onLamp_eq hget]
  exact openLoadDetected_eq hget _

/-- Settles O49: an overcurrent that is not detected and one that is, a retry timer's end, and an open load. -/
theorem lampFaultsActByTheirModes : Obligations.LampFaultsActByTheirModes := by
  unfold Obligations.LampFaultsActByTheirModes
  refine ⟨fun s n l milliamps since h => ⟨fun hno => ?none, fun henabled hfree houtput hfirst hlarge hlong => ?seen⟩,
    fun s n l due h hdue => ?retry, fun s n l due h hdue records hrecords latches hlatches => ?openLoad⟩
  case none =>
    refine congrArg Host.Outcome.next (lampOvercurrent_none h fun hseen => ?_)
    obtain ⟨henabled, hfree, houtput, hfirst, hlarge, hlong⟩ := (overcurrent_iff l milliamps since).1 hseen
    rcases hno with hno | hno | hno | hno | hno | hno
    · rw [henabled] at hno
      cases hno
    · exact hno hfree
    · rw [houtput] at hno
      cases hno
    · rw [hfirst] at hno
      cases hno
    · omega
    · omega
  case seen =>
    have hseen := (overcurrent_iff l milliamps since).2 ⟨henabled, hfree, houtput, hfirst, hlarge, hlong⟩
    refine ⟨_, congrArg Host.Outcome.next (lampOvercurrent_seen h hseen _ rfl _ rfl), ?_⟩
    rintro records rfl
    rfl
  case retry =>
    have hget : (s.reach due).lamps.lamps[n.val]? = some l := h
    have hexpires : lampRetryExpiry n s = (s.reach due).onLamp n fun l => { l with retry := none } := by
      simp only [lampRetryExpiry, lamp_of_get h, hdue]
    exact congrArg Host.Outcome.next (hexpires.trans (onLamp_eq hget _))
  case openLoad =>
    subst hrecords hlatches
    exact congrArg Host.Outcome.next (openLoadExpiry_eq h hdue _ rfl)

end Sys2Proof.LampFaults
end

section
/-! PROOFS. The lamps follow their effects (R163 to R169), with the open-load timer and the episodes at an effect period
(R171, R172). -/

namespace Sys2Proof.LampEffects
open Sys2Proof Sys2Proof.Machine Sys2Proof.Safety Sys2Proof.LampFaults

/-! ## One lamp at an effect period -/

/-- Whether the overcurrent episode stays at an effect period (R171). -/
def episodeStays (l : Lamp) (condition : Bool) : Bool :=
  l.overEpisode && !((!l.seenEffect && l.on) || (!condition && decide (l.retry = none)))

/-- The lamp with its on condition taken, before its brightness: an effect that begins is started afresh (R165). -/
def litLamp (l : Lamp) : Lamp :=
  { l with
    on := true, phase := if l.on then l.phase else 0, flare := if l.on then l.flare else l.copy.level / 4
    overEpisode := episodeStays l true, seenEffect := false }

/-- The lamp whose on condition does not hold. -/
def unlitLamp (l : Lamp) : Lamp :=
  { l with on := false, overEpisode := episodeStays l false, seenEffect := false }

/-- The displayed brightness after an effect period (R169). -/
def shownThen (s : State) (l : Lamp) (bright : Nat) : Nat :=
  if l.copy.enabled then fadeToward l.shown (lampTarget bright s.lampSet.scale s.supply.shed) l.copy.fadeStep else 0

/-- What an effect moves: phase and flare. -/
theorem advanceEffect_eq (l : Lamp) : l.advanceEffect = { l with
    phase := l.advanceEffect.phase, flare := l.advanceEffect.flare } := by
  unfold Lamp.advanceEffect
  dsimp only
  split <;> rfl

theorem litLamp_is (l : Lamp) : ∀ l' : Lamp,
    l' = { l with overEpisode := l.overEpisode && !l.episodeEnds true, seenEffect := false } →
    { (if !l'.on then l'.freshEffect else l') with on := true } = litLamp l := by
  rintro l' rfl
  have hends : l.episodeEnds true = ((!l.seenEffect && l.on) || (!true && decide (l.retry = none))) := by
    simp [Lamp.episodeEnds]
  cases hon : l.on <;> simp [litLamp, episodeStays, hends, hon, Lamp.freshEffect]

theorem effectStep_lit (s : State) (n : Nat) (l : Lamp) : effectStep s true n l
    = ({ (litLamp l).advanceEffect with
        shown := shownThen s l (effectBrightness s n (litLamp l)) }).openTest s.clock := by
  have hadvance := advanceEffect_eq (litLamp l)
  have hcopy : (litLamp l).advanceEffect.copy = l.copy := by rw [hadvance]; rfl
  have hshown : (litLamp l).advanceEffect.shown = l.shown := by rw [hadvance]; rfl
  unfold effectStep
  simp only [Bool.true_and, if_true]
  rw [litLamp_is l _ rfl, hcopy, hshown]
  rfl

theorem effectStep_unlit (s : State) (n : Nat) (l : Lamp) : effectStep s false n l
    = ({ unlitLamp l with shown := shownThen s l 0 }).openTest s.clock := by
  have hends : l.episodeEnds false = ((!l.seenEffect && l.on) || (!false && decide (l.retry = none))) := by
    unfold Lamp.episodeEnds
    cases l.retry <;> rfl
  unfold effectStep
  simp only [Bool.false_and, Bool.false_eq_true, if_false, hends]
  rfl

/-- The open-load timer at an effect period (R172). -/
theorem openTest_eq (l : Lamp) (now : Nat) : l.openTest now = { l with
    openTimer := if l.openCondition then (if l.openTimer = none then some (now + 250 * 1024000) else l.openTimer) else none
    openEpisode := l.openEpisode && l.openCondition } := by
  unfold Lamp.openTest
  have hms : ms 250 = 250 * 1024000 := rfl
  cases l.openCondition
  · simp
  · cases htimer : l.openTimer with
    | none => simp [hms]
    | some due =>
      simp only [if_true, Option.some_ne_none, if_false, Bool.and_true]
      rw [← htimer]

/-! ## Brightness and phase (R166, R167) -/

/-- Whether the phase lies within the cycle of the effect. -/
def phaseKnown (c : LampCopy) (x : Nat) : Bool :=
  match c.effect with
  | .strobe => decide (x < c.rate + 2)
  | .rotary => decide (x < 2 * c.rate)
  | .steady | .flicker | .ditch | .firebox => true

theorem stray_eq (l : Lamp) : l.stray = !phaseKnown l.copy l.phase := by
  unfold Lamp.stray LampCopy.cycle phaseKnown
  cases l.copy.effect <;> simp [← decide_not]

/-- A phase beyond the cycle: brightness and next phase are free. -/
theorem stray_lit {s : State} {n : Nat} {l : Lamp} (h : phaseKnown l.copy l.phase = false) :
    effectBrightness s n l ≤ 255 ∧ l.advanceEffect.phase < 510 := by
  have hstray : l.stray = true := by rw [stray_eq, h]; rfl
  refine ⟨?_, ?_⟩
  · simp only [effectBrightness, hstray, if_true]
    omega
  · unfold phaseKnown at h
    unfold Lamp.advanceEffect Lamp.nextPhase
    cases heffect : l.copy.effect <;> simp only [heffect] at h ⊢
    all_goals first | exact absurd h (by decide) | skip
    all_goals
      have hpast := of_decide_eq_false h
      rw [if_neg (by omega), if_neg (by omega)]
      exact Fin.isLt _

/-- The brightness of a phase within the cycle (R166, R167). -/
def litBrightness (s : State) (n : Nat) (c : LampCopy) (x y : Nat) : Nat :=
  match c.effect with
  | .steady => c.level
  | .flicker => c.level * (128 + s.lamps.lfsr.toNat % 128) / 256
  | .strobe => if x = 0 ∨ x = 1 then c.level else 0
  | .rotary => c.level / 8 + (c.level - c.level / 8) * (if x ≤ c.rate then x else 2 * c.rate - x) / c.rate
  | .ditch =>
    if c.partner = n ∨ (s.lamps.lamp c.partner).copy.effect ≠ .ditch ∨ lampCondition s c.partner = false then c.level
    else if s.lamps.effectCount.toNat / c.rate % 2 = 0 ∧ n < c.partner
        ∨ s.lamps.effectCount.toNat / c.rate % 2 = 1 ∧ c.partner < n then c.level
    else 0
  | .firebox => y

theorem ditch_iff (s : State) (n : Nat) (c : LampCopy) : (ditchSteady s n c.partner
      || ditchLit s.lamps.effectCount.toNat c.rate n c.partner) = true
    ↔ (c.partner = n ∨ (s.lamps.lamp c.partner).copy.effect ≠ .ditch ∨ lampCondition s c.partner = false)
      ∨ (s.lamps.effectCount.toNat / c.rate % 2 = 0 ∧ n < c.partner
        ∨ s.lamps.effectCount.toNat / c.rate % 2 = 1 ∧ c.partner < n) := by
  unfold ditchSteady ditchLit
  rcases Nat.mod_two_eq_zero_or_one (s.lamps.effectCount.toNat / c.rate) with hphase | hphase <;>
    simp [hphase, or_assoc]

theorem effectBrightness_known {s : State} {n : Nat} {l : Lamp} (h : phaseKnown l.copy l.phase = true) :
    effectBrightness s n l = litBrightness s n l.copy l.phase l.flare := by
  have hstray : l.stray = false := by rw [stray_eq, h]; rfl
  unfold effectBrightness litBrightness
  simp only [hstray, Bool.false_eq_true, if_false]
  cases heffect : l.copy.effect with
  | steady | flicker | firebox => rfl
  | strobe => exact if_congr (by omega) rfl rfl
  | rotary => rfl
  | ditch =>
    simp only [ditch_iff]
    by_cases hsteady : l.copy.partner = n ∨ (s.lamps.lamp l.copy.partner).copy.effect ≠ .ditch
        ∨ lampCondition s l.copy.partner = false
    · rw [if_pos (.inl hsteady), if_pos hsteady]
    · rw [if_neg hsteady]
      exact if_congr ⟨fun hlit => hlit.resolve_left hsteady, .inr⟩ rfl rfl

/-- The phase after an effect period, within the cycle (R166). -/
def nextIn (c : LampCopy) (x : Nat) : Nat :=
  match c.effect with
  | .strobe => if x < c.rate + 1 then x + 1 else 0
  | .rotary => if x < 2 * c.rate - 1 then x + 1 else 0
  | .steady | .flicker | .ditch | .firebox => x

theorem advanceEffect_phase {l : Lamp} (h : phaseKnown l.copy l.phase = true) :
    l.advanceEffect.phase = nextIn l.copy l.phase := by
  unfold phaseKnown at h
  unfold Lamp.advanceEffect nextIn Lamp.nextPhase
  cases heffect : l.copy.effect with
  | steady | flicker | ditch | firebox => simp only [heffect]
  | strobe =>
    simp only [heffect, decide_eq_true_eq] at h ⊢
    by_cases hlast : l.phase + 1 < l.copy.rate + 2
    · rw [if_pos hlast, if_pos (by omega)]
    · rw [if_neg hlast, if_pos (by omega), if_neg (by omega)]
  | rotary =>
    simp only [heffect, decide_eq_true_eq] at h ⊢
    by_cases hlast : l.phase + 1 < 2 * l.copy.rate
    · rw [if_pos hlast, if_pos (by omega)]
    · rw [if_neg hlast, if_pos (by omega), if_neg (by omega)]

theorem advanceEffect_flare (l : Lamp) : l.advanceEffect.flare
    = if l.copy.effect = .firebox then max (l.copy.level / 4) (l.flare - l.copy.level / 8) else l.flare := by
  unfold Lamp.advanceEffect
  dsimp only
  split <;> simp [*]

/-! ## The on condition (R165) -/

theorem lampCondition_iff {s : State} {n : Nat} {l : Lamp} (h : s.lamps.lamps[n]? = some l) :
    lampCondition s n = true ↔ s.isRun = true ∧ l.copy.enabled = true
      ∧ s.radio.request.functions.getLsbD l.copy.function = true
      ∧ (l.copy.direction = .any ∨ l.copy.direction = .fwd ∧ s.traction.direction = .forward
        ∨ l.copy.direction = .rev ∧ s.traction.direction = .reverse)
      ∧ (l.copy.consist = .any ∨ s.radio.consist.number = 0 ∨ s.radio.consist.role = .lead)
      ∧ s.lampSet.mask.getLsbD n = true ∧ l.latched = .none ∧ l.retry = none := by
  have hdirection : l.copy.directionMet s.traction.direction = true ↔ l.copy.direction = .any
      ∨ l.copy.direction = .fwd ∧ s.traction.direction = .forward
      ∨ l.copy.direction = .rev ∧ s.traction.direction = .reverse := by
    unfold LampCopy.directionMet
    cases l.copy.direction <;> simp
  have hconsist : l.copy.consistMet s.radio.consist = true ↔ l.copy.consist = .any ∨ s.radio.consist.number = 0
      ∨ s.radio.consist.role = .lead := by
    unfold LampCopy.consistMet
    cases l.copy.consist <;> simp
  simp only [lampCondition, lamp_of_get h, Bool.and_eq_true, decide_eq_true_eq, hdirection, hconsist, functionBit,
    Option.isNone_iff_eq_none, and_assoc]

/-- A lamp that does not exist is never lit. -/
theorem lampCondition_none {s : State} {n : Nat} (h : s.lamps.lamps[n]? = none) : lampCondition s n = false := by
  have hlamp : s.lamps.lamp n = Lamp.atReset := by
    rw [LampUnit.lamp, List.getD_eq_getElem?_getD, h]
    rfl
  have hdisabled : Lamp.atReset.copy.enabled = false := rfl
  simp [lampCondition, hlamp, hdisabled]

/-! ## The effect period -/

/-- The part at an effect period, LFSR and effect count stepped (R164). -/
def effectBegun (s : State) : State :=
  { s with
    clock := max s.clock s.timers.effect
    timers := { s.timers with effect := max s.clock s.timers.effect + 16 * 1024000 }
    lamps := { s.lamps with lfsr := lfsrStep s.lamps.lfsr, effectCount := s.lamps.effectCount + 1 } }

theorem effectTimerExpiry_eq (s : State) : effectTimerExpiry s
    = (effectBegun s).onEachLamp fun n => effectStep (effectBegun s) (lampCondition (effectBegun s) n) n := rfl

theorem get_effect (s : State) (n : Nat) : (effectTimerExpiry s).lamps.lamps[n]?
    = (s.lamps.lamps[n]?).map (effectStep (effectBegun s) (lampCondition (effectBegun s) n) n) := by
  have hget := getElem?_mapFrom (fun n => effectStep (effectBegun s) (lampCondition (effectBegun s) n) n) 0 n s.lamps.lamps
  rwa [Nat.zero_add] at hget

theorem effectStep_on (s : State) (condition : Bool) (n : Nat) (l : Lamp) : (effectStep s condition n l).on = condition := by
  cases condition with
  | true =>
    rw [effectStep_lit, openTest_eq, advanceEffect_eq]
    rfl
  | false =>
    rw [effectStep_unlit, openTest_eq]
    rfl

/-- A lamp is on after an effect period exactly where its on condition holds. -/
theorem on_effect (s : State) (n : Nat) :
    ((effectTimerExpiry s).lamps.lamp n).on = lampCondition (effectBegun s) n := by
  rw [LampUnit.lamp, List.getD_eq_getElem?_getD, get_effect]
  cases hget : s.lamps.lamps[n]? with
  | none => exact (lampCondition_none (s := effectBegun s) hget).symm
  | some l => exact effectStep_on _ _ _ _

/-- The open-load test of a lamp at an effect period (R172). -/
theorem openCondition_iff (l : Lamp) : l.openCondition = true ↔ l.copy.enabled = true ∧ l.latched = .none
    ∧ l.copy.openEnable = true ∧ l.copy.openMode ≠ .ignore ∧ 64 ≤ l.shown ∧ l.lastCode < l.copy.openThreshold := by
  simp only [Lamp.openCondition, Lamp.tested, Bool.and_eq_true, decide_eq_true_eq, and_assoc]

/-- What an effect period makes of a lamp, but for its brightness (R165, R171, R172). -/
theorem effectStep_eq (s : State) (condition : Bool) (n : Nat) (l : Lamp) : ∀ l', l' = effectStep s condition n l →
    (l'.openTimer ≠ none ↔ l.copy.enabled = true ∧ l.latched = .none ∧ l.copy.openEnable = true
        ∧ l.copy.openMode ≠ .ignore ∧ 64 ≤ l'.shown ∧ l.lastCode < l.copy.openThreshold)
      ∧ l' = { l with
          on := l'.on, phase := l'.phase, flare := l'.flare, shown := l'.shown
          overEpisode := l.overEpisode && !((!l.seenEffect && l.on) || (!l'.on && decide (l.retry = none)))
          openEpisode := l.openEpisode && decide (l'.openTimer ≠ none), seenEffect := false
          openTimer := if l'.openTimer = none then none else if l.openTimer = none
            then some (s.clock + 250 * 1024000) else l.openTimer } := by
  rintro l' hl'
  obtain ⟨phase, flare, shown, hbefore⟩ : ∃ phase flare shown, l' = ({ l with
      on := condition, phase := phase, flare := flare, shown := shown, overEpisode := episodeStays l condition
      seenEffect := false } : Lamp).openTest s.clock := by
    cases condition with
    | true =>
      rw [effectStep_lit, advanceEffect_eq] at hl'
      exact ⟨_, _, _, hl'⟩
    | false =>
      rw [effectStep_unlit] at hl'
      exact ⟨_, _, _, hl'⟩
  rw [openTest_eq] at hbefore
  have hiff := openCondition_iff ({ l with
      on := condition, phase := phase, flare := flare, shown := shown, overEpisode := episodeStays l condition
      seenEffect := false } : Lamp)
  generalize Lamp.openCondition _ = tests at hbefore hiff
  subst hbefore
  cases tests with
  | true =>
    have hruns : (if l.openTimer = none then some (s.clock + 250 * 1024000) else l.openTimer) ≠ none := by
      split
      · exact Option.some_ne_none _
      · assumption
    refine ⟨⟨fun _ => hiff.1 rfl, fun _ => hruns⟩, ?_⟩
    simp only [if_true, Bool.and_true, if_neg hruns, decide_eq_true hruns]
    rfl
  | false =>
    refine ⟨⟨fun hno => absurd rfl hno, fun hyes => nomatch hiff.2 hyes⟩, ?_⟩
    simp only [Bool.false_eq_true, if_false, Bool.and_false, ne_eq, not_true_eq_false, decide_false, if_true]
    rfl

/-- The target of a brightness, scaled and capped (R169). -/
theorem shownThen_eq (s : State) (l : Lamp) {bright target : Nat} (htarget : target = if 5 ≤ s.supply.shed then 0
      else if 2 ≤ s.supply.shed then min 64 (bright * s.lampSet.scale / 255) else bright * s.lampSet.scale / 255) :
    shownThen s l bright = if l.copy.enabled = false then 0 else if l.copy.fadeStep = 0 then target
      else if l.shown < target then min target (l.shown + l.copy.fadeStep) else max target (l.shown - l.copy.fadeStep) := by
  have hsame : lampTarget bright s.lampSet.scale s.supply.shed = target := htarget.symm
  unfold shownThen
  rw [hsame]
  cases l.copy.enabled <;> rfl

/-- The brightness, the phase and the flare of a lamp after an effect period (R166 to R169). -/
theorem effectStep_shows (s : State) (condition : Bool) (n : Nat) (l : Lamp) : ∀ l', l' = effectStep s condition n l →
    ∀ x, x = (if l.on then l.phase else 0) → ∀ y, y = (if l.on then l.flare else l.copy.level / 4) →
    ∃ bright, (condition = false ∨ phaseKnown l.copy x = true →
        bright = if condition = false then 0 else litBrightness s n l.copy x y)
      ∧ (condition = true → phaseKnown l.copy x = false → bright ≤ 255 ∧ l'.phase < 510)
      ∧ l'.shown = shownThen s l bright
      ∧ (condition = true → (phaseKnown l.copy x = true → l'.phase = nextIn l.copy x)
        ∧ l'.flare = if l.copy.effect = .firebox then max (l.copy.level / 4) (y - l.copy.level / 8) else y)
      ∧ (condition = false → l'.phase = l.phase ∧ l'.flare = l.flare) := by
  rintro l' rfl x rfl y rfl
  cases condition with
  | true =>
    rw [effectStep_lit, openTest_eq]
    refine ⟨effectBrightness s n (litLamp l), fun hknown => ?_, fun _ hstray => stray_lit (l := litLamp l) hstray, rfl,
      fun _ => ⟨fun hknown => advanceEffect_phase (l := litLamp l) hknown, advanceEffect_flare (litLamp l)⟩,
      fun hno => (nomatch hno)⟩
    exact effectBrightness_known (l := litLamp l) (hknown.resolve_left Bool.noConfusion)
  | false =>
    rw [effectStep_unlit, openTest_eq]
    exact ⟨0, fun _ => rfl, fun hno => (nomatch hno), rfl, fun hno => (nomatch hno), fun _ => ⟨rfl, rfl⟩⟩

theorem contact_of {l : Lamp} (h : l.output = false) : l.contact = .released := by
  rw [Lamp.contact, h]
  rfl

/-- Settles O48: lamp by lamp at an effect period, and the two commands of a lamp's PWM period. -/
theorem lampsFollowTheirEffects : Obligations.LampsFollowTheirEffects := by
  unfold Obligations.LampsFollowTheirEffects
  refine ⟨fun s => ⟨_, rfl, rfl, rfl, fun n l hl c hc => ?lamp, rfl⟩, fun s n l hl => ?period,
    fun s n l milliamps hl => ⟨fun hdark => ?dark, fun hlit => ?ends⟩⟩
  case lamp =>
    subst hc
    have hget : (effectTimerExpiry s).lamps.lamps[n]?
        = some (effectStep (effectBegun s) (lampCondition (effectBegun s) n) n l) := by
      rw [get_effect, hl]
      rfl
    have hcondition := lampCondition_iff (s := effectBegun s) hl
    have hon := effectStep_on (effectBegun s) (lampCondition (effectBegun s) n) n l
    obtain ⟨htimer, hframe⟩ := effectStep_eq (effectBegun s) (lampCondition (effectBegun s) n) n l _ rfl
    have hshows := effectStep_shows (effectBegun s) (lampCondition (effectBegun s) n) n l _ rfl
    generalize effectStep (effectBegun s) (lampCondition (effectBegun s) n) n l = l' at *
    rw [← hon] at hcondition hshows
    refine ⟨l', hget, hcondition, fun x hx y hy low hlow known hknown => ?_, htimer, hframe⟩
    have hknown' : known = phaseKnown l.copy x := hknown
    obtain ⟨bright, hbright, hstray, hshown, hlit, hunlit⟩ := hshows x hx y hy
    subst hknown' hlow
    refine ⟨bright, fun hcase => ?_, hstray, fun target htarget => ⟨hshown.trans (shownThen_eq (effectBegun s) l htarget), hlit, hunlit⟩⟩
    refine (hbright hcase).trans ?_
    have hpartner := on_effect s l.copy.partner
    unfold litBrightness
    rw [← hpartner]
    rfl
  case period =>
    have hget : (s.reach l.pwmDue).lamps.lamps[n.val]? = some l := hl
    have hbegins : lampPwmPeriod n s = lampIs (s.reach l.pwmDue) n { l with
        pwmDue := max s.clock l.pwmDue + 1024 * 1024, onTime := 4 * l.shown
        output := decide (0 < l.shown), seenPwm := false } := by
      rw [lampPwmPeriod, lamp_of_get hl]
      exact onLamp_eq hget _
    refine ⟨_, congrArg Host.Outcome.next hbegins, ?_, rfl⟩
    rw [lamp_of_get (get_lampIs hget _)]
    by_cases hzero : l.shown = 0
    · rw [if_pos hzero]
      exact contact_of (by simp [hzero])
    · rw [if_neg hzero]
      have houtput : decide (0 < l.shown) = true := decide_eq_true (Nat.pos_of_ne_zero hzero)
      refine (if_pos houtput).trans ?_
      cases l.copy.side <;> rfl
  case dark =>
    have hnothing : lampOnTimeEnd n milliamps s = s := by
      simp only [lampOnTimeEnd, lamp_of_get hl, hdark, Bool.false_eq_true, if_false]
    exact congrArg Host.Outcome.next hnothing
  case ends =>
    have hmoment : l.periodStart + us l.onTime = l.pwmDue - 1024 * 1024 + 1024 * l.onTime := by
      simp only [Lamp.periodStart, us, Nat.mul_comm]
    have hget : (s.reach (l.pwmDue - 1024 * 1024 + 1024 * l.onTime)).lamps.lamps[n.val]? = some l := hl
    have hends : lampOnTimeEnd n milliamps s = lampIs (s.reach (l.pwmDue - 1024 * 1024 + 1024 * l.onTime)) n
        { l with output := false, lastCode := min 1023 milliamps } := by
      simp only [lampOnTimeEnd, lamp_of_get hl, hlit, if_true, hmoment]
      exact onLamp_eq hget _
    refine ⟨_, congrArg Host.Outcome.next hends, ?_, rfl⟩
    rw [lamp_of_get (get_lampIs hget _)]
    exact contact_of rfl

end Sys2Proof.LampEffects
end

section
/-! PROOFS. A heater expiry (R174 to R177): the sensor test, the stages of the heater, and the fan that follows it (R180). -/

namespace Sys2Proof.HeaterStages
open Sys2Proof Sys2Proof.Machine Sys2Proof.Safety Sys2Proof.CacheReaders

/-! ## The heater on its own -/

/-- The part with the heater given, a fault recorded where `records`. -/
def heaterIs (u : State) (h : Heater) (records : Bool) : State :=
  { u with
    port := withNotice u.port (if records then [.fault] else [])
    status := { u.status with faultCount := if records then u.status.faultCount + 1 else u.status.faultCount }
    lamps := { u.lamps with heater := h } }

/-- The enable but for the latches (R175). -/
def heaterAllowed (u : State) : Bool :=
  u.isRun && decide (u.lampSet.smokeFunction ≤ 31) && u.radio.request.functions.getLsbD u.lampSet.smokeFunction
    && decide (u.supply.shed = 0)

theorem heaterEnabled_is (u : State) (h : Heater) (records : Bool) :
    heaterEnabled (heaterIs u h records) = (heaterAllowed u && !h.latched) := rfl

theorem onHeater_is (u : State) (h : Heater) (records : Bool) (f : Heater → Heater) :
    (heaterIs u h records).onHeater f = heaterIs u (f h) records := rfl

theorem recordFault_is (u : State) (h : Heater) : (heaterIs u h false).recordFault = heaterIs u h true := rfl

theorem setpoint_is (u : State) (h : Heater) (records : Bool) : setpoint (heaterIs u h records) = setpoint u := rfl

/-- A T outside the range of the sensor, in RUN (R176). -/
def sensorFaulty (u : State) (h : Heater) : Bool := u.isRun && (decide (h.lastT < 16) || decide (1008 < h.lastT))

theorem sensorTest_is (u : State) (h : Heater) : (heaterIs u h false).sensorTest
    = if sensorFaulty u h && !h.sensor then heaterIs u h.latchSensor true else heaterIs u h false := rfl

theorem dryTest_is (u : State) (h : Heater) (records : Bool) : (heaterIs u h records).dryTest
    = if h.working && decide (u.lampSet.dryLimit < h.lastT) then
        (heaterIs u { h with dry := true, state := .dry, output := false } records).recordFault
      else heaterIs u h records := rfl

theorem heatFails_is (u : State) (h : Heater) (records : Bool) : heatFails (heaterIs u h records)
    = (decide (h.state = .preheat) && decide (h.lastT < setpoint u) && decide (600 ≤ h.preheat + 1)) := rfl

/-! ## The stages (R176, R177) -/

/-- Stages 1 to 3: enable, dry test and start. -/
def stagesStart (s : State) : State :=
  let s := s.onHeater fun h => h.unlessEnabled (heaterEnabled s)
  let s := s.dryTest
  s.onHeater fun h => h.start (heaterEnabled s)

/-- Stages 4 and 5, PREHEAT and REGULATE. -/
def stagesWork (s : State) : State :=
  if heatFails s then (s.onHeater fun h => h.work (setpoint s) 1).recordFault
  else s.onHeater fun h => h.work (setpoint s) 1

/-- The part at a heater expiry, T read. -/
def heaterBegun (s : State) : State :=
  { s with
    clock := max s.clock s.timers.heater
    timers := { s.timers with heater := max s.clock s.timers.heater + 100 * 1024000 } }

/-- The fan at a heater expiry (R180). -/
def fanTaken (s : State) (before : HeaterState) : State :=
  if (s.fanFollows before).lamps.fan.state = .run then (s.fanFollows before).fanRuns else s.fanFollows before

theorem heaterTimerExpiry_eq (s : State) (code : BitVec 10) : heaterTimerExpiry code s
    = fanTaken (stagesWork (stagesStart (heaterIs (heaterBegun s) { s.lamps.heater with lastT := code.toNat } false).sensorTest))
      s.lamps.heater.state := rfl

theorem work_rest {h : Heater} (hrest : h.working = false) (point raised : Nat) : h.work point raised = h := by
  unfold Heater.working at hrest
  unfold Heater.work
  cases hstate : h.state <;> simp_all

theorem stagesWork_rest {u : State} {h : Heater} (hrest : h.working = false) (records : Bool) :
    stagesWork (heaterIs u h records) = heaterIs u h records := by
  have hcold : h.state ≠ .preheat := fun hno => by simp [Heater.working, hno] at hrest
  simp only [stagesWork, heatFails_is, onHeater_is, setpoint_is, work_rest hrest, hcold, decide_false, Bool.false_and,
    Bool.false_eq_true, if_false]

theorem start_unasked (h : Heater) : h.start false = h := by simp [Heater.start]

/-- A heater that is not enabled rests (R177, stage 1). -/
theorem stages_rest {u : State} {h : Heater} (hno : (heaterAllowed u && !h.latched) = false) (records : Bool) :
    stagesWork (stagesStart (heaterIs u h records))
      = heaterIs u (if h.working then { h with state := .off, output := false } else h) records := by
  generalize hrests : (if h.working then { h with state := HeaterState.off, output := false } else h) = h'
  have hunless : h.unlessEnabled false = h' := by
    rw [← hrests]
    simp [Heater.unlessEnabled]
  have hcold : h'.working = false := by
    rw [← hrests]
    cases hworks : h.working with
    | true => rfl
    | false => simpa using hworks
  have hlatched : h'.latched = h.latched := by
    rw [← hrests]
    split <;> rfl
  have hstart : stagesStart (heaterIs u h records) = heaterIs u h' records := by
    simp only [stagesStart, onHeater_is, heaterEnabled_is, hno, hunless, dryTest_is, hcold, Bool.false_and,
      Bool.false_eq_true, if_false, hlatched, start_unasked]
  rw [hstart, stagesWork_rest hcold]

theorem latched_eq (u : State) (h : Heater) : (heaterAllowed u && !h.noHeat && !h.dry && !h.sensor)
    = (heaterAllowed u && !h.latched) := by
  unfold Heater.latched
  cases h.noHeat <;> cases h.dry <;> cases h.sensor <;> simp

theorem working_iff (h : Heater) : h.working = true ↔ h.state = .preheat ∨ h.state = .regulate := by
  unfold Heater.working
  cases h.state <;> simp

/-- Without the enable the heater rests, and latches a sensor fault. -/
theorem stages_unasked {u : State} {h : Heater}
    (hno : (heaterAllowed u && !h.noHeat && !h.dry && !h.sensor && !sensorFaulty u h) = false) :
    stagesWork (stagesStart (heaterIs u h false).sensorTest) = heaterIs u { h with
      sensor := h.sensor || sensorFaulty u h, state := if h.state = .dry then .dry else .off
      output := h.output && !(sensorFaulty u h && !h.sensor) && !h.working } (sensorFaulty u h && !h.sensor) := by
  have hstate : (if h.state = .dry then HeaterState.dry else .off) = if h.working then .off else h.state := by
    unfold Heater.working
    cases h.state <;> rfl
  rw [sensorTest_is, hstate]
  by_cases hlatches : (sensorFaulty u h && !h.sensor) = true
  · obtain ⟨hfaulty, hfresh⟩ := (Bool.and_eq_true _ _).mp hlatches
    have hcold : h.latchSensor.working = false := by
      cases hstate : h.state <;> simp [Heater.latchSensor, Heater.working, hstate]
    rw [if_pos hlatches, stages_rest (by simp [Heater.latched, Heater.latchSensor]), hcold, hlatches, hfaulty]
    simp [Heater.latchSensor]
  · have hnone := Bool.eq_false_iff.2 hlatches
    have hrests : (heaterAllowed u && !h.latched) = false := by
      rw [← latched_eq]
      cases hfaulty : sensorFaulty u h with
      | false => rwa [hfaulty, Bool.not_false, Bool.and_true] at hno
      | true =>
        have hsensor : h.sensor = true := by simpa [hfaulty] using hlatches
        simp [hsensor]
    have hsensor : (h.sensor || sensorFaulty u h) = h.sensor := by
      cases hsensor : h.sensor <;> simp_all
    rw [if_neg hlatches, stages_rest hrests, hnone, hsensor]
    cases hworks : h.working <;> simp

/-- An enabled heater passes the sensor test and the first stage. -/
theorem asked_facts {u : State} {h : Heater}
    (hasked : (heaterAllowed u && !h.noHeat && !h.dry && !h.sensor && !sensorFaulty u h) = true) :
    (sensorFaulty u h && !h.sensor) = false ∧ (heaterAllowed u && !h.latched) = true ∧ h.unlessEnabled true = h := by
  rw [latched_eq, Bool.and_eq_true, Bool.not_eq_true'] at hasked
  obtain ⟨hallowed, hfine⟩ := hasked
  exact ⟨by rw [hfine]; rfl, hallowed, by simp [Heater.unlessEnabled]⟩

/-- A working heater above the dry limit is DRY. -/
theorem stages_dry {u : State} {h : Heater}
    (hasked : (heaterAllowed u && !h.noHeat && !h.dry && !h.sensor && !sensorFaulty u h) = true)
    (hworks : h.working = true) (hdry : u.lampSet.dryLimit < h.lastT) :
    stagesWork (stagesStart (heaterIs u h false).sensorTest)
      = heaterIs u { h with dry := true, state := .dry, output := false } true := by
  obtain ⟨hfine, henabled, hstays⟩ := asked_facts hasked
  have hstart : ∀ b, ({ h with dry := true, state := HeaterState.dry, output := false } : Heater).start b
      = { h with dry := true, state := .dry, output := false } := fun b => by simp [Heater.start]
  have hdries : stagesStart (heaterIs u h false) = heaterIs u { h with dry := true, state := .dry, output := false } true := by
    simp only [stagesStart, onHeater_is, heaterEnabled_is, henabled, hstays, dryTest_is, hworks, decide_eq_true hdry,
      Bool.and_self, if_true, recordFault_is, hstart]
  rw [sensorTest_is, hfine, if_neg Bool.false_ne_true, hdries]
  exact stagesWork_rest rfl true

/-- An enabled heater that is not dry. -/
theorem stages_asked {u : State} {h : Heater}
    (hasked : (heaterAllowed u && !h.noHeat && !h.dry && !h.sensor && !sensorFaulty u h) = true)
    (hwet : (h.working && decide (u.lampSet.dryLimit < h.lastT)) = false) :
    stagesWork (stagesStart (heaterIs u h false).sensorTest) = stagesWork (heaterIs u (h.start true) false) := by
  obtain ⟨hfine, henabled, hstays⟩ := asked_facts hasked
  have hstart : stagesStart (heaterIs u h false) = heaterIs u (h.start true) false := by
    simp only [stagesStart, onHeater_is, heaterEnabled_is, henabled, hstays, dryTest_is, hwet, Bool.false_eq_true, if_false]
  rw [sensorTest_is, hfine, if_neg Bool.false_ne_true, hstart]

/-- Stages 4 and 5 on a heater as it stands. -/
theorem stagesWork_is (u : State) (h : Heater) : stagesWork (heaterIs u h false)
    = heaterIs u (h.work (setpoint u) 1)
      (decide (h.state = .preheat) && decide (h.lastT < setpoint u) && decide (600 ≤ h.preheat + 1)) := by
  unfold stagesWork
  rw [← heatFails_is u h false]
  split
  · next hfails => rw [hfails, onHeater_is, setpoint_is, recordFault_is]
  · next hfine => rw [Bool.eq_false_iff.2 hfine, onHeater_is, setpoint_is]

/-! ## The fan -/

/-- The fan follows the heater, and in RUN chooses its duty again (R180). -/
theorem fanTaken_is (u : State) (h : Heater) (records : Bool) (before : HeaterState) : ∀ t,
    t = fanTaken (heaterIs u h records) before →
    t.lamps.fan = (if before ≠ .regulate ∧ h.state = .regulate ∧ (u.lamps.fan.state = .off ∨ u.lamps.fan.state = .purge) then
        { u.lamps.fan with state := .run, purge := none, fast := decide (u.traction.c ≠ 0) }
      else if before = .regulate ∧ h.state ≠ .regulate ∧ (u.lamps.fan.state = .run ∨ u.lamps.fan.state = .puff) then
        (if u.lampSet.purgeTime = 0 then { u.lamps.fan with state := .off, puff := none }
        else { u.lamps.fan with
          state := .purge, puff := none, purge := some (u.clock + 1024000 * (1000 * u.lampSet.purgeTime)) })
      else if u.lamps.fan.state = .run then { u.lamps.fan with fast := decide (u.traction.c ≠ 0) }
      else u.lamps.fan)
    ∧ t = { heaterIs u h records with lamps := { u.lamps with heater := h, fan := t.lamps.fan } } := by
  rintro t rfl
  obtain ⟨hfan, hframe⟩ := fanFollows_is (heaterIs u h records) before
  have hset : (heaterIs u h records).lampSet = u.lampSet := rfl
  have htaken : ∀ x : State, x = (heaterIs u h records).fanFollows before →
      fanTaken (heaterIs u h records) before = { x with lamps := { x.lamps with
        fan := if x.lamps.fan.state = .run then { x.lamps.fan with fast := decide (x.traction.c ≠ 0) }
          else x.lamps.fan } } := by
    rintro x rfl
    unfold fanTaken State.fanRuns
    split
    · next hruns => simp only [State.onFan, State.onLamps, ← hruns]
    · rfl
  have hout := htaken _ rfl
  generalize (heaterIs u h records).fanFollows before = x at hfan hframe hout
  generalize fanTaken (heaterIs u h records) before = t at hout ⊢
  have htraction : x.traction = u.traction := by rw [hframe]; rfl
  have hfan' : t.lamps.fan = if x.lamps.fan.state = .run then { x.lamps.fan with fast := decide (u.traction.c ≠ 0) }
      else x.lamps.fan := by rw [hout, htraction]
  refine ⟨?_, ?_⟩
  · rw [hfan', hfan]
    have hlamps : (heaterIs u h records).lamps = { u.lamps with heater := h } := rfl
    have hclock : (heaterIs u h records).clock = u.clock := rfl
    have hcontroller : (heaterIs u h records).traction = u.traction := rfl
    rw [hlamps, hset, hclock, hcontroller]
    dsimp only
    by_cases hbefore : before = .regulate <;> by_cases hafter : h.state = .regulate <;>
      cases hstate : u.lamps.fan.state <;> by_cases hzero : u.lampSet.purgeTime = 0 <;>
      simp [hbefore, hafter, hstate, hzero]
  · refine hout.trans ?_
    rw [hfan', htraction]
    generalize (if x.lamps.fan.state = FanState.run then _ else x.lamps.fan) = fan
    generalize x.lamps.fan = fan' at hframe
    rw [hframe]
    rfl

/-! ## The expiry -/

/-- An enabled heater that is OFF or in PREHEAT (R177). -/
theorem work_preheats {u : State} {h : Heater} {count : Nat} (hstate : h.state = .off ∨ h.state = .preheat)
    (hcount : count = if h.state = .off then 0 else h.preheat) {fails : Bool}
    (hfails : fails = (decide (h.state = .preheat) && decide (h.lastT < setpoint u) && decide (599 ≤ h.preheat))) :
    stagesWork (heaterIs u (h.start true) false) = heaterIs u (if setpoint u ≤ h.lastT then
        { h with state := .regulate, output := false, preheat := count }
      else if fails = true then { h with state := .off, output := false, preheat := count + 1, noHeat := true }
      else { h with state := .preheat, output := true, preheat := count + 1 }) fails := by
  have hstart : h.start true = { h with state := .preheat, preheat := count } := by
    rcases hstate with hoff | hheats
    · simp [Heater.start, hoff, hcount]
    · have hstays : h.start true = h := by simp [Heater.start, hheats]
      have hnew : h.state ≠ .off := by rw [hheats]; decide
      rw [hstays, hcount, if_neg hnew, ← hheats]
  have hcode : (decide (HeaterState.preheat = .preheat) && decide (h.lastT < setpoint u) && decide (600 ≤ count + 1)) = fails := by
    rcases hstate with hoff | hheats
    · simp [hfails, hoff, hcount]
    · simp [hfails, hheats, hcount]
  rw [stagesWork_is, hstart, hcode]
  congr 1
  by_cases hreached : setpoint u ≤ h.lastT
  · simp [Heater.work, hreached]
  · have hcold : h.lastT < setpoint u := Nat.lt_of_not_le hreached
    have hlong : 600 ≤ count + 1 ↔ fails = true := by
      rw [← hcode]
      simp [hcold]
    simp only [Heater.work, hreached, if_false, Nat.one_ne_zero, ne_eq, not_false_eq_true, true_and, hlong]

/-- What an expiry leaves, the stages having left the heater `h'`. -/
theorem heaterTimerExpiry_is {s : State} {code : BitVec 10} {h h' : Heater} {records : Bool}
    (hh : h = { s.lamps.heater with lastT := code.toNat })
    (hstages : stagesWork (stagesStart (heaterIs (heaterBegun s) h false).sensorTest) = heaterIs (heaterBegun s) h' records) :
    ∀ t, t = heaterTimerExpiry code s → t.lamps.heater = h'
      ∧ t.lamps.fan = (if h.state ≠ .regulate ∧ h'.state = .regulate
            ∧ (s.lamps.fan.state = .off ∨ s.lamps.fan.state = .purge) then
          { s.lamps.fan with state := .run, purge := none, fast := decide (s.traction.c ≠ 0) }
        else if h.state = .regulate ∧ h'.state ≠ .regulate
            ∧ (s.lamps.fan.state = .run ∨ s.lamps.fan.state = .puff) then
          (if s.lampSet.purgeTime = 0 then { s.lamps.fan with state := .off, puff := none }
          else { s.lamps.fan with
            state := .purge, puff := none
            purge := some (max s.clock s.timers.heater + 1024000 * (1000 * s.lampSet.purgeTime)) })
        else if s.lamps.fan.state = .run then { s.lamps.fan with fast := decide (s.traction.c ≠ 0) }
        else s.lamps.fan)
      ∧ t = { s with
          clock := max s.clock s.timers.heater
          port := withNotice s.port (if records then [.fault] else [])
          status := { s.status with faultCount := if records then s.status.faultCount + 1 else s.status.faultCount }
          timers := { s.timers with heater := max s.clock s.timers.heater + 100 * 1024000 }
          lamps := { s.lamps with heater := h', fan := t.lamps.fan } } := by
  rintro t ht
  rw [heaterTimerExpiry_eq, ← hh, hstages] at ht
  obtain ⟨hfan, hframe⟩ := fanTaken_is (heaterBegun s) h' records s.lamps.heater.state t ht
  have hbefore : s.lamps.heater.state = h.state := by rw [hh]
  rw [hbefore] at hfan
  exact ⟨by rw [hframe], hfan, hframe⟩

/-- Settles O50: the stages without the enable, on a dry heater, and in each state. -/
theorem heaterExpiryWorksItsStages : Obligations.HeaterExpiryWorksItsStages := by
  unfold Obligations.HeaterExpiryWorksItsStages
  intro s code
  refine ⟨_, rfl, ?_⟩
  rintro h hh T rfl point hpoint faulty hfaulty latches hlatches works hworks asked hasked dries hdries fails hfails
  have hT : h.lastT = code.toNat := by rw [hh]
  have hfaulty' : sensorFaulty (heaterBegun s) h = faulty := by
    rw [hfaulty, ← hT]
    rfl
  have hworks' : h.working = works := by
    rw [hworks, Bool.eq_iff_iff, working_iff]
    simp
  have hpoint' : setpoint (heaterBegun s) = point := hpoint.symm
  have hallowed : (heaterAllowed (heaterBegun s) && !h.noHeat && !h.dry && !h.sensor && !sensorFaulty (heaterBegun s) h) = asked := by
    rw [hasked, hfaulty']
    rfl
  obtain ⟨h', hstages, hunasked, hdry, hgoes⟩ : ∃ h',
      stagesWork (stagesStart (heaterIs (heaterBegun s) h false).sensorTest)
        = heaterIs (heaterBegun s) h' (latches || dries || fails)
      ∧ (asked = false → h' = { h with
          sensor := h.sensor || faulty, state := if h.state = .dry then .dry else .off
          output := h.output && !latches && !works })
      ∧ (dries = true → h' = { h with dry := true, state := .dry, output := false })
      ∧ (asked = true → dries = false →
        (h.state = .off ∨ h.state = .preheat → ∀ count, count = (if h.state = .off then 0 else h.preheat) →
          h' = (if point ≤ code.toNat then { h with state := .regulate, output := false, preheat := count }
            else if fails = true then { h with state := .off, output := false, preheat := count + 1, noHeat := true }
            else { h with state := .preheat, output := true, preheat := count + 1 }))
        ∧ (h.state = .regulate → h' = { h with
            output := if code.toNat + 8 < point then true else if point < code.toNat then false else h.output })
        ∧ (h.state = .dry → h' = h)) := by
    cases asked with
    | false =>
      have hrecords : (latches || dries || fails) = (sensorFaulty (heaterBegun s) h && !h.sensor) := by
        rw [hfaulty', ← hlatches, hfails, hdries]
        simp
      refine ⟨_, (stages_unasked hallowed).trans (by rw [hrecords]), fun _ => ?_, fun hno => ?_, fun hno => (nomatch hno)⟩
      · rw [hfaulty', ← hlatches, hworks']
      · rw [hdries] at hno
        cases hno
    | true =>
      obtain ⟨hfine, -, -⟩ := asked_facts hallowed
      rw [hfaulty', ← hlatches] at hfine
      have hdries' : dries = (h.working && decide ((heaterBegun s).lampSet.dryLimit < h.lastT)) := by
        rw [hdries, hworks', hT]
        rfl
      cases hdry : dries with
      | true =>
        obtain ⟨hworking, hhot⟩ := (Bool.and_eq_true _ _).mp (hdries'.symm.trans hdry)
        have hrecords : (latches || true || fails) = true := by simp
        exact ⟨_, (stages_dry hallowed hworking (of_decide_eq_true hhot)).trans (by rw [hrecords]), fun hno => (nomatch hno),
          fun _ => rfl, fun _ hno => (nomatch hno)⟩
      | false =>
        have hstages := stages_asked hallowed (hdries'.symm.trans hdry)
        have hrecords : (latches || false || fails) = fails := by simp [hfine]
        have hfails' : fails = (decide (h.state = .preheat) && decide (h.lastT < setpoint (heaterBegun s)) && decide (599 ≤ h.preheat)) := by
          rw [hfails, hdry, hpoint', hT]
          simp
        rw [hrecords]
        have hheats : h.state = .off ∨ h.state = .preheat → _ := fun hstate =>
          hstages.trans (work_preheats hstate rfl hfails')
        have hstays : h.state ≠ .off → h.state ≠ .preheat → stagesWork (stagesStart (heaterIs (heaterBegun s) h false).sensorTest)
            = heaterIs (heaterBegun s) (h.work point 1) fails := fun hnoff hncold => by
          have hstart : h.start true = h := by simp [Heater.start, hnoff]
          rw [hstages, hstart, stagesWork_is, hpoint', hfails', hpoint']
          simp [hncold]
        cases hstate : h.state with
        | off | preheat =>
          refine ⟨_, hheats (by simp [hstate]), fun hno => (nomatch hno), fun hno => (nomatch hno), fun _ _ =>
            ⟨fun _ count hcount => ?_, fun hno => (nomatch hno), fun hno => (nomatch hno)⟩⟩
          rw [hpoint', hT, hcount, hstate]
        | regulate =>
          refine ⟨_, hstays (by simp [hstate]) (by simp [hstate]), fun hno => (nomatch hno), fun hno => (nomatch hno),
            fun _ _ => ⟨fun hno => (nomatch hno.resolve_left HeaterState.noConfusion), fun _ => ?_, fun hno => (nomatch hno)⟩⟩
          simp only [Heater.work, hstate, hT]
        | dry =>
          refine ⟨_, hstays (by simp [hstate]) (by simp [hstate]), fun hno => (nomatch hno), fun hno => (nomatch hno),
            fun _ _ => ⟨fun hno => (nomatch hno.resolve_left HeaterState.noConfusion), fun hno => (nomatch hno), fun _ => ?_⟩⟩
          exact work_rest (by simp [Heater.working, hstate]) _ _
  obtain ⟨hnew, hfan, hframe⟩ := heaterTimerExpiry_is hh hstages (heaterTimerExpiry code s) rfl
  generalize heaterTimerExpiry code s = t at hnew hfan hframe ⊢
  have hclock : t.clock = max s.clock s.timers.heater := by rw [hframe]
  rw [hnew, hclock]
  refine ⟨hunasked, hdry, hgoes, hfan, ?_⟩
  rintro records rfl
  exact hframe

end Sys2Proof.HeaterStages
end

section
/-! PROOFS. The fan's timers, its duty and half-bridge, and its overcurrent (R180 to R182). -/

namespace Sys2Proof.FanDrive
open Sys2Proof Sys2Proof.Machine Sys2Proof.Safety Sys2Proof.BlockLaws Sys2Proof.CacheReaders

/-! ## The half-bridge (R181) -/

theorem deadTimeOver_iff_all (off : Option Nat) (now : Nat) :
    deadTimeOver off now = true ↔ ∀ t, off = some t → t + 512 ≤ now :=
  Machine.deadTimeOver_iff off now

/-- Asked for its high side, the half-bridge has its low side off and its high side on after the dead time. -/
theorem ask_high {g : FanLeg} {now : Nat} (h : fanLegSafe g now) : (g.ask now true).low = false
    ∧ ((g.ask now true).high = true ↔ ∀ off, (g.ask now true).lowOff = some off → off + 512 ≤ now) := by
  have hsafe := fanAsk_safe true h
  have hhigh : (g.ask now true).high = (g.high || deadTimeOver (g.ask now true).lowOff now) := by
    simp [FanLeg.ask, highNext]
  refine ⟨by simp [FanLeg.ask, lowNext], fun hon => hsafe.2.1 hon, fun hover => ?_⟩
  rw [hhigh, (deadTimeOver_iff_all _ _).2 hover, Bool.or_true]

/-- Asked for its low side, the half-bridge has its high side off and its low side on after the dead time. -/
theorem ask_low {g : FanLeg} {now : Nat} (h : fanLegSafe g now) : (g.ask now false).high = false
    ∧ ((g.ask now false).low = true ↔ ∀ off, (g.ask now false).highOff = some off → off + 512 ≤ now) := by
  have hsafe := fanAsk_safe false h
  have hlow : (g.ask now false).low = (g.low || deadTimeOver (g.ask now false).highOff now) := by
    simp [FanLeg.ask, lowNext]
  refine ⟨by simp [FanLeg.ask, highNext], fun hon => hsafe.2.2 hon, fun hover => ?_⟩
  rw [hlow, (deadTimeOver_iff_all _ _).2 hover, Bool.or_true]

/-- In the on-phase the half-bridge asks for its high side. -/
theorem legAt_onPhase {f : Fan} {now : Nat} (hin : now < f.phaseEnd) (hle : f.since ≤ now) (h : fanLegSafe f.leg f.since) :
    ∃ g, fanLegSafe g now ∧ f.legAt now = g.ask now true :=
  ⟨f.leg, fanLegSafe_mono hle h, by rw [Fan.legAt, if_pos hin]⟩

/-- After the on-phase it asks for its low side. -/
theorem legAt_offPhase {f : Fan} {now : Nat} (hpast : f.phaseEnd ≤ now) (hle : f.since ≤ now)
    (h : fanLegSafe f.leg f.since) : ∃ g, fanLegSafe g now ∧ f.legAt now = g.ask now false := by
  rw [Fan.legAt, if_neg (Nat.not_lt.2 hpast)]
  by_cases hin : f.since < f.phaseEnd
  · have hfirst : fanLegSafe (f.leg.ask (f.phaseEnd - 1) true) (f.phaseEnd - 1) :=
      fanAsk_safe _ (fanLegSafe_mono (by omega) h)
    have hsecond : fanLegSafe ((f.leg.ask (f.phaseEnd - 1) true).ask f.phaseEnd false) f.phaseEnd :=
      fanAsk_safe _ (fanLegSafe_mono (Nat.sub_le _ _) hfirst)
    exact ⟨_, fanLegSafe_mono hpast hsecond, if_pos hin⟩
  · exact ⟨_, fanLegSafe_mono hle h, if_neg hin⟩

/-! ## The PWM period (R181) -/

theorem fanDuty_eq (s : State) : fanDuty s = if s.isRun = false ∨ 2 ≤ s.supply.shed then 0 else fanAsked s := by
  unfold fanDuty
  cases s.isRun <;> by_cases hshed : s.supply.shed < 2 <;> simp [hshed]

/-! ## Overcurrent (R182) -/

theorem highFrom_eq (f : Fan) : f.highFrom = if f.leg.high then f.since
    else max f.since ((f.leg.lowOff.map fun off => off + 512).getD 0) := by
  unfold Fan.highFrom
  cases f.leg.high with
  | true => rfl
  | false => cases f.leg.lowOff <;> simp [deadTime]

theorem fanOvercurrentSeen_iff (f : Fan) (milliamps since : Nat) : fanOvercurrentSeen f milliamps since = true ↔
    f.state ≠ .latched ∧ 1000 ≤ milliamps ∧ f.highFrom + since + 20 * 1024 ≤ f.periodStart + f.drive * 50 := by
  have hcode : 1000 ≤ currentCode milliamps ↔ 1000 ≤ milliamps := by
    unfold currentCode
    omega
  have hcount : f.highFrom + overcurrentAfter since ≤ f.phaseEnd
      ↔ f.highFrom + since + 20 * 1024 ≤ f.periodStart + f.drive * 50 := by
    simp only [overcurrentAfter, Fan.phaseEnd, onPhase, us, Nat.add_assoc]
  simp only [fanOvercurrentSeen, Bool.and_eq_true, decide_eq_true_eq, hcode, hcount, and_assoc]

/-- The fan at an overcurrent. -/
def fanLatched (f : Fan) (now : Nat) : Fan :=
  { f.driveAt now f.periodStart 0 with state := .latched, puff := none, purge := none }

theorem fanOvercurrent_seen {s : State} {milliamps since : Nat} (h : fanOvercurrentSeen s.lamps.fan milliamps since = true) :
    ∀ now, now = max s.clock (s.lamps.fan.highFrom + since + 20 * 1024) → fanOvercurrent milliamps since s = { s with
      clock := now, port := withNotice s.port [.fault]
      status := { s.status with faultCount := s.status.faultCount + 1 }
      lamps := { s.lamps with fan := fanLatched s.lamps.fan now } } := by
  rintro now rfl
  have hmoment : s.lamps.fan.highFrom + overcurrentAfter since = s.lamps.fan.highFrom + since + 20 * 1024 := by
    simp only [overcurrentAfter, us, Nat.add_assoc]
  rw [fanOvercurrent, if_pos h, hmoment]
  rfl

theorem driveAt_zero {f : Fan} {now : Nat} (hstart : f.periodStart ≤ now) : (f.driveAt now f.periodStart 0).leg.high = false := by
  have hpast : decide (now < f.periodStart + onPhase 0) = false := by
    simp only [onPhase]
    exact decide_eq_false (by omega)
  simp only [Fan.driveAt, hpast]
  rfl

/-- Settles O51: the two timers, the PWM period at every moment, and an overcurrent that is not seen and one that is. -/
theorem fanTimersDutyAndOvercurrent : Obligations.FanTimersDutyAndOvercurrent := by
  unfold Obligations.FanTimersDutyAndOvercurrent
  refine ⟨fun s due hdue => ?puff, fun s due hdue => ?purge, fun s => ⟨_, rfl, fun hlaw => ⟨?law, ?moments⟩, ?period⟩,
    fun s milliamps since start hstart => ?overcurrent⟩
  case puff =>
    have hexpires : puffTimerExpiry s = ((s.reach due).onFan fun f => { f with puff := none }).fanRuns := by
      rw [puffTimerExpiry, hdue]
    exact congrArg Host.Outcome.next hexpires
  case purge =>
    have hexpires : purgeTimerExpiry s = (s.reach due).onFan fun f => { f with purge := none, state := .off } := by
      rw [purgeTimerExpiry, hdue]
    exact congrArg Host.Outcome.next hexpires
  case law => exact fanPwmPeriod_lawful (l := .fan) hlaw
  case moments =>
    rintro now hnow g rfl
    obtain ⟨-, -, hsafe⟩ : fanLawful (fanPwmPeriod s) := fanPwmPeriod_lawful (l := .fan) hlaw
    have hend : (fanPwmPeriod s).lamps.fan.phaseEnd
        = (fanPwmPeriod s).clock + (fanPwmPeriod s).lamps.fan.drive * 50 := rfl
    have hsince : (fanPwmPeriod s).lamps.fan.since = (fanPwmPeriod s).clock := rfl
    rw [← hend]
    generalize fanPwmPeriod s = t at *
    have hle : t.lamps.fan.since ≤ now := by rw [hsince]; exact hnow
    refine ⟨legAt_safe hle hsafe, fun hin => ?_, fun hpast => ?_⟩
    · obtain ⟨g, hg, hleg⟩ := legAt_onPhase hin hle hsafe
      rw [hleg]
      exact ask_high hg
    · obtain ⟨g, hg, hleg⟩ := legAt_offPhase hpast hle hsafe
      rw [hleg]
      exact ask_low hg
  case period =>
    have hperiod : fanPwmPeriod s = { s with
        clock := max s.clock s.timers.fanPwm
        timers := { s.timers with fanPwm := max s.clock s.timers.fanPwm + 50 * 1024 }
        lamps := { s.lamps with fan := { s.lamps.fan with
          periodStart := (fanPwmPeriod s).clock, since := (fanPwmPeriod s).clock, leg := (fanPwmPeriod s).lamps.fan.leg
          drive := if s.isRun = false ∨ 2 ≤ s.supply.shed then 0 else fanAsked s } } } := by
      rw [← fanDuty_eq]
      rfl
    exact hperiod
  case overcurrent =>
    rw [← highFrom_eq] at hstart
    subst hstart
    refine ⟨fun hno => congrArg Host.Outcome.next (if_neg fun hseen => ?_), fun hfree hlarge hlong => ?_⟩
    · obtain ⟨hfree, hlarge, hlong⟩ := (fanOvercurrentSeen_iff _ _ _).1 hseen
      rcases hno with hno | hno | hno
      · exact hfree hno
      · omega
      · omega
    · have hseen := (fanOvercurrentSeen_iff s.lamps.fan milliamps since).2 ⟨hfree, hlarge, hlong⟩
      have hlawful : fanLawful s → fanLawful (fanOvercurrent milliamps since s) :=
        fanOvercurrent_lawful (l := .fan) milliamps since
      have hlatches := fanOvercurrent_seen hseen _ rfl
      refine ⟨_, rfl, fun hlaw => ⟨hlawful hlaw, ?_⟩, ?_⟩
      · rw [hlatches]
        exact driveAt_zero (Nat.le_trans (periodStart_le hlaw) (Nat.le_max_left _ _))
      · conv_lhs => rw [hlatches]
        conv_rhs => rw [hlatches]
        rfl

end Sys2Proof.FanDrive
end

section
/-! PROOFS. Supply samples and die readings, and what a change of the shed level reaches (R184 to R191). -/

namespace Sys2Proof.SupplyReadings
open Sys2Proof Sys2Proof.Machine Sys2Proof.Safety Sys2Proof.Notices

/-! ## The supply state and level after a sample (R186 to R189) -/

section
variable {u v : Supply} {track store : Nat} {charge : Bool} {shed : Nat}

/-- The monitor after a sample: the work on both voltages, then the charge enable and the shed level. -/
def sampled (u : Supply) (track store : Nat) (charge : Bool) (shed : Nat) : Supply :=
  { ({ u with vtrk := voltage track, vsto := voltage store } : Supply).work with charge := charge, shed := shed }

theorem levelTests_kept (u : Supply) : u.levelTests = { u with
    level := u.levelTests.level, weak := u.levelTests.weak, strong := u.levelTests.strong } := by
  unfold Supply.levelTests
  repeat' split
  all_goals rfl

theorem countRide_kept (u : Supply) : u.countRide = { u with ride := u.countRide.ride } := by
  unfold Supply.countRide
  split <;> rfl

theorem rideLevel_kept (u : Supply) : u.rideLevel = { u with state := u.rideLevel.state, level := u.rideLevel.level } := by
  unfold Supply.rideLevel
  split <;> rfl

theorem work_kept (u : Supply) : u.work.vtrk = u.vtrk ∧ u.work.vsto = u.vsto ∧ u.work.thermal = u.thermal
    ∧ u.work.die = u.die ∧ u.work.cfg = u.cfg ∧ u.work.shed = u.shed ∧ u.work.charge = u.charge := by
  unfold Supply.work
  split
  · simp only
    split
    · rw [Supply.enterRide, rideLevel_kept]
      exact ⟨rfl, rfl, rfl, rfl, rfl, rfl, rfl⟩
    · rw [levelTests_kept]
      exact ⟨rfl, rfl, rfl, rfl, rfl, rfl, rfl⟩
  · simp only
    split
    · exact ⟨rfl, rfl, rfl, rfl, rfl, rfl, rfl⟩
    · rw [rideLevel_kept, countRide_kept]
      exact ⟨rfl, rfl, rfl, rfl, rfl, rfl, rfl⟩
  · simp only
    split
    · exact ⟨rfl, rfl, rfl, rfl, rfl, rfl, rfl⟩
    · rw [countRide_kept]
      exact ⟨rfl, rfl, rfl, rfl, rfl, rfl, rfl⟩

theorem sampled_kept (u : Supply) (track store : Nat) (charge : Bool) (shed : Nat) :
    (sampled u track store charge shed).vtrk = min 32000 track
    ∧ (sampled u track store charge shed).vsto = min 32000 store
    ∧ (sampled u track store charge shed).thermal = u.thermal
    ∧ (sampled u track store charge shed).die = u.die
    ∧ (sampled u track store charge shed).cfg = u.cfg
    ∧ ({ u with vtrk := voltage track, vsto := voltage store } : Supply).work.shed = u.shed
    ∧ ({ u with vtrk := voltage track, vsto := voltage store } : Supply).work.charge = u.charge := by
  have hkept := work_kept { u with vtrk := voltage track, vsto := voltage store }
  obtain ⟨hvtrk, hvsto, hthermal, hdie, hcfg, hshed, hcharge⟩ := hkept
  exact ⟨hvtrk, hvsto, hthermal, hdie, hcfg, hshed, hcharge⟩

theorem sampled_normal (hstate : u.state = .normal) (hv : v = sampled u track store charge shed) (lost : Nat)
    (hlost : lost = if v.vtrk < u.cfg.lost then u.lost + 1 else 0) (hlow : lost < 2) :
    v.state = .normal ∧ v.lost = lost ∧ v.ride = u.ride ∧ v.back = u.back
    ∧ (u.level = 0 → v.strong = u.strong
      ∧ (if v.vtrk < u.cfg.weak then
          (if 99 ≤ u.weak then v.level = 1 ∧ v.weak = 0 else v.level = 0 ∧ v.weak = u.weak + 1)
        else v.level = 0 ∧ v.weak = 0))
    ∧ (u.level = 1 → v.weak = u.weak
      ∧ (if u.cfg.weak + 500 ≤ v.vtrk then
          (if 999 ≤ u.strong then v.level = 0 ∧ v.strong = 0 else v.level = 1 ∧ v.strong = u.strong + 1)
        else v.level = 1 ∧ v.strong = 0))
    ∧ (1 < u.level → v.level = u.level ∧ v.weak = u.weak ∧ v.strong = u.strong) := by
  have hvtrk : v.vtrk = voltage track := by rw [hv]; exact (sampled_kept ..).1
  rw [hvtrk] at hlost ⊢
  have hwork : v = { ({ u with vtrk := voltage track, vsto := voltage store, lost := lost } : Supply).levelTests with
      charge := charge, shed := shed } := by
    rw [hv, sampled, Supply.work, hstate]
    simp only [Supply.lostAfter, ← hlost]
    rw [if_neg (by omega)]
  rw [hwork]
  have hh : 100 ≤ u.weak + 1 ↔ 99 ≤ u.weak := by omega
  have hk : 1000 ≤ u.strong + 1 ↔ 999 ≤ u.strong := by omega
  simp only [Supply.levelTests, hh, hk]
  by_cases h0 : u.level = 0
  · simp only [h0, if_true]
    by_cases hweak : voltage track < u.cfg.weak
    · by_cases hmany : 99 ≤ u.weak <;> simp [hweak, hmany, hstate]
    · simp [hweak, hstate]
  · by_cases h1 : u.level = 1
    · by_cases hstrong : u.cfg.weak + 500 ≤ voltage track
      · by_cases hmany : 999 ≤ u.strong <;> simp [h1, hstrong, hmany, hstate]
      · simp [h1, hstrong, hstate]
    · simp [h0, h1, hstate]

theorem sampled_lost (hstate : u.state = .normal) (hv : v = sampled u track store charge shed) (lost stored : Nat)
    (hlost : lost = if v.vtrk < u.cfg.lost then u.lost + 1 else 0) (hhigh : 2 ≤ lost)
    (hstored : stored = storeLevel u.cfg v.vsto) :
    v.ride = 0 ∧ v.back = 0 ∧ v.lost = lost ∧ v.weak = u.weak ∧ v.strong = u.strong
    ∧ (if v.vsto < 5000 then v.state = .down ∧ v.level = 5 else v.state = .ride ∧ v.level = max u.level stored) := by
  have hvtrk : v.vtrk = voltage track := by rw [hv]; exact (sampled_kept ..).1
  have hvsto : v.vsto = voltage store := by rw [hv]; exact (sampled_kept ..).2.1
  rw [hvtrk] at hlost
  rw [hvsto] at hstored ⊢
  have hwork : v = { ({ u with vtrk := voltage track, vsto := voltage store, lost := lost } : Supply).enterRide with
      charge := charge, shed := shed } := by
    rw [hv, sampled, Supply.work, hstate]
    simp only [Supply.lostAfter, ← hlost]
    rw [if_pos hhigh]
  rw [hwork]
  by_cases hempty : voltage store < 5000
  · simp [Supply.enterRide, Supply.rideLevel, hempty]
  · simp [Supply.enterRide, Supply.rideLevel, hempty, timeLevel, hstored]

theorem sampled_returns (hstate : u.state ≠ .normal) (hv : v = sampled u track store charge shed) (back : Nat)
    (hback : back = if u.cfg.lost + 1000 ≤ v.vtrk then u.back + 1 else 0) (hhigh : 10 ≤ back) :
    v.state = .normal ∧ v.ride = 0 ∧ v.lost = 0 ∧ v.weak = 0 ∧ v.strong = 0 ∧ v.back = back
    ∧ v.level = if v.vtrk < u.cfg.weak then 1 else 0 := by
  have hvtrk : v.vtrk = voltage track := by rw [hv]; exact (sampled_kept ..).1
  rw [hvtrk] at hback ⊢
  have hwork : v = { ({ u with vtrk := voltage track, vsto := voltage store, back := back } : Supply).enterNormal with
      charge := charge, shed := shed } := by
    rw [hv, sampled, Supply.work]
    cases hcase : u.state with
    | normal => exact absurd hcase hstate
    | ride =>
      simp only [Supply.backAfter, ← hback]
      rw [if_pos hhigh]
    | down =>
      simp only [Supply.backAfter, ← hback]
      rw [if_pos hhigh]
  rw [hwork]
  simp [Supply.enterNormal]

theorem sampled_stays (hstate : u.state ≠ .normal) (hv : v = sampled u track store charge shed) (back stored : Nat)
    (hback : back = if u.cfg.lost + 1000 ≤ v.vtrk then u.back + 1 else 0) (hlow : back < 10)
    (hstored : stored = storeLevel u.cfg v.vsto) :
    v.back = back ∧ v.lost = u.lost ∧ v.weak = u.weak ∧ v.strong = u.strong
    ∧ v.ride = (if u.cfg.rideLimit < u.ride then u.ride else u.ride + 1)
    ∧ (u.state = .ride → if v.vsto < 5000 then v.state = .down ∧ v.level = 5
      else v.state = .ride
        ∧ v.level = max u.level (max stored (if u.cfg.rideLimit < v.ride then 4 else 0)) ∧ u.level ≤ v.level)
    ∧ (u.state = .down → v.state = .down ∧ v.level = 5) := by
  have hvtrk : v.vtrk = voltage track := by rw [hv]; exact (sampled_kept ..).1
  have hvsto : v.vsto = voltage store := by rw [hv]; exact (sampled_kept ..).2.1
  rw [hvtrk] at hback
  rw [hvsto] at hstored ⊢
  cases hcase : u.state with
  | normal => exact absurd hcase hstate
  | ride =>
    have hwork : v = { ({ u with vtrk := voltage track, vsto := voltage store, back := back } : Supply).countRide.rideLevel
        with charge := charge, shed := shed } := by
      rw [hv, sampled, Supply.work, hcase]
      simp only [Supply.backAfter, ← hback]
      rw [if_neg (by omega)]
    rw [hwork]
    by_cases hlong : u.cfg.rideLimit < u.ride <;> by_cases hempty : voltage store < 5000 <;>
      simp [Supply.countRide, Supply.rideLevel, hempty, hlong, timeLevel, hstored, hcase]
  | down =>
    have hwork : v = { ({ u with vtrk := voltage track, vsto := voltage store, back := back } : Supply).countRide
        with level := 5, charge := charge, shed := shed } := by
      rw [hv, sampled, Supply.work, hcase]
      simp only [Supply.backAfter, ← hback]
      rw [if_neg (by omega)]
    rw [hwork]
    by_cases hlong : u.cfg.rideLimit < u.ride <;> simp [Supply.countRide, hlong, hcase]

end

/-- The thermal level (R190). -/
theorem thermalNext_eq (current : Nat) (t : Int) : thermalNext current t =
    if 150 ≤ t ∨ (5 ≤ current ∧ 140 ≤ t) then 5
    else if 140 ≤ t ∨ (2 ≤ current ∧ 130 ≤ t) then 2
    else if 125 ≤ t ∨ (1 ≤ current ∧ 115 ≤ t) then 1 else 0 := by
  unfold thermalNext thermalHolds thermalEntry
  norm_num

/-! ## What a change of the shed level reaches (R191) -/

theorem supplyFrame_trans {s t u : State} (h : supplyFrame s t) (h' : supplyFrame t u) : supplyFrame s u := by
  refine h'.trans ?_
  conv_lhs => rw [h]

theorem port_of_notices {s t : State} (h : noticesOnly s t) : t.port = { s.port with notice := t.port.notice }
    ∧ t.status = { s.status with faultCount := t.status.faultCount } :=
  ⟨noticesOnly_port h, h.2⟩

theorem supplyFrame_derive (s : State) : supplyFrame s s.derive := by
  have hframe := derive_eq s
  obtain ⟨hport, hstatus⟩ := port_of_notices (noticesOnly_derive s)
  obtain ⟨-, hclock, -, hgranted, horders, htimers, -, -, hbalance, hlamps, hsupply⟩ := s.derive_frame
  generalize s.derive = t at *
  have hc : t.traction.c = s.traction.c := by rw [hframe]
  have hi : t.traction.i = s.traction.i := by rw [hframe]
  have hu : t.traction.u = s.traction.u := by rw [hframe]
  have hprev : t.traction.prev = s.traction.prev := by rw [hframe]
  have hlease : t.radio.lease = s.radio.lease := by rw [hframe]
  have hfailsafe : t.radio.failsafe = s.radio.failsafe := by rw [hframe]
  have hrequest : t.radio.request = s.radio.request := by rw [hframe]
  refine hframe.trans ?_
  conv_lhs => rw [hport, hstatus]
  rw [hc, hi, hu, hprev, hlease, hfailsafe, hrequest, hclock, hgranted, horders, htimers, hbalance, hlamps, hsupply]

theorem supplyFrame_closeRun (s : State) (r : BalanceRun) (outcome : OutcomeCode) (g : Nat) :
    supplyFrame s (s.closeRun r outcome g) := by
  rw [State.closeRun_eq]
  generalize (s.completeSlot r.slot outcome r.written (runResult r g)).xm = m
  refine supplyFrame_trans ?_ (supplyFrame_derive _)
  rfl

theorem supplyFrame_endRun (s : State) (outcome : OutcomeCode) : supplyFrame s (s.endRun outcome) := by
  unfold State.endRun
  split
  · exact supplyFrame_closeRun ..
  · rfl

theorem supplyFrame_tractionShedChange (s : State) (before : Nat) : supplyFrame s (s.tractionShedChange before) := by
  unfold State.tractionShedChange
  split
  · split
    · refine supplyFrame_trans ?_ (supplyFrame_derive _)
      rfl
    · exact supplyFrame_derive s
  · split
    · refine supplyFrame_trans ?_ (supplyFrame_derive _)
      rfl
    · exact supplyFrame_derive s

theorem supplyFrame_balanceShedChange (s : State) (before : Nat) : supplyFrame s (s.balanceShedChange before) := by
  unfold State.balanceShedChange
  split
  · exact supplyFrame_endRun ..
  · rfl

theorem supplyFrame_lampShedChange (s : State) (before : Nat) : supplyFrame s (s.lampShedChange before) := by
  have hlamps : supplyFrame s (shedLamps s before) := by
    have hframe := (shedLamps_eq s before).1
    generalize shedLamps s before = t at hframe
    rw [hframe]
    rfl
  have hheater : supplyFrame (shedLamps s before) (shedLamps s before).heaterArrival := by
    have hframe := (shedLamps s before).heaterArrival_told.2.1
    generalize (shedLamps s before).heaterArrival = t at hframe
    rw [hframe]
    rfl
  rw [State.lampShedChange_eq]
  split
  · exact supplyFrame_trans hlamps hheater
  · exact supplyFrame_trans (supplyFrame_trans hlamps hheater) rfl

/-- The shed level `level` in force in place of another (R191), its readers told of the change and SUPPLY raised. -/
def shedTo (s : State) (level : Nat) : State :=
  State.raise ((State.balanceShedChange (State.tractionShedChange
    { s with supply := { s.supply with shed := level } } s.supply.shed) s.supply.shed).lampShedChange s.supply.shed) .supply

theorem formShed_kept {s : State} (h : max s.supply.level s.supply.thermal = s.supply.shed) : s.formShed = s := by
  simp only [State.formShed]
  rw [if_pos h]

theorem formShed_changes {s : State} (h : max s.supply.level s.supply.thermal ≠ s.supply.shed) :
    s.formShed = shedTo s (max s.supply.level s.supply.thermal) := by
  simp only [State.formShed]
  rw [if_neg h]
  rfl

theorem supplyFrame_formShed (s : State) : supplyFrame s s.formShed := by
  by_cases h : max s.supply.level s.supply.thermal = s.supply.shed
  · rw [formShed_kept h]
    rfl
  · rw [formShed_changes h]
    unfold shedTo
    refine supplyFrame_trans ?_ (rfl : supplyFrame _ (State.raise _ .supply))
    refine supplyFrame_trans ?_ (supplyFrame_lampShedChange _ _)
    refine supplyFrame_trans ?_ (supplyFrame_balanceShedChange _ _)
    refine supplyFrame_trans ?_ (supplyFrame_tractionShedChange _ _)
    rfl

theorem formShed_supply (s : State) : s.formShed.supply
    = { s.supply with shed := max s.supply.level s.supply.thermal } := by
  by_cases h : max s.supply.level s.supply.thermal = s.supply.shed
  · rw [formShed_kept h, h]
  · rw [formShed_changes h]
    simp [shedTo, State.raise, State.onPort]

theorem noticesOnly_tractionShedChange (s : State) (before : Nat) : noticesOnly s (s.tractionShedChange before) := by
  unfold State.tractionShedChange
  split
  · split
    · exact noticesOnly_trans (noticesOnly_of_eq rfl rfl) (noticesOnly_derive _)
    · exact noticesOnly_derive s
  · split
    · exact noticesOnly_trans (noticesOnly_of_eq rfl rfl) (noticesOnly_derive _)
    · exact noticesOnly_derive s

theorem noticesOnly_balanceShedChange (s : State) (before : Nat) : noticesOnly s (s.balanceShedChange before) := by
  unfold State.balanceShedChange
  split
  · exact noticesOnly_endRun ..
  · exact noticesOnly_refl s

theorem noticesOnly_lampShedChange (s : State) (before : Nat) : noticesOnly s (s.lampShedChange before) :=
  noticesOnly_of_eq (by simp) (by simp)

theorem noticesOnly_formShed (s : State) : noticesOnly s s.formShed := by
  by_cases h : max s.supply.level s.supply.thermal = s.supply.shed
  · rw [formShed_kept h]
    exact noticesOnly_refl s
  · rw [formShed_changes h]
    unfold shedTo
    refine noticesOnly_trans ?_ (noticesOnly_raise _ .supply)
    refine noticesOnly_trans ?_ (noticesOnly_lampShedChange _ _)
    refine noticesOnly_trans ?_ (noticesOnly_balanceShedChange _ _)
    exact noticesOnly_trans (noticesOnly_of_eq rfl rfl) (noticesOnly_tractionShedChange _ _)

/-- A change of the shed level raises SUPPLY (R191). -/
theorem formShed_raises {s : State} (h : max s.supply.level s.supply.thermal ≠ s.supply.shed) :
    s.formShed.port.notice.getLsbD 4 = true := by
  have hraise : ∀ v : State, (v.raise .supply).port.notice.getLsbD 4 = true := fun v => by
    have hbit := raised_of_mem (p := v.port) (bits := [.supply]) (List.mem_singleton.2 rfl)
    rw [State.raise_port]
    exact hbit
  rw [formShed_changes h]
  exact hraise _

/-! ## A rise to level 4 or 5 (R80, R110) -/

/-- The shed level is to rise to 4 or 5. -/
def risesHigh (s : State) : Prop :=
  4 ≤ max s.supply.level s.supply.thermal ∧ s.supply.shed < max s.supply.level s.supply.thermal

theorem risesHigh_ne {s : State} (h : risesHigh s) : max s.supply.level s.supply.thermal ≠ s.supply.shed :=
  Nat.ne_of_gt h.2

/-- The traction state at a rise, before a balance run ends. -/
def stilled (s : State) : State :=
  State.derive { s with
    supply := { s.supply with shed := max s.supply.level s.supply.thermal }
    traction := { s.traction with u := 0, prev := 0 } }

theorem formShed_rises {s : State} (h : risesHigh s) : s.formShed
    = (((stilled s).endRun .aborted).lampShedChange s.supply.shed).raise .supply := by
  have hsupply : (stilled s).supply.shed = max s.supply.level s.supply.thermal := by simp [stilled]
  rw [formShed_changes (risesHigh_ne h), shedTo]
  have hstill : State.tractionShedChange { s with supply := { s.supply with
      shed := max s.supply.level s.supply.thermal } } s.supply.shed = stilled s := by
    unfold State.tractionShedChange
    rw [if_pos h.1, if_pos h.2]
    rfl
  rw [hstill, State.balanceShedChange, hsupply, if_pos ⟨h.1, h.2⟩]

theorem formShed_calm_balance {s : State} (h : ¬risesHigh s) : s.formShed.balance = s.balance := by
  by_cases hsame : max s.supply.level s.supply.thermal = s.supply.shed
  · rw [formShed_kept hsame]
  · have hquiet : ∀ v : State, v.supply.shed = max s.supply.level s.supply.thermal →
        v.balanceShedChange s.supply.shed = v := by
      intro v hv
      rw [State.balanceShedChange, hv, if_neg fun c => h ⟨c.1, c.2⟩]
    rw [formShed_changes hsame, shedTo, hquiet _ (by simp)]
    simp [State.raise, State.onPort]

theorem endRun_over (s : State) (outcome : OutcomeCode) : (s.endRun outcome).balance.run = none := by
  unfold State.endRun
  cases hrun : s.balance.run with
  | none => exact hrun
  | some r =>
    simp only
    rw [BalanceSteps.closeRun_frame]

theorem formShed_rises_over {s : State} (h : risesHigh s) : s.formShed.balance.run = none := by
  rw [formShed_rises h]
  simp [State.raise, State.onPort, endRun_over]

theorem formShed_over {s : State} (h : s.balance.run = none) : s.formShed.balance.run = none := by
  by_cases hrise : risesHigh s
  · exact formShed_rises_over hrise
  · rw [formShed_calm_balance hrise, h]

/-- Without a balance run and with a bridge in service, a derivation at shed level 4 or more is HELD under COAST. -/
theorem derive_heldBySupply {x : State} (hgo : x.isRun = true) (hover : x.balance.run = none)
    (hserves : x.bridges.allLatched = false) (hshed : 4 ≤ x.supply.shed) :
    x.derive.traction.state = .held ∧ x.derive.bridges.held = .coast := by
  have hstate : derivedState x = .held := by
    simp [derivedState, hgo, hover, hserves, hshed]
  rw [Shorts.derive_state, StepEnds.derive_held, hstate]
  exact ⟨rfl, rfl⟩

theorem stilled_serves {s : State} (h : s.bridges.allLatched = false) : (stilled s).bridges.allLatched = false := by
  have hsame := Shorts.handedOn_allLatched (Shorts.derive_handedOn { s with
    supply := { s.supply with shed := max s.supply.level s.supply.thermal }
    traction := { s.traction with u := 0, prev := 0 } })
  rw [Bool.eq_false_iff] at h ⊢
  exact fun c => h (hsame.1 c)

/-- A rise to 4 or 5 stills the controller: u and the previous duty are 0, and with a bridge in service the state is HELD
under COAST (R80). -/
theorem formShed_stills {s : State} (h : risesHigh s) : s.formShed.traction.u = 0 ∧ s.formShed.traction.prev = 0
    ∧ (s.isRun = true → s.bridges.allLatched = false →
      s.formShed.traction.state = .held ∧ s.formShed.bridges.held = .coast) := by
  have htraction : s.formShed.traction = ((stilled s).endRun .aborted).traction := by
    rw [formShed_rises h]
    simp [State.raise, State.onPort]
  have hbridges : s.formShed.bridges = ((stilled s).endRun .aborted).bridges := by
    rw [formShed_rises h]
    simp [State.raise, State.onPort]
  have hsupply : (stilled s).supply.shed = max s.supply.level s.supply.thermal := by simp [stilled]
  have hbalance : (stilled s).balance = s.balance := by simp [stilled]
  have hgo : (stilled s).isRun = s.isRun := by simp [stilled, State.isRun]
  have hu : (stilled s).traction.u = 0 ∧ (stilled s).traction.prev = 0 := by
    rw [stilled, derive_eq]
    exact ⟨rfl, rfl⟩
  rw [htraction, hbridges]
  cases hrun : s.balance.run with
  | none =>
    have hnone : (stilled s).endRun .aborted = stilled s := by rw [State.endRun, hbalance, hrun]
    rw [hnone]
    exact ⟨hu.1, hu.2, fun hon hserves => derive_heldBySupply hon hrun hserves h.1⟩
  | some r =>
    have hsome : (stilled s).endRun .aborted = (stilled s).closeRun r .aborted 0 := by
      rw [State.endRun, hbalance, hrun]
    have hframe := BalanceSteps.closeRun_frame (stilled s) r .aborted 0
    rw [hsome]
    refine ⟨by rw [hframe], by rw [hframe]; exact hu.2, fun hon hserves => ?_⟩
    rw [State.closeRun_eq]
    generalize ((stilled s).completeSlot r.slot .aborted r.written (runResult r 0)).xm = m
    exact derive_heldBySupply (hgo.trans hon) rfl (stilled_serves hserves) (hsupply ▸ h.1)

/-- The balance run that a rise to 4 or 5 ends (R110). -/
theorem formShed_runEnds {s : State} (h : risesHigh s) {r : BalanceRun} (hrun : s.balance.run = some r)
    (hslot : r.slot < 32) (hwf : s.xm.wf = true) (hvoices : voicesLawful s) : runEnded s.formShed r .aborted := by
  have hkept := State.derive_kept { s with
    supply := { s.supply with shed := max s.supply.level s.supply.thermal }
    traction := { s.traction with u := 0, prev := 0 } } hwf hvoices
  have hwf' : (stilled s).xm.wf = true := State.derive_wf _ hwf
  have hbalance : (stilled s).balance = s.balance := by simp [stilled]
  have hends := closeRun_ended (s := stilled s) (r := r) .aborted hwf' hkept.1 hslot
  have hsome : (stilled s).endRun .aborted = (stilled s).closeRun r .aborted 0 := by
    rw [State.endRun, hbalance, hrun]
  rw [formShed_rises h, hsome]
  refine runEnded_of_same (p := fun _ => False) hends hslot ?_ ?_ (fun _ _ c => c) ?_ ?_
    (noticesOnly_trans (noticesOnly_lampShedChange _ _) (noticesOnly_raise _ .supply))
  all_goals simp [State.raise, State.onPort, sameBut]

/-- A balance run that has ended stays so through a change of the shed level. -/
theorem formShed_runEnded {s : State} {r : BalanceRun} {outcome : OutcomeCode} (h : runEnded s r outcome)
    (hslot : r.slot < 32) (hwf : s.xm.wf = true) (hvoices : voicesLawful s) : runEnded s.formShed r outcome := by
  have hover : s.balance.run = none := h.1
  by_cases hsame : max s.supply.level s.supply.thermal = s.supply.shed
  · rw [formShed_kept hsame]
    exact h
  · have hmemory := (s.formShed_told _ hwf hvoices (by intro _ c; rw [hover] at c; (nomatch c)) hsame rfl).2
    have hquiet : ∀ v : State, v.balance.run = none → v.balanceShedChange s.supply.shed = v := by
      intro v hv
      rw [State.balanceShedChange, State.endRun, hv]
      split <;> rfl
    have hradio : ∀ v : State, (v.tractionShedChange s.supply.shed).radio.lease = v.radio.lease
        ∧ (v.tractionShedChange s.supply.shed).radio.request = v.radio.request := by
      intro v
      unfold State.tractionShedChange
      repeat' split
      all_goals
        rw [derive_eq]
        exact ⟨rfl, rfl⟩
    have hform : s.formShed = State.raise ((State.tractionShedChange { s with supply := { s.supply with
        shed := max s.supply.level s.supply.thermal } } s.supply.shed).lampShedChange s.supply.shed) .supply := by
      rw [formShed_changes hsame, shedTo, hquiet _ (by simp [hover])]
    refine runEnded_of_same h hslot ?_ hmemory ?_ ?_ ?_ (noticesOnly_formShed s)
    · rw [hform]
      simp [State.raise, State.onPort]
    · rintro a ha (⟨r', hr', -⟩ | hseg)
      · rw [hover] at hr'
        (nomatch hr')
      · exact inSlot_segments hslot ha hseg
    · rw [hform]
      simp [State.raise, State.onPort, hradio]
    · rw [hform]
      simp [State.raise, State.onPort, hradio]

/-! ## Supply samples (R184 to R189) -/

/-- The state once a sample has worked the supply state and level. -/
def worked (s : State) (track store : Nat) : State :=
  { s with
    clock := max s.clock s.timers.supply
    timers := { s.timers with supply := max s.clock s.timers.supply + 1024000 }
    supply := ({ s.supply with vtrk := voltage track, vsto := voltage store } : Supply).work }

/-- A change of the supply state from `before` raises SUPPLY (R189). -/
def stateRaised (x : State) (before : SupplyState) : State :=
  { x with port := withNotice x.port (if x.supply.state = before then [] else [.supply]) }

/-- The charge enable is formed (R187). -/
def charged (y : State) : State := { y with supply := { y.supply with charge := y.supply.chargeOn } }

theorem supplySample_eq (s : State) (track store : Nat) : supplySample track store s
    = (charged ((worked s track store).supplyReport s.supply.state)).formShed := rfl

theorem report_enters {x : State} {before : SupplyState} (hbefore : before = .normal) (h : x.supply.state ≠ .normal) :
    x.supplyReport before = (stateRaised x before).endRun .aborted := by
  subst hbefore
  rw [State.supplyReport, if_neg h, stateRaised, if_neg h]
  rfl

theorem report_calm {x : State} {before : SupplyState} (h : ¬(before = .normal ∧ x.supply.state ≠ .normal)) :
    x.supplyReport before = stateRaised x before := by
  by_cases hsame : x.supply.state = before
  · rw [State.supplyReport, if_pos hsame, stateRaised, if_pos hsame, withNotice_nil]
  · have hnormal : before ≠ .normal := fun c => h ⟨c, c ▸ hsame⟩
    rw [State.supplyReport, if_neg hsame, stateRaised, if_neg hsame]
    simp only
    rw [if_neg hnormal]
    rfl

/-- A report of the supply state leaves the rest of the monitor's work to its readers. -/
theorem report_reaches (x : State) (before : SupplyState) : supplyFrame x (x.supplyReport before)
    ∧ noticesOnly x (x.supplyReport before) ∧ (x.supplyReport before).supply = x.supply
    ∧ (x.supplyReport before).clock = x.clock ∧ (x.supplyReport before).timers = x.timers := by
  have hraised : supplyFrame x (stateRaised x before) := rfl
  have hnotices : noticesOnly x (stateRaised x before) := ⟨⟨_, rfl⟩, rfl⟩
  by_cases h : before = .normal ∧ x.supply.state ≠ .normal
  · rw [report_enters h.1 h.2]
    exact ⟨supplyFrame_trans hraised (supplyFrame_endRun _ _), noticesOnly_trans hnotices (noticesOnly_endRun _ _),
      by simp [stateRaised], by simp [stateRaised], by simp [stateRaised]⟩
  · rw [report_calm h]
    exact ⟨hraised, hnotices, rfl, rfl, rfl⟩

theorem report_lawful {x : State} {before : SupplyState} (hwf : x.xm.wf = true) (hvoices : voicesLawful x)
    (hrun : runSlot x) : (x.supplyReport before).xm.wf = true ∧ voicesLawful (x.supplyReport before)
      ∧ runSlot (x.supplyReport before) ∧ sameBut x.xm (x.supplyReport before).xm (inRunEnd x) := by
  by_cases h : before = .normal ∧ x.supply.state ≠ .normal
  · have hends := State.endRun_closed (stateRaised x before) .aborted hwf hvoices hrun
    rw [report_enters h.1 h.2]
    have hsame : sameBut x.xm ((stateRaised x before).endRun .aborted).xm (inRunEnd (stateRaised x before)) :=
      runClosed_same (s := stateRaised x before) hends.1
    exact ⟨State.endRun_wf _ _ hwf, hends.2, fun r c => by rw [endRun_over] at c; (nomatch c), hsame⟩
  · rw [report_calm h]
    exact ⟨hwf, hvoices, hrun, sameBut_refl _ _⟩

theorem sample_reaches (s : State) (track store : Nat) : supplyFrame s (supplySample track store s)
    ∧ noticesOnly s (supplySample track store s)
    ∧ (supplySample track store s).supply = sampled s.supply track store
        (({ s.supply with vtrk := voltage track, vsto := voltage store } : Supply).work).chargeOn
        (max (supplySample track store s).supply.level s.supply.thermal)
    ∧ (supplySample track store s).clock = max s.clock s.timers.supply
    ∧ (supplySample track store s).timers = { s.timers with supply := max s.clock s.timers.supply + 1024000 } := by
  obtain ⟨hframe, hnotices, hsupply, hclock, htimers⟩ := report_reaches (worked s track store) s.supply.state
  rw [supplySample_eq]
  generalize hy : (worked s track store).supplyReport s.supply.state = y at *
  obtain ⟨-, -, hthermal, -, -, -, -⟩ := work_kept { s.supply with vtrk := voltage track, vsto := voltage store }
  have hsupply' : (charged y).supply = { (worked s track store).supply with
      charge := (worked s track store).supply.chargeOn } := by rw [charged, hsupply]
  refine ⟨?_, ?_, ?_, ?_, ?_⟩
  · refine supplyFrame_trans ?_ (supplyFrame_formShed _)
    refine supplyFrame_trans (supplyFrame_trans ?_ hframe) ?_ <;> rfl
  · refine noticesOnly_trans ?_ (noticesOnly_formShed _)
    exact noticesOnly_trans hnotices (noticesOnly_of_eq rfl rfl)
  · rw [formShed_supply, hsupply']
    simp only [worked, sampled, hthermal]
  · rw [(charged y).formShed_frame.2.1]
    exact hclock
  · rw [(charged y).formShed_frame.2.2.2.1]
    exact htimers

/-- SUPPLY is raised at a change of the supply state or of the shed level (R189, R191). -/
theorem sample_raises {s : State} {track store : Nat} (h : (supplySample track store s).supply.state ≠ s.supply.state
    ∨ (supplySample track store s).supply.shed ≠ s.supply.shed) :
    (supplySample track store s).port.notice.getLsbD 4 = true := by
  obtain ⟨-, -, hsupply, -, -⟩ := report_reaches (worked s track store) s.supply.state
  obtain ⟨-, -, -, -, -, hshed, -⟩ := work_kept { s.supply with vtrk := voltage track, vsto := voltage store }
  rw [supplySample_eq, formShed_supply] at h
  rw [supplySample_eq]
  by_cases hmoves : (worked s track store).supply.state = s.supply.state
  · refine formShed_raises ?_
    rcases h with hstate | hlevel
    · refine absurd ?_ hstate
      simp only [charged, hsupply]
      exact hmoves
    · refine fun c => hlevel (c.trans ?_)
      simp only [charged, hsupply]
      exact hshed
  · refine noticesOnly_keeps (noticesOnly_formShed _) ?_
    have hraised : (stateRaised (worked s track store) s.supply.state).port.notice.getLsbD 4 = true := by
      rw [stateRaised, if_neg hmoves]
      exact raised_of_mem (p := (worked s track store).port) (b := .supply) (List.mem_singleton.2 rfl)
    show ((worked s track store).supplyReport s.supply.state).port.notice.getLsbD 4 = true
    by_cases h : s.supply.state = .normal ∧ (worked s track store).supply.state ≠ .normal
    · rw [report_enters h.1 h.2]
      exact noticesOnly_keeps (noticesOnly_endRun _ _) hraised
    · rw [report_calm h]
      exact hraised

theorem worked_supply (s : State) (track store : Nat) : (worked s track store).supply.shed = s.supply.shed
    ∧ (worked s track store).supply.charge = s.supply.charge := by
  obtain ⟨-, -, -, -, -, hshed, hcharge⟩ := work_kept { s.supply with vtrk := voltage track, vsto := voltage store }
  exact ⟨hshed, hcharge⟩

/-- The state of a sample just before the shed level is formed. -/
def beforeShed (s : State) (track store : Nat) : State := charged ((worked s track store).supplyReport s.supply.state)

theorem beforeShed_supply (s : State) (track store : Nat) : (beforeShed s track store).supply
    = { (worked s track store).supply with charge := (worked s track store).supply.chargeOn } := by
  obtain ⟨-, -, hsupply, -, -⟩ := report_reaches (worked s track store) s.supply.state
  rw [beforeShed, charged, hsupply]

theorem sample_supply (s : State) (track store : Nat) : (supplySample track store s).supply
    = { (beforeShed s track store).supply with
      shed := max (beforeShed s track store).supply.level (beforeShed s track store).supply.thermal } :=
  formShed_supply _

theorem sample_state (s : State) (track store : Nat) :
    (supplySample track store s).supply.state = (worked s track store).supply.state := by
  rw [sample_supply, beforeShed_supply]

theorem beforeShed_shed (s : State) (track store : Nat) : (beforeShed s track store).supply.shed = s.supply.shed := by
  rw [beforeShed_supply]
  exact (worked_supply s track store).1

theorem sample_risesHigh (s : State) (track store : Nat) : risesHigh (beforeShed s track store)
    ↔ 4 ≤ (supplySample track store s).supply.shed ∧ s.supply.shed < (supplySample track store s).supply.shed := by
  rw [sample_supply, risesHigh, beforeShed_shed]

theorem beforeShed_enters {s : State} {track store : Nat} (hbefore : s.supply.state = .normal)
    (h : (supplySample track store s).supply.state ≠ .normal) : beforeShed s track store
    = charged ((stateRaised (worked s track store) s.supply.state).endRun .aborted) := by
  rw [sample_state] at h
  rw [beforeShed, report_enters hbefore h]

theorem beforeShed_calm {s : State} {track store : Nat}
    (h : ¬(s.supply.state = .normal ∧ (supplySample track store s).supply.state ≠ .normal)) :
    beforeShed s track store = charged (stateRaised (worked s track store) s.supply.state) := by
  rw [sample_state] at h
  rw [beforeShed, report_calm h]

/-- Nothing but the monitor, its timer and SUPPLY changes where no run ends and no shed level changes. -/
theorem sample_calm {s : State} {track store : Nat} (hrun : (s.supply.state = .normal
      ∧ (supplySample track store s).supply.state ≠ .normal) → s.balance.run = none)
    (hshed : (supplySample track store s).supply.shed = s.supply.shed) : supplySample track store s = { s with
      clock := (supplySample track store s).clock, timers := (supplySample track store s).timers
      supply := (supplySample track store s).supply
      port := withNotice s.port (if (supplySample track store s).supply.state = s.supply.state then [] else [.supply]) } := by
  have hkept : supplySample track store s = beforeShed s track store := by
    have h := sample_supply s track store
    rw [h] at hshed
    exact formShed_kept (s := beforeShed s track store) (hshed.trans (beforeShed_shed s track store).symm)
  have hz : beforeShed s track store = charged (stateRaised (worked s track store) s.supply.state) := by
    by_cases hin : s.supply.state = .normal ∧ (supplySample track store s).supply.state ≠ .normal
    · rw [beforeShed_enters hin.1 hin.2, State.endRun]
      have hnone : (stateRaised (worked s track store) s.supply.state).balance.run = none := hrun hin
      rw [hnone]
    · exact beforeShed_calm hin
  rw [sample_state, hkept, hz]
  rfl

/-- The readers of the sample, as `w` leaves the run that an entry to RIDE ends (R188, R191). -/
theorem sample_told {s w : State} {track store : Nat} (hwf : (beforeShed s track store).xm.wf = true)
    (hvoices : voicesLawful (beforeShed s track store)) (hslot : runSlot (beforeShed s track store))
    (hw : beforeShed s track store = { w with supply := (beforeShed s track store).supply }) :
    ((supplySample track store s).supply.shed = s.supply.shed →
      supplySample track store s = { w with supply := (supplySample track store s).supply })
    ∧ ((supplySample track store s).supply.shed ≠ s.supply.shed →
      shedTold { w with supply := (supplySample track store s).supply } (supplySample track store s) s.supply.shed)
    ∧ sameBut (beforeShed s track store).xm (supplySample track store s).xm (inRunEnd (beforeShed s track store)) := by
  have hsupply := sample_supply s track store
  have hshed := beforeShed_shed s track store
  have heq : supplySample track store s = (beforeShed s track store).formShed := rfl
  have hput : ({ w with supply := (supplySample track store s).supply } : State) = { beforeShed s track store with
      supply := { (beforeShed s track store).supply with
        shed := max (beforeShed s track store).supply.level (beforeShed s track store).supply.thermal } } := by
    rw [hsupply]
    conv_rhs => rw [hw]
  generalize beforeShed s track store = z at *
  rw [← hshed, hput, heq]
  rw [heq] at hsupply
  rw [hsupply]
  refine ⟨fun hsame => ?_, fun hne => (z.formShed_told _ hwf hvoices hslot hne rfl).1, ?_⟩
  · have hsame' : max z.supply.level z.supply.thermal = z.supply.shed := hsame
    rw [formShed_kept hsame', hsame']
  · by_cases hsame : max z.supply.level z.supply.thermal = z.supply.shed
    · rw [formShed_kept hsame]
      exact sameBut_refl _ _
    · exact (z.formShed_told _ hwf hvoices hslot hsame rfl).2

theorem sample_readers {s : State} {track store : Nat} (hwf : s.xm.wf = true) (hvoices : voicesLawful s)
    (hslot : runSlot s) {q : State} (hq : q = { s with
      clock := (supplySample track store s).clock, timers := (supplySample track store s).timers
      supply := (supplySample track store s).supply
      port := withNotice s.port
        (if (supplySample track store s).supply.state = s.supply.state then [] else [.supply]) }) :
    sameBut s.xm (supplySample track store s).xm (inRunEnd s)
    ∧ ∃ w : State, (s.supply.state = .normal ∧ (supplySample track store s).supply.state ≠ .normal →
        runClosed { q with supply := { (supplySample track store s).supply with
          charge := s.supply.charge, shed := s.supply.shed } } w .aborted)
      ∧ (¬(s.supply.state = .normal ∧ (supplySample track store s).supply.state ≠ .normal) → w = q)
      ∧ ((supplySample track store s).supply.shed = s.supply.shed →
        supplySample track store s = { w with supply := (supplySample track store s).supply })
      ∧ ((supplySample track store s).supply.shed ≠ s.supply.shed →
        shedTold { w with supply := (supplySample track store s).supply } (supplySample track store s)
          s.supply.shed) := by
  obtain ⟨-, -, -, hclock, htimers⟩ := sample_reaches s track store
  have hlawful := report_lawful (x := worked s track store) (before := s.supply.state) hwf hvoices hslot
  obtain ⟨hwf', hvoices', hslot', hsame⟩ := hlawful
  have hraised : stateRaised (worked s track store) s.supply.state
      = { q with supply := (worked s track store).supply } := by
    rw [hq, sample_state, hclock, htimers]
    rfl
  have hback : (worked s track store).supply = { (supplySample track store s).supply with
      charge := s.supply.charge, shed := s.supply.shed } := by
    obtain ⟨hshed, hcharge⟩ := worked_supply s track store
    rw [sample_supply, beforeShed_supply, ← hshed, ← hcharge]
  have hwhole : ∀ w : State, beforeShed s track store = { w with supply := (beforeShed s track store).supply } →
      sameBut s.xm (supplySample track store s).xm (inRunEnd s)
      ∧ ((supplySample track store s).supply.shed = s.supply.shed →
        supplySample track store s = { w with supply := (supplySample track store s).supply })
      ∧ ((supplySample track store s).supply.shed ≠ s.supply.shed →
        shedTold { w with supply := (supplySample track store s).supply } (supplySample track store s)
          s.supply.shed) := by
    intro w hw
    obtain ⟨hkept, htold, hlast⟩ := sample_told (s := s) (w := w) (track := track) (store := store) hwf' hvoices'
      hslot' hw
    refine ⟨sameBut_trans hsame (sameBut_weaken hlast fun a ha => ?_), hkept, htold⟩
    rcases ha with ⟨r, hr, ha⟩ | ha
    · refine .inl ⟨r, ?_, ha⟩
      by_cases hin : s.supply.state = .normal ∧ (supplySample track store s).supply.state ≠ .normal
      · have hr' : ((stateRaised (worked s track store) s.supply.state).endRun .aborted).balance.run = some r := by
          rw [beforeShed_enters hin.1 hin.2] at hr
          exact hr
        rw [endRun_over] at hr'
        (nomatch hr')
      · rw [beforeShed_calm hin] at hr
        exact hr
    · exact .inr ha
  by_cases hin : s.supply.state = .normal ∧ (supplySample track store s).supply.state ≠ .normal
  · obtain ⟨hmemory, hkept, htold⟩ := hwhole ((stateRaised (worked s track store) s.supply.state).endRun .aborted) (by
      rw [beforeShed_enters hin.1 hin.2]
      rfl)
    refine ⟨hmemory, _, fun _ => ?_, fun c => absurd hin c, hkept, htold⟩
    rw [← hback, ← hraised]
    exact (State.endRun_closed (stateRaised (worked s track store) s.supply.state) .aborted hwf hvoices hslot).1
  · obtain ⟨hmemory, hkept, htold⟩ := hwhole q (by
      rw [beforeShed_calm hin, charged, hraised])
    exact ⟨hmemory, q, fun c => absurd c hin, fun _ => rfl, hkept, htold⟩

/-- The balance run of a sample (R110): an entry to RIDE and a rise to 4 or 5 end it, nothing else touches it. -/
theorem sample_entry_over {s : State} {track store : Nat} (hbefore : s.supply.state = .normal)
    (h : (supplySample track store s).supply.state ≠ .normal) : (supplySample track store s).balance.run = none := by
  have heq : supplySample track store s = (beforeShed s track store).formShed := rfl
  rw [heq]
  refine formShed_over ?_
  rw [beforeShed_enters hbefore h]
  exact endRun_over _ _

theorem sample_run {s : State} {track store : Nat} {r : BalanceRun} (hrun : s.balance.run = some r) (hr : r.slot < 32)
    (hwf : s.xm.wf = true) (hvoices : voicesLawful s) :
    (s.supply.state = .normal ∧ (supplySample track store s).supply.state ≠ .normal
        ∨ 4 ≤ (supplySample track store s).supply.shed ∧ s.supply.shed < (supplySample track store s).supply.shed →
      runEnded (supplySample track store s) r .aborted)
    ∧ (¬(s.supply.state = .normal ∧ (supplySample track store s).supply.state ≠ .normal) →
      ¬(4 ≤ (supplySample track store s).supply.shed
        ∧ s.supply.shed < (supplySample track store s).supply.shed) →
      (supplySample track store s).balance.run = some r) := by
  have hslot : runSlot s := fun r' h => by
    rw [hrun] at h
    cases h
    exact hr
  obtain ⟨hwf', hvoices', -, -⟩ := report_lawful (x := worked s track store) (before := s.supply.state) hwf hvoices hslot
  have heq : supplySample track store s = (beforeShed s track store).formShed := rfl
  have hrises := sample_risesHigh s track store
  have hentered := @beforeShed_enters s track store
  have hcalm := @beforeShed_calm s track store
  rw [← hrises]
  by_cases hin : s.supply.state = .normal ∧ (supplySample track store s).supply.state ≠ .normal
  · have hsome : (stateRaised (worked s track store) s.supply.state).endRun .aborted
        = (stateRaised (worked s track store) s.supply.state).closeRun r .aborted 0 := by
      have hr' : (stateRaised (worked s track store) s.supply.state).balance.run = some r := hrun
      rw [State.endRun, hr']
    have hends : runEnded (beforeShed s track store) r .aborted := by
      rw [hentered hin.1 hin.2, hsome]
      exact closeRun_ended (s := stateRaised (worked s track store) s.supply.state) .aborted hwf hvoices hr
    refine ⟨fun _ => ?_, fun c => absurd hin c⟩
    rw [heq]
    exact formShed_runEnded hends hr hwf' hvoices'
  · have hrun' : (beforeShed s track store).balance.run = some r := by
      rw [hcalm hin]
      exact hrun
    refine ⟨fun h => ?_, fun _ hlow => ?_⟩
    · have hrise : risesHigh (beforeShed s track store) := h.resolve_left hin
      rw [heq]
      exact formShed_runEnds hrise hrun' hr hwf' hvoices'
    · rw [heq, formShed_calm_balance hlow, hrun']

theorem closeRun_allLatched (s : State) (r : BalanceRun) (outcome : OutcomeCode) (g : Nat) :
    (s.closeRun r outcome g).bridges.allLatched = true ↔ s.bridges.allLatched = true := by
  rw [State.closeRun_eq]
  generalize (s.completeSlot r.slot outcome r.written (runResult r g)).xm = m
  exact Shorts.handedOn_allLatched (Shorts.derive_handedOn _)

theorem endRun_allLatched (s : State) (outcome : OutcomeCode) :
    (s.endRun outcome).bridges.allLatched = true ↔ s.bridges.allLatched = true := by
  unfold State.endRun
  split
  · exact closeRun_allLatched ..
  · exact Iff.rfl

theorem beforeShed_serves {s : State} {track store : Nat} : (beforeShed s track store).isRun = s.isRun
    ∧ ((beforeShed s track store).bridges.allLatched = true ↔ s.bridges.allLatched = true) := by
  by_cases hin : s.supply.state = .normal ∧ (supplySample track store s).supply.state ≠ .normal
  · rw [beforeShed_enters hin.1 hin.2]
    refine ⟨?_, endRun_allLatched _ _⟩
    have hgo := State.endRun_run (stateRaised (worked s track store) s.supply.state) .aborted
    unfold State.isRun
    exact congrArg (fun x => decide (x = RunState.run)) hgo
  · rw [beforeShed_calm hin]
    exact ⟨rfl, Iff.rfl⟩

/-- A rise of a sample to 4 or 5 (R80, R110). -/
theorem sample_rises {s : State} {track store : Nat} (hhigh : 4 ≤ (supplySample track store s).supply.shed)
    (hrise : s.supply.shed < (supplySample track store s).supply.shed) :
    (supplySample track store s).balance.run = none ∧ (supplySample track store s).traction.u = 0
    ∧ (supplySample track store s).traction.prev = 0
    ∧ (s.isRun = true → s.bridges.allLatched = false → (supplySample track store s).traction.state = .held
      ∧ (supplySample track store s).bridges.held = .coast) := by
  have heq : supplySample track store s = (beforeShed s track store).formShed := rfl
  have hrises := (sample_risesHigh s track store).2 ⟨hhigh, hrise⟩
  obtain ⟨hgo, hlatched⟩ := @beforeShed_serves s track store
  obtain ⟨hu, hprev, hheld⟩ := formShed_stills hrises
  rw [heq]
  refine ⟨formShed_rises_over hrises, hu, hprev, fun hon hserves => hheld (hgo.trans hon) ?_⟩
  rw [Bool.eq_false_iff] at hserves ⊢
  exact fun c => hserves (hlatched.1 c)

/-! ## Die readings (R190) -/

/-- The state once a die reading has worked the thermal level. -/
def dieRead (s : State) (celsius : Int) : State :=
  { s with
    clock := max s.clock s.timers.die
    timers := { s.timers with die := max s.clock s.timers.die + 100 * 1024000 }
    supply := { s.supply with die := celsius, thermal := thermalNext s.supply.thermal celsius } }

theorem dieTemperatureExpiry_eq (s : State) {celsius : Int} (h : (Instr.dieTemperatureExpiry celsius).wellFormed = true) :
    dieTemperatureExpiry celsius s = (dieRead s celsius).formShed := by
  have hrange : clampInt (-40) 200 celsius = celsius := by
    simp only [Instr.wellFormed, dieReading, decide_eq_true_eq] at h
    unfold clampInt
    omega
  simp only [dieTemperatureExpiry]
  rw [hrange]
  rfl

theorem dieRead_run {s : State} {celsius : Int} {r : BalanceRun} (hrun : s.balance.run = some r) (hr : r.slot < 32)
    (hwf : s.xm.wf = true) (hvoices : voicesLawful s) {t : State} (ht : t = (dieRead s celsius).formShed) :
    if 4 ≤ t.supply.shed ∧ s.supply.shed < t.supply.shed then runEnded t r .aborted else t.balance.run = some r := by
  have hsupply := formShed_supply (dieRead s celsius)
  have hrises : risesHigh (dieRead s celsius) ↔ 4 ≤ t.supply.shed ∧ s.supply.shed < t.supply.shed := by
    rw [ht, hsupply]
    exact Iff.rfl
  by_cases hrise : 4 ≤ t.supply.shed ∧ s.supply.shed < t.supply.shed
  · rw [if_pos hrise, ht]
    exact formShed_runEnds (hrises.2 hrise) hrun hr hwf hvoices
  · rw [if_neg hrise, ht, formShed_calm_balance fun c => hrise (hrises.1 c)]
    exact hrun

theorem dieReading_whole (s : State) {celsius : Int} (h : (Instr.dieTemperatureExpiry celsius).wellFormed = true) :
    ∃ t, exec (.dieTemperatureExpiry celsius) s = .next t
      ∧ t.supply.die = celsius
      ∧ t.supply.thermal =
          (if 150 ≤ celsius ∨ (5 ≤ s.supply.thermal ∧ 140 ≤ celsius) then 5
            else if 140 ≤ celsius ∨ (2 ≤ s.supply.thermal ∧ 130 ≤ celsius) then 2
            else if 125 ≤ celsius ∨ (1 ≤ s.supply.thermal ∧ 115 ≤ celsius) then 1 else 0)
      ∧ t.supply = { s.supply with
          die := celsius, thermal := t.supply.thermal
          shed := max s.supply.level t.supply.thermal }
      ∧ (t.supply.shed ≠ s.supply.shed → t.port.notice.getLsbD 4 = true)
      ∧ (t.supply.shed ≠ s.supply.shed → s.xm.wf = true → voicesLawful s → runSlot s →
        shedTold { s with clock := t.clock, timers := t.timers, supply := t.supply } t s.supply.shed
        ∧ sameBut s.xm t.xm (inRunEnd s))
      ∧ supplyFrame s t
      ∧ (∀ r : BalanceRun, s.balance.run = some r → r.slot < 32 → s.xm.wf = true → voicesLawful s →
        if 4 ≤ t.supply.shed ∧ s.supply.shed < t.supply.shed then runEnded t r .aborted
        else t.balance.run = some r)
      ∧ t.clock = max s.clock s.timers.die
      ∧ t.timers = { s.timers with die := t.clock + 100 * 1024000 }
      ∧ (t.supply.shed = s.supply.shed →
        t = { s with clock := t.clock, timers := t.timers, supply := t.supply }) := by
  refine ⟨_, rfl, ?_⟩
  rw [dieTemperatureExpiry_eq s h]
  have hsupply := formShed_supply (dieRead s celsius)
  have hraises := @formShed_raises (dieRead s celsius)
  have hframe : supplyFrame s (dieRead s celsius).formShed := by
    refine supplyFrame_trans ?_ (supplyFrame_formShed _)
    rfl
  have hrun := fun r (hrun : s.balance.run = some r) (hr : r.slot < 32) (hwf : s.xm.wf = true) (hv : voicesLawful s) =>
    dieRead_run (celsius := celsius) hrun hr hwf hv rfl
  have hclock : (dieRead s celsius).formShed.clock = max s.clock s.timers.die := (dieRead s celsius).formShed_frame.2.1
  have htimers : (dieRead s celsius).formShed.timers = (dieRead s celsius).timers :=
    (dieRead s celsius).formShed_frame.2.2.2.1
  have hkept := @formShed_kept (dieRead s celsius)
  have htold := fun (hwf : s.xm.wf = true) (hv : voicesLawful s) (hslot : runSlot s) hne =>
    (dieRead s celsius).formShed_told { s with
      clock := (dieRead s celsius).formShed.clock, timers := (dieRead s celsius).formShed.timers
      supply := (dieRead s celsius).formShed.supply } hwf hv hslot hne (by rw [hsupply, hclock, htimers]; rfl)
  generalize ht : (dieRead s celsius).formShed = t at *
  have hshed : t.supply.shed = max (dieRead s celsius).supply.level (dieRead s celsius).supply.thermal := by rw [hsupply]
  have hthermal : t.supply.thermal = thermalNext s.supply.thermal celsius := by rw [hsupply]; rfl
  refine ⟨by rw [hsupply]; rfl, hthermal.trans (thermalNext_eq _ _), ?_, fun hne => hraises (hshed ▸ hne),
    fun hne hwf hv hslot => htold hwf hv hslot (hshed ▸ hne), hframe, hrun, hclock, ?_, fun hsame => ?_⟩
  · rw [hthermal, hsupply]
    rfl
  · rw [htimers, hclock]
    rfl
  · have heq := hkept (hshed ▸ hsame)
    rw [heq]
    rfl

/-! ## The obligation -/

/-- Settles O52: the supply state and level by the cases of a sample, the thermal level by its two rows of temperatures,
and what a change of the shed level reaches by the law of its formation, an entry to RIDE having ended a run before. -/
theorem supplySamplesAndDieReadings : Obligations.SupplySamplesAndDieReadings := by
  refine ⟨?_, fun s celsius h => dieReading_whole s h⟩
  rintro s track store u rfl
  refine ⟨_, rfl, ?_⟩
  obtain ⟨hframe, -, hsupply, hclock, htimers⟩ := sample_reaches s track store
  have hraises := @sample_raises s track store
  have hcalm := @sample_calm s track store
  have hreaders := fun hwf hv hslot => sample_readers (s := s) (track := track) (store := store) hwf hv hslot rfl
  have hover := @sample_entry_over s track store
  have hrun := fun r => @sample_run s track store r
  have hrises := @sample_rises s track store
  have hworked := worked_supply s track store
  have hcharge : (supplySample track store s).supply.charge = (worked s track store).supply.chargeOn := by
    rw [sample_supply, beforeShed_supply]
  have hcharges : (worked s track store).supply.chargeOn = true
      ↔ (supplySample track store s).supply.state = .normal ∧ s.supply.shed < 5
        ∧ (supplySample track store s).supply.vsto + 1500 < (supplySample track store s).supply.vtrk := by
    rw [sample_supply, beforeShed_supply, Supply.chargeOn, hworked.1]
    simp only [Bool.and_eq_true, decide_eq_true_eq, and_assoc]
  rw [← hcharge] at hcharges
  generalize supplySample track store s = t at *
  obtain ⟨hvtrk, hvsto, hthermal, hdie, hcfg, -, -⟩ := sampled_kept s.supply track store
    (({ s.supply with vtrk := voltage track, vsto := voltage store } : Supply).work).chargeOn
    (max t.supply.level s.supply.thermal)
  have hshed : t.supply.shed = max t.supply.level s.supply.thermal := by
    conv_lhs => rw [hsupply]
    rfl
  rw [← hsupply] at hvtrk hvsto hthermal hdie hcfg
  refine ⟨hvtrk, hvsto, fun lost hlost back hback stored hstored => ⟨fun hn hlow => ?_, fun hn hhigh => ?_,
    fun hn hhigh => ?_, fun hn hlow => ?_⟩, hcharges, hthermal, hdie, hcfg, by rw [hshed, hthermal], ?_, hframe, hraises,
    hover, fun r hr hslot hwf hv => hrun r hr hslot hwf hv, fun hhigh hrise => hrises hhigh hrise, hclock,
    by rw [htimers, hclock], fun hstate hsame => ?_⟩
  · exact sampled_normal hn hsupply lost hlost hlow
  · exact sampled_lost hn hsupply lost stored hlost hhigh hstored
  · exact sampled_returns hn hsupply back hback hhigh
  · exact sampled_stays hn hsupply back stored hback hlow hstored
  · rintro p rfl q rfl
    refine ⟨fun hnone hsame => hcalm (fun _ => hnone) hsame, fun hwf hv hslot => hreaders hwf hv hslot⟩
  · have h := hcalm (fun hin => absurd (hstate.trans hin.1) hin.2) hsame
    rw [if_pos hstate, withNotice_nil] at h
    exact h

end Sys2Proof.SupplyReadings
end

section
/-! PROOFS. The sample expiry: the mix of the voices and their moves (R145 to R150, R157). -/

namespace Sys2Proof.Samples
open Sys2Proof Sys2Proof.Machine Sys2Proof.Safety

/-! ## The mix (R145, R149) -/

theorem contribution_eq (m : Memory) (v : Voice) : contribution m v = voicePart m v := by
  have hsample : sampleAt m v = if v.entry.format = 2 then
        (BitVec.ofNat 16 ((m.read (v.entry.start + v.position / 256 / 2 * 2)).toNat
          + 256 * (m.read (v.entry.start + v.position / 256 / 2 * 2 + 1)).toNat)).toInt
      else (m.read (v.entry.start + v.position / 256)).toInt * 256 := by
    unfold sampleAt ClipEntry.size
    by_cases hformat : v.entry.format = 2
    · simp only [hformat, if_true]
      rfl
    · simp only [hformat, if_false, Nat.div_one, Nat.mul_one]
      rfl
  unfold contribution voicePart Voice.sounds
  rw [hsample]
  cases v.state <;> simp

theorem outputSample_eq (s : State) : outputSample s = if s.isRun = true ∧ s.supply.shed < 3 then
    max (-32768) (min 32767 (((s.sound.voices.map (voicePart s.xm)).sum * s.sound.master).tdiv 256)) else 0 := by
  have hparts : contribution s.xm = voicePart s.xm := funext (contribution_eq s.xm)
  unfold outputSample
  rw [hparts]
  by_cases hgo : s.isRun = true <;> by_cases hshed : s.supply.shed < 3
  · simp [hgo, frozen, hshed, Nat.not_le.2 hshed, mix, clampInt]
  · simp [hgo, frozen, hshed, Nat.le_of_not_lt hshed]
  · simp [hgo]
  · simp [hgo]

/-! ## The moves (R145 to R147, R157) -/

/-- What its own turn makes of a voice that meets no boundary of a stream. -/
def movesOn (v w : Voice) : Prop :=
  (v.sounds = false → w = v)
  ∧ (v.sounds = true → v.entry.kind ≠ 2 ∨ positionNext v < v.entry.length / 2 * 256
      ∨ (v.entry.length / 2 * 256 ≤ v.position ∧ positionNext v < v.entry.length * 256) → w = movedOn v)

theorem voiceMoved_movesOn {s t : State} {k : Nat} (hv : voicesLawful s) (hk : k < 8) (h : voiceMoved s t k) :
    movesOn (s.sound.voice k) (t.sound.voice k) := by
  obtain ⟨hquiet, hmoves, -, -⟩ := h _ rfl _ rfl _ rfl _ rfl _ rfl _ rfl
  have hlength : k < s.sound.voices.length := by rw [hv.1]; exact hk
  refine ⟨fun hsilent => by rw [hquiet hsilent], fun hsounds hno => ?_⟩
  rw [hmoves hsounds hno]
  exact voiceIs_voice s k _ hlength

theorem voice_of_get {u : Sound} {k : Nat} {v : Voice} (h : u.voices[k]? = some v) : u.voice k = v := by
  simp [Sound.voice, List.getD_eq_getElem?_getD, h]

theorem get_of_voice {u : Sound} {k : Nat} (h : k < u.voices.length) : u.voices[k]? = some (u.voice k) := by
  simp [Sound.voice, List.getD_eq_getElem?_getD, List.getElem?_eq_getElem h]

theorem lt_of_get {u : Sound} {k : Nat} {v : Voice} (h : u.voices[k]? = some v) : k < u.voices.length :=
  (List.getElem?_eq_some_iff.1 h).1

theorem mem_allVoices {k : Nat} (h : k < 8) : k ∈ allVoices := by
  unfold allVoices
  simp only [List.mem_cons, List.not_mem_nil, or_false]
  omega

/-- The voices after their turns. -/
theorem advanceVoices_voice {u : State} (hwf : u.xm.wf = true) (hv : voicesLawful u) {k : Nat} {v : Voice}
    (hk : u.sound.voices[k]? = some v) : ∃ w, (allVoices.foldl State.advanceVoice u).sound.voices[k]? = some w
      ∧ movesOn v w := by
  obtain ⟨hturn, -, hlawful⟩ := u.advanceVoices_inTurn hwf hv
  have hlt : k < 8 := by
    have := lt_of_get hk
    rwa [hv.1] at this
  have hmoves := voicesInTurn_voice (P := movesOn)
    (fun s t k hv hk h => ⟨voiceMoved_frame hv hk h, voiceMoved_lawful hv hk h, voiceMoved_movesOn hv hk h⟩)
    [0, 1, 2, 3, 4, 5, 6, 7] (by decide) (by decide) u _ hv hturn k (mem_allVoices hlt)
  rw [voice_of_get hk] at hmoves
  exact ⟨_, get_of_voice (by rw [hlawful.1]; exact hlt), hmoves⟩

/-- The state once a sample is sent. -/
def sampleSent (s : State) : State :=
  { s with
    clock := max s.clock s.timers.sample
    timers := { s.timers with sample := max s.clock s.timers.sample + 64000 }
    sound := { s.sound with
      sample := if s.isRun = true ∧ s.supply.shed < 3 then
          max (-32768) (min 32767 (((s.sound.voices.map (voicePart s.xm)).sum * s.sound.master).tdiv 256))
        else 0 } }

theorem sampleTimerExpiry_eq (s : State) : sampleTimerExpiry s =
    if 3 ≤ s.supply.shed then sampleSent s else allVoices.foldl State.advanceVoice (sampleSent s) := by
  have hsent : sampleSent s = { s with
      clock := max s.clock s.timers.sample
      timers := { s.timers with sample := max s.clock s.timers.sample + 64000 }
      sound := { s.sound with sample := outputSample s } } := by rw [outputSample_eq]; rfl
  rw [hsent]
  by_cases hfrozen : 3 ≤ s.supply.shed
  · rw [if_pos hfrozen]
    exact if_pos (decide_eq_true hfrozen)
  · rw [if_neg hfrozen]
    exact if_neg (by simpa [frozen] using hfrozen)

/-- Settles O46: the mix by its sum over the voices, and the turns of the voices by the law of one turn. -/
theorem sampleExpiryMixesAndMovesTheVoices : Obligations.SampleExpiryMixesAndMovesTheVoices := by
  intro s hwf hv
  refine ⟨sampleSent s, sampleTimerExpiry s, rfl, rfl, ?_⟩
  rw [sampleTimerExpiry_eq]
  obtain ⟨hturn, -, -⟩ := (sampleSent s).advanceVoices_inTurn hwf hv
  have hframe := voicesInTurn_frame (fun _ _ _ hv hk h => ⟨voiceMoved_frame hv hk h, voiceMoved_lawful hv hk h⟩)
    [0, 1, 2, 3, 4, 5, 6, 7] (by decide) (sampleSent s) _ hv hturn
  by_cases hfrozen : 3 ≤ s.supply.shed
  · rw [if_pos hfrozen]
    exact ⟨fun _ => rfl, fun c => absurd hfrozen (Nat.not_le.2 c), fun _ _ _ => rfl, rfl⟩
  · rw [if_neg hfrozen]
    refine ⟨fun c => absurd c hfrozen, fun _ => ⟨hturn, fun k v hk => ?_⟩, hframe.1, hframe.2.2⟩
    obtain ⟨w, hw, hsilent, hmoves⟩ := advanceVoices_voice (u := sampleSent s) hwf hv hk
    exact ⟨fun hno => by rw [hw, hsilent hno], fun hsounds hfree => by rw [hw, hmoves hsounds hfree]⟩

end Sys2Proof.Samples
end

section
/-! PROOFS. The mixer frame: wheel angle and chuff, fades, engine pitch, master volume and retries (R58, R59, R148,
R152 to R154, R158). -/

namespace Sys2Proof.MixerFrames
open Sys2Proof Sys2Proof.Machine Sys2Proof.Safety Sys2Proof.Notices Sys2Proof.RegulationSteps Sys2Proof.Samples

/-! ## A start does not look at the wheel (R141) -/

/-- The angle taken at a frame and the rotation of the chuff clips. -/
def wheeled (s : State) (angle rotation : Nat) : State :=
  { s with sound := { s.sound with prevAngle := angle, rotation := rotation } }

theorem stopVoice_wheeled (s : State) (angle rotation n : Nat) :
    (wheeled s angle rotation).stopVoice n = wheeled (s.stopVoice n) angle rotation := by
  have hsame : (wheeled s angle rotation).sound.voice n = s.sound.voice n := rfl
  simp only [State.stopVoice, hsame]
  generalize ((s.sound.voice n).sounds && decide ((s.sound.voice n).entry.kind = 2)) = holds
  cases holds <;> rfl

theorem startVoice_wheeled (s : State) (angle rotation n clip : Nat) (use : ClipUse) (f : StartFields) :
    (wheeled s angle rotation).startVoice n clip use f
      = (wheeled (s.startVoice n clip use f).1 angle rotation, (s.startVoice n clip use f).2) := by
  simp only [State.startVoice, stopVoice_wheeled]
  generalize s.stopVoice n = v
  have hxm : (wheeled v angle rotation).xm = v.xm := rfl
  rw [hxm]
  split
  · split
    · have hfull : segmentFull (wheeled v angle rotation) clip false = segmentFull v clip false := rfl
      rw [hfull]
      cases segmentFull v clip false <;> rfl
    · rfl
  · rfl

theorem startOrFault_wheeled (s : State) (angle rotation n clip : Nat) (use : ClipUse) (f : StartFields) :
    (wheeled s angle rotation).startOrFault n clip use f = wheeled (s.startOrFault n clip use f) angle rotation := by
  unfold State.startOrFault
  split
  · exact stopVoice_wheeled s angle rotation n
  · rw [startVoice_wheeled]
    generalize s.startVoice n clip use f = made
    obtain ⟨v, done⟩ := made
    cases done <;> rfl

/-- A voice given a clip plays it from its beginning or is IDLE, and nothing else of the voices changes. -/
theorem given_voice {s t : State} {n clip : Nat} {use : ClipUse} {voice : ClipEntry → Voice}
    (h : voiceGiven s t n clip use voice) (hplays : ∀ e, (voice e).state = .playing) :
    ∃ v : Voice, (v.state = .idle ∨ v.state = .playing) ∧ t = { s with
      xm := t.xm, port := t.port, status := t.status
      sound := { s.sound with
        voices := s.sound.voices.set n v, startCount := t.sound.startCount
        badClip := t.sound.badClip, badUse := t.sound.badUse } } := by
  obtain ⟨hnone, hgiven⟩ := h _ rfl
  by_cases hclip : 63 < clip
  · refine ⟨{ s.sound.voice n with state := .idle }, .inl rfl, ?_⟩
    rw [hnone hclip]
  · have hgiven := hgiven (Nat.le_of_not_lt hclip) _ rfl
    by_cases hvalid : (loadClip s.xm clip).valid = true
        ∧ (if use = .engine then (loadClip s.xm clip).kind = 1 else (loadClip s.xm clip).kind ≤ 1)
    · rw [if_pos hvalid] at hgiven
      refine ⟨voice (loadClip s.xm clip), .inr (hplays _), ?_⟩
      rw [hgiven]
    · rw [if_neg hvalid] at hgiven
      refine ⟨{ s.sound.voice n with state := .idle }, .inl rfl, ?_⟩
      rw [hgiven]

/-! ## The chuff (R153, R154) -/

/-- The lamps and the fan at a chuff (R168, R180). -/
def chuffLamps (u : LampUnit) (width now : Nat) : LampUnit :=
  { u with
    lamps := mapFrom (fun _ => Lamp.chuff) 0 u.lamps
    fan := if u.fan.state = .run ∨ u.fan.state = .puff then
        { u.fan with state := .puff, puff := some (now + 1024000 * width) }
      else u.fan }

theorem chuffEvent_eq (v : State) :
    v.chuffEvent = { v with lamps := chuffLamps v.lamps v.lampSet.puffWidth v.clock } := by
  have hms : ∀ n, ms n = 1024000 * n := fun n => Nat.mul_comm _ _
  have hset : (v.onEachLamp fun _ => Lamp.chuff).lampSet = v.lampSet := rfl
  unfold State.chuffEvent State.fanChuff chuffLamps
  simp only [hms, hset]
  have hstate : (v.onEachLamp fun _ => Lamp.chuff).lamps.fan.state = v.lamps.fan.state := rfl
  rw [hstate]
  cases hfan : v.lamps.fan.state <;> simp [State.onFan, State.onLamps, State.onEachLamp]

theorem chuffLamps_get {u : LampUnit} {width now k : Nat} {l : Lamp} (h : u.lamps[k]? = some l) :
    (chuffLamps u width now).lamps[k]? = some (if l.copy.effect = .firebox ∧ l.on = true then
      { l with flare := l.copy.level } else l) := by
  simp only [chuffLamps, getElem?_mapFrom, h]
  rfl

/-- The clip and the fields of the next chuff. -/
def chuffClip (s : State) : Nat := s.soundSet.chuffClips.getD (s.sound.rotation % s.soundSet.chuffClips.length) 255

def chuffFields (s : State) : StartFields :=
  { volume := some (chuffVolume s), pitch := none, repeats := .once, priority := 3, starter := .chuff }

/-- The rotation after a chuff. -/
def nextRotation (s : State) : Nat :=
  if s.sound.rotation + 1 < s.soundSet.chuffClips.length then s.sound.rotation + 1 else 0

/-- The part as a frame finds it: its time, its timer and the wheel taken on, the mark cleared (R58, R59). -/
def framed (s : State) : State :=
  { s with
    clock := max s.clock s.timers.mixer
    timers := { s.timers with mixer := max s.clock s.timers.mixer + 4 * 1024000 }
    motion := { s.motion.camStep s.traction.c with mark := false } }

/-- The angle that a frame takes. -/
def frameAngle (s : State) : Nat := wheelAngle (framed s)

/-- Voice 1 given the clip of a chuff, where one fires. -/
def chuffGiven (s : State) : State :=
  if chuffFires s (frameAngle s) = true then s.startOrFault 1 (chuffClip s) .chuff (chuffFields s) else s

/-- The part after the chuff check. -/
def checked (s : State) : State :=
  { chuffGiven s with
    clock := (framed s).clock, timers := (framed s).timers, motion := (framed s).motion
    lamps := if chuffFires s (frameAngle s) = true then
        chuffLamps s.lamps s.lampSet.puffWidth (framed s).clock else s.lamps
    sound := { (chuffGiven s).sound with
      prevAngle := frameAngle s
      rotation := if chuffFires s (frameAngle s) = true then nextRotation s else s.sound.rotation } }

theorem camStep_kept (mo : Motion) (c : Nat) : mo.camStep c = { mo with phi := (mo.camStep c).phi } := by
  unfold Motion.camStep
  split <;> rfl

theorem chuff_framed (s : State) (angle : Nat) : (wheeled (framed s) angle s.sound.rotation).chuff
    = State.chuffEvent (wheeled (soundedAs (s.startOrFault 1 (chuffClip s) .chuff (chuffFields s)) (framed s)) angle
      (nextRotation s)) := by
  have hturned : (wheeled (framed s) angle s.sound.rotation).onSound (fun u => { u with
      rotation := if u.rotation + 1 ≥ s.soundSet.chuffClips.length then 0 else u.rotation + 1 })
      = wheeled (soundedAs s (framed s)) angle (nextRotation s) := by
    have hnext : (if s.sound.rotation + 1 ≥ s.soundSet.chuffClips.length then 0 else s.sound.rotation + 1)
        = nextRotation s := by
      unfold nextRotation
      by_cases h : s.sound.rotation + 1 < s.soundSet.chuffClips.length
      · rw [if_neg (Nat.not_le.2 h), if_pos h]
      · rw [if_pos (Nat.le_of_not_lt h), if_neg h]
    rw [← hnext]
    rfl
  have hchuff : (wheeled (framed s) angle s.sound.rotation).chuff = (((wheeled (framed s) angle
      s.sound.rotation).onSound fun u => { u with
        rotation := if u.rotation + 1 ≥ s.soundSet.chuffClips.length then 0 else u.rotation + 1 }).startOrFault 1
      (chuffClip s) .chuff (chuffFields s)).chuffEvent := rfl
  rw [hchuff, hturned, startOrFault_wheeled, startOrFault_soundedAs]

theorem chuffCheck_framed (s : State) : State.chuffCheck { s with
      clock := max s.clock s.timers.mixer
      timers := { s.timers with mixer := max s.clock s.timers.mixer + 4 * 1024000 } }
    = if chuffFires s (frameAngle s) = true then (wheeled (framed s) (frameAngle s) s.sound.rotation).chuff
      else wheeled (framed s) (frameAngle s) s.sound.rotation := by
  have hangle : wheelAngle { s with
      clock := max s.clock s.timers.mixer
      timers := { s.timers with mixer := max s.clock s.timers.mixer + 4 * 1024000 }
      motion := s.motion.camStep s.traction.c } = frameAngle s := rfl
  have hfires : ∀ angle, chuffFires { s with
      clock := max s.clock s.timers.mixer
      timers := { s.timers with mixer := max s.clock s.timers.mixer + 4 * 1024000 }
      motion := s.motion.camStep s.traction.c } angle = chuffFires s angle := by
    intro angle
    rw [camStep_kept]
    rfl
  rw [← hangle, ← hfires]
  rfl

theorem startOrFault_frame (s : State) (n clip : Nat) (use : ClipUse) (f : StartFields) :
    s.startOrFault n clip use f = soundedAs (s.startOrFault n clip use f) s := by
  have h := startOrFault_soundedAs s s n clip use f
  exact h

theorem chuffCheck_checked (s : State) : State.chuffCheck { s with
      clock := max s.clock s.timers.mixer
      timers := { s.timers with mixer := max s.clock s.timers.mixer + 4 * 1024000 } } = checked s := by
  rw [chuffCheck_framed]
  unfold checked chuffGiven
  by_cases hfires : chuffFires s (frameAngle s) = true
  · simp only [if_pos hfires]
    rw [chuff_framed, chuffEvent_eq]
    have hframe := startOrFault_frame s 1 (chuffClip s) .chuff (chuffFields s)
    generalize s.startOrFault 1 (chuffClip s) .chuff (chuffFields s) = g at hframe
    conv_rhs => rw [hframe]
    rfl
  · simp only [if_neg hfires]
    rfl

/-! ## The rest of the frame (R148, R152, R158) -/

/-- The voices that fade, unless they are frozen (R148, R150). -/
def faded (u : State) : State := if 3 ≤ u.supply.shed then u else allVoices.foldl State.fadeVoice u

/-- The engine takes its pitch, and the master volume is read (R148, R152). -/
def tuned (w : State) : State :=
  { w with sound := { w.sound with
      master := (w.xm.read 0x30).toNat
      voices := w.sound.voices.set 0 (if (w.sound.voice 0).sounds then { w.sound.voice 0 with
        step := enginePitch w } else w.sound.voice 0) } }

/-- The voices that look for their segments, unless they are frozen (R150, R158). -/
def retried (x : State) : State := if 3 ≤ x.supply.shed then x else allVoices.foldl State.retryVoice x

theorem updateEngine_tuned {w : State} (h : w.sound.voices.length = 8) :
    (w.updateEngine.onSound fun u => { u with master := masterVolume w.updateEngine }) = tuned w := by
  have hlength : 0 < w.sound.voices.length := by omega
  unfold State.updateEngine tuned
  by_cases hsounds : (w.sound.voice 0).sounds = true
  · simp only [if_pos hsounds]
    rw [State.onVoice_eq _ _ _ hlength]
    rfl
  · simp only [if_neg hsounds]
    have hkept : w.sound.voices.set 0 (w.sound.voice 0) = w.sound.voices := by
      simp [Sound.voice, List.getD_eq_getElem?_getD, List.getElem?_eq_getElem hlength]
    rw [hkept]
    rfl

theorem onFrozen {α : Type} (s : State) (x y : α) : (if frozen s then x else y) = if 3 ≤ s.supply.shed then x else y := by
  by_cases h : 3 ≤ s.supply.shed
  · rw [if_pos h, if_pos (by simpa [frozen] using h)]
  · rw [if_neg h, if_neg (by simpa [frozen] using h)]

/-! ## What the turns of a frame reach -/

theorem withNotice_port (p : Port) (bits : List NoticeBit) :
    withNotice p bits = { p with notice := (withNotice p bits).notice } := rfl

theorem turnFrame_released {s t : State} {k a : Nat} {v : Voice} {bits : List NoticeBit} (ha : inSegments a)
    (hsame : sameBut s.xm t.xm (fun x => x = a))
    (ht : t = { voiceIs s k v with xm := t.xm, port := withNotice s.port bits }) : turnFrame s t k := by
  refine ⟨sameBut_weaken hsame fun x hx => hx ▸ ha, fun j hj => ?_, ?_⟩
  · rw [ht]
    simp [voiceIs, List.getElem?_set_ne (Ne.symm hj)]
  · have hport : t.port = withNotice s.port bits := by rw [ht]
    have hvoices : t.sound.voices = s.sound.voices.set k v := by rw [ht]; rfl
    conv_lhs => rw [ht, withNotice_port]
    rw [hport, hvoices]
    rfl

theorem turnFrame_taken {s t : State} {k a : Nat} {v : Voice} (ha : inSegments a)
    (hsame : sameBut s.xm t.xm (fun x => x = a)) (ht : t = { voiceIs s k v with xm := t.xm }) : turnFrame s t k :=
  turnFrame_released (bits := []) ha hsame (by rw [withNotice_nil]; exact ht)

/-- What a fade makes of a voice (R148). -/
def fadesTo (v w : Voice) : Prop :=
  (v.state ≠ .fading → w = v)
  ∧ (v.state = .fading → w = if v.envelope ≤ v.fadeStep then { v with envelope := 0, state := .idle }
      else { v with envelope := v.envelope - v.fadeStep })

theorem voiceFaded_reaches {s t : State} {k : Nat} (hv : voicesLawful s) (hk : k < 8) (h : voiceFaded s t k) :
    turnFrame s t k ∧ fadesTo (s.sound.voice k) (t.sound.voice k) := by
  obtain ⟨hkept, hlower, hends, hreleases⟩ := h _ rfl _ rfl
  have hlaw := lawful_voice hv hk
  have hlength : k < s.sound.voices.length := by rw [hv.1]; exact hk
  generalize hvoice : s.sound.voice k = v at *
  by_cases hfading : v.state = .fading
  · have hsounds : v.sounds = true := by simp [Voice.sounds, hfading]
    by_cases hlow : v.envelope ≤ v.fadeStep
    · by_cases hkind : v.entry.kind = 2
      · obtain ⟨-, hsame, ht⟩ := hreleases hfading hlow hkind _ rfl
        obtain ⟨hclip, -, -⟩ := voiceLawful_sounds hlaw hsounds
        refine ⟨turnFrame_released (inSegments_byte hclip _) hsame ht, fun c => absurd hfading c, fun _ => ?_⟩
        rw [if_pos hlow, ht]
        exact voiceIs_voice s k _ hlength
      · have ht := hends hfading hlow hkind
        refine ⟨ht ▸ turnFrame_voiceIs s k _, fun c => absurd hfading c, fun _ => ?_⟩
        rw [if_pos hlow, ht]
        exact voiceIs_voice s k _ hlength
    · have ht := hlower hfading (Nat.lt_of_not_le hlow)
      refine ⟨ht ▸ turnFrame_voiceIs s k _, fun c => absurd hfading c, fun _ => ?_⟩
      rw [if_neg hlow, ht]
      exact voiceIs_voice s k _ hlength
  · have ht := hkept hfading
    exact ⟨ht ▸ turnFrame_refl s k, fun _ => by rw [ht, hvoice], fun c => absurd c hfading⟩

/-- What a retry leaves of a voice that is not STARVED (R158). -/
def retriesTo (v w : Voice) : Prop := v.state ≠ .starved → w = v

theorem voiceRetried_reaches {s t : State} {k : Nat} (hv : voicesLawful s) (hk : k < 8) (h : voiceRetried s t k) :
    turnFrame s t k ∧ retriesTo (s.sound.voice k) (t.sound.voice k) := by
  obtain ⟨hkept, htakes⟩ := h _ rfl _ rfl _ rfl
  have hlaw := lawful_voice hv hk
  generalize hvoice : s.sound.voice k = v at *
  by_cases hstarved : v.state = .starved
  · refine ⟨?_, fun c => absurd hstarved c⟩
    generalize ha : segmentByte v.clip (decide (v.position < v.entry.length * 256)) = a at *
    by_cases hfull : s.xm.read a = 1 ∨ s.xm.read a = 2
    · obtain ⟨-, hsame, ht⟩ := htakes hstarved hfull
      have hclip : v.clip ≤ 63 := by
        rcases hlaw with c | ⟨hclip, -⟩
        · rw [c] at hstarved
          (nomatch hstarved)
        · exact hclip
      exact turnFrame_taken (ha ▸ inSegments_byte hclip _) hsame ht
    · rw [hkept (.inr ⟨fun c => hfull (.inl c), fun c => hfull (.inr c)⟩)]
      exact turnFrame_refl s k
  · have ht := hkept (.inl hstarved)
    exact ⟨ht ▸ turnFrame_refl s k, fun _ => by rw [ht, hvoice]⟩

/-- What the turns of a frame may reach together. -/
def turnsReach (u w : State) (P : Voice → Voice → Prop) : Prop :=
  w.xm.wf = true ∧ voicesLawful w ∧ sameBut u.xm w.xm inSegments
  ∧ (∀ k, k < 8 → P (u.sound.voice k) (w.sound.voice k))
  ∧ w = { u with
      xm := w.xm, port := { u.port with notice := w.port.notice }
      sound := { u.sound with voices := w.sound.voices } }

/-- Fades at a frame whose voices may be frozen. -/
def fadesAt (frozen : Prop) (v w : Voice) : Prop := (frozen → w = v) ∧ (¬frozen → fadesTo v w)

theorem faded_reaches {u : State} (hwf : u.xm.wf = true) (hv : voicesLawful u) :
    turnsReach u (faded u) (fadesAt (3 ≤ u.supply.shed))
    ∧ (u.supply.shed < 3 → voicesInTurn voiceFaded [0, 1, 2, 3, 4, 5, 6, 7] u (faded u)) := by
  unfold faded
  by_cases hfrozen : 3 ≤ u.supply.shed
  · rw [if_pos hfrozen]
    exact ⟨⟨hwf, hv, sameBut_refl _ _, fun _ _ => ⟨fun _ => rfl, fun c => absurd hfrozen c⟩, rfl⟩,
      fun c => absurd hfrozen (Nat.not_le.2 c)⟩
  · rw [if_neg hfrozen]
    obtain ⟨hturn, hwf', hlawful⟩ := u.fadeVoices_inTurn hwf hv
    have hframe := voicesInTurn_frame (fun _ _ _ hv hk h => ⟨(voiceFaded_reaches hv hk h).1,
      voiceFaded_lawful hv hk h⟩) [0, 1, 2, 3, 4, 5, 6, 7] (by decide) u _ hv hturn
    have hvoice := voicesInTurn_voice (P := fadesTo) (fun _ _ _ hv hk h => ⟨(voiceFaded_reaches hv hk h).1,
      voiceFaded_lawful hv hk h, (voiceFaded_reaches hv hk h).2⟩) [0, 1, 2, 3, 4, 5, 6, 7] (by decide) (by decide) u _
      hv hturn
    exact ⟨⟨hwf', hlawful, hframe.1, fun k hk => ⟨fun c => absurd c hfrozen, fun _ => hvoice k (mem_allVoices hk)⟩,
      hframe.2.2⟩, fun _ => hturn⟩

/-- Retries at a frame whose voices may be frozen. -/
def retriesAt (frozen : Prop) (v w : Voice) : Prop := (frozen → w = v) ∧ retriesTo v w

theorem retried_reaches {x : State} (hwf : x.xm.wf = true) (hv : voicesLawful x) :
    turnsReach x (retried x) (retriesAt (3 ≤ x.supply.shed))
    ∧ (x.supply.shed < 3 → voicesInTurn voiceRetried [0, 1, 2, 3, 4, 5, 6, 7] x (retried x)) := by
  unfold retried
  by_cases hfrozen : 3 ≤ x.supply.shed
  · rw [if_pos hfrozen]
    exact ⟨⟨hwf, hv, sameBut_refl _ _, fun _ _ => ⟨fun _ => rfl, fun _ => rfl⟩, rfl⟩,
      fun c => absurd hfrozen (Nat.not_le.2 c)⟩
  · rw [if_neg hfrozen]
    obtain ⟨hturn, hwf', hlawful⟩ := x.retryVoices_inTurn hwf hv
    have hframe := voicesInTurn_frame (fun _ _ _ hv hk h => ⟨(voiceRetried_reaches hv hk h).1,
      voiceRetried_lawful hv hk h⟩) [0, 1, 2, 3, 4, 5, 6, 7] (by decide) x _ hv hturn
    have hvoice := voicesInTurn_voice (P := retriesTo) (fun _ _ _ hv hk h => ⟨(voiceRetried_reaches hv hk h).1,
      voiceRetried_lawful hv hk h, (voiceRetried_reaches hv hk h).2⟩) [0, 1, 2, 3, 4, 5, 6, 7] (by decide) (by decide) x
      _ hv hturn
    exact ⟨⟨hwf', hlawful, hframe.1, fun k hk => ⟨fun c => absurd c hfrozen, hvoice k (mem_allVoices hk)⟩,
      hframe.2.2⟩, fun _ => hturn⟩

theorem tuned_lawful {w : State} (hv : voicesLawful w) : voicesLawful (tuned w) := by
  have hlaw := lawful_voice hv (k := 0) (by decide)
  have hpitched : voiceLawful (if (w.sound.voice 0).sounds then { w.sound.voice 0 with step := enginePitch w }
      else w.sound.voice 0) := by
    split
    · exact hlaw
    · exact hlaw
  exact voiceIs_lawful hv 0 hpitched

theorem mixerFrame_eq {s : State} (hwf : (checked s).xm.wf = true) (hv : voicesLawful (checked s)) :
    mixerFrame s = retried (tuned (faded (checked s))) := by
  obtain ⟨⟨-, hlawful, -, -, -⟩, -⟩ := faded_reaches hwf hv
  have hstages : mixerFrame s = (fun v : State => if frozen v then v else allVoices.foldl State.retryVoice v)
      ((fun w : State => w.updateEngine.onSound fun u => { u with master := masterVolume w.updateEngine })
        ((fun u : State => if frozen u then u else allVoices.foldl State.fadeVoice u) (State.chuffCheck { s with
          clock := max s.clock s.timers.mixer
          timers := { s.timers with mixer := max s.clock s.timers.mixer + 4 * 1024000 } }))) := rfl
  rw [hstages, chuffCheck_checked]
  simp only [onFrozen]
  have hfaded : (if 3 ≤ (checked s).supply.shed then checked s else allVoices.foldl State.fadeVoice (checked s))
      = faded (checked s) := rfl
  rw [hfaded, updateEngine_tuned hlawful.1]
  rfl

/-- What the rest of a frame reaches after the chuff check. -/
theorem rest_frame {u w t : State} {P Q : Voice → Voice → Prop} (hw : turnsReach u w P)
    (ht : turnsReach (tuned w) t Q) : sameBut u.xm t.xm inSegments ∧ t = { u with
      xm := t.xm, port := { u.port with notice := t.port.notice }
      sound := { u.sound with voices := t.sound.voices, master := (t.xm.read 0x30).toNat } } := by
  obtain ⟨-, -, hsame, -, hframe⟩ := hw
  obtain ⟨-, -, hsame', -, hframe'⟩ := ht
  have hmaster : (t.xm.read 0x30).toNat = (w.xm.read 0x30).toNat := by
    rw [hsame' 0x30 (by decide) (fun c => absurd c.1 (by decide))]
    rfl
  refine ⟨sameBut_trans hsame hsame', hframe'.trans ?_⟩
  rw [hmaster, tuned]
  conv_lhs => rw [hframe]

/-! ## What the chuff check reaches -/

theorem chuffGiven_reaches {s : State} (hwf : s.xm.wf = true) (hv : voicesLawful s) :
    (chuffGiven s).xm.wf = true ∧ voicesLawful (chuffGiven s) ∧ sameBut s.xm (chuffGiven s).xm inSegments
    ∧ noticesOnly s (chuffGiven s)
    ∧ ∃ v : Voice, (v.state = .idle ∨ v.state = .playing) ∧ (chuffFires s (frameAngle s) = false → chuffGiven s = s)
      ∧ chuffGiven s = { s with
        xm := (chuffGiven s).xm, port := (chuffGiven s).port, status := (chuffGiven s).status
        sound := { s.sound with
          voices := if chuffFires s (frameAngle s) = true then s.sound.voices.set 1 v else s.sound.voices
          startCount := (chuffGiven s).sound.startCount
          badClip := (chuffGiven s).sound.badClip, badUse := (chuffGiven s).sound.badUse } } := by
  by_cases hfires : chuffFires s (frameAngle s) = true
  · rw [chuffGiven, if_pos hfires]
    obtain ⟨hlawful, hsame⟩ := s.startOrFault_kept 1 (chuffClip s) .chuff (chuffFields s) hwf hv (by decide) (by decide)
    obtain ⟨v, hstate, hframe⟩ := given_voice (s.startOrFault_given 1 (chuffClip s) .chuff (chuffFields s) hwf hv
      (by decide) (by decide)) (fun _ => rfl)
    exact ⟨State.startOrFault_wf _ _ _ _ _ hwf, hlawful, hsame, noticesOnly_startOrFault .., v, hstate,
      fun c => absurd (hfires.symm.trans c) (by decide), by rw [if_pos hfires]; exact hframe⟩
  · rw [chuffGiven, if_neg hfires]
    exact ⟨hwf, hv, sameBut_refl _ _, noticesOnly_refl s, Voice.idle, .inl rfl, fun _ => rfl,
      by rw [if_neg hfires]⟩

theorem checked_lawful {s : State} (hwf : s.xm.wf = true) (hv : voicesLawful s) :
    (checked s).xm.wf = true ∧ voicesLawful (checked s) := by
  obtain ⟨hwf', hlawful, -⟩ := chuffGiven_reaches hwf hv
  exact ⟨hwf', hlawful⟩

theorem soundSet_of_sets {s w : State} (h : w.sets = s.sets) : w.soundSet = s.soundSet := by
  unfold State.soundSet
  rw [h]

theorem enginePitch_of {s w : State} (hsensor : w.motion.sensor = s.motion.sensor) (hm : w.motion.m = s.motion.m)
    (hc : w.traction.c = s.traction.c) (hset : w.soundSet = s.soundSet) : enginePitch w
      = max 0x40 (min 0x400 (s.soundSet.basePitch
        + (if s.motion.sensor = .ok then s.motion.m else s.traction.c) * s.soundSet.slope / 4096)) := by
  have hrate : engineRate w = if s.motion.sensor = .ok then s.motion.m else s.traction.c := by
    unfold engineRate
    rw [hsensor, hm, hc]
    cases s.motion.sensor <;> rfl
  rw [enginePitch, hset, hrate]
  rfl

/-- The whole frame as its parts (R148). -/
theorem mixer_parts {s : State} (hwf : s.xm.wf = true) (hv : voicesLawful s) : ∃ w t : State,
    mixerFrame s = t ∧ w = faded (checked s) ∧ t = retried (tuned w)
    ∧ turnsReach (checked s) w (fadesAt (3 ≤ s.supply.shed))
    ∧ (3 ≤ s.supply.shed → w = checked s)
    ∧ (s.supply.shed < 3 → voicesInTurn voiceFaded [0, 1, 2, 3, 4, 5, 6, 7] (checked s) w)
    ∧ turnsReach (tuned w) t (retriesAt (3 ≤ s.supply.shed))
    ∧ (3 ≤ s.supply.shed → t = tuned w)
    ∧ (s.supply.shed < 3 → voicesInTurn voiceRetried [0, 1, 2, 3, 4, 5, 6, 7] (tuned w) t)
    ∧ enginePitch w = max 0x40 (min 0x400 (s.soundSet.basePitch
        + (if s.motion.sensor = .ok then s.motion.m else s.traction.c) * s.soundSet.slope / 4096)) := by
  obtain ⟨hwf', hlawful⟩ := checked_lawful hwf hv
  obtain ⟨-, -, -, -, v, -, -, hframe⟩ := chuffGiven_reaches hwf hv
  have hsupply : (chuffGiven s).supply = s.supply := by rw [hframe]
  have htraction : (chuffGiven s).traction = s.traction := by rw [hframe]
  have hsets : (chuffGiven s).sets = s.sets := by rw [hframe]
  have hshed : (checked s).supply.shed = s.supply.shed := congrArg Supply.shed hsupply
  obtain ⟨hfade, hfades⟩ := faded_reaches hwf' hlawful
  have hfrozen : 3 ≤ s.supply.shed → faded (checked s) = checked s := fun h => by rw [faded, hshed, if_pos h]
  obtain ⟨hwfw, hlawfulw, -, -, hframew⟩ := id hfade
  have hshedw : (tuned (faded (checked s))).supply.shed = s.supply.shed := by
    rw [tuned, hframew]
    exact hshed
  obtain ⟨hretry, hretries⟩ := retried_reaches (x := tuned (faded (checked s))) hwfw (tuned_lawful hlawfulw)
  have hpitch : enginePitch (faded (checked s)) = max 0x40 (min 0x400 (s.soundSet.basePitch
      + (if s.motion.sensor = .ok then s.motion.m else s.traction.c) * s.soundSet.slope / 4096)) := by
    have hmotion : (faded (checked s)).motion = (framed s).motion := by rw [hframew]; rfl
    refine enginePitch_of ?_ ?_ ?_ ?_
    · rw [hmotion, framed, camStep_kept]
    · rw [hmotion, framed, camStep_kept]
    · rw [hframew]
      exact congrArg Traction.c htraction
    · refine soundSet_of_sets ?_
      rw [hframew]
      exact hsets
  rw [hshed] at hfade hfades
  rw [hshedw] at hretry hretries
  exact ⟨faded (checked s), _, mixerFrame_eq hwf' hlawful, rfl, rfl, hfade, hfrozen, hfades, hretry,
    fun h => by rw [retried, hshedw, if_pos h], hretries, hpitch⟩

/-! ## One voice through a frame -/

/-- The engine's pitch on voice 0, the others as they were. -/
def pitched (k step : Nat) (w : Voice) : Voice := if k = 0 then { w with step := step } else w

theorem tuned_voice {w : State} (hlength : w.sound.voices.length = 8) {k : Nat} (hk : k < 8) :
    (tuned w).sound.voice k = if k = 0 ∧ (w.sound.voice 0).sounds = true then
      { w.sound.voice 0 with step := enginePitch w } else w.sound.voice k := by
  have hzero : 0 < w.sound.voices.length := by omega
  by_cases h : k = 0
  · subst h
    have hset : (tuned w).sound.voice 0 = if (w.sound.voice 0).sounds then
        { w.sound.voice 0 with step := enginePitch w } else w.sound.voice 0 := voiceIs_voice w 0 _ hzero
    rw [hset]
    by_cases hsounds : (w.sound.voice 0).sounds = true
    · rw [if_pos hsounds, if_pos ⟨rfl, hsounds⟩]
    · rw [if_neg hsounds, if_neg fun c => hsounds c.2]
  · rw [if_neg fun c => h c.1]
    simp only [Sound.voice, tuned, List.getD_eq_getElem?_getD, List.getElem?_set_ne (Ne.symm h)]

theorem voice_through {frozen : Prop} [Decidable frozen] {k step : Nat} {v w x t : Voice} (hfade : fadesAt frozen v w)
    (hx : x = if k = 0 ∧ w.sounds = true then { w with step := step } else w) (hretry : retriesAt frozen x t) :
    (v.state = .idle → t = v) ∧ (v.state = .playing → t = pitched k step v)
    ∧ (v.state = .fading → t = if frozen then pitched k step v
      else if v.envelope ≤ v.fadeStep then { v with envelope := 0, state := .idle }
      else pitched k step { v with envelope := v.envelope - v.fadeStep })
    ∧ (v.state = .starved → frozen → t = v) := by
  have hsounding : ∀ y : Voice, y.sounds = true →
      (if k = 0 ∧ y.sounds = true then { y with step := step } else y) = pitched k step y := by
    intro y hy
    unfold pitched
    by_cases h : k = 0
    · rw [if_pos ⟨h, hy⟩, if_pos h]
    · rw [if_neg fun c => h c.1, if_neg h]
  have hsilent : ∀ y : Voice, y.sounds = false →
      (if k = 0 ∧ y.sounds = true then { y with step := step } else y) = y := by
    intro y hy
    rw [if_neg fun c => absurd (hy.symm.trans c.2) (by decide)]
  have hstate : ∀ y : Voice, (pitched k step y).state = y.state := by
    intro y
    unfold pitched
    split <;> rfl
  obtain ⟨hstays, hfades⟩ := hfade
  obtain ⟨hheld, hkeeps⟩ := hretry
  have hw : v.state ≠ .fading → w = v := by
    intro h
    by_cases hfrozen : frozen
    · exact hstays hfrozen
    · exact (hfades hfrozen).1 h
  refine ⟨fun h => ?_, fun h => ?_, fun h => ?_, fun h hfrozen => ?_⟩
  · have hwv := hw (by rw [h]; decide)
    rw [hwv, hsilent v (by simp [Voice.sounds, h])] at hx
    exact (hkeeps (by rw [hx, h]; decide)).trans hx
  · have hwv := hw (by rw [h]; decide)
    rw [hwv, hsounding v (by simp [Voice.sounds, h])] at hx
    exact (hkeeps (by rw [hx, hstate, h]; decide)).trans hx
  · by_cases hfrozen : frozen
    · rw [if_pos hfrozen]
      rw [hstays hfrozen, hsounding v (by simp [Voice.sounds, h])] at hx
      exact (hkeeps (by rw [hx, hstate, h]; decide)).trans hx
    · rw [if_neg hfrozen]
      have hwv := (hfades hfrozen).2 h
      by_cases hlow : v.envelope ≤ v.fadeStep
      · rw [if_pos hlow] at hwv ⊢
        rw [hwv, hsilent _ rfl] at hx
        exact (hkeeps (by rw [hx]; exact fun c => (nomatch c))).trans hx
      · rw [if_neg hlow] at hwv ⊢
        rw [hwv, hsounding _ (by simp [Voice.sounds, h])] at hx
        exact (hkeeps (by rw [hx, hstate, h]; decide)).trans hx
  · rw [hw (by rw [h]; decide), hsilent v (by simp [Voice.sounds, h])] at hx
    exact (hheld hfrozen).trans hx

/-! ## The wheel at a frame (R57 to R59) -/

theorem frameAngle_sensed {s : State} (h : s.motion.sensor = .ok) :
    frameAngle s = s.motion.edgeAngle (BitVec.ofNat 32 (max s.clock s.timers.mixer / 1024)) := by
  unfold frameAngle wheelAngle framed
  rw [camStep_kept]
  simp only [h]
  rfl

theorem frameAngle_cam {s : State} (h : s.motion.sensor ≠ .ok) : frameAngle s
    = (s.motion.phi + s.traction.c * 256) % (1024000 * max 1 s.motion.cfg.magnets)
      / (4000 * max 1 s.motion.cfg.magnets) := by
  cases hsensor : s.motion.sensor with
  | ok => exact absurd hsensor h
  | none | lost =>
    unfold frameAngle wheelAngle framed Motion.camStep
    simp only [hsensor]
    rfl

theorem framed_motion (s : State) : (framed s).motion = { s.motion with
    phi := if s.motion.sensor = .ok then s.motion.phi
      else (s.motion.phi + s.traction.c * 256) % (1024000 * max 1 s.motion.cfg.magnets)
    mark := false } := by
  cases hsensor : s.motion.sensor with
  | ok =>
    rw [if_pos rfl]
    simp only [framed, Motion.camStep, hsensor]
  | none | lost =>
    rw [if_neg (by decide)]
    simp only [framed, Motion.camStep, hsensor]
    rfl

/-! ## The obligation -/

/-- The parts of a frame that the state before it decides, on the state `t` after it. -/
theorem checked_parts {s t : State} (hwf : s.xm.wf = true) (hv : voicesLawful s)
    (hrest : t = { checked s with
      xm := t.xm, port := { (checked s).port with notice := t.port.notice }
      sound := { (checked s).sound with voices := t.sound.voices, master := (t.xm.read 0x30).toNat } }) :
    t.clock = max s.clock s.timers.mixer
    ∧ t.timers = { s.timers with mixer := max s.clock s.timers.mixer + 4 * 1024000 }
    ∧ t.motion = (framed s).motion ∧ t.lamps = (checked s).lamps
    ∧ t.sound.prevAngle = frameAngle s ∧ t.sound.rotation = (checked s).sound.rotation
    ∧ t.sound.startCount = (chuffGiven s).sound.startCount ∧ t.sound.badClip = (chuffGiven s).sound.badClip
    ∧ t.sound.badUse = (chuffGiven s).sound.badUse ∧ t.status = (chuffGiven s).status
    ∧ t.sound.sample = s.sound.sample := by
  obtain ⟨-, -, -, -, v, -, -, hframe⟩ := chuffGiven_reaches hwf hv
  have hsample : (chuffGiven s).sound.sample = s.sound.sample := by rw [hframe]
  rw [hrest]
  exact ⟨rfl, rfl, rfl, rfl, rfl, rfl, rfl, rfl, rfl, rfl, hsample⟩

/-- The whole of a frame as one frame of the state (R148). -/
theorem mixer_frame {s t : State} (hwf : s.xm.wf = true) (hv : voicesLawful s)
    (hrest : t = { checked s with
      xm := t.xm, port := { (checked s).port with notice := t.port.notice }
      sound := { (checked s).sound with voices := t.sound.voices, master := (t.xm.read 0x30).toNat } }) :
    t = { s with
      clock := max s.clock s.timers.mixer
      xm := t.xm, port := { s.port with notice := t.port.notice }
      status := { s.status with faultCount := t.status.faultCount }
      timers := { s.timers with mixer := t.clock + 4 * 1024000 }
      motion := t.motion, sound := { t.sound with sample := s.sound.sample }
      lamps := { s.lamps with lamps := t.lamps.lamps, fan := t.lamps.fan } } := by
  obtain ⟨hclock, htimers, hmotion, hlamps, -, -, -, -, -, hstatus, hsample⟩ := checked_parts hwf hv hrest
  obtain ⟨-, -, -, hnotices, v, -, -, hframe⟩ := chuffGiven_reaches hwf hv
  have hport : ({ (chuffGiven s).port with notice := t.port.notice } : Port)
      = { s.port with notice := t.port.notice } := by rw [noticesOnly_port hnotices]
  have hcount : t.status = { s.status with faultCount := t.status.faultCount } := by
    rw [hstatus]
    exact hnotices.2
  have hlit : t.lamps = { s.lamps with lamps := t.lamps.lamps, fan := t.lamps.fan } := by
    rw [hlamps, checked]
    simp only
    split <;> rfl
  have hsound : ({ t.sound with sample := s.sound.sample } : Sound) = t.sound := by rw [← hsample]
  have hall : t = { chuffGiven s with
      clock := t.clock, timers := t.timers, motion := t.motion, lamps := t.lamps, xm := t.xm
      port := { (chuffGiven s).port with notice := t.port.notice }, sound := t.sound, status := t.status } := by
    conv_lhs => rw [hrest]
    rw [hclock, htimers, hmotion, hlamps, hstatus]
    have hwhole : t.sound = { (checked s).sound with
        voices := t.sound.voices, master := (t.xm.read 0x30).toNat } := by
      conv_lhs => rw [hrest]
    rw [← hwhole]
    rfl
  rw [hsound, ← hlit, ← hcount, ← hport, hclock, ← htimers, ← hclock]
  refine hall.trans ?_
  conv_lhs => rw [hframe]

/-- A chuff that fires, on the lamps, the fan and voice 1 (R154, R168, R180). -/
theorem chuff_given {s : State} (hwf : s.xm.wf = true) (hv : voicesLawful s)
    (hfires : chuffFires s (frameAngle s) = true) (clip : Nat) (hclip : clip = chuffClip s) :
    voiceGiven s (chuffGiven s) 1 clip .chuff (fun e =>
      freshVoice clip e (if s.soundSet.driftDuty ≤ (match s.bridges.held with
          | .drive d => d.duty
          | .off | .brake | .coast => 0) then s.soundSet.workVolume else s.soundSet.driftVolume)
        (max 0x40 (min 0x400 e.basePitch)) (some (if e.kind = 1 then 1 else 0)) 3 .chuff (s.sound.startCount + 1)) := by
  subst hclip
  rw [chuffGiven, if_pos hfires]
  exact s.startOrFault_given 1 (chuffClip s) .chuff (chuffFields s) hwf hv (by decide) (by decide)

theorem chuffGiven_voice {s : State} (hwf : s.xm.wf = true) (hv : voicesLawful s) {k : Nat}
    (h : k ≠ 1 ∨ chuffFires s (frameAngle s) = false) : (chuffGiven s).sound.voice k = s.sound.voice k := by
  obtain ⟨-, -, -, -, v, -, hcalm, hframe⟩ := chuffGiven_reaches hwf hv
  by_cases hfires : chuffFires s (frameAngle s) = true
  · have hne : k ≠ 1 := h.resolve_right fun c => absurd (hfires.symm.trans c) (by decide)
    rw [hframe, if_pos hfires]
    simp [Sound.voice, List.getD_eq_getElem?_getD, List.getElem?_set_ne (Ne.symm hne)]
  · rw [hcalm (Bool.eq_false_iff.2 hfires)]

/-- Voice 1 keeps through the frame what a chuff has made of it. -/
theorem chuffed_voice {s w t : State} (hwf : s.xm.wf = true) (hv : voicesLawful s)
    (hfires : chuffFires s (frameAngle s) = true)
    (hfade : fadesAt (3 ≤ s.supply.shed) ((checked s).sound.voice 1) (w.sound.voice 1))
    (hlength : w.sound.voices.length = 8) (hretry : retriesAt (3 ≤ s.supply.shed) ((tuned w).sound.voice 1)
      (t.sound.voice 1)) : t.sound.voice 1 = (chuffGiven s).sound.voice 1 := by
  obtain ⟨-, -, -, -, v, hstate, -, hframe⟩ := chuffGiven_reaches hwf hv
  have hone : 1 < s.sound.voices.length := by rw [hv.1]; decide
  have hvoice : (chuffGiven s).sound.voice 1 = v := by
    rw [hframe, if_pos hfires]
    exact voiceIs_voice s 1 v hone
  have hvoice' : (checked s).sound.voice 1 = v := hvoice
  rw [hvoice'] at hfade
  obtain ⟨hidle, hplaying, -, -⟩ := voice_through (k := 1) (step := 0) hfade (by
    rw [tuned_voice hlength (by decide), if_neg fun c => absurd c.1 (by decide),
      if_neg fun c => absurd c.1 (by decide)]) hretry
  rw [hvoice]
  rcases hstate with h | h
  · exact hidle h
  · exact (hplaying h).trans (if_neg (by decide))

/-- Settles O47: the frame is the chuff check, the fades, the engine's pitch with the master volume, and the retries;
each voice goes through them by the laws of its turns. -/
theorem mixerFramesDoTheFrameWork : Obligations.MixerFramesDoTheFrameWork := by
  intro s hwf hv
  obtain ⟨w, t, ht, -, -, hfade, hfrozen, hfades, hretry, hstays, hretries, hpitch⟩ := mixer_parts hwf hv
  obtain ⟨hsame, hrest⟩ := rest_frame hfade hretry
  obtain ⟨hclock, htimers, hmotion, hlamps, hangle, hrotation, hcount, hbad, huse, hstatus, -⟩ :=
    checked_parts hwf hv hrest
  have hwhole := mixer_frame hwf hv hrest
  obtain ⟨hwfw, hlawfulw, -, hfadek, hframew⟩ := hfade
  obtain ⟨-, hlawfult, -, hretryk, -⟩ := hretry
  obtain ⟨-, hlawfulg, hsameg, -, -, -, hcalm, -⟩ := chuffGiven_reaches hwf hv
  refine ⟨t, congrArg Host.Outcome.next ht, ?_, fun hsensed => ?_, ?_, ?_, sameBut_trans hsameg hsame, hwhole⟩
  · rintro phi rfl
    refine ⟨hmotion.trans (framed_motion s), fun hlost => ?_⟩
    rw [hangle, frameAngle_cam hlost, if_neg hlost]
  · rw [hangle, hclock]
    exact frameAngle_sensed hsensed
  · conv_lhs => rw [hrest]
  · intro fires hfires
    have hfires : fires = chuffFires s (frameAngle s) := by
      rw [hfires, hangle]
      rfl
    have hpitched : tuned w = { w with sound := { w.sound with
        master := (w.xm.read 0x30).toNat
        voices := w.sound.voices.set 0 (if (w.sound.voice 0).sounds then { w.sound.voice 0 with
          step := max 0x40 (min 0x400 (s.soundSet.basePitch
            + (if s.motion.sensor = .ok then s.motion.m else s.traction.c) * s.soundSet.slope / 4096)) }
          else w.sound.voice 0) } } := by rw [← hpitch]; rfl
    refine ⟨chuffGiven s, checked s, w, tuned w, fun hyes => ?_, fun hno => ?_, hcount, hbad, huse, hstatus,
      fun hcold => ?_, ?_, hfrozen, hfades, hpitched, hstays, hretries, ?_⟩
    · have hyes : chuffFires s (frameAngle s) = true := hfires ▸ hyes
      have hlit : t.lamps = chuffLamps s.lamps s.lampSet.puffWidth (framed s).clock := by
        rw [hlamps, checked]
        exact if_pos hyes
      refine ⟨?_, fun k l hl => ?_, ?_, fun clip hclip => chuff_given hwf hv hyes clip hclip, ?_⟩
      · rw [hrotation, checked]
        exact if_pos hyes
      · rw [hlit]
        exact chuffLamps_get hl
      · rw [hlit, hclock]
        rfl
      · have hone := chuffed_voice hwf hv hyes (hfadek 1 (by decide)) hlawfulw.1 (hretryk 1 (by decide))
        rw [get_of_voice (by rw [hlawfult.1]; decide), hone,
          get_of_voice (by rw [hlawfulg.1]; decide)]
    · have hno : chuffFires s (frameAngle s) = false := hfires ▸ hno
      have hnot : ¬chuffFires s (frameAngle s) = true := Bool.eq_false_iff.1 hno
      refine ⟨hcalm hno, ?_, ?_⟩
      · rw [hlamps, checked]
        exact if_neg hnot
      · rw [hrotation, checked]
        exact if_neg hnot
    · have htw := hstays hcold
      have hwu := hfrozen hcold
      rw [htw, hwu]
      exact ⟨rfl, rfl⟩
    · rw [hclock, htimers, hmotion, hlamps, hangle, hrotation]
      rfl
    · rintro k v hk hout tune rfl
      have hlt : k < 8 := by
        have := lt_of_get hk
        rwa [hv.1] at this
      have hkept : (checked s).sound.voice k = v := by
        rw [← voice_of_get hk]
        exact chuffGiven_voice hwf hv (hfires ▸ hout)
      have hfade := hfadek k hlt
      rw [hkept] at hfade
      have hx : (tuned w).sound.voice k = if k = 0 ∧ (w.sound.voice k).sounds = true then
          { w.sound.voice k with step := enginePitch w } else w.sound.voice k := by
        rw [tuned_voice hlawfulw.1 hlt]
        by_cases h : k = 0
        · subst h
          rfl
        · rw [if_neg fun c => h c.1, if_neg fun c => h c.1]
      obtain ⟨hidle, hplaying, hfading, hstarved⟩ := voice_through hfade hx (hretryk k hlt)
      rw [get_of_voice (by rw [hlawfult.1]; exact hlt)]
      rw [hpitch] at hplaying hfading
      exact ⟨fun h => congrArg some (hidle h), fun h => congrArg some (hplaying h),
        fun h => congrArg some (hfading h), fun h hcold => congrArg some (hstarved h hcold)⟩

end Sys2Proof.MixerFrames
end

section
/-! PROOFS. The status record and its updates (R24, R25, R193). -/

namespace Sys2Proof.StatusUpdates
open Sys2Proof Sys2Proof.Machine Sys2Proof.Safety Sys2Proof.LampLoads

/-! ## The writes of an update (R24) -/

/-- Fields of the record do not read memory or the generation. -/
theorem statusByte_put (s : State) (m : Memory) (g : BitVec 16) (off : Nat) :
    statusByte { s with xm := m, status := { s.status with generation := g } } off = statusByte s off := rfl

theorem read_writePair {m : Memory} {a : Nat} (x y : Byte) (h : m.wf = true) (ha : a + 1 < 65536) {b : Nat}
    (hb : b < 65536) : (m.writeBytes a [x, y]).read b = if b = a then x else if b = a + 1 then y else m.read b := by
  have hfirst : (m.write a x).wf = true := Memory.wf_write a x h
  simp only [Memory.writeBytes]
  rw [Memory.read_write _ _ _ hfirst, Memory.read_write _ _ _ h, Nat.mod_eq_of_lt (show a + 1 < 65536 by omega),
    Nat.mod_eq_of_lt hb, Nat.mod_eq_of_lt (show a < 65536 by omega)]
  by_cases hlow : b = a
  · subst hlow
    rw [if_neg (by omega), if_pos rfl, if_pos rfl]
  · rw [if_neg hlow]
    by_cases hhigh : b = a + 1
    · rw [if_pos hhigh.symm, if_pos hhigh]
    · rw [if_neg (Ne.symm hhigh), if_neg (Ne.symm hlow), if_neg hhigh]

/-- A run of words: each byte of theirs is the field of its offset, every other byte is as it was. -/
theorem writeStatusWords_spec (n k : Nat) (s : State) (hwf : s.xm.wf = true) (hk : k + n ≤ 128) :
    ∃ m : Memory, State.writeStatusWords k n s = { s with xm := m } ∧ m.wf = true
      ∧ ∀ b, b < 65536 → m.read b = if 0x100 + 2 * k ≤ b ∧ b < 0x100 + 2 * (k + n) then statusByte s (b - 0x100)
        else s.xm.read b := by
  induction n generalizing k s with
  | zero => exact ⟨s.xm, rfl, hwf, fun b _ => (if_neg (by omega)).symm⟩
  | succ n ih =>
    have hstep : (s.writeStatusWord k).xm.wf = true := Memory.wf_writeBytes _ _ hwf
    obtain ⟨m, hm, hmwf, hreads⟩ := ih (k + 1) (s.writeStatusWord k) hstep (by omega)
    refine ⟨m, hm, hmwf, fun b hb => ?_⟩
    have hkept : ∀ off, statusByte (s.writeStatusWord k) off = statusByte s off := fun _ => rfl
    have hword := read_writePair (a := 0x100 + 2 * k) (statusByte s (2 * k)) (statusByte s (2 * k + 1)) hwf (by omega) hb
    have hxm : (s.writeStatusWord k).xm.read b = if b = 0x100 + 2 * k then statusByte s (2 * k)
        else if b = 0x100 + 2 * k + 1 then statusByte s (2 * k + 1) else s.xm.read b := hword
    rw [hreads b hb, hkept, hxm]
    by_cases hlater : 0x100 + 2 * (k + 1) ≤ b ∧ b < 0x100 + 2 * (k + 1 + n)
    · rw [if_pos hlater, if_pos (by omega)]
    · rw [if_neg hlater]
      by_cases hlow : b = 0x100 + 2 * k
      · rw [if_pos hlow, if_pos (by omega), show b - 0x100 = 2 * k by omega]
      · rw [if_neg hlow]
        by_cases hhigh : b = 0x100 + 2 * k + 1
        · rw [if_pos hhigh, if_pos (by omega), show b - 0x100 = 2 * k + 1 by omega]
        · rw [if_neg hhigh, if_neg (by omega)]

/-- The generations that an update writes from word `k` on. -/
def generations (k : Nat) : BitVec 16 := if k = 0 then 2 else 1

theorem finishUpdate_spec (s : State) (k : Nat) (hwf : s.xm.wf = true) : ∃ m : Memory,
    s.finishUpdate k = { s with
      xm := m, lastGranted := .statusWriter
      status := { s.status with generation := s.status.generation + generations k } }
    ∧ m.wf = true
    ∧ ∀ b, b < 65536 → m.read b =
      if b = 0x100 then loByte (s.status.generation + generations k).toNat
      else if b = 0x101 then hiByte (s.status.generation + generations k).toNat
      else if 0x100 + 2 * max 1 k ≤ b ∧ b < 0x200 then statusByte s (b - 0x100) else s.xm.read b := by
  have hrest : ∀ u : State, u.xm.wf = true → (∀ off, statusByte u off = statusByte s off) →
      ∃ m : Memory, (State.writeStatusWords (max 1 k) (128 - max 1 k) u).writeGeneration.granted .statusWriter
        = { u with
          xm := m, lastGranted := .statusWriter
          status := { u.status with generation := u.status.generation + 1 } }
        ∧ m.wf = true ∧ ∀ b, b < 65536 → m.read b =
          if b = 0x100 then loByte (u.status.generation + 1).toNat
          else if b = 0x101 then hiByte (u.status.generation + 1).toNat
          else if 0x100 + 2 * max 1 k ≤ b ∧ b < 0x200 then statusByte s (b - 0x100) else u.xm.read b := by
    intro u hu hfields
    by_cases hwords : max 1 k ≤ 128
    · obtain ⟨m, hm, hmwf, hreads⟩ := writeStatusWords_spec (128 - max 1 k) (max 1 k) u hu (by omega)
      refine ⟨m.writeBytes 0x100 (bytes16 (u.status.generation + 1).toNat), ?_, Memory.wf_writeBytes _ _ hmwf,
        fun b hb => ?_⟩
      · rw [hm]
        rfl
      · have hpair := read_writePair (loByte (u.status.generation + 1).toNat)
          (hiByte (u.status.generation + 1).toNat) hmwf (show 0x100 + 1 < 65536 by decide) hb
        rw [bytes16, hpair, hreads b hb, hfields, show max 1 k + (128 - max 1 k) = 128 by omega]
    · have hnone : 128 - max 1 k = 0 := by omega
      refine ⟨u.xm.writeBytes 0x100 (bytes16 (u.status.generation + 1).toNat), ?_, Memory.wf_writeBytes _ _ hu,
        fun b hb => ?_⟩
      · rw [hnone]
        rfl
      · have hpair := read_writePair (loByte (u.status.generation + 1).toNat)
          (hiByte (u.status.generation + 1).toNat) hu (show 0x100 + 1 < 65536 by decide) hb
        rw [bytes16, hpair]
        by_cases h0 : b = 0x100
        · rw [if_pos h0, if_pos h0]
        · rw [if_neg h0, if_neg h0]
          by_cases h1 : b = 0x101
          · rw [if_pos h1, if_pos h1]
          · rw [if_neg h1, if_neg h1, if_neg (by omega)]
  unfold State.finishUpdate generations
  by_cases hk : k = 0
  · simp only [if_pos hk]
    have hbegun : s.writeGeneration.xm.wf = true := Memory.wf_writeBytes _ _ hwf
    obtain ⟨m, hm, hmwf, hreads⟩ := hrest s.writeGeneration hbegun (fun _ => rfl)
    have htwice : s.status.generation + 1 + 1 = s.status.generation + 2 := by
      rw [BitVec.add_assoc]
      rfl
    have hgeneration : s.writeGeneration.status.generation + 1 = s.status.generation + 2 := htwice
    rw [hgeneration] at hm hreads
    refine ⟨m, hm, hmwf, fun b hb => ?_⟩
    rw [hreads b hb]
    have hpair := read_writePair (loByte (s.status.generation + 1).toNat) (hiByte (s.status.generation + 1).toNat) hwf
      (show 0x100 + 1 < 65536 by decide) hb
    have hxm : s.writeGeneration.xm.read b = (s.xm.writeBytes 0x100 [loByte (s.status.generation + 1).toNat,
        hiByte (s.status.generation + 1).toNat]).read b := rfl
    by_cases h0 : b = 0x100
    · rw [if_pos h0, if_pos h0]
    · rw [if_neg h0, if_neg h0]
      by_cases h1 : b = 0x101
      · rw [if_pos h1, if_pos h1]
      · rw [if_neg h1, if_neg h1, hxm, hpair, if_neg h0, if_neg h1]
  · simp only [if_neg hk]
    exact hrest s hwf (fun _ => rfl)

/-! ## The fields of the record (11.2, R193) -/

theorem length_statusBytes (s : State) : (statusBytes s).length = 109 := rfl

/-- A memory that holds the status record of a state. -/
def showsStatus (m : Memory) (s : State) : Prop :=
  ∀ b, 0x102 ≤ b → b < 0x200 → m.read b = statusByte s (b - 0x100)

section
variable {m : Memory} {s : State}

theorem showsStatus_read (h : showsStatus m s) {off : Nat} (hoff : off < 0xFE) :
    m.read (0x102 + off) = (statusBytes s).getD off 0 := by
  rw [h (0x102 + off) (by omega) (by omega), statusByte, show 0x102 + off - 0x100 - 2 = off by omega]

theorem showsStatus_fields (h : showsStatus m s) (start n : Nat) (hfit : start + n ≤ 109) :
    m.readBytes (0x102 + start) n = ((statusBytes s).drop start).take n :=
  LoggedFrames.readBytes_of_reads (fun k hk => showsStatus_read h (by rw [length_statusBytes] at hk; omega)) start n
    (by rw [length_statusBytes]; exact hfit)

theorem shows_run (h : showsStatus m s) : m.readBytes 0x102 3 =
    [if s.isRun then 2 else if s.port.start.isSome then 1 else 0, s.port.startFault.code,
      BitVec.ofNat 8 s.sets.chain.length] := by
  have hcode : loByte (runCode s) = if s.isRun then 2 else if s.port.start.isSome then 1 else 0 := by
    unfold runCode
    split
    · rfl
    · split <;> rfl
  rw [← hcode]
  exact showsStatus_fields h 0 3 (by decide)

theorem shows_chain (h : showsStatus m s) {k : Nat} (hk : k < 4) : m.read (0x105 + k) = (match s.sets.chain[k]? with
    | some e => BitVec.ofNat 8 e.index
    | none => 0xFF) := by
  have hread : m.read (0x105 + k) = loByte ((s.sets.chain[k]?.map ChainEntry.index).getD 255) := by
    have := showsStatus_read h (off := 3 + k) (by omega)
    rw [show 0x105 + k = 0x102 + (3 + k) by omega, this]
    match k, hk with
    | 0, _ => rfl
    | 1, _ => rfl
    | 2, _ => rfl
    | 3, _ => rfl
  rw [hread]
  cases s.sets.chain[k]? <;> rfl

theorem loByte_boolNat (b : Bool) : loByte (boolNat b) = if b then 1 else 0 := by cases b <;> rfl

theorem boolNat_eq (b : Bool) : boolNat b = if b then 1 else 0 := rfl

theorem shows_state (h : showsStatus m s) : m.readBytes 0x109 3 = [if s.sets.clamped then 1 else 0,
    BitVec.ofNat 8 s.traction.state.code,
    BitVec.ofNat 8 ((match s.traction.direction with | .forward => 0 | .reverse => 1)
      + (if s.traction.pending then 2 else 0) + if s.traction.latch then 4 else 0)] := by
  have hfields : m.readBytes 0x109 3 = [loByte (boolNat s.sets.clamped), loByte s.traction.state.code,
      loByte (s.traction.direction.code + 2 * boolNat s.traction.pending + 4 * boolNat s.traction.latch)] :=
    showsStatus_fields h 7 3 (by decide)
  rw [hfields, loByte_boolNat]
  cases s.traction.direction <;> cases s.traction.pending <;> cases s.traction.latch <;> rfl

theorem shows_motion (h : showsStatus m s) : m.readBytes 0x10C 8 = bytes16 s.traction.t ++ bytes16 s.traction.c
    ++ bytes16 s.traction.u ++ bytes16 s.motion.m := showsStatus_fields h 10 8 (by decide)

theorem shows_bridges (h : showsStatus m s) : m.readBytes 0x114 5 = [BitVec.ofNat 8 (wheelAngle s),
    BitVec.ofNat 8 s.motion.sensor.code, BitVec.ofNat 8 s.bridges.a.state.code, BitVec.ofNat 8 s.bridges.b.state.code,
    BitVec.ofNat 8 ((if s.bridges.a.chopFlag then 1 else 0) + if s.bridges.b.chopFlag then 2 else 0)] := by
  have hfields : m.readBytes 0x114 5 = [loByte (wheelAngle s), loByte s.motion.sensor.code,
      loByte s.bridges.a.state.code, loByte s.bridges.b.state.code,
      loByte (boolNat s.bridges.a.chopFlag + 2 * boolNat s.bridges.b.chopFlag)] :=
    showsStatus_fields h 18 5 (by decide)
  rw [hfields]
  cases s.bridges.a.chopFlag <;> cases s.bridges.b.chopFlag <;> rfl

theorem shows_balance (h : showsStatus m s) : m.readBytes 0x119 4 = [
    (match s.balance.run with | none => 0 | some r => if r.held then 2 else 1),
    s.bridges.a.episodes, s.bridges.b.episodes,
    (match s.balance.run with
      | none => 0
      | some r => if r.step = 1 ∧ r.driving = false then 0 else BitVec.ofNat 8 r.step)] := by
  have hfields : m.readBytes 0x119 4 = [loByte (balanceCode s), s.bridges.a.episodes, s.bridges.b.episodes,
      loByte (balanceStepShown s)] := showsStatus_fields h 23 4 (by decide)
  rw [hfields]
  unfold balanceCode balanceStepShown
  cases s.balance.run with
  | none => rfl
  | some r =>
    by_cases hwaits : r.step = 1 ∧ r.driving = false
    · simp only [if_pos hwaits]
      cases r.held <;> rfl
    · simp only [if_neg hwaits]
      cases r.held <;> rfl

theorem shows_lease (h : showsStatus m s) : m.readBytes 0x11D 5 = (match s.radio.lease with
    | .none => [0, 0xFF, if s.radio.failsafe then 2 else 0, 0, 0]
    | .radio sender cls _ => [1, BitVec.ofNat 8 cls, if s.radio.failsafe then 2 else 0] ++ bytes16 sender
    | .onBoard mark =>
      [2, 0xFF, BitVec.ofNat 8 ((if mark then 1 else 0) + if s.radio.failsafe then 2 else 0), 0, 0]) := by
  have hfields : m.readBytes 0x11D 5 = [loByte s.radio.lease.kindCode, loByte s.radio.lease.classCode,
      loByte (boolNat s.radio.lease.markSet + 2 * boolNat s.radio.failsafe)] ++ bytes16 s.radio.lease.senderCode :=
    showsStatus_fields h 27 5 (by decide)
  rw [hfields]
  cases s.radio.lease with
  | none => cases s.radio.failsafe <;> rfl
  | radio sender cls heard => cases s.radio.failsafe <;> rfl
  | onBoard mark => cases mark <;> cases s.radio.failsafe <;> rfl

theorem shows_request (h : showsStatus m s) : m.readBytes 0x122 6 = [BitVec.ofNat 8 s.radio.request.throttle,
    (match s.radio.request.direction with | .forward => 0 | .reverse => 1)]
      ++ bytes32 s.radio.request.functions.toNat := by
  have hfields : m.readBytes 0x122 6 = [loByte s.radio.request.throttle, loByte s.radio.request.direction.code]
      ++ bytes32 s.radio.request.functions.toNat := showsStatus_fields h 32 6 (by decide)
  rw [hfields]
  cases s.radio.request.direction <;> rfl

theorem shows_consist (h : showsStatus m s) : m.readBytes 0x128 4 = [BitVec.ofNat 8 s.radio.consist.number,
    (match s.radio.consist.role with | .lead => 0 | .mid => 1 | .trail => 2),
    if s.radio.consist.reversed then 1 else 0,
    if s.radio.zone.present then BitVec.ofNat 8 s.radio.zone.zone else 0] := by
  have hfields : m.readBytes 0x128 4 = [loByte s.radio.consist.number, loByte s.radio.consist.role.code,
      loByte (boolNat s.radio.consist.reversed), loByte (if s.radio.zone.present then s.radio.zone.zone else 0)] :=
    showsStatus_fields h 38 4 (by decide)
  rw [hfields, loByte_boolNat]
  cases s.radio.consist.role <;> cases s.radio.zone.present <;> rfl

theorem shows_cap (h : showsStatus m s) : m.readBytes 0x12C 2 = bytes16 s.radio.zone.cap :=
  showsStatus_fields h 42 2 (by decide)

theorem shows_station (h : showsStatus m s) : m.readBytes 0x12E 2 = (match s.radio.station with
    | .none => [0, 0]
    | .braking _ => [1, 0]
    | .dwell _ ends => [2, BitVec.ofNat 8 ((ends - s.clock + 1023999999) / 1024000000)]) := by
  have hfields : m.readBytes 0x12E 2 = [loByte s.radio.station.code, loByte (remainingDwell s)] :=
    showsStatus_fields h 44 2 (by decide)
  rw [hfields]
  unfold remainingDwell
  cases s.radio.station <;> rfl

theorem shows_log (h : showsStatus m s) : m.readBytes 0x130 2 = [BitVec.ofNat 8 s.radio.logIndex,
    if s.radio.overflow then 1 else 0] := by
  have hfields : m.readBytes 0x130 2 = [loByte s.radio.logIndex, loByte (boolNat s.radio.overflow)] :=
    showsStatus_fields h 46 2 (by decide)
  rw [hfields, loByte_boolNat]
  rfl

/-- A run of fields that shows one thing of each of several owners. -/
theorem shows_each (h : showsStatus m s) {start n : Nat} {f : Nat → Byte} (hfit : start + n ≤ 109)
    (hrun : ((statusBytes s).drop start).take n = (List.range n).map f) {k : Nat} (hk : k < n) :
    m.read (0x102 + start + k) = f k := by
  have hfields := showsStatus_fields h start n hfit
  have hlength : k < (m.readBytes (0x102 + start) n).length := by rw [Memory.length_readBytes]; exact hk
  have hread := Memory.getElem_readBytes m (0x102 + start) n k hlength
  rw [← hread]
  simp only [hfields, hrun, List.getElem_map, List.getElem_range]

theorem shows_voice (h : showsStatus m s) (hvoices : s.sound.voices.length = 8) {k : Nat} {v : Voice}
    (hv : s.sound.voices[k]? = some v) : m.read (0x132 + k) = BitVec.ofNat 8 v.state.code := by
  have hk : k < 8 := hvoices ▸ (List.getElem?_eq_some_iff.1 hv).1
  have hvoice : s.sound.voice k = v := by simp [Sound.voice, List.getD_eq_getElem?_getD, hv]
  have hread := shows_each h (start := 0x30) (n := 8) (f := fun n => loByte (s.sound.voice n).state.code) (by decide)
    rfl hk
  rw [show 0x132 + k = 0x102 + 0x30 + k by omega, hread, hvoice]
  rfl

theorem shows_sound (h : showsStatus m s) : m.readBytes 0x13A 4 = [
    if s.sound.voices.any (fun v => decide (v.state = .starved)) then 1 else 0,
    (match s.sound.badClip with | some c => BitVec.ofNat 8 c | none => 0xFF),
    BitVec.ofNat 8 s.sound.badUse.code, s.status.faultCount] := by
  have hfields : m.readBytes 0x13A 4 = [loByte (boolNat (streamStarved s)), loByte (s.sound.badClip.getD 255),
      loByte s.sound.badUse.code, s.status.faultCount] := showsStatus_fields h 0x38 4 (by decide)
  rw [hfields, loByte_boolNat]
  cases s.sound.badClip <;> rfl

theorem joined_bytes {n : Nat} (h : n < 65536) : (loByte n).toNat + 256 * (hiByte n).toNat = n := by
  simp only [loByte, hiByte, BitVec.toNat_ofNat]
  omega

theorem shows_latched (h : showsStatus m s) :
    (∀ k, k < 14 → ((m.read 0x13E).toNat + 256 * (m.read 0x13F).toNat).testBit k = latchedBit s k)
    ∧ (m.read 0x13F).toNat < 64 := by
  have hlow : m.read 0x13E = loByte (latchedMask s) := showsStatus_read h (off := 0x3C) (by decide)
  have hhigh : m.read 0x13F = hiByte (latchedMask s) := showsStatus_read h (off := 0x3D) (by decide)
  have hlt : latchedMask s < 2 ^ 14 := maskOf_lt _ _
  rw [hlow, hhigh]
  refine ⟨fun k hk => ?_, ?_⟩
  · rw [joined_bytes (by omega), latchedMask, testBit_maskOf, decide_eq_true hk, Bool.true_and]
  · simp only [hiByte, BitVec.toNat_ofNat]
    omega

theorem shows_lamp (h : showsStatus m s) (hlamps : s.lamps.lamps.length = 10) {k : Nat} {l : Lamp}
    (hl : s.lamps.lamps[k]? = some l) : m.read (0x140 + k) = BitVec.ofNat 8 l.shown
      ∧ m.read (0x14A + k) = BitVec.ofNat 8 l.lastKind.code ∧ m.read (0x154 + k) = l.episodes := by
  have hk : k < 10 := hlamps ▸ (List.getElem?_eq_some_iff.1 hl).1
  have hlamp : s.lamps.lamp k = l := by simp [LampUnit.lamp, List.getD_eq_getElem?_getD, hl]
  have hshown := shows_each h (start := 0x3E) (n := 10) (f := fun n => loByte (s.lamps.lamp n).shown) (by decide) rfl hk
  have hkind := shows_each h (start := 0x48) (n := 10) (f := fun n => loByte (s.lamps.lamp n).lastKind.code) (by decide)
    rfl hk
  have hepisodes := shows_each h (start := 0x52) (n := 10) (f := fun n => (s.lamps.lamp n).episodes) (by decide) rfl hk
  rw [hlamp] at hshown hkind hepisodes
  exact ⟨hshown, hkind, hepisodes⟩

theorem shows_smoke (h : showsStatus m s) : m.readBytes 0x15E 4 = [BitVec.ofNat 8 s.lamps.heater.state.code,
    BitVec.ofNat 8 ((if s.lamps.heater.noHeat then 1 else 0) + (if s.lamps.heater.dry then 2 else 0)
      + if s.lamps.heater.sensor then 4 else 0),
    if s.lamps.heater.sensor then 1 else 0, BitVec.ofNat 8 s.lamps.fan.state.code] := by
  have hfields : m.readBytes 0x15E 4 = [loByte s.lamps.heater.state.code,
      loByte (boolNat s.lamps.heater.noHeat + 2 * boolNat s.lamps.heater.dry + 4 * boolNat s.lamps.heater.sensor),
      loByte (boolNat s.lamps.heater.sensor), loByte s.lamps.fan.state.code] := showsStatus_fields h 0x5C 4 (by decide)
  rw [hfields]
  cases s.lamps.heater.noHeat <;> cases s.lamps.heater.dry <;> cases s.lamps.heater.sensor <;> rfl

theorem shows_lastT (h : showsStatus m s) : m.readBytes 0x162 2 = bytes16 s.lamps.heater.lastT :=
  showsStatus_fields h 0x60 2 (by decide)

theorem shows_levels (h : showsStatus m s) : m.readBytes 0x164 4 = [BitVec.ofNat 8 s.supply.state.code,
    BitVec.ofNat 8 s.supply.level, BitVec.ofNat 8 s.supply.thermal, BitVec.ofNat 8 s.supply.shed] :=
  showsStatus_fields h 0x62 4 (by decide)

theorem shows_supply (h : showsStatus m s) : m.readBytes 0x168 7 = bytes16 s.supply.vtrk ++ bytes16 s.supply.vsto
    ++ bytes16 (BitVec.ofInt 16 s.supply.die).toNat ++ [if s.supply.charge then 1 else 0] := by
  have hfields : m.readBytes 0x168 7 = bytes16 s.supply.vtrk ++ bytes16 s.supply.vsto
      ++ bytes16 (BitVec.ofInt 16 s.supply.die).toNat ++ [loByte (boolNat s.supply.charge)] :=
    showsStatus_fields h 0x66 7 (by decide)
  rw [hfields, loByte_boolNat]

/-- The bytes of the record that no field names are 0 (R193). -/
theorem shows_rest (h : showsStatus m s) {a : Nat} (ha : a < 0x91) : m.read (0x16F + a) = 0 := by
  have hread := showsStatus_read h (off := 0x6D + a) (by omega)
  rw [show 0x16F + a = 0x102 + (0x6D + a) by omega, hread, List.getD_eq_default]
  rw [length_statusBytes]
  omega

end

/-! ## The obligation -/

theorem statusUpdateEnd_eq {s : State} {k : Nat} (hk : s.status.updating = some k) (hreset : s.port.reset = none) :
    statusUpdateEnd s = (s.finishUpdate k).endUpdate := by
  unfold statusUpdateEnd
  rw [hk, hreset]
  rfl

theorem readBytes_two (m : Memory) (a : Nat) : m.readBytes a 2 = [m.read a, m.read (a + 1)] := rfl

/-- The end of an update, as its memory and its frame (R24). -/
theorem update_ends {s : State} {k : Nat} (hwf : s.xm.wf = true) (hk : s.status.updating = some k)
    (hreset : s.port.reset = none) : ∃ t, exec .statusUpdateEnd s = .next t
      ∧ t.xm.readBytes 0x100 2 = bytes16 (s.status.generation + generations k).toNat
      ∧ (∀ b, 0x100 + 2 * max 1 k ≤ b → b < 0x200 → t.xm.read b = statusByte s (b - 0x100))
      ∧ sameBut s.xm t.xm (fun a => a = 0x100 ∨ a = 0x101 ∨ (0x100 + 2 * max 1 k ≤ a ∧ a < 0x200))
      ∧ t = { s with
          xm := t.xm, lastGranted := .statusWriter
          status := { s.status with
            generation := s.status.generation + generations k
            updating := if s.status.deferred then some 0 else none, deferred := false } } := by
  obtain ⟨m, hm, -, hreads⟩ := finishUpdate_spec s k hwf
  have hend : statusUpdateEnd s = { s with
      xm := m, lastGranted := .statusWriter
      status := { s.status with
        generation := s.status.generation + generations k
        updating := if s.status.deferred then some 0 else none, deferred := false } } := by
    rw [statusUpdateEnd_eq hk hreset, hm]
    rfl
  refine ⟨statusUpdateEnd s, rfl, ?_⟩
  rw [hend]
  refine ⟨?_, fun b hlow hhigh => ?_, fun a ha hout => ?_, rfl⟩
  · rw [readBytes_two]
    simp only
    rw [hreads 0x100 (by decide), hreads (0x100 + 1) (by decide), if_pos rfl, if_neg (by decide), if_pos rfl]
    rfl
  · simp only
    rw [hreads b (by omega), if_neg (by omega), if_neg (by omega), if_pos ⟨hlow, hhigh⟩]
  · simp only
    rw [hreads a ha, if_neg fun c => hout (.inl c), if_neg fun c => hout (.inr (.inl c)),
      if_neg fun c => hout (.inr (.inr c))]

theorem statusTimer_expires (s : State) : statusTimerExpiry s = { s with
    clock := max s.clock s.timers.status
    timers := { s.timers with status := max s.clock s.timers.status + 20 * 1024000 }
    status := if s.status.updating = none ∧ s.port.reset = none
      then { s.status with updating := some 0 } else { s.status with deferred := true } } := by
  simp only [statusTimerExpiry]
  cases hupdating : s.status.updating <;> cases hreset : s.port.reset <;>
    simp [State.reach, State.atClock, State.onTimers, State.onStatus, State.beginUpdate, hupdating, hreset, ms]

/-- Settles O53: the end of an update by the bytes it writes, and each field by its place in the record. -/
theorem statusUpdatesWriteTheRecord : Obligations.StatusUpdatesWriteTheRecord := by
  refine ⟨fun s => ⟨statusTimerExpiry s, rfl, ?_⟩, fun s hwf hupdating hreset hvoices hlamps => ?_,
    fun s k hwf hupdating hpos hreset => ?_⟩
  · rw [statusTimer_expires]
  · obtain ⟨t, ht, hgeneration, hfields, hsame, hframe⟩ := update_ends hwf hupdating hreset
    have hshows : showsStatus t.xm s := hfields
    exact ⟨t, ht, hgeneration, shows_run hshows, fun k hk => shows_chain hshows hk, shows_state hshows,
      shows_motion hshows, shows_bridges hshows, shows_balance hshows, shows_lease hshows, shows_request hshows,
      shows_consist hshows, shows_cap hshows, shows_station hshows, shows_log hshows,
      fun k v hv => shows_voice hshows hvoices hv, shows_sound hshows, (shows_latched hshows).1,
      (shows_latched hshows).2, fun k l hl => shows_lamp hshows hlamps hl, shows_smoke hshows, shows_lastT hshows,
      shows_levels hshows, shows_supply hshows, fun a ha => shows_rest hshows ha,
      sameBut_weaken hsame (fun a ha => by omega), hframe⟩
  · obtain ⟨t, ht, hgeneration, hfields, hsame, hframe⟩ := update_ends hwf hupdating hreset
    obtain ⟨u, hu, -, hfields', -, -⟩ := update_ends (s := { s with status := { s.status with updating := some 0 } })
      (k := 0) hwf rfl hreset
    have hone : generations k = 1 := if_neg (by omega)
    have hmax : max 1 k = k := by omega
    rw [hone] at hgeneration hframe
    rw [hmax] at hfields hsame
    refine ⟨t, ht, ⟨u, hu, fun a hhigh hlow => ?_⟩, hgeneration, hsame, hframe⟩
    rw [hfields a hlow hhigh, hfields' a (by omega) hhigh]
    rfl

end Sys2Proof.StatusUpdates
end

section
/-! PROOFS. Resets and the end of their writes to exchange memory (R13 to R15). -/

namespace Sys2Proof.ResetWrites
open Sys2Proof Sys2Proof.Machine Sys2Proof.Safety Sys2Proof.Notices Sys2Proof.StatusUpdates

/-! ## Memories that read alike -/

/-- Two canonical listings that list the same bytes are one. -/
theorem eq_of_lookup {m m' : Memory} {lo : Nat} (h : Memory.wfFrom lo m = true) (h' : Memory.wfFrom lo m' = true)
    (hsame : ∀ a, m.lookup a = m'.lookup a) : m = m' := by
  induction m generalizing lo m' with
  | nil =>
    cases m' with
    | nil => rfl
    | cons c rest =>
      obtain ⟨k, v⟩ := c
      simp only [Memory.wfFrom, Bool.and_eq_true, decide_eq_true_eq] at h'
      obtain ⟨⟨-, hv⟩, -⟩ := h'
      have hread := hsame k
      simp only [Memory.lookup, if_pos] at hread
      exact absurd hread.symm hv
  | cons c rest ih =>
    obtain ⟨k, v⟩ := c
    simp only [Memory.wfFrom, Bool.and_eq_true, decide_eq_true_eq] at h
    obtain ⟨⟨⟨hlo, hk⟩, hv⟩, hrest⟩ := h
    cases m' with
    | nil =>
      have hread := hsame k
      simp only [Memory.lookup, if_pos] at hread
      exact absurd hread hv
    | cons c' rest' =>
      obtain ⟨k', v'⟩ := c'
      simp only [Memory.wfFrom, Bool.and_eq_true, decide_eq_true_eq] at h'
      obtain ⟨⟨⟨hlo', hk'⟩, hv'⟩, hrest'⟩ := h'
      have hkk : k = k' := by
        rcases Nat.lt_trichotomy k k' with hlt | heq | hgt
        · have hread := hsame k
          simp only [Memory.lookup, if_pos, if_neg (Nat.ne_of_gt hlt)] at hread
          rw [Memory.lookup_of_wfFrom hrest' (by omega)] at hread
          exact absurd hread hv
        · exact heq
        · have hread := hsame k'
          simp only [Memory.lookup, if_pos, if_neg (Nat.ne_of_gt hgt)] at hread
          rw [Memory.lookup_of_wfFrom hrest (by omega)] at hread
          exact absurd hread.symm hv'
      subst hkk
      have hvv : v = v' := by
        have hread := hsame k
        simpa only [Memory.lookup, if_pos] using hread
      subst hvv
      congr 1
      refine ih hrest hrest' fun a => ?_
      by_cases hak : k = a
      · subst hak
        rw [Memory.lookup_of_wfFrom hrest (Nat.lt_succ_self k), Memory.lookup_of_wfFrom hrest' (Nat.lt_succ_self k)]
      · have hread := hsame a
        simpa only [Memory.lookup, if_neg hak] using hread

theorem lookup_high {m : Memory} {lo a : Nat} (h : Memory.wfFrom lo m = true) (ha : 65536 ≤ a) : m.lookup a = 0 := by
  induction m generalizing lo with
  | nil => rfl
  | cons c rest ih =>
    obtain ⟨k, v⟩ := c
    simp only [Memory.wfFrom, Bool.and_eq_true, decide_eq_true_eq] at h
    obtain ⟨⟨⟨-, hk⟩, -⟩, hrest⟩ := h
    simp only [Memory.lookup, if_neg (show k ≠ a by omega)]
    exact ih hrest

theorem eq_of_reads {m m' : Memory} (h : m.wf = true) (h' : m'.wf = true)
    (hsame : ∀ a, a < 65536 → m.read a = m'.read a) : m = m' := by
  refine eq_of_lookup h h' fun a => ?_
  by_cases ha : a < 65536
  · have hread := hsame a ha
    rwa [Memory.read, Memory.read, Nat.mod_eq_of_lt ha] at hread
  · rw [lookup_high h (Nat.le_of_not_lt ha), lookup_high h' (Nat.le_of_not_lt ha)]

/-! ## An update, whatever the memory -/

theorem writeStatusWords_put (n k : Nat) (s : State) : ∃ m : Memory, State.writeStatusWords k n s = { s with xm := m } := by
  induction n generalizing k s with
  | zero => exact ⟨s.xm, rfl⟩
  | succ n ih =>
    obtain ⟨m, hm⟩ := ih (k + 1) (s.writeStatusWord k)
    exact ⟨m, hm⟩

theorem finishUpdate_put (s : State) (k : Nat) : ∃ m : Memory, s.finishUpdate k = { s with
    xm := m, lastGranted := .statusWriter
    status := { s.status with generation := s.status.generation + generations k } } := by
  unfold State.finishUpdate generations
  by_cases hk : k = 0
  · simp only [if_pos hk]
    obtain ⟨m, hm⟩ := writeStatusWords_put (128 - max 1 k) (max 1 k) s.writeGeneration
    have htwice : s.status.generation + 1 + 1 = s.status.generation + 2 := by
      rw [BitVec.add_assoc]
      rfl
    rw [hm, ← htwice]
    exact ⟨_, rfl⟩
  · simp only [if_neg hk]
    obtain ⟨m, hm⟩ := writeStatusWords_put (128 - max 1 k) (max 1 k) s
    rw [hm]
    exact ⟨_, rfl⟩

/-! ## What the tasks of a reset reach -/

/-- What the writes of a reset reach beside memory: pending bits, the rotation, the start of the update and the log's
write index. -/
def rewrites (s t : State) : Prop :=
  (∃ bits, t.port = withNotice s.port bits)
  ∧ t = { s with
      xm := t.xm, lastGranted := t.lastGranted, port := t.port
      status := { s.status with updating := t.status.updating }
      radio := { s.radio with logIndex := t.radio.logIndex } }

theorem rewrites_refl (s : State) : rewrites s s := ⟨⟨[], (withNotice_nil s.port).symm⟩, rfl⟩

theorem rewrites_trans {s t u : State} (h : rewrites s t) (h' : rewrites t u) : rewrites s u := by
  obtain ⟨⟨bits, hport⟩, hframe⟩ := h
  obtain ⟨⟨bits', hport'⟩, hframe'⟩ := h'
  refine ⟨⟨bits ++ bits', ?_⟩, ?_⟩
  · rw [hport', hport, withNotice_flatten]
  · refine hframe'.trans ?_
    conv_lhs => rw [hframe]

theorem rewrites_keeps {s t : State} (h : rewrites s t) {k : Nat} (hk : s.port.notice.getLsbD k = true) :
    t.port.notice.getLsbD k = true := by
  obtain ⟨⟨bits, hport⟩, -⟩ := h
  rw [hport]
  exact withNotice_keeps bits hk

theorem rewrites_emptySegment (s : State) (clip : Nat) (second : Bool) : rewrites s (s.emptySegment clip second) := by
  unfold State.emptySegment
  split
  · exact ⟨⟨[.stream], rfl⟩, rfl⟩
  · exact rewrites_refl s

theorem rewrites_resetTask (s : State) (t : ResetTask) : rewrites s (s.resetTask t) := by
  have hxm : ∀ m : Memory, rewrites s { s with xm := m } := fun m => ⟨⟨[], (withNotice_nil s.port).symm⟩, rfl⟩
  cases t with
  | clearFrom a => exact hxm _
  | writeFamily => exact hxm _
  | writeRevision => exact hxm _
  | writeCause c => exact hxm _
  | readSlot n =>
    simp only [State.resetTask]
    split
    · exact ⟨⟨[.order], rfl⟩, rfl⟩
    · exact rewrites_refl s
  | writeSlotOutcome n => exact hxm _
  | writeSlotDone n => exact ⟨⟨[.order], rfl⟩, rfl⟩
  | clip n =>
    simp only [State.resetTask]
    split
    · exact rewrites_trans (rewrites_emptySegment s n false) (rewrites_emptySegment _ n true)
    · exact rewrites_refl s
  | segments n => exact rewrites_trans (rewrites_emptySegment s n false) (rewrites_emptySegment _ n true)
  | logIndex => exact ⟨⟨[], (withNotice_nil s.port).symm⟩, rfl⟩
  | beginStatus => exact ⟨⟨[], (withNotice_nil s.port).symm⟩, rfl⟩

theorem rewrites_tasks (l : List ResetTask) (s : State) : rewrites s (l.foldl State.resetTask s) := by
  induction l generalizing s with
  | nil => exact rewrites_refl s
  | cons t l ih => exact rewrites_trans (rewrites_resetTask s t) (ih _)

theorem resetTask_status (s : State) {t : ResetTask} (h : t ≠ .beginStatus) : (s.resetTask t).status = s.status := by
  cases t with
  | beginStatus => exact absurd rfl h
  | readSlot n =>
    simp only [State.resetTask]
    split <;> rfl
  | clip n =>
    simp only [State.resetTask]
    split
    · simp
    · rfl
  | segments n => simp [State.resetTask, State.resetAccess]
  | clearFrom | writeFamily | writeRevision | writeCause | writeSlotOutcome | writeSlotDone | logIndex => rfl

/-- An update stands begun after the tasks where one of them begins it. -/
theorem tasks_updating (l : List ResetTask) (s : State)
    (h : .beginStatus ∈ l ∨ s.status.updating = none ∨ s.status.updating = some 0) :
    (l.foldl State.resetTask s).status.updating.getD 0 = 0 := by
  induction l generalizing s with
  | nil =>
    rcases h with h | h | h
    · cases h
    · simp [h]
    · simp [h]
  | cons t l ih =>
    rw [List.foldl_cons]
    refine ih _ ?_
    by_cases hbegins : t = .beginStatus
    · subst hbegins
      exact .inr (.inr rfl)
    · rw [resetTask_status s hbegins]
      rcases h with h | h
      · exact .inl ((List.mem_cons.1 h).resolve_left (Ne.symm hbegins))
      · exact .inr h

theorem tasks_wf (l : List ResetTask) (s : State) (h : s.xm.wf = true) : (l.foldl State.resetTask s).xm.wf = true := by
  induction l generalizing s with
  | nil => exact h
  | cons t l ih => exact ih _ (State.resetTask_wf s t h)

/-- The end of a reset's writes, whatever has been made of them (R13). -/
theorem rewritesEnd_whole {s : State} {j : ResetJob} (hj : s.port.reset = some j) :
    (.beginStatus ∈ j.todo ∨ s.status.updating = none ∨ s.status.updating = some 0 →
        (resetRewritesEnd s).status.generation = s.status.generation + 2)
      ∧ (s.xm.wf = true → (resetRewritesEnd s).xm.readBytes 0x100 2
        = bytes16 (resetRewritesEnd s).status.generation.toNat)
      ∧ resetRewritesEnd s = { s with
          xm := (resetRewritesEnd s).xm
          lastGranted := .statusWriter
          port := { s.port with
            reset := none, notice := (resetRewritesEnd s).port.notice
            start := if j.startRequest then some {
                stage := .anchor, todo := (List.range 15).map fun k => 8 + 2 * k, image := []
                baseIndex := 0, stopRequest := false }
              else s.port.start }
          orders := { s.orders with
            sweep := if j.sweepRequest then some { pos := 0, copy := none, current := none }
              else s.orders.sweep }
          status := { s.status with
            generation := (resetRewritesEnd s).status.generation
            updating := if s.status.deferred then some 0 else none, deferred := false }
          radio := { s.radio with logIndex := (resetRewritesEnd s).radio.logIndex } } := by
  have hends : resetRewritesEnd s = ((j.todo.foldl State.resetTask s).finishUpdate
      ((j.todo.foldl State.resetTask s).status.updating.getD 0)).endReset j := by
    unfold resetRewritesEnd
    rw [hj]
  have hupdating := tasks_updating j.todo s
  have hwf := tasks_wf j.todo s
  obtain ⟨⟨bits, hport⟩, hframe⟩ := rewrites_tasks j.todo s
  generalize j.todo.foldl State.resetTask s = u at *
  generalize hk : u.status.updating.getD 0 = k at *
  obtain ⟨m, hm⟩ := finishUpdate_put u k
  have hgeneration : u.status.generation = s.status.generation := by rw [hframe]
  have hwhole : resetRewritesEnd s = { s with
      xm := m, lastGranted := .statusWriter
      port := { s.port with
        reset := none, notice := u.port.notice
        start := if j.startRequest then some StartJob.first else s.port.start }
      orders := { s.orders with sweep := if j.sweepRequest then some Sweep.first else s.orders.sweep }
      status := { s.status with
        generation := s.status.generation + generations k
        updating := if s.status.deferred then some 0 else none, deferred := false }
      radio := { s.radio with logIndex := u.radio.logIndex } } := by
    have hnotice : u.port = { s.port with notice := u.port.notice } := by rw [hport]; rfl
    generalize u.port.notice = notice at *
    generalize u.radio.logIndex = index at *
    rw [hends, hm, hgeneration]
    have hu : u = { s with
        xm := u.xm, lastGranted := u.lastGranted, port := { s.port with notice := notice }
        status := { s.status with updating := u.status.updating }, radio := { s.radio with logIndex := index } } := by
      rw [← hnotice]
      exact hframe
    rw [hu]
    unfold State.endReset
    cases j.sweepRequest <;> rfl
  refine ⟨fun h => ?_, fun h => ?_, ?_⟩
  · rw [hwhole]
    simp only
    rw [hupdating h]
    rfl
  · obtain ⟨m', hm', -, hreads⟩ := finishUpdate_spec u k (hwf h)
    have hmm : m' = m := by
      have := hm'.symm.trans hm
      exact congrArg State.xm this
    subst hmm
    rw [hwhole, readBytes_two]
    simp only
    rw [hreads 0x100 (by decide), hreads (0x100 + 1) (by decide), if_pos rfl, if_neg (by decide), if_pos rfl,
      hgeneration]
    rfl
  · rw [hwhole]
    rfl

/-! ## After a POWER reset (R14) -/

/-- The identity and the cause in a memory that has been cleared. -/
def powerMemory : Memory := [(0x000, 0x40), (0x001, 0x54), (0x002, 0x01), (0x004, 0x01)]

theorem clearFrom_zero (m : Memory) : m.clearFrom 0 = [] := by simp [Memory.clearFrom]

/-- The part once the tasks of a POWER reset are done. -/
def powerRewritten (s : State) : State :=
  { powerReset s with xm := powerMemory, status := { StatusWriter.atReset with updating := some 0 } }

theorem powerTasks_done (s : State) : powerTasks.foldl State.resetTask (powerReset s) = powerRewritten s := by
  have hmemory : (((s.xm.clearFrom 0).writeBytes 0 [0x40, 0x54]).writeBytes 2 [0x01, 0x00]).write 4 1 = powerMemory := by
    rw [clearFrom_zero]
    decide
  unfold powerRewritten
  rw [← hmemory]
  rfl

/-- A byte below 0200H once the update of a POWER reset has ended. -/
def powerByte (a : Nat) : Byte :=
  if a = 0x100 then loByte 2 else if a = 0x101 then hiByte 2
  else if 0x102 ≤ a ∧ a < 0x200 then statusByte State.reset (a - 0x100) else powerMemory.read a

theorem powerByte_grid : ∀ k, k < 16 → ∀ j, j < 32 → powerByte (32 * k + j) = State.reset.xm.read (32 * k + j) := by
  decide

/-- The record and the identity as a reset leaves them. -/
theorem powerByte_reset {a : Nat} (h : a < 512) : powerByte a = State.reset.xm.read a := by
  have hgrid := powerByte_grid (a / 32) (by omega) (a % 32) (by omega)
  rwa [Nat.div_add_mod] at hgrid

theorem lookup_reset_high {a : Nat} (h : 512 ≤ a) : State.reset.xm.lookup a = 0 := by
  have hne : ∀ n, n < 512 → n ≠ a := fun n hn => by omega
  simp only [State.reset, Memory.lookup]
  repeat rw [if_neg (hne _ (by decide))]

theorem lookup_power_high {a : Nat} (h : 512 ≤ a) : powerMemory.lookup a = 0 := by
  have hne : ∀ n, n < 512 → n ≠ a := fun n hn => by omega
  simp only [powerMemory, Memory.lookup]
  repeat rw [if_neg (hne _ (by decide))]

theorem powerUpdate_memory (s : State) : ((powerRewritten s).finishUpdate 0).xm = State.reset.xm := by
  obtain ⟨m, hm, hwf, hreads⟩ := finishUpdate_spec (powerRewritten s) 0 (show powerMemory.wf = true by decide)
  have hfields : ∀ off, statusByte (powerRewritten s) off = statusByte State.reset off := fun _ => rfl
  rw [hm]
  refine eq_of_reads hwf Memory.wf_reset fun a ha => ?_
  rw [hreads a ha, hfields]
  by_cases hlow : a < 512
  · rw [← powerByte_reset hlow]
    rfl
  · rw [if_neg (by omega), if_neg (by omega), if_neg (by omega), Memory.read, Nat.mod_eq_of_lt ha]
    exact (lookup_power_high (Nat.le_of_not_lt hlow)).trans (by
      rw [Memory.read, Nat.mod_eq_of_lt ha, lookup_reset_high (Nat.le_of_not_lt hlow)])

theorem powerReset_ends (s : State) : resetRewritesEnd (powerReset s)
    = { State.reset with pending := s.pending, free := s.free } := by
  have hends : resetRewritesEnd (powerReset s) = ((powerTasks.foldl State.resetTask (powerReset s)).finishUpdate
      ((powerTasks.foldl State.resetTask (powerReset s)).status.updating.getD 0)).endReset
      { todo := powerTasks, sweepRequest := false, startRequest := false } := rfl
  have hmemory := powerUpdate_memory s
  obtain ⟨m, hm⟩ := finishUpdate_put (powerRewritten s) 0
  have hzero : (powerRewritten s).status.updating.getD 0 = 0 := rfl
  rw [hm] at hmemory
  have hmemory : m = State.reset.xm := hmemory
  rw [hends, powerTasks_done, hzero, hm, hmemory]
  rfl

/-! ## The slots after a reset that keeps memory (R15) -/

/-- The slot reads TAKEN or HELD. -/
def slotStands (m : Memory) (n : Nat) : Prop := m.read (0x200 + 64 * n) = 2 ∨ m.read (0x200 + 64 * n) = 4

theorem slotHeldState_iff (m : Memory) (n : Nat) : slotHeldState m n = true ↔ slotStands m n := by
  have hbyte : ∀ (b : Byte) (k : Nat), k < 256 → (b.toNat = k ↔ b = BitVec.ofNat 8 k) := by
    intro b k hk
    rw [← BitVec.toNat_inj, BitVec.toNat_ofNat, Nat.mod_eq_of_lt hk]
  unfold slotHeldState slotStands slotState slotBase
  rw [Bool.or_eq_true, decide_eq_true_eq, decide_eq_true_eq, hbyte _ 2 (by decide), hbyte _ 4 (by decide)]
  rfl

/-- One slot at the writes of a reset: DONE with outcome RESET where it stood, ORDER raised. -/
theorem readSlot_rewrites (s : State) (n : Nat) (hwf : s.xm.wf = true) (hn : n < 32) :
    (slotStands s.xm n → (s.resetTask (.readSlot n)).xm.read (0x200 + 64 * n) = 3
      ∧ (s.resetTask (.readSlot n)).xm.read (0x228 + 64 * n) = 0x2F
      ∧ (s.resetTask (.readSlot n)).port.notice.getLsbD 0 = true)
    ∧ sameBut s.xm (s.resetTask (.readSlot n)).xm (fun a => slotStands s.xm n
      ∧ (a = 0x200 + 64 * n ∨ a = 0x228 + 64 * n)) := by
  by_cases hstands : slotStands s.xm n
  · have htask : s.resetTask (.readSlot n) = ((s.onXm fun m => m.write (slotBase n + 0x28)
        OutcomeCode.reset.code).writeSlotState n 3).raise .order := if_pos ((slotHeldState_iff _ _).2 hstands)
    have hfirst : (s.xm.write (0x228 + 64 * n) 0x2F).wf = true := Memory.wf_write _ _ hwf
    have hxm : (s.resetTask (.readSlot n)).xm = (s.xm.write (0x228 + 64 * n) 0x2F).write (0x200 + 64 * n) 3 := by
      rw [htask, show 0x228 + 64 * n = slotBase n + 0x28 by unfold slotBase; omega]
      rfl
    have hreads : ∀ a, a < 65536 → (s.resetTask (.readSlot n)).xm.read a = if 0x200 + 64 * n = a then 3
        else if 0x228 + 64 * n = a then 0x2F else s.xm.read a := by
      intro a ha
      rw [hxm, Memory.read_write _ _ _ hfirst, Memory.read_write _ _ _ hwf, Nat.mod_eq_of_lt ha,
        Nat.mod_eq_of_lt (show 0x200 + 64 * n < 65536 by omega), Nat.mod_eq_of_lt (show 0x228 + 64 * n < 65536 by omega)]
    refine ⟨fun _ => ⟨?_, ?_, ?_⟩, fun a ha hout => ?_⟩
    · rw [hreads _ (by omega), if_pos rfl]
    · rw [hreads _ (by omega), if_neg (by omega), if_pos rfl]
    · rw [htask, State.raise_port]
      exact raised_of_mem (b := .order) (List.mem_singleton.2 rfl)
    · rw [hreads a ha, if_neg fun c => hout ⟨hstands, .inl c.symm⟩, if_neg fun c => hout ⟨hstands, .inr c.symm⟩]
  · have htask : s.resetTask (.readSlot n) = s := if_neg fun c => hstands ((slotHeldState_iff _ _).1 c)
    rw [htask]
    exact ⟨fun c => absurd c hstands, sameBut_refl _ _⟩

theorem slots_rewritten (l : List Nat) (hnodup : l.Nodup) (hl : ∀ n ∈ l, n < 32) (s : State) (hwf : s.xm.wf = true)
    {t : State} (ht : t = (l.map ResetTask.readSlot).foldl State.resetTask s) :
    (∀ n ∈ l, slotStands s.xm n → t.xm.read (0x200 + 64 * n) = 3 ∧ t.xm.read (0x228 + 64 * n) = 0x2F
      ∧ t.port.notice.getLsbD 0 = true)
    ∧ sameBut s.xm t.xm (fun a => ∃ n ∈ l, slotStands s.xm n ∧ (a = 0x200 + 64 * n ∨ a = 0x228 + 64 * n)) := by
  induction l generalizing s with
  | nil =>
    subst ht
    exact ⟨fun n hn => absurd hn List.not_mem_nil, sameBut_refl _ _⟩
  | cons k l ih =>
    obtain ⟨hnew, hnodup⟩ := List.nodup_cons.1 hnodup
    have hk : k < 32 := hl k List.mem_cons_self
    obtain ⟨hhead, hsame⟩ := readSlot_rewrites s k hwf hk
    have hkeeps := rewrites_tasks (l.map ResetTask.readSlot) (s.resetTask (.readSlot k))
    rw [List.map_cons, List.foldl_cons] at ht
    rw [← ht] at hkeeps
    obtain ⟨htail, hlast⟩ := ih hnodup (fun n hn => hl n (List.mem_cons_of_mem _ hn)) (s.resetTask (.readSlot k))
      (State.resetTask_wf _ _ hwf) ht
    generalize s.resetTask (.readSlot k) = u at *
    have hstands : ∀ n ∈ l, (slotStands u.xm n ↔ slotStands s.xm n) := by
      intro n hn
      have hlt : n < 32 := hl n (List.mem_cons_of_mem _ hn)
      have hne : n ≠ k := fun c => hnew (c ▸ hn)
      unfold slotStands
      rw [hsame (0x200 + 64 * n) (by omega) fun c => by omega]
    refine ⟨fun n hn hs => ?_, sameBut_trans (sameBut_weaken hsame fun a ha => ⟨k, List.mem_cons_self, ha.1, ha.2⟩)
      (sameBut_weaken hlast fun a ha => ?_)⟩
    · rcases List.mem_cons.1 hn with rfl | hn
      · obtain ⟨hstate, hcode, hbit⟩ := hhead hs
        have hout : ∀ a, (a = 0x200 + 64 * n ∨ a = 0x228 + 64 * n) →
            ¬∃ j ∈ l, slotStands u.xm j ∧ (a = 0x200 + 64 * j ∨ a = 0x228 + 64 * j) := by
          rintro a ha ⟨j, hj, -, haj⟩
          have hne : j ≠ n := fun c => hnew (c ▸ hj)
          omega
        exact ⟨(hlast _ (by omega) (hout _ (.inl rfl))).trans hstate, (hlast _ (by omega) (hout _ (.inr rfl))).trans hcode,
          rewrites_keeps hkeeps hbit⟩
      · exact htail n hn ((hstands n hn).2 hs)
    · obtain ⟨n, hn, hs, ha⟩ := ha
      exact ⟨n, List.mem_cons_of_mem _ hn, (hstands n hn).1 hs, ha⟩

/-! ## The stream segments after a reset that keeps memory (R15) -/

/-- The state byte of a segment of a clip entry. -/
def segmentAt (n k : Nat) : Nat := 0x140E + 16 * n + k

theorem emptySegment_rewrites (s : State) (n : Nat) (second : Bool) (hwf : s.xm.wf = true) (hn : n < 64) {a : Nat}
    (ha : a = segmentAt n (boolNat second)) :
    (s.xm.read a = 3 → (s.emptySegment n second).xm.read a = 0
      ∧ (s.emptySegment n second).port.notice.getLsbD 2 = true)
    ∧ sameBut s.xm (s.emptySegment n second).xm (fun b => b = a ∧ s.xm.read b = 3) := by
  have haddr : segmentAddr n second = a := by
    rw [ha, segmentAddr, clipBase, segmentAt]
    omega
  have hlt : a < 65536 := by
    have hbit : boolNat second ≤ 1 := by cases second <;> decide
    rw [ha, segmentAt]
    omega
  by_cases hplays : s.xm.read a = 3
  · have hempty : s.emptySegment n second = (s.onXm fun m => m.write a 0).raise .stream := by
      rw [State.emptySegment, haddr, if_pos hplays, State.leaveSegment, haddr]
    rw [hempty]
    refine ⟨fun _ => ⟨Memory.read_write_same a 0 hwf, ?_⟩, fun b hb hout => ?_⟩
    · rw [State.raise_port]
      exact raised_of_mem (b := .stream) (List.mem_singleton.2 rfl)
    · have hne : a ≠ b := fun c => hout ⟨c.symm, c ▸ hplays⟩
      refine Memory.read_write_other 0 hwf ?_
      rw [Nat.mod_eq_of_lt hlt, Nat.mod_eq_of_lt hb]
      exact hne
  · have hkept : s.emptySegment n second = s := by rw [State.emptySegment, haddr, if_neg hplays]
    rw [hkept]
    exact ⟨fun c => absurd c hplays, sameBut_refl _ _⟩

/-- The entry reads as one of a STREAM clip. -/
def streams (m : Memory) (n : Nat) : Prop := m.read (0x1401 + 16 * n) = 2

theorem isStream_iff (m : Memory) (n : Nat) : isStream m n = true ↔ streams m n := by
  unfold isStream streams field8 clipBase
  rw [decide_eq_true_eq, show 0x1400 + 16 * n + 1 = 0x1401 + 16 * n by omega, ← BitVec.toNat_inj]
  rfl

/-- One clip entry at the writes of a reset: each PLAYING segment of a STREAM entry is EMPTY, STREAM raised. -/
theorem clip_rewrites (s : State) (n : Nat) (hwf : s.xm.wf = true) (hn : n < 64) :
    (streams s.xm n → ∀ k, k < 2 → s.xm.read (segmentAt n k) = 3 →
      (s.resetTask (.clip n)).xm.read (segmentAt n k) = 0 ∧ (s.resetTask (.clip n)).port.notice.getLsbD 2 = true)
    ∧ sameBut s.xm (s.resetTask (.clip n)).xm (fun a => streams s.xm n ∧ ∃ k, k < 2 ∧ a = segmentAt n k
      ∧ s.xm.read a = 3) := by
  by_cases hstreams : streams s.xm n
  · have htask : s.resetTask (.clip n) = (s.emptySegment n false).emptySegment n true :=
      if_pos ((isStream_iff _ _).2 hstreams)
    obtain ⟨hfirst, hsame⟩ := emptySegment_rewrites s n false hwf hn rfl
    obtain ⟨hsecond, hsame'⟩ := emptySegment_rewrites (s.emptySegment n false) n true (State.emptySegment_wf _ _ _ hwf)
      hn rfl
    have hkeeps := rewrites_emptySegment (s.emptySegment n false) n true
    rw [htask]
    generalize (s.emptySegment n false).emptySegment n true = t at *
    generalize s.emptySegment n false = u at *
    have hlow : segmentAt n (boolNat false) = 0x140E + 16 * n := rfl
    have hhigh : segmentAt n (boolNat true) = 0x140E + 16 * n + 1 := rfl
    have hplace : segmentAt n (boolNat true) < 65536 ∧ segmentAt n (boolNat false) < 65536 := by omega
    have hother : segmentAt n (boolNat true) ≠ segmentAt n (boolNat false) := by omega
    have hkept : u.xm.read (segmentAt n (boolNat true)) = s.xm.read (segmentAt n (boolNat true)) :=
      hsame _ hplace.1 fun c => hother c.1
    have hstays : t.xm.read (segmentAt n (boolNat false)) = u.xm.read (segmentAt n (boolNat false)) :=
      hsame' _ hplace.2 fun c => hother c.1.symm
    refine ⟨fun _ k hk hplays => ?_, sameBut_trans (sameBut_weaken hsame fun a ha =>
      ⟨hstreams, boolNat false, by decide, ha.1, ha.2⟩) (sameBut_weaken hsame' fun a ha =>
        ⟨hstreams, boolNat true, by decide, ha.1, ?_⟩)⟩
    · match k, hk with
      | 0, _ =>
        obtain ⟨hread, hbit⟩ := hfirst hplays
        exact ⟨hstays.trans hread, rewrites_keeps hkeeps hbit⟩
      | 1, _ => exact hsecond (hkept.trans hplays)
    · obtain ⟨rfl, hread⟩ := ha
      exact hkept.symm.trans hread
  · have htask : s.resetTask (.clip n) = s := if_neg fun c => hstreams ((isStream_iff _ _).1 c)
    rw [htask]
    exact ⟨fun c => absurd c hstreams, sameBut_refl _ _⟩

theorem clips_rewritten (l : List Nat) (hnodup : l.Nodup) (hl : ∀ n ∈ l, n < 64) (s : State) (hwf : s.xm.wf = true)
    {t : State} (ht : t = (l.map ResetTask.clip).foldl State.resetTask s) :
    (∀ n ∈ l, streams s.xm n → ∀ k, k < 2 → s.xm.read (segmentAt n k) = 3 →
      t.xm.read (segmentAt n k) = 0 ∧ t.port.notice.getLsbD 2 = true)
    ∧ sameBut s.xm t.xm (fun a => ∃ n ∈ l, streams s.xm n ∧ ∃ k, k < 2 ∧ a = segmentAt n k ∧ s.xm.read a = 3) := by
  induction l generalizing s with
  | nil =>
    subst ht
    exact ⟨fun n hn => absurd hn List.not_mem_nil, sameBut_refl _ _⟩
  | cons j l ih =>
    obtain ⟨hnew, hnodup⟩ := List.nodup_cons.1 hnodup
    have hj : j < 64 := hl j List.mem_cons_self
    obtain ⟨hhead, hsame⟩ := clip_rewrites s j hwf hj
    have hkeeps := rewrites_tasks (l.map ResetTask.clip) (s.resetTask (.clip j))
    rw [List.map_cons, List.foldl_cons] at ht
    rw [← ht] at hkeeps
    obtain ⟨htail, hlast⟩ := ih hnodup (fun n hn => hl n (List.mem_cons_of_mem _ hn)) (s.resetTask (.clip j))
      (State.resetTask_wf _ _ hwf) ht
    generalize s.resetTask (.clip j) = u at *
    have hkept : ∀ n ∈ l, ∀ a, (a = 0x1401 + 16 * n ∨ ∃ k, k < 2 ∧ a = segmentAt n k) → u.xm.read a = s.xm.read a := by
      intro n hn a ha
      have hlt : n < 64 := hl n (List.mem_cons_of_mem _ hn)
      have hne : n ≠ j := fun c => hnew (c ▸ hn)
      refine hsame a ?_ ?_
      · rcases ha with rfl | ⟨k, hk, rfl⟩
        · omega
        · unfold segmentAt
          omega
      · rintro ⟨-, k', hk', hak, -⟩
        unfold segmentAt at ha hak
        rcases ha with rfl | ⟨k, hk, rfl⟩ <;> omega
    have hstreams : ∀ n ∈ l, (streams u.xm n ↔ streams s.xm n) := by
      intro n hn
      unfold streams
      rw [hkept n hn _ (.inl rfl)]
    refine ⟨fun n hn hs k hk hplays => ?_, sameBut_trans (sameBut_weaken hsame fun a ha => ⟨j, List.mem_cons_self, ha⟩)
      (sameBut_weaken hlast fun a ha => ?_)⟩
    · rcases List.mem_cons.1 hn with rfl | hn
      · obtain ⟨hread, hbit⟩ := hhead hs k hk hplays
        refine ⟨(hlast _ ?_ ?_).trans hread, rewrites_keeps hkeeps hbit⟩
        · unfold segmentAt
          omega
        · rintro ⟨i, hi, -, k', hk', hak, -⟩
          have hne : i ≠ n := fun c => hnew (c ▸ hi)
          unfold segmentAt at hak
          omega
      · exact htail n hn ((hstreams n hn).2 hs) k hk ((hkept n hn _ (.inr ⟨k, hk, rfl⟩)).trans hplays)
    · obtain ⟨n, hn, hs, k, hk, hak, hread⟩ := ha
      exact ⟨n, List.mem_cons_of_mem _ hn, (hstreams n hn).1 hs, k, hk, hak,
        (hkept n hn a (.inr ⟨k, hk, hak⟩)).symm.trans hread⟩

/-! ## After a reset that keeps memory (R15) -/

/-- The identity and the cause written over a memory (R14, R15). -/
def identified (m : Memory) (cause : Byte) : Memory :=
  ((m.writeBytes 0 [0x40, 0x54]).writeBytes 2 [0x01, 0x00]).write 4 cause

theorem identified_wf {m : Memory} (cause : Byte) (h : m.wf = true) : (identified m cause).wf = true :=
  Memory.wf_write _ _ (Memory.wf_writeBytes _ _ (Memory.wf_writeBytes _ _ h))

theorem read_identified {m : Memory} (cause : Byte) (h : m.wf = true) {a : Nat} (ha : a < 65536) :
    (identified m cause).read a = if a = 4 then cause else if a = 2 then 0x01 else if a = 3 then 0x00
      else if a = 0 then 0x40 else if a = 1 then 0x54 else m.read a := by
  have hfirst : (m.writeBytes 0 [0x40, 0x54]).wf = true := Memory.wf_writeBytes _ _ h
  have hsecond : ((m.writeBytes 0 [0x40, 0x54]).writeBytes 2 [0x01, 0x00]).wf = true := Memory.wf_writeBytes _ _ hfirst
  unfold identified
  rw [Memory.read_write _ _ _ hsecond, Nat.mod_eq_of_lt ha, read_writePair _ _ hfirst (by decide) ha,
    read_writePair _ _ h (by decide) ha]
  by_cases h4 : a = 4
  · rw [if_pos h4, if_pos (by omega)]
  · rw [if_neg h4, if_neg (by omega)]

/-- The part once slots and segments are rewritten. -/
def slotsAndClips (u : State) (cause : Byte) : State :=
  ((List.range 64).map ResetTask.clip).foldl State.resetTask (((List.range 32).map ResetTask.readSlot).foldl
    State.resetTask { u with xm := identified u.xm cause })

/-- The part once every task of a reset that keeps memory is done. -/
def keptRewritten (v : State) : State :=
  { v with
    radio := { v.radio with logIndex := (v.xm.read 0x32).toNat % 64 }
    status := { v.status with updating := some 0 } }

theorem keepTasks_done (u : State) (cause : Byte) :
    (keepTasks cause).foldl State.resetTask u = keptRewritten (slotsAndClips u cause) := by
  unfold keepTasks
  have hidentity : (identityTasks cause).foldl State.resetTask u = { u with xm := identified u.xm cause } := rfl
  rw [List.foldl_append, List.foldl_append, List.foldl_append, hidentity]
  have hslots : ((List.range 64).map ResetTask.clip).foldl State.resetTask (((List.range 32).map ResetTask.readSlot).foldl
      State.resetTask { u with xm := identified u.xm cause }) = slotsAndClips u cause := by rw [slotsAndClips]
  rw [hslots]
  generalize slotsAndClips u cause = v
  rfl

/-- Where the writes of a reset that keeps memory fall, but for the status record (R15). -/
def inKeptRewrites (m : Memory) (a : Nat) : Prop :=
  a < 5 ∨ (∃ n, n < 32 ∧ slotStands m n ∧ (a = 0x200 + 64 * n ∨ a = 0x228 + 64 * n))
    ∨ ∃ n, n < 64 ∧ streams m n ∧ ∃ k, k < 2 ∧ a = segmentAt n k ∧ m.read a = 3

theorem slotsAndClips_spec {u : State} (cause : Byte) (hwf : u.xm.wf = true) {v : State} (hv : v = slotsAndClips u cause) :
    v.xm.wf = true
    ∧ (∀ a, a < 5 → v.xm.read a = (identified u.xm cause).read a)
    ∧ (∀ n, n < 32 → slotStands u.xm n → v.xm.read (0x200 + 64 * n) = 3 ∧ v.xm.read (0x228 + 64 * n) = 0x2F
      ∧ v.port.notice.getLsbD 0 = true)
    ∧ (∀ n, n < 64 → streams u.xm n → ∀ k, k < 2 → u.xm.read (segmentAt n k) = 3 →
      v.xm.read (segmentAt n k) = 0 ∧ v.port.notice.getLsbD 2 = true)
    ∧ sameBut u.xm v.xm (inKeptRewrites u.xm) := by
  have hwf1 := identified_wf cause hwf
  have hreads := fun a (ha : a < 65536) => read_identified cause hwf ha
  have hslots := slots_rewritten (List.range 32) List.nodup_range (fun n hn => List.mem_range.1 hn)
    { u with xm := identified u.xm cause } hwf1 rfl
  have hwf2 := tasks_wf ((List.range 32).map ResetTask.readSlot) { u with xm := identified u.xm cause } hwf1
  unfold slotsAndClips at hv
  generalize ((List.range 32).map ResetTask.readSlot).foldl State.resetTask { u with xm := identified u.xm cause } = w
    at *
  obtain ⟨hstood, hsame⟩ := hslots
  have hclips := clips_rewritten (List.range 64) List.nodup_range (fun n hn => List.mem_range.1 hn) w hwf2 hv
  have hkeeps := rewrites_tasks ((List.range 64).map ResetTask.clip) w
  have hwf3 := tasks_wf ((List.range 64).map ResetTask.clip) w hwf2
  rw [← hv] at hkeeps hwf3
  obtain ⟨hplayed, hlast⟩ := hclips
  simp only at hstood hsame
  generalize identified u.xm cause = m at *
  have hhigh : ∀ a, a < 65536 → 5 ≤ a → m.read a = u.xm.read a := by
    intro a ha hlow
    rw [hreads a ha, if_neg (by omega), if_neg (by omega), if_neg (by omega), if_neg (by omega), if_neg (by omega)]
  have hstands : ∀ n, n < 32 → (slotStands m n ↔ slotStands u.xm n) := by
    intro n hn
    unfold slotStands
    rw [hhigh _ (by omega) (by omega)]
  have hkept : ∀ a, a < 65536 → 5 ≤ a → ¬(∃ n, n < 32 ∧ slotStands u.xm n ∧ (a = 0x200 + 64 * n ∨ a = 0x228 + 64 * n)) →
      w.xm.read a = u.xm.read a := by
    intro a ha hlow hout
    rw [hsame a ha, hhigh a ha hlow]
    rintro ⟨n, hn, hs, hat⟩
    have hn := List.mem_range.1 hn
    exact hout ⟨n, hn, (hstands n hn).1 hs, hat⟩
  have hclip : ∀ n, n < 64 → ∀ a, (a = 0x1401 + 16 * n ∨ ∃ k, k < 2 ∧ a = segmentAt n k) → w.xm.read a = u.xm.read a := by
    intro n hn a ha
    unfold segmentAt at ha
    refine hkept a ?_ ?_ ?_
    · rcases ha with rfl | ⟨k, hk, rfl⟩ <;> omega
    · rcases ha with rfl | ⟨k, hk, rfl⟩ <;> omega
    · rintro ⟨j, hj, -, hat⟩
      rcases ha with rfl | ⟨k, hk, rfl⟩ <;> omega
  have hstreams : ∀ n, n < 64 → (streams w.xm n ↔ streams u.xm n) := by
    intro n hn
    unfold streams
    rw [hclip n hn _ (.inl rfl)]
  have hnoclip : ∀ a, a < 0x1400 → ¬∃ n ∈ List.range 64, streams w.xm n ∧ ∃ k, k < 2 ∧ a = segmentAt n k ∧ w.xm.read a = 3 := by
    rintro a ha ⟨n, -, -, k, -, hak, -⟩
    unfold segmentAt at hak
    omega
  have hnoslot : ∀ a, a < 0x200 → ¬∃ n ∈ List.range 32, slotStands m n ∧ (a = 0x200 + 64 * n ∨ a = 0x228 + 64 * n) := by
    rintro a ha ⟨n, -, -, hat⟩
    omega
  refine ⟨hwf3, fun a ha => ?_, fun n hn hs => ?_, fun n hn hs k hk hplays => ?_, fun a ha hout => ?_⟩
  · rw [hlast a (by omega) (hnoclip a (by omega)), hsame a (by omega) (hnoslot a (by omega))]
  · obtain ⟨hstate, hcode, hbit⟩ := hstood n (List.mem_range.2 hn) ((hstands n hn).2 hs)
    exact ⟨(hlast _ (by omega) (hnoclip _ (by omega))).trans hstate,
      (hlast _ (by omega) (hnoclip _ (by omega))).trans hcode, rewrites_keeps hkeeps hbit⟩
  · exact hplayed n (List.mem_range.2 hn) ((hstreams n hn).2 hs) k hk
      ((hclip n hn _ (.inr ⟨k, hk, rfl⟩)).trans hplays)
  · have hlow : 5 ≤ a := Nat.le_of_not_lt fun c => hout (.inl c)
    rw [hlast a ha, hkept a ha hlow fun c => hout (.inr (.inl c))]
    rintro ⟨n, hn, hs, k, hk, hak, hread⟩
    have hn := List.mem_range.1 hn
    exact hout (.inr (.inr ⟨n, hn, (hstreams n hn).1 hs, k, hk, hak,
      (hclip n hn a (.inr ⟨k, hk, hak⟩)).symm.trans hread⟩))

/-- The end of a reset that keeps memory (R15). -/
theorem keptReset_ends {s u : State} {cause : Byte} (hwf : s.xm.wf = true) (hxm : u.xm = s.xm)
    (hreset : u.port.reset = some { todo := keepTasks cause, sweepRequest := false, startRequest := false })
    (hstatus : u.status = StatusWriter.atReset) :
    ∃ t, exec .resetRewritesEnd u = .next t
      ∧ t.xm.readBytes 0 5 = [0x40, 0x54, 0x01, 0x00, cause]
      ∧ (∀ n, n < 32 → (s.xm.read (0x200 + 64 * n) = 2 ∨ s.xm.read (0x200 + 64 * n) = 4) →
        t.xm.read (0x200 + 64 * n) = 3 ∧ t.xm.read (0x228 + 64 * n) = 0x2F
          ∧ t.port.notice.getLsbD 0 = true)
      ∧ (∀ n, n < 64 → s.xm.read (0x1401 + 16 * n) = 2 → ∀ k, k < 2 →
        s.xm.read (0x140E + 16 * n + k) = 3 → t.xm.read (0x140E + 16 * n + k) = 0
          ∧ t.port.notice.getLsbD 2 = true)
      ∧ t.radio.logIndex = (s.xm.read 0x32).toNat % 64
      ∧ t.xm.read 0x100 = 2 ∧ t.xm.read 0x101 = 0
      ∧ sameBut s.xm t.xm (fun a => a < 5 ∨ (0x100 ≤ a ∧ a < 0x200)
          ∨ (∃ n, n < 32 ∧ (s.xm.read (0x200 + 64 * n) = 2 ∨ s.xm.read (0x200 + 64 * n) = 4)
            ∧ (a = 0x200 + 64 * n ∨ a = 0x228 + 64 * n))
          ∨ (0x1400 ≤ a ∧ a < 0x1800 ∧ 14 ≤ a % 16 ∧ s.xm.read (a / 16 * 16 + 1) = 2
            ∧ s.xm.read a = 3))
      ∧ t = { u with
          xm := t.xm
          lastGranted := .statusWriter
          port := { u.port with reset := none, notice := t.port.notice }
          status := { StatusWriter.atReset with generation := 2 }
          radio := { u.radio with logIndex := t.radio.logIndex } } := by
  have hwfu : u.xm.wf = true := hxm ▸ hwf
  obtain ⟨hgeneration, -, hframe⟩ := rewritesEnd_whole hreset
  have hbegins : ResetTask.beginStatus ∈ keepTasks cause := by simp [keepTasks]
  have htwo : (resetRewritesEnd u).status.generation = 2 := by
    rw [hgeneration (.inl hbegins), hstatus]
    rfl
  obtain ⟨hwfv, hidentity, hslots, hclips, hsame⟩ := slotsAndClips_spec cause hwfu rfl
  have hends : resetRewritesEnd u = ((keptRewritten (slotsAndClips u cause)).finishUpdate 0).endReset
      { todo := keepTasks cause, sweepRequest := false, startRequest := false } := by
    unfold resetRewritesEnd
    rw [hreset]
    simp only
    rw [keepTasks_done]
    rfl
  have hstart : (slotsAndClips u cause).status.generation = 0 := by
    have hkept := (rewrites_trans (rewrites_tasks _ _) (rewrites_tasks _ _) :
      rewrites { u with xm := identified u.xm cause } (slotsAndClips u cause)).2
    rw [hkept, hstatus]
    rfl
  generalize slotsAndClips u cause = v at *
  obtain ⟨m, hm, -, hreads⟩ := finishUpdate_spec (keptRewritten v) 0 hwfv
  have hgen : (keptRewritten v).status.generation + generations 0 = 2 := by
    have hzero : (keptRewritten v).status.generation = 0 := hstart
    rw [hzero]
    rfl
  rw [hgen] at hreads
  have hmemory : (resetRewritesEnd u).xm = m := by rw [hends, hm]; rfl
  have hnotice : (resetRewritesEnd u).port.notice = v.port.notice := by rw [hends, hm]; rfl
  have hindex : (resetRewritesEnd u).radio.logIndex = (v.xm.read 0x32).toNat % 64 := by rw [hends, hm]; rfl
  have hout : ∀ a, a < 65536 → ¬(0x100 ≤ a ∧ a < 0x200) → m.read a = v.xm.read a := by
    intro a ha hno
    rw [hreads a ha, if_neg (by omega), if_neg (by omega), if_neg (by omega)]
    rfl
  have hlog : v.xm.read 0x32 = s.xm.read 0x32 := by
    rw [hsame 0x32 (by decide), hxm]
    rintro (h | ⟨n, -, -, h⟩ | ⟨n, -, -, k, -, h, -⟩)
    · omega
    · omega
    · unfold segmentAt at h
      omega
  have hbytes : ∀ a, a < 5 → m.read a = (identified u.xm cause).read a := by
    intro a ha
    rw [hout a (by omega) (by omega), hidentity a ha]
  have hid := fun a (ha : a < 65536) => read_identified cause hwfu ha
  refine ⟨resetRewritesEnd u, rfl, ?_, fun n hn hs => ?_, fun n hn hs k hk hplays => ?_, ?_, ?_, ?_, fun a ha hno => ?_, ?_⟩
  · rw [hmemory]
    simp only [Memory.readBytes]
    rw [hbytes 0 (by decide), hbytes (0 + 1) (by decide), hbytes (0 + 1 + 1) (by decide),
      hbytes (0 + 1 + 1 + 1) (by decide), hbytes (0 + 1 + 1 + 1 + 1) (by decide), hid 0 (by decide), hid (0 + 1) (by decide),
      hid (0 + 1 + 1) (by decide), hid (0 + 1 + 1 + 1) (by decide), hid (0 + 1 + 1 + 1 + 1) (by decide)]
    rfl
  · obtain ⟨hstate, hcode, hbit⟩ := hslots n hn (by unfold slotStands; rw [hxm]; exact hs)
    rw [hmemory, hnotice]
    exact ⟨(hout _ (by omega) (by omega)).trans hstate, (hout _ (by omega) (by omega)).trans hcode, hbit⟩
  · obtain ⟨hread, hbit⟩ := hclips n hn (by unfold streams; rw [hxm]; exact hs) k hk (by rw [hxm]; exact hplays)
    rw [hmemory, hnotice]
    exact ⟨(hout _ (by omega) (by omega)).trans hread, hbit⟩
  · rw [hindex, hlog]
  · rw [hmemory, hreads 0x100 (by decide), if_pos rfl]
    rfl
  · rw [hmemory, hreads 0x101 (by decide), if_neg (by decide), if_pos rfl]
    rfl
  · rw [hmemory, hout a ha fun c => hno (.inr (.inl c)), hsame a ha, hxm]
    rintro (h | ⟨n, hn, hs, hat⟩ | ⟨n, hn, hs, k, hk, hak, hread⟩)
    · exact hno (.inl h)
    · refine hno (.inr (.inr (.inl ⟨n, hn, ?_, hat⟩)))
      rw [hxm] at hs
      exact hs
    · refine hno (.inr (.inr (.inr ?_)))
      unfold streams at hs
      unfold segmentAt at hak
      rw [hxm] at hs hread
      refine ⟨by omega, by omega, by omega, ?_, hread⟩
      rw [show a / 16 * 16 + 1 = 0x1401 + 16 * n by omega]
      exact hs
  · rw [htwo] at hframe
    rw [hstatus] at hframe
    exact hframe

/-- Settles O54: the reset values by the model's own reset state, and the writes task by task. -/
theorem resetsLeaveTheResetState : Obligations.ResetsLeaveTheResetState := by
  refine ⟨fun s hnone => ?_, fun s j hj => ⟨resetRewritesEnd s, rfl, rewritesEnd_whole hj⟩,
    fun s => ⟨⟨powerReset s, rfl, rfl, fun c => (nomatch c)⟩, ⟨brownoutReset s, rfl, rfl, fun c => (nomatch c)⟩,
      ⟨softReset s, rfl, rfl, fun c => (nomatch c), rfl⟩⟩, fun s u hwf hu => ?_, fun s u cause hwf hu => ?_⟩
  · have hstays : resetRewritesEnd s = s := by
      unfold resetRewritesEnd
      rw [hnone]
    exact congrArg Host.Outcome.next hstays
  · obtain rfl : powerReset s = u := Host.Outcome.next.inj hu
    refine ⟨resetRewritesEnd (powerReset s), rfl, ?_, ?_⟩
    · rw [powerReset_ends]
    · exact powerReset_ends s
  · rcases hu with ⟨hu, rfl⟩ | ⟨hu, rfl⟩
    · obtain rfl : brownoutReset s = u := Host.Outcome.next.inj hu
      exact keptReset_ends hwf rfl rfl rfl
    · obtain rfl : softReset s = u := Host.Outcome.next.inj hu
      exact keptReset_ends hwf rfl rfl rfl

end Sys2Proof.ResetWrites
end

section
/-! PROOFS. What a teardown and the entry to RUN leave, block by block, in every state (R9, R10, R12, R84, R100, R160). -/

namespace Sys2Proof.Teardowns
open Sys2Proof Sys2Proof.Machine Sys2Proof.Safety Sys2Proof.Notices Sys2Proof.RegulationSteps

/-! ## A derivation at rest in QUIET -/

theorem derive_quiet {s : State} (hquiet : s.isRun = false) (hstate : s.traction.state = .quiet)
    (hheld : s.bridges.held = .off) (hlow : s.traction.lowest = 0) : s.derive = s := by
  have hderived : derivedState s = .quiet := by simp [derivedState, hquiet]
  have hset : s.onTraction (fun t => { t with state := .quiet }) = s := by
    rw [← hstate]
    rfl
  have hduty : s.bridges.drivenDuty = 0 := by simp [BridgeUnit.drivenDuty, hheld]
  have hkept : s.reportTraction .quiet = s := by simp [State.reportTraction, hstate]
  have hhand : s.bridges.hand s.clock .off = s.bridges := by rw [BridgeUnit.hand, if_pos hheld.symm]
  have hnote : s.noteDuty = s := by
    have hkeeps : ({ s.traction with lowest := min s.traction.lowest 0 } : Traction) = s.traction := by
      rw [Nat.min_zero, ← hlow]
    rw [State.noteDuty, hduty, State.onTraction, hkeeps]
  rw [State.derive]
  simp only [hderived, hset, hstate, hkept, commandFor, State.handCommand, State.onBridges, hhand]
  exact hnote

/-! ## The traction controller and the bridges at a teardown (R84, R100) -/

/-- The part is QUIET, with the traction controller at rest and the bridges OFF. -/
def quieted (s : State) : State := { s with
  port := { s.port with run := .quiet, teardownPending := false }
  traction := { s.traction with
    t := 0, c := 0, i := 0, u := 0, prev := 0, zeroHold := 0, latch := false, pending := false, state := .quiet
    lowest := 0 }
  bridges := { s.bridges with
    held := .off, a := s.bridges.a.rest s.clock .off Gates.none
    b := if s.bridges.cfg.mode = .parallel then s.bridges.b.rest s.clock .off Gates.none
      else s.bridges.b.release s.clock .coast } }

theorem tractionTeardown_quieted (s : State) :
    (s.onPort fun p => { p with run := .quiet, teardownPending := false }).tractionTeardown = quieted s := by
  have hcoast : ∀ v : BridgeUnit, v.held = .coast → v.drivenDuty = 0 := by
    intro v hv
    simp [BridgeUnit.drivenDuty, hv]
  have hoff : ∀ v : BridgeUnit, v.held = .off → v.drivenDuty = 0 := by
    intro v hv
    simp [BridgeUnit.drivenDuty, hv]
  rw [quieted, ← s.bridges.teardown_eq s.clock]
  simp only [State.tractionTeardown, State.handCommand, State.noteDuty, State.onTraction, State.onBridges, State.onPort,
    hcoast _ (BridgeUnit.hand_held _ _ _), hoff _ (BridgeUnit.hand_held _ _ _), Nat.min_zero]
  rfl

/-- A balance run that a teardown ends (R108, R110): its slot and the lease, the traction controller being at rest. -/
theorem endRun_quieted (s : State) (outcome : OutcomeCode) :
    (s.balance.run = none → (quieted s).endRun outcome = quieted s)
      ∧ ∀ r, s.balance.run = some r → (quieted s).endRun outcome
        = (((quieted s).onBalance fun b => { b with run := none }).completeSlot r.slot outcome r.written
            (runResult r 0)).freeLease := by
  refine ⟨fun h => ?_, fun r h => ?_⟩
  · have hrun : (quieted s).balance.run = none := h
    rw [State.endRun, hrun]
  · have hrun : (quieted s).balance.run = some r := h
    rw [State.endRun, hrun]
    have hclose : (quieted s).closeRun r outcome 0
        = (((quieted s).onBalance fun b => { b with run := none }).completeSlot r.slot outcome r.written
          (runResult r 0)).freeLease.tractionRunEnds := rfl
    change (quieted s).closeRun r outcome 0 = _
    rw [hclose]
    generalize hv : (((quieted s).onBalance fun b => { b with run := none }).completeSlot r.slot outcome r.written
      (runResult r 0)).freeLease = v
    have htraction : v.traction = (quieted s).traction := by rw [← hv]; simp
    have hbridges : v.bridges = (quieted s).bridges := by rw [← hv]; simp
    have hquiet : v.isRun = false := by rw [← hv]; rfl
    have hzeroed : v.onTraction (fun t => { t with c := 0, i := 0, u := 0 }) = v := by
      have hrest : ({ v.traction with c := 0, i := 0, u := 0 } : Traction) = v.traction := by rw [htraction]; rfl
      rw [State.onTraction, hrest]
    rw [State.tractionRunEnds, hzeroed]
    exact derive_quiet hquiet (by rw [htraction]; rfl) (by rw [hbridges]; rfl) (by rw [htraction]; rfl)

/-- The run of a state over: what is written and freed beside the blocks that a teardown brings to rest. -/
def runOver (s v : State) : Prop :=
  v = { quieted s with
      xm := v.xm, lastGranted := v.lastGranted, orders := v.orders
      port := { (quieted s).port with notice := v.port.notice }, balance := { run := none }
      radio := { s.radio with lease := v.radio.lease, failsafe := v.radio.failsafe, request := v.radio.request } }
    ∧ (s.balance.run = none → v = quieted s)
    ∧ (v.radio.request = s.radio.request ∨ v.radio.request = { s.radio.request with throttle := 0 })

theorem endRun_over (s : State) (outcome : OutcomeCode) : runOver s ((quieted s).endRun outcome) := by
  obtain ⟨hno, hsome⟩ := endRun_quieted s outcome
  cases hrun : s.balance.run with
  | none =>
    rw [hno hrun]
    refine ⟨?_, fun _ => rfl, .inl rfl⟩
    have hbalance : (quieted s).balance = { run := none } := by
      rw [← hrun]
      rfl
    rw [← hbalance]
    rfl
  | some r =>
    rw [hsome r hrun]
    have hslot := ((quieted s).onBalance fun b => { b with run := none }).completeSlot_eq r.slot outcome r.written (runResult r 0)
    generalize ((quieted s).onBalance fun b => { b with run := none }).completeSlot r.slot outcome r.written
      (runResult r 0) = w at hslot
    generalize w.xm = memory at hslot
    subst hslot
    exact ⟨rfl, fun h => absurd (hrun.symm.trans h) (by simp), .inr rfl⟩

/-! ## The voices (R160) -/

theorem noticesOnly_stops (l : List Nat) (s : State) : noticesOnly s (l.foldl State.stopVoice s) := by
  induction l generalizing s with
  | nil => exact noticesOnly_refl s
  | cons n rest ih => exact noticesOnly_trans (noticesOnly_stopVoice s n) (ih (s.stopVoice n))

theorem stopVoice_length (s : State) (n : Nat) : (s.stopVoice n).sound.voices.length = s.sound.voices.length := by
  simp only [State.stopVoice]
  split <;> simp [State.onVoice, State.leaveSegment]

theorem stops_length (l : List Nat) (s : State) :
    (l.foldl State.stopVoice s).sound.voices.length = s.sound.voices.length :=
  foldl_keeps (act := State.stopVoice) (·.sound.voices.length) stopVoice_length l s

/-- Voices stopped one after the other are IDLE, and so are those that were. -/
theorem stops_idle (l : List Nat) {s : State} (hin : ∀ n ∈ l, n < s.sound.voices.length) {k : Nat} {v : Voice}
    (hv : (l.foldl State.stopVoice s).sound.voices[k]? = some v)
    (hk : k ∈ l ∨ ∀ w, s.sound.voices[k]? = some w → w.state = .idle) : v.state = .idle := by
  induction l generalizing s with
  | nil => exact (hk.resolve_left (by simp)) v hv
  | cons n rest ih =>
    have hn := hin n List.mem_cons_self
    have hstop : (s.stopVoice n).sound.voices = s.sound.voices.set n { s.sound.voice n with state := .idle } :=
      congrArg (fun u : State => u.sound.voices) (s.stopVoice_eq n hn)
    refine ih (s := s.stopVoice n) (fun m hm => ?_) hv ?_
    · rw [hstop, List.length_set]
      exact hin m (List.mem_cons_of_mem _ hm)
    · by_cases hkn : k = n
      · refine .inr fun w hw => ?_
        rw [hstop, hkn, List.getElem?_set_self hn] at hw
        rw [← Option.some.inj hw]
      · refine hk.imp (fun hmem => (List.mem_cons.1 hmem).resolve_left hkn) fun hidle w hw => ?_
        rw [hstop, List.getElem?_set_ne (Ne.symm hkn)] at hw
        exact hidle w hw

theorem soundStop_idle {s : State} (hlength : s.sound.voices.length = 8) :
    s.soundStop.sound.voices.length = 8 ∧ ∀ v ∈ s.soundStop.sound.voices, v.state = .idle := by
  have hstops : s.soundStop = (allVoices.foldl State.stopVoice s).onSound fun u => { u with rotation := 0 } := rfl
  have hcount := stops_length allVoices s
  have hall : ∀ n, n ∈ allVoices ↔ n < 8 := by
    intro n
    simp only [allVoices, List.mem_cons, List.not_mem_nil, or_false]
    omega
  have hidle : ∀ k v, k < 8 → (allVoices.foldl State.stopVoice s).sound.voices[k]? = some v → v.state = .idle :=
    fun k v hk hv => stops_idle allVoices (fun n hn => hlength.symm ▸ (hall n).1 hn) hv (.inl ((hall k).2 hk))
  rw [hstops]
  generalize allVoices.foldl State.stopVoice s = u at hcount hidle
  refine ⟨hcount.trans hlength, fun v hv => ?_⟩
  obtain ⟨k, hk⟩ := List.getElem?_of_mem hv
  have hbelow : k < u.sound.voices.length := (List.getElem?_eq_some_iff.1 hk).1
  exact hidle k v (by omega) hk

/-- The stop of every voice reaches segment bytes, notices and the voices. -/
theorem soundStop_shape (s : State) : s.soundStop = { s with
    xm := s.soundStop.xm, port := { s.port with notice := s.soundStop.port.notice }, sound := s.soundStop.sound } := by
  have hport' : s.soundStop.port = { s.port with notice := s.soundStop.port.notice } := by
    have hstops : s.soundStop = (allVoices.foldl State.stopVoice s).onSound fun u => { u with rotation := 0 } := rfl
    have hport := noticesOnly_port (noticesOnly_stops allVoices s)
    rw [hstops]
    generalize allVoices.foldl State.stopVoice s = u at hport
    exact hport
  have hframe : s.soundStop = { s with xm := s.soundStop.xm, port := s.soundStop.port, sound := s.soundStop.sound } := by
    obtain ⟨h1, h2, h3, h4, h5, h6, h7, h8, h9, h10, h11, h12, h13, h14, h15⟩ := s.soundStop_frame
    rw [← h1, ← h2, ← h3, ← h4, ← h5, ← h6, ← h7, ← h8, ← h9, ← h10, ← h11, ← h12, ← h13, ← h14, ← h15]
  rw [← hport']
  exact hframe

/-! ## The teardown (R12) -/

/-- A teardown, block by block. -/
def broughtDown (s t : State) : Prop :=
  t = { s with
      xm := t.xm, free := t.free, lastGranted := t.lastGranted, orders := t.orders, sound := t.sound
      port := { s.port with run := .quiet, teardownPending := false, notice := t.port.notice }
      traction := (quieted s).traction, bridges := (quieted s).bridges, balance := { run := none }
      sets := { s.sets with chain := [], cache := none, clamped := false }
      lamps := s.lamps.teardown s.clock
      radio := { s.radio with
        lease := .none, failsafe := false, request := t.radio.request, zone := t.radio.zone
        passage := { zone := 0, horn := false, station := false }, station := .none
        receiver := .hunt, gap := none, waiting := [], handling := none, service := none } }
    ∧ t.port.notice.getLsbD 5 = true ∧ t.radio.zone.present = false
    ∧ (s.balance.run = none → t.orders = s.orders)
    ∧ (t.radio.request = s.radio.request ∨ t.radio.request = { s.radio.request with throttle := 0 })
    ∧ (s.sound.voices.length = 8 → t.sound.voices.length = 8 ∧ ∀ v ∈ t.sound.voices, v.state = .idle)

/-- A run over and every voice stopped. -/
theorem stopped_shape {s v w : State} (hover : runOver s v) (hstop : w = { v with
    xm := w.xm, port := { v.port with notice := w.port.notice }, sound := w.sound }) :
    w = { quieted s with
      xm := w.xm, lastGranted := v.lastGranted, orders := v.orders, sound := w.sound
      port := { (quieted s).port with notice := w.port.notice }, balance := { run := none }
      radio := { s.radio with lease := v.radio.lease, failsafe := v.radio.failsafe, request := v.radio.request } } := by
  obtain ⟨hv, -⟩ := hover
  generalize w.xm = memory, w.port.notice = notice, w.sound = sound at hstop ⊢
  generalize v.xm = memory', v.lastGranted = last, v.orders = orders, v.port.notice = notice', v.radio.lease = lease,
    v.radio.failsafe = failsafe, v.radio.request = request at hv ⊢
  rw [hstop, hv]

theorem teardown_eq (s : State) : s.teardown = (((((quieted s).endRun .aborted).soundStop.onLamps fun u =>
      u.teardown ((quieted s).endRun .aborted).soundStop.clock).emptyZone.onRadio Radio.teardown).onSets fun m =>
        { m with chain := [], cache := none, clamped := false }).raise .control := by
  rw [← tractionTeardown_quieted]
  rfl

theorem teardown_brought (s : State) : broughtDown s s.teardown := by
  have hdown := teardown_eq s
  have hover := endRun_over s .aborted
  generalize (quieted s).endRun .aborted = v at hover hdown
  have hidle := soundStop_idle (s := v)
  have hstop := stopped_shape hover (soundStop_shape v)
  generalize v.soundStop = w at hstop hidle hdown
  obtain ⟨hzone, hempty⟩ := (w.onLamps fun u => u.teardown w.clock).emptyZone_emptied
  generalize (w.onLamps fun u => u.teardown w.clock).emptyZone = z at hzone hempty hdown
  have hraised : s.teardown.port.notice.getLsbD 5 = true := by
    rw [hdown]
    exact raised_of_mem (p := z.port) (bits := [.control]) (b := .control) List.mem_cons_self
  obtain ⟨hv, hsame, hrequest⟩ := hover
  have hvoices : v.sound = s.sound := by rw [hv]; rfl
  have hempty' : z = { w with
      free := z.free, lamps := w.lamps.teardown w.clock, radio := { w.radio with zone := z.radio.zone } } := hempty
  have hnone : z.radio.zone.present = false := hzone.1
  have horders : s.balance.run = none → v.orders = s.orders := fun hno => by rw [hsame hno]; rfl
  rw [hvoices] at hidle
  clear hempty hzone hsame hv hvoices
  generalize v.lastGranted = last, v.orders = orders, v.radio.lease = lease, v.radio.failsafe = failsafe,
    v.radio.request = request at hstop hrequest horders
  generalize z.free = free at hempty'
  generalize z.radio.zone = zone at hempty' hnone
  generalize w.xm = memory, w.port.notice = notice, w.sound = sound at hstop hidle
  subst hempty'
  subst hstop
  generalize s.teardown = t at hdown hraised ⊢
  subst hdown
  exact ⟨rfl, hraised, hnone, horders, hrequest, hidle⟩

/-! ## The entry to RUN (R10, R35, R84, R160) -/

/-- An entry to RUN with the base set `d` of index `base`, block by block. -/
def broughtUp (s t : State) (base : Nat) (d : DriveSet) (clamped : Bool) : Prop :=
  t = { s with
      xm := t.xm, free := t.free, sound := t.sound
      port := { s.port with run := .run, start := none, startFault := .ok, notice := t.port.notice }
      status := { s.status with faultCount := t.status.faultCount }
      sets := { s.sets with chain := [{ index := base, resume := none }], cache := some d, clamped := clamped }
      traction := { s.traction with
        t := 0, c := 0, i := 0, u := 0, prev := 0, zeroHold := 0, latch := false, pending := false
        state := .stopped, lowest := t.traction.lowest }
      bridges := { s.bridges with held := stopCommand d.traction, a := t.bridges.a, b := t.bridges.b }
      radio := { s.radio with
        request := { throttle := 0, direction := s.traction.direction, functions := 0 }
        lease := .none, failsafe := false, repeats := [], zone := t.radio.zone
        passage := { zone := 0, horn := false, station := false }, station := .none
        receiver := .hunt, gap := none } }
    ∧ t.port.notice.getLsbD 5 = true ∧ t.radio.zone.present = false
    ∧ (s.sound.voices.length = 8 → t.sound.voices.length = 8)

theorem startVoice_length (s : State) (n clip : Nat) (use : ClipUse) (f : StartFields) :
    (s.startVoice n clip use f).1.sound.voices.length = s.sound.voices.length := by
  have hstop := stopVoice_length s n
  simp only [State.startVoice]
  repeat' split
  all_goals simpa [State.voiceStarts, State.onVoice] using hstop

theorem startOrFault_length (s : State) (n clip : Nat) (use : ClipUse) (f : StartFields) :
    (s.startOrFault n clip use f).sound.voices.length = s.sound.voices.length := by
  simp only [State.startOrFault]
  repeat' split
  · exact stopVoice_length s n
  · exact startVoice_length s n clip use f
  · exact startVoice_length s n clip use f

theorem startEngine_shape (s : State) : s.startEngine = { s with
    xm := s.startEngine.xm, port := { s.port with notice := s.startEngine.port.notice }
    status := { s.status with faultCount := s.startEngine.status.faultCount }, sound := s.startEngine.sound } := by
  have hnotices : noticesOnly s s.startEngine := noticesOnly_startOrFault ..
  have hframe := startOrFault_soundedAs s s 0 s.soundSet.engineClip .engine
    { volume := none, pitch := some (enginePitch s), repeats := .endless, priority := 3, starter := .engine }
  have hframe' : s.startEngine = soundedAs s.startEngine s := hframe
  have hport := noticesOnly_port hnotices
  have hstatus := hnotices.2
  rw [← hport, ← hstatus]
  exact hframe'

/-- The request side, chain and cache of an entry to RUN, before the traction controller and the sound engine act. -/
def entering (s : State) (free : Nat) (zone : ZoneRecord) (base : Nat) (d : DriveSet) (clamped : Bool) : State := { s with
  free := free
  port := { s.port with run := .run, start := none, startFault := .ok }
  sets := { s.sets with chain := [{ index := base, resume := none }], cache := some d, clamped := clamped }
  radio := { s.radio with
    request := { throttle := 0, direction := s.traction.direction, functions := 0 }
    lease := .none, failsafe := false, repeats := [], zone := zone
    passage := { zone := 0, horn := false, station := false }, station := .none, receiver := .hunt, gap := none } }

theorem enterRun_entering (s : State) (j : StartJob) : ∃ free zone, zone.present = false
    ∧ s.enterRun j = ((entering s free zone j.baseIndex (loadDriveSet j.image (setBase j.baseIndex))
        (driveSetClamped j.image (setBase j.baseIndex))).tractionEnterRun.soundStop.startEngine).raise .control := by
  have hemptied := State.emptyZone_emptied { s with
    port := { s.port with run := .run, start := none, startFault := .ok }
    sets := { s.sets with
      chain := [{ index := j.baseIndex, resume := none }], cache := some (loadDriveSet j.image (setBase j.baseIndex))
      clamped := driveSetClamped j.image (setBase j.baseIndex) } }
  generalize hz : State.emptyZone _ = z at hemptied
  obtain ⟨⟨hnone, -⟩, hshape⟩ := hemptied
  refine ⟨z.free, z.radio.zone, hnone, ?_⟩
  have henter : s.enterRun j = ((z.onRadio fun r => r.enterRun s.traction.direction).tractionEnterRun.soundStop.startEngine).raise
      .control := by
    rw [← hz]
    rfl
  rw [henter]
  generalize z.free = free at hshape ⊢
  generalize z.radio.zone = zone at hshape ⊢
  rw [hshape]
  rfl

theorem tractionEnterRun_shape (s : State) : ∃ lowest a b, s.tractionEnterRun = { s with
    traction := { s.traction with
      t := 0, c := 0, i := 0, u := 0, prev := 0, zeroHold := 0, latch := false, pending := false
      state := .stopped, lowest := lowest }
    bridges := { s.bridges with held := stopCommand s.tractionSet, a := a, b := b } } := by
  rw [State.tractionEnterRun, State.handCommand_eq]
  exact ⟨_, _, _, rfl⟩

theorem enterRun_brought (s : State) (j : StartJob) : broughtUp s (s.enterRun j) j.baseIndex
    (loadDriveSet j.image (setBase j.baseIndex)) (driveSetClamped j.image (setBase j.baseIndex)) := by
  obtain ⟨free, zone, hnone, henter⟩ := enterRun_entering s j
  generalize loadDriveSet j.image (setBase j.baseIndex) = d, driveSetClamped j.image (setBase j.baseIndex) = clamped
    at henter ⊢
  obtain ⟨lowest, a, b, hrest⟩ := tractionEnterRun_shape (entering s free zone j.baseIndex d clamped)
  generalize (entering s free zone j.baseIndex d clamped).tractionEnterRun = u at hrest henter
  have hstop := soundStop_shape u
  have hidle := soundStop_idle (s := u)
  generalize u.soundStop = v at hstop hidle henter
  have hsounds := startEngine_shape v
  have hlength : v.startEngine.sound.voices.length = v.sound.voices.length := startOrFault_length ..
  generalize v.startEngine = w at hsounds hlength henter
  have hvoices : u.sound = s.sound := by rw [hrest]; rfl
  have hkept : s.sound.voices.length = 8 → w.sound.voices.length = 8 :=
    fun h => hlength.trans (hidle (by rw [hvoices]; exact h)).1
  clear hlength hidle hvoices
  have hraised : (s.enterRun j).port.notice.getLsbD 5 = true := by
    rw [henter]
    exact raised_of_mem (p := w.port) (bits := [.control]) (b := .control) List.mem_cons_self
  generalize s.enterRun j = t at henter hraised ⊢
  generalize w.xm = memory, w.port.notice = notice, w.sound = sound, w.status.faultCount = faults at hsounds hkept
  generalize v.xm = memory', v.port.notice = notice', v.sound = sound' at hstop
  subst hsounds
  subst hstop
  subst hrest
  subst henter
  exact ⟨rfl, hraised, hnone, hkept⟩

end Sys2Proof.Teardowns
end

section
/-! PROOFS. Starts (R8, R10, R11): what the loads of a start give, stage by stage, the entry to RUN and the refusal. -/

namespace Sys2Proof.Starts
open Sys2Proof Sys2Proof.Machine Sys2Proof.Safety Sys2Proof.Notices Sys2Proof.Loads Sys2Proof.RadioBlock Sys2Proof.LampLoads
open Sys2Proof.Teardowns Sys2Proof.BlockLaws Sys2Proof.Reports Sys2Proof.Decisions Sys2Proof.SetChanges

/-! ## Words read -/

/-- What a stage's image holds once words are read into it. -/
def wordsRead (m : Memory) (words : List Nat) (image : Memory) : Memory :=
  words.foldl (fun image a => image.copyWord m a) image

/-- Words read from nothing show the memory they come from. -/
theorem wordsRead_fresh (m : Memory) {words : List Nat} {w a : Nat} (hw : w ∈ words) (ha : a = w ∨ a = w + 1) :
    (wordsRead m words []).read a = m.read a := by
  rw [wordsRead, Memory.read_copyWords m words a (by rfl),
    if_pos ⟨w, hw, ha.imp (by rintro rfl; rfl) (by rintro rfl; rfl)⟩]

theorem wordsRead_run (m : Memory) {base n a : Nat} (hlow : base ≤ a) (hhigh : a < base + 2 * n) :
    (wordsRead m (wordsFrom base n) []).read a = m.read a :=
  wordsRead_fresh m (w := base + 2 * ((a - base) / 2)) (mem_wordsFrom.2 ⟨(a - base) / 2, by omega, rfl⟩) (by omega)

theorem reads_last (s : State) (words : List Nat) : s.reads words = { s with lastGranted := (s.reads words).lastGranted } := by
  unfold State.reads
  split <;> rfl

/-! ## The stages (R10) -/

theorem endLoads_step (n : Nat) (s : State) {j : StartJob} (h : j.stage ≠ .loaded) : State.endLoads (n + 1) s j
    = State.endLoads n ((s.reads j.todo).endStage (j.readAll s.xm)).1 ((s.reads j.todo).endStage (j.readAll s.xm)).2 := by
  rw [State.endLoads, if_neg h]

theorem endLoads_loaded (n : Nat) (s : State) {j : StartJob} (h : j.stage = .loaded) : State.endLoads n s j = (s, j) := by
  cases n with
  | zero => rfl
  | succ n => rw [State.endLoads, if_pos h]

/-- A job whose reads are over. -/
def ended (j : StartJob) (baseIndex : Nat) (image : Memory) : StartJob :=
  { j with stage := .loaded, todo := [], image := image, baseIndex := baseIndex }

/-- The loads end in `u`, but for the rotation of the memory's requesters, with the image of the base set. -/
def loadsTo (u : State) (j : StartJob) (baseIndex : Nat) (m : Memory) (p : State × StartJob) : Prop :=
  ∃ last image, p = ({ u with lastGranted := last }, ended j baseIndex image)
    ∧ (baseIndex ≤ 7 → image = wordsRead m (setWords baseIndex) [])

theorem endLoads_baseSet (n : Nat) (s : State) {j : StartJob} (h : j.stage = .baseSet) :
    State.endLoads (n + 1) s j = (s.reads j.todo, ended j j.baseIndex (wordsRead s.xm j.todo j.image)) := by
  have hend : (s.reads j.todo).endStage (j.readAll s.xm) = (s.reads j.todo, (j.readAll s.xm).done) := by
    have hstage : (j.readAll s.xm).stage = .baseSet := h
    rw [State.endStage, hstage]
  rw [endLoads_step n s (by rw [h]; decide), hend, endLoads_loaded n _ (by rfl)]
  rfl

theorem endLoads_lampTable (n : Nat) (s : State) {j : StartJob} (h : j.stage = .lampTable) :
    loadsTo (s.loadLampTable (wordsRead s.xm j.todo j.image)) j j.baseIndex s.xm (State.endLoads (n + 2) s j) := by
  have hend : (s.reads j.todo).endStage (j.readAll s.xm)
      = ((s.reads j.todo).loadLampTable (wordsRead s.xm j.todo j.image), (j.readAll s.xm).atBaseSet) := by
    have hstage : (j.readAll s.xm).stage = .lampTable := h
    rw [State.endStage, hstage]
    rfl
  rw [endLoads_step (n + 1) s (by rw [h]; decide), hend]
  have hlast := reads_last s j.todo
  generalize (s.reads j.todo).lastGranted = last at hlast
  rw [hlast]
  by_cases hindex : j.baseIndex ≤ 7
  · have hnext : (j.readAll s.xm).atBaseSet = (j.readAll s.xm).atStage .baseSet := if_pos hindex
    have hwords : ((j.readAll s.xm).atStage .baseSet).todo = setWords j.baseIndex := if_pos hindex
    rw [hnext, endLoads_baseSet n _ (by rfl), hwords]
    generalize hu : ({ s with lastGranted := last } : State).loadLampTable (wordsRead s.xm j.todo j.image) = u
    have hlast' := reads_last u (setWords j.baseIndex)
    generalize (u.reads (setWords j.baseIndex)).lastGranted = last' at hlast'
    rw [hlast', ← hu]
    exact ⟨last', wordsRead s.xm (setWords j.baseIndex) [], rfl, fun _ => rfl⟩
  · have hnext : (j.readAll s.xm).atBaseSet = ((j.readAll s.xm).atStage .baseSet).done := if_neg hindex
    rw [hnext, endLoads_loaded (n + 1) _ (by rfl)]
    exact ⟨last, [], rfl, fun hno => absurd hno hindex⟩

theorem loadRadio_of_none {s : State} (m : Memory) (h : s.radio.lease = .none) : s.loadRadio m = blockLoaded s m :=
  loadRadio_free m (by rw [h]; rfl)

theorem endLoads_radioBlock (n : Nat) (s : State) {j : StartJob} (h : j.stage = .radioBlock) (hlease : s.radio.lease = .none) :
    loadsTo ((blockLoaded s (wordsRead s.xm j.todo j.image)).loadLampTable (wordsRead s.xm lampWords [])) j j.baseIndex s.xm
      (State.endLoads (n + 3) s j) := by
  have hend : (s.reads j.todo).endStage (j.readAll s.xm)
      = ((s.reads j.todo).loadRadio (wordsRead s.xm j.todo j.image), (j.readAll s.xm).atStage .lampTable) := by
    have hstage : (j.readAll s.xm).stage = .radioBlock := h
    rw [State.endStage, hstage]
    rfl
  rw [endLoads_step (n + 2) s (by rw [h]; decide), hend]
  have hlast := reads_last s j.todo
  generalize (s.reads j.todo).lastGranted = last at hlast
  rw [hlast, loadRadio_of_none _ (by exact hlease)]
  obtain ⟨last', image, hrest, himage⟩ := endLoads_lampTable n
    (blockLoaded { s with lastGranted := last } (wordsRead s.xm j.todo j.image))
    (j := (j.readAll s.xm).atStage .lampTable) rfl
  exact ⟨last', image, hrest, himage⟩

theorem endLoads_anchor (n : Nat) (s : State) {j : StartJob} (h : j.stage = .anchor) (hlease : s.radio.lease = .none) :
    loadsTo ((blockLoaded (s.loadAnchor (wordsRead s.xm j.todo j.image)) (wordsRead s.xm radioWords [])).loadLampTable
      (wordsRead s.xm lampWords [])) j (loadBaseIndex (wordsRead s.xm j.todo j.image)) s.xm (State.endLoads (n + 4) s j) := by
  have hend : (s.reads j.todo).endStage (j.readAll s.xm)
      = ((s.reads j.todo).loadAnchor (wordsRead s.xm j.todo j.image),
        { (j.readAll s.xm) with baseIndex := loadBaseIndex (wordsRead s.xm j.todo j.image) }.atStage .radioBlock) := by
    have hstage : (j.readAll s.xm).stage = .anchor := h
    rw [State.endStage, hstage]
    rfl
  rw [endLoads_step (n + 3) s (by rw [h]; decide), hend]
  have hlast := reads_last s j.todo
  generalize (s.reads j.todo).lastGranted = last at hlast
  rw [hlast]
  obtain ⟨last', image, hrest, himage⟩ := endLoads_radioBlock n
    ({ s with lastGranted := last }.loadAnchor (wordsRead s.xm j.todo j.image))
    (j := { (j.readAll s.xm) with baseIndex := loadBaseIndex (wordsRead s.xm j.todo j.image) }.atStage .radioBlock) rfl hlease
  exact ⟨last', image, hrest, himage⟩

/-! ## What the loads give (R5, R46, R85, R113, R161, R185) -/

/-- The words of the first stage that are still to be read. -/
def stageImage (s : State) (j : StartJob) : Memory := wordsRead s.xm j.todo j.image

/-- Anchor configuration, given to each block that uses it (R5, R46, R85, R185). -/
def anchored (s : State) (m : Memory) : State := { s with
  orders := { s.orders with period := loadSweepPeriod m }
  timers := { s.timers with sweep := if loadSweepPeriod m = 0 then none else some (s.clock + ms (loadSweepPeriod m)) }
  motion := s.motion.load (loadMotionConfig m)
  bridges := { s.bridges with cfg := loadBridgeConfig m }
  supply := { s.supply with cfg := loadSupplyConfig m } }

theorem loadAnchor_eq (s : State) (m : Memory) : s.loadAnchor m = anchored s m := rfl

/-- The loads of a start reach configuration alone. -/
def configured (s u : State) : Prop :=
  u = { s with
    lastGranted := u.lastGranted, orders := u.orders, timers := u.timers, motion := u.motion
    bridges := { s.bridges with cfg := u.bridges.cfg }, supply := u.supply
    radio := { s.radio with cfg := u.radio.cfg, consist := u.radio.consist }
    lamps := { s.lamps with lamps := u.lamps.lamps } }

theorem endLoads_configured {s : State} {j : StartJob} {p : State × StartJob} (hp : p = State.endLoads 4 s j)
    (hlease : s.radio.lease = .none) : configured s p.1 := by
  cases hstage : j.stage with
  | anchor =>
    obtain ⟨last, image, hends, -⟩ := endLoads_anchor 0 s hstage hlease
    rw [hp, hends, loadAnchor_eq]
    generalize wordsRead s.xm j.todo j.image = anchor, wordsRead s.xm radioWords [] = radio, wordsRead s.xm lampWords [] = lamps
    rfl
  | radioBlock =>
    obtain ⟨last, image, hends, -⟩ := endLoads_radioBlock 1 s hstage hlease
    rw [hp, hends]
    generalize wordsRead s.xm j.todo j.image = radio, wordsRead s.xm lampWords [] = lamps
    rfl
  | lampTable =>
    obtain ⟨last, image, hends, -⟩ := endLoads_lampTable 2 s hstage
    rw [hp, hends]
    rfl
  | baseSet =>
    rw [hp, endLoads_baseSet 3 s hstage, reads_last]
    rfl
  | loaded =>
    rw [hp, endLoads_loaded 4 s hstage]
    rfl

/-- The anchor stage (R5, R46, R85, R185). -/
theorem anchor_loads {s : State} {j : StartJob} {p : State × StartJob} (hp : p = State.endLoads 4 s j)
    (hlease : s.radio.lease = .none) {img : Memory} (himg : img = stageImage s j) (hstage : j.stage = .anchor) :
    p.2.baseIndex = (img.read 9).toNat
      ∧ p.1.orders = { s.orders with period := min 64 (img.read 8).toNat }
      ∧ p.1.timers = { s.timers with
          sweep := if p.1.orders.period = 0 then none else some (s.clock + 1024000 * p.1.orders.period) }
      ∧ motionRead img p.1.motion.cfg
      ∧ (∀ sensor : Sensor, sensor = (if p.1.motion.cfg.magnets = 0 then .none else .ok) →
        p.1.motion = { s.motion with
          cfg := p.1.motion.cfg, sensor := sensor, ring := [], p := 0, lastEdge := none, m := 0, stall := none
          loss := 0, recovery := 0, phi := 0
          mark := s.motion.mark || decide (s.motion.sensor ≠ sensor) })
      ∧ bridgeRead img p.1.bridges.cfg ∧ supplyRead img p.1.supply.cfg
      ∧ p.1.supply = { s.supply with cfg := p.1.supply.cfg } := by
  obtain ⟨last, image, hends, -⟩ := endLoads_anchor 0 s hstage hlease
  have hwords : wordsRead s.xm j.todo j.image = img := himg.symm
  rw [hwords] at hends
  rw [hp, hends]
  generalize wordsRead s.xm lampWords [] = lamps, wordsRead s.xm radioWords [] = radio
  refine ⟨rfl, rfl, ?_, loadMotionConfig_read img, ?_, loadBridgeConfig_read img, loadSupplyConfig_read img, rfl⟩
  · change ({ s.timers with sweep := if loadSweepPeriod img = 0 then none else some (s.clock + ms (loadSweepPeriod img)) } : Timers)
      = { s.timers with sweep := if loadSweepPeriod img = 0 then none else some (s.clock + 1024000 * loadSweepPeriod img) }
    rw [ms, Nat.mul_comm]
  · rintro sensor rfl
    rfl

theorem later_loads {s : State} {j : StartJob} {p : State × StartJob} (hp : p = State.endLoads 4 s j)
    (hlease : s.radio.lease = .none) (hstage : j.stage ≠ .anchor) :
    p.2.baseIndex = j.baseIndex ∧ p.1.orders = s.orders ∧ p.1.timers = s.timers ∧ p.1.motion = s.motion
      ∧ p.1.bridges = s.bridges ∧ p.1.supply = s.supply := by
  cases hstage' : j.stage with
  | anchor => exact absurd hstage' hstage
  | radioBlock =>
    obtain ⟨last, image, hends, -⟩ := endLoads_radioBlock 1 s hstage' hlease
    rw [hp, hends]
    exact ⟨rfl, rfl, rfl, rfl, rfl, rfl⟩
  | lampTable =>
    obtain ⟨last, image, hends, -⟩ := endLoads_lampTable 2 s hstage'
    rw [hp, hends]
    exact ⟨rfl, rfl, rfl, rfl, rfl, rfl⟩
  | baseSet =>
    rw [hp, endLoads_baseSet 3 s hstage', reads_last]
    exact ⟨rfl, rfl, rfl, rfl, rfl, rfl⟩
  | loaded =>
    rw [hp, endLoads_loaded 4 s hstage']
    exact ⟨rfl, rfl, rfl, rfl, rfl, rfl⟩

/-- The radio block read afresh (R113). -/
theorem radioRead_fresh (m : Memory) : radioRead m (loadRadioConfig (wordsRead m radioWords []))
    (loadConsist (wordsRead m radioWords [])) := by
  have hread : ∀ a, 0x1380 ≤ a → a < 0x138E → (wordsRead m radioWords []).read a = m.read a :=
    fun a hlow hhigh => wordsRead_run m (base := 0x1380) (n := 7) hlow (by omega)
  have hloaded := loadRadioConfig_read (wordsRead m radioWords [])
  simp (disch := decide) only [radioRead, wordAt, hread] at hloaded
  exact hloaded

theorem radio_loads {s : State} {j : StartJob} {p : State × StartJob} (hp : p = State.endLoads 4 s j)
    (hlease : s.radio.lease = .none) {img : Memory} (himg : img = stageImage s j)
    (hstage : j.stage = .anchor ∨ j.stage = .radioBlock) :
    radioRead (if j.stage = .radioBlock then img else s.xm) p.1.radio.cfg p.1.radio.consist
      ∧ p.1.radio = { s.radio with cfg := p.1.radio.cfg, consist := p.1.radio.consist } := by
  subst himg
  rcases hstage with hstage | hstage
  · obtain ⟨last, image, hends, -⟩ := endLoads_anchor 0 s hstage hlease
    rw [hp, hends, if_neg (by rw [hstage]; decide)]
    exact ⟨radioRead_fresh s.xm, rfl⟩
  · obtain ⟨last, image, hends, -⟩ := endLoads_radioBlock 1 s hstage hlease
    rw [hp, hends, if_pos hstage]
    exact ⟨loadRadioConfig_read _, rfl⟩

theorem radio_kept {s : State} {j : StartJob} {p : State × StartJob} (hp : p = State.endLoads 4 s j)
    (hstage : j.stage = .lampTable ∨ j.stage = .baseSet ∨ j.stage = .loaded) : p.1.radio = s.radio := by
  rcases hstage with hstage | hstage | hstage
  · obtain ⟨last, image, hends, -⟩ := endLoads_lampTable 2 s hstage
    rw [hp, hends]
    rfl
  · rw [hp, endLoads_baseSet 3 s hstage, reads_last]
  · rw [hp, endLoads_loaded 4 s hstage]

/-! ## Lamps and base set (R161, R26) -/

/-- A lamp table read afresh gives the entries as memory holds them. -/
theorem loadLamp_words (m : Memory) {n : Nat} (hn : n < 10) : loadLamp (wordsRead m lampWords []) n = loadLamp m n := by
  have hmem : ∀ k, k < 8 → 0x1200 + 32 * n + 2 * k ∈ lampWords := fun k hk => by
    unfold lampWords
    exact List.mem_flatMap.2 ⟨n, List.mem_range.2 hn, mem_wordsFrom.2 ⟨k, hk, rfl⟩⟩
  generalize lampWords = words at hmem
  exact (loadLamp_congr fun k hk => wordsRead_fresh m (hmem (k / 2) (by omega)) (by omega)).1

theorem startCopy_eq (l : Lamp) (c : LampCopy) : l.startCopy c = if c.enabled then { l with copy := c }
    else { l with copy := c, shown := 0, output := false, onTime := 0 } := by
  cases h : c.enabled <;> simp [Lamp.startCopy, Lamp.dark, h]

theorem lampTable_gives (s : State) (m : Memory) {n : Nat} {l : Lamp} (hl : s.lamps.lamps[n]? = some l) :
    (s.loadLampTable m).lamps.lamps[n]? = some (if (loadLamp m n).enabled then { l with copy := loadLamp m n }
      else { l with copy := loadLamp m n, shown := 0, output := false, onTime := 0 }) := by
  have hget := getElem?_mapFrom (fun n l => Lamp.startCopy l (loadLamp m n)) 0 n s.lamps.lamps
  have hlamps : (s.loadLampTable m).lamps.lamps = mapFrom (fun n l => Lamp.startCopy l (loadLamp m n)) 0 s.lamps.lamps := rfl
  rw [hlamps, hget, hl, Option.map_some, Nat.zero_add, startCopy_eq]

/-- A base set read afresh (R26). -/
theorem loadDriveSet_words (m : Memory) (x : Nat) : loadDriveSet (wordsRead m (setWords x) []) (0xA00 + 256 * x)
      = loadDriveSet m (0xA00 + 256 * x) :=
  (Refreshes.loadDriveSet_congr fun k hk => wordsRead_run m (base := 0xA00 + 256 * x) (n := 52) (by omega) (by omega)).1

/-- What the stages up to the lamp table leave: ten lamps with their entries' copies, and the base set as memory holds it. -/
theorem lamps_loads {s : State} {j : StartJob} {p : State × StartJob} (hp : p = State.endLoads 4 s j)
    (hlease : s.radio.lease = .none) {img : Memory} (himg : img = stageImage s j)
    (hstage : j.stage = .anchor ∨ j.stage = .radioBlock ∨ j.stage = .lampTable) :
    (∀ (n : Nat) (l : Lamp), n < 10 → s.lamps.lamps[n]? = some l →
        ∃ (c : LampCopy) (clamped : Bool), lampRead (if j.stage = .lampTable then img else s.xm) n c clamped
          ∧ p.1.lamps.lamps[n]? = some (if c.enabled then { l with copy := c }
            else { l with copy := c, shown := 0, output := false, onTime := 0 }))
      ∧ (p.2.baseIndex ≤ 7 → loadDriveSet p.2.image (0xA00 + 256 * p.2.baseIndex)
        = loadDriveSet s.xm (0xA00 + 256 * p.2.baseIndex)) := by
  have hset : ∀ baseIndex image, (baseIndex ≤ 7 → image = wordsRead s.xm (setWords baseIndex) []) → baseIndex ≤ 7 →
      loadDriveSet image (0xA00 + 256 * baseIndex) = loadDriveSet s.xm (0xA00 + 256 * baseIndex) := by
    intro baseIndex image himage hindex
    rw [himage hindex]
    exact loadDriveSet_words s.xm baseIndex
  have hfresh : ∀ u : State, u.lamps = s.lamps → ∀ (n : Nat) (l : Lamp), n < 10 → s.lamps.lamps[n]? = some l →
      ∃ (c : LampCopy) (clamped : Bool), lampRead s.xm n c clamped
        ∧ (u.loadLampTable (wordsRead s.xm lampWords [])).lamps.lamps[n]? = some (if c.enabled then { l with copy := c }
            else { l with copy := c, shown := 0, output := false, onTime := 0 }) := by
    intro u hu n l hn hl
    refine ⟨loadLamp s.xm n, lampClamped s.xm n, loadLamp_read s.xm n, ?_⟩
    rw [← loadLamp_words s.xm hn]
    exact lampTable_gives u _ (hu ▸ hl)
  rcases hstage with hstage | hstage | hstage
  · obtain ⟨last, image, hends, himage⟩ := endLoads_anchor 0 s hstage hlease
    rw [hp, hends, if_neg (by rw [hstage]; decide)]
    rw [loadAnchor_eq]
    generalize wordsRead s.xm j.todo j.image = anchor at himage ⊢
    exact ⟨hfresh (blockLoaded (anchored s anchor) (wordsRead s.xm radioWords [])) rfl, hset _ image himage⟩
  · obtain ⟨last, image, hends, himage⟩ := endLoads_radioBlock 1 s hstage hlease
    rw [hp, hends, if_neg (by rw [hstage]; decide)]
    exact ⟨hfresh (blockLoaded s (wordsRead s.xm j.todo j.image)) rfl, hset _ image himage⟩
  · obtain ⟨last, image, hends, himage⟩ := endLoads_lampTable 2 s hstage
    have hwords : wordsRead s.xm j.todo j.image = img := himg.symm
    rw [hwords] at hends
    rw [hp, hends, if_pos hstage]
    exact ⟨fun n l hn hl => ⟨loadLamp img n, lampClamped img n, loadLamp_read img n, lampTable_gives s img hl⟩,
      hset _ image himage⟩

theorem baseSet_loads {s : State} {j : StartJob} {p : State × StartJob} (hp : p = State.endLoads 4 s j)
    {img : Memory} (himg : img = stageImage s j) (hstage : j.stage = .baseSet ∨ j.stage = .loaded) :
    p.1.lamps = s.lamps ∧ p.2.image = if j.stage = .loaded then j.image else img := by
  subst himg
  rcases hstage with hstage | hstage
  · rw [hp, endLoads_baseSet 3 s hstage, reads_last, if_neg (by rw [hstage]; decide)]
    exact ⟨rfl, rfl⟩
  · rw [hp, endLoads_loaded 4 s hstage, if_pos hstage]
    exact ⟨rfl, rfl⟩

/-! ## The end of a start (R10, R11) -/

theorem refusal_eq (j : StartJob) {d : DriveSet} (hd : d = loadDriveSet j.image (0xA00 + 256 * j.baseIndex)) :
    j.refusal = if 7 < j.baseIndex then some .badIndex else if d.valid then none else some .notValid := by
  rw [hd]
  rfl

/-- What a start leaves of the part, in RUN or torn down at once. -/
def startLeaves (v t : State) : Prop :=
  t.port.start = none ∧ t.port.startFault = .ok ∧ t.port.notice.getLsbD 5 = true
    ∧ t.timers = v.timers ∧ t.motion = v.motion ∧ t.supply = v.supply
    ∧ t.bridges.cfg = v.bridges.cfg ∧ t.radio.cfg = v.radio.cfg ∧ t.radio.consist = v.radio.consist
    ∧ t.traction.latch = false ∧ t.traction.c = 0 ∧ t.traction.u = 0
    ∧ t.traction.direction = v.traction.direction
    ∧ t.radio.lease = .none ∧ t.radio.repeats = [] ∧ t.radio.zone.present = false
    ∧ t.radio.station = .none
    ∧ t.radio.request = { throttle := 0, direction := v.traction.direction, functions := 0 }

theorem up_leaves {v u : State} {base : Nat} {d : DriveSet} {clamped : Bool} (h : broughtUp v u base d clamped) :
    startLeaves v u ∧ u.orders = v.orders ∧ u.balance = v.balance ∧ u.isRun = true ∧ u.traction.state = .stopped
      ∧ u.lamps = v.lamps ∧ u.bridges.held = stopCommand d.traction
      ∧ u.sets = { v.sets with chain := [{ index := base, resume := none }], cache := some d, clamped := clamped }
      ∧ (v.sound.voices.length = 8 → u.sound.voices.length = 8) := by
  obtain ⟨hframe, hraised, hzone, hlength⟩ := h
  generalize u.xm = xm, u.free = free, u.sound = sound, u.port.notice = notice, u.status.faultCount = faults,
    u.traction.lowest = lowest, u.bridges.a = a, u.bridges.b = b, u.radio.zone = zone at hframe hraised hzone hlength
  subst hframe
  exact ⟨⟨rfl, rfl, hraised, rfl, rfl, rfl, rfl, rfl, rfl, rfl, rfl, rfl, rfl, rfl, rfl, hzone, rfl, rfl⟩, rfl, rfl, rfl, rfl,
    rfl, rfl, rfl, hlength⟩

theorem teardown_dark (l : Lamp) : l.teardown.shown = 0 ∧ l.teardown.output = false := ⟨rfl, rfl⟩

theorem down_leaves {v u t : State} (hu : startLeaves v u) (h : broughtDown u t) :
    startLeaves v t ∧ (u.balance.run = none → t.orders = u.orders) ∧ t.isRun = false ∧ t.traction.state = .quiet
      ∧ t.bridges.held = .off ∧ t.sets = { u.sets with chain := [], cache := none, clamped := false }
      ∧ (u.sound.voices.length = 8 → ∀ v ∈ t.sound.voices, v.state = .idle)
      ∧ (∀ l ∈ t.lamps.lamps, l.shown = 0 ∧ l.output = false) ∧ t.lamps.heater.output = false ∧ t.lamps.fan.drive = 0 := by
  obtain ⟨hstart, hfault, -, htimers, hmotion, hsupply, hcfg, hradio, hconsist, -, -, -, hdirection, -, hrepeats, -, -,
    hwish⟩ := hu
  obtain ⟨hframe, hraised, hzone, horders, hrequest, hidle⟩ := h
  have hrequest' : t.radio.request = { throttle := 0, direction := v.traction.direction, functions := 0 } := by
    rcases hrequest with hr | hr <;> rw [hr, hwish]
  have hlamps : ∀ l ∈ u.lamps.lamps.map Lamp.teardown, l.shown = 0 ∧ l.output = false := by
    intro l hl
    obtain ⟨l', -, rfl⟩ := List.mem_map.1 hl
    exact teardown_dark l'
  generalize t.xm = xm, t.free = free, t.sound = sound, t.port.notice = notice, t.lastGranted = last, t.orders = orders,
    t.radio.zone = zone, t.radio.request = request at *
  subst hframe
  exact ⟨⟨hstart, hfault, hraised, htimers, hmotion, hsupply, hcfg, hradio, hconsist, rfl, rfl, rfl, hdirection, rfl, hrepeats,
    hzone, rfl, hrequest'⟩, horders, rfl, rfl, rfl, rfl, fun h8 => (hidle h8).2, hlamps, rfl, rfl⟩

theorem startEnd_refused {s : State} {j : StartJob} {p : State × StartJob} (hstart : s.port.start = some j)
    (hp : p = State.endLoads 4 s j) {outcome : OutcomeCode} (hrefused : p.2.refusal = some outcome) :
    startEnd s = s ∧ startRefused s
      = (p.1.onPort fun q => { q with start := none, startFault := outcome }).raise .control := by
  rw [hp] at hrefused ⊢
  simp only [startEnd, startRefused, hstart, hrefused, and_self]

theorem startEnd_usable {s : State} {j : StartJob} {p : State × StartJob} (hstart : s.port.start = some j)
    (hp : p = State.endLoads 4 s j) (husable : p.2.refusal = none) :
    startRefused s = s ∧ startEnd s = if j.stopRequest then (p.1.enterRun p.2).teardown else p.1.enterRun p.2 := by
  rw [hp] at husable ⊢
  simp only [startEnd, startRefused, hstart, husable, and_self]

/-- A refused start (R11). -/
theorem start_refused {s : State} {j : StartJob} {p : State × StartJob} (hstart : s.port.start = some j)
    (hquiet : s.isRun = false) (hp : p = State.endLoads 4 s j) (hlease : s.radio.lease = .none) {d : DriveSet}
    (hd : d = loadDriveSet p.2.image (0xA00 + 256 * p.2.baseIndex)) (hbad : 7 < p.2.baseIndex ∨ d.valid = false) :
    exec .startEnd s = .next s
      ∧ exec .startRefused s = .next { p.1 with
          port := { withNotice s.port [.control] with
            start := none, startFault := if 7 < p.2.baseIndex then .badIndex else .notValid } }
      ∧ p.1.isRun = false ∧ p.1.xm = s.xm ∧ p.1.sets = s.sets ∧ p.1.traction = s.traction
      ∧ p.1.sound = s.sound ∧ p.1.bridges = { s.bridges with cfg := p.1.bridges.cfg } := by
  have hrefused : p.2.refusal = some (if 7 < p.2.baseIndex then .badIndex else .notValid) := by
    rw [refusal_eq p.2 hd]
    split
    · rfl
    · next hindex => simp [hbad.resolve_left hindex]
  obtain ⟨hends, hanswers⟩ := startEnd_refused hstart hp hrefused
  have hconfigured := endLoads_configured hp hlease
  unfold configured at hconfigured
  have hport : p.1.port = s.port := by rw [hconfigured]
  refine ⟨congrArg Host.Outcome.next hends, ?_, ?_, ?_, ?_, ?_, ?_, ?_⟩
  · rw [← hport]
    exact congrArg Host.Outcome.next hanswers
  · rw [State.isRun, hport]
    exact hquiet
  all_goals rw [hconfigured]

/-- The entry to RUN of a usable start, and the teardown at once where a stop was asked for (R10, R12). -/
theorem start_enters {s : State} {j : StartJob} {p : State × StartJob} (hwf : s.xm.wf = true)
    (hstart : s.port.start = some j) (hp : p = State.endLoads 4 s j) (hlease : s.radio.lease = .none) {d : DriveSet}
    (hd : d = loadDriveSet p.2.image (0xA00 + 256 * p.2.baseIndex)) (hindex : p.2.baseIndex ≤ 7) (hvalid : d.valid = true) :
    exec .startRefused s = .next s
      ∧ ∃ t, exec .startEnd s = .next t
        ∧ t.port.start = none ∧ t.port.startFault = .ok ∧ t.port.notice.getLsbD 5 = true
        ∧ (j.stopRequest = false ∨ s.balance.run = none → t.orders = p.1.orders)
        ∧ t.timers = p.1.timers ∧ t.motion = p.1.motion ∧ t.supply = p.1.supply
        ∧ t.bridges.cfg = p.1.bridges.cfg ∧ t.radio.cfg = p.1.radio.cfg ∧ t.radio.consist = p.1.radio.consist
        ∧ t.traction.latch = false ∧ t.traction.c = 0 ∧ t.traction.u = 0
        ∧ t.traction.direction = s.traction.direction
        ∧ t.radio.lease = .none ∧ t.radio.repeats = [] ∧ t.radio.zone.present = false
        ∧ t.radio.station = .none
        ∧ t.radio.request = { throttle := 0, direction := s.traction.direction, functions := 0 }
        ∧ (j.stopRequest = false →
          t.isRun = true ∧ t.traction.state = .stopped ∧ t.lamps = p.1.lamps
          ∧ t.sets = { s.sets with
              chain := [{ index := p.2.baseIndex, resume := none }], cache := some d
              clamped := driveSetClamped p.2.image (0xA00 + 256 * p.2.baseIndex) }
          ∧ t.bridges.held = stopCommand d.traction)
        ∧ (j.stopRequest = true → s.balance.run = none → s.sound.voices.length = 8 →
          t.isRun = false ∧ t.traction.state = .quiet ∧ t.bridges.held = .off
          ∧ t.sets = { s.sets with chain := [], cache := none, clamped := false }
          ∧ (∀ v ∈ t.sound.voices, v.state = .idle)
          ∧ (∀ l ∈ t.lamps.lamps, l.shown = 0 ∧ l.output = false)
          ∧ t.lamps.heater.output = false ∧ t.lamps.fan.drive = 0)
        ∧ (voicesLawful s → ∃ u : State,
          runEntered p.1 u p.2.baseIndex d (driveSetClamped p.2.image (0xA00 + 256 * p.2.baseIndex))
          ∧ sameBut s.xm u.xm inSegments
          ∧ (j.stopRequest = false → t = u)
          ∧ (j.stopRequest = true → s.balance.run = none → tornDown u t ∧ sameBut s.xm t.xm inSegments)) := by
  have husable : p.2.refusal = none := by
    rw [refusal_eq p.2 hd, if_neg (Nat.not_lt.2 hindex), if_pos hvalid]
  obtain ⟨hanswers, hends⟩ := startEnd_usable hstart hp husable
  have hconfigured := endLoads_configured hp hlease
  have hbrought := enterRun_brought p.1 p.2
  have hset : loadDriveSet p.2.image (setBase p.2.baseIndex) = d := hd.symm
  have hentered := State.enterRun_entered p.1 p.2
  have hlawful := BlockLaws.enterRun_lawful (l := .voices) (s := p.1) p.2 (fun hno => Law.noConfusion hno)
  have henterwf := State.enterRun_wf p.1 p.2
  rw [hset] at hbrought hentered
  refine ⟨congrArg Host.Outcome.next hanswers, startEnd s, rfl, ?_⟩
  rw [hends]
  generalize p.1.enterRun p.2 = u at *
  obtain ⟨hleaves, horders, hbalance, hrun, hstate, hlamps, hheld, hsets, hlength⟩ := up_leaves hbrought
  clear hends hbrought
  unfold configured at hconfigured
  have hxm : p.1.xm = s.xm := by rw [hconfigured]
  have hrest : p.1.traction = s.traction ∧ p.1.sets = s.sets ∧ p.1.balance = s.balance ∧ p.1.sound = s.sound := by
    rw [hconfigured]
    exact ⟨rfl, rfl, rfl, rfl⟩
  obtain ⟨htraction, hsets', hbalance', hsound⟩ := hrest
  rw [hxm] at hentered
  have hvoices : voicesLawful s → voicesLawful p.1 := fun hv => by rw [voicesLawful, hsound]; exact hv
  have hentered' : voicesLawful s → _ := fun hv => hentered hwf (hvoices hv)
  have hwf' : u.xm.wf = true := henterwf (by rw [hxm]; exact hwf)
  rw [hsets'] at hsets
  rw [hbalance'] at hbalance
  rw [hsound] at hlength
  cases hstop : j.stopRequest with
  | false =>
    obtain ⟨hstart', hfault, hraised, htimers, hmotion, hsupply, hcfg, hradio, hconsist, hlatch, hc, hu, hdirection, hfree,
      hrepeats, hzone, hstation, hrequest⟩ := hleaves
    rw [htraction] at hdirection hrequest
    exact ⟨hstart', hfault, hraised, fun _ => horders, htimers, hmotion, hsupply, hcfg, hradio, hconsist, hlatch, hc, hu,
      hdirection, hfree, hrepeats, hzone, hstation, hrequest, fun _ => ⟨hrun, hstate, hlamps, hsets, hheld⟩,
      fun hno => absurd hno (by decide),
      fun hv => ⟨u, (hentered' hv).1, (hentered' hv).2, fun _ => rfl, fun hno => absurd hno (by decide)⟩⟩
  | true =>
    obtain ⟨hleaves', horders', hrun', hstate', hheld', hsets'', hidle, hdark, hheater, hfan⟩ :=
      down_leaves hleaves (teardown_brought u)
    rw [if_pos rfl]
    have htorn := State.teardown_down u
    generalize u.teardown = t at *
    obtain ⟨hstart', hfault, hraised, htimers, hmotion, hsupply, hcfg, hradio, hconsist, hlatch, hc, hu, hdirection, hfree,
      hrepeats, hzone, hstation, hrequest⟩ := hleaves'
    rw [htraction] at hdirection hrequest
    refine ⟨hstart', hfault, hraised, fun hno => ?_, htimers, hmotion, hsupply, hcfg, hradio, hconsist, hlatch, hc, hu,
      hdirection, hfree, hrepeats, hzone, hstation, hrequest, fun hno => absurd hno (by decide), fun _ _ h8 => ?_,
      fun hv => ⟨u, (hentered' hv).1, (hentered' hv).2, fun hno => absurd hno (by decide), fun _ hno => ?_⟩⟩
    · exact (horders' (by rw [hbalance]; exact hno.resolve_left (by decide))).trans horders
    · refine ⟨hrun', hstate', hheld', ?_, hidle (hlength h8), hdark, hheater, hfan⟩
      rw [hsets'', hsets]
    · have hnone : u.balance.run = none := by rw [hbalance]; exact hno
      have hslot : runSlot u := fun r hr => by rw [hnone] at hr; cases hr
      obtain ⟨hdown, hsame⟩ := htorn hwf' (hlawful (hvoices hv)) hslot
      refine ⟨hdown, sameBut_trans (hentered' hv).2 (sameBut_weaken hsame fun a ha => ?_)⟩
      rcases ha with ⟨r, hr, -⟩ | ha
      · rw [hnone] at hr
        cases hr
      · exact ha

/-! ## START and TEARDOWN (R8, R12, R13) -/

theorem start_asks (s : State) : ∃ t, exec .start s = .next t
    ∧ (s.isRun = true ∨ s.port.start ≠ none →
      t = { s with free := t.free, port := { s.port with miso := t.port.miso } })
    ∧ (s.isRun = false → s.port.start = none → s.port.reset = none →
      t = { s with
        free := t.free
        port := { s.port with
          miso := t.port.miso
          start := some { stage := .anchor, todo := (List.range 15).map fun k => 8 + 2 * k, image := []
                          baseIndex := 0, stopRequest := false } } })
    ∧ (s.isRun = false → s.port.start = none → ∀ j, s.port.reset = some j →
      t = { s with
        free := t.free
        port := { s.port with
          miso := t.port.miso, reset := some { j with startRequest := true } } }) := by
  have hsame : s.registerWrite.isRun = s.isRun ∧ s.registerWrite.port.start = s.port.start
      ∧ s.registerWrite.port.reset = s.port.reset := ⟨rfl, rfl, rfl⟩
  refine ⟨start s, rfl, fun hbusy => ?_, fun hquiet hnone hreset => ?_, fun hquiet hnone j hreset => ?_⟩
  · have hkept : start s = s.registerWrite := by
      rw [start, State.requestStart, hsame.1, hsame.2.1, if_pos (hbusy.imp_right Option.isSome_iff_ne_none.2)]
    rw [hkept]
    rfl
  · have hbegun : start s = s.registerWrite.onPort fun p => { p with start := some StartJob.first } := by
      simp only [start, State.requestStart, hsame, hquiet, hnone, hreset]
      rfl
    rw [hbegun]
    rfl
  · have hkept : start s = s.registerWrite.onPort fun p => { p with reset := some { j with startRequest := true } } := by
      simp only [start, State.requestStart, hsame, hquiet, hnone, hreset]
      rfl
    rw [hkept]
    rfl

theorem teardown_asked (s : State) (hquiet : s.isRun = false) : ∃ t, exec .teardown s = .next t
    ∧ t = { s with
        free := t.free
        port := { s.port with
          miso := t.port.miso
          start := s.port.start.map fun j => { j with stopRequest := true } } } := by
  have hrun : s.registerWrite.port.run = .quiet := by
    have hne : s.port.run ≠ .run := of_decide_eq_false hquiet
    show s.port.run = .quiet
    cases h : s.port.run with
    | run => exact absurd h hne
    | quiet => rfl
  have hsame : s.registerWrite.port.start = s.port.start := rfl
  refine ⟨teardown s, rfl, ?_⟩
  cases hstart : s.port.start with
  | none =>
    have hkept : teardown s = s.registerWrite := by
      simp only [teardown, State.requestStop, hrun, hsame, hstart]
    rw [hkept, Option.map_none, ← hstart]
    rfl
  | some j =>
    have hkept : teardown s
        = s.registerWrite.onPort fun p => { p with start := some { j with stopRequest := true } } := by
      simp only [teardown, State.requestStop, hrun, hsame, hstart]
    rw [hkept]
    rfl

theorem fan_low {s : State} (h : fanLawful s) : (s.lamps.fan.teardown s.clock).leg.high = false := by
  have hbegun : s.lamps.fan.periodStart ≤ s.clock := Nat.le_trans h.1 h.2.1
  have hoff : decide (s.clock < s.lamps.fan.periodStart + onPhase 0) = false := by
    simp only [onPhase]
    exact decide_eq_false (by omega)
  simp only [Fan.teardown, Fan.driveAt, hoff]
  rfl

/-- What a teardown at once leaves (R9, R12), with whatever more is known of it. -/
theorem teardown_rests {s t : State} (h : broughtDown s t) (hvoices : voicesLawful s) {more : Prop} (hmore : more) :
    t.isRun = false ∧ t.sets = { s.sets with chain := [], cache := none, clamped := false }
      ∧ t.traction.c = 0 ∧ t.traction.i = 0 ∧ t.traction.u = 0 ∧ t.traction.latch = false
      ∧ t.traction.direction = s.traction.direction ∧ t.traction.state = .quiet
      ∧ t.bridges.held = .off ∧ t.bridges.a.state = .off
      ∧ (s.bridges.cfg.mode = .parallel → t.bridges.b.state = .off)
      ∧ t.balance.run = none ∧ t.radio.lease = .none ∧ t.radio.station = .none
      ∧ t.radio.zone.present = false
      ∧ (∀ v ∈ t.sound.voices, v.state = .idle)
      ∧ (∀ l ∈ t.lamps.lamps, l.shown = 0 ∧ l.output = false)
      ∧ t.lamps.heater.output = false ∧ t.lamps.heater.working = false
      ∧ (t.lamps.fan.state = .off ∨ t.lamps.fan.state = .latched) ∧ t.lamps.fan.drive = 0
      ∧ (fanLawful s → t.lamps.fan.leg.high = false)
      ∧ t.radio.handling = none ∧ t.radio.waiting = [] ∧ t.radio.service = none
      ∧ t.port.notice.getLsbD 5 = true
      ∧ t.supply = s.supply ∧ t.motion = s.motion ∧ t.timers = s.timers ∧ more := by
  obtain ⟨hframe, hraised, hzone, -, -, hidle⟩ := h
  have hlow := fan_low (s := s)
  have hparallel : s.bridges.cfg.mode = .parallel → (quieted s).bridges.b.state = .off := fun hmode => by
    simp only [quieted, if_pos hmode]
    rfl
  have hdark : ∀ l ∈ s.lamps.lamps.map Lamp.teardown, l.shown = 0 ∧ l.output = false := by
    intro l hl
    obtain ⟨l', -, rfl⟩ := List.mem_map.1 hl
    exact teardown_dark l'
  have hheater : s.lamps.heater.teardown.working = false := by
    cases hstate : s.lamps.heater.state <;> simp [Heater.teardown, Heater.working, hstate]
  have hfan : (s.lamps.fan.teardown s.clock).state = .off ∨ (s.lamps.fan.teardown s.clock).state = .latched := by
    simp only [Fan.teardown]
    split
    · exact .inr rfl
    · exact .inl rfl
  generalize t.xm = xm, t.free = free, t.sound = sound, t.port.notice = notice, t.lastGranted = last, t.orders = orders,
    t.radio.zone = zone, t.radio.request = request at *
  subst hframe
  exact ⟨rfl, rfl, rfl, rfl, rfl, rfl, rfl, rfl, rfl, rfl, hparallel, rfl, rfl, rfl, hzone, (hidle hvoices.1).2, hdark, rfl,
    hheater, hfan, rfl, hlow, rfl, rfl, rfl, hraised, rfl, rfl, rfl, hmore⟩

theorem teardown_taken (s : State) (hrun : s.isRun = true) : ∃ t, exec .teardown s = .next t
      ∧ (s.sets.queue ≠ [] →
        t = { s with
          free := t.free
          port := { s.port with miso := t.port.miso, teardownPending := true } })
      ∧ (s.sets.queue = [] → t = s.registerWrite.teardown) := by
  have hrun' : s.registerWrite.port.run = .run := of_decide_eq_true hrun
  have hqueue : s.registerWrite.sets.queue = s.sets.queue := rfl
  have hasked : teardown s = s.registerWrite.requestTeardown := by
    simp only [teardown, State.requestStop, hrun']
  refine ⟨teardown s, rfl, fun hwaits => ?_, fun hempty => ?_⟩
  · rw [hasked, State.requestTeardown, if_neg (by rw [hqueue]; exact hwaits)]
    rfl
  · rw [hasked, State.requestTeardown, if_pos (by rw [hqueue]; exact hempty)]

/-! ## A teardown at a decision (R12, R37; log 12) -/

/-- The slots of the orders among some actions. -/
def slotsOf (waiting : List SetAction) (x : Nat) : Prop := ∃ b ∈ waiting, ∃ n, b.source = .order n ∧ inSlot n x

theorem slotsOf_tail {b : SetAction} {rest : List SetAction} {x : Nat} (h : slotsOf rest x) : slotsOf (b :: rest) x := by
  obtain ⟨c, hc, hin⟩ := h
  exact ⟨c, List.mem_cons_of_mem _ hc, hin⟩

/-- The answer of an order that a teardown finds waiting (R43). -/
def abandonResult : List Byte := [0, 255, 255, 255, 255]

theorem abandonAction_order {u : State} {b : SetAction} {n : Nat} (hsource : b.source = .order n) :
    u.abandonAction b = u.completeSlot n .notRunning 0 (chainResult u.sets) := by
  simp only [State.abandonAction, hsource]

theorem abandonAction_frame {u : State} {b : SetAction} {f : Frame} (hsource : b.source = .frame f) :
    u.abandonAction b = u := by
  simp only [State.abandonAction, hsource]

theorem completeSlot_reports (u : State) (n : Nat) (outcome : OutcomeCode) (result : List Byte) :
    reportsOnly u (u.completeSlot n outcome 0 result) ∧ noticesOnly u (u.completeSlot n outcome 0 result) := by
  have hslot := u.completeSlot_eq n outcome 0 result
  generalize u.completeSlot n outcome 0 result = v at hslot ⊢
  generalize v.xm = memory at hslot
  subst hslot
  exact ⟨rfl, ⟨[.order], rfl⟩, rfl⟩

/-- The actions that a teardown finds waiting: each order ends NOT_RUNNING in its slot. -/
theorem abandons (waiting : List SetAction) {u : State} (hwf : u.xm.wf = true) (hchain : u.sets.chain = [])
    (hslots : ∀ b ∈ waiting, ∀ n, b.source = .order n → n < 32)
    (hapart : waiting.Pairwise fun a b => ∀ n, a.source = .order n → b.source ≠ .order n) :
    sameBut u.xm (waiting.foldl State.abandonAction u).xm (slotsOf waiting)
      ∧ (∀ b ∈ waiting, ∀ n, b.source = .order n →
        slotDone (waiting.foldl State.abandonAction u).xm n .notRunning 0 abandonResult)
      ∧ reportsOnly u (waiting.foldl State.abandonAction u) ∧ noticesOnly u (waiting.foldl State.abandonAction u) := by
  induction waiting generalizing u with
  | nil => exact ⟨sameBut_refl _ _, fun b hb => absurd hb (by simp), rfl, noticesOnly_refl u⟩
  | cons b rest ih =>
    have hslots' : ∀ c ∈ rest, ∀ n, c.source = .order n → n < 32 := fun c hc => hslots c (List.mem_cons_of_mem _ hc)
    obtain ⟨hbapart, hrapart⟩ := List.pairwise_cons.1 hapart
    rw [List.foldl_cons]
    cases hsource : b.source with
    | frame f =>
      rw [abandonAction_frame hsource]
      obtain ⟨hsame, hdone, honly⟩ := ih hwf hchain hslots' hrapart
      refine ⟨sameBut_weaken hsame fun x hx => slotsOf_tail hx, fun c hc n hn => ?_, honly⟩
      rcases List.mem_cons.1 hc with rfl | hc
      · rw [hsource] at hn
        cases hn
      · exact hdone c hc n hn
    | order n =>
      have hn : n < 32 := hslots b List.mem_cons_self n hsource
      rw [abandonAction_order hsource]
      have hresult : chainResult u.sets = abandonResult := by
        rw [chainResult, hchain]
        rfl
      rw [hresult]
      have hone := u.completeSlot_done n .notRunning 0 abandonResult hwf hn
      have hwrites := u.completeSlot_same n .notRunning 0 abandonResult hwf hn
      obtain ⟨honly, hraised⟩ := completeSlot_reports u n .notRunning abandonResult
      have hwf' : (u.completeSlot n .notRunning 0 abandonResult).xm.wf = true := State.completeSlot_wf _ _ _ _ _ hwf
      have hchain' : (u.completeSlot n .notRunning 0 abandonResult).sets.chain = [] := by simpa using hchain
      generalize u.completeSlot n .notRunning 0 abandonResult = v at *
      obtain ⟨hsame, hdone, honly', hraised'⟩ := ih hwf' hchain' hslots' hrapart
      refine ⟨sameBut_trans (sameBut_weaken hwrites fun x hx => ⟨b, List.mem_cons_self, n, hsource, hx⟩)
        (sameBut_weaken hsame fun x hx => slotsOf_tail hx), fun c hc m hm => ?_, reportsOnly_trans honly honly',
        noticesOnly_trans hraised hraised'⟩
      rcases List.mem_cons.1 hc with rfl | hc
      · obtain rfl : m = n := Requestor.order.inj (hm.symm.trans hsource)
        refine slotDone_of_same hone hsame hn fun x hx => ?_
        rintro ⟨d, hd, k, hk, hin⟩
        have hne : k ≠ m := fun heq => hbapart d hd m hsource (heq ▸ hk)
        exact inSlot_other hne hx hin
      · exact hdone c hc m hm

/-- What a decision leaves for the teardown that waited for it. -/
structure Concluded (s y : State) (a : SetAction) : Prop where
  wf : y.xm.wf = true
  voices : voicesLawful y
  pending : y.port.teardownPending = s.port.teardownPending
  queue : y.sets.queue = s.sets.queue
  balance : y.balance = s.balance
  index : y.radio.logIndex < 64
  same : sameBut s.xm y.xm fun x => reportsOf s.radio.logIndex [a] x ∨ inSegments x
  slot : ∀ n, a.source = .order n → y.xm.read (slotBase n) = 3

/-- A change of the sets, before its report. -/
theorem reported_concluded {s z : State} {a : SetAction} (outcome : OutcomeCode) (hwf : z.xm.wf = true)
    (hvoices : voicesLawful z) (hpending : z.port.teardownPending = s.port.teardownPending)
    (hqueue : z.sets.queue = s.sets.queue) (hbalance : z.balance = s.balance) (hindex : z.radio.logIndex = s.radio.logIndex)
    (hplace : s.radio.logIndex < 64) (hslot : ∀ n, a.source = .order n → n < 32) (hsame : sameBut s.xm z.xm inSegments) :
    Concluded s (z.reportAction a outcome) a := by
  have hplace' : z.radio.logIndex < 64 := by rw [hindex]; exact hplace
  obtain ⟨honly, -⟩ := reportAction_eq z a outcome
  have hrefused := z.reportAction_refused a outcome hwf hplace' hslot
  obtain ⟨horder, hframe⟩ := reportAction_writes a outcome hwf hplace' hslot
  have hpending' := reportAction_teardown z a outcome
  have hwf' := State.reportAction_wf z a outcome hwf
  have hindex' := z.reportAction_logIndex a outcome hplace'
  have hqueue' := congrArg SetManager.queue (State.reportAction_sets z a outcome)
  generalize z.reportAction a outcome = y at *
  have hsound : y.sound = z.sound ∧ y.balance = z.balance := by
    rw [honly]
    exact ⟨rfl, rfl⟩
  refine ⟨hwf', by rw [voicesLawful, hsound.1]; exact hvoices, hpending'.trans hpending, hqueue'.trans hqueue,
    hsound.2.trans hbalance, hindex', ?_, fun n hn => ?_⟩
  · refine sameBut_trans (sameBut_weaken hsame fun x => .inr) ?_
    cases hsource : a.source with
    | order n => exact sameBut_weaken (horder n hsource).1 fun x hx => .inl (reportsOf_order hsource (.inl hx))
    | frame f =>
      rw [← hindex]
      exact sameBut_weaken (hframe f hsource).1 fun x hx => .inl (reportsOf_frame hplace' hsource (.inl rfl) (.inl hx))
  · unfold refusedAction at hrefused
    rw [hn] at hrefused
    exact hrefused.1.1

theorem conclude_concluded {s : State} {a : SetAction} (d : DriveSet) (clamped : Bool) (hwf : s.xm.wf = true)
    (hvoices : voicesLawful s) (hplace : s.radio.logIndex < 64) (hslot : ∀ n, a.source = .order n → n < 32) :
    Concluded s (s.conclude a (some (d, clamped))) a := by
  cases hrefusal : actionRefusal s a (some (d, clamped)) with
  | some outcome =>
    rw [conclude_refused hrefusal]
    exact reported_concluded outcome hwf hvoices rfl rfl rfl rfl hplace hslot (sameBut_refl _ _)
  | none =>
    have happlied : s.conclude a (some (d, clamped)) = (s.applyAction a d clamped).reportAction a (passedCode clamped) := by
      simp only [State.conclude, hrefusal, passedCode]
    obtain ⟨⟨hwf', hkept, hnotices, hframe⟩, -⟩ := applyAction_only hwf a d clamped
    obtain ⟨hvoices', hsame⟩ := hkept hvoices
    rw [happlied]
    have hport := congrArg Port.teardownPending (noticesOnly_port hnotices)
    generalize s.applyAction a d clamped = z at *
    have hrest : z.sets.queue = s.sets.queue ∧ z.balance = s.balance ∧ z.radio.logIndex = s.radio.logIndex := by
      rw [hframe]
      exact ⟨rfl, rfl, rfl⟩
    exact reported_concluded _ hwf' hvoices' hport hrest.1 hrest.2.1 hrest.2.2 hplace hslot hsame

/-- A decision that a teardown has waited for (R12, R37; log 12). -/
theorem decideAction_tearsDown {s : State} {a : SetAction} {rest : List SetAction} {d : DriveSet} {clamped : Bool}
    (hpending : s.port.teardownPending = true) (hqueue : s.sets.queue = a :: rest)
    (hstaged : staged a s.xm = some (d, clamped)) (hdone : Concluded s (s.conclude a (some (d, clamped))) a) :
    s.decideAction a = ((rest.foldl State.abandonAction (s.conclude a (some (d, clamped))).teardown)).queueIs [] := by
  have hqueue' := hdone.queue.trans hqueue
  rw [State.decideAction, hstaged, State.nextAction_teardown _ (hdone.pending.trans hpending), hqueue']
  rfl

/-- The part after such a decision: QUIET, every action answered. -/
theorem torn_after_decision {s y : State} {a : SetAction} {rest : List SetAction} (hqueue : s.sets.queue = a :: rest)
    (hslots : queueSlots s)
    (hapart : ∀ r, s.balance.run = some r → r.slot < 32 ∧ ∀ b ∈ a :: rest, b.source ≠ .order r.slot)
    (hdone : Concluded s y a) {t : State} (ht : t = (rest.foldl State.abandonAction y.teardown).queueIs []) :
    t.isRun = false ∧ t.port.teardownPending = false
      ∧ t.sets = { chain := [], cache := none, clamped := false, queue := [] }
      ∧ (∀ n, a.source = .order n → t.xm.read (slotBase n) = 3)
      ∧ (∀ b ∈ rest, ∀ n, b.source = .order n → slotDone t.xm n .notRunning 0 abandonResult)
      ∧ t.traction.state = .quiet ∧ t.bridges.held = .off ∧ t.balance.run = none ∧ t.radio.lease = .none
      ∧ t.radio.handling = none ∧ t.radio.waiting = [] ∧ t.radio.service = none
      ∧ t.port.notice.getLsbD 5 = true
      ∧ sameBut s.xm t.xm (fun x => inReports s x ∨ inRunEnd s x) := by
  obtain ⟨-, hin, hpairs⟩ := hslots
  rw [hqueue] at hin hpairs
  obtain ⟨hfirst, hothers⟩ := List.pairwise_cons.1 hpairs
  obtain ⟨hwf, hvoices, -, -, hbalance, -, hsame, hslot⟩ := hdone
  have hrunslot : runSlot y := fun r hr => (hapart r (hbalance ▸ hr)).1
  obtain ⟨-, hdownsame⟩ := y.teardown_down hwf hvoices hrunslot
  have hdownwf := State.teardown_wf y hwf
  have hbrought := teardown_brought y
  generalize y.teardown = u at *
  obtain ⟨hframe, hraised, -⟩ := hbrought
  have hchain : u.sets = { chain := [], cache := none, clamped := false, queue := y.sets.queue } := by rw [hframe]
  have hquiet : u.port.run = .quiet ∧ u.port.teardownPending = false ∧ u.traction.state = .quiet ∧ u.bridges.held = .off
      ∧ u.balance.run = none ∧ u.radio.lease = .none ∧ u.radio.handling = none ∧ u.radio.waiting = []
      ∧ u.radio.service = none := by
    rw [hframe]
    exact ⟨rfl, rfl, rfl, rfl, rfl, rfl, rfl, rfl, rfl⟩
  obtain ⟨hrest, hanswers, honly, hnotices⟩ := abandons rest hdownwf (by rw [hchain])
    (fun b hb => hin b (List.mem_cons_of_mem _ hb)) hothers
  have hkeeps := noticesOnly_keeps hnotices hraised
  generalize rest.foldl State.abandonAction u = v at *
  have hrunend : inRunEnd y = inRunEnd s := by
    unfold inRunEnd
    rw [hbalance]
  rw [hrunend] at hdownsame
  have hreports : ∀ x, reportsOf s.radio.logIndex [a] x → inReports s x := by
    rintro x (⟨b, hb, n, hn, hx⟩ | ⟨k, hk, hx⟩)
    · obtain rfl := List.mem_singleton.1 hb
      exact .inl ⟨b, hqueue ▸ List.mem_cons_self, n, hn, hx⟩
    · refine .inr ⟨k, Nat.lt_of_lt_of_le hk ?_, hx⟩
      rw [hqueue, List.countP_cons, List.countP_cons, List.countP_nil]
      omega
  have hvsets : v.sets.chain = [] ∧ v.sets.cache = none ∧ v.sets.clamped = false ∧ v.port.run = .quiet
      ∧ v.port.teardownPending = false ∧ v.traction = u.traction ∧ v.bridges = u.bridges ∧ v.balance = u.balance
      ∧ v.radio.lease = u.radio.lease ∧ v.radio.handling = u.radio.handling ∧ v.radio.waiting = u.radio.waiting
      ∧ v.radio.service = u.radio.service := by
    rw [honly]
    refine ⟨by rw [hchain], by rw [hchain], by rw [hchain], hquiet.1, hquiet.2.1, rfl, rfl, rfl, rfl, rfl, rfl, rfl⟩
  obtain ⟨hc1, hc2, hc3, hrun, hpend, htraction, hbridges, hbal, hlease, hhandling, hwaiting, hservice⟩ := hvsets
  obtain ⟨-, -, hstate, hheld, hnone, hfree, hhand, hwait, hserve⟩ := hquiet
  rw [ht]
  refine ⟨decide_eq_false (by rw [State.queueIs, State.onSets, hrun]; decide), hpend, ?_, fun n hn => ?_, hanswers,
    (congrArg Traction.state htraction).trans hstate, (congrArg BridgeUnit.held hbridges).trans hheld,
    (congrArg Balance.run hbal).trans hnone, hlease.trans hfree, hhandling.trans hhand, hwaiting.trans hwait,
    hservice.trans hserve, hkeeps, ?_⟩
  · rw [State.queueIs, State.onSets, ← hc1, ← hc2, ← hc3]
  · have hn32 : n < 32 := hin a List.mem_cons_self n hn
    have hmark : inSlot n (slotBase n) := .inl rfl
    have hbelow : slotBase n < 65536 := by unfold slotBase; omega
    refine (hrest _ hbelow ?_).trans ((hdownsame _ hbelow ?_).trans (hslot n hn))
    · rintro ⟨b, hb, m, hm, hx⟩
      have hne : m ≠ n := fun heq => hfirst b hb n hn (heq ▸ hm)
      exact inSlot_other hne hmark hx
    · rintro (⟨r, hr, hx⟩ | hx)
      · have hne : r.slot ≠ n := fun heq => (hapart r hr).2 a List.mem_cons_self (heq ▸ hn)
        exact inSlot_other hne hmark hx
      · exact inSlot_segments hn32 hmark hx
  · refine sameBut_trans (sameBut_weaken hsame fun x hx => hx.imp (hreports x) .inr)
      (sameBut_trans (sameBut_weaken hdownsame fun x => .inr) (sameBut_weaken hrest fun x hx => .inl ?_))
    obtain ⟨b, hb, n, hn, hx⟩ := hx
    exact .inl ⟨b, hqueue ▸ List.mem_cons_of_mem _ hb, n, hn, hx⟩

/-- Settles O55: START, the end of a start or its refusal, a stop asked for in QUIET, the teardown at a decision, and the
teardown in RUN. -/
theorem startsAndTeardowns : Obligations.StartsAndTeardowns := by
  refine ⟨start_asks, ?_, teardown_asked, ?_, ?_⟩
  · intro s j hwf hquiet hstart hlease p hp d hd img himg
    refine ⟨?_, anchor_loads hp hlease himg, later_loads hp hlease, radio_loads hp hlease himg, radio_kept hp, ?_,
      baseSet_loads hp himg, start_enters hwf hstart hp hlease hd, start_refused hstart hquiet hp hlease hd⟩
    · rintro rfl a hlow hhigh
      rw [himg]
      exact wordsRead_run s.xm (base := 8) (n := 15) hlow hhigh
    · intro hstage
      obtain ⟨hlamps, hset⟩ := lamps_loads hp hlease himg hstage
      refine ⟨hlamps, fun hindex => ?_⟩
      have hsame := hd.trans (hset hindex)
      refine ⟨hsame, ?_⟩
      rw [hsame]
      exact decide_eq_true_iff.trans (byte_eq_iff _ (k := 0x5A) (by decide)).symm
  · intro s a rest c d clamped hwf hrun hpending hqueue hslots hapart hvoices hstaged hcommand
    have hdone := conclude_concluded d clamped hwf hvoices hslots.1 (hslots.2.1 a (by rw [hqueue]; exact List.mem_cons_self))
    exact ⟨s.decideAction a, exec_decides hqueue hcommand,
      torn_after_decision hqueue hslots hapart hdone (decideAction_tearsDown hpending hqueue hstaged hdone)⟩
  · intro s hrun
    obtain ⟨t, hexec, hpends, htaken⟩ := teardown_taken s hrun
    refine ⟨t, hexec, hpends, fun hempty hvoices => ?_⟩
    rw [htaken hempty]
    refine teardown_rests (teardown_brought s.registerWrite) hvoices fun hwf hslot => ?_
    obtain ⟨hdown, hsame⟩ := s.registerWrite.teardown_down hwf hvoices hslot
    exact ⟨hsame, s.registerWrite, rfl, hdown⟩

end Sys2Proof.Starts
end

section
/-! PROOFS. Every step keeps the laws of the set chain and of the actions that wait (R32, R34, R35, R37): in RUN one to four
entries and a cached set, in QUIET nothing of either. -/

namespace Sys2Proof.SetLaws
open Sys2Proof.Machine Sys2Proof.Safety Sys2Proof.Chains Sys2Proof.Teardowns

variable {s t : State}

/-! ## The laws, by the run state -/

/-- The chain as it is in RUN. -/
def chainUp (m : SetManager) : Prop :=
  1 ≤ m.chain.length ∧ m.chain.length ≤ 4 ∧ (m.chain.map ChainEntry.index).Nodup ∧ (∀ e ∈ m.chain, e.index ≤ 7)
    ∧ resumesRight m.chain = true ∧ m.cache ≠ none

/-- Every action that waits and loads names one of the eight sets. -/
def namesSets (queue : List SetAction) : Prop := ∀ a ∈ queue, actionLawful a

def setsUp (s : State) : Prop := s.isRun = true ∧ chainUp s.sets ∧ namesSets s.sets.queue

def setsDown (s : State) : Prop :=
  s.isRun = false ∧ s.sets = { chain := [], cache := none, clamped := false, queue := [] }

/-- The laws of chain and queue. -/
def setsRight (s : State) : Prop := chainLawful s ∧ queueLawful s

theorem setsRight_iff (s : State) : setsRight s ↔ setsUp s ∨ setsDown s := by
  unfold setsRight chainLawful queueLawful setsUp setsDown chainUp namesSets
  cases hrun : s.isRun with
  | true => simp
  | false =>
    simp only [Bool.false_eq_true, if_false, false_and, false_or, true_and, forall_const]
    constructor
    · rintro ⟨⟨hchain, hcache, hclamped⟩, hqueue, -⟩
      rw [← hchain, ← hcache, ← hclamped, ← hqueue]
    · intro hsets
      rw [hsets]
      exact ⟨⟨rfl, rfl, rfl⟩, rfl, fun a ha => absurd ha List.not_mem_nil⟩

theorem setsUp_beside (hsets : t.sets = s.sets) (hrun : t.port.run = s.port.run) (h : setsUp s) : setsUp t := by
  unfold setsUp State.isRun at *
  rwa [hsets, hrun]

theorem setsRight_beside (h : t.sets = s.sets ∧ t.port.run = s.port.run) (hs : setsRight s) : setsRight t := by
  unfold setsRight chainLawful queueLawful State.isRun at *
  rwa [h.1, h.2]

theorem up_of_run (hrun : s.isRun = true) (h : setsRight s) : setsUp s :=
  ((setsRight_iff s).1 h).resolve_right fun hdown => absurd (hdown.1.symm.trans hrun) (by decide)

theorem down_of_quiet (hquiet : s.isRun = false) (h : setsRight s) : setsDown s :=
  ((setsRight_iff s).1 h).resolve_left fun hup => absurd (hup.1.symm.trans hquiet) (by decide)

theorem right_of_up (h : setsUp s) : setsRight s := (setsRight_iff s).2 (.inl h)

theorem right_of_down (h : setsDown s) : setsRight s := (setsRight_iff s).2 (.inr h)

/-! ## Changes of the chain (R39 to R41) -/

theorem mapLast_append (f : ChainEntry → ChainEntry) (l : List ChainEntry) (e : ChainEntry) :
    mapLast f (l ++ [e]) = l ++ [f e] := by
  induction l with
  | nil => rfl
  | cons a l ih =>
    cases l with
    | nil => rfl
    | cons b l => exact congrArg (a :: ·) ih

/-- Resume records below the top alone. -/
theorem resumesRight_append (l : List ChainEntry) (e : ChainEntry) :
    resumesRight (l ++ [e]) = true ↔ (∀ x ∈ l, x.resume.isSome = true) ∧ e.resume.isNone = true := by
  induction l with
  | nil => simp [resumesRight]
  | cons a l ih =>
    have hcons : resumesRight (a :: (l ++ [e])) = (a.resume.isSome && resumesRight (l ++ [e])) := by
      cases l <;> rfl
    rw [List.cons_append, hcons, Bool.and_eq_true, ih]
    simp [and_assoc]

/-- A chain of RUN is a list of entries with a resume record, and the top without one. -/
theorem chainUp_append {m : SetManager} (h : chainUp m) : ∃ below top, m.chain = below ++ [top] := by
  obtain ⟨hlong, -⟩ := h
  exact ⟨m.chain.dropLast, m.chain.getLast (List.length_pos_iff.1 hlong), (List.dropLast_append_getLast _).symm⟩

/-- The checks that an INVOKE or a SWITCH has passed. -/
theorem placed_of_passed {a : SetAction} {d : DriveSet} {clamped full : Bool}
    (h : placeRefusal s a (some (d, clamped)) full = none) : (∀ e ∈ s.sets.chain, e.index ≠ a.index) ∧ full = false := by
  unfold placeRefusal at h
  simp only at h
  split at h
  · cases h
  · split at h
    · cases h
    · split at h
      · cases h
      · split at h
        · cases h
        · next hfree =>
          refine ⟨fun e he heq => hfree ?_, ?_⟩
          · exact List.any_eq_true.2 ⟨e, he, decide_eq_true heq⟩
          · cases full with
            | false => rfl
            | true => cases h

theorem nodup_replaced {below : List ChainEntry} {top : ChainEntry} {x : Nat}
    (h : ((below ++ [top]).map ChainEntry.index).Nodup) (hfree : ∀ e ∈ below ++ [top], e.index ≠ x) :
    (below.map ChainEntry.index ++ [x]).Nodup := by
  rw [List.map_append] at h
  refine List.nodup_append.2 ⟨(List.nodup_append.1 h).1, List.nodup_singleton _, fun n hn m hm heq => ?_⟩
  obtain ⟨e, he, rfl⟩ := List.mem_map.1 hn
  rw [List.mem_singleton] at hm
  exact hfree e (List.mem_append_left _ he) (heq.trans hm)

/-- The chain after an action that passed its checks is one of RUN (R39 to R42). -/
theorem chainAfter_up {a : SetAction} {d : DriveSet} {clamped : Bool} (h : chainUp s.sets)
    (hindex : a.kind = .invoke ∨ a.kind = .switch → a.index ≤ 7)
    (hpass : actionRefusal s a (some (d, clamped)) = none) {m : SetManager} (hchain : m.chain = chainAfter s a)
    (hcache : m.cache ≠ none) : chainUp m := by
  obtain ⟨below, top, hall⟩ := chainUp_append h
  obtain ⟨hlong, hshort, hnodup, hseven, hresumes, -⟩ := h
  unfold chainUp
  rw [hchain]
  rw [hall] at hlong hshort hnodup hseven hresumes
  obtain ⟨hsome, hnone⟩ := (resumesRight_append _ _).1 hresumes
  have hbelow : ∀ e ∈ below, e.index ≤ 7 := fun e he => hseven e (List.mem_append_left _ he)
  rw [List.length_append, List.length_singleton] at hlong hshort
  unfold actionRefusal at hpass
  unfold chainAfter
  rw [hall]
  cases hkind : a.kind with
  | switch =>
    simp only [hkind] at hpass ⊢
    obtain ⟨hfree, -⟩ := placed_of_passed hpass
    rw [hall] at hfree
    rw [mapLast_append, resumesRight_append, List.map_append]
    refine ⟨by simp, by simpa using hshort, nodup_replaced hnodup hfree, fun e he => ?_, ⟨hsome, hnone⟩, hcache⟩
    rcases List.mem_append.1 he with he | he
    · exact hbelow e he
    · rw [List.mem_singleton.1 he]
      exact hindex (.inr hkind)
  | invoke =>
    simp only [hkind] at hpass ⊢
    obtain ⟨hfree, hfull⟩ := placed_of_passed hpass
    have hroom : below.length + 1 < 4 := by
      have := of_decide_eq_false hfull
      rw [hall, List.length_append, List.length_singleton] at this
      omega
    rw [hall] at hfree
    rw [mapLast_append, resumesRight_append]
    refine ⟨by simp, by simp; omega, ?_, fun e he => ?_, ⟨fun e he => ?_, rfl⟩, hcache⟩
    · have hsame : (below ++ [{ top with resume := some s.radio.request }]).map ChainEntry.index
          = (below ++ [top]).map ChainEntry.index := by simp
      rw [List.map_append, hsame]
      refine List.nodup_append.2 ⟨hnodup, List.nodup_singleton _, fun n hn m hm heq => ?_⟩
      obtain ⟨e, he, rfl⟩ := List.mem_map.1 hn
      rw [List.map_singleton, List.mem_singleton] at hm
      exact hfree e he (heq.trans hm)
    · rcases List.mem_append.1 he with he | he
      · rcases List.mem_append.1 he with he | he
        · exact hbelow e he
        · rw [List.mem_singleton.1 he]
          exact hseven top (by simp)
      · rw [List.mem_singleton.1 he]
        exact hindex (.inl hkind)
    · rcases List.mem_append.1 he with he | he
      · exact hsome e he
      · rw [List.mem_singleton.1 he]
        rfl
  | returnSet =>
    simp only [hkind] at hpass ⊢
    have hmore : 1 < below.length + 1 := by
      by_contra hno
      have hshort : s.sets.chain.length ≤ 1 := by
        rw [hall, List.length_append, List.length_singleton]
        omega
      simp only [returnRefusal, if_pos hshort] at hpass
      split at hpass <;> cases hpass
    obtain ⟨under, e, rfl⟩ : ∃ under e, below = under ++ [e] :=
      ⟨below.dropLast, below.getLast (List.length_pos_iff.1 (by omega)), (List.dropLast_append_getLast _).symm⟩
    rw [List.dropLast_concat, mapLast_append, resumesRight_append]
    rw [List.length_append, List.length_singleton] at hmore hshort
    have hsame : (under ++ [{ e with resume := none }]).map ChainEntry.index = (under ++ [e]).map ChainEntry.index := by simp
    refine ⟨by simp, by simp; omega, ?_, fun x hx => ?_, ⟨fun x hx => hsome x (List.mem_append_left _ hx), rfl⟩, hcache⟩
    · rw [hsame]
      rw [List.map_append] at hnodup
      exact (List.nodup_append.1 hnodup).1
    · rcases List.mem_append.1 hx with hx | hx
      · exact hbelow x (List.mem_append_left _ hx)
      · rw [List.mem_singleton.1 hx]
        exact hbelow e (by simp)
  | refresh => exact ⟨by simp, by simpa using hshort, hnodup, hseven, hresumes, hcache⟩

/-! ## Decisions (R37, R43) -/

theorem reportAction_up (a : SetAction) (outcome : OutcomeCode) (h : setsUp s) : setsUp (s.reportAction a outcome) :=
  setsUp_beside (by simp) (by simp) h

theorem conclude_up (a : SetAction) (d : Option (DriveSet × Bool))
    (hindex : d ≠ none → a.kind = .invoke ∨ a.kind = .switch → a.index ≤ 7) (h : setsUp s) : setsUp (s.conclude a d) := by
  unfold State.conclude
  split
  · next d clamped hpass =>
    refine reportAction_up _ _ ?_
    obtain ⟨hrun, hchain, hqueue⟩ := h
    have hsets : (s.applyAction a d clamped).sets = { s.sets with
        chain := chainAfter s a, cache := some d, clamped := clamped } := by
      simp only [State.applyAction]
      repeat' split
      all_goals simp
    have hstays : (s.applyAction a d clamped).port.run = s.port.run := by simp
    refine ⟨(decide_eq_decide.2 (by rw [hstays])).trans hrun, ?_, ?_⟩
    · exact chainAfter_up hchain (hindex (by simp)) hpass (by rw [hsets]) (by rw [hsets]; simp)
    · rw [hsets]
      exact hqueue
  · exact reportAction_up _ _ h
  · exact h

theorem queueIs_up {q : List SetAction} (hq : namesSets q) (h : setsUp s) : setsUp (s.queueIs q) := ⟨h.1, h.2.1, hq⟩

/-- An action that takes up a load names a set (R38). -/
theorem loading_names {m : SetManager} {a : SetAction} {x : Nat} (h : loadIndex m a = some x) (load : Option TableLoad) :
    actionLawful { a with load := load } := by
  intro hkind _
  have hplace : (if a.index ≤ 7 then some a.index else none) = some x := by
    rcases hkind with hkind | hkind <;> simpa only [loadIndex, show a.kind = _ from hkind] using h
  split at hplace
  · assumption
  · cases hplace

theorem takeWaiting_up (waiting : List SetAction) (hwaiting : namesSets waiting) (h : setsUp s) :
    setsUp (State.takeWaiting waiting s) := by
  induction waiting generalizing s with
  | nil => exact queueIs_up hwaiting h
  | cons a rest ih =>
    have hrest : namesSets rest := fun b hb => hwaiting b (List.mem_cons_of_mem _ hb)
    unfold State.takeWaiting
    split
    · next x hx =>
      refine queueIs_up (fun b hb => ?_) h
      rcases List.mem_cons.1 hb with rfl | hb
      · exact loading_names hx _
      · exact hrest b hb
    · exact ih hrest (conclude_up _ _ (fun hno => absurd rfl hno) h)

theorem abandons_queue (waiting : List SetAction) : (s.abandonWaiting waiting).sets = { s.sets with queue := [] } := by
  have hfold : ∀ u : State, (waiting.foldl State.abandonAction u).sets = u.sets :=
    foldl_keeps (act := State.abandonAction) (·.sets) (by simp) waiting
  rw [State.abandonWaiting, State.queueIs, State.onSets, hfold]

/-- A teardown leaves chain and cache empty, and the actions that wait as they are. -/
theorem teardown_sets (s : State) : s.teardown.isRun = false
    ∧ s.teardown.sets = { s.sets with chain := [], cache := none, clamped := false } := by
  obtain ⟨hframe, -⟩ := teardown_brought s
  generalize s.teardown = t at hframe
  constructor <;> rw [hframe]
  rfl

theorem nextAction_right (h : setsUp s) : setsRight s.nextAction := by
  unfold State.nextAction
  simp only
  split
  · obtain ⟨hquiet, hsets⟩ := teardown_sets s
    refine right_of_down ⟨?_, ?_⟩
    · have hrun : (s.teardown.abandonWaiting (s.sets.queue.drop 1)).port.run = s.teardown.port.run := by simp
      exact (decide_eq_decide.2 (by rw [hrun])).trans hquiet
    · rw [abandons_queue, hsets]
  · exact right_of_up (takeWaiting_up _ (fun a ha => h.2.2 a (List.mem_of_mem_drop ha)) h)

theorem decideHead_right (kind : SetActionKind) (h : setsRight s) : setsRight (s.decideHead kind) := by
  unfold State.decideHead
  split
  · next a rest hqueue =>
    split
    · have hup := ((setsRight_iff s).1 h).resolve_right fun hdown => by
        have hempty := congrArg SetManager.queue hdown.2
        rw [hqueue] at hempty
        cases hempty
      have hmine : actionLawful a := hup.2.2 a (by rw [hqueue]; exact List.mem_cons_self)
      refine nextAction_right (conclude_up a _ (fun hloaded hkind => hmine hkind fun hno => hloaded ?_) hup)
      rw [staged, hno]
      rfl
    · exact h
  · exact h

/-! ## Arrivals (R37) -/

theorem actionArrives_up {a : SetAction} (ha : a.load = none) (h : setsUp s) : setsUp (s.actionArrives a) := by
  have hmine : actionLawful a := fun _ hno => absurd ha hno
  unfold State.actionArrives
  split
  · exact takeWaiting_up _ (fun b hb => by rw [List.mem_singleton.1 hb]; exact hmine) h
  · refine queueIs_up (fun b hb => ?_) h
    rcases List.mem_append.1 hb with hb | hb
    · exact h.2.2 b hb
    · rw [List.mem_singleton.1 hb]
      exact hmine

theorem requestAction_up (code index level : Nat) (source : Requestor) (h : setsUp s) :
    setsUp (s.requestAction code index level source) := by
  unfold State.requestAction
  split
  · exact actionArrives_up rfl h
  · exact reportAction_up _ _ h

/-- An order that passes the common checks, CLEAR_FAULTS apart, finds RUN (R19). -/
theorem run_of_ready {kind : Nat} (hkind : kind ≠ 13) (h : orderRefusal s kind = none) : s.isRun = true := by
  unfold orderRefusal at h
  split at h
  · cases h
  · split at h
    · cases h
    · next hno =>
      by_contra hquiet
      exact hno ⟨by simpa using hquiet, hkind⟩

/-- The order in hand of a kind. -/
theorem kind_of_inHand {kind : Nat} {o : TakenOrder} (h : orderInHand s (orderKind kind) = some o) : o.kind = kind := by
  unfold orderInHand at h
  split at h
  · simpa [orderKind] using (Option.filter_eq_some_iff.1 h).2
  · cases h

theorem handOver_right {kind : Nat} (hkind : kind ≠ 13) {act : State → TakenOrder → State}
    (hact : ∀ u o, setsUp u → setsUp (act u o)) (h : setsRight s) : setsRight (s.handOver kind act) := by
  unfold State.handOver
  split
  · next o ho =>
    split
    · exact setsRight_beside (s := s) (by simp) h
    · next hready =>
      have hrun := run_of_ready (by rw [kind_of_inHand ho]; exact hkind) hready
      exact right_of_up (hact _ _ (setsUp_beside (s := s) rfl rfl (up_of_run hrun h)))
  · exact h

theorem setAction_right (h : setsRight s) : setsRight (setAction s) :=
  handOver_right (by decide) (fun _ _ => requestAction_up _ _ _ _) h

theorem refreshSet_right (h : setsRight s) : setsRight (refreshSet s) :=
  decideHead_right _ (handOver_right (by decide) (fun _ _ => actionArrives_up rfl) h)

theorem setFrame_right (hframes : s.isRun = false → s.radio.handling = none) (h : setsRight s) : setsRight (setFrame s) := by
  unfold setFrame State.handleFrame
  split
  · next f hf =>
    split
    · have hrun : s.isRun = true := by
        by_contra hquiet
        have hnone := hframes (by simpa using hquiet)
        rw [hf] at hnone
        cases hnone
      have hheard : setsUp (s.hearHolder f) := setsUp_beside (by simp) (by simp) (up_of_run hrun h)
      refine right_of_up (setsUp_beside (s := s.actOn f setAct) (by simp) (by simp) ?_)
      unfold State.actOn setAct
      simp only
      repeat' split
      · exact setsUp_beside (by simp) (by simp) hheard
      · exact setsUp_beside (by simp) (by simp) hheard
      · exact requestAction_up _ _ _ _ hheard
      · exact setsUp_beside (by simp) (by simp) hheard
    · exact h
  · exact h

/-! ## The run state (R10, R12) -/

theorem refusal_none {j : StartJob} (h : j.refusal = none) : j.baseIndex ≤ 7 := by
  unfold StartJob.refusal at h
  split at h
  · cases h
  · omega

theorem startEnd_right (hstart : startLawful s) (h : setsRight s) : setsRight (startEnd s) := by
  simp only [startEnd]
  split
  · next j hj =>
    have hquiet := (StartLaws.start_alone hstart hj).1
    have hdown := down_of_quiet (by simp [State.isRun, hquiet]) h
    have hempty : (State.endLoads 4 s j).1.sets = s.sets := by simp
    split
    · next hpass =>
      obtain ⟨hframe, -⟩ := enterRun_brought (State.endLoads 4 s j).1 (State.endLoads 4 s j).2
      generalize (State.endLoads 4 s j).1.enterRun (State.endLoads 4 s j).2 = u at hframe
      have hsets : u.sets.queue = [] ∧ u.isRun = true ∧ chainUp u.sets := by
        have hqueue : s.sets.queue = [] := congrArg SetManager.queue hdown.2
        rw [hframe, hempty]
        refine ⟨hqueue, rfl, ?_⟩
        exact ⟨Nat.le_refl 1, by simp, List.nodup_singleton _, fun e he => by
          rw [List.mem_singleton.1 he]; exact refusal_none hpass, rfl, by simp⟩
      obtain ⟨hqueue, hrun, hchain⟩ := hsets
      split
      · obtain ⟨hquiet, hsets⟩ := teardown_sets u
        exact right_of_down ⟨hquiet, hsets.trans (by simp only [hqueue])⟩
      · refine right_of_up ⟨hrun, hchain, ?_⟩
        rw [hqueue]
        exact fun a ha => absurd ha List.not_mem_nil
    · exact h
  · exact h

theorem requestStop_right (h : setsRight s) : setsRight s.requestStop := by
  unfold State.requestStop State.requestTeardown
  split
  · split
    · next hempty =>
      obtain ⟨hquiet, hsets⟩ := teardown_sets s
      exact right_of_down ⟨hquiet, hsets.trans (by simp only [hempty])⟩
    · exact h
  · split
    · exact h
    · exact h

theorem reset_right (ht : t.isRun = false) (hsets : t.sets = State.reset.sets) : setsRight t :=
  right_of_down ⟨ht, hsets⟩

/-! ## Every command -/

theorem exec_right {c : Instr} (hstart : startLawful s) (hframes : s.isRun = false → s.radio.handling = none)
    (h : setsRight s) (hexec : exec c s = .next t) : setsRight t := by
  cases c
  case setAction => cases hexec; exact setAction_right h
  case setFrame => cases hexec; exact setFrame_right hframes h
  case refreshSet => cases hexec; exact refreshSet_right h
  case invoke => cases hexec; exact decideHead_right _ h
  case switch => cases hexec; exact decideHead_right _ h
  case returnSet => cases hexec; exact decideHead_right _ h
  case startEnd => cases hexec; exact startEnd_right hstart h
  case teardown => cases hexec; exact requestStop_right (s := s.registerWrite) h
  case powerReset => cases hexec; exact reset_right rfl rfl
  case brownoutReset => cases hexec; exact reset_right rfl rfl
  case softReset => cases hexec; exact reset_right rfl rfl
  all_goals
    cases hexec
    exact setsRight_beside (s := s) (by simp) h

/-! ## The idle step (R31) -/

theorem grantLoad_right (h : setsRight s) : setsRight s.grantLoad := by
  rcases (setsRight_iff s).1 h with ⟨hrun, hchain, hqueue⟩ | ⟨hquiet, hsets⟩
  · refine right_of_up ⟨hrun, ?_, ?_⟩
    · unfold State.grantLoad State.onSets
      simp only
      split <;> exact hchain
    · unfold State.grantLoad State.onSets
      simp only
      split
      · next a rest hall =>
        rw [hall] at hqueue
        intro b hb
        rcases List.mem_cons.1 hb with rfl | hb
        · intro hkind hload
          exact hqueue a List.mem_cons_self hkind fun hno => hload (by rw [hno]; rfl)
        · exact hqueue b (List.mem_cons_of_mem _ hb)
      · exact hqueue
  · refine right_of_down ⟨hquiet, ?_⟩
    unfold State.grantLoad State.onSets
    rw [hsets]

theorem grantRefresh_right (hready : refreshReady s = true) (h : setsRight s) : setsRight s.grantRefresh := by
  unfold refreshReady at hready
  obtain ⟨-, hready⟩ := Bool.and_eq_true _ _ ▸ hready
  unfold State.grantRefresh
  split
  · next o ho =>
    rw [ho, Option.any_some, decide_eq_true_eq] at hready
    have hpass : orderRefusal s o.kind = none := by
      unfold readyOrder at ho
      simpa using (Option.filter_eq_some_iff.1 ho).2
    have hrun := run_of_ready (by rw [hready]; decide) hpass
    exact grantLoad_right (right_of_up (actionArrives_up (s := s.dropOrder) rfl
      (setsUp_beside (s := s) rfl rfl (up_of_run hrun h))))
  · exact h

theorem grantOrders_right (h : setsRight s) : setsRight s.grantOrders := by
  unfold State.grantOrders
  repeat' split
  · exact setsRight_beside (s := s) (by simp) h
  · exact setsRight_beside (s := s) (by simp) h
  · exact h
  · exact grantLoad_right h
  · exact setsRight_beside (s := s) (by simp) h
  · exact grantRefresh_right (by assumption) h
  · exact setsRight_beside (s := s) (by simp) h
  · exact h

theorem grant_right (r : Requester) (h : setsRight s) : setsRight (s.grant r) := by
  cases r with
  | hostPort => exact h
  | orderEngine => exact grantOrders_right h
  | statusWriter => exact setsRight_beside (s := s) (by simp [State.grant]) h
  | radioWriter => exact setsRight_beside (s := s) (by simp [State.grant]) h

theorem idle_right (h : setsRight s) : setsRight (idle s) :=
  grants_keeps (P := setsRight) (fun u hu => setsRight_beside (s := u) (by simp) hu) (fun _ r => grant_right r) _ h

end Sys2Proof.SetLaws
end

section
/-! PROOFS. Every step keeps the law of the frames (R9, R116, R130): in QUIET none waits and none is handled, and a service
write is that of the frame in hand. -/

namespace Sys2Proof.FrameLaws
open Sys2Proof.Machine Sys2Proof.Safety Sys2Proof.Chains Sys2Proof.Notices Sys2Proof.Teardowns Sys2Proof.SetLaws

variable {s t : State}

/-! ## What leaves the frames to be -/

/-- The frame being handled, the frames that wait and the service write stay. -/
def mailKept (s t : State) : Prop :=
  t.radio.handling = s.radio.handling ∧ t.radio.waiting = s.radio.waiting ∧ t.radio.service = s.radio.service

section
variable (s : State)

@[simp] theorem derive_mail : s.derive.radio.handling = s.radio.handling ∧ s.derive.radio.waiting = s.radio.waiting
    ∧ s.derive.radio.service = s.radio.service := by
  have hradio := congrArg State.radio (derive_eq s)
  generalize s.derive.radio = r at hradio ⊢
  generalize r.station = station at hradio
  subst hradio
  exact ⟨rfl, rfl, rfl⟩

@[simp] theorem offer_mail (kind : RecordKind) (reason : Reason) (f : Frame) :
    (s.offer kind reason f).radio.handling = s.radio.handling ∧ (s.offer kind reason f).radio.waiting = s.radio.waiting
      ∧ (s.offer kind reason f).radio.service = s.radio.service := by
  have hradio := congrArg State.radio (s.offer_eq kind reason f)
  generalize (s.offer kind reason f).radio = r at hradio ⊢
  generalize r.logIndex = index, r.logSeq = number, r.overflow = overflow at hradio
  subst hradio
  exact ⟨rfl, rfl, rfl⟩

@[simp] theorem logFrame_mail (reason : Reason) (f : Frame) : (s.logFrame reason f).radio.handling = s.radio.handling
    ∧ (s.logFrame reason f).radio.waiting = s.radio.waiting ∧ (s.logFrame reason f).radio.service = s.radio.service :=
  offer_mail s .frame reason f

@[simp] theorem logBeacon_mail (reason : Reason) (f : Frame) : (s.logBeacon reason f).radio.handling = s.radio.handling
    ∧ (s.logBeacon reason f).radio.waiting = s.radio.waiting ∧ (s.logBeacon reason f).radio.service = s.radio.service :=
  offer_mail s .beacon reason f

@[simp] theorem cancelStation_mail : s.cancelStation.radio.handling = s.radio.handling
    ∧ s.cancelStation.radio.waiting = s.radio.waiting ∧ s.cancelStation.radio.service = s.radio.service := by
  unfold State.cancelStation
  split <;> simp

@[simp] theorem closeRun_mail (r : BalanceRun) (outcome : OutcomeCode) (g : Nat) :
    (s.closeRun r outcome g).radio.handling = s.radio.handling ∧ (s.closeRun r outcome g).radio.waiting = s.radio.waiting
      ∧ (s.closeRun r outcome g).radio.service = s.radio.service := by
  simp [State.closeRun, State.freeLease, State.tractionRunEnds]

@[simp] theorem endRun_mail (outcome : OutcomeCode) : (s.endRun outcome).radio.handling = s.radio.handling
    ∧ (s.endRun outcome).radio.waiting = s.radio.waiting ∧ (s.endRun outcome).radio.service = s.radio.service := by
  unfold State.endRun
  split <;> simp

@[simp] theorem hearHolder_mail (f : Frame) : (s.hearHolder f).radio.handling = s.radio.handling
    ∧ (s.hearHolder f).radio.waiting = s.radio.waiting ∧ (s.hearHolder f).radio.service = s.radio.service := by
  unfold State.hearHolder
  split <;> simp

@[simp] theorem releaseLatch_mail : s.releaseLatch.radio.handling = s.radio.handling
    ∧ s.releaseLatch.radio.waiting = s.radio.waiting ∧ s.releaseLatch.radio.service = s.radio.service := by
  unfold State.releaseLatch
  split <;> simp

@[simp] theorem releaseLease_mail : s.releaseLease.radio.handling = s.radio.handling
    ∧ s.releaseLease.radio.waiting = s.radio.waiting ∧ s.releaseLease.radio.service = s.radio.service := by
  simp [State.releaseLease, State.freeLease]

@[simp] theorem applyRequest_mail (throttle : Nat) (direction : Direction) :
    (s.applyRequest throttle direction).radio.handling = s.radio.handling
      ∧ (s.applyRequest throttle direction).radio.waiting = s.radio.waiting
      ∧ (s.applyRequest throttle direction).radio.service = s.radio.service := by
  simp only [State.applyRequest]
  split <;> simp [State.onRequest]

@[simp] theorem overduePoints_mail : s.overduePoints.radio.handling = s.radio.handling
    ∧ s.overduePoints.radio.waiting = s.radio.waiting ∧ s.overduePoints.radio.service = s.radio.service := by
  simp only [State.overduePoints]
  repeat' split
  all_goals simp

@[simp] theorem loadRadio_mail (m : Memory) : (s.loadRadio m).radio.handling = s.radio.handling
    ∧ (s.loadRadio m).radio.waiting = s.radio.waiting ∧ (s.loadRadio m).radio.service = s.radio.service := by
  simp [State.loadRadio]

@[simp] theorem emergencyStop_mail : s.emergencyStop.radio.handling = s.radio.handling
    ∧ s.emergencyStop.radio.waiting = s.radio.waiting ∧ s.emergencyStop.radio.service = s.radio.service := by
  simp [State.emergencyStop]

@[simp] theorem setFunctions_mail (functions : Reg) : (s.setFunctions functions).radio.handling = s.radio.handling
    ∧ (s.setFunctions functions).radio.waiting = s.radio.waiting
    ∧ (s.setFunctions functions).radio.service = s.radio.service := by
  simp [State.setFunctions, State.onRequest]

@[simp] theorem changeSet_mail (a : SetAction) (d : DriveSet) (clamped : Bool) :
    (s.changeSet a d clamped).radio.handling = s.radio.handling ∧ (s.changeSet a d clamped).radio.waiting = s.radio.waiting
      ∧ (s.changeSet a d clamped).radio.service = s.radio.service := by
  simp [State.changeSet, State.onRequest]

@[simp] theorem applyAction_mail (a : SetAction) (d : DriveSet) (clamped : Bool) :
    (s.applyAction a d clamped).radio.handling = s.radio.handling
      ∧ (s.applyAction a d clamped).radio.waiting = s.radio.waiting
      ∧ (s.applyAction a d clamped).radio.service = s.radio.service := by
  simp only [State.applyAction]
  repeat' split
  all_goals simp [State.tellSetChange, State.tellFunctions]

@[simp] theorem reportAction_mail (a : SetAction) (outcome : OutcomeCode) :
    (s.reportAction a outcome).radio.handling = s.radio.handling
      ∧ (s.reportAction a outcome).radio.waiting = s.radio.waiting
      ∧ (s.reportAction a outcome).radio.service = s.radio.service := by
  unfold State.reportAction
  split <;> simp

@[simp] theorem conclude_mail (a : SetAction) (d : Option (DriveSet × Bool)) :
    (s.conclude a d).radio.handling = s.radio.handling ∧ (s.conclude a d).radio.waiting = s.radio.waiting
      ∧ (s.conclude a d).radio.service = s.radio.service := by
  unfold State.conclude
  split <;> simp

@[simp] theorem emptyZone_mail : s.emptyZone.radio.handling = s.radio.handling
    ∧ s.emptyZone.radio.waiting = s.radio.waiting ∧ s.emptyZone.radio.service = s.radio.service := by
  unfold State.emptyZone
  split <;> simp

@[simp] theorem hostLease_mail : s.hostLease.radio.handling = s.radio.handling
    ∧ s.hostLease.radio.waiting = s.radio.waiting ∧ s.hostLease.radio.service = s.radio.service := by
  unfold State.hostLease
  split <;> simp

@[simp] theorem handStopMode_mail : s.handStopMode.radio.handling = s.radio.handling
    ∧ s.handStopMode.radio.waiting = s.radio.waiting ∧ s.handStopMode.radio.service = s.radio.service := by
  simp [State.handStopMode]

@[simp] theorem beginRun_mail (r : BalanceRun) : (s.beginRun r).radio.handling = s.radio.handling
    ∧ (s.beginRun r).radio.waiting = s.radio.waiting ∧ (s.beginRun r).radio.service = s.radio.service := by
  simp only [State.beginRun, State.markLease, State.tractionRunBegins]
  split <;> simp

@[simp] theorem balanceStep_mail (m : Nat) : (s.balanceStep m).radio.handling = s.radio.handling
    ∧ (s.balanceStep m).radio.waiting = s.radio.waiting ∧ (s.balanceStep m).radio.service = s.radio.service := by
  simp only [State.balanceStep, State.beginRunStep, State.finishRun]
  repeat' split
  all_goals simp

@[simp] theorem control_mail : s.control.radio.handling = s.radio.handling
    ∧ s.control.radio.waiting = s.radio.waiting ∧ s.control.radio.service = s.radio.service := by
  simp only [State.control, State.balanceControl]
  repeat' split
  all_goals simp

@[simp] theorem stepInputs_mail : s.stepInputs.radio.handling = s.radio.handling
    ∧ s.stepInputs.radio.waiting = s.radio.waiting ∧ s.stepInputs.radio.service = s.radio.service := by
  simp only [State.stepInputs]
  repeat' split
  all_goals simp

@[simp] theorem tractionLatchReport_mail : s.tractionLatchReport.radio.handling = s.radio.handling
    ∧ s.tractionLatchReport.radio.waiting = s.radio.waiting ∧ s.tractionLatchReport.radio.service = s.radio.service := by
  simp only [State.tractionLatchReport]
  split <;> simp

@[simp] theorem latchBridge_mail (id : BridgeId) : (s.latchBridge id).radio.handling = s.radio.handling
    ∧ (s.latchBridge id).radio.waiting = s.radio.waiting ∧ (s.latchBridge id).radio.service = s.radio.service := by
  simp [State.latchBridge, State.recordShort]

@[simp] theorem clearBridge_mail (id : BridgeId) : (s.clearBridge id).radio.handling = s.radio.handling
    ∧ (s.clearBridge id).radio.waiting = s.radio.waiting ∧ (s.clearBridge id).radio.service = s.radio.service := by
  simp only [State.clearBridge]
  split <;> simp

@[simp] theorem clearMask_mail (mask : BitVec 32) : (s.clearMask mask).radio.handling = s.radio.handling
    ∧ (s.clearMask mask).radio.waiting = s.radio.waiting ∧ (s.clearMask mask).radio.service = s.radio.service := by
  simp only [State.clearMask, State.clearLamps]
  repeat' split
  all_goals simp

@[simp] theorem tractionShedChange_mail (before : Nat) : (s.tractionShedChange before).radio.handling = s.radio.handling
    ∧ (s.tractionShedChange before).radio.waiting = s.radio.waiting
    ∧ (s.tractionShedChange before).radio.service = s.radio.service := by
  simp only [State.tractionShedChange]
  repeat' split
  all_goals simp

@[simp] theorem balanceShedChange_mail (before : Nat) : (s.balanceShedChange before).radio.handling = s.radio.handling
    ∧ (s.balanceShedChange before).radio.waiting = s.radio.waiting
    ∧ (s.balanceShedChange before).radio.service = s.radio.service := by
  simp only [State.balanceShedChange]
  split <;> simp

@[simp] theorem formShed_mail : s.formShed.radio.handling = s.radio.handling
    ∧ s.formShed.radio.waiting = s.radio.waiting ∧ s.formShed.radio.service = s.radio.service := by
  simp only [State.formShed]
  split <;> simp

@[simp] theorem supplyReport_mail (before : SupplyState) : (s.supplyReport before).radio.handling = s.radio.handling
    ∧ (s.supplyReport before).radio.waiting = s.radio.waiting ∧ (s.supplyReport before).radio.service = s.radio.service := by
  simp only [State.supplyReport]
  repeat' split
  all_goals simp

end

theorem mail_trans {u : State} (h : mailKept s t) (h' : mailKept t u) : mailKept s u :=
  ⟨h'.1.trans h.1, h'.2.1.trans h.2.1, h'.2.2.trans h.2.2⟩

theorem requestAction_mail (s : State) (code index level : Nat) (source : Requestor) :
    mailKept s (s.requestAction code index level source) :=
  requestAction_keeps (P := mailKept s) (fun _ _ h => h) (fun u a h => mail_trans h (conclude_mail u a none))
    (fun u a outcome h => mail_trans h (reportAction_mail u a outcome)) code index level source ⟨rfl, rfl, rfl⟩

/-! ## The law -/

theorem frames_kept (hmail : mailKept s t) (hrun : t.port.run = s.port.run) (h : framesLawful s) : framesLawful t := by
  obtain ⟨hhandling, hwaiting, hservice⟩ := hmail
  unfold framesLawful State.isRun at *
  rwa [hhandling, hwaiting, hservice, hrun]

/-- In RUN, with no service write, the law asks nothing. -/
theorem frames_free (hrun : s.isRun = true) (hservice : s.radio.service = none) : framesLawful s :=
  ⟨fun hno => absurd (hno.symm.trans hrun) (by decide), fun hno => absurd hservice hno⟩

/-- With no mail at all the law holds in every run state. -/
theorem frames_empty (hwaiting : s.radio.waiting = []) (hhandling : s.radio.handling = none)
    (hservice : s.radio.service = none) : framesLawful s :=
  ⟨fun _ => ⟨hwaiting, hhandling⟩, fun hno => absurd hservice hno⟩

theorem run_of_handling {f : Frame} (h : framesLawful s) (hf : s.radio.handling = some f) : s.isRun = true := by
  by_contra hquiet
  have hnone := (h.1 (by simpa using hquiet)).2
  rw [hf] at hnone
  cases hnone

/-- A service write is in progress for a frame of kind 8 alone. -/
theorem service_of_kind {f : Frame} (h : framesLawful s) (hf : s.radio.handling = some f) (hkind : f.kind ≠ 8) :
    s.radio.service = none := by
  by_contra hno
  obtain ⟨g, hg, hg8⟩ := h.2 hno
  rw [hf] at hg
  exact hkind (Option.some.inj hg ▸ hg8)

/-! ## Frames taken up -/

theorem checkFrame_service (s : State) (bytes : List Byte) : (s.checkFrame bytes).radio.service = s.radio.service := by
  unfold State.checkFrame
  split <;> rfl

theorem checkWaiting_service (waiting : List (List Byte)) (s : State) :
    (State.checkWaiting waiting s).radio.service = s.radio.service := by
  induction waiting generalizing s with
  | nil => rfl
  | cons bytes rest ih =>
    unfold State.checkWaiting
    simp only
    split
    · exact checkFrame_service s bytes
    · exact (ih _).trans (checkFrame_service s bytes)

theorem frameDone_service (s : State) : s.frameDone.radio.service = s.radio.service := checkWaiting_service _ _

theorem frameDone_frames (hrun : s.isRun = true) (hservice : s.radio.service = none) : framesLawful s.frameDone := by
  have hkept : s.frameDone.port = s.port := by simp
  exact frames_free ((congrArg (fun p : Port => decide (p.run = .run)) hkept).trans hrun) ((frameDone_service s).trans hservice)

/-- Frames of every kind but SERVICE_WRITE. -/
theorem handleFrame_frames {mine : Frame → Bool} {act : State → Frame → State} (hmine : ∀ f, mine f = true → f.kind ≠ 8)
    (hact : ∀ u f, mailKept u (act u f) ∧ (act u f).port.run = u.port.run) (h : framesLawful s) :
    framesLawful (s.handleFrame mine act) := by
  unfold State.handleFrame
  split
  · next f hf =>
    split
    · next hf' =>
      have hacted : (s.actOn f act).isRun = s.isRun ∧ mailKept s (s.actOn f act) := by
        unfold State.actOn State.isRun
        have hheard : mailKept s (s.hearHolder f) := hearHolder_mail s f
        simp only
        split
        · obtain ⟨hmail, hrun⟩ := hact (s.hearHolder f) f
          exact ⟨by rw [hrun]; simp, mail_trans hheard hmail⟩
        · exact ⟨by simp, mail_trans hheard (logFrame_mail _ _ _)⟩
      obtain ⟨hrun, -, -, hservice⟩ := hacted
      exact frameDone_frames (hrun.trans (run_of_handling h hf)) (hservice.trans (service_of_kind h hf (hmine f hf')))
    · exact h
  · exact h

theorem ofKind_ne {k : Nat} (hk : k ≠ 8) (f : Frame) (h : ofKind k f = true) : f.kind ≠ 8 := by
  rw [of_decide_eq_true h]
  exact hk

/-! ## What the acts of a frame keep -/

section
variable (s : State) (f : Frame)

theorem throttleAct_mail : mailKept s (throttleAct s f) ∧ (throttleAct s f).port.run = s.port.run := by
  unfold throttleAct mailKept State.takeLease
  simp only
  repeat' split
  all_goals simp

theorem funcAct_mail : mailKept s (funcAct s f) ∧ (funcAct s f).port.run = s.port.run := by
  unfold funcAct mailKept
  split <;> simp

theorem releaseAct_mail : mailKept s (releaseAct s f) ∧ (releaseAct s f).port.run = s.port.run := by
  unfold releaseAct mailKept
  split <;> simp

theorem stopAct_mail : mailKept s (stopAct s f) ∧ (stopAct s f).port.run = s.port.run := by
  simp [stopAct, mailKept]

theorem setAct_mail : mailKept s (setAct s f) ∧ (setAct s f).port.run = s.port.run := by
  unfold setAct
  split
  · exact ⟨logFrame_mail _ _ _, by simp⟩
  · split
    · exact ⟨logFrame_mail _ _ _, by simp⟩
    · exact ⟨requestAction_mail _ _ _ _ _, by simp⟩

theorem passAct_mail : mailKept s (passAct s f) ∧ (passAct s f).port.run = s.port.run := by
  unfold passAct mailKept
  split <;> simp

theorem joinAct_mail : mailKept s (joinAct s f) ∧ (joinAct s f).port.run = s.port.run := by
  unfold joinAct mailKept
  split <;> simp

theorem leaveAct_mail : mailKept s (leaveAct s f) ∧ (leaveAct s f).port.run = s.port.run := by
  unfold leaveAct mailKept
  split <;> simp

theorem beaconAct_mail : mailKept s (beaconAct s f) ∧ (beaconAct s f).port.run = s.port.run := by
  have hzone : ∀ u : State, mailKept u (u.beaconZone f) ∧ (u.beaconZone f).port.run = u.port.run := by
    intro u
    unfold State.beaconZone mailKept
    simp only
    repeat' split
    all_goals simp
  have hstation : ∀ u : State, mailKept u (u.beaconStation f) ∧ (u.beaconStation f).port.run = u.port.run := by
    intro u
    unfold State.beaconStation mailKept
    simp only
    repeat' split
    all_goals simp
  have hhorn : ∀ u : State, mailKept u u.beaconHorn ∧ u.beaconHorn.port.run = u.port.run := by
    intro u
    unfold State.beaconHorn mailKept
    split <;> simp
  have htrans : ∀ {u v w : State}, mailKept u v ∧ v.port.run = u.port.run → mailKept v w ∧ w.port.run = v.port.run →
      mailKept u w ∧ w.port.run = u.port.run := fun h h' => ⟨mail_trans h.1 h'.1, h'.2.trans h.2⟩
  have hself : ∀ u : State, mailKept u u ∧ u.port.run = u.port.run := fun u => ⟨⟨rfl, rfl, rfl⟩, rfl⟩
  unfold beaconAct
  simp only
  split
  · refine htrans (v := (s.onRadio fun r => { r with passage := r.passage.meet (param8 f.payload 0) }).beaconZone f)
      (hzone (s.onRadio fun r => { r with passage := r.passage.meet (param8 f.payload 0) })) ?_
    generalize (s.onRadio fun r => { r with passage := r.passage.meet (param8 f.payload 0) }).beaconZone f = u
    have hmet : ∀ v : State, mailKept v (if beaconFlag f 1 then v.beaconHorn else v)
        ∧ (if beaconFlag f 1 then v.beaconHorn else v).port.run = v.port.run := by
      intro v
      split
      · exact hhorn v
      · exact hself v
    refine htrans (v := if beaconFlag f 0 then u.beaconStation f else u) ?_ (hmet _)
    split
    · exact hstation u
    · exact hself u
  · exact hself s

end

theorem serviceWrite_frames (h : framesLawful s) : framesLawful (serviceWrite s) := by
  unfold serviceWrite
  split
  · next f hf =>
    split
    · next hmine =>
      obtain ⟨hkind, hnone⟩ := hmine
      have hrun : (s.hearHolder f).isRun = s.isRun := by simp [State.isRun]
      obtain ⟨hhandling, hwaiting, hservice⟩ := hearHolder_mail s f
      simp only
      split
      · refine frameDone_frames ?_ ?_
        · simpa [State.isRun] using run_of_handling h hf
        · simpa using hnone
      · refine ⟨fun hno => ?_, fun _ => ⟨f, hhandling.trans hf, hkind⟩⟩
        exact absurd (hno.symm.trans (hrun.trans (run_of_handling h hf))) (by decide)
    · exact h
  · exact h

theorem serviceWriteDone_frames (h : framesLawful s) : framesLawful (serviceWriteDone s) := by
  unfold serviceWriteDone
  split
  · next f cells hf _ =>
    refine frameDone_frames ?_ ?_
    · have hrun := run_of_handling h hf
      simpa [State.isRun] using hrun
    · simp
  · exact h

/-! ## The receiver -/

theorem frameComplete_frames (bytes : List Byte) (hrun : s.isRun = true) (h : framesLawful s) :
    framesLawful (s.frameComplete bytes) := by
  unfold State.frameComplete
  split
  · next hnone =>
    have hkept : (s.checkFrame bytes).port = s.port := by simp
    refine frames_free ((congrArg (fun p : Port => decide (p.run = .run)) hkept).trans hrun)
      ((checkFrame_service s bytes).trans ?_)
    by_contra hno
    obtain ⟨f, hf, -⟩ := h.2 hno
    rw [hnone] at hf
    cases hf
  · exact ⟨fun hno => absurd (hno.symm.trans hrun) (by decide), h.2⟩

theorem takeByte_frames (b : Byte) (hrun : s.isRun = true) (h : framesLawful s) : framesLawful (s.takeByte b) := by
  unfold State.takeByte
  repeat' split
  · exact h
  · exact h
  · exact h
  · exact h
  · simp only
    split
    · exact frameComplete_frames _ hrun h
    · exact h

theorem rxdByte_frames (b : Byte) (stopBit : Bool) (h : framesLawful s) : framesLawful (rxdByte b stopBit s) := by
  unfold rxdByte
  split
  · next hrun =>
    split
    · exact takeByte_frames b hrun h
    · exact h
  · exact h

/-! ## Set actions and the run state -/

theorem teardown_frames (s : State) : framesLawful s.teardown := by
  obtain ⟨hframe, -⟩ := teardown_brought s
  generalize s.teardown = t at hframe
  have hradio : t.radio.waiting = [] ∧ t.radio.handling = none ∧ t.radio.service = none := by
    rw [hframe]
    exact ⟨rfl, rfl, rfl⟩
  exact frames_empty hradio.1 hradio.2.1 hradio.2.2

theorem nextAction_frames (h : framesLawful s) : framesLawful s.nextAction :=
  nextAction_keeps (P := framesLawful) (fun _ _ h => h) (fun u a h => frames_kept (conclude_mail u a none) (by simp) h)
    (fun u a h => frames_kept (s := u) (by unfold mailKept; simp) (by simp) h) (teardown_frames s) h

theorem decideHead_frames (kind : SetActionKind) (h : framesLawful s) : framesLawful (s.decideHead kind) :=
  decideHead_keeps (P := framesLawful) kind
    (fun a _ _ _ => nextAction_frames (frames_kept (conclude_mail s a _) (by simp) h)) h

theorem endStage_mail (s : State) (j : StartJob) : mailKept s (s.endStage j).1 := by
  unfold State.endStage mailKept
  split
  all_goals simp [State.loadAnchor, State.loadLampTable]

theorem endLoads_mail (n : Nat) (s : State) (j : StartJob) : mailKept s (State.endLoads n s j).1 := by
  induction n generalizing s j with
  | zero => exact ⟨rfl, rfl, rfl⟩
  | succ n ih =>
    simp only [State.endLoads]
    split
    · exact ⟨rfl, rfl, rfl⟩
    · refine mail_trans (t := s.reads j.todo) (by simp [mailKept]) (mail_trans (endStage_mail _ _) (ih _ _))

/-- The entry to RUN leaves no mail where there is none. -/
theorem startEnd_frames (hstart : startLawful s) (h : framesLawful s) : framesLawful (startEnd s) := by
  simp only [startEnd]
  split
  · next j hj =>
    split
    · split
      · exact teardown_frames _
      · have hquiet := (StartLaws.start_alone hstart hj).1
        obtain ⟨hhandling, hwaiting, hservice⟩ := endLoads_mail 4 s j
        obtain ⟨hframe, -⟩ := enterRun_brought (State.endLoads 4 s j).1 (State.endLoads 4 s j).2
        generalize (State.endLoads 4 s j).1.enterRun (State.endLoads 4 s j).2 = u at hframe ⊢
        generalize (State.endLoads 4 s j).1 = v at hframe hhandling hwaiting hservice
        have hmail := h.1 (by simp [State.isRun, hquiet])
        have hkept : u.radio.waiting = [] ∧ u.radio.handling = none ∧ u.radio.service = s.radio.service := by
          rw [hframe]
          exact ⟨hwaiting.trans hmail.1, hhandling.trans hmail.2, hservice⟩
        refine frames_empty hkept.1 hkept.2.1 (hkept.2.2.trans ?_)
        by_contra hno
        obtain ⟨f, hf, -⟩ := h.2 hno
        rw [hmail.2] at hf
        cases hf
    · exact h
  · exact h

theorem startRefused_frames (h : framesLawful s) : framesLawful (startRefused s) := by
  simp only [startRefused]
  split
  · next j hj =>
    split
    · have hmail := endLoads_mail 4 s j
      have hrun : (State.endLoads 4 s j).1.port.run = s.port.run := by simp
      exact frames_kept (t := State.raise _ _) hmail hrun h
    · exact h
  · exact h

theorem requestStop_frames (h : framesLawful s) : framesLawful s.requestStop := by
  unfold State.requestStop State.requestTeardown
  split
  · split
    · exact teardown_frames s
    · exact h
  · split
    · exact h
    · exact h

/-! ## Orders -/

theorem completeOrder_frames (s : State) (o : TakenOrder) (outcome : OutcomeCode) (result : List Byte) (h : framesLawful s) :
    framesLawful (s.completeOrder o outcome result) :=
  frames_kept (s := s) (by unfold mailKept; simp) (by simp) h

theorem runOrder_frames {mine : TakenOrder → Bool} {act : State → TakenOrder → OrderAnswer}
    (hact : ∀ o, mailKept s (act s o).1 ∧ (act s o).1.port.run = s.port.run) (h : framesLawful s) :
    framesLawful (s.runOrder mine act) :=
  runOrder_keeps completeOrder_frames (fun o _ => frames_kept (hact o).1 (hact o).2 h) h

theorem setAction_frames (h : framesLawful s) : framesLawful (setAction s) :=
  handOver_keeps completeOrder_frames
    (fun o _ => frames_kept (s := s) (requestAction_mail s.dropOrder _ _ _ _) (by simp) h) h

theorem refreshSet_frames (h : framesLawful s) : framesLawful (refreshSet s) := by
  refine decideHead_frames _ (handOver_keeps completeOrder_frames (fun o _ => ?_) h)
  exact actionArrives_keeps (P := framesLawful) (fun _ _ h => h)
    (fun u a h => frames_kept (conclude_mail u a none) (by simp) h) _ h

section
variable (s : State)

theorem throttleOrder_mail (ps : List Byte) :
    mailKept s (s.throttleOrder ps).1 ∧ (s.throttleOrder ps).1.port.run = s.port.run := by
  simp only [State.throttleOrder, mailKept]
  repeat' split
  all_goals simp

theorem leaseTakeOrder_mail (ps : List Byte) :
    mailKept s (s.leaseTakeOrder ps).1 ∧ (s.leaseTakeOrder ps).1.port.run = s.port.run := by
  simp only [State.leaseTakeOrder, mailKept]
  repeat' split
  all_goals simp

theorem leaseReleaseOrder_mail (ps : List Byte) :
    mailKept s (s.leaseReleaseOrder ps).1 ∧ (s.leaseReleaseOrder ps).1.port.run = s.port.run := by
  simp only [State.leaseReleaseOrder, mailKept]
  repeat' split
  all_goals simp

@[simp] theorem balance_mail : (balance s).radio.handling = s.radio.handling ∧ (balance s).radio.waiting = s.radio.waiting
    ∧ (balance s).radio.service = s.radio.service := by
  simp only [balance]
  repeat' split
  all_goals simp

@[simp] theorem shortDetection_mail (id : BridgeId) (millivolts since : Nat) :
    (shortDetection id millivolts since s).radio.handling = s.radio.handling
      ∧ (shortDetection id millivolts since s).radio.waiting = s.radio.waiting
      ∧ (shortDetection id millivolts since s).radio.service = s.radio.service := by
  simp only [shortDetection, State.cycleShort, State.reportShort, State.recordShort]
  repeat' split
  all_goals simp

theorem radioTimers_mail : mailKept s (failsafeExpiry s) ∧ mailKept s (lapseExpiry s)
    ∧ mailKept s (dwellTimerExpiry s) ∧ mailKept s (balanceHeldTimerExpiry s) ∧ mailKept s (gapTimerExpiry s) := by
  unfold mailKept
  refine ⟨?_, ?_, ?_, ?_, ?_⟩
  · simp only [failsafeExpiry]
    repeat' split
    all_goals simp
  · unfold lapseExpiry
    split <;> simp
  · unfold dwellTimerExpiry
    split <;> simp
  · simp only [balanceHeldTimerExpiry]
    repeat' split
    all_goals simp
  · unfold gapTimerExpiry
    split <;> simp [State.receive]

end

theorem repeatWindowExpiry_mail (s : State) (sender : BitVec 16) : mailKept s (repeatWindowExpiry sender s) := by
  unfold repeatWindowExpiry
  split <;> exact ⟨rfl, rfl, rfl⟩

theorem consist_ne (f : Frame) (h : (ofKind 6 f && !isLeave f) = true) : f.kind ≠ 8 :=
  ofKind_ne (by decide) f (Bool.and_eq_true _ _ ▸ h).1

theorem leave_ne (f : Frame) (h : isLeave f = true) : f.kind ≠ 8 :=
  ofKind_ne (by decide) f (Bool.and_eq_true _ _ ▸ h).1

theorem pass_ne (f : Frame) (h : (decide (f.kind = 0) || decide (9 ≤ f.kind)) = true) : f.kind ≠ 8 := by
  intro hno
  rw [hno] at h
  exact absurd h (by decide)

theorem resetTask_mail (s : State) (task : ResetTask) :
    mailKept s (s.resetTask task) ∧ (s.resetTask task).port.run = s.port.run := by
  unfold mailKept
  cases task
  all_goals
    simp only [State.resetTask, State.resetAccess]
    repeat' split
    all_goals simp

theorem resetTasks_mail (tasks : List ResetTask) (s : State) :
    mailKept s (tasks.foldl State.resetTask s) ∧ (tasks.foldl State.resetTask s).port.run = s.port.run := by
  induction tasks generalizing s with
  | nil => exact ⟨⟨rfl, rfl, rfl⟩, rfl⟩
  | cons task rest ih =>
    obtain ⟨hmail, hrun⟩ := resetTask_mail s task
    obtain ⟨hmail', hrun'⟩ := ih (s.resetTask task)
    exact ⟨mail_trans hmail hmail', hrun'.trans hrun⟩

theorem endReset_mail (s : State) (j : ResetJob) : mailKept s (s.endReset j) := by
  simp only [State.endReset, mailKept]
  split <;> simp

theorem resetRewritesEnd_frames (h : framesLawful s) : framesLawful (resetRewritesEnd s) := by
  simp only [resetRewritesEnd]
  split
  · next j _ =>
    obtain ⟨hmail, hrun⟩ := resetTasks_mail j.todo s
    generalize j.todo.foldl State.resetTask s = u at hmail hrun
    refine frames_kept (mail_trans hmail
      (mail_trans (t := u.finishUpdate (u.status.updating.getD 0)) ?_ (endReset_mail _ _))) ?_ h
    · simp [mailKept]
    · exact (by simp : _ = u.port.run).trans hrun
  · exact h

theorem exec_frames {c : Instr} (hstart : startLawful s) (h : framesLawful s) (hexec : exec c s = .next t) :
    framesLawful t := by
  cases c
  case setAction => cases hexec; exact setAction_frames h
  case refreshSet => cases hexec; exact refreshSet_frames h
  case invoke => cases hexec; exact decideHead_frames _ h
  case switch => cases hexec; exact decideHead_frames _ h
  case returnSet => cases hexec; exact decideHead_frames _ h
  case startEnd => cases hexec; exact startEnd_frames hstart h
  case startRefused => cases hexec; exact startRefused_frames h
  case teardown => cases hexec; exact requestStop_frames (s := s.registerWrite) h
  case powerReset => cases hexec; exact frames_empty rfl rfl rfl
  case brownoutReset => cases hexec; exact frames_empty rfl rfl rfl
  case softReset => cases hexec; exact frames_empty rfl rfl rfl
  case throttleOrder => cases hexec; exact runOrder_frames (fun o => throttleOrder_mail s _) h
  case throttleFrame => cases hexec; exact handleFrame_frames (ofKind_ne (by decide)) throttleAct_mail h
  case funcFrame => cases hexec; exact handleFrame_frames (ofKind_ne (by decide)) funcAct_mail h
  case releaseFrame => cases hexec; exact handleFrame_frames (ofKind_ne (by decide)) releaseAct_mail h
  case stopFrame => cases hexec; exact handleFrame_frames (ofKind_ne (by decide)) stopAct_mail h
  case setFrame => cases hexec; exact handleFrame_frames (ofKind_ne (by decide)) setAct_mail h
  case beaconFrame => cases hexec; exact handleFrame_frames (ofKind_ne (by decide)) beaconAct_mail h
  case serviceWrite => cases hexec; exact serviceWrite_frames h
  case serviceWriteDone => cases hexec; exact serviceWriteDone_frames h
  case rxdByte => cases hexec; exact rxdByte_frames _ _ h
  case functions => cases hexec; exact runOrder_frames (fun o => by simp [State.functionsOrder, mailKept]) h
  case stopOrder => cases hexec; exact runOrder_frames (fun o => by simp [mailKept]) h
  case loadRadio => cases hexec; exact runOrder_frames (fun o => by simp [State.loadRadioOrder, mailKept]) h
  case clearFaults => cases hexec; exact runOrder_frames (fun o => by simp [State.clearFaultsOrder, mailKept]) h
  case leaseTake => cases hexec; exact runOrder_frames (fun o => leaseTakeOrder_mail s _) h
  case leaseRelease => cases hexec; exact runOrder_frames (fun o => leaseReleaseOrder_mail s _) h
  case consistJoin => cases hexec; exact handleFrame_frames consist_ne joinAct_mail h
  case consistLeave => cases hexec; exact handleFrame_frames leave_ne leaveAct_mail h
  case passFrame => cases hexec; exact handleFrame_frames pass_ne passAct_mail h
  case gapTimerExpiry => cases hexec; exact frames_kept (radioTimers_mail s).2.2.2.2 (by simp) h
  case failsafeExpiry => cases hexec; exact frames_kept (radioTimers_mail s).1 (by simp) h
  case lapseExpiry => cases hexec; exact frames_kept (radioTimers_mail s).2.1 (by simp) h
  case dwellTimerExpiry => cases hexec; exact frames_kept (radioTimers_mail s).2.2.1 (by simp) h
  case balanceHeldTimerExpiry => cases hexec; exact frames_kept (radioTimers_mail s).2.2.2.1 (by simp) h
  case repeatWindowExpiry => cases hexec; exact frames_kept (repeatWindowExpiry_mail s _) (by simp) h
  case regulationStep =>
    cases hexec
    exact frames_kept (s := s) (by simp [mailKept, regulationStep, State.stepEnds]) (by simp) h
  case supplySample => cases hexec; exact frames_kept (s := s) (by simp [mailKept, supplySample]) (by simp) h
  case dieTemperatureExpiry =>
    cases hexec
    exact frames_kept (s := s) (by simp [mailKept, dieTemperatureExpiry]) (by simp) h
  case resetRewritesEnd => cases hexec; exact resetRewritesEnd_frames h
  all_goals
    cases hexec
    exact frames_kept (s := s) (by unfold mailKept; simp) (by simp) h

/-! ## The idle step -/

theorem startAccess_frames (j : StartJob) (h : framesLawful s) : framesLawful (s.startAccess j) := by
  have hends : ∀ k : StartJob, framesLawful ((s.endStage k).1.onPort fun p => { p with start := some (s.endStage k).2 }) :=
    fun k => frames_kept (s := s) (endStage_mail s k) (by simp) h
  unfold State.startAccess
  split
  · exact hends j
  · simp only
    split
    · exact hends _
    · exact h

theorem grantReset_mail (s : State) : mailKept s s.grantReset ∧ s.grantReset.port.run = s.port.run := by
  have hgoes : ∀ (u : State) (todo : List ResetTask),
      mailKept u (u.resetGoesOn todo) ∧ (u.resetGoesOn todo).port.run = u.port.run := by
    intro u todo
    unfold State.resetGoesOn mailKept
    split <;> simp
  have haccess : ∀ task : ResetTask, mailKept s (s.resetAccess task).1 ∧ (s.resetAccess task).1.port.run = s.port.run := by
    intro task
    unfold mailKept
    cases task <;> simp [State.resetAccess]
  unfold State.grantReset
  split
  · split
    · next task rest _ =>
      obtain ⟨hmail, hrun⟩ := haccess task
      obtain ⟨hmail', hrun'⟩ := hgoes (s.resetAccess task).1 ((s.resetAccess task).2 ++ rest)
      exact ⟨mail_trans hmail hmail', hrun'.trans hrun⟩
    · exact ⟨⟨rfl, rfl, rfl⟩, rfl⟩
  · exact ⟨⟨rfl, rfl, rfl⟩, rfl⟩

theorem grantReset_frames (h : framesLawful s) : framesLawful s.grantReset :=
  frames_kept (grantReset_mail s).1 (grantReset_mail s).2 h

theorem grantLoad_frames (h : framesLawful s) : framesLawful s.grantLoad := h

theorem grantRefresh_frames (h : framesLawful s) : framesLawful s.grantRefresh := by
  unfold State.grantRefresh
  split
  · refine grantLoad_frames (s := State.requestRefresh _ _) ?_
    exact actionArrives_keeps (P := framesLawful) (fun _ _ h => h)
      (fun u a h => frames_kept (conclude_mail u a none) (by simp) h) _ h
  · exact h

theorem grantRadio_frames (h : framesLawful s) : framesLawful s.grantRadio := by
  unfold State.grantRadio
  split
  · next cells hcells => exact ⟨h.1, fun _ => h.2 (by simp [hcells])⟩
  · exact h

theorem grant_frames (r : Requester) (h : framesLawful s) : framesLawful (s.grant r) := by
  cases r with
  | hostPort => exact h
  | orderEngine =>
    exact grantOrders_keeps (P := framesLawful) (grantReset_frames h) (fun j _ => startAccess_frames j h) (grantLoad_frames h) h
      (grantRefresh_frames h) (fun w => frames_kept (s := s) (by unfold mailKept; simp) (by simp) h) h
  | statusWriter => exact frames_kept (s := s) (by simp [State.grant, mailKept]) (by simp [State.grant]) h
  | radioWriter => exact grantRadio_frames h

theorem idle_frames (h : framesLawful s) : framesLawful (idle s) :=
  grants_keeps (P := framesLawful) (fun _ => grantReset_frames) (fun _ r => grant_frames r) _ h

end Sys2Proof.FrameLaws
end

section
/-! PROOFS. No operation but a clear, a teardown and a start reaches the state of a bridge that the mode does not use
(R85). -/

namespace Sys2Proof.SingleMode
open Sys2Proof.Machine Sys2Proof.Safety Sys2Proof.Chains Sys2Proof.Teardowns

/-- The state of bridge B where SINGLE mode does not use it. -/
def spare (u : BridgeUnit) : Option BridgeState := if u.cfg.mode = .single then some u.b.state else none

/-- A bridge that SINGLE mode does not use is OFF. -/
def singleRests (u : BridgeUnit) : Prop := u.cfg.mode = .single → u.b.state = .off

theorem singleRests_iff (u : BridgeUnit) : singleRests u ↔ ∀ state, spare u = some state → state = .off := by
  unfold singleRests spare
  split <;> simp_all

theorem spare_of_b {u v : BridgeUnit} (hmode : v.cfg.mode = u.cfg.mode)
    (hb : u.cfg.mode = .single → v.b.state = u.b.state) : spare v = spare u := by
  unfold spare
  rw [hmode]
  split
  · next hsingle => rw [hb hsingle]
  · rfl

theorem singleRests_of_spare {u v : BridgeUnit} (hspare : spare v = spare u) (h : singleRests u) : singleRests v := by
  rw [singleRests_iff] at h ⊢
  rwa [hspare]

/-! ## Commands handed -/

theorem hand_spare (u : BridgeUnit) (now : Nat) (c : Command) : spare (u.hand now c) = spare u :=
  spare_of_b (by rw [BridgeUnit.hand_eq]) fun hsingle => congrArg Bridge.state ((u.hand_taken now c).2.2 hsingle)

theorem lowerDuty_state (b : Bridge) (now duty : Nat) : (b.lowerDuty now duty).state = b.state := by
  simp only [Bridge.lowerDuty]
  repeat' split
  all_goals rfl

section
variable (s : State)

@[simp] theorem handCommand_spare (c : Command) : spare (s.handCommand c).bridges = spare s.bridges := hand_spare _ _ _

@[simp] theorem lowerDuty_spare (duty : Nat) : spare (s.lowerDuty duty).bridges = spare s.bridges := by
  unfold State.lowerDuty
  split
  · exact spare_of_b rfl fun _ => lowerDuty_state _ _ _
  · rfl

@[simp] theorem derive_spare : spare s.derive.bridges = spare s.bridges :=
  spare_of_b (by rw [FaultClears.derive_cfg]) fun hsingle => congrArg Bridge.state ((FaultClears.derive_taken s).2.2 hsingle)

@[simp] theorem releaseLatch_spare : spare s.releaseLatch.bridges = spare s.bridges := by
  unfold State.releaseLatch
  split <;> simp

@[simp] theorem closeRun_spare (r : BalanceRun) (outcome : OutcomeCode) (g : Nat) :
    spare (s.closeRun r outcome g).bridges = spare s.bridges := by
  simp [State.closeRun, State.freeLease, State.tractionRunEnds]

@[simp] theorem endRun_spare (outcome : OutcomeCode) : spare (s.endRun outcome).bridges = spare s.bridges := by
  unfold State.endRun
  split <;> simp

@[simp] theorem releaseLease_spare : spare s.releaseLease.bridges = spare s.bridges := by
  simp [State.releaseLease, State.freeLease]

@[simp] theorem applyRequest_spare (throttle : Nat) (direction : Direction) :
    spare (s.applyRequest throttle direction).bridges = spare s.bridges := by
  simp only [State.applyRequest]
  split <;> simp [State.onRequest]

@[simp] theorem overduePoints_spare : spare s.overduePoints.bridges = spare s.bridges := by
  simp only [State.overduePoints]
  repeat' split
  all_goals simp

@[simp] theorem loadRadio_spare (m : Memory) : spare (s.loadRadio m).bridges = spare s.bridges := by
  simp [State.loadRadio]

@[simp] theorem emergencyStop_spare : spare s.emergencyStop.bridges = spare s.bridges := by
  simp [State.emergencyStop]

@[simp] theorem handStopMode_spare : spare s.handStopMode.bridges = spare s.bridges := by
  simp [State.handStopMode]

@[simp] theorem beginRun_spare (r : BalanceRun) : spare (s.beginRun r).bridges = spare s.bridges := by
  simp only [State.beginRun, State.markLease, State.tractionRunBegins]
  split <;> simp

@[simp] theorem holdRun_spare : spare s.holdRun.1.bridges = spare s.bridges := by
  simp only [State.holdRun, State.onRun]
  repeat' split
  all_goals simp

@[simp] theorem balanceStep_spare (m : Nat) : spare (s.balanceStep m).bridges = spare s.bridges := by
  simp only [State.balanceStep, State.beginRunStep, State.finishRun]
  repeat' split
  all_goals simp

@[simp] theorem control_spare : spare s.control.bridges = spare s.bridges := by
  simp only [State.control, State.balanceControl]
  repeat' split
  all_goals simp

@[simp] theorem rotateChop_spare (u : BridgeUnit) : spare { u with a := u.a.rotateChop, b := u.b.rotateChop } = spare u := rfl

@[simp] theorem stepInputs_spare : spare s.stepInputs.bridges = spare s.bridges := by
  simp only [State.stepInputs]
  repeat' split
  all_goals simp

@[simp] theorem tractionLatchReport_spare : spare s.tractionLatchReport.bridges = spare s.bridges := by
  simp only [State.tractionLatchReport]
  split <;> simp

@[simp] theorem tractionShedChange_spare (before : Nat) : spare (s.tractionShedChange before).bridges = spare s.bridges := by
  simp only [State.tractionShedChange]
  repeat' split
  all_goals simp

@[simp] theorem balanceShedChange_spare (before : Nat) : spare (s.balanceShedChange before).bridges = spare s.bridges := by
  simp only [State.balanceShedChange]
  split <;> simp

@[simp] theorem formShed_spare : spare s.formShed.bridges = spare s.bridges := by
  simp only [State.formShed]
  split <;> simp

@[simp] theorem supplyReport_spare (before : SupplyState) : spare (s.supplyReport before).bridges = spare s.bridges := by
  simp only [State.supplyReport]
  repeat' split
  all_goals simp

/-! ## Set actions -/

@[simp] theorem applyAction_spare (a : SetAction) (d : DriveSet) (clamped : Bool) :
    spare (s.applyAction a d clamped).bridges = spare s.bridges := by
  simp only [State.applyAction, State.tellSetChange, State.tractionSetChange]
  repeat' split
  all_goals simp

@[simp] theorem conclude_spare (a : SetAction) (d : Option (DriveSet × Bool)) :
    spare (s.conclude a d).bridges = spare s.bridges := by
  unfold State.conclude
  split <;> simp

@[simp] theorem takeWaiting_spare (waiting : List SetAction) : spare (State.takeWaiting waiting s).bridges = spare s.bridges :=
  takeWaiting_keeps (P := fun u => spare u.bridges = spare s.bridges) (fun _ _ h => h)
    (fun u a h => (conclude_spare u a none).trans h) waiting rfl

@[simp] theorem actionArrives_spare (a : SetAction) : spare (s.actionArrives a).bridges = spare s.bridges := by
  unfold State.actionArrives
  split <;> simp

@[simp] theorem requestAction_spare (code index level : Nat) (source : Requestor) :
    spare (s.requestAction code index level source).bridges = spare s.bridges := by
  unfold State.requestAction
  split <;> simp

/-! ## Frames -/

theorem frameActs_spare (f : Frame) : spare (throttleAct s f).bridges = spare s.bridges
    ∧ spare (releaseAct s f).bridges = spare s.bridges ∧ spare (stopAct s f).bridges = spare s.bridges
    ∧ spare (setAct s f).bridges = spare s.bridges := by
  refine ⟨?_, ?_, ?_, ?_⟩
  · simp only [throttleAct, State.takeLease]
    repeat' split
    all_goals simp
  · unfold releaseAct
    split <;> simp
  · simp [stopAct]
  · unfold setAct
    repeat' split
    all_goals simp

theorem completeOrder_spare (o : TakenOrder) (outcome : OutcomeCode) (result : List Byte) :
    spare (s.completeOrder o outcome result).bridges = spare s.bridges := by simp

end

variable {s t : State}

theorem handleFrame_spare {mine : Frame → Bool} {act : State → Frame → State}
    (hact : ∀ u f, spare (act u f).bridges = spare u.bridges) : spare (s.handleFrame mine act).bridges = spare s.bridges :=
  handleFrame_keeps (P := fun u => spare u.bridges = spare s.bridges) (fun f => by simp) (fun u r f h => by simpa using h)
    (fun u h => by simpa using h) (fun u f h => (hact u f).trans h) rfl

/-! ## Orders -/

theorem runOrder_spare {mine : TakenOrder → Bool} {act : State → TakenOrder → OrderAnswer}
    (hact : ∀ o, spare (act s o).1.bridges = spare s.bridges) : spare (s.runOrder mine act).bridges = spare s.bridges :=
  runOrder_keeps (P := fun u => spare u.bridges = spare s.bridges)
    (fun u o outcome result h => (completeOrder_spare u o outcome result).trans h) (fun o _ => hact o) rfl

theorem handOver_spare {kind : Nat} {act : State → TakenOrder → State}
    (hact : ∀ u o, spare (act u o).bridges = spare u.bridges) : spare (s.handOver kind act).bridges = spare s.bridges :=
  handOver_keeps (P := fun u => spare u.bridges = spare s.bridges)
    (fun u o outcome result h => (completeOrder_spare u o outcome result).trans h) (fun o _ => hact s.dropOrder o) rfl

theorem leaseReleaseOrder_spare (s : State) (ps : List Byte) : spare (s.leaseReleaseOrder ps).1.bridges = spare s.bridges := by
  simp only [State.leaseReleaseOrder]
  repeat' split
  all_goals simp

theorem throttleOrder_spare (s : State) (ps : List Byte) : spare (s.throttleOrder ps).1.bridges = spare s.bridges := by
  simp only [State.throttleOrder]
  repeat' split
  all_goals simp

/-! ## The bridges' own events -/

/-- A change of one bridge that leaves its state. -/
theorem set_spare (u : BridgeUnit) (id : BridgeId) (b : Bridge) (h : b.state = (u.get id).state) :
    spare (u.set id b) = spare u := by
  cases id with
  | a => exact spare_of_b rfl fun _ => rfl
  | b => exact spare_of_b rfl fun _ => h

theorem noteConduct_state (b : Bridge) (cfg : BridgeConfig) (now : Nat) : (b.noteConduct cfg now).state = b.state := by
  unfold Bridge.noteConduct
  split <;> rfl

theorem nextPeriod_state (b : Bridge) (cfg : BridgeConfig) (now : Nat) (held : Command) :
    (b.nextPeriod cfg now held).state = b.state := by
  by_cases hstate : b.state = .drive
  · cases held with
    | drive p => rw [PwmPeriods.nextPeriod_driven cfg now p hstate, PwmPeriods.beginPeriod_eq]
    | off => rfl
    | brake => rfl
    | coast => rfl
  · rw [PwmPeriods.nextPeriod_idle cfg now held hstate]

theorem pwmPeriod_spare (s : State) : spare (pwmPeriod s).bridges = spare s.bridges :=
  spare_of_b rfl fun _ => nextPeriod_state _ _ _ _

theorem onPhaseEnd_spare (id : BridgeId) (s : State) : spare (onPhaseEnd id s).bridges = spare s.bridges := by
  unfold onPhaseEnd
  split
  · exact set_spare _ _ _ rfl
  · rfl

theorem deadTimeExpiry_spare (id : BridgeId) (leg : Leg) (s : State) :
    spare (deadTimeExpiry id leg s).bridges = spare s.bridges := by
  simp only [deadTimeExpiry]
  repeat' split
  · exact set_spare _ _ _ (noteConduct_state _ _ _)
  · rfl
  · rfl

theorem blankingEnd_spare (id : BridgeId) (s : State) : spare (blankingEnd id s).bridges = spare s.bridges := by
  simp only [blankingEnd]
  repeat' split
  · exact set_spare _ _ _ rfl
  · rfl
  · rfl

theorem chop_spare (id : BridgeId) (millivolts : Nat) (s : State) : spare (chop id millivolts s).bridges = spare s.bridges := by
  simp only [chop]
  repeat' split
  · exact set_spare _ _ _ rfl
  · rfl
  · rfl

/-! ## Every command but those of the run state, of the set decisions and of the faults of a bridge -/

/-- The commands that may reach the state of a bridge that the mode does not use. -/
def reachesSpare : Instr → Bool
  | .startEnd | .startRefused | .teardown | .softReset | .powerReset | .brownoutReset | .refreshSet | .invoke | .switch
  | .returnSet | .clearFaults | .shortDetection _ _ _ => true
  | _ => false

theorem balance_spare (s : State) : spare (balance s).bridges = spare s.bridges := by
  simp only [balance]
  repeat' split
  all_goals simp

theorem heldTimer_spare (s : State) : spare (balanceHeldTimerExpiry s).bridges = spare s.bridges := by
  simp only [balanceHeldTimerExpiry]
  repeat' split
  all_goals simp

theorem lapse_spare (s : State) : spare (lapseExpiry s).bridges = spare s.bridges := by
  unfold lapseExpiry
  split <;> simp

theorem exec_spare {c : Instr} (hc : ¬reachesSpare c = true) (hexec : exec c s = .next t) :
    spare t.bridges = spare s.bridges := by
  cases c <;> try exact absurd rfl hc
  case pwmPeriod => cases hexec; exact pwmPeriod_spare s
  case onPhaseEnd => cases hexec; exact onPhaseEnd_spare _ s
  case deadTimeExpiry => cases hexec; exact deadTimeExpiry_spare _ _ s
  case blankingEnd => cases hexec; exact blankingEnd_spare _ s
  case chop => cases hexec; exact chop_spare _ _ s
  case setAction => cases hexec; exact handOver_spare fun u o => requestAction_spare u _ _ _ _
  case throttleOrder => cases hexec; exact runOrder_spare fun o => throttleOrder_spare s _
  case leaseRelease => cases hexec; exact runOrder_spare fun o => leaseReleaseOrder_spare s _
  case stopOrder => cases hexec; exact runOrder_spare fun o => by simp
  case loadRadio => cases hexec; exact runOrder_spare fun o => by simp [State.loadRadioOrder]
  case holdBalance => cases hexec; exact runOrder_spare fun o => by simp
  case throttleFrame => cases hexec; exact handleFrame_spare fun u f => (frameActs_spare u f).1
  case releaseFrame => cases hexec; exact handleFrame_spare fun u f => (frameActs_spare u f).2.1
  case stopFrame => cases hexec; exact handleFrame_spare fun u f => (frameActs_spare u f).2.2.1
  case setFrame => cases hexec; exact handleFrame_spare fun u f => (frameActs_spare u f).2.2.2
  case regulationStep => cases hexec; simp [regulationStep, State.stepEnds]
  case supplySample => cases hexec; simp [supplySample]
  case dieTemperatureExpiry => cases hexec; simp [dieTemperatureExpiry]
  case balance => cases hexec; exact balance_spare s
  case balanceHeldTimerExpiry => cases hexec; exact heldTimer_spare s
  case lapseExpiry => cases hexec; exact lapse_spare s
  all_goals
    cases hexec
    simp

/-! ## The faults of a bridge -/

theorem clearBridge_single (id : BridgeId) (h : singleRests s.bridges) : singleRests (s.clearBridge id).bridges := by
  have hreleased : singleRests (FaultClears.released s id).bridges := by
    cases id with
    | a => exact h
    | b =>
      intro hsingle
      have hoff := h hsingle
      show (s.bridges.b.release s.clock s.bridges.held).state = .off
      rw [Bridge.release_eq, if_neg (by rw [hoff]; decide)]
      exact hoff
  rw [FaultClears.clearBridge_eq]
  split
  · exact singleRests_of_spare (tractionLatchReport_spare _) hreleased
  · exact hreleased

theorem clearMask_single (mask : BitVec 32) (h : singleRests s.bridges) : singleRests (s.clearMask mask).bridges := by
  have hbit : ∀ (u : State) (k : Nat) (id : BridgeId), singleRests u.bridges →
      singleRests (if mask.getLsbD k then u.clearBridge id else u).bridges := by
    intro u k id hu
    split
    · exact clearBridge_single id hu
    · exact hu
  rw [FaultClears.clearMask_eq]
  exact hbit _ 1 .b (hbit s 0 .a h)

theorem clearFaults_single (h : singleRests s.bridges) : singleRests (clearFaults s).bridges :=
  runOrder_keeps (P := fun u => singleRests u.bridges)
    (fun u o outcome result h => singleRests_of_spare (completeOrder_spare u o outcome result) h)
    (fun o _ => by exact clearMask_single _ h) h

/-- A bridge that the mode does not use is not meant. -/
def means (u : BridgeUnit) (id : BridgeId) : Prop := u.cfg.mode = .single → id = .a

theorem set_means {u : BridgeUnit} {id : BridgeId} (h : means u id) (b : Bridge) :
    spare (u.set id b) = spare u ∧ means (u.set id b) id := by
  cases id with
  | a => exact ⟨spare_of_b rfl fun _ => rfl, h⟩
  | b => exact ⟨spare_of_b rfl fun hsingle => BridgeId.noConfusion (h hsingle), h⟩

theorem latchedUnit_spare {u : BridgeUnit} {id : BridgeId} (now : Nat) (h : means u id) :
    spare (Shorts.latchedUnit u id now) = spare u := by
  refine spare_of_b (by rw [Shorts.latchedUnit_cfg]) fun hsingle => ?_
  obtain rfl := h hsingle
  refine congrArg Bridge.state ((Shorts.latchedUnit_other u .a now).2 fun hgangs => ?_)
  obtain ⟨-, hmode, -⟩ := hgangs
  exact absurd (hsingle.symm.trans (hmode.resolve_left (by decide))) (by decide)

theorem latchBridge_spare {id : BridgeId} (h : means s.bridges id) : spare (s.latchBridge id).bridges = spare s.bridges := by
  rw [Shorts.latchBridge_eq, endRun_spare, tractionLatchReport_spare]
  exact latchedUnit_spare _ h

theorem recordShort_spare {id : BridgeId} (h : means s.bridges id) :
    spare (s.recordShort id).bridges = spare s.bridges ∧ means (s.recordShort id).bridges id :=
  set_means h { s.bridges.get id with episodes := (s.bridges.get id).episodes + 1 }

/-- The first short of a run recorded (R93). -/
theorem recordFirst_spare {id : BridgeId} (first : Prop) [Decidable first] (h : means s.bridges id) :
    spare (if first then s.recordShort id else s).bridges = spare s.bridges
      ∧ means (if first then s.recordShort id else s).bridges id := by
  split
  · exact recordShort_spare h
  · exact ⟨rfl, h⟩

theorem cycleShort_spare {id : BridgeId} (h : means s.bridges id) : spare (s.cycleShort id).bridges = spare s.bridges := by
  have hcut := set_means h { (s.bridges.get id).cutPeriod s.clock with
    shortRun := min 200 ((s.bridges.get id).shortRun + 1) }
  rw [Shorts.cycleShort_eq]
  generalize hu : ({ s with bridges := s.bridges.set id { (s.bridges.get id).cutPeriod s.clock with
    shortRun := min 200 ((s.bridges.get id).shortRun + 1) } } : State) = u
  have hkept : spare u.bridges = spare s.bridges ∧ means u.bridges id := by
    rw [← hu]
    exact hcut
  obtain ⟨hfirst, hmeans⟩ := recordFirst_spare ((s.bridges.get id).shortRun + 1 = 1) hkept.2
  split
  · exact (latchBridge_spare hmeans).trans (hfirst.trans hkept.1)
  · exact hfirst.trans hkept.1

theorem reportShort_spare {id : BridgeId} (h : means s.bridges id) : spare (s.reportShort id).bridges = spare s.bridges := by
  have hcount := set_means h { s.bridges.get id with shortRun := min 200 ((s.bridges.get id).shortRun + 1) }
  rw [Shorts.reportShort_eq]
  generalize hu : ({ s with bridges := s.bridges.set id { s.bridges.get id with
    shortRun := min 200 ((s.bridges.get id).shortRun + 1) } } : State) = u
  have hkept : spare u.bridges = spare s.bridges ∧ means u.bridges id := by
    rw [← hu]
    exact hcount
  exact (recordFirst_spare ((s.bridges.get id).shortRun + 1 = 1) hkept.2).1.trans hkept.1

/-- A detection comes in an on-phase, which is of DRIVE alone. -/
theorem drive_of_seen {id : BridgeId} {millivolts since : Nat} (h : bridgesLawful s)
    (hseen : (s.bridges.get id).shortSeen s.bridges.cfg millivolts since = true) : (s.bridges.get id).state = .drive := by
  have hlawful : bridgeLawful (s.bridges.get id) s.clock := by
    cases id
    · exact h.1
    · exact h.2
  obtain ⟨-, -, hrest, -⟩ := hlawful
  by_contra hno
  obtain ⟨-, hidle, -⟩ := hrest hno
  simp [Bridge.shortSeen, hidle] at hseen

theorem shortDetection_single {id : BridgeId} {millivolts since : Nat} (hlawful : bridgesLawful s) (h : singleRests s.bridges) :
    singleRests (shortDetection id millivolts since s).bridges := by
  refine singleRests_of_spare (u := s.bridges) ?_ h
  simp only [shortDetection]
  split
  · next hseen =>
    have hmeans : means s.bridges id := by
      intro hsingle
      cases id with
      | a => rfl
      | b => exact absurd ((h hsingle).symm.trans (drive_of_seen hlawful hseen)) (by decide)
    obtain ⟨hset, hset'⟩ := set_means hmeans { s.bridges.get id with detected := true }
    split
    · refine (latchBridge_spare ?_).trans hset
      exact hset'
    · refine (cycleShort_spare ?_).trans hset
      exact hset'
    · refine (reportShort_spare ?_).trans hset
      exact hset'
    · exact hset
  · rfl

end Sys2Proof.SingleMode
end

section
/-! PROOFS. What no command reaches while the part is QUIET (R9, R12): the bridges stay OFF, the voices IDLE, the lamps dark,
heater and fan at rest, lease, station stop and zone record empty. -/

namespace Sys2Proof.QuietLaws
open Sys2Proof.Machine Sys2Proof.Safety Sys2Proof.Chains Sys2Proof.Teardowns Sys2Proof.SetLaws Sys2Proof.FrameLaws
  Sys2Proof.SingleMode

variable {s t : State}

/-! ## The blocks at rest -/

def bridgesRest (u : BridgeUnit) : Prop := u.held = .off ∧ u.a.state = .off ∧ u.b.state = .off

def voicesRest (u : Sound) : Prop := ∀ v ∈ u.voices, v.state = .idle

def lampRests (l : Lamp) : Prop := l.shown = 0 ∧ l.output = false

def fanRests (f : Fan) : Prop := (f.state = .off ∨ f.state = .latched) ∧ f.puff = none ∧ f.drive = 0

def lampsRest (u : LampUnit) : Prop :=
  (∀ l ∈ u.lamps, lampRests l) ∧ (u.heater.working = false ∧ u.heater.output = false) ∧ fanRests u.fan

def radioRests (r : Radio) : Prop := r.lease = .none ∧ r.station = .none ∧ r.zone.present = false

/-- Everything that moves, sounds or lights at rest, and nobody in charge. -/
structure atRest (s : State) : Prop where
  bridges : bridgesRest s.bridges
  voices : voicesRest s.sound
  lamps : lampsRest s.lamps
  radio : radioRests s.radio

theorem quietLawful_iff (s : State) : quietLawful s ↔ singleRests s.bridges ∧ (s.isRun = false → atRest s) := by
  refine and_congr Iff.rfl (forall_congr' fun _ => ⟨?_, ?_⟩)
  · rintro ⟨hheld, ha, hb, hvoices, hlamps, hworking, houtput, hfan, hpuff, hdrive, hlease, hstation, hzone⟩
    exact ⟨⟨hheld, ha, hb⟩, hvoices, ⟨hlamps, ⟨hworking, houtput⟩, hfan, hpuff, hdrive⟩, hlease, hstation, hzone⟩
  · rintro ⟨⟨hheld, ha, hb⟩, hvoices, ⟨hlamps, ⟨hworking, houtput⟩, hfan, hpuff, hdrive⟩, hlease, hstation, hzone⟩
    exact ⟨hheld, ha, hb, hvoices, hlamps, hworking, houtput, hfan, hpuff, hdrive, hlease, hstation, hzone⟩

/-- The lease, the station stop and the zone record stay. -/
def chargeKept (s t : State) : Prop :=
  t.radio.lease = s.radio.lease ∧ t.radio.station = s.radio.station ∧ t.radio.zone = s.radio.zone

/-- The blocks that rest in QUIET stay as they are. -/
def restKept (s t : State) : Prop :=
  t.bridges = s.bridges ∧ t.sound = s.sound ∧ t.lamps = s.lamps ∧ chargeKept s t

theorem restKept_refl (s : State) : restKept s s := ⟨rfl, rfl, rfl, rfl, rfl, rfl⟩

theorem restKept_trans {u : State} (h : restKept s t) (h' : restKept t u) : restKept s u := by
  obtain ⟨hbridges, hsound, hlamps, hlease, hstation, hzone⟩ := h
  obtain ⟨hbridges', hsound', hlamps', hlease', hstation', hzone'⟩ := h'
  exact ⟨hbridges'.trans hbridges, hsound'.trans hsound, hlamps'.trans hlamps, hlease'.trans hlease,
    hstation'.trans hstation, hzone'.trans hzone⟩

theorem rest_radio (h : chargeKept s t) (hs : radioRests s.radio) : radioRests t.radio := by
  obtain ⟨hlease, hstation, hzone⟩ := h
  unfold radioRests
  rwa [hlease, hstation, hzone]

theorem rest_kept (h : restKept s t) (hs : atRest s) : atRest t := by
  obtain ⟨hbridges, hsound, hlamps, hcharge⟩ := h
  exact ⟨hbridges ▸ hs.bridges, hsound ▸ hs.voices, hlamps ▸ hs.lamps, rest_radio hcharge hs.radio⟩

/-! ## The blocks one by one -/

theorem rest_bridges (hbridges : bridgesRest t.bridges) (hsound : t.sound = s.sound) (hlamps : t.lamps = s.lamps)
    (hcharge : chargeKept s t) (hs : atRest s) : atRest t :=
  ⟨hbridges, hsound ▸ hs.voices, hlamps ▸ hs.lamps, rest_radio hcharge hs.radio⟩

theorem rest_sound (hsound : voicesRest t.sound) (hbridges : t.bridges = s.bridges) (hlamps : t.lamps = s.lamps)
    (hcharge : chargeKept s t) (hs : atRest s) : atRest t :=
  ⟨hbridges ▸ hs.bridges, hsound, hlamps ▸ hs.lamps, rest_radio hcharge hs.radio⟩

theorem rest_lamps (hlamps : lampsRest t.lamps) (hbridges : t.bridges = s.bridges) (hsound : t.sound = s.sound)
    (hcharge : chargeKept s t) (hs : atRest s) : atRest t :=
  ⟨hbridges ▸ hs.bridges, hsound ▸ hs.voices, hlamps, rest_radio hcharge hs.radio⟩

/-! ## A part asleep -/

/-- The part in QUIET with everything at rest: no run, no frame in hand, no set action. -/
structure asleep (s : State) : Prop where
  quiet : s.isRun = false
  rest : atRest s
  run : s.balance.run = none
  handling : s.radio.handling = none
  queue : s.sets.queue = []

/-- In QUIET every order but CLEAR_FAULTS is refused (R19). -/
theorem refused_quiet {kind : Nat} (hquiet : s.isRun = false) (hkind : kind ≠ 13) :
    ∃ outcome, orderRefusal s kind = some outcome := by
  unfold orderRefusal
  split
  · exact ⟨_, rfl⟩
  · rw [if_pos ⟨by simp [hquiet], hkind⟩]
    exact ⟨_, rfl⟩

theorem completeOrder_rest (s : State) (o : TakenOrder) (outcome : OutcomeCode) (result : List Byte) :
    restKept s (s.completeOrder o outcome result) := by
  simp [restKept, chargeKept]

theorem inHand_mine {mine : TakenOrder → Bool} {o : TakenOrder} (h : orderInHand s mine = some o) : mine o = true := by
  unfold orderInHand at h
  split at h
  · exact (Option.filter_eq_some_iff.1 h).2
  · cases h

theorem runOrder_quiet {mine : TakenOrder → Bool} {act : State → TakenOrder → OrderAnswer}
    (hmine : ∀ o, mine o = true → o.kind ≠ 13) (hquiet : s.isRun = false) : restKept s (s.runOrder mine act) := by
  unfold State.runOrder
  split
  · next o ho =>
    obtain ⟨outcome, hrefused⟩ := refused_quiet hquiet (hmine o (inHand_mine ho))
    rw [hrefused]
    exact completeOrder_rest s o outcome []
  · exact restKept_refl s

theorem handOver_quiet {kind : Nat} {act : State → TakenOrder → State} (hkind : kind ≠ 13) (hquiet : s.isRun = false) :
    restKept s (s.handOver kind act) ∧ (s.handOver kind act).sets = s.sets := by
  unfold State.handOver
  split
  · next o ho =>
    obtain ⟨outcome, hrefused⟩ := refused_quiet (kind := o.kind) hquiet (by rw [kind_of_inHand ho]; exact hkind)
    rw [hrefused]
    exact ⟨completeOrder_rest s o outcome _, by simp⟩
  · exact ⟨restKept_refl s, rfl⟩

theorem orderKind_ne {k : Nat} (hk : k ≠ 13) (o : TakenOrder) (h : orderKind k o = true) : o.kind ≠ 13 := by
  rw [of_decide_eq_true h]
  exact hk

theorem balance_quiet (hquiet : s.isRun = false) : restKept s (balance s) := by
  simp only [balance]
  split
  · next o ho =>
    obtain ⟨outcome, hrefused⟩ := refused_quiet (kind := o.kind) hquiet (by rw [kind_of_inHand ho]; decide)
    rw [hrefused]
    exact completeOrder_rest s o outcome []
  · exact restKept_refl s

theorem handleFrame_quiet {mine : Frame → Bool} {act : State → Frame → State} (h : s.radio.handling = none) :
    s.handleFrame mine act = s := by
  unfold State.handleFrame
  rw [h]

theorem decideHead_quiet (kind : SetActionKind) (h : s.sets.queue = []) : s.decideHead kind = s := by
  unfold State.decideHead
  rw [h]

theorem decides_quiet (h : s.sets.queue = []) : invoke s = s ∧ switchSet s = s ∧ returnSet s = s :=
  ⟨decideHead_quiet _ h, decideHead_quiet _ h, decideHead_quiet _ h⟩

/-- A derivation in QUIET, under the command OFF, reports nothing and hands nothing. -/
theorem derive_rest (hquiet : s.isRun = false) (hheld : s.bridges.held = .off) : restKept s s.derive := by
  have hderived : derivedState s = .quiet := by simp [derivedState, hquiet]
  have hreport : ∀ u : State, u.traction.state = .quiet → u.reportTraction s.traction.state = u := by
    intro u hu
    unfold State.reportTraction
    rw [hu]
    split <;> simp_all
  have hhand : s.bridges.hand s.clock .off = s.bridges := by rw [BridgeUnit.hand, if_pos hheld.symm]
  rw [State.derive]
  simp only [hderived]
  rw [hreport _ rfl]
  exact ⟨hhand, rfl, rfl, rfl, rfl, rfl⟩

/-! ## The traction controller and the bridges in QUIET -/

theorem endRun_none (h : s.balance.run = none) (outcome : OutcomeCode) : s.endRun outcome = s := by
  unfold State.endRun
  rw [h]

theorem regulationStep_rest (hquiet : s.isRun = false) (h : atRest s) : atRest (regulationStep s) := by
  rw [StepEnds.regulationStep_quiet hquiet]
  have hturned : atRest (StepEnds.quieted s) := rest_bridges (s := s) h.bridges rfl rfl ⟨rfl, rfl, rfl⟩ h
  have hquiet' : (StepEnds.quieted s).isRun = false := hquiet
  generalize StepEnds.quieted s = u at hturned hquiet'
  simp only [State.stepEnds]
  generalize hv : State.onTraction u _ = v
  have hkept : restKept u v ∧ v.isRun = false := by
    rw [← hv]
    exact ⟨restKept_refl u, hquiet'⟩
  have hrest := rest_kept hkept.1 hturned
  have hderived := rest_kept (derive_rest hkept.2 hrest.bridges.1) hrest
  exact rest_kept (restKept_refl v.derive) hderived

/-- A change of one bridge that leaves its state. -/
theorem setBridge_rest {u : BridgeUnit} {id : BridgeId} {b : Bridge} (hstate : b.state = (u.get id).state)
    (h : bridgesRest u) : bridgesRest (u.set id b) := by
  obtain ⟨hheld, ha, hb⟩ := h
  cases id with
  | a => exact ⟨hheld, hstate.trans ha, hb⟩
  | b => exact ⟨hheld, ha, hstate.trans hb⟩

theorem bridgeEvents_rest (h : atRest s) (id : BridgeId) : atRest (pwmPeriod s) ∧ atRest (onPhaseEnd id s)
    ∧ (∀ leg, atRest (deadTimeExpiry id leg s)) ∧ atRest (blankingEnd id s)
    ∧ ∀ millivolts, atRest (chop id millivolts s) := by
  have hset : ∀ (due : Nat) (b : Bridge), b.state = (s.bridges.get id).state →
      atRest ((s.reach due).onBridges fun u => u.set id b) := fun due b hb =>
    rest_bridges (s := s) (setBridge_rest hb h.bridges) rfl rfl ⟨rfl, rfl, rfl⟩ h
  refine ⟨?_, ?_, fun leg => ?_, ?_, fun millivolts => ?_⟩
  · obtain ⟨hheld, ha, hb⟩ := h.bridges
    exact rest_bridges (s := s) ⟨hheld, (nextPeriod_state _ _ _ _).trans ha, (nextPeriod_state _ _ _ _).trans hb⟩ rfl rfl
      ⟨rfl, rfl, rfl⟩ h
  · unfold onPhaseEnd
    split
    · exact hset _ _ rfl
    · exact h
  · simp only [deadTimeExpiry]
    repeat' split
    · exact hset _ _ (noteConduct_state _ _ _)
    · exact h
    · exact h
  · simp only [blankingEnd]
    repeat' split
    · exact hset _ _ rfl
    · exact h
    · exact h
  · simp only [chop]
    repeat' split
    · exact rest_bridges (s := s) (setBridge_rest rfl h.bridges) rfl rfl ⟨rfl, rfl, rfl⟩ h
    · exact h
    · exact h

/-- No short is seen of a bridge that is OFF (R92). -/
theorem shortDetection_rest (hlawful : bridgesLawful s) (h : atRest s) (id : BridgeId) (millivolts since : Nat) :
    shortDetection id millivolts since s = s := by
  simp only [shortDetection]
  split
  · next hseen =>
    have hdrive := drive_of_seen hlawful hseen
    obtain ⟨-, ha, hb⟩ := h.bridges
    cases id with
    | a => exact absurd (hdrive.symm.trans ha) (by decide)
    | b => exact absurd (hdrive.symm.trans hb) (by decide)
  · rfl

/-! ## The voices in QUIET -/

theorem voice_idle {u : Sound} (h : voicesRest u) (n : Nat) : (u.voice n).state = .idle := by
  unfold Sound.voice
  cases hn : u.voices[n]? with
  | none => simp [List.getD, hn, Voice.idle]
  | some v => simpa [List.getD, hn] using h v (List.mem_of_getElem? hn)

theorem silent_of_idle {v : Voice} (h : v.state = .idle) : v.sounds = false := by
  simp [Voice.sounds, h]

theorem foldl_same {act : State → Nat → State} (hact : ∀ n, act s n = s) (l : List Nat) : l.foldl act s = s := by
  induction l with
  | nil => rfl
  | cons n rest ih => rw [List.foldl_cons, hact, ih]

theorem idleVoice_kept (h : voicesRest s.sound) (n : Nat) : s.advanceVoice n = s ∧ s.fadeVoice n = s ∧ s.retryVoice n = s := by
  have hidle := voice_idle h n
  refine ⟨?_, ?_, ?_⟩
  · simp [State.advanceVoice, silent_of_idle hidle]
  · simp [State.fadeVoice, hidle]
  · simp [State.retryVoice, hidle]

theorem sampleTimerExpiry_rest (h : atRest s) : atRest (sampleTimerExpiry s) := by
  simp only [sampleTimerExpiry]
  generalize hu : State.onSound _ _ = u
  have hrest : atRest u := by
    rw [← hu]
    exact rest_sound (s := s) h.voices rfl rfl ⟨rfl, rfl, rfl⟩ h
  split
  · exact hrest
  · rw [foldl_same fun n => (idleVoice_kept hrest.voices n).1]
    exact hrest

theorem chuffCheck_rest (hquiet : s.isRun = false) (h : atRest s) : atRest s.chuffCheck := by
  have hnone : ∀ (u : State) (angle : Nat), u.isRun = false → chuffFires u angle = false := by
    intro u angle hu
    simp [chuffFires, hu]
  simp only [State.chuffCheck]
  rw [hnone (s.onMotion fun mo => mo.camStep s.traction.c) _ hquiet]
  exact rest_sound (s := s) h.voices rfl rfl ⟨rfl, rfl, rfl⟩ h

theorem mixerFrame_rest (hquiet : s.isRun = false) (h : atRest s) : atRest (mixerFrame s) := by
  simp only [mixerFrame]
  generalize hu : State.chuffCheck _ = u
  have hrest : atRest u := by
    rw [← hu]
    exact chuffCheck_rest (s := (s.reach s.timers.mixer).onTimers _) hquiet (rest_kept (restKept_refl s) h)
  rw [foldl_same fun n => (idleVoice_kept hrest.voices n).2.1, ite_self]
  have hengine : u.updateEngine = u := by
    simp [State.updateEngine, silent_of_idle (voice_idle hrest.voices 0)]
  rw [hengine]
  generalize hv : State.onSound u _ = v
  have hread : atRest v := by
    rw [← hv]
    exact rest_sound (s := u) hrest.voices rfl rfl ⟨rfl, rfl, rfl⟩ hrest
  rw [foldl_same fun n => (idleVoice_kept hread.voices n).2.2, ite_self]
  exact hread

/-! ## The lamps in QUIET -/

theorem modify_rests {l : List Lamp} {n : Nat} {f : Lamp → Lamp} (hf : ∀ x, lampRests x → lampRests (f x))
    (h : ∀ x ∈ l, lampRests x) : ∀ x ∈ l.modify n f, lampRests x := by
  intro x hx
  rcases BlockLaws.modify_mem hx with hx | ⟨y, hy, rfl⟩
  · exact h x hx
  · exact hf y (h y (List.mem_of_getElem? hy))

theorem mapFrom_rests {f : Nat → Lamp → Lamp} (hf : ∀ n x, lampRests x → lampRests (f n x)) (l : List Lamp) (k : Nat)
    (h : ∀ x ∈ l, lampRests x) : ∀ x ∈ mapFrom f k l, lampRests x := by
  induction l generalizing k with
  | nil => exact h
  | cons y rest ih =>
    intro x hx
    rcases List.mem_cons.1 hx with rfl | hx
    · exact hf k y (h y List.mem_cons_self)
    · exact ih (k + 1) (fun z hz => h z (List.mem_cons_of_mem _ hz)) x hx

theorem onLamp_rest {n : Nat} {f : Lamp → Lamp} (hf : ∀ x, lampRests x → lampRests (f x)) (h : atRest s) :
    atRest (s.onLamp n f) :=
  rest_lamps (s := s) ⟨modify_rests hf h.lamps.1, h.lamps.2⟩ rfl rfl ⟨rfl, rfl, rfl⟩ h

theorem onEachLamp_rest {f : Nat → Lamp → Lamp} (hf : ∀ n x, lampRests x → lampRests (f n x)) (h : atRest s) :
    atRest (s.onEachLamp f) :=
  rest_lamps (s := s) ⟨mapFrom_rests hf _ 0 h.lamps.1, h.lamps.2⟩ rfl rfl ⟨rfl, rfl, rfl⟩ h

theorem dark_rests (l : Lamp) : lampRests l.dark := ⟨rfl, rfl⟩

theorem recordFault_rest (h : atRest s) : atRest s.recordFault := rest_kept (s := s) (by simp [restKept, chargeKept]) h

theorem recordLampFault_rest (n : Nat) (kind : LampFault) (h : atRest s) : atRest (s.recordLampFault n kind) :=
  recordFault_rest (onLamp_rest (fun _ hx => hx) h)

theorem overEpisode_rest (n : Nat) (h : atRest s) : atRest (s.overEpisode n) := by
  simp only [State.overEpisode]
  split
  · exact onLamp_rest (fun _ hx => hx) h
  · exact recordLampFault_rest n _ (onLamp_rest (fun _ hx => hx) h)

theorem overcurrentDetected_rest (n : Nat) (h : atRest s) : atRest (overcurrentDetected s n) := by
  unfold overcurrentDetected
  split
  · exact recordLampFault_rest n _ (onLamp_rest (fun x _ => dark_rests x) h)
  · exact overEpisode_rest n (onLamp_rest (fun x _ => dark_rests x) h)
  · exact overEpisode_rest n h
  · exact h

theorem openLoadDetected_rest (n : Nat) (h : atRest s) : atRest (openLoadDetected s n) := by
  simp only [openLoadDetected]
  repeat' split
  · exact recordLampFault_rest n _ (onLamp_rest (fun x _ => dark_rests x) h)
  · exact onLamp_rest (fun _ hx => hx) h
  · exact recordLampFault_rest n _ (onLamp_rest (fun _ hx => hx) h)
  · exact h
  · exact h

theorem reach_rest (due : Nat) (h : atRest s) : atRest (s.reach due) := rest_kept (restKept_refl s) h

theorem lampEvents_rest (n : Fin 10) (milliamps since : Nat) (h : atRest s) : atRest (lampPwmPeriod n s)
    ∧ atRest (lampOnTimeEnd n milliamps s) ∧ atRest (lampOvercurrent n milliamps since s) ∧ atRest (lampRetryExpiry n s)
    ∧ atRest (openLoadExpiry n s) := by
  refine ⟨?_, ?_, ?_, ?_, ?_⟩
  · refine onLamp_rest (fun x hx => ⟨hx.1, ?_⟩) (reach_rest _ h)
    rw [hx.1]
    exact decide_eq_false (Nat.lt_irrefl 0)
  · simp only [lampOnTimeEnd]
    split
    · exact onLamp_rest (fun x hx => ⟨hx.1, rfl⟩) (reach_rest _ h)
    · exact h
  · simp only [lampOvercurrent]
    split
    · exact overcurrentDetected_rest _ (onLamp_rest (fun _ hx => hx) (reach_rest _ h))
    · exact h
  · unfold lampRetryExpiry
    split
    · exact onLamp_rest (fun _ hx => hx) (reach_rest _ h)
    · exact h
  · unfold openLoadExpiry
    split
    · exact openLoadDetected_rest _ (onLamp_rest (fun _ hx => hx) (reach_rest _ h))
    · exact h

/-- A lamp whose on condition does not hold stays dark (R169). -/
theorem effectStep_rests (s : State) (n : Nat) {l : Lamp} (h : lampRests l) : lampRests (effectStep s false n l) := by
  have htest : ∀ (x : Lamp) (now : Nat), lampRests x → lampRests (x.openTest now) := by
    intro x now hx
    simp only [Lamp.openTest]
    repeat' split
    all_goals exact hx
  have htarget : lampTarget 0 s.lampSet.scale s.supply.shed = 0 := by
    simp [lampTarget]
  have hfades : ∀ step, fadeToward l.shown 0 step = 0 := by
    intro step
    simp [fadeToward, h.1]
  refine htest _ _ ⟨?_, h.2⟩
  simp only [Bool.false_and, Bool.false_eq_true, if_false, htarget, hfades, ite_self]

theorem effectTimerExpiry_rest (hquiet : s.isRun = false) (h : atRest s) : atRest (effectTimerExpiry s) := by
  have hnone : ∀ (u : State) (n : Nat), u.isRun = false → lampCondition u n = false := by
    intro u n hu
    simp [lampCondition, hu]
  simp only [effectTimerExpiry]
  generalize hu : State.onLamps _ _ = u
  have hkept : atRest u ∧ u.isRun = false := by
    rw [← hu]
    exact ⟨rest_lamps (s := s) h.lamps rfl rfl ⟨rfl, rfl, rfl⟩ h, hquiet⟩
  refine onEachLamp_rest (fun n x hx => ?_) hkept.1
  rw [hnone u n hkept.2]
  exact effectStep_rests u n hx

/-! ## Heater and fan in QUIET -/

theorem off_of_working {heater : Heater} (h : heater.working = false) :
    heater.state ≠ .regulate ∧ heater.state ≠ .preheat := by
  unfold Heater.working at h
  constructor <;> intro hno <;> simp [hno] at h

theorem heater_rest {f : Heater → Heater} (hf : (f s.lamps.heater).working = false ∧ (f s.lamps.heater).output = false)
    (h : atRest s) : atRest (s.onHeater f) :=
  rest_lamps (s := s) ⟨h.lamps.1, hf, h.lamps.2.2⟩ rfl rfl ⟨rfl, rfl, rfl⟩ h

theorem fan_rest {f : Fan → Fan} (hf : fanRests (f s.lamps.fan)) (h : atRest s) : atRest (s.onFan f) :=
  rest_lamps (s := s) ⟨h.lamps.1, h.lamps.2.1, hf⟩ rfl rfl ⟨rfl, rfl, rfl⟩ h

theorem unlessEnabled_still {heater : Heater} (h : heater.working = false) (enabled : Bool) :
    heater.unlessEnabled enabled = heater := by
  unfold Heater.unlessEnabled
  rw [h]
  rfl

theorem fanFollows_still {before : HeaterState} (hbefore : before ≠ .regulate) (hnow : s.lamps.heater.state ≠ .regulate) :
    s.fanFollows before = s := by
  unfold State.fanFollows
  rw [if_neg hbefore, if_neg hnow]

theorem heaterArrival_rest (h : atRest s) : atRest s.heaterArrival := by
  obtain ⟨hworking, houtput⟩ := h.lamps.2.1
  unfold State.heaterArrival
  rw [fanFollows_still (off_of_working hworking).1]
  · refine heater_rest ?_ h
    rw [unlessEnabled_still hworking]
    exact ⟨hworking, houtput⟩
  · show (s.lamps.heater.unlessEnabled _).state ≠ _
    rw [unlessEnabled_still hworking]
    exact (off_of_working hworking).1

theorem sensorTest_still (hquiet : s.isRun = false) : s.sensorTest = s := by
  simp [State.sensorTest, sensorFault, hquiet]

theorem dryTest_still (h : s.lamps.heater.working = false) : s.dryTest = s := by
  simp [State.dryTest, dryFault, h]

theorem start_still (heater : Heater) : heater.start false = heater := by
  simp [Heater.start]

theorem work_still {heater : Heater} (h : heater.working = false) (point raised : Nat) : heater.work point raised = heater := by
  obtain ⟨hregulate, hpreheat⟩ := off_of_working h
  unfold Heater.work
  split
  · next hstate => exact absurd hstate hpreheat
  · next hstate => exact absurd hstate hregulate
  · rfl
  · rfl

theorem onHeater_still {f : Heater → Heater} (hf : f s.lamps.heater = s.lamps.heater) : s.onHeater f = s := by
  have hlamps : ({ s.lamps with heater := f s.lamps.heater } : LampUnit) = s.lamps := by rw [hf]
  rw [State.onHeater, State.onLamps, hlamps]

/-- The heater's timer in QUIET: no sensor test, no start, no stage at work (R176, R177). -/
theorem heaterTimerExpiry_rest (thermistor : BitVec 10) (hquiet : s.isRun = false) (h : atRest s) :
    atRest (heaterTimerExpiry thermistor s) := by
  simp only [heaterTimerExpiry]
  generalize hu : State.onHeater _ (fun x : Heater => { x with lastT := thermistor.toNat }) = u
  have hkept : atRest u ∧ u.isRun = false ∧ u.lamps.heater.state = s.lamps.heater.state := by
    rw [← hu]
    exact ⟨heater_rest (s := (s.reach s.timers.heater).onTimers _) h.lamps.2.1 (rest_kept (restKept_refl s) h), hquiet, rfl⟩
  obtain ⟨hrest, hquiet', hstate⟩ := hkept
  have hworking := hrest.lamps.2.1.1
  obtain ⟨hregulate, hpreheat⟩ := off_of_working hworking
  have hdisabled : heaterEnabled u = false := by simp [heaterEnabled, hquiet']
  have hfails : heatFails u = false := by simp [heatFails, hpreheat]
  have henable : (u.onHeater fun x => x.unlessEnabled (heaterEnabled u)) = u := onHeater_still (unlessEnabled_still hworking _)
  have hstart : (u.onHeater fun x => x.start (heaterEnabled u)) = u := onHeater_still (by rw [hdisabled, start_still])
  have hwork : (u.onHeater fun x => x.work (setpoint u) 1) = u := onHeater_still (work_still hworking _ _)
  rw [sensorTest_still hquiet', henable, dryTest_still hworking, hstart, hfails, hwork, if_neg Bool.false_ne_true,
    fanFollows_still (hstate ▸ hregulate) hregulate]
  split
  · next hruns =>
    rcases hrest.lamps.2.2.1 with hoff | hlatched
    · exact absurd (hoff.symm.trans hruns) (by decide)
    · exact absurd (hlatched.symm.trans hruns) (by decide)
  · exact hrest

theorem fanDuty_quiet (hquiet : s.isRun = false) : fanDuty s = 0 := by
  simp [fanDuty, hquiet]

theorem driveAt_rests {f : Fan} (h : fanRests f) (now start : Nat) : fanRests (f.driveAt now start 0) := ⟨h.1, h.2.1, rfl⟩

theorem fanEvents_rest (hquiet : s.isRun = false) (h : atRest s) (milliamps since : Nat) : atRest (puffTimerExpiry s)
    ∧ atRest (purgeTimerExpiry s) ∧ atRest (fanPwmPeriod s) ∧ atRest (fanOvercurrent milliamps since s)
    ∧ atRest s.fanDriveNow := by
  have hfan := h.lamps.2.2
  refine ⟨?_, ?_, ?_, ?_, ?_⟩
  · have hnone : puffTimerExpiry s = s := by
      unfold puffTimerExpiry
      rw [hfan.2.1]
    rw [hnone]
    exact h
  · unfold purgeTimerExpiry
    split
    · exact fan_rest (s := s.reach _) ⟨.inl rfl, hfan.2⟩ (reach_rest _ h)
    · exact h
  · simp only [fanPwmPeriod]
    generalize hu : State.onTimers _ _ = u
    have hkept : restKept s u ∧ u.isRun = false := by
      rw [← hu]
      exact ⟨restKept_refl s, hquiet⟩
    have hrest := rest_kept hkept.1 h
    rw [fanDuty_quiet hkept.2]
    exact fan_rest (driveAt_rests hrest.lamps.2.2 _ _) hrest
  · simp only [fanOvercurrent]
    split
    · exact recordFault_rest (fan_rest (s := s.reach _) ⟨.inr rfl, rfl, rfl⟩ (reach_rest _ h))
    · exact h
  · unfold State.fanDriveNow
    rw [fanDuty_quiet hquiet]
    exact fan_rest (driveAt_rests hfan _ _) h

theorem lampShedChange_rest (before : Nat) (hquiet : s.isRun = false) (h : atRest s) : atRest (s.lampShedChange before) := by
  have hrise : ∀ (level n : Nat) (x : Lamp), lampRests x → lampRests (x.shedRise level) := by
    intro level n x hx
    unfold Lamp.shedRise
    repeat' split
    · exact dark_rests x
    · exact ⟨by simp [hx.1], hx.2⟩
    · exact hx
  simp only [State.lampShedChange]
  generalize hu : (if before < s.supply.shed then _ else s : State) = u
  have hkept : atRest u ∧ u.isRun = false := by
    rw [← hu]
    split
    · exact ⟨onEachLamp_rest (fun n x => hrise _ n x) h, hquiet⟩
    · exact ⟨h, hquiet⟩
  have harrival := heaterArrival_rest hkept.1
  have hquiet' : u.heaterArrival.isRun = false := by
    have hrun : u.heaterArrival.port.run = u.port.run := by simp
    exact (decide_eq_decide.2 (by rw [hrun])).trans hkept.2
  split
  · exact harrival
  · exact (fanEvents_rest hquiet' harrival 0 0).2.2.2.2

/-! ## The supply in QUIET -/

/-- What the work on the supply needs to know of a part asleep. -/
def runless (s : State) : Prop := s.isRun = false ∧ atRest s ∧ s.balance.run = none

theorem derive_runless (h : runless s) : runless s.derive := by
  obtain ⟨hquiet, hrest, hrun⟩ := h
  have hkept : s.derive.port.run = s.port.run ∧ s.derive.balance = s.balance := by simp
  exact ⟨(decide_eq_decide.2 (by rw [hkept.1])).trans hquiet, rest_kept (derive_rest hquiet hrest.bridges.1) hrest,
    (congrArg Balance.run hkept.2).trans hrun⟩

theorem onTraction_runless (f : Traction → Traction) (h : runless s) : runless (s.onTraction f) :=
  ⟨h.1, rest_kept (restKept_refl s) h.2.1, h.2.2⟩

theorem tractionShedChange_runless (before : Nat) (h : runless s) : runless (s.tractionShedChange before) := by
  simp only [State.tractionShedChange]
  repeat' split
  · exact derive_runless (onTraction_runless _ h)
  · exact derive_runless h
  · exact derive_runless (onTraction_runless _ h)
  · exact derive_runless h

theorem formShed_rest (h : runless s) : atRest s.formShed := by
  simp only [State.formShed]
  split
  · exact h.2.1
  · have hformed : runless (s.onSupply fun u => { u with shed := max s.supply.level s.supply.thermal }) :=
      ⟨h.1, rest_kept (restKept_refl s) h.2.1, h.2.2⟩
    obtain ⟨hquiet, hrest, hrun⟩ := tractionShedChange_runless s.supply.shed hformed
    generalize State.tractionShedChange _ _ = v at hquiet hrest hrun ⊢
    have hstays : v.balanceShedChange s.supply.shed = v := by
      simp only [State.balanceShedChange, endRun_none hrun, ite_self]
    rw [hstays]
    exact rest_kept (restKept_refl (v.lampShedChange s.supply.shed)) (lampShedChange_rest _ hquiet hrest)

theorem supplySample_rest (vtrk vsto : Nat) (h : runless s) : atRest (supplySample vtrk vsto s) := by
  simp only [supplySample]
  generalize hu : State.onSupply _ (fun x : Supply => ({ x with vtrk := voltage vtrk, vsto := voltage vsto }).work) = u
  have hworked : runless u := by
    rw [← hu]
    exact ⟨h.1, rest_kept (restKept_refl s) h.2.1, h.2.2⟩
  have hreported : ∀ before, runless (u.supplyReport before) := by
    intro before
    have hraised : runless (u.raise .supply) := ⟨hworked.1, rest_kept (restKept_refl u) hworked.2.1, hworked.2.2⟩
    simp only [State.supplyReport, endRun_none hraised.2.2, ite_self]
    split
    · exact hworked
    · exact hraised
  obtain ⟨hquiet, hrest, hrun⟩ := hreported (((s.reach s.timers.supply).onTimers fun x =>
    { x with supply := (s.reach s.timers.supply).clock + ms 1 }).supply.state)
  generalize State.supplyReport _ _ = v at hquiet hrest hrun ⊢
  exact formShed_rest ⟨hquiet, rest_kept (restKept_refl v) hrest, hrun⟩

theorem dieTemperatureExpiry_rest (celsius : Int) (h : runless s) : atRest (dieTemperatureExpiry celsius s) :=
  formShed_rest ⟨h.1, rest_kept (restKept_refl s) h.2.1, h.2.2⟩

/-! ## CLEAR_FAULTS in QUIET (R98, R99) -/

theorem clearBridge_rest (id : BridgeId) (h : atRest s) : atRest (s.clearBridge id) := by
  obtain ⟨hheld, ha, hb⟩ := h.bridges
  have hoff : (s.bridges.get id).state = .off := by
    cases id with
    | a => exact ha
    | b => exact hb
  have hno : ¬(s.bridges.get id).state = .latched := by
    rw [hoff]
    decide
  rw [FaultClears.clearBridge_eq, if_neg hno]
  refine rest_bridges (s := s) (setBridge_rest ?_ h.bridges) rfl rfl ⟨rfl, rfl, rfl⟩ h
  rw [Bridge.release_eq, if_neg hno]

theorem clear_idles {heater : Heater} (h : heater.working = false) : heater.clear.working = false := by
  unfold Heater.clear
  split
  · by_cases hdry : heater.state = .dry
    · simp [Heater.working, hdry]
    · simpa [Heater.working, hdry] using h
  · exact h

theorem clearMask_rest (mask : BitVec 32) (h : atRest s) : atRest (s.clearMask mask) := by
  have hbit : ∀ (u : State) (k : Nat) (id : BridgeId), atRest u → atRest (if mask.getLsbD k then u.clearBridge id else u) := by
    intro u k id hu
    split
    · exact clearBridge_rest id hu
    · exact hu
  have hcleared : atRest (FaultClears.bridgesCleared s mask) := hbit _ 1 .b (hbit s 0 .a h)
  rw [FaultClears.clearMask_eq]
  generalize FaultClears.bridgesCleared s mask = u at hcleared
  obtain ⟨hlamps, ⟨hworking, houtput⟩, hfan, hpuff, hdrive⟩ := hcleared.lamps
  have hheater : (if mask.getLsbD 12 then u.lamps.heater.clear else u.lamps.heater).working = false
      ∧ (if mask.getLsbD 12 then u.lamps.heater.clear else u.lamps.heater).output = false := by
    split
    · exact ⟨clear_idles hworking, (by unfold Heater.clear; split <;> exact houtput)⟩
    · exact ⟨hworking, houtput⟩
  refine rest_lamps (s := u) ⟨?_, hheater, ?_⟩ rfl rfl ⟨rfl, rfl, rfl⟩ hcleared
  · refine mapFrom_rests (fun n x hx => ?_) _ 0 hlamps
    split
    · exact hx
    · exact hx
  · simp only [FaultClears.lampsCleared]
    rw [if_neg (off_of_working hheater.1).1]
    split
    · exact ⟨.inl rfl, hpuff, hdrive⟩
    · exact ⟨hfan, hpuff, hdrive⟩

theorem clearFaults_rest (h : atRest s) : atRest (clearFaults s) :=
  runOrder_keeps (P := atRest) (fun u o outcome result hu => rest_kept (completeOrder_rest u o outcome result) hu)
    (fun o _ => by exact clearMask_rest _ h) h

/-! ## The loads of a start (R10) -/

theorem endStage_rest (j : StartJob) (h : atRest s) : atRest (s.endStage j).1 := by
  unfold State.endStage
  split
  · have hcfg : (s.loadAnchor j.image).bridges = { s.bridges with cfg := loadBridgeConfig j.image } := by
      simp [State.loadAnchor]
    refine rest_bridges (s := s) (t := s.loadAnchor j.image) ?_ (by simp) (by simp) (by simp [chargeKept]) h
    rw [hcfg]
    exact h.bridges
  · have hnone : ∀ u : State, u.radio.lease = .none → u.overduePoints = u := by
      intro u hu
      simp only [State.overduePoints, hu]
    have hloaded : s.loadRadio j.image = s.onRadio fun r =>
        { r with cfg := loadRadioConfig j.image, consist := loadConsist j.image } := hnone _ h.radio.1
    simp only [hloaded]
    exact rest_kept (restKept_refl s) h
  · refine onEachLamp_rest (fun n x hx => ?_) h
    unfold Lamp.startCopy
    simp only
    split
    · exact hx
    · exact dark_rests _
  · exact h
  · exact h

theorem endLoads_rest (n : Nat) (j : StartJob) (h : atRest s) : atRest (State.endLoads n s j).1 := by
  induction n generalizing s j with
  | zero => exact h
  | succ n ih =>
    simp only [State.endLoads]
    split
    · exact h
    · exact ih _ (endStage_rest _ (rest_kept (s := s) (by simp [restKept, chargeKept]) h))

theorem startRefused_rest (h : atRest s) : atRest (startRefused s) := by
  simp only [startRefused]
  split
  · next j _ =>
    split
    · exact rest_kept (restKept_refl (State.endLoads 4 s j).1) (endLoads_rest 4 j h)
    · exact h
  · exact h

/-! ## Every command in QUIET -/

/-- In QUIET the orders but CLEAR_FAULTS are refused (R19). -/
theorem orders_quiet (hquiet : s.isRun = false) : restKept s (throttleOrder s) ∧ restKept s (functions s)
    ∧ restKept s (stopOrder s) ∧ restKept s (loadLamps s) ∧ restKept s (loadRadio s) ∧ restKept s (play s) ∧ restKept s (hush s)
    ∧ restKept s (holdBalance s) ∧ restKept s (resumeBalance s) ∧ restKept s (leaseTake s) ∧ restKept s (leaseRelease s) := by
  have hlease : ∀ o, orderKind 14 o = true → o.kind ≠ 13 := orderKind_ne (by decide)
  refine ⟨?_, ?_, ?_, ?_, ?_, ?_, ?_, ?_, ?_, runOrder_quiet (fun o ho => hlease o ?_) hquiet,
    runOrder_quiet (fun o ho => hlease o ?_) hquiet⟩
  rotate_right 2
  · exact (Bool.and_eq_true _ _ ▸ ho).1
  · exact (Bool.and_eq_true _ _ ▸ ho).1
  all_goals exact runOrder_quiet (orderKind_ne (by decide)) hquiet

/-- In QUIET no frame is in hand, and none is acted on (R9). -/
theorem frames_quiet (h : s.radio.handling = none) : throttleFrame s = s ∧ funcFrame s = s ∧ stopFrame s = s ∧ setFrame s = s
    ∧ beaconFrame s = s ∧ consistJoin s = s ∧ consistLeave s = s ∧ releaseFrame s = s ∧ passFrame s = s
    ∧ serviceWrite s = s ∧ serviceWriteDone s = s := by
  refine ⟨handleFrame_quiet h, handleFrame_quiet h, handleFrame_quiet h, handleFrame_quiet h, handleFrame_quiet h,
    handleFrame_quiet h, handleFrame_quiet h, handleFrame_quiet h, handleFrame_quiet h, ?_, ?_⟩
  · simp only [serviceWrite, h]
  · simp only [serviceWriteDone, h]

/-- In QUIET nobody holds the lease, no station stop stands and no run exists. -/
theorem radioTimers_quiet (h : asleep s) : failsafeExpiry s = s ∧ lapseExpiry s = s ∧ dwellTimerExpiry s = s
    ∧ balanceHeldTimerExpiry s = s := by
  obtain ⟨hlease, hstation, -⟩ := h.rest.radio
  refine ⟨?_, ?_, ?_, ?_⟩
  · simp only [failsafeExpiry, hlease]
  · simp only [lapseExpiry, hlease]
  · simp only [dwellTimerExpiry, hstation]
  · simp only [balanceHeldTimerExpiry, h.run]

theorem requestStop_quiet (hquiet : s.isRun = false) : restKept s s.requestStop := by
  unfold State.requestStop
  split
  · next hrun => simp [State.isRun, hrun] at hquiet
  · split
    · exact restKept_refl s
    · exact restKept_refl s

theorem reset_rest : atRest State.reset := by
  obtain ⟨-, ⟨-, -, -, -, hquiet⟩, -⟩ := ResetLaws.resetMeetsEveryLaw
  exact ((quietLawful_iff _).1 hquiet).2 rfl

theorem resetTask_rest (s : State) (task : ResetTask) : restKept s (s.resetTask task) := by
  unfold restKept chargeKept
  cases task
  all_goals
    simp only [State.resetTask, State.resetAccess]
    repeat' split
    all_goals simp

theorem resetTasks_rest (tasks : List ResetTask) (s : State) : restKept s (tasks.foldl State.resetTask s) := by
  induction tasks generalizing s with
  | nil => exact restKept_refl s
  | cons task rest ih => exact restKept_trans (resetTask_rest s task) (ih (s.resetTask task))

theorem endReset_rest (s : State) (j : ResetJob) : restKept s (s.endReset j) := by
  simp only [State.endReset, restKept, chargeKept]
  split <;> simp

theorem resetRewritesEnd_rest (h : atRest s) : atRest (resetRewritesEnd s) := by
  simp only [resetRewritesEnd]
  split
  · next j _ =>
    refine rest_kept (endReset_rest _ j) (rest_kept ?_ (rest_kept (resetTasks_rest j.todo s) h))
    simp [restKept, chargeKept]
  · exact h

theorem refreshSet_rest (h : asleep s) : atRest (refreshSet s) := by
  obtain ⟨hkept, hsets⟩ := handOver_quiet (kind := 5) (act := State.requestRefresh) (by decide) h.quiet
  have hsame : refreshSet s = s.handOver 5 State.requestRefresh :=
    decideHead_quiet _ ((congrArg SetManager.queue hsets).trans h.queue)
  rw [hsame]
  exact rest_kept hkept h.rest

/-- The receiver's events leave lease, station stop and zone record. -/
theorem receiver_rest (hquiet : s.isRun = false) (b : Byte) (stopBit : Bool) (sender : BitVec 16) :
    restKept s (gapTimerExpiry s) ∧ restKept s (repeatWindowExpiry sender s) ∧ restKept s (rxdByte b stopBit s) := by
  refine ⟨?_, ?_, ?_⟩
  · unfold gapTimerExpiry
    split
    · exact restKept_refl s
    · exact restKept_refl s
  · unfold repeatWindowExpiry
    split
    · exact restKept_refl s
    · exact restKept_refl s
  · unfold rxdByte
    rw [if_neg (by simp [hquiet])]
    exact restKept_refl s

theorem exec_rest {c : Instr} (hc : c ≠ .startEnd) (hlawful : bridgesLawful s) (h : asleep s) (hexec : exec c s = .next t) :
    atRest t := by
  have hquiet := h.quiet
  have hrest := h.rest
  obtain ⟨hthrottle, hfunctions, hstop, hlamps, hradio, hplay, hhush, hhold, hresume, htake, hrelease⟩ := orders_quiet hquiet
  obtain ⟨hthrottle', hfunc, hstop', hset, hbeacon, hjoin, hleave, hrelease', hpass, hwrite, hdone⟩ := frames_quiet h.handling
  obtain ⟨hfailsafe, hlapse, hdwell, hheld⟩ := radioTimers_quiet h
  cases c
  case startEnd => exact absurd rfl hc
  case startRefused => cases hexec; exact startRefused_rest hrest
  case teardown =>
    cases hexec
    exact rest_kept (requestStop_quiet (s := s.registerWrite) hquiet) (rest_kept (by simp [restKept, chargeKept]) hrest)
  case softReset => cases hexec; exact rest_kept (restKept_refl State.reset) reset_rest
  case powerReset => cases hexec; exact rest_kept (restKept_refl State.reset) reset_rest
  case brownoutReset => cases hexec; exact rest_kept (restKept_refl State.reset) reset_rest
  case resetRewritesEnd => cases hexec; exact resetRewritesEnd_rest hrest
  case throttleOrder => cases hexec; exact rest_kept hthrottle hrest
  case functions => cases hexec; exact rest_kept hfunctions hrest
  case stopOrder => cases hexec; exact rest_kept hstop hrest
  case loadLamps => cases hexec; exact rest_kept hlamps hrest
  case loadRadio => cases hexec; exact rest_kept hradio hrest
  case play => cases hexec; exact rest_kept hplay hrest
  case hush => cases hexec; exact rest_kept hhush hrest
  case holdBalance => cases hexec; exact rest_kept hhold hrest
  case resumeBalance => cases hexec; exact rest_kept hresume hrest
  case leaseTake => cases hexec; exact rest_kept htake hrest
  case leaseRelease => cases hexec; exact rest_kept hrelease hrest
  case balance => cases hexec; exact rest_kept (balance_quiet hquiet) hrest
  case setAction => cases hexec; exact rest_kept (handOver_quiet (by decide) hquiet).1 hrest
  case refreshSet => cases hexec; exact refreshSet_rest h
  case invoke => cases hexec; exact (decides_quiet h.queue).1.symm ▸ hrest
  case switch => cases hexec; exact (decides_quiet h.queue).2.1.symm ▸ hrest
  case returnSet => cases hexec; exact (decides_quiet h.queue).2.2.symm ▸ hrest
  case clearFaults => cases hexec; exact clearFaults_rest hrest
  case throttleFrame => cases hexec; exact hthrottle'.symm ▸ hrest
  case funcFrame => cases hexec; exact hfunc.symm ▸ hrest
  case stopFrame => cases hexec; exact hstop'.symm ▸ hrest
  case setFrame => cases hexec; exact hset.symm ▸ hrest
  case beaconFrame => cases hexec; exact hbeacon.symm ▸ hrest
  case consistJoin => cases hexec; exact hjoin.symm ▸ hrest
  case consistLeave => cases hexec; exact hleave.symm ▸ hrest
  case releaseFrame => cases hexec; exact hrelease'.symm ▸ hrest
  case passFrame => cases hexec; exact hpass.symm ▸ hrest
  case serviceWrite => cases hexec; exact hwrite.symm ▸ hrest
  case serviceWriteDone => cases hexec; exact hdone.symm ▸ hrest
  case failsafeExpiry => cases hexec; exact hfailsafe.symm ▸ hrest
  case lapseExpiry => cases hexec; exact hlapse.symm ▸ hrest
  case dwellTimerExpiry => cases hexec; exact hdwell.symm ▸ hrest
  case balanceHeldTimerExpiry => cases hexec; exact hheld.symm ▸ hrest
  case regulationStep => cases hexec; exact regulationStep_rest hquiet hrest
  case pwmPeriod => cases hexec; exact (bridgeEvents_rest hrest .a).1
  case onPhaseEnd id => cases hexec; exact (bridgeEvents_rest hrest id).2.1
  case deadTimeExpiry id leg => cases hexec; exact (bridgeEvents_rest hrest id).2.2.1 leg
  case blankingEnd id => cases hexec; exact (bridgeEvents_rest hrest id).2.2.2.1
  case chop id millivolts => cases hexec; exact (bridgeEvents_rest hrest id).2.2.2.2 millivolts
  case shortDetection id millivolts since =>
    cases hexec
    exact (shortDetection_rest hlawful hrest id millivolts since).symm ▸ hrest
  case sampleTimerExpiry => cases hexec; exact sampleTimerExpiry_rest hrest
  case mixerFrame => cases hexec; exact mixerFrame_rest hquiet hrest
  case effectTimerExpiry => cases hexec; exact effectTimerExpiry_rest hquiet hrest
  case lampPwmPeriod n => cases hexec; exact (lampEvents_rest n 0 0 hrest).1
  case lampOnTimeEnd n milliamps => cases hexec; exact (lampEvents_rest n milliamps 0 hrest).2.1
  case lampOvercurrent n milliamps since => cases hexec; exact (lampEvents_rest n milliamps since hrest).2.2.1
  case lampRetryExpiry n => cases hexec; exact (lampEvents_rest n 0 0 hrest).2.2.2.1
  case openLoadExpiry n => cases hexec; exact (lampEvents_rest n 0 0 hrest).2.2.2.2
  case heaterTimerExpiry => cases hexec; exact heaterTimerExpiry_rest _ hquiet hrest
  case puffTimerExpiry => cases hexec; exact (fanEvents_rest hquiet hrest 0 0).1
  case purgeTimerExpiry => cases hexec; exact (fanEvents_rest hquiet hrest 0 0).2.1
  case fanPwmPeriod => cases hexec; exact (fanEvents_rest hquiet hrest 0 0).2.2.1
  case fanOvercurrent milliamps since => cases hexec; exact (fanEvents_rest hquiet hrest milliamps since).2.2.2.1
  case supplySample => cases hexec; exact supplySample_rest _ _ ⟨hquiet, hrest, h.run⟩
  case dieTemperatureExpiry => cases hexec; exact dieTemperatureExpiry_rest _ ⟨hquiet, hrest, h.run⟩
  case gapTimerExpiry => cases hexec; exact rest_kept (receiver_rest hquiet 0 true 0).1 hrest
  case repeatWindowExpiry sender => cases hexec; exact rest_kept (receiver_rest hquiet 0 true sender).2.1 hrest
  case rxdByte b stopBit => cases hexec; exact rest_kept (receiver_rest hquiet b stopBit 0).2.2 hrest
  all_goals
    cases hexec
    exact rest_kept (s := s) (by simp [restKept, chargeKept]) hrest

/-! ## To QUIET and from it (R10, R12) -/

theorem teardown_rest (hsingle : singleRests s.bridges) (hvoices : s.sound.voices.length = 8) : atRest s.teardown := by
  obtain ⟨hframe, -, hzone, -, -, hidle⟩ := teardown_brought s
  generalize s.teardown = u at hframe hzone hidle
  have hparts : u.bridges = (Teardowns.quieted s).bridges ∧ u.lamps = s.lamps.teardown s.clock ∧ u.radio.lease = .none
      ∧ u.radio.station = .none := by
    rw [hframe]
    exact ⟨rfl, rfl, rfl, rfl⟩
  obtain ⟨hbridges, hlamps, hlease, hstation⟩ := hparts
  refine ⟨?_, (hidle hvoices).2, ?_, hlease, hstation, hzone⟩
  · rw [hbridges]
    refine ⟨rfl, rfl, ?_⟩
    simp only [Teardowns.quieted]
    split
    · rfl
    · next hmode =>
      have hmode' : s.bridges.cfg.mode = .single := by
        cases hm : s.bridges.cfg.mode with
        | single => rfl
        | parallel => exact absurd hm hmode
      have hoff := hsingle hmode'
      rw [Bridge.release_eq, if_neg (by rw [hoff]; decide)]
      exact hoff
  · rw [hlamps]
    refine ⟨fun l hl => ?_, ⟨?_, rfl⟩, ?_, rfl, rfl⟩
    · obtain ⟨x, -, rfl⟩ := List.mem_map.1 hl
      exact dark_rests x
    · simp only [LampUnit.teardown, Heater.teardown, Heater.working]
      by_cases hdry : s.lamps.heater.state = .dry
      · simp [hdry]
      · simp [hdry]
    · simp only [LampUnit.teardown, Fan.teardown]
      split
      · exact .inr rfl
      · exact .inl rfl

/-- The entry to RUN leaves a bridge that the mode does not use. -/
theorem enterRun_spare (s : State) (j : StartJob) : spare (s.enterRun j).bridges = spare s.bridges := by
  simp [State.enterRun, State.tractionEnterRun]

theorem startEnd_quiet (hstart : startLawful s) (hvoices : voicesLawful s) (h : quietLawful s) :
    quietLawful (startEnd s) := by
  have hsame : quietLawful s := h
  rw [quietLawful_iff] at h ⊢
  obtain ⟨-, hrest⟩ := h
  simp only [startEnd]
  split
  · next j hj =>
    have hquiet : s.isRun = false := by simp [State.isRun, (StartLaws.start_alone hstart hj).1]
    have hloaded := endLoads_rest 4 j (hrest hquiet)
    have hloads : voicesLawful (State.endLoads 4 s j).1 := BlockLaws.endLoads_lawful (l := .voices) 4 j hvoices
    have hlength := hloads.1
    clear hloads
    generalize (State.endLoads 4 s j).1 = u at hloaded hlength
    have hentered : singleRests (u.enterRun (State.endLoads 4 s j).2).bridges :=
      singleRests_of_spare (enterRun_spare u _) fun _ => hloaded.bridges.2.2
    obtain ⟨hframe, -, -, hlength'⟩ := enterRun_brought u (State.endLoads 4 s j).2
    have hcount := hlength' hlength
    have hrun : (u.enterRun (State.endLoads 4 s j).2).isRun = true := by
      generalize u.enterRun (State.endLoads 4 s j).2 = v at hframe
      rw [hframe]
      rfl
    split
    · split
      · have hdown := teardown_rest hentered hcount
        exact ⟨fun _ => hdown.bridges.2.2, fun _ => hdown⟩
      · exact ⟨hentered, fun hno => absurd (hno.symm.trans hrun) (by decide)⟩
    · exact (quietLawful_iff s).1 hsame
  · exact (quietLawful_iff s).1 hsame

/-! ## Decisions and stops in RUN (R12, R37) -/

theorem run_kept (hrun : t.port.run = s.port.run) : t.isRun = s.isRun := decide_eq_decide.2 (by rw [hrun])

/-- In RUN the law asks for the bridge that the mode does not use. -/
theorem quiet_of_run (hrun : s.isRun = true) (hsingle : singleRests s.bridges) : quietLawful s :=
  (quietLawful_iff s).2 ⟨hsingle, fun hno => absurd (hno.symm.trans hrun) (by decide)⟩

theorem quiet_of_rest (h : atRest s) : quietLawful s :=
  (quietLawful_iff s).2 ⟨fun _ => h.bridges.2.2, fun _ => h⟩

theorem abandonWaiting_rest (waiting : List SetAction) (h : atRest s) : atRest (s.abandonWaiting waiting) :=
  abandonWaiting_keeps (P := atRest) (fun u _ hu => rest_kept (restKept_refl u) hu)
    (fun u a hu => rest_kept (s := u) (by simp [restKept, chargeKept]) hu) waiting h

theorem nextAction_quiet (hrun : s.isRun = true) (hsingle : singleRests s.bridges) (hvoices : s.sound.voices.length = 8) :
    quietLawful s.nextAction := by
  unfold State.nextAction
  simp only
  split
  · exact quiet_of_rest (abandonWaiting_rest _ (teardown_rest hsingle hvoices))
  · refine quiet_of_run ((run_kept (State.takeWaiting_run _ _)).trans hrun) ?_
    exact singleRests_of_spare (takeWaiting_spare s _) hsingle

theorem decideHead_law (kind : SetActionKind) (hrun : s.isRun = true) (hsingle : singleRests s.bridges)
    (hvoices : voicesLawful s) : quietLawful (s.decideHead kind) := by
  refine decideHead_keeps (P := quietLawful) kind (fun a _ _ _ => ?_) (quiet_of_run hrun hsingle)
  refine nextAction_quiet ((run_kept (State.conclude_run _ _ _)).trans hrun)
    (singleRests_of_spare (conclude_spare s a _) hsingle) ?_
  exact (BlockLaws.conclude_lawful (l := .voices) a (staged a s.xm) hvoices).1

theorem requestStop_law (hsingle : singleRests s.bridges) (hrun : s.isRun = true) (hvoices : s.sound.voices.length = 8) :
    quietLawful s.requestStop := by
  unfold State.requestStop State.requestTeardown
  split
  · split
    · exact quiet_of_rest (teardown_rest hsingle hvoices)
    · exact quiet_of_run hrun hsingle
  · next hquiet => simp [State.isRun, hquiet] at hrun

end Sys2Proof.QuietLaws
end

section
/-! PROOFS. Every step keeps the laws of the whole part (R9, R12, R34, R35, R85, R87, R105, R116, R130, R139, R140). -/

namespace Sys2Proof.PartLaws
open Sys2Proof.Machine Sys2Proof.Safety Sys2Proof.Chains Sys2Proof.SetLaws Sys2Proof.FrameLaws Sys2Proof.SingleMode
  Sys2Proof.QuietLaws

variable {s t : State}

/-! ## Every command -/

/-- The run state stays at every command that leaves a bridge not in use, whatever it holds. -/
theorem exec_run {c : Instr} (hc : ¬reachesSpare c = true) (hexec : exec c s = .next t) : t.port.run = s.port.run := by
  cases c <;> try exact absurd rfl hc
  all_goals
    cases hexec
    simp

/-- A part in QUIET under the laws is asleep. -/
theorem asleep_of_lawful (hquiet : s.isRun = false) (h : partLawful s) : asleep s := by
  obtain ⟨⟨-, -, hqueue, hframes⟩, -, hlease, -, hrest⟩ := h
  exact ⟨hquiet, ((quietLawful_iff s).1 hrest).2 hquiet, hlease.2 hquiet, (hframes.1 hquiet).2, hqueue.1 hquiet⟩

theorem exec_awake {c : Instr} (hrun : s.isRun = true) (h : partLawful s) (hexec : exec c s = .next t) : quietLawful t := by
  obtain ⟨⟨hstart, -⟩, hbridges, -, hvoices, hquiet⟩ := h
  have hsingle := ((quietLawful_iff s).1 hquiet).1
  by_cases hc : reachesSpare c = true
  · cases c <;> try exact Bool.noConfusion hc
    case startEnd => cases hexec; exact startEnd_quiet hstart hvoices hquiet
    case startRefused =>
      have hsame : startRefused s = s := by simp only [startRefused, hstart.1 hrun]
      cases hexec
      exact hsame.symm ▸ hquiet
    case teardown =>
      cases hexec
      exact requestStop_law (s := s.registerWrite) (by simpa using hsingle) hrun (by simpa using hvoices.1)
    case softReset => cases hexec; exact quiet_of_rest (rest_kept (restKept_refl State.reset) reset_rest)
    case powerReset => cases hexec; exact quiet_of_rest (rest_kept (restKept_refl State.reset) reset_rest)
    case brownoutReset => cases hexec; exact quiet_of_rest (rest_kept (restKept_refl State.reset) reset_rest)
    case refreshSet =>
      cases hexec
      refine decideHead_law _ ?_ ?_ ?_
      · refine (run_kept ?_).trans hrun
        exact (BlockLaws.handOver_lawful (l := .port s.port.run s.port.start s.port.reset)
          (fun o u hu => BlockLaws.requestRefresh_lawful o hu) (StartLaws.port_self s)).1
      · exact singleRests_of_spare (handOver_spare fun u o => actionArrives_spare u _) hsingle
      · exact BlockLaws.handOver_lawful (l := .voices) (fun o u hu => BlockLaws.requestRefresh_lawful o hu) hvoices
    case invoke => cases hexec; exact decideHead_law _ hrun hsingle hvoices
    case switch => cases hexec; exact decideHead_law _ hrun hsingle hvoices
    case returnSet => cases hexec; exact decideHead_law _ hrun hsingle hvoices
    case clearFaults =>
      cases hexec
      exact quiet_of_run ((run_kept (by simp)).trans hrun) (clearFaults_single hsingle)
    case shortDetection =>
      cases hexec
      exact quiet_of_run ((run_kept (by simp)).trans hrun) (shortDetection_single hbridges hsingle)
  · exact quiet_of_run ((run_kept (exec_run hc hexec)).trans hrun) (singleRests_of_spare (exec_spare hc hexec) hsingle)

theorem exec_quiet {c : Instr} (h : partLawful s) (hexec : exec c s = .next t) : quietLawful t := by
  cases hrun : s.isRun with
  | true => exact exec_awake hrun h hexec
  | false =>
    have hasleep := asleep_of_lawful hrun h
    obtain ⟨⟨hstart, -⟩, hbridges, -, hvoices, hquiet⟩ := h
    by_cases hc : c = .startEnd
    · subst hc
      cases hexec
      exact startEnd_quiet hstart hvoices hquiet
    · exact quiet_of_rest (exec_rest hc hbridges hasleep hexec)

theorem exec_part {c : Instr} (h : partLawful s) (hexec : exec c s = .next t) : partLawful t := by
  have hquiet := exec_quiet h hexec
  obtain ⟨⟨hstart, hchain, hqueue, hframes⟩, hbridges, hlease, hvoices, -⟩ := h
  obtain ⟨hchain', hqueue'⟩ := exec_right hstart (fun hno => (hframes.1 hno).2) ⟨hchain, hqueue⟩ hexec
  have hblock : ∀ l : BlockLaws.Law, l = .bridges ∨ l = .voices → l.holds s → l.holds t := by
    rintro l (rfl | rfl) hl
    · exact BlockLaws.exec_lawful (.inl trivial) (.inl trivial) (fun hno => BlockLaws.Law.noConfusion hno)
        (fun hno => BlockLaws.Law.noConfusion hno) hl hexec
    · exact BlockLaws.exec_lawful (.inl trivial) (.inl trivial) (fun hno => BlockLaws.Law.noConfusion hno)
        (fun hno => BlockLaws.Law.noConfusion hno) hl hexec
  exact ⟨⟨StartLaws.exec_start hstart hexec, hchain', hqueue', exec_frames hstart hframes hexec⟩,
    hblock .bridges (.inl rfl) hbridges, StartLaws.exec_lease hstart hlease hexec, hblock .voices (.inr rfl) hvoices, hquiet⟩

/-! ## The idle step -/

theorem quiet_kept (h : restKept s t) (hrun : t.port.run = s.port.run) (hs : quietLawful s) : quietLawful t := by
  rw [quietLawful_iff] at hs ⊢
  refine ⟨h.1 ▸ hs.1, fun hquiet => rest_kept h (hs.2 ?_)⟩
  exact (run_kept hrun).symm.trans hquiet

theorem startAccess_quiet {j : StartJob} (hstart : startLawful s) (hj : s.port.start = some j) (h : quietLawful s) :
    quietLawful (s.startAccess j) := by
  have hrest := ((quietLawful_iff s).1 h).2 (by simp [State.isRun, (StartLaws.start_alone hstart hj).1])
  refine quiet_of_rest ?_
  have hends : ∀ k : StartJob, atRest ((s.endStage k).1.onPort fun p => { p with start := some (s.endStage k).2 }) :=
    fun k => rest_kept (restKept_refl (s.endStage k).1) (endStage_rest k hrest)
  unfold State.startAccess
  split
  · exact hends j
  · simp only
    split
    · exact hends _
    · exact rest_kept (restKept_refl s) hrest

theorem grantReset_rest (s : State) : restKept s s.grantReset := by
  have hgoes : ∀ (u : State) (todo : List ResetTask), restKept u (u.resetGoesOn todo) := by
    intro u todo
    unfold State.resetGoesOn restKept chargeKept
    split <;> simp
  have haccess : ∀ task : ResetTask, restKept s (s.resetAccess task).1 := by
    intro task
    unfold restKept chargeKept
    cases task <;> simp [State.resetAccess]
  unfold State.grantReset
  split
  · split
    · exact restKept_trans (haccess _) (hgoes _ _)
    · exact restKept_refl s
  · exact restKept_refl s

theorem grantReset_quiet (h : quietLawful s) : quietLawful s.grantReset :=
  quiet_kept (grantReset_rest s) (grantReset_mail s).2 h

theorem grantLoad_quiet (h : quietLawful s) : quietLawful s.grantLoad := quiet_kept (restKept_refl s) rfl h

theorem grantRefresh_quiet (hready : refreshReady s = true) (h : quietLawful s) : quietLawful s.grantRefresh := by
  unfold refreshReady at hready
  obtain ⟨-, hready⟩ := Bool.and_eq_true _ _ ▸ hready
  unfold State.grantRefresh
  split
  · next o ho =>
    rw [ho, Option.any_some, decide_eq_true_eq] at hready
    have hpass : orderRefusal s o.kind = none := by
      unfold readyOrder at ho
      simpa using (Option.filter_eq_some_iff.1 ho).2
    have hrun := run_of_ready (by rw [hready]; decide) hpass
    refine grantLoad_quiet (quiet_of_run ((run_kept (s := s) (by simp)).trans hrun) ?_)
    exact singleRests_of_spare (actionArrives_spare s.dropOrder _) ((quietLawful_iff s).1 h).1
  · exact h

theorem grantOrders_quiet (hstart : startLawful s) (h : quietLawful s) : quietLawful s.grantOrders := by
  unfold State.grantOrders
  split
  · exact grantReset_quiet h
  · split
    · split
      · next j hj => exact startAccess_quiet hstart hj h
      · exact h
    · split
      · exact grantLoad_quiet h
      · split
        · exact quiet_kept (s := s) (restKept_refl s) rfl h
        · split
          · exact grantRefresh_quiet (by assumption) h
          · split
            · exact quiet_kept (s := s) (by simp [restKept, chargeKept]) (by simp) h
            · exact h

theorem grant_quiet (r : Requester) (hstart : startLawful s) (h : quietLawful s) : quietLawful (s.grant r) := by
  cases r with
  | hostPort => exact h
  | orderEngine => exact grantOrders_quiet hstart h
  | statusWriter => exact quiet_kept (s := s) (by simp [State.grant, restKept, chargeKept]) (by simp [State.grant]) h
  | radioWriter =>
    refine quiet_kept (s := s) ?_ (by simp [State.grant]) h
    simp only [State.grant, State.grantRadio]
    split
    · exact restKept_refl s
    · exact restKept_refl s

theorem idle_quiet (hstart : startLawful s) (h : quietLawful s) : quietLawful (idle s) := by
  have hgrants := grants_keeps (s := s.atClock (s.clock + 1)) (P := fun u => startLawful u ∧ quietLawful u)
    (fun u hu => ⟨StartLaws.grantReset_start hu.1, grantReset_quiet hu.2⟩)
    (fun u r hu => ⟨StartLaws.grant_start r hu.1, grant_quiet r hu.1 hu.2⟩) (Config.idleGrants s.free) ⟨hstart, h⟩
  exact hgrants.2

theorem idle_part (h : partLawful s) : partLawful (idle s) := by
  obtain ⟨⟨hstart, hchain, hqueue, hframes⟩, hbridges, hlease, hvoices, hquiet⟩ := h
  obtain ⟨hchain', hqueue'⟩ := idle_right ⟨hchain, hqueue⟩
  exact ⟨⟨StartLaws.idle_start hstart, hchain', hqueue', idle_frames hframes⟩,
    BlockLaws.idle_lawful (l := .bridges) trivial hbridges,
    StartLaws.idle_lease hlease, BlockLaws.idle_lawful (l := .voices) trivial hvoices, idle_quiet hstart hquiet⟩

/-! ## Every step -/

/-- Settles O58, from the laws of the blocks, each kept by every command and by the idle step under the laws of all. -/
theorem everyStepKeepsThePartLaws : Obligations.EveryStepKeepsThePartLaws := fun s t h hstep =>
  step_keeps partLawful (fun _ _ h => h) (fun _ => idle_part) (fun _ _ _ => exec_part) s t h hstep

end Sys2Proof.PartLaws
end
